-- ==== Sys2Proof/Word.lean ====
section
/-! DEFINITION. The word types of the HK8 and their plainest arithmetic (00_scope.md R8: bit 0 is least significant;
02_daxdex_form.md R37: everything is little-endian). -/
namespace Sys2Proof

/-- One byte of memory. -/
abbrev Byte := BitVec 8
/-- One 32-bit instruction word of a Daxdex module (R56). -/
abbrev Word := BitVec 32
/-- A mask of the 32 lanes of a wave, bit L for lane L (R26, R239). -/
abbrev Mask := BitVec 32
/-- A 64-bit quantity: an address, a system register, a counter. -/
abbrev Dword := BitVec 64
/-- The bits of one value of one lane. The widest type of R62 is four 64-bit elements; a narrower value has zero above. -/
abbrev Val := BitVec 256

/-- The 32 lanes of a wave (R26). -/
def laneCount : Nat := 32

/-- The natural number that little-endian bytes spell (R37). -/
def natOfBytes : List Byte → Nat
  | [] => 0
  | b :: bs => b.toNat + 256 * natOfBytes bs

/-- The `n` little-endian bytes of a number (R37). -/
def bytesOfNat : Nat → Nat → List Byte
  | 0, _ => []
  | n + 1, v => BitVec.ofNat 8 v :: bytesOfNat n (v / 256)

theorem bytesOfNat_length (n v : Nat) : (bytesOfNat n v).length = n := by
  induction n generalizing v with
  | zero => rfl
  | succ n ih => simp [bytesOfNat, ih]

end Sys2Proof
end

