-- ==== Sys2Proof/Syntax.lean ====
section
/-! DEFINITION. The abstract syntax of the HK8: the types, modifiers and operands of 02_daxdex_form.md, and `Instr`, the
ONE inductive with a constructor for every row of spec/opcode_table.json: the 197 portable Daxdex instructions, the 8
native-only operations of 03_tvedah_native.md, and the 122 machine events (the steps that are no instruction of a program). -/
namespace Sys2Proof

/-- The sixteen element codes of R62, in code order. -/
inductive Elem where
  | b1 | i8 | i16 | i32 | i64 | n8 | n16 | n32 | n64 | a64 | f64 | f32 | f16 | bf16 | e4m3 | e5m2
  deriving DecidableEq, Repr, Inhabited

/-- The three numeric shapes of R62: scalar (00), two-element (10) and four-element (11). -/
inductive Shape where
  | s1 | s2 | s4
  deriving DecidableEq, Repr, Inhabited

/-- The type codes of R62: a numeric shape of an element, or one of the special types of shape 01. -/
inductive Ty where
  | num (sh : Shape) (e : Elem)
  | e8m0 | mxi8 | mxi6 | mxi4 | frag | name | none
  deriving DecidableEq, Repr, Inhabited

/-- RND codes of R64; codes 6 and 7 are rejected at decode. -/
inductive Rnd where
  | rne | rtz | rup | rdn | rna | rsto
  deriving DecidableEq, Repr, Inhabited

/-- ORD codes of R64. -/
inductive Ord where
  | relaxed | acquire | release | seqCst
  deriving DecidableEq, Repr, Inhabited

/-- EVICT codes of R64; codes 6 and 7 are rejected at decode. -/
inductive Evict where
  | dflt | stream | sticky | bypass | unstick | lastuse
  deriving DecidableEq, Repr, Inhabited

/-- SPACE codes of R64 and R232; code 7 is rejected at decode. Code 2 is the thread's own word space. -/
inductive Space where
  | global | spad | priv | ca | regb | tcache | mconst
  deriving DecidableEq, Repr, Inhabited

/-- The floating-point modifier class of R63, but for the per-instruction bits [11:6]. -/
structure FMod where
  rnd : Rnd
  sat : Bool
  ftzi : Bool
  ftzo : Bool
  deriving DecidableEq, Repr, Inhabited

/-- The memory and atomics modifier class of R63. `scope` is the SCOPE code 0-7 of R64. -/
structure MMod where
  ord : Ord
  scope : BitVec 3
  evict : Evict
  space : Space
  reassoc : Bool
  deriving DecidableEq, Repr, Inhabited

/-- Integer compare codes of R169. -/
inductive Cmp where
  | eq | ne | lt | le | gt | ge | ltu | leu | gtu | geu
  deriving DecidableEq, Repr, Inhabited

/-- Floating compare codes of R197. -/
inductive FCmp where
  | eq | ne | lt | le | gt | ge | ord | uno
  deriving DecidableEq, Repr, Inhabited

/-- The op codes of lred and lscan (R215). -/
inductive LaneOp where
  | add | min | max | and | or | xor | fadd | fmin | fmax
  deriving DecidableEq, Repr, Inhabited

/-- The output formats of spsoftmax (R215). -/
inductive OutFmt where
  | of32 | obf16 | of16
  deriving DecidableEq, Repr, Inhabited

/-- The literal sizes of R58: 32, 64, 128 and 256 bits. -/
inductive LitSize where
  | l32 | l64 | l128 | l256
  deriving DecidableEq, Repr, Inhabited

/-- An operand word of kind 00 (value), 01 (immediate) or 11 (literal) of R58. -/
inductive Opnd where
  | val (n : BitVec 30)
  | imm (v : BitVec 30)
  | lit (sz : LitSize) (v : Val)
  deriving DecidableEq, Repr, Inhabited

/-- A block operand (kind 10 of R58) with its argument words. -/
structure Target where
  blk : BitVec 30
  args : List Opnd
  deriving DecidableEq, Repr, Inhabited

/-- One constructor per row of spec/opcode_table.json. Portable instructions carry what their words carry (TYPE where it
varies, modifier, operands; immediate-only operands as the 30-bit payload); native-only operations carry the fields of
their slot word; events carry the numbers that say which wave, die, unit or message the event is about. -/
inductive Instr where
  -- Portable instructions with operands (the runtime of Lean numbers at most 244 constructors that carry fields, so the portable
  -- instructions and the events that the machine makes due stand first, and the rows without fields last)
  -- Control and linkage (04_control.md)
  | br (t : Target)
  | brc (c : Opnd) (t f : Target)
  | brsw (ty : Ty) (s : Opnd) (d : Target) (cases : List Target)
  | call (fidx : BitVec 30) (args : List Opnd)
  | callx (sidx : BitVec 30) (addr : Opnd) (args : List Opnd)
  | calll (lidx : BitVec 30) (args : List Opnd)
  | tcall (fidx : BitVec 30) (args : List Opnd)
  | tcallx (sidx : BitVec 30) (addr : Opnd) (args : List Opnd)
  | ret (vs : List Opnd)
  | rjenrol (k : BitVec 30)
  | rjwait (k : BitVec 30)
  | rjstrike (k : BitVec 30)
  | rjmask (k : BitVec 30)
  | lpbeg (k : BitVec 30)
  | lpend (k : BitVec 30)
  | lpidx (ty : Ty) (k : BitVec 30)
  | fnaddr (fidx : BitVec 30)
  | lnkaddr (lidx : BitVec 30)
  -- Integer and address (05_integer.md)
  | add (ty : Ty) (a b : Opnd)
  | sub (ty : Ty) (a b : Opnd)
  | mul (ty : Ty) (a b : Opnd)
  | mulhi (ty : Ty) (a b : Opnd)
  | mad (ty : Ty) (a b c : Opnd)
  | div (ty : Ty) (a b : Opnd)
  | rem (ty : Ty) (a b : Opnd)
  | neg (ty : Ty) (a : Opnd)
  | abs (ty : Ty) (a : Opnd)
  | min (ty : Ty) (a b : Opnd)
  | max (ty : Ty) (a b : Opnd)
  | addsat (ty : Ty) (a b : Opnd)
  | subsat (ty : Ty) (a b : Opnd)
  | addc (ty : Ty) (a b cin : Opnd)
  | subb (ty : Ty) (a b bin : Opnd)
  | and (ty : Ty) (a b : Opnd)
  | or (ty : Ty) (a b : Opnd)
  | xor (ty : Ty) (a b : Opnd)
  | not (ty : Ty) (a : Opnd)
  | andn (ty : Ty) (a b : Opnd)
  | shl (ty : Ty) (a n : Opnd)
  | shr (ty : Ty) (a n : Opnd)
  | sra (ty : Ty) (a n : Opnd)
  | rotl (ty : Ty) (a n : Opnd)
  | rotr (ty : Ty) (a n : Opnd)
  | clz (ty : Ty) (a : Opnd)
  | ctz (ty : Ty) (a : Opnd)
  | popc (ty : Ty) (a : Opnd)
  | brev (ty : Ty) (a : Opnd)
  | bswap (ty : Ty) (a : Opnd)
  | bfx (ty : Ty) (a off width : Opnd)
  | bfi (ty : Ty) (a ins off width : Opnd)
  | cmp (ty : Ty) (code : Cmp) (a b : Opnd)
  | sel (ty : Ty) (c a b : Opnd)
  | zext (ty : Ty) (a : Opnd)
  | sext (ty : Ty) (a : Opnd)
  | trunc (ty : Ty) (a : Opnd)
  | lea (shift : BitVec 3) (base idx disp : Opnd)
  | const (ty : Ty) (v : Opnd)
  | sreg (ty : Ty) (code : BitVec 30)
  -- Floating point and formats (06_float_formats.md)
  | fadd (ty : Ty) (m : FMod) (a b : Opnd)
  | fsub (ty : Ty) (m : FMod) (a b : Opnd)
  | fmul (ty : Ty) (m : FMod) (a b : Opnd)
  | fma (ty : Ty) (m : FMod) (a b c : Opnd)
  | fdiv (ty : Ty) (m : FMod) (a b : Opnd)
  | fsqrt (ty : Ty) (m : FMod) (a : Opnd)
  | frsqrt (ty : Ty) (m : FMod) (a : Opnd)
  | frcp (ty : Ty) (m : FMod) (a : Opnd)
  | fmin (ty : Ty) (ftzi : Bool) (a b : Opnd)
  | fmax (ty : Ty) (ftzi : Bool) (a b : Opnd)
  | fabs (ty : Ty) (a : Opnd)
  | fneg (ty : Ty) (a : Opnd)
  | fcpsgn (ty : Ty) (a b : Opnd)
  | fcmp (ty : Ty) (ftzi : Bool) (code : FCmp) (a b : Opnd)
  | fclass (ty : Ty) (ftzi : Bool) (a : Opnd)
  | frint (ty : Ty) (rnd : Rnd) (ftzi : Bool) (a : Opnd)
  | fscale (ty : Ty) (m : FMod) (a n : Opnd)
  | fexp2 (ty : Ty) (m : FMod) (a : Opnd)
  | flog2 (ty : Ty) (m : FMod) (a : Opnd)
  | fsin (ty : Ty) (m : FMod) (a : Opnd)
  | fcos (ty : Ty) (m : FMod) (a : Opnd)
  | fsincos (ty : Ty) (m : FMod) (a : Opnd)
  | ftanh (ty : Ty) (m : FMod) (a : Opnd)
  | fsigm (ty : Ty) (m : FMod) (a : Opnd)
  | fcvt (ty : Ty) (m : FMod) (a : Opnd)
  | ftoi (ty : Ty) (rnd : Rnd) (ftzi : Bool) (a : Opnd)
  | itof (ty : Ty) (rnd : Rnd) (sat : Bool) (a : Opnd)
  | fpack2 (ty : Ty) (m : FMod) (a b : Opnd)
  | funpack2 (ftzi : Bool) (a : Opnd)
  | mxq (ty : Ty) (rnd : Rnd) (ftzi : Bool) (x : Opnd)
  | mxdq (ty : Ty) (rnd : Rnd) (sat ftzo : Bool) (e s : Opnd)
  | fsflag (mask : Opnd)
  -- Lanes and spans (07_lanes_spans.md)
  | lswap (ty : Ty) (a : Opnd) (m : BitVec 30)
  | lshfl (ty : Ty) (a idx : Opnd)
  | lbcast (ty : Ty) (a src : Opnd)
  | lrot (ty : Ty) (a n : Opnd)
  | lvote (c : Opnd)
  | lany (c : Opnd)
  | lall (c : Opnd)
  | lred (ty : Ty) (op : LaneOp) (a : Opnd)
  | lscan (ty : Ty) (op : LaneOp) (excl : Bool) (a : Opnd)
  | lfirst (c : Opnd)
  | lmatch (a : Opnd)
  | rng (ty : Ty) (s i : Opnd)
  | spmax (ty : Ty) (base n : Opnd)
  | spsoftmax (ty : Ty) (out : OutFmt) (base dst n tau : Opnd)
  | sptopk (ty : Ty) (base dst n k : Opnd)
  | spsample (ty : Ty) (base n s i : Opnd)
  | spargmax (ty : Ty) (base n : Opnd)
  | spsum (ty : Ty) (base n : Opnd)
  -- Memory access (08_memory.md)
  | ld (ty : Ty) (m : MMod) (a : Opnd)
  | st (ty : Ty) (m : MMod) (a v : Opnd)
  | ldv (ty : Ty) (m : MMod) (base : Opnd)
  | stv (ty : Ty) (m : MMod) (base v : Opnd)
  | ldblk (m : MMod) (off src len : Opnd)
  | stblk (m : MMod) (dst off len : Opnd)
  | prefetch (m : MMod) (a : Opnd)
  | wbline (w : Opnd)
  | invline (space : Space) (a : Opnd)
  | zline (m : MMod) (a : Opnd)
  | spq (off len : Opnd)
  | pvbase (w : Opnd)
  -- Ordering and synchronisation (09_ordering.md)
  | fence (ord : Ord) (scope : BitVec 3)
  | barinit (scope : BitVec 3) (space : Space) (base expa : Opnd)
  | bararr (scope : BitVec 3) (space : Space) (base cnt : Opnd)
  | barwait (scope : BitVec 3) (space : Space) (base tok : Opnd)
  | barsync (scope : BitVec 3) (space : Space) (base : Opnd)
  | barexp (scope : BitVec 3) (space : Space) (base bytes : Opnd)
  | bartest (scope : BitVec 3) (space : Space) (base tok : Opnd)
  | waitval (ty : Ty) (m : MMod) (a v : Opnd) (cond : BitVec 30)
  | sleep (t : Opnd)
  | wake (w : Opnd)
  -- Atomics (10_atomics.md)
  | atomadd (ty : Ty) (m : MMod) (a v : Opnd)
  | atomfadd (ty : Ty) (m : MMod) (a v : Opnd)
  | atomand (ty : Ty) (m : MMod) (a v : Opnd)
  | atomor (ty : Ty) (m : MMod) (a v : Opnd)
  | atomxor (ty : Ty) (m : MMod) (a v : Opnd)
  | atommin (ty : Ty) (m : MMod) (a v : Opnd)
  | atommax (ty : Ty) (m : MMod) (a v : Opnd)
  | atomfmin (ty : Ty) (m : MMod) (a v : Opnd)
  | atomfmax (ty : Ty) (m : MMod) (a v : Opnd)
  | atominc (ty : Ty) (m : MMod) (a v : Opnd)
  | atomdec (ty : Ty) (m : MMod) (a v : Opnd)
  | atomxchg (ty : Ty) (m : MMod) (a v : Opnd)
  | atomcas (ty : Ty) (m : MMod) (a cmp new : Opnd)
  | atomcas2 (ty : Ty) (m : MMod) (a cmp new : Opnd)
  | red (ty : Ty) (m : MMod) (op : BitVec 30) (a v : Opnd)
  | redf (ty : Ty) (m : MMod) (op : BitVec 30) (a v : Opnd)
  -- Matrix (11_matrix.md)
  | mma (aFmt bFmt : Elem) (afrag sat : Bool) (c a b k : Opnd)
  | mmamx (aFmt bFmt : Ty) (c a b k : Opnd)
  | mld (m : MMod) (addr pitch : Opnd) (fmt : BitVec 30)
  | mst (m : MMod) (addr pitch t : Opnd) (fmt : BitVec 30) (amax : Opnd)
  | mwait (t : Opnd)
  | mdesc (base rpitch tpitch rot sbase srpitch : Opnd)
  | mtrans (t : Opnd)
  | mquery (code : BitVec 30)
  -- Asynchronous engines (12_async_engines.md)
  | engbind (ctl cbase ncmd crbase ncpl : Opnd)
  | engunbind (h : Opnd)
  | cmpwait (h target : Opnd)
  | cmpnext (h done : Opnd)
  | engstat (h : Opnd) (code : BitVec 30)
  -- Content-addressed (13_content_addressed.md)
  | caput (spadSrc : Bool) (rb src : Opnd)
  | caget (rb x : Opnd)
  | caref (rb x k : Opnd)
  | cadrop (rb x k : Opnd)
  | caswap (rb slot expect new : Opnd)
  | cawalk (rb root off : Opnd)
  | castat (rb x : Opnd) (code : BitVec 30)
  | canode (rb hdr c0 c1 c2 c3 c4 c5 c6 : Opnd)
  -- Tasks (14_tasks_placement.md)
  | tasknew (rec : Opnd)
  | taskdep (pred succ : Opnd)
  | taskarm (t n : Opnd)
  | gangid (code : BitVec 30)
  | prio (set : Bool) (p : Opnd)
  | estim (e : Opnd)
  -- Determinism (15_determinism.md)
  | dcount (code : BitVec 30)
  | dseq (init : Bool) (die region n : Opnd)
  -- System and trap (16_traps_preemption.md)
  | trap (code : Opnd)
  | brk (id : BitVec 30)
  | assert (c : Opnd) (code : Opnd)
  | sysrd (code : BitVec 30)
  | syswr (code : BitVec 30) (v : Opnd)
  | contset (fn arg : Opnd)
  | contsig (tok : Opnd)
  | ckpt (mode : BitVec 30) (desc : Opnd)
  | tlbinv (kind : BitVec 30) (va : Opnd)
  | tcinv (h f : Opnd)
  | evtsig (code : Opnd)
  -- Events that the state of the machine makes due
  -- Lanes and spans (07_lanes_spans.md)
  /-- Event (R231): the running span instruction of wave `w` finishes. -/
  | spanComplete (w : Nat)
  -- Memory access (08_memory.md)
  /-- Event (R258): line `line` of block copy `id` is written. -/
  | blockCopyLineDone (id line : Nat)
  -- Ordering and synchronisation (09_ordering.md)
  /-- Event (R285): the parked barrier waits of wave `w` re-read PHASE. -/
  | barrierWaitRelease (w : Nat)
  /-- Event (R286): the parked waitvals of wave `w` re-read their locations. -/
  | waitvalReread (w : Nat)
  /-- Event (R287): the timed sleeps of wave `w` that are due end. -/
  | sleepTimeout (w : Nat)
  -- Atomics (10_atomics.md)
  /-- Event (R301): the oldest round of window `n` at offset `off` is complete and applied. -/
  | reductionRoundComplete (n off : Nat)
  /-- Event (R302): the oldest round of window `n` at offset `off` times out. -/
  | reductionRoundTimeout (n off : Nat)
  -- Matrix (11_matrix.md)
  /-- Event (R309): the quern of die `d`, cluster `c`, number `q` accepts the operation that wave `w` offers. -/
  | quernAccept (d c q w : Nat)
  /-- Event (R308): the oldest operation of quern `q` of die `d`, cluster `c` completes. -/
  | quernOpComplete (d c q : Nat)
  -- Asynchronous engines (12_async_engines.md)
  /-- Event (R330): the leat fetches what binding `b` has published. -/
  | notifyFetch (b : Nat)
  /-- Event (R331): the leat begins the next fetched command of binding `b`. -/
  | commandBegin (b : Nat)
  /-- The engine commands of R332-R335, R339, R340, performed for the in-flight command `id`. -/
  | copy (id : Nat)
  | copyNd (id : Nat)
  | gather (id : Nat)
  | scatter (id : Nat)
  | engineFill (id : Nat)
  | rcopy (id : Nat)
  | caout (id : Nat)
  /-- Event (R337): the oldest begun command of binding `b`, if finished, completes. -/
  | commandComplete (b : Nat)
  /-- Event (R339): the vault controller `v` of die `d` applies the part of region `r` whose SEQ equals EXP. -/
  | vaultPartApply (d v r : Nat)
  /-- Event (R339): a part of region `r` at vault `v` of die `d` has waited 2^24 cycles. -/
  | sequenceGapTimeout (d v r : Nat)
  -- Content-addressed (13_content_addressed.md)
  /-- Event (R353): the engine of region slot `n` performs its next queued drop. -/
  | backgroundDrop (n : Nat)
  /-- Event (R353): the engine of region slot `n` retries the drop at the head of its queue. -/
  | backgroundDropRetry (n : Nat)
  | regionInitDone (n : Nat)
  -- Tasks (14_tasks_placement.md)
  /-- Event (R382): one scan of the scheduler of die `d`. -/
  | workgroupAdmit (d : Nat)
  /-- Event (R383): the task in entry `t` of the task list has waited past PSTALL. -/
  | placementStalled (t : Nat)
  /-- Event (R386): the scheduler of die `d` decides about pre-emption for task `t`. -/
  | preemptDecide (d t : Nat)
  -- Determinism (15_determinism.md)
  /-- Event (R405): every lane of the gang of wave `w` is parked at a dmerge or exited. -/
  | gangFold (w : Nat)
  -- Issue, landing and translation events
  | landing (w : Nat)
  | starvationPrimary (d core : Nat)
  | groupOfferRotate (w : Nat)
  | throttlePrimary (d core : Nat)
  | translationMiss (w : Nat)
  | translationComplete (d n : Nat)
  | waveMigrate (w : Nat)
  -- Memory-system events (08_memory.md)
  | waveUnparkPresence (w : Nat)
  | remoteWriteCheck (id : Nat)
  | negativeAckArrival (id : Nat)
  | rdcInvalidation (d id : Nat)
  | homeWritePerform (id : Nat)
  | rdcFillArrival (d line : Nat)
  -- Fabric messages (R488) and flits (R487, R489, R490)
  | fabricRead (port : Nat)
  | fabricReadData (port : Nat)
  | fabricWrite (port : Nat)
  | fabricAtomic (port : Nat)
  | fabricAtomicData (port : Nat)
  | fabricWriteAck (port : Nat)
  | fabricNegativeAck (port : Nat)
  | fabricContribution (port : Nat)
  | flitReplayTimeout (port : Nat)
  -- Notice ring, WCTL, cuts, context switch (16_traps_preemption.md)
  | noticeRingDrain (ctx : Nat)
  | cutReport (w : Nat)
  | cutStop (w : Nat)
  | contextSave (g : Nat)
  | contextRestore (g : Nat)
  -- Checkpoint (17_checkpoint.md)
  | copyPendingWrite (id : Nat)
  -- Host interface (18_power_package_trust.md R483-R486, 09_ordering.md R275)
  | moduleLeave (h : Nat)
  | emptyTurn (w : Nat)
  -- Native-only operations and the other events
  -- Control and linkage (04_control.md)
  /-- Event (R157): four cycles after a yield the wave `w` offers candidates again. -/
  | yieldHoldEnd (w : Nat)
  -- Content-addressed (13_content_addressed.md)
  /-- Events (R347): a write of `v` to CARCn that sets, or clears, EN. -/
  | regionEnable (n : Nat) (v : Dword)
  | regionDisable (n : Nat) (v : Dword)
  -- Tasks (14_tasks_placement.md)
  /-- Event (R384): die `d` samples its vault sensors, in 1/16 degC. -/
  | vaultTempSample (d : Nat) (temps : List Nat)
  /-- Event (R388): the fantail gates cluster `c` of die `d`. -/
  | clusterGate (d c : Nat)
  -- Native-only operations (03_tvedah_native.md R96-R101): register numbers of R86
  | mov (dst sa : BitVec 10) (hi : Bool) (lit : Option Word)
  | spill (sa imm : BitVec 10) (callee : Bool)
  | fill (dst imm : BitVec 10) (callee : Bool) (land : BitVec 10)
  | fmtset (dst : BitVec 10) (lit : Word)
  | kmov (dst sa : BitVec 10)
  | qmov (dst sa : BitVec 10)
  -- Memory-system events (08_memory.md)
  | pageWalk (d ctx : Nat) (va : Dword) (write : Bool)
  | fabricInboundAccess (d : Nat) (sfdn : BitVec 8) (write : Bool) (dpa len : Nat)
  -- Fabric messages (R488) and flits (R487, R489, R490)
  | dataFlit (port : Nat) (bytes : List Byte)
  | flitAcknowledge (port : Nat) (seq : Dword)
  | flitNegativeAck (port : Nat) (seq : Dword)
  | epochRetired (port : Nat) (seq : Dword)
  | idleFlit (port : Nat)
  | keyRollover (port : Nat)
  -- Notice ring, WCTL, cuts, context switch (16_traps_preemption.md)
  | wctlResume (ctx : Nat)
  | wctlSignal (ctx : Nat)
  | wctlAbort (ctx : Nat)
  -- Power, soft errors, trust die (18_power_package_trust.md)
  | powerWindow (d core : Nat) (mask : BitVec 6) (ratio : BitVec 24)
  | droopDetect (d : Nat)
  | correctedError (unit : Nat) (addr : Nat)
  | scrubRead (d line : Nat)
  | vaultFailure (d v : Nat)
  | finish (session : Nat)
  | keyUpdate (session : Nat)
  | heartbeat (session : Nat)
  | endSession (session : Nat)
  | provisionRegionKey (session slot : Nat)
  | editModuleKeyList (session : Nat) (add : Bool) (key : Val)
  | editCheckpointKeyList (session : Nat) (add : Bool) (key : Val)
  | rekey (session : Nat) (kss : BitVec 512)
  | ideKm (session stream : Nat)
  -- Host interface (18_power_package_trust.md R483-R486, 09_ordering.md R275)
  | hostWrite (va : Dword) (bytes : List Byte)
  | hostRead (va : Dword) (n : Nat)
  | loadRequest (level : Bool)
  | plimWrite (v : Dword)
  | fgcWrite (d n : Nat) (v : Dword)
  | rdwcWrite (n : Nat) (v : Dword)
  | nrlostRead (ctx : Nat)
  | tflostRead (ctx : Nat)
  | tmisscntRead (d : Nat)
  | retrcntRead (d : Nat)
  | sysregWrite (copy code : Nat) (v : Dword)
  -- Rows with no operand
  -- Control and linkage (04_control.md)
  | exit
  | unreach
  | yield
  -- Ordering and synchronisation (09_ordering.md)
  | drain
  | opfence
  -- Matrix (11_matrix.md)
  | mzero
  -- Tasks (14_tasks_placement.md)
  | taskid
  -- Determinism (15_determinism.md)
  | dmerge
  | dmode
  -- System and trap (16_traps_preemption.md)
  | contret
  | halt
  -- Native-only operations (03_tvedah_native.md R96-R101): register numbers of R86
  | nop
  | land
  -- Notice ring, WCTL, cuts, context switch (16_traps_preemption.md)
  | cutRequest
  | cutRelease
  | cutTimeout
  -- Checkpoint (17_checkpoint.md)
  | ckptCapture
  | ckptRestore
  -- Power, soft errors, trust die (18_power_package_trust.md)
  | packageReset
  | firmwareUpdate
  | getVersion
  | getCapabilities
  | negotiateAlgorithms
  | getDigests
  | getCertificate
  | challenge
  | getMeasurements
  | keyExchange
  -- Host interface (18_power_package_trust.md R483-R486, 09_ordering.md R275)
  | unloadRequest
  | loaderServe
  | lazyResolve
  | taskPortCreate
  | taskPortCreateArm
  | haltResume
  | emptyBundle
  | powerLoss
  deriving DecidableEq, Repr, Inhabited

end Sys2Proof
end

