-- ==== Sys2Proof/Decode.lean ====
section
/-! DEFINITION. The encoding of 02_daxdex_form.md (R56-R67) and the per-class encoding tables (R139-R157, R159-R174,
R189-R191, R213-R215, R253-R254, R280-R281, R290-R292, R315-R316, R343, R361-R362, R390, R409, R439): codes, the raw form
of an instruction, its words, the table of the 197 opcodes, the check of one instruction (R71 step 8, first pass) with the
load status it fails with, the decoder, and the encoder. -/
namespace Sys2Proof

/-! ## Codes -/

/-- Element codes of R62. -/
def Elem.code : Elem → Nat
  | .b1 => 0 | .i8 => 1 | .i16 => 2 | .i32 => 3 | .i64 => 4 | .n8 => 5 | .n16 => 6 | .n32 => 7
  | .n64 => 8 | .a64 => 9 | .f64 => 10 | .f32 => 11 | .f16 => 12 | .bf16 => 13 | .e4m3 => 14 | .e5m2 => 15

def Elem.ofCode : Nat → Elem
  | 0 => .b1 | 1 => .i8 | 2 => .i16 | 3 => .i32 | 4 => .i64 | 5 => .n8 | 6 => .n16 | 7 => .n32
  | 8 => .n64 | 9 => .a64 | 10 => .f64 | 11 => .f32 | 12 => .f16 | 13 => .bf16 | 14 => .e4m3 | _ => .e5m2

/-- Element widths in bits (R62). -/
def Elem.width : Elem → Nat
  | .b1 => 1 | .i8 => 8 | .i16 => 16 | .i32 => 32 | .i64 => 64 | .n8 => 8 | .n16 => 16 | .n32 => 32
  | .n64 => 64 | .a64 => 64 | .f64 => 64 | .f32 => 32 | .f16 => 16 | .bf16 => 16 | .e4m3 => 8 | .e5m2 => 8

/-- i elements are signed (R161). -/
def Elem.signed : Elem → Bool
  | .i8 | .i16 | .i32 | .i64 => true
  | _ => false

/-- The element codes i8-i64 and n8-n64. -/
def Elem.isInt : Elem → Bool
  | .i8 | .i16 | .i32 | .i64 | .n8 | .n16 | .n32 | .n64 => true
  | _ => false

/-- f64, f32, f16 and bf16. -/
def Elem.isF : Elem → Bool
  | .f64 | .f32 | .f16 | .bf16 => true
  | _ => false

/-- e4m3 and e5m2. -/
def Elem.isF8 : Elem → Bool
  | .e4m3 | .e5m2 => true
  | _ => false

def Shape.lanes : Shape → Nat
  | .s1 => 1 | .s2 => 2 | .s4 => 4

/-- The full type code TYPE[5:0] of R62. -/
def Ty.code : Ty → Nat
  | .num .s1 e => e.code
  | .num .s2 e => 32 + e.code
  | .num .s4 e => 48 + e.code
  | .e8m0 => 16 | .mxi8 => 17 | .mxi6 => 18 | .mxi4 => 19 | .frag => 20 | .name => 21 | .none => 31

/-- The type of a code; special codes 6-14 are rejected (R62, status 0x23). -/
def Ty.ofCode (c : Nat) : Option Ty :=
  if c < 16 then some (.num .s1 (.ofCode c))
  else if c < 32 then
    match c with
    | 16 => some .e8m0 | 17 => some .mxi8 | 18 => some .mxi6 | 19 => some .mxi4
    | 20 => some .frag | 21 => some .name | 31 => some .none | _ => Option.none
  else if c < 48 then some (.num .s2 (.ofCode (c - 32)))
  else if c < 64 then some (.num .s4 (.ofCode (c - 48)))
  else Option.none

/-- Width in bits (R62). The opaque frag and the absent type have none. -/
def Ty.width : Ty → Nat
  | .num sh e => sh.lanes * e.width
  | .e8m0 => 8 | .mxi8 => 8 | .mxi6 => 6 | .mxi4 => 4 | .name => 128 | .frag => 0 | .none => 0

/-- Bytes of a type in memory (R253): the width in bytes. -/
def Ty.bytes (t : Ty) : Nat := (t.width + 7) / 8

def Rnd.code : Rnd → Nat
  | .rne => 0 | .rtz => 1 | .rup => 2 | .rdn => 3 | .rna => 4 | .rsto => 5
def Rnd.ofCode : Nat → Rnd
  | 0 => .rne | 1 => .rtz | 2 => .rup | 3 => .rdn | 4 => .rna | _ => .rsto
def Ord.code : Ord → Nat
  | .relaxed => 0 | .acquire => 1 | .release => 2 | .seqCst => 3
def Ord.ofCode : Nat → Ord
  | 0 => .relaxed | 1 => .acquire | 2 => .release | _ => .seqCst
def Evict.code : Evict → Nat
  | .dflt => 0 | .stream => 1 | .sticky => 2 | .bypass => 3 | .unstick => 4 | .lastuse => 5
def Evict.ofCode : Nat → Evict
  | 0 => .dflt | 1 => .stream | 2 => .sticky | 3 => .bypass | 4 => .unstick | _ => .lastuse
def Space.code : Space → Nat
  | .global => 0 | .spad => 1 | .priv => 2 | .ca => 3 | .regb => 4 | .tcache => 5 | .mconst => 6
def Space.ofCode : Nat → Space
  | 0 => .global | 1 => .spad | 2 => .priv | 3 => .ca | 4 => .regb | 5 => .tcache | _ => .mconst
def Cmp.code : Cmp → Nat
  | .eq => 0 | .ne => 1 | .lt => 2 | .le => 3 | .gt => 4 | .ge => 5 | .ltu => 6 | .leu => 7 | .gtu => 8 | .geu => 9
def Cmp.ofCode : Nat → Cmp
  | 0 => .eq | 1 => .ne | 2 => .lt | 3 => .le | 4 => .gt | 5 => .ge | 6 => .ltu | 7 => .leu | 8 => .gtu | _ => .geu
def FCmp.code : FCmp → Nat
  | .eq => 0 | .ne => 1 | .lt => 2 | .le => 3 | .gt => 4 | .ge => 5 | .ord => 6 | .uno => 7
def FCmp.ofCode : Nat → FCmp
  | 0 => .eq | 1 => .ne | 2 => .lt | 3 => .le | 4 => .gt | 5 => .ge | 6 => .ord | _ => .uno
def LaneOp.code : LaneOp → Nat
  | .add => 0 | .min => 1 | .max => 2 | .and => 3 | .or => 4 | .xor => 5 | .fadd => 6 | .fmin => 7 | .fmax => 8
def LaneOp.ofCode : Nat → LaneOp
  | 0 => .add | 1 => .min | 2 => .max | 3 => .and | 4 => .or | 5 => .xor | 6 => .fadd | 7 => .fmin | _ => .fmax
/-- Ops 6-8 are the float ops of R215. -/
def LaneOp.isFloat : LaneOp → Bool
  | .fadd | .fmin | .fmax => true
  | _ => false
def OutFmt.code : OutFmt → Nat
  | .of32 => 0 | .obf16 => 1 | .of16 => 2
def OutFmt.ofCode : Nat → OutFmt
  | 0 => .of32 | 1 => .obf16 | _ => .of16
def LitSize.code : LitSize → Nat
  | .l32 => 0 | .l64 => 1 | .l128 => 2 | .l256 => 3
def LitSize.ofCode : Nat → LitSize
  | 0 => .l32 | 1 => .l64 | 2 => .l128 | _ => .l256
/-- Words of a literal after its operand word (R58). -/
def LitSize.words : LitSize → Nat
  | .l32 => 1 | .l64 => 2 | .l128 => 4 | .l256 => 8
/-- The literal size of an operand width (R60). -/
def LitSize.ofWidth (w : Nat) : LitSize :=
  if w ≤ 32 then .l32 else if w ≤ 64 then .l64 else if w ≤ 128 then .l128 else .l256

def bitOf (b : Bool) : Nat := if b then 1 else 0

/-- Field [lo+w-1:lo] of a number. -/
def field (m lo w : Nat) : Nat := m / 2 ^ lo % 2 ^ w

/-- MOD of the floating-point class (R63). -/
def FMod.code (m : FMod) : Nat := m.rnd.code + 8 * bitOf m.sat + 16 * bitOf m.ftzi + 32 * bitOf m.ftzo
def FMod.ofCode (m : Nat) : FMod :=
  { rnd := .ofCode (field m 0 3), sat := field m 3 1 == 1, ftzi := field m 4 1 == 1, ftzo := field m 5 1 == 1 }
/-- MOD of the memory and atomics class (R63). -/
def MMod.code (m : MMod) : Nat :=
  m.ord.code + 4 * m.scope.toNat + 32 * m.evict.code + 256 * m.space.code + 2048 * bitOf m.reassoc
def MMod.ofCode (m : Nat) : MMod :=
  { ord := .ofCode (field m 0 2), scope := BitVec.ofNat 3 (field m 2 3), evict := .ofCode (field m 5 3),
    space := .ofCode (field m 8 3), reassoc := field m 11 1 == 1 }

/-! ## The raw form and the words -/

/-- An operand as its words spell it (R58). -/
inductive RawOp where
  | op (o : Opnd)
  | blk (t : Target)
  deriving DecidableEq, Repr

/-- An instruction's four fields and its operands (R56, R58). -/
structure Raw where
  opc : Nat
  ty : Ty
  mod : Nat
  ops : List RawOp
  deriving DecidableEq, Repr

/-- Why an instruction is rejected: the load status codes of R72 that one instruction can give. -/
inductive Reject where
  | opcodeZero | opcodeReserved | opcodeNative | typeReserved | typeNotAllowed | operandCount | operandKind
  | immediateRange | immediatePlace | addressForm | modCode | modUnused | systemOnly | overrun
  deriving DecidableEq, Repr

/-- The status of R72. -/
def Reject.status : Reject → Nat
  | .opcodeZero => 0x20 | .opcodeReserved => 0x21 | .opcodeNative => 0x22 | .typeReserved => 0x23
  | .typeNotAllowed => 0x24 | .operandCount => 0x25 | .operandKind => 0x26 | .immediateRange => 0x2A
  | .immediatePlace => 0x2A | .addressForm => 0x27
  | .modCode => 0x2B | .modUnused => 0x2C | .systemOnly => 0x2E | .overrun => 0x2F

/-- The words of a number, least significant first. -/
def wordsOfNat : Nat → Nat → List Word
  | 0, _ => []
  | n + 1, v => BitVec.ofNat 32 v :: wordsOfNat n (v / 2 ^ 32)

/-- The number that words spell, least significant first. -/
def natOfWords : List Word → Nat
  | [] => 0
  | w :: ws => w.toNat + 2 ^ 32 * natOfWords ws

/-- The words of a value, immediate or literal operand (R58). -/
def Opnd.words : Opnd → List Word
  | .val n => [BitVec.ofNat 32 n.toNat]
  | .imm v => [BitVec.ofNat 32 (2 ^ 30 + v.toNat)]
  | .lit sz v => BitVec.ofNat 32 (3 * 2 ^ 30 + sz.code * 2 ^ 28) :: wordsOfNat sz.words v.toNat

def opndsWords : List Opnd → List Word
  | [] => []
  | o :: os => o.words ++ opndsWords os

def RawOp.words : RawOp → List Word
  | .op o => o.words
  | .blk t => BitVec.ofNat 32 (2 ^ 31 + t.blk.toNat) :: opndsWords t.args

def rawOpsWords : List RawOp → List Word
  | [] => []
  | o :: os => o.words ++ rawOpsWords os

/-- The words of an instruction (R56-R58): head, extended count when the count is 15 or more, operands. -/
def Raw.words (r : Raw) : List Word :=
  let n := r.ops.length
  let nop := if n < 15 then n else 15
  BitVec.ofNat 32 (r.opc * 2 ^ 22 + r.ty.code * 2 ^ 16 + nop * 2 ^ 12 + r.mod)
    :: ((if n < 15 then [] else [BitVec.ofNat 32 n]) ++ rawOpsWords r.ops)

/-- One operand or argument word that is not a block operand, with the rest of the words. -/
def parseOpnd : List Word → Except Reject (Opnd × List Word)
  | [] => .error .overrun
  | w :: ws =>
    let n := w.toNat
    if n / 2 ^ 30 = 0 then .ok (.val (BitVec.ofNat 30 n), ws)
    else if n / 2 ^ 30 = 1 then .ok (.imm (BitVec.ofNat 30 n), ws)
    else if n / 2 ^ 30 = 2 then .error .operandKind
    else if n % 2 ^ 28 ≠ 0 then .error .operandKind
    else
      let sz := LitSize.ofCode (n / 2 ^ 28 % 4)
      if ws.length < sz.words then .error .overrun
      else .ok (.lit sz (BitVec.ofNat 256 (natOfWords (ws.take sz.words))), ws.drop sz.words)

/-- The argument words of a block operand: exactly as many as the block takes (R61). -/
def parseArgs : Nat → List Word → Except Reject (List Opnd × List Word)
  | 0, ws => .ok ([], ws)
  | n + 1, ws =>
    match parseOpnd ws with
    | .error e => .error e
    | .ok (o, ws') =>
      match parseArgs n ws' with
      | .error e => .error e
      | .ok (os, ws'') => .ok (o :: os, ws'')

/-- One operand (R58). `argc` gives the parameter count of each block's signature (R61). -/
def parseRawOp (argc : Nat → Nat) : List Word → Except Reject (RawOp × List Word)
  | [] => .error .overrun
  | w :: ws =>
    let n := w.toNat
    if n / 2 ^ 30 = 2 then
      match parseArgs (argc (n % 2 ^ 30)) ws with
      | .error e => .error e
      | .ok (as, ws') => .ok (.blk { blk := BitVec.ofNat 30 n, args := as }, ws')
    else
      match parseOpnd (w :: ws) with
      | .error e => .error e
      | .ok (o, ws') => .ok (.op o, ws')

/-- The operands that could be read, and the rest of the words or what stopped the reading. -/
def parseOps (argc : Nat → Nat) : Nat → List Word → List RawOp × Except Reject (List Word)
  | 0, ws => ([], .ok ws)
  | n + 1, ws =>
    match parseRawOp argc ws with
    | .error e => ([], .error e)
    | .ok (o, ws') =>
      let (os, rest) := parseOps argc n ws'
      (o :: os, rest)

/-! ## Type sets of the encoding tables -/

/-- I of R159: i8-i64 and n8-n64 in the three shapes. -/
def tyI : Ty → Bool | .num _ e => e.isInt | _ => false
/-- I and scalar a64. -/
def tyIA : Ty → Bool | .num .s1 .a64 => true | t => tyI t
/-- I, scalar a64 and scalar b1. -/
def tyIAB : Ty → Bool | .num .s1 .b1 => true | t => tyIA t
def tySigned : Ty → Bool | .num _ e => e.signed | _ => false
/-- Scalar i8-i64 and n8-n64. -/
def tyScalarInt : Ty → Bool | .num .s1 e => e.isInt | _ => false
def tyScalarIntA : Ty → Bool | .num .s1 .a64 => true | t => tyScalarInt t
def tyScalarIntAB : Ty → Bool | .num .s1 .b1 => true | t => tyScalarIntA t
def tyBswap : Ty → Bool | .num _ e => e.isInt && 16 ≤ e.width | _ => false
/-- Any element in shape 00, 10 or 11. -/
def tyAnyNum : Ty → Bool | .num _ _ => true | _ => false
def tyF : Ty → Bool | .num _ e => e.isF | _ => false
def tyFF8 : Ty → Bool | .num _ e => e.isF || e.isF8 | _ => false
/-- S of R189: the six scalar float elements. -/
def tyS : Ty → Bool | .num .s1 e => e.isF || e.isF8 | _ => false
/-- T of R189: f32, f16 and bf16 in the three shapes. -/
def tyT : Ty → Bool | .num _ .f32 => true | .num _ .f16 => true | .num _ .bf16 => true | _ => false
/-- T of R213: scalar f32, f16 and bf16. -/
def tySpan : Ty → Bool | .num .s1 .f32 => true | .num .s1 .f16 => true | .num .s1 .bf16 => true | _ => false
/-- A of R213. -/
def tyLaneA : Ty → Bool | .num .s1 e => e.isInt || e.isF | _ => false
def tyMx : Ty → Bool | .mxi8 => true | .mxi6 => true | .mxi4 => true | _ => false
def tyPack2 : Ty → Bool
  | .num .s2 .f16 => true | .num .s2 .bf16 => true | .num .s2 .e4m3 => true | .num .s2 .e5m2 => true | _ => false
def tyEq (t : Ty) : Ty → Bool := fun u => u == t
def tyB1 : Ty := .num .s1 .b1
def tyI32 : Ty := .num .s1 .i32
def tyI64 : Ty := .num .s1 .i64
def tyN32 : Ty := .num .s1 .n32
def tyN64 : Ty := .num .s1 .n64
def tyA64 : Ty := .num .s1 .a64
def tyF32 : Ty := .num .s1 .f32
def tyF64 : Ty := .num .s1 .f64
def tyBf16 : Ty := .num .s1 .bf16
def tyF16 : Ty := .num .s1 .f16
def tyV2n64 : Ty := .num .s2 .n64
def tyV4n32 : Ty := .num .s4 .n32
def tyN3264 : Ty → Bool := fun t => t == tyN32 || t == tyN64
def tyRng : Ty → Bool := fun t => t == tyN32 || t == tyF32 || t == tyV4n32
/-- LT of R253: accessible types of ld and st. -/
def tyLT : Ty → Bool
  | .num .s1 e => e != .b1
  | .num .s2 e => e != .b1
  | .num .s4 e => e != .b1 && e.width ≤ 32
  | .e8m0 => true | .name => true | _ => false
/-- ET of R253. -/
def tyET : Ty → Bool | .num .s1 e => e != .b1 | .e8m0 => true | _ => false
/-- i32, i64, n32 and n64 (R280, R290). -/
def tyW : Ty → Bool | .num .s1 .i32 => true | .num .s1 .i64 => true | .num .s1 .n32 => true | .num .s1 .n64 => true | _ => false
def tyAtomF : Ty → Bool | .num .s1 .f32 => true | .num .s1 .f64 => true | .num .s2 .f16 => true | .num .s2 .bf16 => true | _ => false
def tyF3264 : Ty → Bool := fun t => t == tyF32 || t == tyF64
def tyXchg : Ty → Bool := fun t => tyW t || t == tyA64 || tyF3264 t
def tyCas2 : Ty → Bool := fun t => t == tyV2n64 || t == tyV4n32 || t == .name

/-! ## Operand positions -/

/-- The type that a position asks for: the instruction's TYPE, a fixed type, the address type of the encoded SPACE (R232),
or a set that TYPE does not fix (R495), given as the types a constant may stand for. -/
inductive PosTy where
  | self
  | is (t : Ty)
  | addr
  | oneOf (ts : List Ty)
  deriving DecidableEq, Repr

/-- What one operand position accepts: value, immediate, literal; the immediate's own range where the description gives one. -/
structure Pos where
  ty : PosTy
  val : Bool
  imm : Bool
  lit : Bool
  range : Option (Int × Int)
  deriving DecidableEq, Repr

namespace Pos
/-- Value, immediate or literal. -/
def vil (t : PosTy) : Pos := ⟨t, true, true, true, .none⟩
/-- Value or literal. -/
def vl (t : PosTy) : Pos := ⟨t, true, false, true, .none⟩
/-- Value only. -/
def v (t : PosTy) : Pos := ⟨t, true, false, false, .none⟩
/-- Immediate only, in a range. -/
def i (lo hi : Int) : Pos := ⟨.is tyN32, false, true, false, some (lo, hi)⟩
/-- Value or immediate in a range. -/
def vi (t : PosTy) (lo hi : Int) : Pos := ⟨t, true, true, false, some (lo, hi)⟩
/-- Value, immediate in a range, or literal. -/
def vilr (t : PosTy) (lo hi : Int) : Pos := ⟨t, true, true, true, some (lo, hi)⟩
end Pos

/-- Types of a position, for an instruction with TYPE `t` and modifier `m`. -/
def PosTy.types (t : Ty) (m : Nat) : PosTy → List Ty
  | .self => [t]
  | .is u => [u]
  | .addr => if field m 8 3 = 1 ∨ field m 8 3 = 2 then [tyN32] else [tyA64]
  | .oneOf ts => ts

/-- The range of an integer element (R59). -/
def Elem.range (e : Elem) : Int × Int :=
  if e.signed then (-(2 ^ (e.width - 1) : Int), 2 ^ (e.width - 1) - 1) else (0, 2 ^ e.width - 1)

/-- Elements for which R59 accepts an immediate. -/
def Elem.takesImm (e : Elem) : Bool := e.isInt || e == .a64 || e == .b1

/-- The type that a literal of size `sz` stands for at a position of types `ts` (R60, R495): the widest type whose width
rounds up to the size, the lowest element code first. -/
def litType (sz : LitSize) : List Ty → Option Ty
  | [] => .none
  | t :: ts =>
    let better := litType sz ts
    let ok : Bool := match t with
      | .num _ _ => LitSize.ofWidth t.width == sz
      | .name => sz == .l128
      | _ => false
    if ok then
      match better with
      | some u => if t.width < u.width ∨ (t.width = u.width ∧ u.code < t.code) then some u else some t
      | .none => some t
    else better

/-- The rejection of an operand of a form that its position does not take. R142 names 0x27 for the address of callx and tcallx, and R316 0x2A
for any form of mquery's code but an immediate. R142 for arguments, R214 and R362 name 0x26 for every form, R160 for the operands that it
excepts; elsewhere R72 gives an immediate 0x2A, and the other forms 0x26. -/
def badForm (opc : Nat) (p : Pos) (imm : Bool) : Reject :=
  if (opc = 0x005 ∨ opc = 0x008) ∧ p = .v (.is tyA64) then .addressForm
  else if opc = 0x248 then .immediatePlace
  else if (0x004 ≤ opc ∧ opc ≤ 0x008) ∨ (0x040 ≤ opc ∧ opc < 0x0C0 ∧ !p.imm) ∨ (0x140 ≤ opc ∧ opc < 0x180) ∨ (0x2A0 ≤ opc ∧ opc < 0x2C0) then .operandKind
  else if imm then .immediatePlace
  else .operandKind

/-- The check of one operand that is no block operand (R59, R60, R495; statuses as R72 and the class chapters give them). -/
def checkOpnd (opc : Nat) (t : Ty) (m : Nat) (p : Pos) : Opnd → Option Reject
  | .val _ => if p.val then .none else some (badForm opc p false)
  | .imm v =>
    if !p.imm then some (badForm opc p true)
    else
      match p.range with
      | some (lo, hi) => if lo ≤ v.toInt ∧ v.toInt ≤ hi then .none else some .immediateRange
      | .none =>
        match p.ty.types t m with
        | .num _ e :: _ =>
          if e.takesImm then
            if e.range.1 ≤ v.toInt ∧ v.toInt ≤ e.range.2 then .none else some .immediateRange
          else some (badForm opc p true)
        | _ => some (badForm opc p true)
  | .lit sz v =>
    if !p.lit then some (badForm opc p false)
    else
      match litType sz (p.ty.types t m) with
      | some u => if v.toNat < 2 ^ u.width then .none else some .operandKind
      | .none => some .operandKind

/-! ## The opcode table -/

/-- A modifier field that an instruction uses: its bits and its accepted codes. -/
structure MField where
  lo : Nat
  w : Nat
  ok : Nat → Bool

/-- How many operands, and what they are. -/
inductive Arity where
  | fixed
  | br
  | brc
  | brsw
  /-- A call form: an index immediate, `n` - 1 further fixed values, then arguments. -/
  | callLike (n : Nat)
  | anyCount

/-- One row of the opcode map with what its class chapter says of its encoding. -/
structure Row where
  opc : Nat
  tyOk : Ty → Bool
  arity : Arity
  pos : Ty → Nat → List Pos
  mods : List MField
  /-- A rule of the description over several fields, checked after the modifier's fields. -/
  extra : Ty → Nat → List RawOp → Option Reject
  /-- Result types for a TYPE (calls: from the signature, see the loader). -/
  res : Ty → List Ty
  /-- R73, R415. -/
  sysOnly : Bool

def noExtra : Ty → Nat → List RawOp → Option Reject := fun _ _ _ => .none
def upTo (n : Nat) : Nat → Bool := fun c => c ≤ n
def inCodes (cs : List Nat) : Nat → Bool := fun c => cs.contains c

/-- A row of fixed operand count, per-instruction modifier and one result of the instruction's type. -/
def row (opc : Nat) (tyOk : Ty → Bool) (pos : List Pos) (mods : List MField := []) (res : Ty → List Ty := fun t => [t])
    (extra : Ty → Nat → List RawOp → Option Reject := noExtra) : Row :=
  { opc, tyOk, arity := .fixed, pos := fun _ _ => pos, mods, extra, res, sysOnly := false }

def noRes : Ty → List Ty := fun _ => []
def tyNone : Ty → Bool := tyEq .none

def posK : List Pos := [.i 0 7]
def rowVar (opc : Nat) (tyOk : Ty → Bool) (a : Arity) (pos : List Pos) : Row :=
  { opc, tyOk, arity := a, pos := fun _ _ => pos, mods := [], extra := noExtra, res := noRes, sysOnly := false }

/-- The largest immediate: an index immediate is checked against the module by the loader (R142). -/
def anyIndex : Pos := .i 0 (2 ^ 29 - 1)

/-- Control and linkage (R139, R141, R149, R152, R157). -/
def rowsControl : List Row := [
  rowVar 0x001 tyNone .br [],
  rowVar 0x002 tyNone .brc [⟨.is tyB1, true, true, false, .none⟩],
  rowVar 0x003 tyScalarInt .brsw [.v .self],
  rowVar 0x004 tyNone (.callLike 1) [anyIndex],
  rowVar 0x005 tyNone (.callLike 2) [anyIndex, .v (.is tyA64)],
  rowVar 0x006 tyNone (.callLike 1) [anyIndex],
  rowVar 0x007 tyNone (.callLike 1) [anyIndex],
  rowVar 0x008 tyNone (.callLike 2) [anyIndex, .v (.is tyA64)],
  rowVar 0x009 tyNone .anyCount [],
  row 0x00A tyNone [] [] noRes,
  row 0x00B tyNone [] [] noRes,
  row 0x00C tyNone posK [] noRes,
  row 0x00D tyNone posK [] noRes,
  row 0x00E tyNone posK [] noRes,
  row 0x00F (tyEq tyN32) posK,
  row 0x010 tyNone [anyIndex] [] noRes,
  row 0x011 tyNone [anyIndex] [] noRes,
  row 0x012 (fun t => t == tyN32 || t == tyB1) [anyIndex],
  row 0x013 (tyEq tyA64) [anyIndex],
  row 0x014 (tyEq tyA64) [anyIndex],
  row 0x015 tyNone [] [] noRes]

def s1 : Pos := .vil .self
def pN32 : Pos := .vil (.is tyN32)
def pB1 : Pos := .vil (.is tyB1)
def dB1 : Ty → List Ty := fun t => [t, tyB1]
def scalarInts : List Ty :=
  [.num .s1 .i8, .num .s1 .i16, .num .s1 .i32, .num .s1 .i64, .num .s1 .n8, .num .s1 .n16, .num .s1 .n32, .num .s1 .n64]
def scalarIntsAB : List Ty := scalarInts ++ [tyA64, tyB1]

/-- Integer and address (R159, R160). -/
def rowsInt : List Row := [
  row 0x040 tyIA [s1, s1], row 0x041 tyIA [s1, s1], row 0x042 tyI [s1, s1], row 0x043 tyI [s1, s1],
  row 0x044 tyI [s1, s1, s1], row 0x045 tyI [s1, s1], row 0x046 tyI [s1, s1], row 0x047 tyI [s1],
  row 0x048 tySigned [s1], row 0x049 tyIA [s1, s1], row 0x04A tyIA [s1, s1], row 0x04B tyI [s1, s1],
  row 0x04C tyI [s1, s1],
  row 0x04D tyScalarInt [s1, s1, pB1] [] dB1, row 0x04E tyScalarInt [s1, s1, pB1] [] dB1,
  row 0x04F tyIAB [s1, s1], row 0x050 tyIAB [s1, s1], row 0x051 tyIAB [s1, s1], row 0x052 tyIAB [s1],
  row 0x053 tyIAB [s1, s1], row 0x054 tyI [s1, s1], row 0x055 tyI [s1, s1], row 0x056 tyI [s1, s1],
  row 0x057 tyI [s1, s1], row 0x058 tyI [s1, s1], row 0x059 tyI [s1], row 0x05A tyI [s1], row 0x05B tyI [s1],
  row 0x05C tyI [s1], row 0x05D tyI [s1, pN32, pN32], row 0x05E tyI [s1, s1, pN32, pN32],
  row 0x05F tyScalarIntAB [s1, s1] [⟨0, 4, upTo 9⟩] (fun _ => [tyB1])
    (fun t m _ => if t == tyB1 && 1 < field m 0 4 then some .typeNotAllowed else .none),
  row 0x060 tyAnyNum [pB1, s1, s1],
  row 0x061 tyScalarIntA [.v (.oneOf scalarIntsAB)], row 0x062 tyScalarIntA [.v (.oneOf scalarIntsAB)],
  row 0x063 tyScalarIntAB [.v (.oneOf scalarIntsAB)],
  row 0x064 (tyEq tyA64) [.vil (.is tyA64), .v (.oneOf scalarInts), .vil (.is tyI64)] [⟨0, 3, upTo 7⟩],
  row 0x065 tyAnyNum [⟨.self, false, true, true, .none⟩],
  row 0x066 tyN3264 [.i 0 0x0E],
  row 0x067 tyBswap [s1]]

def mRnd : MField := ⟨0, 3, upTo 5⟩
def mRnd0 : MField := ⟨0, 3, upTo 0⟩
def mBit (n : Nat) : MField := ⟨n, 1, upTo 1⟩
def mFull : List MField := [mRnd, mBit 3, mBit 4, mBit 5]
def mFull0 : List MField := [mRnd0, mBit 3, mBit 4, mBit 5]
def fl : Pos := .vl .self
def floatElems : List Elem := [.f64, .f32, .f16, .bf16, .e4m3, .e5m2]
def sameShapeFloats (t : Ty) : List Ty :=
  match t with
  | .num sh _ => floatElems.map (.num sh)
  | _ => []
def frow (opc : Nat) (tyOk : Ty → Bool) (pos : List Pos) (mods : List MField) (res : Ty → List Ty := fun t => [t]) : Row :=
  row opc tyOk pos mods res

/-- Floating point and formats (R189-R191). -/
def rowsFloat : List Row := [
  frow 0x0C0 tyF [fl, fl] mFull, frow 0x0C1 tyF [fl, fl] mFull, frow 0x0C2 tyF [fl, fl] mFull,
  frow 0x0C3 tyF [fl, fl, fl] mFull, frow 0x0C4 tyF [fl, fl] mFull, frow 0x0C5 tyF [fl] mFull,
  frow 0x0C6 tyF [fl] mFull0, frow 0x0C7 tyF [fl] mFull, frow 0x0C8 tyF [fl, fl] [mBit 4],
  frow 0x0C9 tyF [fl, fl] [mBit 4], frow 0x0CA tyFF8 [fl] [], frow 0x0CB tyFF8 [fl] [], frow 0x0CC tyFF8 [fl, fl] [],
  frow 0x0CD tyS [fl, fl] [mBit 4, ⟨6, 4, upTo 7⟩] (fun _ => [tyB1]),
  frow 0x0CE tyS [fl] [mBit 4] (fun _ => [tyN32]),
  frow 0x0CF tyF [fl] [mRnd, mBit 4],
  frow 0x0D0 tyF [fl, .vil (.is tyI32)] mFull,
  frow 0x0D1 tyT [fl] mFull0, frow 0x0D2 tyT [fl] mFull0, frow 0x0D3 tyT [fl] mFull0, frow 0x0D4 tyT [fl] mFull0,
  frow 0x0D5 tyT [fl] mFull0 (fun t => [t, t]), frow 0x0D6 tyT [fl] mFull0, frow 0x0D7 tyT [fl] mFull0,
  { frow 0x0D8 tyFF8 [] mFull with pos := fun t _ => [.vl (.oneOf (sameShapeFloats t))] },
  frow 0x0D9 tyScalarInt [.vl (.oneOf (floatElems.map (.num .s1)))] [mRnd, mBit 4],
  frow 0x0DA tyS [⟨.oneOf [tyI32, .num .s1 .i8, .num .s1 .i16, tyI64, .num .s1 .n8, .num .s1 .n16, tyN32, tyN64],
    true, true, true, .none⟩] [mRnd, mBit 3],
  frow 0x0DB tyPack2 [.vl (.is tyF32), .vl (.is tyF32)] mFull,
  frow 0x0DC (tyEq tyF32)
    [.vl (.oneOf [.num .s2 .f16, .num .s2 .bf16, .num .s2 .e4m3, .num .s2 .e5m2])] [mBit 4] (fun t => [t, t]),
  frow 0x0DD tyMx [.vl (.oneOf [tyF32, tyBf16])] [mRnd, mBit 4] (fun t => [t, .e8m0]),
  frow 0x0DE (fun t => t == tyF32 || t == tyBf16) [.v (.oneOf [.mxi8, .mxi6, .mxi4]), .v (.is .e8m0)]
    [mRnd, mBit 3, mBit 5],
  frow 0x0DF (tyEq tyN32) [.vilr (.is tyN32) 0 31] []]

def scalarNotB1 : List Ty :=
  [.num .s1 .i8, .num .s1 .i16, .num .s1 .i32, .num .s1 .i64, .num .s1 .n8, .num .s1 .n16, .num .s1 .n32, .num .s1 .n64,
   .num .s1 .a64, .num .s1 .f64, .num .s1 .f32, .num .s1 .f16, .num .s1 .bf16, .num .s1 .e4m3, .num .s1 .e5m2]
def lane31 : Pos := .vi (.is tyN32) 0 31
def vB1 : Pos := .v (.is tyB1)
def laneOpOk : Ty → Nat → List RawOp → Option Reject := fun t m _ =>
  match t with
  | .num _ e => if (LaneOp.ofCode (field m 0 4)).isFloat == e.isF then .none else some .typeNotAllowed
  | _ => some .typeNotAllowed

/-- Lanes and spans (R213-R215). -/
def rowsLane : List Row := [
  row 0x140 tyAnyNum [fl, .i 1 31], row 0x141 tyAnyNum [fl, lane31], row 0x142 tyAnyNum [fl, lane31],
  row 0x143 tyAnyNum [fl, lane31], row 0x144 (tyEq tyN32) [vB1], row 0x145 (tyEq tyB1) [vB1], row 0x146 (tyEq tyB1) [vB1],
  row 0x147 tyLaneA [fl] [⟨0, 4, upTo 8⟩] (fun t => [t]) laneOpOk,
  row 0x148 tyLaneA [fl] [⟨0, 4, upTo 8⟩, mBit 4] (fun t => [t]) laneOpOk,
  row 0x149 (tyEq tyN32) [vB1], row 0x14A (tyEq tyN32) [.vl (.oneOf scalarNotB1)],
  row 0x14B tyRng [pN32, .vil (.is tyN64)],
  row 0x14C tySpan [pN32, pN32] [] (fun _ => [tyF32]),
  row 0x14D tySpan [pN32, pN32, pN32, .vl (.is tyF32)] [⟨0, 2, upTo 2⟩] (fun _ => [tyF32]),
  row 0x14E tySpan [pN32, pN32, pN32, pN32] [] noRes,
  row 0x14F tySpan [pN32, pN32, pN32, .vil (.is tyN64)] [] (fun _ => [tyN32]),
  row 0x150 tySpan [pN32, pN32] [] (fun _ => [tyN32]), row 0x151 tySpan [pN32, pN32] [] (fun _ => [tyF32])]

/-- The memory class's fields: ORD codes, whether SCOPE and EVICT are used, SPACE codes (R63, R253). -/
def memMods (ords : List Nat) (scope evict : Bool) (spaces : List Nat) : List MField :=
  (if ords == [] then [] else [⟨0, 2, inCodes ords⟩]) ++ (if scope then [⟨2, 3, upTo 7⟩] else []) ++
  (if evict then [⟨5, 3, upTo 5⟩] else []) ++ (if spaces == [] then [] else [⟨8, 3, inCodes spaces⟩])
def pA : Pos := .vil .addr
def pA64 : Pos := .vil (.is tyA64)
def pN64 : Pos := .vil (.is tyN64)
/-- The data of st and stv: a value, an immediate where R59 allows one, or a literal (R254). -/
def pData : Pos := .vil .self

/-- Memory access (R253, R254). -/
def rowsMem : List Row := [
  row 0x180 tyLT [pA] (memMods [0, 1, 3] true true [0, 1, 2, 3, 4, 5, 6]),
  row 0x181 tyLT [pA, pData] (memMods [0, 2, 3] true true [0, 1, 2, 4, 5]) noRes,
  row 0x182 tyET [pA] (memMods [0, 1, 3] true true [0, 1, 3, 4, 5, 6]),
  row 0x183 tyET [pA, pData] (memMods [0, 2, 3] true true [0, 1, 4, 5]) noRes,
  row 0x184 tyNone [pN32, pA64, pN32] (memMods [0] false true [0, 3, 6]) noRes,
  row 0x185 tyNone [pA64, pN32, pN32] (memMods [0, 2] true true [0]) noRes,
  row 0x186 tyNone [pA] (memMods [0] false true [0, 2, 3, 6]) noRes,
  row 0x187 tyNone [pN32] (memMods [0] false false [2]) noRes,
  row 0x188 tyNone [pA] (memMods [0] false false [0, 2, 3, 6]) noRes,
  row 0x189 tyNone [pA] (memMods [0, 2] true true [0, 1]) noRes,
  row 0x18A (tyEq tyN32) [pN32, pN32], row 0x18B (tyEq tyA64) [pN32]]

/-- SPACE 0 takes SCOPE 2-7 and SPACE 1 takes SCOPE 2 (R281). -/
def barScope : Ty → Nat → List RawOp → Option Reject := fun _ m _ =>
  if field m 8 3 = 0 then (if 2 ≤ field m 2 3 then .none else some .modCode)
  else if field m 2 3 = 2 then .none else some .modCode
def barMods : List MField := [⟨2, 3, upTo 7⟩, ⟨8, 3, upTo 1⟩]
def barRow (opc : Nat) (ty : Ty → Bool) (pos : List Pos) (res : Ty → List Ty) : Row := row opc ty pos barMods res barScope

/-- Ordering and synchronisation (R280, R281). -/
def rowsOrd : List Row := [
  row 0x1C0 tyNone [] [⟨0, 2, inCodes [1, 2, 3]⟩, ⟨2, 3, upTo 7⟩] noRes, row 0x1C1 tyNone [] [] noRes,
  barRow 0x1C2 tyNone [pA, .vilr (.is tyN32) 1 65535] noRes,
  barRow 0x1C3 (tyEq tyN32) [pA, .vilr (.is tyN32) 1 65535] (fun t => [t]),
  barRow 0x1C4 tyNone [pA, pN32] noRes, barRow 0x1C5 tyNone [pA] noRes, barRow 0x1C6 tyNone [pA, pN32] noRes,
  barRow 0x1C7 (tyEq tyB1) [pA, pN32] (fun t => [t]),
  row 0x1C8 tyW [pA, s1, .i 0 5] (memMods [0, 1] true true [0, 1]),
  row 0x1C9 tyNone [pN32] [] noRes, row 0x1CA tyNone [pN32] [] noRes, row 0x1CB tyNone [] [] noRes]

def atomMods (reassoc : Bool) : List MField :=
  memMods [0, 1, 2, 3] true true [0, 1] ++ (if reassoc then [mBit 11] else [])
def redMods (reassoc : Bool) : List MField :=
  memMods [0, 2, 3] true true [0, 1] ++ (if reassoc then [mBit 11] else [])
def firstImm : List RawOp → Nat
  | .op (.imm v) :: _ => v.toNat
  | _ => 0
/-- redf: two-element types only with op 0 (0x24, R292); REASSOC only with op 0 (0x2B, R291). -/
def redfOk : Ty → Nat → List RawOp → Option Reject := fun _ m ops =>
  if firstImm ops ≠ 0 ∧ field m 11 1 = 1 then some .modCode else .none

/-- Atomics (R290-R292). -/
def rowsAtom : List Row := [
  row 0x200 tyW [pA, s1] (atomMods false), row 0x201 tyAtomF [pA, s1] (atomMods true),
  row 0x202 tyW [pA, s1] (atomMods false), row 0x203 tyW [pA, s1] (atomMods false),
  row 0x204 tyW [pA, s1] (atomMods false), row 0x205 tyW [pA, s1] (atomMods false),
  row 0x206 tyW [pA, s1] (atomMods false), row 0x207 tyF3264 [pA, s1] (atomMods false),
  row 0x208 tyF3264 [pA, s1] (atomMods false), row 0x209 tyN3264 [pA, s1] (atomMods false),
  row 0x20A tyN3264 [pA, s1] (atomMods false), row 0x20B tyXchg [pA, s1] (atomMods false),
  row 0x20C tyXchg [pA, s1, s1] (atomMods false), row 0x20D tyCas2 [pA, s1, s1] (atomMods false),
  row 0x20E tyW [.i 0 5, pA, s1] (redMods false) noRes,
  row 0x20F tyAtomF [.i 0 2, pA, s1] (redMods true) noRes redfOk]

/-- Format pairs of mma (R305, R315): both bf16, or both 8-bit. SAT needs AFRAG. -/
def mmaOk : Ty → Nat → List RawOp → Option Reject := fun _ m _ =>
  let a := field m 0 4; let b := field m 4 4
  if (a = 13) ≠ (b = 13) then some .modCode
  else if field m 9 1 = 1 ∧ field m 8 1 = 0 then some .modCode else .none
def pK : Pos := .vil (.is tyN32)
/-- A constant k is a multiple of 32 from 32 to 4,096 (R316). -/
def kOk : List RawOp → Option Reject
  | [_, _, _, .op (.imm v)] =>
    if v.toNat % 32 = 0 ∧ 32 ≤ v.toInt ∧ v.toInt ≤ 4096 then .none else some .immediateRange
  | [_, _, _, .op (.lit _ v)] =>
    if v.toNat % 32 = 0 ∧ 32 ≤ v.toNat ∧ v.toNat ≤ 4096 then .none else some .immediateRange
  | _ => .none
def fmtOk (codes : List Nat) : RawOp → Option Reject
  | .op (.imm v) => if codes.contains v.toNat then .none else some .immediateRange
  | _ => .none
def vFrag : Pos := .v (.is .frag)
def frag1 : Ty → List Ty := fun _ => [.frag]
/-- amax is an a64 value or immediate (R316). -/
def pAmax : Pos := ⟨.is tyA64, true, true, false, .none⟩

/-- Matrix (R315, R316). -/
def rowsMatrix : List Row := [
  row 0x240 (tyEq .frag) [] [] frag1,
  { row 0x241 (tyEq .frag) [] [⟨0, 4, inCodes [13, 14, 15]⟩, ⟨4, 4, inCodes [13, 14, 15]⟩, mBit 8, mBit 9] frag1 mmaOk with
    pos := fun _ m => [vFrag, if field m 8 1 = 1 then vFrag else .vl (.is tyV2n64), .vl (.is tyV2n64), pK] },
  row 0x242 (tyEq .frag) [vFrag, .vl (.is tyV2n64), .vl (.is tyV2n64), pK]
    [⟨0, 4, inCodes [1, 2, 3]⟩, ⟨4, 4, inCodes [1, 2, 3]⟩] frag1,
  row 0x243 (tyEq .frag) [pA, pN32, .i 0 2] (memMods [0, 1, 3] true true [0, 1, 3, 6]) frag1,
  row 0x244 (tyEq .frag) [pA, pN32, vFrag, .i 0 10, pAmax] (memMods [0, 2, 3] true true [0, 1]) noRes,
  row 0x245 tyNone [vFrag] [] noRes,
  row 0x246 (tyEq tyV2n64) [pN32, pN32, pN32, pN32, pN32, pN32],
  row 0x247 (tyEq .frag) [vFrag] [] frag1,
  row 0x248 (tyEq tyN32) [.i 0 3]]

/-- Asynchronous engines (R343). -/
def rowsEngine : List Row := [
  row 0x280 (tyEq tyN32) [pN32, pN32, pN32, pN32, pN32], row 0x281 tyNone [pN32] [] noRes,
  row 0x282 (tyEq tyN32) [pN32, pN32], row 0x283 (tyEq tyN32) [pN32, pN32], row 0x284 (tyEq tyN32) [pN32, .i 0 3]]

/-- A name operand: name or v2n64, a value or a 128-bit literal (R362). -/
def pName : Pos := .vl (.oneOf [.name, tyV2n64])
def vA64 : Pos := .v (.is tyA64)
/-- k of caref and cadrop: 1 to 2^31 (R362). -/
def pCount : Pos := .vilr (.is tyN32) 1 (2 ^ 31)

/-- Content-addressed (R361, R362). -/
def rowsCa : List Row := [
  { row 0x2A0 (tyEq .name) [] [mBit 0] with
    pos := fun _ m => [vA64, .vil (.is (if field m 0 1 = 1 then tyN32 else tyA64))] },
  row 0x2A1 (tyEq tyA64) [vA64, pName], row 0x2A2 tyNone [vA64, pName, pCount] [] noRes,
  row 0x2A3 tyNone [vA64, pName, pCount] [] noRes, row 0x2A4 (tyEq .name) [vA64, vA64, pName, pName],
  row 0x2A5 (tyEq .name) [vA64, pName, pN64], row 0x2A6 (tyEq tyN32) [vA64, pName, .i 0 4],
  row 0x2A7 (tyEq .name) [vA64, .vl (.is tyV2n64), pName, pName, pName, pName, pName, pName, pName]]

/-- Tasks (R390) and determinism (R409). -/
def rowsTask : List Row := [
  row 0x2C0 (tyEq tyN64) [pA64], row 0x2C1 tyNone [pN64, pN64] [] noRes, row 0x2C2 tyNone [pN64, pN32] [] noRes,
  row 0x2C3 (tyEq tyN64) [], row 0x2C4 (tyEq tyN32) [.i 0 2], row 0x2C5 (tyEq tyN32) [pN32] [mBit 0],
  row 0x2C6 tyNone [pN64] [] noRes,
  row 0x2E0 tyNone [] [] noRes, row 0x2E1 (tyEq tyN32) [.i 0 3], row 0x2E2 (tyEq tyN32) [],
  row 0x2E3 (tyEq tyN32) [.vilr (.is tyN32) 0 7, .vilr (.is tyN32) 0 4095, .vilr (.is tyN32) 1 65536] [mBit 0]]

/-- The listed system-register codes of R417. -/
def sysCodeListed (c : Nat) : Bool :=
  c ≤ 0x003 || (0x008 ≤ c && c ≤ 0x00D) || (0x010 ≤ c && c ≤ 0x01D) || (0x020 ≤ c && c ≤ 0x022) ||
  (0x024 ≤ c && c ≤ 0x026) || c == 0x028 || c == 0x029 || (0x030 ≤ c && c ≤ 0x035) || (0x038 ≤ c && c ≤ 0x03B) ||
  (0x040 ≤ c && c ≤ 0x057) || (0x060 ≤ c && c ≤ 0x0BF)
/-- Codes of access RO (R417). -/
def sysCodeRO (c : Nat) : Bool :=
  c ≤ 0x003 || c == 0x00C || c == 0x00D || c == 0x013 || c == 0x018 || c == 0x025 || (0x080 ≤ c && c ≤ 0x09F)
/-- Codes that user level may read (R417). -/
def sysCodeUser (c : Nat) : Bool := c ≤ 0x003 || (0x080 ≤ c && c ≤ 0x09F)
def sysrdOk : Ty → Nat → List RawOp → Option Reject := fun _ _ ops =>
  if sysCodeListed (firstImm ops) then .none else some .immediateRange
def syswrOk : Ty → Nat → List RawOp → Option Reject := fun _ _ ops =>
  if sysCodeListed (firstImm ops) && !sysCodeRO (firstImm ops) then .none else some .immediateRange
def sysRow (r : Row) : Row := { r with sysOnly := true }
/-- assert's code: an n32 immediate or literal, not 0xFFFF_FFFF (R439). -/
def assertOk : Ty → Nat → List RawOp → Option Reject := fun _ _ ops =>
  match ops with
  | [_, .op (.lit _ v)] => if v.toNat = 0xFFFFFFFF then some .immediateRange else .none
  | _ => .none

/-- System and trap (R439). -/
def rowsSystem : List Row := [
  row 0x2F0 tyNone [pN32] [] noRes, row 0x2F1 tyNone [.i 0 65535] [] noRes,
  row 0x2F2 tyNone [vB1, ⟨.is tyN32, false, true, true, .none⟩] [] noRes assertOk,
  row 0x2F3 (tyEq tyN64) [.i 0 4095] [] (fun t => [t]) sysrdOk,
  sysRow (row 0x2F4 tyNone [.i 0 4095, .vil (.is tyN64)] [] noRes syswrOk),
  row 0x2F5 tyNone [pA64, pN64] [] noRes, row 0x2F6 tyNone [] [] noRes, row 0x2F7 tyNone [pN64] [] noRes,
  sysRow (row 0x2F8 (tyEq tyN32) [.i 0 2, pA64]), sysRow (row 0x2F9 tyNone [.i 0 2, pA64] [] noRes),
  sysRow (row 0x2FA tyNone [pN32, pN32] [] noRes), row 0x2FB tyNone [pN32] [] noRes,
  sysRow (row 0x2FC tyNone [] [] noRes)]

/-- The 197 assignments of R66. -/
def rows : List Row :=
  rowsControl ++ rowsInt ++ rowsFloat ++ rowsLane ++ rowsMem ++ rowsOrd ++ rowsAtom ++ rowsMatrix ++ rowsEngine ++
  rowsCa ++ rowsTask ++ rowsSystem

/-- The rows of the class that an opcode falls in, so that a look-up walks one short list (R66). -/
def rowsNear (opc : Nat) : List Row :=
  if opc < 0x040 then rowsControl else if opc < 0x0C0 then rowsInt else if opc < 0x140 then rowsFloat
  else if opc < 0x180 then rowsLane else if opc < 0x1C0 then rowsMem else if opc < 0x200 then rowsOrd
  else if opc < 0x240 then rowsAtom else if opc < 0x280 then rowsMatrix else if opc < 0x2A0 then rowsEngine
  else if opc < 0x2C0 then rowsCa else if opc < 0x2F0 then rowsTask else rowsSystem

def rowOf (opc : Nat) : Option Row := (rowsNear opc).find? (fun r => r.opc == opc)

/-! ## The check of one instruction (R71 step 8, first pass) -/

def checkTarget : RawOp → Option Reject
  | .blk _ => .none
  | .op _ => some .operandKind

def firstSome : List (Option Reject) → Option Reject
  | [] => .none
  | some e :: _ => some e
  | .none :: rest => firstSome rest

/-- Arguments of calls, branches and ret: a value, an immediate or a literal (R142); types are checked against the
signature by the loader. -/
def checkArg : RawOp → Option Reject
  | .op _ => .none
  | .blk _ => some .operandKind

def checkPos (opc : Nat) (t : Ty) (m : Nat) : List Pos → List RawOp → Option Reject
  | p :: ps, .op o :: os =>
    match checkOpnd opc t m p o with
    | some e => some e
    | .none => checkPos opc t m ps os
  | _ :: _, .blk _ :: _ => some .operandKind
  | _, _ => .none

/-- Whether the operand count is one the form allows (R139, R142, R159 and the like). -/
def Arity.countOk (a : Arity) (npos n : Nat) : Bool :=
  match a with
  | .fixed => n == npos
  | .br => n == 1
  | .brc => n == 3
  | .brsw => 3 ≤ n && n ≤ 65535
  | .callLike k => k ≤ n
  | .anyCount => n ≤ 15

/-- The operands that could be read, in order (R71). -/
def checkOps (rw : Row) (t : Ty) (m : Nat) (ops : List RawOp) : Option Reject :=
  let ps := rw.pos t m
  match rw.arity with
  | .fixed => checkPos rw.opc t m ps ops
  | .br => firstSome (ops.map checkTarget)
  | .brc | .brsw =>
    match checkPos rw.opc t m ps (ops.take 1) with
    | some e => some e
    | .none => firstSome ((ops.drop 1).map checkTarget)
  | .callLike k =>
    match checkPos rw.opc t m ps (ops.take k) with
    | some e => some e
    | .none => firstSome ((ops.drop k).map checkArg)
  | .anyCount => firstSome (ops.map checkArg)

/-- The modifier, field by field in ascending order of lowest bit; a bit of no field counts as a field of its own (R71). -/
def checkModFrom (fs : List MField) (m : Nat) : Nat → Nat → Option Reject
  | 0, _ => .none
  | k + 1, b =>
    match fs.find? (fun f => f.lo == b) with
    | some f => if f.ok (field m f.lo f.w) then checkModFrom fs m k (b + 1) else some .modCode
    | .none =>
      if field m b 1 = 1 ∧ !(fs.any (fun f => f.lo ≤ b && b < f.lo + f.w)) then some .modUnused
      else checkModFrom fs m k (b + 1)

/-- System-only spaces and instructions in a user-level module (R73). -/
def checkLevel (user : Bool) (rw : Row) (r : Raw) : Option Reject :=
  let usesSpace := (0x180 ≤ r.opc && r.opc ≤ 0x189) || r.opc == 0x1C8 || (0x200 ≤ r.opc && r.opc ≤ 0x20F) ||
    r.opc == 0x243 || r.opc == 0x244
  if user && rw.sysOnly then some .systemOnly
  else if user && r.opc == 0x2F3 && !sysCodeUser (firstImm r.ops) then some .systemOnly
  else if user && usesSpace && (field r.mod 8 3 = 4 || field r.mod 8 3 = 5) then some .systemOnly
  else .none

/-- Checks on constants and ranges that a description states over particular operands, made while the operands are read. -/
def checkOperandRules (r : Raw) : Option Reject :=
  if r.opc = 0x241 ∨ r.opc = 0x242 then kOk r.ops
  else if r.opc = 0x243 then (r.ops[2]?).elim .none (fmtOk [0, 1, 2])
  else if r.opc = 0x244 then (r.ops[3]?).elim .none (fmtOk [0, 1, 2, 8, 9, 10])
  else if r.opc = 0x20F ∧ firstImm r.ops ≠ 0 ∧ (r.ty == .num .s2 .f16 || r.ty == .num .s2 .bf16) then some .typeNotAllowed
  else .none

/-- The check of one instruction, in the order of R71: opcode, type, count, operands, modifier. `stop` is what ended the
reading of the operand words, if anything did. -/
def checkRaw (user : Bool) (r : Raw) (count : Nat) (stop : Option Reject) : Option Reject :=
  match rowOf r.opc with
  | .none =>
    if r.opc = 0 then some .opcodeZero else if 0x3C0 ≤ r.opc then some .opcodeNative else some .opcodeReserved
  | some rw =>
    if !rw.tyOk r.ty then some .typeNotAllowed
    else if !rw.arity.countOk (rw.pos r.ty r.mod).length count then some .operandCount
    else firstSome [checkOps rw r.ty r.mod r.ops, checkOperandRules r, stop,
      checkModFrom rw.mods r.mod 12 0, rw.extra r.ty r.mod r.ops, checkLevel user rw r]

/-! ## Raw form to instruction and back -/

def un (f : Opnd → Instr) : List RawOp → Option Instr
  | [.op a] => some (f a) | _ => none
def bin (f : Opnd → Opnd → Instr) : List RawOp → Option Instr
  | [.op a, .op b] => some (f a b) | _ => none
def ter (f : Opnd → Opnd → Opnd → Instr) : List RawOp → Option Instr
  | [.op a, .op b, .op c] => some (f a b c) | _ => none
def quad (f : Opnd → Opnd → Opnd → Opnd → Instr) : List RawOp → Option Instr
  | [.op a, .op b, .op c, .op d] => some (f a b c d) | _ => none
def nul (i : Instr) : List RawOp → Option Instr
  | [] => some i | _ => none
def immOp (f : BitVec 30 → Instr) : List RawOp → Option Instr
  | [.op (.imm k)] => some (f k) | _ => none
def opndsOf : List RawOp → Option (List Opnd)
  | [] => some []
  | .op o :: os => (opndsOf os).map (o :: ·)
  | .blk _ :: _ => none
def targetsOf : List RawOp → Option (List Target)
  | [] => some []
  | .blk t :: os => (targetsOf os).map (t :: ·)
  | .op _ :: _ => none
def idxArgs (f : BitVec 30 → List Opnd → Instr) : List RawOp → Option Instr
  | .op (.imm k) :: os => (opndsOf os).map (f k)
  | _ => none
def idxAddrArgs (f : BitVec 30 → Opnd → List Opnd → Instr) : List RawOp → Option Instr
  | .op (.imm k) :: .op a :: os => (opndsOf os).map (f k a)
  | _ => none

def ofRawControl (r : Raw) : Option Instr :=
  match r.opc with
  | 0x001 => match r.ops with | [.blk t] => some (.br t) | _ => none
  | 0x002 => match r.ops with | [.op c, .blk t, .blk f] => some (.brc c t f) | _ => none
  | 0x003 => match r.ops with
    | .op s :: .blk d :: cs => (targetsOf cs).map (.brsw r.ty s d)
    | _ => none
  | 0x004 => idxArgs .call r.ops
  | 0x005 => idxAddrArgs .callx r.ops
  | 0x006 => idxArgs .calll r.ops
  | 0x007 => idxArgs .tcall r.ops
  | 0x008 => idxAddrArgs .tcallx r.ops
  | 0x009 => (opndsOf r.ops).map .ret
  | 0x00A => nul .exit r.ops
  | 0x00B => nul .unreach r.ops
  | 0x00C => immOp .rjenrol r.ops
  | 0x00D => immOp .rjwait r.ops
  | 0x00E => immOp .rjstrike r.ops
  | 0x00F => immOp .rjmask r.ops
  | 0x010 => immOp .lpbeg r.ops
  | 0x011 => immOp .lpend r.ops
  | 0x012 => immOp (.lpidx r.ty) r.ops
  | 0x013 => immOp .fnaddr r.ops
  | 0x014 => immOp .lnkaddr r.ops
  | 0x015 => nul .yield r.ops
  | _ => none

def ofRawInt (r : Raw) : Option Instr :=
  let t := r.ty
  match r.opc with
  | 0x040 => bin (.add t) r.ops | 0x041 => bin (.sub t) r.ops | 0x042 => bin (.mul t) r.ops
  | 0x043 => bin (.mulhi t) r.ops | 0x044 => ter (.mad t) r.ops | 0x045 => bin (.div t) r.ops
  | 0x046 => bin (.rem t) r.ops | 0x047 => un (.neg t) r.ops | 0x048 => un (.abs t) r.ops
  | 0x049 => bin (.min t) r.ops | 0x04A => bin (.max t) r.ops | 0x04B => bin (.addsat t) r.ops
  | 0x04C => bin (.subsat t) r.ops | 0x04D => ter (.addc t) r.ops | 0x04E => ter (.subb t) r.ops
  | 0x04F => bin (.and t) r.ops | 0x050 => bin (.or t) r.ops | 0x051 => bin (.xor t) r.ops
  | 0x052 => un (.not t) r.ops | 0x053 => bin (.andn t) r.ops | 0x054 => bin (.shl t) r.ops
  | 0x055 => bin (.shr t) r.ops | 0x056 => bin (.sra t) r.ops | 0x057 => bin (.rotl t) r.ops
  | 0x058 => bin (.rotr t) r.ops | 0x059 => un (.clz t) r.ops | 0x05A => un (.ctz t) r.ops
  | 0x05B => un (.popc t) r.ops | 0x05C => un (.brev t) r.ops | 0x05D => ter (.bfx t) r.ops
  | 0x05E => quad (.bfi t) r.ops | 0x05F => bin (.cmp t (.ofCode (field r.mod 0 4))) r.ops
  | 0x060 => ter (.sel t) r.ops | 0x061 => un (.zext t) r.ops | 0x062 => un (.sext t) r.ops
  | 0x063 => un (.trunc t) r.ops | 0x064 => ter (.lea (BitVec.ofNat 3 (field r.mod 0 3))) r.ops
  | 0x065 => un (.const t) r.ops | 0x066 => immOp (.sreg t) r.ops | 0x067 => un (.bswap t) r.ops
  | _ => none

def ofRawFloat (r : Raw) : Option Instr :=
  let t := r.ty
  let m := FMod.ofCode r.mod
  match r.opc with
  | 0x0C0 => bin (.fadd t m) r.ops | 0x0C1 => bin (.fsub t m) r.ops | 0x0C2 => bin (.fmul t m) r.ops
  | 0x0C3 => ter (.fma t m) r.ops | 0x0C4 => bin (.fdiv t m) r.ops | 0x0C5 => un (.fsqrt t m) r.ops
  | 0x0C6 => un (.frsqrt t m) r.ops | 0x0C7 => un (.frcp t m) r.ops | 0x0C8 => bin (.fmin t m.ftzi) r.ops
  | 0x0C9 => bin (.fmax t m.ftzi) r.ops | 0x0CA => un (.fabs t) r.ops | 0x0CB => un (.fneg t) r.ops
  | 0x0CC => bin (.fcpsgn t) r.ops | 0x0CD => bin (.fcmp t m.ftzi (.ofCode (field r.mod 6 4))) r.ops
  | 0x0CE => un (.fclass t m.ftzi) r.ops | 0x0CF => un (.frint t m.rnd m.ftzi) r.ops
  | 0x0D0 => bin (.fscale t m) r.ops | 0x0D1 => un (.fexp2 t m) r.ops | 0x0D2 => un (.flog2 t m) r.ops
  | 0x0D3 => un (.fsin t m) r.ops | 0x0D4 => un (.fcos t m) r.ops | 0x0D5 => un (.fsincos t m) r.ops
  | 0x0D6 => un (.ftanh t m) r.ops | 0x0D7 => un (.fsigm t m) r.ops | 0x0D8 => un (.fcvt t m) r.ops
  | 0x0D9 => un (.ftoi t m.rnd m.ftzi) r.ops | 0x0DA => un (.itof t m.rnd m.sat) r.ops
  | 0x0DB => bin (.fpack2 t m) r.ops | 0x0DC => un (.funpack2 m.ftzi) r.ops
  | 0x0DD => un (.mxq t m.rnd m.ftzi) r.ops | 0x0DE => bin (.mxdq t m.rnd m.sat m.ftzo) r.ops
  | 0x0DF => un .fsflag r.ops
  | _ => none

def ofRawLane (r : Raw) : Option Instr :=
  let t := r.ty
  match r.opc with
  | 0x140 => match r.ops with | [.op a, .op (.imm m)] => some (.lswap t a m) | _ => none
  | 0x141 => bin (.lshfl t) r.ops | 0x142 => bin (.lbcast t) r.ops | 0x143 => bin (.lrot t) r.ops
  | 0x144 => un .lvote r.ops | 0x145 => un .lany r.ops | 0x146 => un .lall r.ops
  | 0x147 => un (.lred t (.ofCode (field r.mod 0 4))) r.ops
  | 0x148 => un (.lscan t (.ofCode (field r.mod 0 4)) (field r.mod 4 1 == 1)) r.ops
  | 0x149 => un .lfirst r.ops | 0x14A => un .lmatch r.ops | 0x14B => bin (.rng t) r.ops
  | 0x14C => bin (.spmax t) r.ops | 0x14D => quad (.spsoftmax t (.ofCode (field r.mod 0 2))) r.ops
  | 0x14E => quad (.sptopk t) r.ops | 0x14F => quad (.spsample t) r.ops | 0x150 => bin (.spargmax t) r.ops
  | 0x151 => bin (.spsum t) r.ops
  | _ => none

def ofRawMem (r : Raw) : Option Instr :=
  let t := r.ty
  let m := MMod.ofCode r.mod
  match r.opc with
  | 0x180 => un (.ld t m) r.ops | 0x181 => bin (.st t m) r.ops | 0x182 => un (.ldv t m) r.ops
  | 0x183 => bin (.stv t m) r.ops | 0x184 => ter (.ldblk m) r.ops | 0x185 => ter (.stblk m) r.ops
  | 0x186 => un (.prefetch m) r.ops | 0x187 => un .wbline r.ops | 0x188 => un (.invline m.space) r.ops
  | 0x189 => un (.zline m) r.ops | 0x18A => bin .spq r.ops | 0x18B => un .pvbase r.ops
  | _ => none

def ofRawOrd (r : Raw) : Option Instr :=
  let m := MMod.ofCode r.mod
  match r.opc with
  | 0x1C0 => nul (.fence m.ord m.scope) r.ops | 0x1C1 => nul .drain r.ops
  | 0x1C2 => bin (.barinit m.scope m.space) r.ops | 0x1C3 => bin (.bararr m.scope m.space) r.ops
  | 0x1C4 => bin (.barwait m.scope m.space) r.ops | 0x1C5 => un (.barsync m.scope m.space) r.ops
  | 0x1C6 => bin (.barexp m.scope m.space) r.ops | 0x1C7 => bin (.bartest m.scope m.space) r.ops
  | 0x1C8 => match r.ops with | [.op a, .op v, .op (.imm c)] => some (.waitval r.ty m a v c) | _ => none
  | 0x1C9 => un .sleep r.ops | 0x1CA => un .wake r.ops | 0x1CB => nul .opfence r.ops
  | _ => none

def ofRawAtom (r : Raw) : Option Instr :=
  let t := r.ty
  let m := MMod.ofCode r.mod
  match r.opc with
  | 0x200 => bin (.atomadd t m) r.ops | 0x201 => bin (.atomfadd t m) r.ops | 0x202 => bin (.atomand t m) r.ops
  | 0x203 => bin (.atomor t m) r.ops | 0x204 => bin (.atomxor t m) r.ops | 0x205 => bin (.atommin t m) r.ops
  | 0x206 => bin (.atommax t m) r.ops | 0x207 => bin (.atomfmin t m) r.ops | 0x208 => bin (.atomfmax t m) r.ops
  | 0x209 => bin (.atominc t m) r.ops | 0x20A => bin (.atomdec t m) r.ops | 0x20B => bin (.atomxchg t m) r.ops
  | 0x20C => ter (.atomcas t m) r.ops | 0x20D => ter (.atomcas2 t m) r.ops
  | 0x20E => match r.ops with | [.op (.imm k), .op a, .op v] => some (.red t m k a v) | _ => none
  | 0x20F => match r.ops with | [.op (.imm k), .op a, .op v] => some (.redf t m k a v) | _ => none
  | _ => none

/-- MX operand formats of mmamx (R315): special codes 1-3. -/
def mxOfCode : Nat → Ty
  | 1 => .mxi8 | 2 => .mxi6 | _ => .mxi4
def mxCode : Ty → Nat
  | .mxi8 => 1 | .mxi6 => 2 | _ => 3

def ofRawMatrix (r : Raw) : Option Instr :=
  let m := MMod.ofCode r.mod
  match r.opc with
  | 0x240 => nul .mzero r.ops
  | 0x241 => quad (.mma (.ofCode (field r.mod 0 4)) (.ofCode (field r.mod 4 4)) (field r.mod 8 1 == 1) (field r.mod 9 1 == 1)) r.ops
  | 0x242 => quad (.mmamx (mxOfCode (field r.mod 0 4)) (mxOfCode (field r.mod 4 4))) r.ops
  | 0x243 => match r.ops with | [.op a, .op p, .op (.imm f)] => some (.mld m a p f) | _ => none
  | 0x244 => match r.ops with
    | [.op a, .op p, .op t, .op (.imm f), .op x] => some (.mst m a p t f x)
    | _ => none
  | 0x245 => un .mwait r.ops
  | 0x246 => match r.ops with
    | [.op a, .op b, .op c, .op d, .op e, .op f] => some (.mdesc a b c d e f)
    | _ => none
  | 0x247 => un .mtrans r.ops
  | 0x248 => immOp .mquery r.ops
  | _ => none

def ofRawRest (r : Raw) : Option Instr :=
  let b0 := field r.mod 0 1 == 1
  match r.opc with
  | 0x280 => match r.ops with | [.op a, .op b, .op c, .op d, .op e] => some (.engbind a b c d e) | _ => none
  | 0x281 => un .engunbind r.ops | 0x282 => bin .cmpwait r.ops | 0x283 => bin .cmpnext r.ops
  | 0x284 => match r.ops with | [.op h, .op (.imm c)] => some (.engstat h c) | _ => none
  | 0x2A0 => bin (.caput b0) r.ops | 0x2A1 => bin .caget r.ops | 0x2A2 => ter .caref r.ops | 0x2A3 => ter .cadrop r.ops
  | 0x2A4 => quad .caswap r.ops | 0x2A5 => ter .cawalk r.ops
  | 0x2A6 => match r.ops with | [.op rb, .op x, .op (.imm c)] => some (.castat rb x c) | _ => none
  | 0x2A7 => match r.ops with
    | [.op rb, .op h, .op c0, .op c1, .op c2, .op c3, .op c4, .op c5, .op c6] => some (.canode rb h c0 c1 c2 c3 c4 c5 c6)
    | _ => none
  | 0x2C0 => un .tasknew r.ops | 0x2C1 => bin .taskdep r.ops | 0x2C2 => bin .taskarm r.ops | 0x2C3 => nul .taskid r.ops
  | 0x2C4 => immOp .gangid r.ops | 0x2C5 => un (.prio b0) r.ops | 0x2C6 => un .estim r.ops
  | 0x2E0 => nul .dmerge r.ops | 0x2E1 => immOp .dcount r.ops | 0x2E2 => nul .dmode r.ops | 0x2E3 => ter (.dseq b0) r.ops
  | 0x2F0 => un .trap r.ops | 0x2F1 => immOp .brk r.ops | 0x2F2 => bin .assert r.ops | 0x2F3 => immOp .sysrd r.ops
  | 0x2F4 => match r.ops with | [.op (.imm c), .op v] => some (.syswr c v) | _ => none
  | 0x2F5 => bin .contset r.ops | 0x2F6 => nul .contret r.ops | 0x2F7 => un .contsig r.ops
  | 0x2F8 => match r.ops with | [.op (.imm c), .op v] => some (.ckpt c v) | _ => none
  | 0x2F9 => match r.ops with | [.op (.imm c), .op v] => some (.tlbinv c v) | _ => none
  | 0x2FA => bin .tcinv r.ops | 0x2FB => un .evtsig r.ops | 0x2FC => nul .halt r.ops
  | _ => none

/-- The instruction of a checked raw form. -/
def ofRaw (r : Raw) : Option Instr :=
  if r.opc < 0x040 then ofRawControl r else if r.opc < 0x0C0 then ofRawInt r else if r.opc < 0x140 then ofRawFloat r
  else if r.opc < 0x180 then ofRawLane r else if r.opc < 0x1C0 then ofRawMem r else if r.opc < 0x200 then ofRawOrd r
  else if r.opc < 0x240 then ofRawAtom r else if r.opc < 0x280 then ofRawMatrix r else ofRawRest r

/-! ## The decoder -/

/-- What the words at a program counter are: an instruction with its raw form and the words after it, or a rejection by name. -/
def decodeRaw (user : Bool) (argc : Nat → Nat) (ws : List Word) : Except Reject (Raw × List Word) :=
  match ws with
  | [] => .error .overrun
  | h :: ws1 =>
    let n := h.toNat
    let opc := n / 2 ^ 22
    let nop := n / 2 ^ 12 % 16
    match rowOf opc with
    | none => .error (if opc = 0 then .opcodeZero else if 0x3C0 ≤ opc then .opcodeNative else .opcodeReserved)
    | some _ =>
      match Ty.ofCode (n / 2 ^ 16 % 64) with
      | none => .error .typeReserved
      | some ty =>
        let ext : Except Reject (Nat × List Word) :=
          if nop < 15 then .ok (nop, ws1)
          else
            match ws1 with
            | [] => .error .overrun
            | c :: ws2 => if c.toNat < 15 ∨ 65535 < c.toNat then .error .operandCount else .ok (c.toNat, ws2)
        match ext with
        | .error e => .error e
        | .ok (count, ws2) =>
          let p := parseOps argc count ws2
          let r : Raw := { opc := opc, ty := ty, mod := n % 2 ^ 12, ops := p.1 }
          match p.2 with
          | .error e => .error ((checkRaw user r count (some e)).getD e)
          | .ok rest =>
            match checkRaw user r count none with
            | some e => .error e
            | none => .ok (r, rest)

/-- The decoder: total on any words, rejecting by name (R71). -/
def decode (user : Bool) (argc : Nat → Nat) (ws : List Word) : Except Reject (Instr × List Word) :=
  match decodeRaw user argc ws with
  | .error e => .error e
  | .ok (r, rest) =>
    match ofRaw r with
    | some i => .ok (i, rest)
    | none => .error .operandKind

/-- The 32-bit little-endian words of a list of bytes (R37); a last partial word is dropped. -/
def wordsOfBytes : List Byte → List Word
  | a :: b :: c :: d :: rest => BitVec.ofNat 32 (natOfBytes [a, b, c, d]) :: wordsOfBytes rest
  | _ => []

/-- Operand words of zeros that follow a table word: more than any counted operand list of a head word needs. -/
def tableWordPad : Nat := 160

/-- The bytes of a table word as the image stores them: `w` in `nbits` bits, little-endian, then zeros. -/
def tableBytes (nbits w : Nat) : List Byte :=
  bytesOfNat (4 * ((nbits + 31) / 32 + tableWordPad)) (w % 2 ^ nbits)

/-- The instruction that the decoder reads from a table word followed by words of zeros. -/
def decodeTableWord (nbits w : Nat) : Option Instr :=
  match decode false (fun _ => 0) (wordsOfBytes (tableBytes nbits w)) with
  | .ok (i, _) => some i
  | .error _ => none

/-! ## The encoder -/

def fixedRaw (opc : Nat) (ty : Ty) (mod : Nat) (os : List Opnd) : Option Raw := some ⟨opc, ty, mod, os.map .op⟩
def immRaw (opc : Nat) (ty : Ty) (k : BitVec 30) : Option Raw := some ⟨opc, ty, 0, [.op (.imm k)]⟩

/-- The MOD of barrier instructions and fences: only the fields they use (R280, R281). -/
def barMod (scope : BitVec 3) (space : Space) : Nat := 4 * scope.toNat + 256 * space.code

/-- The raw form of a portable instruction; native-only operations and events have no Daxdex words (R2, R67). -/
def toRaw : Instr → Option Raw
  | .br t => some ⟨0x001, .none, 0, [.blk t]⟩
  | .brc c t f => some ⟨0x002, .none, 0, [.op c, .blk t, .blk f]⟩
  | .brsw ty s d cs => some ⟨0x003, ty, 0, .op s :: .blk d :: cs.map .blk⟩
  | .call k as => some ⟨0x004, .none, 0, .op (.imm k) :: as.map .op⟩
  | .callx k a as => some ⟨0x005, .none, 0, .op (.imm k) :: .op a :: as.map .op⟩
  | .calll k as => some ⟨0x006, .none, 0, .op (.imm k) :: as.map .op⟩
  | .tcall k as => some ⟨0x007, .none, 0, .op (.imm k) :: as.map .op⟩
  | .tcallx k a as => some ⟨0x008, .none, 0, .op (.imm k) :: .op a :: as.map .op⟩
  | .ret vs => some ⟨0x009, .none, 0, vs.map .op⟩
  | .exit => fixedRaw 0x00A .none 0 []
  | .unreach => fixedRaw 0x00B .none 0 []
  | .rjenrol k => immRaw 0x00C .none k
  | .rjwait k => immRaw 0x00D .none k
  | .rjstrike k => immRaw 0x00E .none k
  | .rjmask k => immRaw 0x00F tyN32 k
  | .lpbeg k => immRaw 0x010 .none k
  | .lpend k => immRaw 0x011 .none k
  | .lpidx t k => immRaw 0x012 t k
  | .fnaddr k => immRaw 0x013 tyA64 k
  | .lnkaddr k => immRaw 0x014 tyA64 k
  | .yield => fixedRaw 0x015 .none 0 []
  | .add t a b => fixedRaw 0x040 t 0 [a, b] | .sub t a b => fixedRaw 0x041 t 0 [a, b]
  | .mul t a b => fixedRaw 0x042 t 0 [a, b] | .mulhi t a b => fixedRaw 0x043 t 0 [a, b]
  | .mad t a b c => fixedRaw 0x044 t 0 [a, b, c] | .div t a b => fixedRaw 0x045 t 0 [a, b]
  | .rem t a b => fixedRaw 0x046 t 0 [a, b] | .neg t a => fixedRaw 0x047 t 0 [a] | .abs t a => fixedRaw 0x048 t 0 [a]
  | .min t a b => fixedRaw 0x049 t 0 [a, b] | .max t a b => fixedRaw 0x04A t 0 [a, b]
  | .addsat t a b => fixedRaw 0x04B t 0 [a, b] | .subsat t a b => fixedRaw 0x04C t 0 [a, b]
  | .addc t a b c => fixedRaw 0x04D t 0 [a, b, c] | .subb t a b c => fixedRaw 0x04E t 0 [a, b, c]
  | .and t a b => fixedRaw 0x04F t 0 [a, b] | .or t a b => fixedRaw 0x050 t 0 [a, b]
  | .xor t a b => fixedRaw 0x051 t 0 [a, b] | .not t a => fixedRaw 0x052 t 0 [a]
  | .andn t a b => fixedRaw 0x053 t 0 [a, b] | .shl t a b => fixedRaw 0x054 t 0 [a, b]
  | .shr t a b => fixedRaw 0x055 t 0 [a, b] | .sra t a b => fixedRaw 0x056 t 0 [a, b]
  | .rotl t a b => fixedRaw 0x057 t 0 [a, b] | .rotr t a b => fixedRaw 0x058 t 0 [a, b]
  | .clz t a => fixedRaw 0x059 t 0 [a] | .ctz t a => fixedRaw 0x05A t 0 [a] | .popc t a => fixedRaw 0x05B t 0 [a]
  | .brev t a => fixedRaw 0x05C t 0 [a] | .bfx t a o w => fixedRaw 0x05D t 0 [a, o, w]
  | .bfi t a i o w => fixedRaw 0x05E t 0 [a, i, o, w] | .cmp t c a b => fixedRaw 0x05F t c.code [a, b]
  | .sel t c a b => fixedRaw 0x060 t 0 [c, a, b] | .zext t a => fixedRaw 0x061 t 0 [a]
  | .sext t a => fixedRaw 0x062 t 0 [a] | .trunc t a => fixedRaw 0x063 t 0 [a]
  | .lea s b i d => fixedRaw 0x064 tyA64 s.toNat [b, i, d] | .const t v => fixedRaw 0x065 t 0 [v]
  | .sreg t k => immRaw 0x066 t k | .bswap t a => fixedRaw 0x067 t 0 [a]
  | .fadd t m a b => fixedRaw 0x0C0 t m.code [a, b] | .fsub t m a b => fixedRaw 0x0C1 t m.code [a, b]
  | .fmul t m a b => fixedRaw 0x0C2 t m.code [a, b] | .fma t m a b c => fixedRaw 0x0C3 t m.code [a, b, c]
  | .fdiv t m a b => fixedRaw 0x0C4 t m.code [a, b] | .fsqrt t m a => fixedRaw 0x0C5 t m.code [a]
  | .frsqrt t m a => fixedRaw 0x0C6 t m.code [a] | .frcp t m a => fixedRaw 0x0C7 t m.code [a]
  | .fmin t z a b => fixedRaw 0x0C8 t (16 * bitOf z) [a, b] | .fmax t z a b => fixedRaw 0x0C9 t (16 * bitOf z) [a, b]
  | .fabs t a => fixedRaw 0x0CA t 0 [a] | .fneg t a => fixedRaw 0x0CB t 0 [a] | .fcpsgn t a b => fixedRaw 0x0CC t 0 [a, b]
  | .fcmp t z c a b => fixedRaw 0x0CD t (16 * bitOf z + 64 * c.code) [a, b]
  | .fclass t z a => fixedRaw 0x0CE t (16 * bitOf z) [a] | .frint t r z a => fixedRaw 0x0CF t (r.code + 16 * bitOf z) [a]
  | .fscale t m a n => fixedRaw 0x0D0 t m.code [a, n] | .fexp2 t m a => fixedRaw 0x0D1 t m.code [a]
  | .flog2 t m a => fixedRaw 0x0D2 t m.code [a] | .fsin t m a => fixedRaw 0x0D3 t m.code [a]
  | .fcos t m a => fixedRaw 0x0D4 t m.code [a] | .fsincos t m a => fixedRaw 0x0D5 t m.code [a]
  | .ftanh t m a => fixedRaw 0x0D6 t m.code [a] | .fsigm t m a => fixedRaw 0x0D7 t m.code [a]
  | .fcvt t m a => fixedRaw 0x0D8 t m.code [a] | .ftoi t r z a => fixedRaw 0x0D9 t (r.code + 16 * bitOf z) [a]
  | .itof t r s a => fixedRaw 0x0DA t (r.code + 8 * bitOf s) [a] | .fpack2 t m a b => fixedRaw 0x0DB t m.code [a, b]
  | .funpack2 z a => fixedRaw 0x0DC tyF32 (16 * bitOf z) [a] | .mxq t r z x => fixedRaw 0x0DD t (r.code + 16 * bitOf z) [x]
  | .mxdq t r s o e c => fixedRaw 0x0DE t (r.code + 8 * bitOf s + 32 * bitOf o) [e, c]
  | .fsflag k => fixedRaw 0x0DF tyN32 0 [k]
  | .lswap t a m => fixedRaw 0x140 t 0 [a, .imm m] | .lshfl t a i => fixedRaw 0x141 t 0 [a, i]
  | .lbcast t a i => fixedRaw 0x142 t 0 [a, i] | .lrot t a n => fixedRaw 0x143 t 0 [a, n]
  | .lvote c => fixedRaw 0x144 tyN32 0 [c] | .lany c => fixedRaw 0x145 tyB1 0 [c] | .lall c => fixedRaw 0x146 tyB1 0 [c]
  | .lred t o a => fixedRaw 0x147 t o.code [a] | .lscan t o e a => fixedRaw 0x148 t (o.code + 16 * bitOf e) [a]
  | .lfirst c => fixedRaw 0x149 tyN32 0 [c] | .lmatch a => fixedRaw 0x14A tyN32 0 [a]
  | .rng t s i => fixedRaw 0x14B t 0 [s, i] | .spmax t b n => fixedRaw 0x14C t 0 [b, n]
  | .spsoftmax t f b o n u => fixedRaw 0x14D t f.code [b, o, n, u] | .sptopk t b o n k => fixedRaw 0x14E t 0 [b, o, n, k]
  | .spsample t b n s i => fixedRaw 0x14F t 0 [b, n, s, i] | .spargmax t b n => fixedRaw 0x150 t 0 [b, n]
  | .spsum t b n => fixedRaw 0x151 t 0 [b, n]
  | .ld t m a => fixedRaw 0x180 t m.code [a] | .st t m a v => fixedRaw 0x181 t m.code [a, v]
  | .ldv t m a => fixedRaw 0x182 t m.code [a] | .stv t m a v => fixedRaw 0x183 t m.code [a, v]
  | .ldblk m o s l => fixedRaw 0x184 .none m.code [o, s, l] | .stblk m d o l => fixedRaw 0x185 .none m.code [d, o, l]
  | .prefetch m a => fixedRaw 0x186 .none m.code [a] | .wbline w => fixedRaw 0x187 .none (256 * Space.priv.code) [w]
  | .invline s a => fixedRaw 0x188 .none (256 * s.code) [a] | .zline m a => fixedRaw 0x189 .none m.code [a]
  | .spq o l => fixedRaw 0x18A tyN32 0 [o, l] | .pvbase w => fixedRaw 0x18B tyA64 0 [w]
  | .fence o s => fixedRaw 0x1C0 .none (o.code + 4 * s.toNat) [] | .drain => fixedRaw 0x1C1 .none 0 []
  | .barinit s p b e => fixedRaw 0x1C2 .none (barMod s p) [b, e] | .bararr s p b c => fixedRaw 0x1C3 tyN32 (barMod s p) [b, c]
  | .barwait s p b t => fixedRaw 0x1C4 .none (barMod s p) [b, t] | .barsync s p b => fixedRaw 0x1C5 .none (barMod s p) [b]
  | .barexp s p b n => fixedRaw 0x1C6 .none (barMod s p) [b, n] | .bartest s p b t => fixedRaw 0x1C7 tyB1 (barMod s p) [b, t]
  | .waitval t m a v c => fixedRaw 0x1C8 t m.code [a, v, .imm c]
  | .sleep t => fixedRaw 0x1C9 .none 0 [t] | .wake w => fixedRaw 0x1CA .none 0 [w] | .opfence => fixedRaw 0x1CB .none 0 []
  | .atomadd t m a v => fixedRaw 0x200 t m.code [a, v] | .atomfadd t m a v => fixedRaw 0x201 t m.code [a, v]
  | .atomand t m a v => fixedRaw 0x202 t m.code [a, v] | .atomor t m a v => fixedRaw 0x203 t m.code [a, v]
  | .atomxor t m a v => fixedRaw 0x204 t m.code [a, v] | .atommin t m a v => fixedRaw 0x205 t m.code [a, v]
  | .atommax t m a v => fixedRaw 0x206 t m.code [a, v] | .atomfmin t m a v => fixedRaw 0x207 t m.code [a, v]
  | .atomfmax t m a v => fixedRaw 0x208 t m.code [a, v] | .atominc t m a v => fixedRaw 0x209 t m.code [a, v]
  | .atomdec t m a v => fixedRaw 0x20A t m.code [a, v] | .atomxchg t m a v => fixedRaw 0x20B t m.code [a, v]
  | .atomcas t m a c n => fixedRaw 0x20C t m.code [a, c, n] | .atomcas2 t m a c n => fixedRaw 0x20D t m.code [a, c, n]
  | .red t m k a v => fixedRaw 0x20E t m.code [.imm k, a, v] | .redf t m k a v => fixedRaw 0x20F t m.code [.imm k, a, v]
  | .mzero => fixedRaw 0x240 .frag 0 []
  | .mma x y f s c a b k =>
    fixedRaw 0x241 .frag (x.code + 16 * y.code + 256 * bitOf f + 512 * bitOf s) [c, a, b, k]
  | .mmamx x y c a b k => fixedRaw 0x242 .frag (mxCode x + 16 * mxCode y) [c, a, b, k]
  | .mld m a p f => fixedRaw 0x243 .frag m.code [a, p, .imm f]
  | .mst m a p t f x => fixedRaw 0x244 .frag m.code [a, p, t, .imm f, x]
  | .mwait t => fixedRaw 0x245 .none 0 [t] | .mdesc a b c d e f => fixedRaw 0x246 tyV2n64 0 [a, b, c, d, e, f]
  | .mtrans t => fixedRaw 0x247 .frag 0 [t] | .mquery k => immRaw 0x248 tyN32 k
  | .engbind a b c d e => fixedRaw 0x280 tyN32 0 [a, b, c, d, e] | .engunbind h => fixedRaw 0x281 .none 0 [h]
  | .cmpwait h t => fixedRaw 0x282 tyN32 0 [h, t] | .cmpnext h d => fixedRaw 0x283 tyN32 0 [h, d]
  | .engstat h k => fixedRaw 0x284 tyN32 0 [h, .imm k]
  | .caput s rb src => fixedRaw 0x2A0 .name (bitOf s) [rb, src] | .caget rb x => fixedRaw 0x2A1 tyA64 0 [rb, x]
  | .caref rb x k => fixedRaw 0x2A2 .none 0 [rb, x, k] | .cadrop rb x k => fixedRaw 0x2A3 .none 0 [rb, x, k]
  | .caswap rb s e n => fixedRaw 0x2A4 .name 0 [rb, s, e, n] | .cawalk rb x o => fixedRaw 0x2A5 .name 0 [rb, x, o]
  | .castat rb x k => fixedRaw 0x2A6 tyN32 0 [rb, x, .imm k]
  | .canode rb h a b c d e f g => fixedRaw 0x2A7 .name 0 [rb, h, a, b, c, d, e, f, g]
  | .tasknew x => fixedRaw 0x2C0 tyN64 0 [x] | .taskdep p s => fixedRaw 0x2C1 .none 0 [p, s]
  | .taskarm t n => fixedRaw 0x2C2 .none 0 [t, n] | .taskid => fixedRaw 0x2C3 tyN64 0 [] | .gangid k => immRaw 0x2C4 tyN32 k
  | .prio s p => fixedRaw 0x2C5 tyN32 (bitOf s) [p] | .estim e => fixedRaw 0x2C6 .none 0 [e]
  | .dmerge => fixedRaw 0x2E0 .none 0 [] | .dcount k => immRaw 0x2E1 tyN32 k | .dmode => fixedRaw 0x2E2 tyN32 0 []
  | .dseq i d r n => fixedRaw 0x2E3 tyN32 (bitOf i) [d, r, n]
  | .trap c => fixedRaw 0x2F0 .none 0 [c] | .brk k => immRaw 0x2F1 .none k | .assert c k => fixedRaw 0x2F2 .none 0 [c, k]
  | .sysrd k => immRaw 0x2F3 tyN64 k | .syswr k v => fixedRaw 0x2F4 .none 0 [.imm k, v]
  | .contset f a => fixedRaw 0x2F5 .none 0 [f, a] | .contret => fixedRaw 0x2F6 .none 0 [] | .contsig t => fixedRaw 0x2F7 .none 0 [t]
  | .ckpt k d => fixedRaw 0x2F8 tyN32 0 [.imm k, d] | .tlbinv k v => fixedRaw 0x2F9 .none 0 [.imm k, v]
  | .tcinv h f => fixedRaw 0x2FA .none 0 [h, f] | .evtsig c => fixedRaw 0x2FB .none 0 [c] | .halt => fixedRaw 0x2FC .none 0 []
  | _ => none

/-- The words of a portable instruction. -/
def encode (i : Instr) : List Word :=
  match toRaw i with
  | some r => r.words
  | none => []

end Sys2Proof
end

