-- ==== Sys2Proof/Config.lean ====
section
/-! DEFINITION. What an implementation fixes and what the spec leaves open: constants of the package, and free values, which are
opaque constants with no body, so that no proof can see a value of them. -/
namespace Sys2Proof.Config

/-- Free values (R6): the n-th undefined value that a run meets is `freeValue n`, cut to its type. -/
opaque freeValue : Nat → BitVec 256

/-- What a read of a register returns before its landing (R6, R90): by cycle, global core, register and lane. -/
opaque undefReg : Nat → Nat → Nat → Nat → BitVec 64
/-- Cycles until the data of a variable-latency operation is back (R90, R91): by cycle of issue, wave token and first register. -/
opaque returnCycles : Nat → BitVec 64 → Nat → Nat

/-- Address of the bundle of an operation (R419 NATIVE): die, module, function, block and instruction of its portable location
fix it; the image's place in the translation cache is the device's own choice (R126, R127). -/
opaque nativeAddr : Nat → Nat → Nat → Nat → Nat → BitVec 64

/-- Which of the results within the stated bound an approximate operation returns (R194, R200, R201): a fixed function of the
instruction, the type code, the modifier and the input bits. -/
opaque approxChoice : Nat → Nat → Nat → Nat → Nat

/-- Shape of the tree of a REASSOC sum (R297, R230): 0 takes the lane order. -/
opaque treeChoice : Nat → Nat

/-- The LZ4 block that a capture writes for some bytes (R459): any that decodes to them. -/
opaque lz4Encode : List Byte → List Byte
/-- The reply of an SPDM request in the formats of DMTF SPDM 1.2 and 1.3, which the manual cites and does not print (R481). -/
opaque spdmReply : String → List Byte → List Byte
/-- What the trust die holds from manufacture and the board (R478-R480, R482): the boot ROM's digest, the fabric straps, the unique
device secret, and the key-set secret and firmware image (by digest) that it starts with. -/
opaque bootRom : BitVec 512
opaque fabricStraps : BitVec 8
opaque deviceSecret : BitVec 256
opaque keySet : BitVec 512
opaque firstFirmware : BitVec 512
/-- The image's signature verifies under the Wyelahal firmware key (R478), for the image with a digest. -/
opaque firmwareVerifies : BitVec 512 → Bool
/-- Firmware section and configuration of a die pass their measurement (R478), and the digest of the configuration (R479), under the
image with a digest. -/
opaque dieVerifies : BitVec 512 → Nat → Bool
opaque dieConfig : BitVec 512 → Nat → BitVec 512

/-- First 2 MiB unit of the addresses that the scheduler assigns as PBASE (R250). -/
opaque pbaseUnit : Nat

/-- What a byte of memory that nothing has written reads as: the manual gives no contents at power-on. DESIGN CHOICE: zero. -/
def unlistedByte : Byte := 0

/-- 160 GiB, the DPAs of one die (R20, R233). -/
def dieBytes : Nat := 160 * 2 ^ 30
/-- First byte of the translation-cache reservation (R21). -/
def reservation : Nat := 160 * 2 ^ 30 - 2 ^ 28
/-- Translator generation (R417 TGEN). -/
def translatorGen : Nat := 1

/-- Where the loader places a module's descriptors, linkage table and data (R45, R47, R141): a window of global space that it
maps in every context, on die 0. DESIGN CHOICE: the manual gives no addresses. -/
def loaderVa : Nat := 0x10000000000
def loaderDpa : Nat := 150 * 2 ^ 30
def loaderSpan : Nat := 2 ^ 33

end Sys2Proof.Config
end

