-- ==== Sys2Proof/Machine/State.lean ====
section
/-! DEFINITION. The state of the package as plain data: every piece of state the spec gives the machine, the reasons a step can
stop, and the state after reset. Sparse tables are lists of (key, bits) in one canonical form: keys strictly rising, and no
entry equal to what an unlisted key reads as (Machine/Ops.lean reads and writes them). -/
namespace Sys2Proof.Machine

/-- A sparse table of `w`-bit cells. -/
abbrev Cells (w : Nat) := List (Nat × BitVec w)

/-! ## Program counters, lanes and waves -/

/-- A program counter: the number of a bundle (R80) of the function's translation at a budget (R87), the portable location that stands for
that bundle (R120, R123, R419), the byte offset of that instruction's head word in the module image, and the number that the next value
defined there takes (R52). -/
structure Loc where
  handle : Nat
  func : Nat
  block : Nat
  index : Nat
  off : Nat
  vnum : Nat
  bun : Nat
  bud : Nat
  deriving DecidableEq, Repr, Inhabited

/-- The lane states of R432 (LST). -/
inductive LaneSt where
  | running | parked | exited | stopped
  deriving DecidableEq, Repr, Inhabited

/-- What a parked lane waits for. -/
inductive Wait where
  | none
  /-- rjwait on mask k (R150). -/
  | rejoin (k : Nat)
  /-- barwait, barsync (R285): PHASE at `base` differs from `tok`. -/
  | barrier (scope : Nat) (space : Space) (base : Dword) (tok : Word)
  /-- waitval (R286): location `a` satisfies `cond` against `v`; `done` once it has. -/
  | waitval (ty : Ty) (m : MMod) (a : Dword) (v : Val) (cond : Nat) (dst : Nat) (regs : List (Nat × Nat)) (done : Bool)
  /-- sleep (R287): ends at cycle `deadline` when that is some. -/
  | sleep (deadline : Option Nat)
  | contret
  /-- cmpwait, engunbind (R344) on handle `h`. -/
  | cmpwait (h : Nat) (target : Word) (dst : Nat) (regs : List (Nat × Nat))
  | engunbind (h : Nat) (upTo : Word)
  | dmerge
  /-- An absent scratchpad line (R249): the instruction issues again once the listed lines are present. -/
  | presence (lines : List Nat)
  /-- A lane that reached the resolver stub of linkage entry `entry` of module `handle` (R148). -/
  | resolve (handle entry : Nat)
  deriving DecidableEq, Repr, Inhabited

/-- One activation of a function in one lane (R88, R115, R144). -/
structure Frame where
  /-- The values of the activation, by number (R52). -/
  vals : Cells 256
  /-- Where the caller resumes; none in the task's entry function. -/
  ret : Option Loc
  /-- The caller's number for the first result. -/
  dst : Nat
  /-- Frame word 2: the caller's frame base; frame word 1: the caller's budget. -/
  callerFb : Nat
  budget : Nat
  /-- BPOS of the bundle at which the caller resumes (R399). -/
  bpos : Nat
  /-- The outermost frame of a continuation (R430). -/
  cont : Bool
  deriving DecidableEq, Repr, Inhabited

structure Lane where
  st : LaneSt
  wait : Wait
  pc : Loc
  /-- Where a parked lane resumes. -/
  after : Loc
  /-- Activations, the running one first. -/
  frames : List Frame
  /-- Frame base FB (R88). -/
  fb : Nat
  /-- RSIDX (R185) and BPOS (R399). -/
  rsidx : Dword
  bpos : Nat
  /-- Native registers g0-g767, s0-s63 and fm0-fm3 of the lane (R86, R93). -/
  g : Cells 32
  s : Cells 64
  fm : Cells 32
  deriving DecidableEq, Repr, Inhabited

/-- A fault record (R419). -/
structure FaultRec where
  cause : Nat
  late : Bool
  async : Bool
  cont : Bool
  event : Bool
  prim : Mask
  sec : Mask
  /-- The portable location; none when it is all ones. -/
  loc : Option Loc
  die : Nat
  native : Dword
  addr : Dword
  tag : Dword
  wave : Dword
  task : Dword
  deriving DecidableEq, Repr, Inhabited

/-- A cause known after issue, delivered at the next bundle at or after the arrival cycle (R240, R420). -/
structure LateFault where
  /-- The arrival cycle. -/
  due : Nat
  cause : Nat
  tag : Dword
  prim : Mask
  sec : Mask
  addr : Dword
  loc : Loc
  die : Nat
  deriving DecidableEq, Repr, Inhabited

/-- The pending asynchronous fault (R424, R432 PEND); `tile` is the tile of the mld that met it (R320). -/
structure PendFault where
  cause : Nat
  count : Nat
  loc : Loc
  die : Nat
  addr : Dword
  tag : Dword
  tile : Option Nat
  deriving DecidableEq, Repr, Inhabited

/-- The landing of a variable-latency operation (R90): its arrival cycle, the cycle at which its data is back, the landing-buffer entries that it
holds (R27), and the data: register, lane and bits. Until it lands, these registers of these lanes are undefined. -/
structure Landing where
  due : Nat
  back : Nat
  entries : Nat
  data : List (Nat × Nat × Dword)
  deriving DecidableEq, Repr, Inhabited

/-- One fmtset on its way: it acts for operations issued `due` or later (R95). -/
structure FmPend where
  due : Nat
  reg : Nat
  mask : Mask
  v : Word
  deriving DecidableEq, Repr, Inhabited

/-- The key of a translation (R126). -/
structure TransKey where
  modkey : Dword
  func : Nat
  cls : Nat
  gen : Nat
  budget : Nat
  dmode : Nat
  deriving DecidableEq, Repr, Inhabited

/-- One resident wave. -/
structure Wave where
  /-- Place: die, core within the die, wave slot, and the sequence number of its token (R419). -/
  die : Nat
  core : Nat
  slot : Nat
  seq : Nat
  /-- Index of its workgroup in `State.wgs`, and its wave number. -/
  wg : Nat
  num : Nat
  /-- The wave occupies its slot. -/
  live : Bool
  lanes : List Lane
  /-- Rejoin masks E[k] and P[k] (R149). -/
  enr : List Mask
  prk : List Mask
  /-- Loop levels IDX[k] and TRIP[k] (R153). -/
  idx : List Word
  trip : List Word
  /-- FPFLAGS (R187): NX UF OF DZ NV in bits 4-0, and the flags among them that land in cycle `fpAt` (R188). -/
  fpf : BitVec 5
  fpAt : Nat
  fpNew : BitVec 5
  /-- RETIRED (R175), and the bundles since the last barrier phase (R136) with the barriers the wave has arrived on. -/
  retired : Dword
  sincePhase : Nat
  arrivedOn : List Nat
  /-- Cycles without an issue, and for each group that the wave does not offer the issues since it was offered (R136, R432 STARV). -/
  starve : Nat
  unoffered : List (Loc × Nat)
  /-- The location of a group that R136 makes the wave offer next. -/
  offerNext : Option Loc
  /-- The cycle at which the yield hold ends, plus 1 (0 for none), and the turn that a yield passes (R157). -/
  hold : Nat
  passTurn : Bool
  wkp : Bool
  faulted : Bool
  frec : Option FaultRec
  /-- The fault's delivery point (R420). -/
  late : List LateFault
  pend : Option PendFault
  /-- Continuation state (R429). -/
  contfn : Dword
  contarg : Dword
  incont : Bool
  csig : Bool
  cmask : Mask
  rpc : Loc
  /-- A precise fault 0x20 whose continuation waits for its function, to be resolved or translated: the group, its place, the record, and
  whether the loader has been asked (R430). -/
  contAsk : Option (Mask × Loc × FaultRec × Bool)
  /-- A fault has been delivered, and what R422 does then waits for the wave's issued operations. -/
  unsaved : Bool
  /-- A tlbinv of the wave, at a place, waits for the accesses issued before this number (R444). -/
  tlbAfter : Option (Nat × Loc)
  /-- Native predicate registers q0-q15 (R86). -/
  q : Cells 32
  /-- Accumulator tiles, cell key tile * 8192 + i * TN + j; tiles 0-15 are a0-a15, and each frag value of a function is a tile with a
  higher number (R317). -/
  tiles : Cells 32
  /-- The wave waits to send an operation to its quern (R309). -/
  qoffer : Bool
  fmPend : List FmPend
  landings : List Landing
  /-- Tiles whose kmov has not passed its LAT, with the cycle at which it does (R101). -/
  tilePend : List (Nat × Nat)
  /-- Lines of the register space that no read has brought back since a restore (R436): n for gn, 768 + n for tile an. -/
  cold : List Nat
  /-- The state block or an area beside it stands in a line in error (R423). -/
  blockBad : Bool
  /-- PBASE and WBP (R250, R431). -/
  pbase : Dword
  wbp : Option Dword
  /-- The budget B' of the wave's translations (R87). -/
  budget : Nat
  /-- An opfence stands before the next matrix operation (R288). -/
  opfence : Bool
  /-- A cut: paused with this cut number, and CUTSTOP (R438). -/
  cutAt : Option Nat
  cutStop : Bool
  /-- Cycles waited under throttling (R471), and the wave takes the primary place of its core next (R136, R471). -/
  throttled : Nat
  primary : Bool
  /-- The wave waits for, or has, a translation at a new budget (R130, R131); the reason with which its translation failed (R121). -/
  migrate : Bool
  xfail : Option Nat
  /-- Its translation was evicted at fault 0x81 (R85, R129). -/
  evicted : Bool
  /-- The key whose retranslation it has counted (R129), and the handler task that was made for its failed translation (R426). -/
  retr : Option TransKey
  xwait : Option Dword
  deriving DecidableEq, Repr, Inhabited

/-! ## Workgroups, gangs and tasks -/

/-- A reduction held to the merge (R303, R404): a lane's, or the contribution that the lanes of one instruction make to a window. -/
structure Reduction where
  /-- The physical key of the location, its virtual address, the window of a contribution (R300), the device of a fabric page (R242), and the
  lanes whose records it stands for. -/
  key : Nat
  va : Dword
  window : Option Nat
  tfdn : Option Nat
  lanes : Nat
  op : Nat
  ty : Ty
  v : Val
  /-- Key ID of the page (R22). -/
  keyid : Nat
  deriving DecidableEq, Repr, Inhabited

/-- A ring binding of the leat (R328, R329). -/
structure Binding where
  wg : Nat
  handle : Nat
  /-- Slot of the leat, which orders the service (R331). -/
  slot : Nat
  ctl : Nat
  cbase : Nat
  ncmd : Nat
  crbase : Nat
  ncpl : Nat
  /-- The leat's own HEAD and CTAIL (R329, R344 engstat). -/
  head : Word
  ctail : Word
  /-- 0 unbound, 1 bound, 2 halted, 3 draining. -/
  st : Nat
  /-- The NOTIFY value at which a draining binding stops. -/
  stopAt : Word
  /-- A ring overrun has halted it: it fetches nothing more (R330). -/
  halted : Bool
  /-- Stores that raised NOTIFY: the value after each, the wave token and the lanes that made it (R145). -/
  pubs : List (Word × Dword × Mask)
  deriving DecidableEq, Repr, Inhabited

/-- A command that a leat has fetched (R330, R331). -/
structure Command where
  id : Nat
  wg : Nat
  handle : Nat
  /-- Entry number of its first entry. -/
  seq : Word
  bytes : List Byte
  begun : Bool
  /-- The data has been moved; what the record will say (R338). -/
  finished : Bool
  status : Nat
  fcode : Nat
  written : Nat
  foff : Nat
  /-- Reference taken by CAOUT (R340): region slot and name. -/
  held : Option (Nat × BitVec 128)
  /-- Scratchpad lines whose presence its begin cleared (R336). -/
  lines : List Nat
  deriving DecidableEq, Repr, Inhabited

inductive WgSt where
  /-- Resident on a core; stopping for a context save or a kill (R386), or for the end of an aborted task (R427); saved; waiting to
  start again from its entry; ended. -/
  | resident | saving | killing | saved | restart | ended
  deriving DecidableEq, Repr, Inhabited

structure Workgroup where
  st : WgSt
  task : Dword
  num : Nat
  die : Nat
  core : Nat
  /-- Start core of the gang within the die (R380). -/
  scoreStart : Nat
  spadB : Nat
  /-- Scratchpad bytes, and the lines that are absent, rising (R248). -/
  spad : Cells 8
  absent : List Nat
  /-- Words of 64 bits of the scratchpad in which an uncorrectable error stands (R475). -/
  badPad : List Nat
  /-- Refresh cost kept at each vault (R385). -/
  cost : List Nat
  /-- Write set W by location, [14:9] key ID, [8] present and [7:0] byte (R402, R404), its shadow lines that stand in a pool, and the reductions in
  program order. -/
  wset : Cells 15
  wpool : List Nat
  reds : List Reduction
  /-- Scratchpad image (R433). -/
  spimg : Option Dword
  /-- The argument block is still to be read (R375): the cause that the read met, and its address. -/
  argsDue : Option (Nat × Dword)
  /-- Budget at admission (R456). -/
  budget : Nat
  deriving DecidableEq, Repr, Inhabited

/-- A gang of a task (R380). -/
structure Gang where
  task : Dword
  num : Nat
  /-- Schedule-frame counter FC (R395), and the ranks of the open frame whose turns are still to come, in order, each with whether its turn is
  empty (R396, R397). -/
  fc : Nat
  plan : List (Nat × Bool)
  /-- The cycle in which its last frame ended, plus 1: a cycle is one frame at most (R395). -/
  frameEnd : Nat
  /-- Merged set G: [8] present, [7:0] byte, [14:9] key ID, [46:15] the owner (R402, R405), its shadow lines that stand in a pool, and folds since
  admission. -/
  gset : Cells 47
  gpool : List Nat
  folds : Nat
  deriving DecidableEq, Repr, Inhabited

/-- The fields of a launch record (R373). -/
structure Launch where
  handle : Nat
  fidx : Nat
  grid : Nat
  nwave : Nat
  gang : Nat
  budget : Nat
  pwords : Nat
  flags : BitVec 16
  spad : Nat
  prio : Word
  estim : Dword
  seed : Dword
  args : Dword
  arglen : Nat
  deps : Word
  nreg : Nat
  nsucc : Nat
  regions : List Dword
  succs : List Dword
  deriving DecidableEq, Repr, Inhabited

inductive TaskSt where
  | held | armed | ready | running | done
  deriving DecidableEq, Repr, Inhabited

/-- One used entry of a die's dependency table (R376). -/
structure Task where
  die : Nat
  entry : Nat
  seq : Nat
  ctx : Nat
  user : Bool
  launch : Launch
  st : TaskSt
  count : Word
  succs : List Dword
  prio : Word
  pceil : Word
  estim : Dword
  /-- Firing die (R377), gangs admitted so far by number, workgroups ended. -/
  fired : Nat
  admitted : List Nat
  ended : Nat
  /-- The cycle at which the task fired or a workgroup was last admitted, and the stall event sent (R383). -/
  sinceAdmit : Nat
  stallSent : Bool
  /-- Made by R425 for this context. -/
  handler : Bool
  /-- Cores on which a drain keeps the task from admission (R386): the task that waits, and the global core. -/
  drainOn : List (Dword × Nat)
  /-- The record with which an ABORT ends the task (R427, R428). -/
  aborted : Option FaultRec
  /-- The writes of its merge are on their way; its successors wait for them (R405). -/
  merging : Bool
  deriving DecidableEq, Repr, Inhabited

/-! ## Modules (R37-R76) -/

structure SigInfo where
  params : List Ty
  results : List Ty
  deriving DecidableEq, Repr, Inhabited

structure BlockInfo where
  /-- Byte offset of the first head word in the image, instruction count, and number of the first argument. -/
  off : Nat
  ninstr : Nat
  args : List Ty
  argBase : Nat
  deriving DecidableEq, Repr, Inhabited

structure LoopLevel where
  kind : Nat
  head : Nat
  exit : Nat
  trip : Opnd
  deriving DecidableEq, Repr, Inhabited

structure FuncInfo where
  name : List Byte
  sig : SigInfo
  blocks : List BlockInfo
  /-- Types of the values by number (R52). -/
  valTy : List Ty
  loops : List LoopLevel
  /-- Block 0 and the targets of branches from blocks of equal or higher index, rising: the quiet blocks of R120. -/
  quiet : List Nat
  exported : Bool
  budget : Nat
  deriving DecidableEq, Repr, Inhabited

structure LinkInfo where
  sym : List Byte
  from_ : Option (List Byte)
  sig : Option SigInfo
  lazy : Bool
  deriving DecidableEq, Repr, Inhabited

structure DataInfo where
  name : List Byte
  writable : Bool
  exported : Bool
  addr : Dword
  size : Nat
  deriving DecidableEq, Repr, Inhabited

structure Module where
  handle : Nat
  /-- Privilege level: true for user (R415). -/
  user : Bool
  image : List Byte
  digest : BitVec 512
  loads : Nat
  name : List Byte
  funcs : List FuncInfo
  sigs : List SigInfo
  links : List LinkInfo
  datas : List DataInfo
  /-- Where the loader placed the descriptor table and the linkage table (R45, R141). -/
  descBase : Dword
  linkBase : Dword
  deriving DecidableEq, Repr, Inhabited

/-- A request in the loader's queue (R70, R148, R417). -/
inductive LoadReq where
  | load (user : Bool) (addr : Dword) (len : Nat) (ctx : Nat)
  | unload (h : Nat)
  /-- Lanes of the wave with this token wait for linkage entry `entry` of module `handle`. -/
  | resolve (wave : Dword) (handle entry : Nat)
  deriving DecidableEq, Repr, Inhabited

/-! ## Translations (R122-R128) -/

/-- A map-point record of a side table (R123). -/
structure MapRec where
  block : Nat
  index : Nat
  boff : Nat
  live : List Word
  deriving DecidableEq, Repr, Inhabited

/-- A native-only operation of a bundle (R96), with the operands of its row of the opcode table. -/
inductive NatOp where
  | mov (dst sa : BitVec 10) (hi : Bool) (lit : Option Word)
  | spill (sa imm : BitVec 10) (callee : Bool)
  | fill (dst imm : BitVec 10) (callee : Bool) (land : BitVec 10)
  | land
  | fmtset (dst : BitVec 10) (lit : Word)
  | kmov (dst sa : BitVec 10)
  | qmov (dst sa : BitVec 10)
  deriving DecidableEq, Repr, Inhabited

/-- One operation of a bundle (R80): the native-only operation, or the portable instruction of the bundle's block that it performs, with the
first register and the register count of each result; `high` is the second operation of a 64-bit scalar const (R173). -/
structure BundleOp where
  /-- The portable instruction to which it is attributed (R117). -/
  att : Nat
  own : Option Nat
  nat : Option NatOp
  high : Option (Nat × Word)
  dsts : List (Nat × Nat)
  /-- The registers of the values that it reads: value number, first register, register count. -/
  srcs : List (Nat × Nat × Nat)
  /-- FSEL of a typed operation (R94), and LAND of a variable-latency one (R83). -/
  fsel : Option Nat
  land : Nat
  deriving DecidableEq, Repr, Inhabited

/-- A bundle as the translator made it. -/
structure Bundle where
  /-- Where it stands: at the first instruction of a block, at the instruction of its map point (R120), or at the earliest to which one of its
  operations is attributed. -/
  block : Nat
  index : Nat
  /-- Number within its block or stub (BPOS, R399), first of its block, next after a call. -/
  cyc : Nat
  first : Bool
  back : Bool
  /-- Byte offset in the bundles (R123). -/
  boff : Nat
  map : Option Nat
  quiet : Bool
  cut : Nat
  stamp : Option Nat
  /-- The last bundle of its block or stub. -/
  term : Bool
  /-- Instructions of the block that no operation performs: constants, taken with the block's first bundle. -/
  bare : List Nat
  ops : List BundleOp
  /-- SLOTS, and the slots whose slice an operation holds for longer than the cycle of issue, with the cycles (R26, R81). -/
  slots : Nat
  holds : List (Nat × Nat)
  /-- The bundle to which lanes that take each target go before they enter it, if any (R113, R114), and the one target that the br of a stub, or
  after a brc, leads to. -/
  gos : List (Option Nat)
  only : Option Nat
  deriving DecidableEq, Repr, Inhabited

/-- An image of a die's translation cache (R122, R128). -/
structure TransImage where
  die : Nat
  unit : Nat
  units : Nat
  key : TransKey
  /-- Bytes of bundles and case tables as the translator made them; the image's bytes stand in its units of the reservation (R126). -/
  code : List Byte
  maps : List MapRec
  pool : List (BitVec 128)
  framew : Nat
  minb : Nat
  /-- The bundles, and for every instruction of every block its byte offset in the module image and the number of the next value. -/
  plan : List Bundle
  /-- The first bundle of each block. -/
  starts : List Nat
  places : List (List (Nat × Nat))
  /-- Values of the scalar class (R108), by number. -/
  scal : List Nat
  /-- Marked stale by tcinv (R445), and the waves that were inside it then. -/
  stale : Bool
  users : List Dword
  lastUse : Nat
  deriving DecidableEq, Repr, Inhabited

/-- A translation in progress, with the unit set aside for it, and the waves that wait for it (R127, R128). -/
structure TransReq where
  die : Nat
  handle : Nat
  key : TransKey
  unit : Option Nat
  waiters : List Dword
  deriving DecidableEq, Repr, Inhabited

/-! ## Memory system -/

/-- A line of a core's L1 (R244), most recently used first in `State.l1` (R247): the physical key of its first byte / 128, and the space
through which it came (0, 2, 3 or 6). A line of a wave's own words has its owner and its virtual address (R250, R252). -/
structure L1Line where
  core : Nat
  line : Nat
  sp : Nat
  dirty : Bool
  sticky : Bool
  owner : Dword
  va : Dword
  /-- Key ID of the page through which it came (R22). -/
  keyid : Nat
  data : List Byte
  deriving DecidableEq, Repr, Inhabited

/-- A translation-buffer entry of a core (R237). -/
structure TlbEnt where
  core : Nat
  ctx : Nat
  /-- Base of the page and log2 of its size. -/
  va : Nat
  lg : Nat
  leaf : Dword
  ekey : Nat
  deriving DecidableEq, Repr, Inhabited

/-- What a write does at its home. -/
inductive WriteFx where
  | bytes (bs : List Byte)
  /-- An atomic update by the function of R295 with this opcode, type and operands in lane order. -/
  | rmw (opc : Nat) (ty : Ty) (vs : List Val)
  deriving DecidableEq, Repr, Inhabited

inductive MsgSt where
  /-- On its way to the home die; accepted and waiting for sharers; denied, the acknowledgement on its way. -/
  | sent | accepted | denied
  deriving DecidableEq, Repr, Inhabited

/-- A remote write in flight (R241, R246, R424). -/
structure Msg where
  id : Nat
  st : MsgSt
  wave : Dword
  srcDie : Nat
  /-- Global core that sent it, for a core's own write. -/
  core : Option Nat
  home : Nat
  /-- DPA at the home die. -/
  dpa : Nat
  va : Dword
  user : Bool
  /-- Fabric page: the device that holds the frame (R242). -/
  tfdn : Option (BitVec 8)
  fx : WriteFx
  loc : Loc
  cause : Nat
  /-- Dies whose acknowledgement of an invalidation is outstanding. -/
  invs : List Nat
  /-- Tile of the mst that wrote it, command of the leat that wrote it. -/
  tile : Option Nat
  cmd : Option Nat
  /-- Offset in the destination of that command. -/
  coff : Nat
  /-- ORD 2 or 3: it performs after every earlier write of its wave. -/
  release : Bool
  /-- ORD 1 or 3, with its scope: no later access of its wave performs before it (R298). -/
  acq : Option Nat
  /-- Key ID of the page through which it was made (R22). -/
  keyid : Nat
  deriving DecidableEq, Repr, Inhabited

/-- What a span instruction computes (R225-R229): the out format and tau of a softmax, the record count of a top-k, the random word of a sample. -/
inductive SpanKind where
  | max | argmax | sum
  | softmax (o : OutFmt) (tau : Nat)
  | topk (k : Nat)
  | sample (u : Nat)
  deriving DecidableEq, Repr, Inhabited

/-- A span instruction from its issue to its completion (R230, R231): the unit that holds or queues it (the cluster of a V die, 100 + the core of
a K die), its wave, the span, the out span with its length, whether the two overlap as R227 and R228 forbid; and the bytes of the span, at issue
and after each write of another agent since. -/
structure SpanOp where
  die : Nat
  unit : Nat
  wave : Dword
  kind : SpanKind
  base : Nat
  ty : Ty
  n : Nat
  out : Nat
  outLen : Nat
  clash : Bool
  seen : List (List Byte)
  deriving DecidableEq, Repr, Inhabited

/-- A block copy in progress (R258). -/
structure BlockCopy where
  id : Nat
  wave : Dword
  wg : Nat
  core : Nat
  toSpad : Bool
  spadOff : Nat
  va : Dword
  lines : List Nat
  m : MMod
  loc : Loc
  /-- Bytes that are undefined, by offset and length: the wave's pending mst writes them too (R326). -/
  undef : List (Nat × Nat)
  deriving DecidableEq, Repr, Inhabited

/-- An operation of a quern (R309). -/
structure QuernOp where
  die : Nat
  cluster : Nat
  quern : Nat
  wave : Dword
  loc : Loc
  instr : Instr
  /-- Operands taken at issue: numbers of tiles read and written, and the uniform values. -/
  dst : Nat
  srcs : List Nat
  vals : List Val
  /-- 0 accepted, 1 its tile writes made, 2 completed and not yet covered by an mwait (R326). -/
  stage : Nat
  /-- Its result is undefined: the wave has written an operand byte since, or its tile was (R101, R326). -/
  taint : Bool
  /-- Bytes that the wave has written and that an mst will write: scratchpad or not, offset or physical key, length (R326). -/
  undef : List (Bool × Nat × Nat)
  deriving DecidableEq, Repr, Inhabited

/-- A member's contribution to a round: the device, the contribution number, the value, and for this device's own the context of its translation and
the wave that made it (none at a merge). -/
structure RoundPart where
  fdn : Nat
  num : Nat
  v : Val
  ctx : Option Nat
  wave : Option Dword
  /-- The cycle at which it came. -/
  came : Nat
  deriving DecidableEq, Repr, Inhabited

/-- A reduction round of a window (R301, R302). -/
structure Round where
  window : Nat
  off : Nat
  /-- Contributions in ascending FDN. -/
  parts : List RoundPart
  first : Nat
  deriving DecidableEq, Repr, Inhabited

/-- Sequence state of one region of a die (R408). -/
structure SeqRegion where
  die : Nat
  region : Nat
  next : Word
  exp : List Word
  failed : Bool
  deriving DecidableEq, Repr, Inhabited

/-- An element of an RCOPY: its offset in the destination, its location, the key ID of its page, its value; and whether its bytes are also source
bytes, and so undefined (R335). -/
structure RcElem where
  off : Nat
  key : Nat
  keyid : Nat
  v : Val
  undef : Bool
  deriving DecidableEq, Repr, Inhabited

/-- A part of an RCOPY waiting at a vault controller (R339). -/
structure SeqPart where
  die : Nat
  region : Nat
  vault : Nat
  seq : Word
  cmd : Nat
  since : Nat
  /-- The elements, with the op and the type. -/
  elems : List RcElem
  op : Nat
  ty : Ty
  deriving DecidableEq, Repr, Inhabited

/-- The engine of a content-addressed region slot (R347, R353): the range it was enabled with, and its drop queue. -/
structure CaRegion where
  slot : Nat
  base : Dword
  logn : Nat
  keyslot : Nat
  /-- Context through which the engine reaches the region's pages. -/
  ctx : Nat
  drops : List (BitVec 128)
  retryAt : Nat
  deriving DecidableEq, Repr, Inhabited

/-! ## Dies -/

structure DieSt where
  /-- DIEOK (R18) and withdrawn from placement (R36). -/
  ok : Bool
  withdrawn : Bool
  /-- Cluster cycles since reset (R175). -/
  clock : Nat
  /-- Sequence number of the dependency table (R376), and of wave creation per core (R419). -/
  taskSeq : Nat
  waveSeq : List (Nat × Nat)
  /-- Charges CHGn (R384), vault bands, withdrawn clusters and cores, faulted vaults, gated clusters. -/
  chg : List Nat
  bands : List Nat
  goneClusters : List Nat
  goneCores : List Nat
  goneQuerns : List (Nat × Nat)
  badVaults : List Nat
  gated : List Nat
  /-- The cycle at which a workgroup last left each cluster, and the clusters whose gating started, with the cycle (R388). -/
  idle : List Nat
  gateAt : List (Nat × Nat)
  /-- The cycles of the die's last admission and of its last pre-emption decision, plus 1: one of each in a cycle (R382, R386). -/
  scanAt : Nat
  preemptAt : Nat
  /-- FTCORE of the 80 cores: mask and ratio (R474), where they differ from reset. -/
  ftcore : List (Nat × BitVec 6 × BitVec 24)
  droopcnt : Dword
  /-- Error log and its counters (R477), tracking entries (R476). -/
  errHead : Nat
  errTail : Nat
  errDrop : Nat
  errLost : Nat
  errLog : List (Nat × Dword × Nat)
  track : List (Nat × Nat × Nat × Nat)
  deriving DecidableEq, Repr, Inhabited

/-! ## Package -/

/-- A cut in progress (R438). -/
structure CutSt where
  /-- 0 idle, 1 reporting, 2 stopping, 3 held, 4 failed. -/
  st : Nat
  kcut : Nat
  since : Nat
  /-- Task and context that asked; the cut belongs to a ckpt operation of mode 0. -/
  task : Dword
  ctx : Nat
  deriving DecidableEq, Repr, Inhabited

/-- What a capture keeps of a content-addressed region as it stood at S (R458): the region's slot, CARB and CARC, the present
lines (slot, name, count, flags, bytes) in ascending name, and the drop queue. -/
structure RegionSnap where
  n : Nat
  carb : Dword
  carc : Dword
  ents : List (Nat × Nat × Nat × Nat × List Byte)
  drops : List (BitVec 128)
  deriving DecidableEq, Repr, Inhabited

/-- The model's own: what the register spaces of a checkpoint hold of the portable state (see the assumption log), by the digest
that its manifest signs. -/
structure CkptSnap where
  key : BitVec 512
  tasks : List Task
  wgs : List Workgroup
  gangs : List Gang
  waves : List Wave
  bindings : List Binding
  deriving DecidableEq, Repr, Inhabited

/-- A manifest entry (R460). -/
structure CkptEntry where
  digest : BitVec 512
  loc : Nat
  clen : Nat
  flags : Nat
  deriving DecidableEq, Repr, Inhabited

/-- A ckpt operation (R443, R449-R466). -/
structure CkptSt where
  active : Bool
  mode : Nat
  opnum : Nat
  desc : Dword
  ctx : Nat
  task : Dword
  /-- Step of R451 reached: 0 the cut, 1 S has passed, 2 shards, 3 the CA lines are written. -/
  phase : Nat
  /-- Fields of the descriptor (R449). -/
  area : Nat
  areaLen : Nat
  base : Nat
  split : Nat
  /-- From S on, frames of the capture set are copy-pending: not those of the ranges `excl`, those `taken` by a staging copy, nor
  the first `done` of the stream's memory part. Frame numbers are die * 2^22 + frame. -/
  on : Bool
  excl : List (Nat × Nat)
  taken : List Nat
  done : Nat
  /-- The staging copies made: frame and slot. -/
  staged : List (Nat × Nat)
  /-- Leaves whose CKP bit the capture set: physical keys. -/
  leaves : List Nat
  /-- Control image, regions and workgroups as at S. -/
  ctl : Cells 8
  regions : List RegionSnap
  work : CkptSnap
  recs : List Byte
  entries : List CkptEntry
  /-- Stored bytes written so far. -/
  stored : Nat
  deriving DecidableEq, Repr, Inhabited

/-- A copy-pending write waits at its home die (R452). -/
structure HeldWrite where
  id : Nat
  /-- Global core whose write it is, for a core's own write. -/
  core : Option Nat
  key : Nat
  bytes : List Byte
  /-- Key ID under which it was made (R22). -/
  keyid : Nat
  deriving DecidableEq, Repr, Inhabited

/-- A host access that waits for the host writes received before it (R275): a write of `bytes`, or a read of `n`. -/
structure HostReq where
  write : Bool
  va : Dword
  bytes : List Byte
  n : Nat
  deriving DecidableEq, Repr, Inhabited

/-- An SPDM session (R481). -/
structure Session where
  id : Nat
  established : Bool
  mutualAuth : Bool
  key : BitVec 256
  deriving DecidableEq, Repr, Inhabited

/-- The trust die (R19, R478-R482). -/
structure TrustSt where
  kss : BitVec 512
  /-- A KSS drawn by a rekey, for the next package reset. -/
  pendingKss : Option (BitVec 512)
  /-- Slots of the key store that hold a region key. -/
  regionKeys : List Nat
  moduleKeys : List Val
  ckptKeys : List Val
  sessions : List Session
  nextSession : Nat
  /-- Digest of the firmware image in force, and of a verified one for the next package reset. -/
  firmware : BitVec 512
  pendingFirmware : Option (BitVec 512)
  /-- Bytes of the staging area (R484). -/
  staging : Cells 8
  /-- The last response of the responder. -/
  response : List Byte
  /-- Selective IDE streams with a key (R483). -/
  ide : List Nat
  deriving DecidableEq, Repr, Inhabited

/-- A fabric message (R488). -/
structure FabMsg where
  op : Nat
  sdie : Nat
  ddie : Nat
  tid : Word
  addr : Nat
  aop : Nat
  etype : Nat
  attr : Nat
  /-- Devices that send and receive it (R487). -/
  sfdn : Nat
  dfdn : Nat
  data : List Byte
  /-- The wave whose window contribution it is: outstanding until a switch accepts the message (R302). -/
  owner : Option Dword
  deriving DecidableEq, Repr, Inhabited

/-- A read or atomic on another device that has been sent (R242, R488): who asked (a wave token with the location of its
instruction, or an engine command), the message, and the answer once it has come: its bytes, or a cause. -/
structure FabReq where
  owner : Dword
  loc : Loc
  tfdn : Nat
  msg : FabMsg
  /-- Number among the messages with which one group of an atomic tries (R295). -/
  att : Nat
  reply : Option (List Byte)
  cause : Nat
  deriving DecidableEq, Repr, Inhabited

/-- A flit kept for replay (R487, R489). -/
structure Flit where
  seq : Nat
  kind : Nat
  epoch : Nat
  dfdn : Nat
  payload : List Byte
  /-- Waves whose contributions it carries. -/
  owners : List Dword
  deriving DecidableEq, Repr, Inhabited

structure PortSt where
  /-- Next SEQ to send and the SEQ expected. -/
  sendSeq : Nat
  expSeq : Nat
  replay : List Flit
  resends : Nat
  lastAck : Nat
  /-- Key slots that hold a key, the current epoch of each direction, and a deferred rollover. -/
  txKeys : List Nat
  rxKeys : List Nat
  epoch : Nat
  rollover : Nat
  deferred : Bool
  failed : Bool
  /-- Messages received and not yet served, and messages to send. -/
  inbox : List FabMsg
  outbox : List FabMsg
  /-- Responses of the port to the link: acknowledgements and the like. -/
  replies : List Flit
  deriving DecidableEq, Repr, Inhabited

/-- The issue that `exec` serves: the wave, its active lanes, the location of the instruction, where the lanes stand, where they go on, for
each target of a branch the bundle that leads to it, if any, with its number in its block or stub, the first register and the register count
of each result, the registers of the values that it reads, the type that a format register gives the first of them, LAND, the landing-buffer
entries that the operation takes (R262, R304), and whether its bundle bears an issue stamp (R120). -/
structure Issue where
  wave : Nat
  mask : Mask
  loc : Loc
  here : Loc
  next : Loc
  gos : List (Option (Loc × Nat))
  dsts : List (Nat × Nat)
  srcs : List (Nat × Nat × Nat)
  yt : Option (Nat × Ty)
  land : Nat
  entries : Nat
  stamped : Bool
  deriving DecidableEq, Repr, Inhabited

/-- A cause of R421 with its tag. -/
structure Cause where
  code : Nat
  tag : Dword
  deriving DecidableEq, Repr, Inhabited

/-- Who makes an access, and how (R232, R238): global core number, die, context, privilege, space, read and write. -/
structure Acc where
  core : Nat
  die : Nat
  ctx : Nat
  user : Bool
  space : Space
  rd : Bool
  wr : Bool
  deriving DecidableEq, Repr, Inhabited

/-- Where an access lands (R233, R235): home die, DPA, the leaf that maps it, log2 of the page size, and the physical key of
the leaf entry. -/
structure Phys where
  home : Nat
  dpa : Nat
  leaf : Dword
  lg : Nat
  ekey : Nat
  deriving DecidableEq, Repr, Inhabited

/-- A unit of a die that is withdrawn by itself (R36): a core, a quern of a cluster, a cluster, a fabric port. -/
inductive LostUnit where
  | core (n : Nat)
  | quern (cluster n : Nat)
  | cluster (n : Nat)
  | port (n : Nat)
  deriving DecidableEq, Repr, Inhabited

/-- What happens next, as the machine's surroundings and its free orders choose it. -/
inductive Move where
  /-- An event of the table. -/
  | event (i : Instr)
  /-- The group of `wave` that holds lane `lane` issues. -/
  | issue (wave lane : Nat)
  /-- `n` cycles pass. -/
  | cycles (n : Nat)
  /-- An L1 line of a core is evicted (R244, R252). -/
  | evict (core line : Nat)
  /-- The RDC of a die evicts a line, or a line's home L2 does (R246). -/
  | evictRdc (die line : Nat)
  | evictL2 (line : Nat)
  /-- A unit of a die is found to have a lasting fault (R36). -/
  | unitFails (die : Nat) (u : LostUnit)
  /-- Too many bits of a line of a millpond, by physical line key, are upset to be corrected (R475); of a word of 64 bits of a scratchpad. -/
  | upset (line : Nat)
  | upsetPad (wg word : Nat)
  /-- The cache lines of bundle `bun` of the image at unit `unit` of a die are corrupted: these bytes stand there (R85). -/
  | corrupt (die unit bun : Nat) (bytes : List Byte)
  deriving DecidableEq, Repr, Inhabited

structure State where
  /-- The package has power; it is halted (R447). -/
  power : Bool
  halted : Bool
  cycle : Nat
  issue : Issue
  agenda : List Move
  /-- The bundles of this cycle's issue packets (R135): wave, lanes, SLOTS. -/
  issued : List (Nat × Mask × Nat)
  /-- Slices held beyond the cycle of issue (R26, R134): global core, slot, first free cycle. -/
  slices : List (Nat × Nat × Nat)
  waves : List Wave
  wgs : List Workgroup
  gangs : List Gang
  tasks : List Task
  modules : List Module
  loads : List LoadReq
  /-- System registers, key copy * 4096 + code (R417, R456); an unlisted one reads as its reset value. -/
  sys : Cells 64
  /-- Bytes at die * 2^38 + DPA (R233). -/
  mem : Cells 8
  l1 : List L1Line
  /-- L2 sharer masks SHR by line key, and the lines each RDC holds: (die, line) (R246). -/
  shr : Cells 8
  rdc : List (Nat × Nat)
  rdcFills : List (Nat × Nat × Bool)
  /-- What EVICT has recorded in lines of the RDCs (by die) and of the L2s (8): cache, line, sticky or the next victim of its set (R247). -/
  hints : List (Nat × Nat × Bool)
  /-- Lines of the millponds with an uncorrectable error, by physical line key (R240, R475). -/
  badLines : List Nat
  /-- The key ID under which `mem` lists a line, by physical line key (R22, R482). -/
  keyids : Cells 6
  /-- Frame states by die * 2^22 + frame (R241). -/
  frames : Cells 2
  tlb : List TlbEnt
  msgs : List Msg
  nextId : Nat
  copies : List BlockCopy
  held : List HeldWrite
  /-- Host accesses received and not yet performed, in order of receipt (R275). -/
  hostQ : List HostReq
  bindings : List Binding
  cmds : List Command
  /-- Binding slot that each leat served last, plus 1 (R331), by die * 20 + cluster. -/
  leatLast : Cells 8
  quern : List QuernOp
  /-- Tile slots of the querns, most recently used first (R308): global core, wave token, tile. -/
  slots : List (Nat × Dword × Nat)
  /-- Span instructions that hold or wait for a select network (V die) or the slices of a core (K die), in order of issue (R231). -/
  spans : List SpanOp
  rounds : List Round
  /-- Contribution numbers that have come: window, device, the number below which all have, and those above it (R301). -/
  heard : List (Nat × Nat × Nat × List Nat)
  /-- Contribution counters of the windows (R300), by slot. -/
  contrib : List Nat
  /-- Windows and inbound grants as they were when EN was set (R243, R299): slot, base register, control register; and the die
  of a grant first. -/
  windows : List (Nat × Dword × Dword)
  grants : List (Nat × Nat × Dword × Dword)
  seqs : List SeqRegion
  parts : List SeqPart
  ca : List CaRegion
  images : List TransImage
  transReqs : List TransReq
  /-- Fault records that wait for space in a notice ring, and MSI-X vectors sent (R425). -/
  notices : List (Nat × FaultRec)
  msix : List Nat
  dies : List DieSt
  cut : CutSt
  ckpt : CkptSt
  opnum : Nat
  snaps : List CkptSnap
  trust : TrustSt
  ports : List PortSt
  fabReqs : List FabReq
  /-- HWCTX, PLIM, the task port's record, TKCTX and TKRES (R467, R484, R486). -/
  hwctx : Nat
  plim : Dword
  tkrec : List Byte
  tkctx : Nat
  tkres : Dword
  /-- STATESEL (R484), and the value the last host read returned. -/
  statesel : Dword
  hostData : List Byte
  /-- The model's own: the number of free values read so far (see Config.freeValue). -/
  freeCnt : Nat
  deriving DecidableEq, Repr, Inhabited

/-! ## Reasons to stop -/

/-- Why the machine stops for good. -/
inductive Fault where
  /-- Raised by `step` when the package has lost power (R463): nothing happens until it starts again. Safe. -/
  | noPower
  deriving DecidableEq, Repr

/-- Why a step has no meaning. -/
inductive Refusal where
  /-- Raised by an arm of `exec` that has no meaning yet. Safe. -/
  | notModelled (mnemonic : String)
  /-- Raised by `step` when the words at a program counter decode to no instruction; the loader accepts no module that holds
  such words (R68), so no run from reset meets it. Safe. -/
  | badEncoding (why : Reject)
  deriving DecidableEq, Repr

/-- What a meaning answers. -/
abbrev Outcome := Host.Outcome State Fault Refusal

/-! ## Reset -/

/-- Die class (R12): 1 is K, 2 is V. -/
def dieClass (d : Nat) : Nat := if d < 6 then 1 else 2

/-- A die that has left reset (R18, R478): charges zero (R384), counters zero. -/
def DieSt.reset : DieSt :=
  { ok := true, withdrawn := false, clock := 0, taskSeq := 0, waveSeq := [], chg := List.replicate 32 0,
    bands := List.replicate 32 0, goneClusters := [], goneCores := [], goneQuerns := [], badVaults := [], gated := [],
    idle := List.replicate 20 0, gateAt := [], scanAt := 0, preemptAt := 0, ftcore := [], droopcnt := 0, errHead := 0, errTail := 0, errDrop := 0, errLost := 0,
    errLog := [], track := [] }

/-- The trust die as the package leaves the factory: no list holds a key, no session is open. -/
def TrustSt.reset : TrustSt :=
  { kss := Config.keySet, pendingKss := none, regionKeys := [], moduleKeys := [], ckptKeys := [], sessions := [], nextSession := 0,
    firmware := Config.firstFirmware, pendingFirmware := none, staging := [], response := [], ide := [] }

def PortSt.reset : PortSt :=
  { sendSeq := 0, expSeq := 0, replay := [], resends := 0, lastAck := 0, txKeys := [0], rxKeys := [0], epoch := 0, rollover := 0,
    deferred := false, failed := false, inbox := [], outbox := [], replies := [] }

/-- The state right after reset: the eight dies released (R478), nothing loaded, no task, memory with nothing listed, every
system register at its reset value. The values that the spec does not give are named in notes/assumptions. -/
def State.reset : State :=
  { power := true, halted := false, cycle := 0, issue := default, agenda := [], issued := [], slices := [], waves := [], wgs := [], gangs := [], tasks := [],
    modules := [], loads := [], sys := [], mem := [], l1 := [], shr := [], rdc := [], rdcFills := [], hints := [], badLines := [], keyids := [], frames := [], tlb := [],
    msgs := [], nextId := 0, copies := [], held := [], hostQ := [], bindings := [], cmds := [], leatLast := [], quern := [], slots := [], spans := [], rounds := [], heard := [],
    contrib := List.replicate 8 0, windows := [], grants := [], seqs := [], parts := [], ca := [], images := [], transReqs := [], notices := [], msix := [],
    dies := List.replicate 8 DieSt.reset, cut := default, ckpt := default, opnum := 0, snaps := [], trust := TrustSt.reset,
    ports := List.replicate 16 PortSt.reset, fabReqs := [], hwctx := 0,
    plim := BitVec.ofNat 64 (10000 * 2 ^ 32 + 3600 * 2 ^ 16 + 3200), tkrec := List.replicate 128 0, tkctx := 0, tkres := 0,
    statesel := 0, hostData := [], freeCnt := 0 }

end Sys2Proof.Machine
end

