-- ==== Sys2Proof/Machine/Cells.lean ====
section
/-! DEFINITION. Reading and writing the sparse tables of the state. A table lists its keys strictly rising and lists no key whose
bits are what an unlisted key reads as, so that equal tables are equal data. -/
namespace Sys2Proof.Machine

/-- The bits at a key; `d` gives what an unlisted key reads as. -/
def cget {w : Nat} (d : Nat → BitVec w) : Cells w → Nat → BitVec w
  | [], a => d a
  | (k, v) :: m, a => if a = k then v else cget d m a

/-- The table without a key. -/
def cdel {w : Nat} : Cells w → Nat → Cells w
  | [], _ => []
  | (k, v) :: m, a => if a = k then cdel m a else (k, v) :: cdel m a

/-- The table with a key at given bits, in canonical form. -/
def cset {w : Nat} (d : Nat → BitVec w) : Cells w → Nat → BitVec w → Cells w
  | [], a, v => if v = d a then [] else [(a, v)]
  | (k, x) :: m, a, v =>
    if k < a then (k, x) :: cset d m a v
    else if k = a then (if v = d a then cdel m a else (a, v) :: cdel m a)
    else (if v = d a then (k, x) :: cdel m a else (a, v) :: (k, x) :: cdel m a)

/-- Canonical form of a table whose keys are at least `lo`. -/
def cwfFrom {w : Nat} (d : Nat → BitVec w) : Nat → Cells w → Bool
  | _, [] => true
  | lo, (k, v) :: m => decide (lo ≤ k) && decide (v ≠ d k) && cwfFrom d (k + 1) m

/-- Canonical form. -/
def cwf {w : Nat} (d : Nat → BitVec w) (m : Cells w) : Bool := cwfFrom d 0 m

/-- All-zero default. -/
def zeros (w : Nat) : Nat → BitVec w := fun _ => 0

/-- What unlisted memory reads as. -/
def memDflt : Nat → Byte := fun _ => Config.unlistedByte

/-- Canonical form of the memory. -/
abbrev Memory.wf (m : Cells 8) : Prop := cwf memDflt m = true

/-- `n` consecutive bytes from a key. -/
def readBytes (m : Cells 8) (k : Nat) : Nat → List Byte
  | 0 => []
  | n + 1 => cget memDflt m k :: readBytes m (k + 1) n

/-- Consecutive bytes written from a key. -/
def writeBytes (m : Cells 8) (k : Nat) : List Byte → Cells 8
  | [] => m
  | b :: bs => writeBytes (cset memDflt m k b) (k + 1) bs

/-- The little-endian number of `n` bytes (R37). -/
def readNat (m : Cells 8) (k n : Nat) : Nat := natOfBytes (readBytes m k n)

/-- The table with the keys of [lo, hi) dropped. -/
def clearRange {w : Nat} (m : Cells w) (lo hi : Nat) : Cells w := m.filter fun e => e.1 < lo || hi ≤ e.1

/-- The listed cells of [lo, hi), moved by `to` - `lo`. -/
def sliceRange {w : Nat} (m : Cells w) (lo hi at_ : Nat) : Cells w :=
  (m.filter fun e => lo ≤ e.1 && e.1 < hi).map fun e => (e.1 - lo + at_, e.2)

/-- The table with the cells of [at_, at_ + n) replaced by those of [lo, lo + n) of another table. -/
def copyRange {w : Nat} (d : Nat → BitVec w) (src : Cells w) (lo n : Nat) (m : Cells w) (at_ : Nat) : Cells w :=
  (sliceRange src lo (lo + n) at_).foldl (fun acc e => cset d acc e.1 e.2) (clearRange m at_ (at_ + n))

/-- A run of bytes in place of what stood there, as one splice. -/
def putBytes (m : Cells 8) (k : Nat) (bs : List Byte) : Cells 8 :=
  m.filter (fun e => decide (e.1 < k)) ++ ((bs.zipIdx k).map fun b => (b.2, b.1)).filter (fun e => e.2 != memDflt e.1) ++
    m.filter fun e => decide (k + bs.length ≤ e.1)

/-- The list with element `i` replaced by its image. -/
def updAt {α : Type} : List α → Nat → (α → α) → List α
  | [], _, _ => []
  | a :: as, 0, f => f a :: as
  | a :: as, i + 1, f => a :: updAt as i f

/-- A free value of the state's counter (R6): bits of the asked width, and the state that has read it. -/
def State.takeFree (s : State) : Val × State :=
  (Config.freeValue s.freeCnt, { s with freeCnt := s.freeCnt + 1 })

/-- 64-bit, 32-bit numerals from naturals. -/
def dw (n : Nat) : Dword := BitVec.ofNat 64 n
def w32 (n : Nat) : Word := BitVec.ofNat 32 n

end Sys2Proof.Machine
end

