-- ==== Sys2Proof/Machine/Hash.lean ====
section
/-! DEFINITION. The public algorithms that the manual cites and does not print: SHA-512 and HMAC-SHA-512 (R49, R459, R478, R480,
R482), the BLAKE3 keyed hash (R350), Ed25519 signatures (R50, R461, R478) and the LZ4 block format (R459). Taken from their
public standards: FIPS 180-4, RFC 2104, the BLAKE3 specification, RFC 8032, and the LZ4 block format description. -/
namespace Sys2Proof.Machine

/-! ## SHA-512 -/

def big8 (bs : List Byte) : Nat := bs.foldl (fun n b => n * 256 + b.toNat) 0
/-- The `n` big-endian bytes of a number. -/
def bigBytes (n v : Nat) : List Byte := (bytesOfNat n v).reverse

/-- The integer part of the `k`-th root of `n`, below 2^b above `r`: one binary digit at a time. -/
def rootFrom (k n : Nat) : Nat → Nat → Nat
  | 0, r => r
  | b + 1, r => rootFrom k n b (if (r + 2 ^ b) ^ k ≤ n then r + 2 ^ b else r)
/-- The first 64 bits of the fractional part of the `k`-th root of a number below 2^9. -/
def rootFrac (k p : Nat) : Nat := rootFrom k (p * 2 ^ (64 * k)) 69 0 % 2 ^ 64
/-- The first 80 primes. -/
def shaPrimes : List Nat := (List.range 410).filter fun n => 2 ≤ n && (List.range n).all fun d => d < 2 || n % d != 0
/-- The round constants, from cube roots, and the initial value, from square roots. -/
def shaK : List Nat := shaPrimes.map (rootFrac 3)
def shaInit : List Nat := (shaPrimes.take 8).map (rootFrac 2)

def rot64 (x n : Nat) : Nat := (x / 2 ^ n ||| x * 2 ^ (64 - n)) % 2 ^ 64

/-- A word turned right by three amounts, combined; the last is a plain shift if `cut`. -/
def mix64 (x a b c : Nat) (cut : Bool) : Nat := rot64 x a ^^^ rot64 x b ^^^ (if cut then x / 2 ^ c else rot64 x c)

/-- One round on the eight working words, last word first; the next message word goes in with its constant. -/
def shaRound (v : List Nat) (kw : Nat) : List Nat :=
  match v with
  | [h, g, f, e, d, c, b, a] =>
    let t := h + mix64 e 14 18 41 false + (g ^^^ (e &&& (f ^^^ g))) + kw
    let maj := (a &&& (b ||| c)) ||| (b &&& c)
    [g, f, e, (d + t) % 2 ^ 64, c, b, a, (t + mix64 a 28 34 39 false + maj) % 2 ^ 64]
  | _ => v
/-- The rounds of a block over the sixteen message words in force, oldest first: each round uses one and appends the word that follows from it. -/
def shaRounds : List Nat → List Nat → List Nat → List Nat
  | [], _, v => v
  | k :: ks, ws, v =>
    let w := fun (i : Nat) => ws.getD i 0
    let next := (w 0 + mix64 (w 1) 1 8 7 true + w 9 + mix64 (w 14) 19 61 6 true) % 2 ^ 64
    shaRounds ks (ws.tail ++ [next]) (shaRound v (k + w 0))

def wordsOf (n : Nat) : Nat → List Byte → List (List Byte)
  | 0, _ => []
  | k + 1, bs => bs.take n :: wordsOf n k (bs.drop n)

def shaBlock (h : List Nat) (block : List Byte) : List Nat :=
  List.zipWith (fun x y => (x + y) % 2 ^ 64) h (shaRounds shaK ((wordsOf 8 16 block).map big8) h.reverse).reverse

/-- The 64-byte digest. -/
def sha512 (msg : List Byte) : List Byte :=
  let n := msg.length
  let m := msg ++ [0x80] ++ List.replicate ((239 - n % 128) % 128) 0 ++ bigBytes 16 (8 * n)
  ((wordsOf 128 (m.length / 128) m).foldl shaBlock shaInit).flatMap (bigBytes 8)

/-- HMAC with SHA-512. -/
def hmac512 (key msg : List Byte) : List Byte :=
  let k := if key.length ≤ 128 then key else sha512 key
  let k := k ++ List.replicate (128 - k.length) 0
  sha512 (k.map (· ^^^ 0x5c) ++ sha512 (k.map (· ^^^ 0x36) ++ msg))

/-! ## BLAKE3, keyed, for one chunk of two blocks -/

def b3Iv : List Nat :=
  [0x6A09E667, 0xBB67AE85, 0x3C6EF372, 0xA54FF53A, 0x510E527F, 0x9B05688C, 0x1F83D9AB, 0x5BE0CD19]
def b3Perm : List Nat := [2, 6, 3, 10, 7, 0, 4, 13, 1, 11, 12, 5, 9, 14, 15, 8]
def rot32 (x n : Nat) : Nat := (x / 2 ^ n ||| x * 2 ^ (32 - n)) % 2 ^ 32

/-- The quarter round on words `a b c d` of the state with two message words. -/
def b3G (s : List Nat) (a b c d x y : Nat) : List Nat :=
  let va := (s.getD a 0 + s.getD b 0 + x) % 2 ^ 32
  let vd := rot32 (s.getD d 0 ^^^ va) 16
  let vc := (s.getD c 0 + vd) % 2 ^ 32
  let vb := rot32 (s.getD b 0 ^^^ vc) 12
  let va := (va + vb + y) % 2 ^ 32
  let vd := rot32 (vd ^^^ va) 8
  let vc := (vc + vd) % 2 ^ 32
  let vb := rot32 (vb ^^^ vc) 7
  updAt (updAt (updAt (updAt s a fun _ => va) b fun _ => vb) c fun _ => vc) d fun _ => vd

def b3Round (s m : List Nat) : List Nat :=
  let w := fun i => m.getD i 0
  let s := b3G (b3G (b3G (b3G s 0 4 8 12 (w 0) (w 1)) 1 5 9 13 (w 2) (w 3)) 2 6 10 14 (w 4) (w 5)) 3 7 11 15 (w 6) (w 7)
  b3G (b3G (b3G (b3G s 0 5 10 15 (w 8) (w 9)) 1 6 11 12 (w 10) (w 11)) 2 7 8 13 (w 12) (w 13)) 3 4 9 14 (w 14) (w 15)

def b3Rounds : Nat → List Nat → List Nat → List Nat
  | 0, s, _ => s
  | n + 1, s, m => b3Rounds n (b3Round s m) (b3Perm.map fun i => m.getD i 0)

def b3Compress (cv m : List Nat) (flags : Nat) : List Nat :=
  let s := b3Rounds 7 (cv ++ b3Iv.take 4 ++ [0, 0, 64, flags]) m
  (List.range 8).map fun i => s.getD i 0 ^^^ s.getD (i + 8) 0

/-- The 32-byte keyed hash of 128 bytes. -/
def blake3Keyed (key line : List Byte) : List Byte :=
  let blk := fun (bs : List Byte) => (wordsOf 4 16 bs).map natOfBytes
  let cv := b3Compress ((wordsOf 4 8 key).map natOfBytes) (blk (line.take 64)) 0x11
  (b3Compress cv (blk (line.drop 64)) 0x1A).flatMap (bytesOfNat 4)

/-! ## Ed25519 -/

def edP : Nat := 2 ^ 255 - 19
def edL : Nat := 2 ^ 252 + 27742317777372353535851937790883648493

/-- x to the n modulo m, over `fuel` bits of n. -/
def powMod (m : Nat) : Nat → Nat → Nat → Nat
  | 0, _, _ => 1 % m
  | fuel + 1, x, n =>
    let h := powMod m fuel (x * x % m) (n / 2)
    if n % 2 = 1 then x * h % m else h
def edInv (x : Nat) : Nat := powMod edP 256 x (edP - 2)
def edSub (a b : Nat) : Nat := (a + edP - b % edP) % edP
def edD : Nat := edSub 0 (121665 * edInv 121666)
def edI : Nat := powMod edP 256 2 ((edP - 1) / 4)

/-- A point in extended coordinates. -/
structure EdPoint where
  x : Nat
  y : Nat
  z : Nat
  t : Nat
  deriving DecidableEq, Repr, Inhabited

def EdPoint.zero : EdPoint := { x := 0, y := 1, z := 1, t := 0 }
def EdPoint.add (p q : EdPoint) : EdPoint :=
  let a := edSub p.y p.x * edSub q.y q.x % edP
  let b := (p.y + p.x) * (q.y + q.x) % edP
  let c := 2 * p.t * q.t * edD % edP
  let d := 2 * p.z * q.z % edP
  let e := edSub b a
  let f := edSub d c
  let g := (d + c) % edP
  let h := (b + a) % edP
  { x := e * f % edP, y := g * h % edP, z := f * g % edP, t := e * h % edP }
def EdPoint.mul : Nat → Nat → EdPoint → EdPoint
  | 0, _, _ => EdPoint.zero
  | fuel + 1, n, p =>
    let h := EdPoint.mul fuel (n / 2) (p.add p)
    if n % 2 = 1 then h.add p else h
def EdPoint.same (p q : EdPoint) : Bool :=
  (p.x * q.z) % edP == (q.x * p.z) % edP && (p.y * q.z) % edP == (q.y * p.z) % edP

/-- The point that 32 bytes encode: y and the sign of x. -/
def edDecode (bs : List Byte) : Option EdPoint :=
  let n := natOfBytes bs
  let y := n % 2 ^ 255
  let sign := n / 2 ^ 255
  if edP ≤ y then none
  else
    let x2 := edSub (y * y) 1 * edInv ((edD * y % edP * y + 1) % edP) % edP
    let x := powMod edP 256 x2 ((edP + 3) / 8)
    let x := if x * x % edP = x2 then x else x * edI % edP
    if x * x % edP ≠ x2 ∨ (x = 0 ∧ sign = 1) then none
    else
      let x := if x % 2 = sign then x else edSub 0 x
      some { x := x, y := y, z := 1, t := x * y % edP }
def edEncode (p : EdPoint) : List Byte :=
  let zi := edInv p.z
  bytesOfNat 32 (p.y * zi % edP + (p.x * zi % edP) % 2 * 2 ^ 255)
def edBase : EdPoint := (edDecode (bytesOfNat 32 (4 * edInv 5 % edP))).getD EdPoint.zero

/-- The secret scalar of a seed. -/
def edScalar (seed : List Byte) : Nat :=
  let h := natOfBytes ((sha512 seed).take 32)
  h % 2 ^ 254 / 8 * 8 + 2 ^ 254
def ed25519Pub (seed : List Byte) : List Byte := edEncode (edBase.mul 256 (edScalar seed))
def ed25519Sign (seed msg : List Byte) : List Byte :=
  let a := edScalar seed
  let pk := ed25519Pub seed
  let r := natOfBytes (sha512 ((sha512 seed).drop 32 ++ msg)) % edL
  let rb := edEncode (edBase.mul 256 r)
  let k := natOfBytes (sha512 (rb ++ pk ++ msg)) % edL
  rb ++ bytesOfNat 32 ((r + k * a) % edL)
def ed25519Verify (pk msg sig : List Byte) : Bool :=
  match edDecode pk, edDecode (sig.take 32) with
  | some a, some r =>
    let s := natOfBytes (sig.drop 32)
    let k := natOfBytes (sha512 (sig.take 32 ++ pk ++ msg)) % edL
    decide (s < edL) && (edBase.mul 256 s).same (r.add (a.mul 256 k))
  | _, _ => false

/-! ## LZ4 blocks -/

/-- A length continued in further bytes: the sum, and the rest. -/
def lzLen : Nat → Nat → List Byte → Option (Nat × List Byte)
  | 0, _, _ => none
  | _ + 1, _, [] => none
  | fuel + 1, n, b :: bs => if b = 255 then lzLen fuel (n + 255) bs else some (n + b.toNat, bs)
def lzField (nib fuel : Nat) (bs : List Byte) : Option (Nat × List Byte) := if nib = 15 then lzLen fuel 15 bs else some (nib, bs)

/-- `n` bytes copied from `off` back, one after another; `out` is the output so far, the newest byte first. -/
def lzCopy : Nat → Nat → List Byte → List Byte
  | 0, _, out => out
  | n + 1, off, out => lzCopy n off (out.getD (off - 1) 0 :: out)

/-- The sequences of a block. -/
def lzRun : Nat → List Byte → List Byte → Option (List Byte)
  | 0, _, _ => none
  | _ + 1, [], _ => none
  | fuel + 1, tok :: bs, out =>
    match lzField (tok.toNat / 16) bs.length bs with
    | none => none
    | some (n, bs) =>
      if bs.length < n then none
      else
        let out := (bs.take n).reverse ++ out
        match bs.drop n with
        | [] => some out
        | [_] => none
        | o0 :: o1 :: bs =>
          let off := o0.toNat + 256 * o1.toNat
          if off = 0 ∨ out.length < off then none
          else
            match lzField (tok.toNat % 16) bs.length bs with
            | none => none
            | some (m, bs) => lzRun fuel bs (lzCopy (m + 4) off out)
def lz4Decode (bs : List Byte) : Option (List Byte) := (lzRun (bs.length + 1) bs []).map List.reverse

/-- The block of one sequence of literals. -/
def lz4Literals (bs : List Byte) : List Byte :=
  let n := bs.length
  if n < 15 then BitVec.ofNat 8 (16 * n) :: bs
  else 0xF0 :: (List.replicate ((n - 15) / 255) 255 ++ [BitVec.ofNat 8 ((n - 15) % 255)] ++ bs)
/-- The block that the device writes: any that decodes to the bytes. -/
def lz4Block (bs : List Byte) : List Byte :=
  let c := Config.lz4Encode bs
  if lz4Decode c = some bs then c else lz4Literals bs

end Sys2Proof.Machine
end

