-- ==== Sys2Proof/Machine/Cipher.lean ====
section
/-! DEFINITION. AES-XTS-256 (01_machine.md R22, 18_power_package_trust.md R482): the cipher through which the vaults store their lines, as
a capture takes them (17_checkpoint.md R455). -/
namespace Sys2Proof.Machine

/-- Product in GF(2^8) modulo x^8 + x^4 + x^3 + x + 1, over the low `n` bits of `b`. -/
def gfMul : Nat → Nat → Nat → Nat
  | 0, _, _ => 0
  | n + 1, a, b =>
    let a2 := if a < 128 then 2 * a else (2 * a) ^^^ 0x11B
    (if b % 2 = 1 then a else 0) ^^^ gfMul n a2 (b / 2)
def gf (a b : Nat) : Nat := gfMul 8 a b
/-- a^254, the inverse. -/
def gfInv (a : Nat) : Nat :=
  let a2 := gf a a; let a4 := gf a2 a2; let a8 := gf a4 a4; let a16 := gf a8 a8; let a32 := gf a16 a16; let a64 := gf a32 a32
  gf (gf (gf a2 a4) (gf a8 a16)) (gf (gf a32 a64) (gf a64 a64))
def rotl8 (x n : Nat) : Nat := (x * 2 ^ n + x / 2 ^ (8 - n)) % 256
/-- The S-box and its inverse. -/
def sbox (x : Nat) : Nat :=
  let b := gfInv x
  b ^^^ rotl8 b 1 ^^^ rotl8 b 2 ^^^ rotl8 b 3 ^^^ rotl8 b 4 ^^^ 0x63
def sboxInv (x : Nat) : Nat := gfInv (rotl8 x 1 ^^^ rotl8 x 3 ^^^ rotl8 x 6 ^^^ 0x05)

/-- Round keys of AES-256: 60 words of 4 bytes, from word number `i` on. -/
def aesWords : Nat → Nat → List (List Nat) → List (List Nat)
  | 0, _, ws => ws
  | n + 1, i, ws =>
    let t := ws.getD (i - 1) []
    let t := if i % 8 = 0 then
        let r := (t.drop 1 ++ t.take 1).map sbox
        (r.headD 0 ^^^ 2 ^ (i / 8 - 1)) :: r.tail
      else if i % 8 = 4 then t.map sbox else t
    aesWords n (i + 1) (ws ++ [List.zipWith (· ^^^ ·) (ws.getD (i - 8) []) t])
def chunks (n : Nat) : Nat → List Nat → List (List Nat)
  | 0, _ => []
  | k + 1, bs => bs.take n :: chunks n k (bs.drop n)
def aesKeys (key : List Nat) : List (List Nat) := chunks 16 15 (aesWords 52 8 (chunks 4 8 key)).flatten

def shiftRows (st : List Nat) : List Nat := (List.range 16).map fun i => st.getD ((i + 4 * (i % 4)) % 16) 0
def shiftRowsInv (st : List Nat) : List Nat := (List.range 16).map fun i => st.getD ((i + 12 * (i % 4)) % 16) 0
/-- Each column by the circulant matrix of a row. -/
def mixWith (row : List Nat) (st : List Nat) : List Nat :=
  (List.range 16).map fun i =>
    let c := i / 4 * 4
    (List.range 4).foldl (fun x j => x ^^^ gf (row.getD ((4 + j - i % 4) % 4) 0) (st.getD (c + j) 0)) 0
def addKey (st k : List Nat) : List Nat := List.zipWith (· ^^^ ·) st k

def aesEncRounds (st : List Nat) : List (List Nat) → List Nat
  | [] => st
  | [k] => addKey (shiftRows (st.map sbox)) k
  | k :: ks => aesEncRounds (addKey (mixWith [2, 3, 1, 1] (shiftRows (st.map sbox))) k) ks
def aesEnc (keys : List (List Nat)) (st : List Nat) : List Nat := aesEncRounds (addKey st (keys.headD [])) keys.tail

def aesDecRounds (st : List Nat) : List (List Nat) → List Nat
  | [] => st
  | [k] => addKey st k
  | k :: ks => aesDecRounds ((shiftRowsInv (mixWith [14, 11, 13, 9] (addKey st k))).map sboxInv) ks
def aesDec (keys : List (List Nat)) (st : List Nat) : List Nat :=
  let r := keys.reverse
  aesDecRounds ((shiftRowsInv (addKey st (r.headD []))).map sboxInv) r.tail

/-- The tweak times x in GF(2^128), as a little-endian number. -/
def xtsDouble (t : Nat) : Nat := if t < 2 ^ 127 then 2 * t else (2 * t - 2 ^ 128) ^^^ 0x87

def xtsBlocks (f : List Nat → List Nat) : Nat → Nat → List Nat → List Nat
  | 0, _, _ => []
  | n + 1, t, bs =>
    let tw := (bytesOfNat 16 t).map BitVec.toNat
    addKey (f (addKey (bs.take 16) tw)) tw ++ xtsBlocks f n (xtsDouble t) (bs.drop 16)

def natsOf (bs : List Byte) : List Nat := bs.map BitVec.toNat
def bytesOf (ns : List Nat) : List Byte := ns.map (BitVec.ofNat 8)

/-- The key schedule halves of a 64-byte key: data and tweak. -/
def xtsKeys (key : List Byte) : List (List Nat) × List (List Nat) := (aesKeys (natsOf (key.take 32)), aesKeys (natsOf ((key.drop 32).take 32)))
def xtsTweak (ks : List (List Nat) × List (List Nat)) (unit : Nat) : Nat := natOfBytes (bytesOf (aesEnc ks.2 (natsOf (bytesOfNat 16 unit))))

/-- A line of 128 bytes as its vault stores it, for data unit `unit`, and back. -/
def xtsEnc (ks : List (List Nat) × List (List Nat)) (unit : Nat) (line : List Byte) : List Byte :=
  bytesOf (xtsBlocks (aesEnc ks.1) 8 (xtsTweak ks unit) (natsOf line))
def xtsDec (ks : List (List Nat) × List (List Nat)) (unit : Nat) (line : List Byte) : List Byte :=
  bytesOf (xtsBlocks (aesDec ks.1) 8 (xtsTweak ks unit) (natsOf line))

/-- The memory key of a key ID (R482). -/
def State.memKey (s : State) (k : Nat) : List Byte := hmac512 (bytesOfNat 64 s.trust.kss.toNat) [0x6D, 0x65, 0x6D, BitVec.ofNat 8 k]

end Sys2Proof.Machine
end

