-- ==== Sys2Proof/Machine/Regs.lean ====
section
/-! DEFINITION. The storage of the system registers (16_traps_preemption.md R417, R418, 17_checkpoint.md R456): which copy a code
names, reset values, the bits a write reaches, and the fields that other definitions read. -/
namespace Sys2Proof.Machine

/-- Field [lo+w-1:lo] of a 64-bit word. -/
def bits (v : Dword) (lo w : Nat) : Nat := v.toNat / 2 ^ lo % 2 ^ w
/-- One bit of a 64-bit word. -/
def bit (v : Dword) (n : Nat) : Bool := bits v n 1 == 1
/-- A 64-bit word with field [lo+w-1:lo] replaced. -/
def setBits (v : Dword) (lo w n : Nat) : Dword :=
  dw (v.toNat - bits v lo w * 2 ^ lo + n % 2 ^ w * 2 ^ lo)

/-- Register codes of scope "package" (R417). -/
def sysIsPackage (c : Nat) : Bool :=
  c == 1 || c == 2 || (0x008 ≤ c && c ≤ 0x00D) || c == 0x028 || c == 0x029 || (0x048 ≤ c && c ≤ 0x057) ||
  (0x060 ≤ c && c ≤ 0x07F)
/-- Register codes of scope "context". -/
def sysIsContext (c : Nat) : Bool := 0x010 ≤ c && c ≤ 0x01D

/-- The copy a code names for a die and a context: 0 package, 1 + d die, 9 + c context (R417, R456). -/
def sysCopy (die ctx c : Nat) : Nat := if sysIsPackage c then 0 else if sysIsContext c then 9 + ctx else 1 + die

/-- DIEID of die `d` (R13). -/
def dieId (d : Nat) : Dword := dw (2 ^ 16 + dieClass d * 2 ^ 8 + d)

/-- Reset values (R13, R384, R417, R418); where the spec gives none, zero (see the assumption log). -/
def sysReset (key : Nat) : Dword :=
  let cp := key / 4096
  let c := key % 4096
  if c = 0x000 ∧ 1 ≤ cp ∧ cp ≤ 8 then dieId (cp - 1)
  else if c = 0x001 ∧ cp = 0 then Config.fabricStraps.setWidth 64
  else if c = 0x002 ∧ cp = 0 then 1
  else if c = 0x00C ∧ cp = 0 then dw (0xFFFFFFFF * 2 ^ 32 + 0xFFFF * 2 ^ 16)
  else if c = 0x029 ∧ cp = 0 then 256
  else if c = 0x035 ∧ 1 ≤ cp ∧ cp ≤ 8 then 100
  else if 0x040 ≤ c ∧ c ≤ 0x047 ∧ 1 ≤ cp ∧ cp ≤ 8 then
    let h := c - 0x040
    dw (16 * (h + 1) * 2 ^ 24 + 2 * h * 2 ^ 16 + 25 * (h + 1))
  else 0

/-- The stored bits of a register copy. -/
def State.sysGet (s : State) (cp c : Nat) : Dword := cget sysReset s.sys (cp * 4096 + c)
def State.sysSet (s : State) (cp c : Nat) (v : Dword) : State := { s with sys := cset sysReset s.sys (cp * 4096 + c) v }
/-- The copy of a context. -/
def State.ctxGet (s : State) (ctx c : Nat) : Dword := s.sysGet (9 + ctx) c
def State.ctxSet (s : State) (ctx c : Nat) (v : Dword) : State := s.sysSet (9 + ctx) c v
/-- The copy of a die. -/
def State.dieGet (s : State) (d c : Nat) : Dword := s.sysGet (1 + d) c
def State.dieSet (s : State) (d c : Nat) (v : Dword) : State := s.sysSet (1 + d) c v

/-- The bits that a write reaches (R7, R13, R51, R129, R243, R299, R346, R384, R417, R418). -/
def sysMask (c : Nat) : Dword :=
  if sysCodeRO c then 0
  else if c = 0x008 ∨ c = 0x01B then 1
  else if c = 0x012 then 0xFFFF011F
  else if c = 0x020 then 7
  else if c = 0x021 ∨ c = 0x022 then 0
  else if c = 0x015 ∨ c = 0x01D then 0
  else if c = 0x00B ∨ c = 0x01A ∨ c = 0x028 then 0
  else if c = 0x024 then 0x3FFFFFF000
  else if c = 0x029 ∨ c = 0x035 then 0xFFFF
  else if 0x040 ≤ c ∧ c ≤ 0x047 then 0xFFFFFFFF
  else if 0x048 ≤ c ∧ c ≤ 0x04F then 0x1FFFFFFFFFF003F
  else if 0x050 ≤ c ∧ c ≤ 0x057 then 0xA0FFFFFFFFFF0FC7
  else if 0x060 ≤ c ∧ c ≤ 0x06F then 0x1FFFFFFFFFF001F
  else if 0x070 ≤ c ∧ c ≤ 0x07F then 0x8000FF0000000000
  else if 0x0A0 ≤ c ∧ c ≤ 0x0AF then 0x3FFFFF0000
  else if 0x0B0 ≤ c ∧ c ≤ 0x0BF then 0xE0FF003F003FFFFF
  else BitVec.allOnes 64

/-- The device's fabric device number (R417 FDN). -/
def State.fdn (s : State) : Nat := bits (s.sysGet 0 0x001) 0 8

/-! ## Dies -/

def State.dieAt (s : State) (d : Nat) : DieSt := s.dies.getD d DieSt.reset
def State.setDie (s : State) (d : Nat) (f : DieSt → DieSt) : State := { s with dies := updAt s.dies d f }

/-- Column and row of a die in the millrace, and the boundaries between two dies (R14, R15). -/
def hops (a b : Nat) : Nat :=
  (max (a % 4) (b % 4) - min (a % 4) (b % 4)) + (max (a / 4) (b / 4) - min (a / 4) (b / 4))

/-- Global core number (R24). -/
def globalCore (die core : Nat) : Nat := die * 80 + core

end Sys2Proof.Machine
end

