-- ==== Sys2Proof/Machine/Mem.lean ====
section
/-! DEFINITION. Memory reached through translation (08_memory.md R233-R238, R241, R244-R247; 17_checkpoint.md R452): vaults, page
walks, leaf and frame checks, writes at the home die with the sharers they invalidate, and the lines of the L1. -/
namespace Sys2Proof.Machine

/-- The key of a byte: home die * 2^38 + DPA (R406), which is also the tweak of its line (R482). -/
def physKey (die dpa : Nat) : Nat := die * 2 ^ 38 + dpa
def keyDie (k : Nat) : Nat := k / 2 ^ 38
def keyDpa (k : Nat) : Nat := k % 2 ^ 38
/-- A line's number: the key of its first byte / 128. -/
def lineOf (k : Nat) : Nat := k / 128

/-- The vault of a DPA (R233). -/
def vaultOf (dpa : Nat) : Nat :=
  let n := dpa / 2048
  (n % 32) ^^^ ((n / 32) % 32)
/-- The offset of a DPA within its vault (R233). -/
def vaultOff (dpa : Nat) : Nat := dpa / 2048 / 32 * 2048 + dpa % 2048

/-- A read of this byte returns an uncorrectable error: its line holds one (R475), or its vault has failed as a whole (R36). -/
def State.uncorr (s : State) (k : Nat) : Bool := s.badLines.contains (k / 128) || (s.dieAt (keyDie k)).badVaults.contains (vaultOf (keyDpa k))

/-! ## Page-table entries (R235) -/

def eValid (e : Dword) : Bool := bit e 0
def eLeaf (e : Dword) : Bool := bit e 1
def eR (e : Dword) : Bool := bit e 2
def eW (e : Dword) : Bool := bit e 3
def eU (e : Dword) : Bool := bit e 4
def eClass (e : Dword) : Nat := bits e 5 2
def eKeyid (e : Dword) : Nat := bits e 7 6
def eHome (e : Dword) : Nat := bits e 13 3
def eA (e : Dword) : Bool := bit e 16
def eD (e : Dword) : Bool := bit e 17
def eCkp (e : Dword) : Bool := bit e 18
/-- DPA of the next table or of the frame. -/
def eDpa (e : Dword) : Nat := bits e 24 30 * 256
def eFab (e : Dword) : Bool := bit e 63
def eTfdn (e : Dword) : Nat := bits e 55 8
def eReserved (e : Dword) : Bool := bit e 54 || bits e 19 5 != 0

/-- An entry that names no table: invalid, a leaf, or malformed as a non-leaf entry (R234, R236). -/
def nonLeafBad (e : Dword) : Bool :=
  !eValid e || eLeaf e || eReserved e || bits e 55 9 != 0 || bits e 16 3 != 0 || bits e 2 11 != 0

/-- log2 of the page size of a leaf at a level (R234). -/
def pageLg (level : Nat) : Nat := if level = 2 then 30 else if level = 1 then 21 else 16

/-- A valid leaf entry that is malformed, or whose frame passes 160 GiB (R236). -/
def leafBad (fdn level : Nat) (e : Dword) : Bool :=
  eReserved e || decide (3 ≤ level) || (!eFab e && eTfdn e != 0) ||
  (eFab e && (eClass e != 0 || eTfdn e == fdn)) || eDpa e % 2 ^ pageLg level != 0 || decide (Config.dieBytes ≤ eDpa e)

def cause (c : Nat) : Cause := { code := c, tag := 0 }
def causeT (c t : Nat) : Cause := { code := c, tag := dw t }

/-- Index of a level in a virtual address (R234). -/
def walkIndex (level va : Nat) : Nat :=
  if level = 0 then va / 2 ^ 16 % 32 else va / 2 ^ (21 + 9 * (level - 1)) % 512

/-! ## Encryption of lines (R22, R482)

A vault holds a line as AES-XTS makes it from the bytes that are written, under the key ID of the entry that maps it. Memory lists the bytes that
the key ID of `State.keyids` gives back; under another key ID the same stored line reads as other bytes. -/

/-- The bytes of a line that the stored line gives under key ID `k`. -/
def State.lineUnder (s : State) (line k : Nat) : List Byte :=
  let bs := readBytes s.mem (line * 128) 128
  let r := (cget (zeros 6) s.keyids line).toNat
  if r = k then bs else xtsDec (xtsKeys (s.memKey k)) (line * 128) (xtsEnc (xtsKeys (s.memKey r)) (line * 128) bs)
/-- An access under key ID `k` meets the line of a byte. -/
def State.viewAs (s : State) (key k : Nat) : State :=
  let line := lineOf key
  if (cget (zeros 6) s.keyids line).toNat = k then s
  else { s with keyids := cset (zeros 6) s.keyids line (BitVec.ofNat 6 k), mem := writeBytes s.mem (line * 128) (s.lineUnder line k) }
/-- An access of `n` bytes from a byte on meets their lines under key ID `i`. -/
def State.meetKey (s : State) (k n i : Nat) : State :=
  if i = 0 ∧ s.keyids = [] then s
  else (List.range ((k + n - 1) / 128 + 1 - k / 128)).foldl (fun s j => s.viewAs ((k / 128 + j) * 128) i) s
/-- An access of `n` bytes at a place meets their lines under the key ID of its page. The key ID of a frame of another device is ignored (R242). -/
def State.meet (s : State) (p : Phys) (n : Nat) : State :=
  if eFab p.leaf then s else s.meetKey (physKey p.home p.dpa) n (eKeyid p.leaf)
/-- The bytes that a read through a place gives. -/
def State.readAt (s : State) (p : Phys) (n : Nat) : List Byte := readBytes (s.meet p n).mem (physKey p.home p.dpa) n
/-- An entry of a page table: tables stand under key ID 0, for a non-leaf entry has no KEYID (R236). -/
def State.tableEntry (s : State) (ek : Nat) : Dword :=
  if (cget (zeros 6) s.keyids (lineOf ek)).toNat = 0 then dw (readNat s.mem ek 8)
  else dw (natOfBytes (((s.lineUnder (lineOf ek) 0).drop (ek % 128)).take 8))

/-- The walk from the entry that names the table of `level` (R234, R236). -/
def State.walkFrom (s : State) (va : Nat) : Nat → Dword → Except Cause Phys
  | level, e =>
    if nonLeafBad e then .error (cause 0x20)
    else
      let ea := eDpa e + 8 * walkIndex level va
      if Config.dieBytes ≤ ea then .error (cause 0x20)
      else
        let ek := physKey (eHome e) ea
        if s.uncorr ek then .error (cause 0x80)
        else
          let x := s.tableEntry ek
          if !eValid x then .error (cause 0x20)
          else if eLeaf x then
            if leafBad s.fdn level x then .error (cause 0x20)
            else .ok { home := eHome x, dpa := eDpa x + va % 2 ^ pageLg level, leaf := x, lg := pageLg level, ekey := ek }
          else
            match level with
            | 0 => .error (cause 0x20)
            | l + 1 => s.walkFrom va l x

/-- An address in the window of the loader (see Config.loaderVa). -/
def inLoaderWindow (va : Nat) : Bool := decide (Config.loaderVa ≤ va) && decide (va < Config.loaderVa + Config.loaderSpan)

/-- The mapping of the loader's window, the same in every context (R45, R47, R141): readable by all; its upper half, which holds
the writable data sections, is writable too. -/
def loaderPhys (va : Nat) : Phys :=
  let x := va - Config.loaderVa
  let dpa := Config.loaderDpa + x
  let w := if Config.loaderSpan / 2 ≤ x then 8 else 0
  { home := 0, dpa := dpa, leaf := dw (dpa / 65536 * 65536 / 256 * 2 ^ 24 + 0x30000 + 0x17 + w), lg := 16, ekey := 0 }

/-- The loader has placed something of a module in the page of an address of its window. -/
def State.loaderMaps (s : State) (va : Nat) : Bool :=
  inLoaderWindow va && s.modules.any fun m =>
    let holds := fun (a : Dword) (n : Nat) => decide (a.toNat / 65536 ≤ va / 65536) && decide (va / 65536 * 65536 < a.toNat + max 1 n)
    holds m.descBase (16 * (m.funcs.length + m.links.length)) || holds m.linkBase (8 * m.links.length) ||
    m.datas.any fun d => holds d.addr d.size
/-- A walk from PTROOT (R234): every walk begins by reading it. Where a context's tables map nothing, the loader's pages are found (R45, R47, R141). -/
def State.walk (s : State) (ctx va : Nat) : Except Cause Phys :=
  if 2 ^ 57 ≤ va ∨ nonLeafBad (s.ctxGet ctx 0x010) then .error (cause 0x20)
  else
    match s.walkFrom va 4 (s.ctxGet ctx 0x010) with
    | .ok p => .ok p
    | .error c => if c.code = 0x20 ∧ s.loaderMaps va then .ok (loaderPhys va) else .error c

/-- The entries that a walk reads, from the entry that names the table of `level`. -/
def State.walkKeys (s : State) (va : Nat) : Nat → Dword → List Nat
  | level, e =>
    let ea := eDpa e + 8 * walkIndex level va
    if nonLeafBad e || decide (Config.dieBytes ≤ ea) then []
    else
      let ek := physKey (eHome e) ea
      let x := s.tableEntry ek
      match level with
      | 0 => [ek]
      | l + 1 => if s.uncorr ek || !eValid x || eLeaf x then [ek] else ek :: s.walkKeys va l x

/-- The core's translation-buffer entry for an address (R237). -/
def State.tlbFind (s : State) (core ctx va : Nat) : Option TlbEnt :=
  s.tlb.find? fun t => t.core == core && t.ctx == ctx && t.va == va / 2 ^ t.lg * 2 ^ t.lg

/-- The place of an address before the leaf check: from the translation buffer, else by a walk. A write that has D to set compares the entry, and
walks again when it has changed (R237). -/
def State.place (s : State) (a : Acc) (va : Nat) : Except Cause Phys :=
  if 2 ^ 57 ≤ va then .error (cause 0x20)
  else
    match s.tlbFind a.core a.ctx va with
    | some t =>
      if a.wr && !eD t.leaf && s.tableEntry t.ekey != t.leaf then s.walk a.ctx va
      else .ok { home := eHome t.leaf, dpa := eDpa t.leaf + va % 2 ^ t.lg, leaf := t.leaf, lg := t.lg, ekey := t.ekey }
    | none => s.walk a.ctx va

/-- The leaf check (R238), the first row that applies; a fabric page outside space 0 (R242). -/
def leafCause (a : Acc) (p : Phys) : Option Cause :=
  let c := eClass p.leaf
  let sp := a.space.code
  let res := decide (Config.reservation ≤ p.dpa)
  if a.user && !eU p.leaf then some (cause 0x21)
  else if a.rd && !eR p.leaf then some (cause 0x21)
  else if eFab p.leaf && sp != 0 then some (causeT 0x21 7)
  else if sp == 3 && c != 1 then some (cause 0x21)
  else if (sp == 4 && c != 2) || (sp == 5 && c != 3) || (sp == 6 && (c != 0 || eW p.leaf)) then some (cause 0x21)
  else if sp == 0 && (c == 2 || c == 3) then some (cause 0x21)
  else if (res && c != 3) || (c == 3 && !res) then some (cause 0x21)
  else if a.wr && c == 1 then some (cause 0x22)
  else if a.wr && !eW p.leaf then some (cause 0x21)
  else none

/-- Frame-table key of a byte (R241). -/
def frameOf (k : Nat) : Nat := keyDie k * 2 ^ 22 + keyDpa k / 65536
/-- A frame's state; a vault that has failed as a whole retires every frame of its die (R36). -/
def State.frameVal (s : State) (f : Nat) : BitVec 2 :=
  if (s.dieAt (f / 2 ^ 22)).badVaults.isEmpty then cget (zeros 2) s.frames f else 3
def State.frameSt (s : State) (k : Nat) : Nat := (s.frameVal (frameOf k)).toNat

/-- A write that the home die's frame table denies (R241). -/
def State.frameDenies (s : State) (user : Bool) (k : Nat) : Bool :=
  s.frameSt k == 3 || (user && s.frameSt k != 0)

/-- Translation and checks of one access (R234-R238, R241 at issue). -/
def State.xlate (s : State) (a : Acc) (va : Nat) : Except Cause Phys :=
  match s.place a va with
  | .error c => .error c
  | .ok p =>
    match leafCause a p with
    | some c => .error c
    | none =>
      if a.wr && !eFab p.leaf && p.home == a.die && s.frameDenies a.user (physKey p.home p.dpa) then .error (cause 0x21)
      else .ok p

/-! ## Writes at the home die -/

/-- Every RDC copy of a line is invalidated (R246); a fill still awaited is delivered without being installed. -/
def State.invalidateSharers (s : State) (line : Nat) : State :=
  { s with
    shr := cset (zeros 8) s.shr line 0
    rdc := s.rdc.filter fun e => e.2 != line
    rdcFills := s.rdcFills.map fun f => if f.2.1 == line then (f.1, f.2.1, false) else f }

/-- Bytes of the checkpoint area of a capture: where staging slot `slot` of a die lies (R450). -/
def stagingVa (area die slot : Nat) : Nat := area + 4 * 2 ^ 20 + 64 * 2 ^ 20 * die + 65536 * slot

/-- Frames of a die that lie below the translation-cache reservation (R455). -/
def capFrames : Nat := Config.reservation / 65536
/-- A frame is copy-pending (R451, R452). -/
def State.copyPending (s : State) (f : Nat) : Bool :=
  s.ckpt.on && decide (f % 2 ^ 22 < capFrames) && decide (s.ckpt.done ≤ f / 2 ^ 22 * capFrames + f % 2 ^ 22) &&
  !s.ckpt.taken.contains f && !s.ckpt.excl.any fun r => decide (r.1 ≤ f) && decide (f < r.2)

/-- The lowest free staging slot of a die (R453). -/
def State.freeStaging (s : State) (die : Nat) : Option Nat :=
  (List.range 1024).find? fun i => !(s.ckpt.staged.any fun e => e.1 / 2 ^ 22 == die && e.2 == i)

/-- Bytes take their place in memory, the sharers of their line invalidated first (R244, R246). -/
def State.pokeBytes (s : State) (k : Nat) (bs : List Byte) : State :=
  let s := s.invalidateSharers (lineOf k)
  { s with mem := writeBytes s.mem k bs }
/-- Every RDC copy of the lines of a frame is invalidated. -/
def State.invalidateFrame (s : State) (k : Nat) : State :=
  let has := fun (line : Nat) => decide (k / 128 ≤ line) && decide (line < k / 128 + 512)
  { s with
    shr := s.shr.filter fun e => !has e.1
    rdc := s.rdc.filter fun e => !has e.2
    rdcFills := s.rdcFills.map fun f => if has f.2.1 then (f.1, f.2.1, false) else f }

/-- The place of a staging slot, by the capturing context's translations and with their checks (R238, R241, R450). -/
def State.stagingPlace (s : State) (die slot : Nat) : Option Phys :=
  match s.walk s.ckpt.ctx (stagingVa s.ckpt.area die slot) with
  | .error _ => none
  | .ok p =>
    let k := physKey p.home p.dpa
    if (leafCause { core := 0, die := 0, ctx := s.ckpt.ctx, user := false, space := .global, rd := false, wr := true } p).isSome ||
      eFab p.leaf || s.frameDenies false k || s.uncorr k then none
    else some p
/-- A and D of a staging slot's leaf (R237). The update of a table that is itself copy-pending waits at its home die (R452). -/
def State.stagingTouch (s : State) (p : Phys) : State :=
  let leaf := p.leaf ||| 0x30000
  if leaf == p.leaf || s.held.any fun h => h.key == p.ekey then s
  else if s.copyPending (frameOf p.ekey) then
    { s with held := s.held ++ [{ id := s.nextId, core := none, key := p.ekey, bytes := bytesOfNat 8 leaf.toNat, keyid := 0 }]
             nextId := s.nextId + 1 }
  else (s.viewAs p.ekey 0).pokeBytes p.ekey (bytesOfNat 8 leaf.toNat)
/-- The number that stands for a staging slot where the area could not be written (R463). -/
def noSlot : Nat := 1024
/-- The copy of a copy-pending frame into a staging slot (R452): one read of its 65,536 bytes as they stand, with the key IDs of its lines. -/
def State.stageFrame (s : State) (frame slot : Nat) : State :=
  let key := frame / 2 ^ 22 * 2 ^ 38 + frame % 2 ^ 22 * 65536
  let taken := fun (s : State) (slot : Nat) =>
    { s with ckpt := { s.ckpt with taken := frame :: s.ckpt.taken, staged := (frame, slot) :: s.ckpt.staged } }
  match s.stagingPlace (frame / 2 ^ 22) slot with
  | none => taken s noSlot
  | some p =>
    let k := physKey p.home p.dpa
    let t := s.invalidateFrame k
    taken ({ t with mem := copyRange memDflt t.mem key 65536 t.mem k
                    keyids := copyRange (zeros 6) t.keyids (key / 128) 512 t.keyids (k / 128) }.stagingTouch p) slot

/-- A write reaches its home die: it performs, after the copy of a copy-pending frame (R452); with no staging slot free it
waits there (R453). `core` is the core whose own write it is. -/
def State.homePut (s : State) (core : Option Nat) (k : Nat) (bs : List Byte) : State :=
  if s.copyPending (frameOf k) then
    match s.freeStaging (keyDie k) with
    | some slot => (s.stageFrame (frameOf k) slot).pokeBytes k bs
    | none =>
      { s with held := s.held ++ [{ id := s.nextId, core := core, key := k, bytes := bs, keyid := (cget (zeros 6) s.keyids (lineOf k)).toNat }]
               nextId := s.nextId + 1 }
  else s.pokeBytes k bs
/-- A write of any agent; a retired frame takes none (R36, R241). -/
def State.homeWriteBy (s : State) (core : Option Nat) (k : Nat) (bs : List Byte) : State := if s.frameSt k = 3 then s else s.homePut core k bs
def State.homeWrite (s : State) (k : Nat) (bs : List Byte) : State := s.homeWriteBy none k bs

/-- A and D in the leaf entry (R237), as a walker sets them for an access of the device itself. -/
def State.markLeaf (s : State) (p : Phys) (wr : Bool) : State :=
  let leaf := p.leaf ||| (if wr then 0x30000 else 0x10000)
  if leaf == p.leaf then s else (s.viewAs p.ekey 0).homeWrite p.ekey (bytesOfNat 8 leaf.toNat)

/-- A held write covers a byte of [k, k + n). -/
def State.heldOn (s : State) (k n : Nat) : Bool := s.held.any fun h => k < h.key + h.bytes.length && h.key < k + n

/-- The bytes of a space-3 read at an address: the header of an enabled region reads as zero (R348). -/
def State.headerAs (s : State) (ca : Bool) (va : Nat) (bs : List Byte) : List Byte :=
  if !ca || s.ca.isEmpty then bs
  else bs.zipIdx.map fun b => if s.ca.any fun r => decide (r.base.toNat ≤ va + b.2) && decide (va + b.2 < r.base.toNat + 4096) then 0 else b.1

/-! ## RDCs, and the hints in the lines of RDCs and L2s (R246, R247) -/

/-- Sets of a cache of 16 ways: 64 MiB for the RDC of a die, 128 MiB for the L2s, which stand here as cache 8. -/
def cacheSet (cache line : Nat) : Nat := line % (if cache = 8 then 65536 else 32768)
/-- What an access records in a line of a cache: its place as the set's next victim, and its mark, of which a set holds at most 12. -/
def State.hint (s : State) (cache line : Nat) (e : Evict) : State :=
  let rest := s.hints.filter fun h => !(h.1 == cache && h.2.1 == line)
  let mark := (cache, line, true)
  let next := (cache, line, false)
  let held := s.hints.contains mark
  match e with
  | .bypass => s
  | .dflt => { s with hints := if held then mark :: rest else rest }
  | .stream => { s with hints := (if held then mark :: rest else rest) ++ [next] }
  | .sticky =>
    let n := (rest.filter fun h => h.1 == cache && h.2.2 && cacheSet cache h.2.1 == cacheSet cache line).length
    { s with hints := if held || decide (n < 12) then mark :: rest else rest }
  | .unstick => { s with hints := rest }
  | .lastuse => { s with hints := rest ++ [next] }
/-- A cache may evict a line: no sticky one while others stand in its set, and the set's next victim first. -/
def State.mayEvict (s : State) (cache line : Nat) : Bool :=
  match s.hints.reverse.find? fun h => h.1 == cache && !h.2.2 && cacheSet cache h.2.1 == cacheSet cache line with
  | some h => h.2.1 == line
  | none => !s.hints.contains (cache, line, true)

/-- A read of a line homed elsewhere passes the die's RDC (R246): the sharer bit is set and a fill is on its way. The hint goes to the RDC, and to
the home L2 where the read reaches it. -/
def State.rdcRead (s : State) (die k : Nat) (evict : Evict) : State :=
  let line := lineOf k
  if keyDie k == die then s.hint 8 line evict
  else if s.rdc.contains (die, line) then s.hint die line evict
  else if evict == .bypass then s
  else
    ({ s with shr := cset (zeros 8) s.shr line (cget (zeros 8) s.shr line ||| BitVec.ofNat 8 (2 ^ die))
              rdcFills := if s.rdcFills.any (fun f => f.1 == die && f.2.1 == line) then s.rdcFills
                          else s.rdcFills ++ [(die, line, true)] }.hint die line evict).hint 8 line evict

/-! ## The walker's update (R237) -/

/-- The walker of a die reads the entries of a walk through the die's L2 or RDC. -/
def State.walkReads (s : State) (die ctx va : Nat) : State :=
  (s.walkKeys va 4 (s.ctxGet ctx 0x010)).foldl (fun t k => t.rdcRead die k .dflt) s

/-- The walker after a valid walk: A, and D on a write, set in the leaf entry, and the entry kept in the core's translation buffer. The line is met
under the key ID of the entry (R22). -/
def State.touch (s : State) (a : Acc) (va : Nat) (p : Phys) : State :=
  let leaf := p.leaf ||| (if a.wr then 0x30000 else 0x10000)
  let ent : TlbEnt := { core := a.core, ctx := a.ctx, va := va / 2 ^ p.lg * 2 ^ p.lg, lg := p.lg, leaf := leaf, ekey := p.ekey }
  let s := if (s.tlbFind a.core a.ctx va).isNone then s.walkReads a.die a.ctx va else s
  let s := if leaf == p.leaf then s else (s.viewAs p.ekey 0).homeWrite p.ekey (bytesOfNat 8 leaf.toNat)
  let s :=
    match s.tlbFind a.core a.ctx va with
    | some t => if t.leaf == leaf then s else { s with tlb := s.tlb.map fun u => if u == t then ent else u }
    | none => { s with tlb := ent :: s.tlb }
  s.meet p 1

/-! ## Lines of the L1 (R244, R245, R247, R252) -/

/-- The sets of the L1: 256 KiB of 128-byte lines, 16 ways. -/
def l1Set (line : Nat) : Nat := line % 128

def State.l1Find (s : State) (core line sp : Nat) : Option L1Line := s.l1.find? fun l => l.core == core && l.line == line && l.sp == sp
def State.l1Drop (s : State) (core line sp : Nat) : State :=
  { s with l1 := s.l1.filter fun l => !(l.core == core && l.line == line && l.sp == sp) }
/-- Every line of space 0 of a core's L1 is invalidated (R245, R270). -/
def State.l1Acquire (s : State) (core : Nat) : State :=
  { s with l1 := s.l1.filter fun l => !(l.core == core && l.sp == 0) }

/-- Bytes of a list replaced from an offset. -/
def spliceBytes (line : List Byte) (off : Nat) (bs : List Byte) : List Byte :=
  line.take off ++ bs ++ line.drop (off + bs.length)

/-- The L1 copies of a line, those of a wave's own words apart, follow a write of their own core (R244). -/
def State.l1Update (s : State) (core k : Nat) (bs : List Byte) : State :=
  { s with l1 := s.l1.map fun l =>
      if l.core == core && l.line == lineOf k && l.sp != 2 then { l with data := spliceBytes l.data (k % 128) bs } else l }

/-- The lines of a set, most recently used first. -/
def State.l1Ways (s : State) (core set : Nat) : List L1Line := s.l1.filter fun l => l.core == core && l1Set l.line == set
/-- The line that a full set gives up (R247): the least recently used that is not sticky, else the least recently used. -/
def l1Victim (ls : List L1Line) : Option L1Line := (ls.reverse.find? fun l => !l.sticky).or ls.getLast?
/-- A line becomes its set's next victim, behind the one that a full set is about to give up for it. -/
def l1Last (rest : List L1Line) (l : L1Line) : List L1Line :=
  let set := rest.filter fun x => x.core == l.core && l1Set x.line == l1Set l.line
  if set.length < 16 then rest ++ [l]
  else
    match l1Victim set with
    | some v => rest.erase v ++ [l, v]
    | none => rest ++ [l]

/-- What the EVICT of an access makes of a line that is present (R247). A set holds at most 12 sticky lines. -/
def State.l1Note (s : State) (e : Evict) (core line sp : Nat) : State :=
  match s.l1Find core line sp with
  | none => s
  | some l =>
    let rest := s.l1.erase l
    match e with
    | .bypass => s
    | .stream => { s with l1 := l1Last rest l }
    | .lastuse => { s with l1 := if sp = 2 then rest else l1Last rest { l with sticky := false } }
    | .unstick => { s with l1 := { l with sticky := false } :: rest }
    | .sticky =>
      let n := (rest.filter fun x => x.core == core && l1Set x.line == l1Set line && x.sticky).length
      { s with l1 := { l with sticky := l.sticky || decide (n < 12) } :: rest }
    | .dflt => { s with l1 := l :: rest }

/-- A line's bytes with a write over those that it touches. -/
def overlay (line : Nat) (data : List Byte) (k : Nat) (bs : List Byte) : List Byte :=
  data.zipIdx.map fun b =>
    let a := line * 128 + b.2
    if k ≤ a ∧ a < k + bs.length then bs.getD (a - k) 0 else b.1
/-- The bytes with which a line enters an L1: the home's, and over them the writes of the core that have not performed (R244, R266). -/
def State.fillBytes (s : State) (core line : Nat) : List Byte :=
  let d := readBytes s.mem (line * 128) 128
  let d := s.held.foldl (fun d h => if h.core = some core then overlay line d h.key h.bytes else d) d
  s.msgs.foldl (fun d m =>
    match m.fx, m.core == some core && m.tfdn.isNone with
    | .bytes bs, true => overlay line d (physKey m.home m.dpa) bs
    | _, _ => d) d
/-- A reduction of the core on the line has not performed: no read brings the line back before (R298). -/
def State.redOn (s : State) (core line : Nat) : Bool :=
  s.msgs.any fun m => m.core == some core && m.tfdn.isNone && lineOf (physKey m.home m.dpa) == line &&
    match m.fx with
    | .rmw .. => true
    | .bytes _ => false

/-! ## The remote-fault log (R424) -/

/-- The home die logs a denial, or an error it met: ADDR, wave token, MAP, source die, cause, source device. It writes under key ID 0, whatever the
frame table holds. -/
def State.logDenial (s : State) (home addr : Nat) (tok : Dword) (map src c fdn : Nat) : State :=
  let head := s.dieGet home 0x025
  let base := (s.dieGet home 0x024).toNat
  if (head - s.dieGet home 0x026).toNat = 128 ∨ Config.reservation ≤ base then s
  else
    let r := bytesOfNat 8 addr ++ bytesOfNat 8 tok.toNat ++ bytesOfNat 2 map ++ bytesOfNat 1 src ++ bytesOfNat 1 c ++
      bytesOfNat 1 fdn ++ List.replicate 11 0
    let k := physKey home (base + 32 * (head.toNat % 128))
    ((s.meetKey k 32 0).homePut none k r).dieSet home 0x025 (head + 1)

end Sys2Proof.Machine
end

