-- ==== Sys2Proof/Machine/Notice.lean ====
section
/-! DEFINITION. The dependency table (14_tasks_placement.md R373-R379), the notice ring and the task-fault log
(16_traps_preemption.md R419, R425, R426, R428). -/
namespace Sys2Proof.Machine

/-! ## Launch records (R373, R374) -/

def natAt (bs : List Byte) (off n : Nat) : Nat := natOfBytes ((bs.drop off).take n)

def Launch.ofBytes (bs : List Byte) : Launch :=
  { handle := natAt bs 0 2, fidx := natAt bs 2 2, grid := natAt bs 4 4, nwave := natAt bs 8 1, gang := natAt bs 9 1,
    budget := natAt bs 0x0A 2, pwords := natAt bs 0x0C 2, flags := BitVec.ofNat 16 (natAt bs 0x0E 2), spad := natAt bs 0x10 4,
    prio := w32 (natAt bs 0x14 4), estim := dw (natAt bs 0x18 8), seed := dw (natAt bs 0x20 8), args := dw (natAt bs 0x28 8),
    arglen := natAt bs 0x30 4, deps := w32 (natAt bs 0x34 4), nreg := natAt bs 0x38 1, nsucc := natAt bs 0x39 1,
    regions := (List.range 4).map fun i => dw (natAt bs (0x40 + 8 * i) 8),
    succs := (List.range 4).map fun i => dw (natAt bs (0x60 + 8 * i) 8) }

/-- The 128 bytes of a launch record. -/
def Launch.bytes (r : Launch) : List Byte :=
  bytesOfNat 2 r.handle ++ bytesOfNat 2 r.fidx ++ bytesOfNat 4 r.grid ++ bytesOfNat 1 r.nwave ++ bytesOfNat 1 r.gang ++
  bytesOfNat 2 r.budget ++ bytesOfNat 2 r.pwords ++ bytesOfNat 2 r.flags.toNat ++ bytesOfNat 4 r.spad ++
  bytesOfNat 4 r.prio.toNat ++ bytesOfNat 8 r.estim.toNat ++ bytesOfNat 8 r.seed.toNat ++ bytesOfNat 8 r.args.toNat ++
  bytesOfNat 4 r.arglen ++ bytesOfNat 4 r.deps.toNat ++ bytesOfNat 1 r.nreg ++ bytesOfNat 1 r.nsucc ++ bytesOfNat 6 0 ++
  (r.regions.take 4).flatMap (fun v => bytesOfNat 8 v.toNat) ++ (r.succs.take 4).flatMap (fun v => bytesOfNat 8 v.toNat)

/-- Determinism mode of a task (R394): bit 0 ordered, bit 1 merged. -/
def Launch.dmode (r : Launch) : Nat := r.flags.toNat % 4
def Launch.heat (r : Launch) : Nat := r.flags.toNat / 4 % 8
def Launch.mayDrain (r : Launch) : Bool := r.flags.getLsbD 6
def Launch.mayCkpt (r : Launch) : Bool := r.flags.getLsbD 7
def Launch.mayKill (r : Launch) : Bool := r.flags.getLsbD 8

/-- Registers of a value of a type (R108): its width in 32-bit registers, rounded up to 1, 2, 4 or 8. -/
def regCount (t : Ty) : Nat :=
  let n := (t.width + 31) / 32
  if n ≤ 1 then 1 else if n ≤ 2 then 2 else if n ≤ 4 then 4 else 8

def State.moduleOf (s : State) (h : Nat) : Option Module := s.modules.find? fun m => m.handle == h
def State.funcOf (s : State) (h f : Nat) : Option FuncInfo := (s.moduleOf h).bind fun m => m.funcs[f]?

/-- Scratchpad bytes of a cluster (R28). -/
def spadOf (die : Nat) : Nat := if dieClass die = 1 then 2 * 2 ^ 20 else 4 * 2 ^ 20

def Task.handle (t : Task) : Dword := dw (t.die + t.entry * 8 + t.seq * 2 ^ 19)
def State.taskOf (s : State) (h : Dword) : Option Task := s.tasks.find? fun t => t.handle == h
def State.updTask (s : State) (h : Dword) (f : Task → Task) : State :=
  { s with tasks := s.tasks.map fun t => if t.handle == h then f t else t }
def State.dropTask (s : State) (h : Dword) : State := { s with tasks := s.tasks.filter fun t => t.handle != h }

def regionOk (v : Dword) : Bool := bits v 57 7 == 0

/-- A well-formed record (R374). -/
def State.launchOk (s : State) (bs : List Byte) : Bool :=
  let r := Launch.ofBytes bs
  let func := (s.moduleOf r.handle).bind fun m => if m.loads = 0 then none else m.funcs[r.fidx]?
  bs.length == 128 && 1 ≤ r.grid && 1 ≤ r.nwave && r.nwave ≤ 32 && 1 ≤ r.gang && r.gang ≤ 12 && r.grid % r.gang == 0 &&
  8 ≤ r.budget && r.budget ≤ 768 && r.budget % 8 == 0 && r.pwords ≤ 16384 && r.flags.toNat / 2 ^ 9 == 0 && !r.flags.getLsbD 5 &&
  r.spad % 128 == 0 && r.spad ≤ 4 * 2 ^ 20 && r.nreg ≤ 4 && r.nsucc ≤ 4 && natAt bs 0x3A 6 == 0 &&
  (r.regions.take r.nreg).all regionOk && (r.regions.drop r.nreg).all (· == 0) && (r.succs.drop r.nsucc).all (· == 0) &&
  (r.succs.take r.nsucc).all (fun h => (s.taskOf h).any fun t => t.st == .held) &&
  (r.dmode % 2 == 0 || r.gang ≤ 4) && (r.arglen == 0 || r.args.toNat % 4 == 0) &&
  func.any (fun f => f.sig.params.foldl (fun n t => n + 4 * regCount t) 0 == r.arglen)

/-! ## Firing (R377, R378) -/

/-- The pages of a region descriptor. -/
def regionPages (v : Dword) : List Nat :=
  (List.range (bits v 0 16 + 1)).map fun i => bits v 16 41 * 65536 + i * 65536

/-- Pages of the input regions by home die; a page that fails translation counts for no die. -/
def State.pageCounts (s : State) (ctx : Nat) (r : Launch) : List Nat :=
  let homes := ((r.regions.take r.nreg).flatMap regionPages).filterMap fun va =>
    match s.walk ctx va with
    | .ok p => some p.home
    | .error _ => none
  (List.range 8).map fun d => (homes.filter (· == d)).length

/-- The firing die: the largest count, ties to the lowest die; the entry's die when every count is zero. -/
def firingDie (own : Nat) (counts : List Nat) : Nat :=
  let best := (List.range 8).foldl (fun b d => if counts.getD d 0 > counts.getD b 0 then d else b) 0
  if counts.all (· == 0) then own else best

/-- A die is able to run a task of this scratchpad size (R378). -/
def State.dieAble (s : State) (spad d : Nat) : Bool :=
  (s.dieAt d).ok && !(s.dieAt d).withdrawn && (s.dieAt d).goneClusters.length < 20 && spad ≤ spadOf d

/-- The die order of die `f` (R378), with only the able dies. -/
def State.dieOrder (s : State) (spad f : Nat) : List Nat :=
  let rest := (List.range 8).filter fun d => d != f && d != f ^^^ 4
  let byHops := (List.range 5).flatMap fun h => rest.filter fun d => hops f d == h
  (f :: (f ^^^ 4) :: byHops).filter (s.dieAble spad)

/-! ## Records (R419) -/

/-- The wave token: die, core, slot, sequence number (R419). -/
def Wave.token (w : Wave) : Dword := dw (w.die + w.core * 8 + w.slot * 2 ^ 10 + w.seq * 2 ^ 16)

def flagBits (r : FaultRec) : Nat := bitOf r.late + 2 * bitOf r.async + 4 * bitOf r.cont + 8 * bitOf r.event

/-- The 64 bytes of a record. -/
def FaultRec.bytes (r : FaultRec) : List Byte :=
  let l := match r.loc with
    | some l => (l.func, l.block, l.index, l.handle)
    | none => if r.event then (0, 0, 0, 0) else (0xFFFF, 0xFFFFFFFF, 0xFFFFFFFF, 0xFFFF)
  bytesOfNat 1 r.cause ++ bytesOfNat 1 (flagBits r) ++ bytesOfNat 2 l.1 ++ bytesOfNat 4 r.prim.toNat ++
  bytesOfNat 4 r.sec.toNat ++ bytesOfNat 4 l.2.1 ++ bytesOfNat 4 l.2.2.1 ++ bytesOfNat 2 l.2.2.2 ++ bytesOfNat 1 r.die ++
  bytesOfNat 1 0 ++ bytesOfNat 8 r.native.toNat ++ bytesOfNat 8 r.addr.toNat ++ bytesOfNat 8 r.tag.toNat ++
  bytesOfNat 8 r.wave.toNat ++ bytesOfNat 8 r.task.toNat

/-- An event record (R426) about no wave. -/
def eventRec (code : Nat) (tag : Dword) : FaultRec :=
  { cause := code, late := false, async := false, cont := false, event := true, prim := 0, sec := 0, loc := none, die := 0,
    native := 0, addr := 0, tag := tag, wave := 0, task := 0 }

/-- The walk of an access that the device itself makes in a context: with no leaf check, but the reservation and the frames of other devices are out
of its reach (R21, R242). -/
def State.devWalk (s : State) (ctx va : Nat) : Except Cause Phys :=
  match s.walk ctx va with
  | .ok p => if Config.reservation ≤ p.dpa then .error (cause 0x21) else if eFab p.leaf then .error (causeT 0x21 7) else .ok p
  | .error c => .error c

/-- A write of the device itself in a context (R425, R428); unmapped, it is not made. -/
def State.ctxWrite (s : State) (ctx va : Nat) (bs : List Byte) : State :=
  match s.devWalk ctx va with
  | .ok p => ((s.markLeaf p true).meet p bs.length).homeWrite (physKey p.home p.dpa) bs
  | .error _ => s

/-- A read of the device itself in a context. -/
def State.ctxRead (s : State) (ctx va n : Nat) : Option (List Byte) :=
  match s.devWalk ctx va with
  | .ok p => some (readBytes (s.meet p n).mem (physKey p.home p.dpa) n)
  | .error _ => none

/-- Lines of [off, off + n). -/
def linesIn (off n : Nat) : List Nat := if n = 0 then [] else (List.range ((off + n - 1) / 128 + 1 - off / 128)).map (· + off / 128)

/-! ## Runs of bytes through a context -/

/-- The parts of [va, va + n) within pages: (offset from va, length). -/
def pageParts (va n : Nat) : List (Nat × Nat) :=
  (List.range ((va + n + 65535) / 65536 - va / 65536)).map fun i =>
    let lo := max va ((va / 65536 + i) * 65536)
    let hi := min (va + n) ((va / 65536 + i + 1) * 65536)
    (lo - va, hi - lo)

/-- Cells [0, n) of a table written at `va` by the device; a part that is not mapped, or lies in a retired frame, is not written. -/
def State.ctxCopyOut (s : State) (ctx va n : Nat) (cells : Cells 8) : State :=
  (pageParts va n).foldl (fun s p =>
    match s.devWalk ctx (va + p.1) with
    | .ok f =>
      if s.frameSt (physKey f.home f.dpa) = 3 then s else
      let s := ((s.markLeaf f true).meet f p.2).homeWrite (physKey f.home f.dpa) [cget memDflt cells p.1]
      let s := (linesIn (physKey f.home f.dpa) p.2).foldl (fun s l => s.invalidateSharers l) s
      { s with mem := copyRange memDflt cells p.1 p.2 s.mem (physKey f.home f.dpa) }
    | .error _ => s) s
/-- The cells that [va, va + n) holds. -/
def State.ctxCopyIn (s : State) (ctx va n : Nat) : Cells 8 :=
  (pageParts va n).foldl (fun c p =>
    match s.devWalk ctx (va + p.1) with
    | .ok f => copyRange memDflt (s.meet f p.2).mem (physKey f.home f.dpa) p.2 c p.1
    | .error _ => c) []

/-- A line of [va, va + n) holds an uncorrectable error (R423). -/
def State.ctxBad (s : State) (ctx va n : Nat) : Bool :=
  (pageParts va n).any fun p =>
    match s.devWalk ctx (va + p.1) with
    | .ok f => (linesIn (physKey f.home f.dpa) p.2).any fun l => s.uncorr (128 * l)
    | .error _ => false

/-! ## The task-fault log (R428) -/

def State.tfWrite (s : State) (ctx : Nat) (r : FaultRec) : State :=
  let head := s.ctxGet ctx 0x018
  if head - s.ctxGet ctx 0x01C = 256 then s.ctxSet ctx 0x01D (s.ctxGet ctx 0x01D + 1)
  else (s.ctxWrite ctx ((s.ctxGet ctx 0x017).toNat + 64 * (head.toNat % 256)) r.bytes).ctxSet ctx 0x018 (head + 1)

/-- A task ends without signalling its successors (R428): its record, one record per successor, and the entry freed. -/
def State.taskFaultEnd (s : State) (h : Dword) (r : FaultRec) : State :=
  match s.taskOf h with
  | none => s
  | some t =>
    let s := s.tfWrite t.ctx r
    let s := t.succs.foldl (fun s x => s.tfWrite t.ctx { eventRec 0x1C t.handle with task := x }) s
    s.dropTask h

/-- A task fires (R377); when no die is able it ends at once (R378, cause 0x26 TAG 17). -/
def State.fire (s : State) (h : Dword) : State :=
  match s.taskOf h with
  | none => s
  | some t =>
    let f := firingDie t.die (s.pageCounts t.ctx t.launch)
    let s := s.updTask h fun t => { t with st := .ready, fired := f, sinceAdmit := s.cycle }
    if (s.dieOrder t.launch.spad f).isEmpty then
      s.taskFaultEnd h { eventRec 0x26 17 with event := false, task := h, die := f }
    else s

/-- A count that falls to zero on an armed task fires it (R376). -/
def State.settle (s : State) (h : Dword) : State :=
  match s.taskOf h with
  | some t => if t.st = .armed ∧ t.count = 0 then s.fire h else s
  | none => s

/-- A completed predecessor's signal (R379). -/
def State.signal (s : State) (h : Dword) : State := (s.updTask h fun t => { t with count := t.count - 1 }).settle h

/-- The task reaches DONE: its successors are signalled in edge order and its entry is freed (R379). -/
def State.taskDone (s : State) (h : Dword) : State :=
  match s.taskOf h with
  | none => s
  | some t =>
    let s := s.updTask h fun t => { t with st := .done }
    let s := t.succs.foldl (fun s x => s.signal x) s
    s.dropTask h

/-- A dependency edge (R391). -/
def State.addEdge (s : State) (pred succ : Dword) : State :=
  (s.updTask pred fun t => { t with succs := t.succs ++ [succ] }).updTask succ fun t => { t with count := t.count + 1 }

/-- The lowest free entry of a die's table (R376). -/
def State.freeEntry (s : State) (die : Nat) : Option Nat :=
  let used := (s.tasks.filter fun t => t.die == die).map Task.entry
  (List.range (used.length + 1)).find? fun i => !used.contains i && decide (i < 65536)

/-- A task is created, HELD (R376, R391): its handle, and the state. -/
def State.newTask (s : State) (die ctx : Nat) (prio : Word) (handler : Bool) (bs : List Byte) : Option (Dword × State) :=
  match s.freeEntry die with
  | none => none
  | some e =>
    let r := Launch.ofBytes bs
    let seq := (s.dieAt die).taskSeq + 1
    let t : Task :=
      { die := die, entry := e, seq := seq, ctx := ctx, user := (s.moduleOf r.handle).any Module.user, launch := r, st := .held,
        count := r.deps, succs := [], prio := prio, pceil := prio, estim := r.estim, fired := die, admitted := [], ended := 0,
        sinceAdmit := 0, stallSent := false, handler := handler, drainOn := [], aborted := none, merging := false }
    let s := { s.setDie die (fun d => { d with taskSeq := seq }) with tasks := s.tasks ++ [t] }
    some (t.handle, (r.succs.take r.nsucc).foldl (fun s x => s.addEdge t.handle x) s)

/-- taskarm's effect (R391): the count lowered, the task armed, fired when the count is zero. -/
def State.arm (s : State) (h : Dword) (n : Word) : State :=
  (s.updTask h fun t => { t with count := t.count - n, st := .armed }).settle h

/-! ## The notice ring (R425) -/

/-- Records of the ring: 2^LOGN for LOGN 4-16, else none. -/
def State.ringSize (s : State) (ctx : Nat) : Nat :=
  let n := bits (s.ctxGet ctx 0x012) 0 5
  if 4 ≤ n ∧ n ≤ 16 then 2 ^ n else 0

/-- The handler task of a context (R425): made when HNDREC names a record and none made before is still to run. -/
def State.makeHandler (s : State) (ctx : Nat) : State :=
  let va := (s.ctxGet ctx 0x016).toNat
  if va = 0 ∨ (s.tasks.any fun t => t.handler && t.ctx == ctx && (t.st == .held || t.st == .armed || t.st == .ready)) then s
  else
    match s.devWalk ctx va with
    | .error _ => s
    | .ok p =>
      let c := leafCause { core := 0, die := 0, ctx := ctx, user := false, space := .global, rd := true, wr := false } p
      let t := (s.markLeaf p false).meet p 128
      let bs := readBytes t.mem (physKey p.home p.dpa) 128
      if va % 128 ≠ 0 ∨ c.isSome ∨ s.uncorr (physKey p.home p.dpa) ∨ !t.launchOk bs then s
      else
        match t.newTask 0 ctx (Launch.ofBytes bs).prio true bs with
        | some (h, u) => u.arm h 0
        | none => t

/-- One record is written at the head of the ring, and what follows it (R425). -/
def State.ringPush (s : State) (ctx : Nat) (r : FaultRec) : State :=
  let head := s.ctxGet ctx 0x013
  let s := s.ctxWrite ctx ((s.ctxGet ctx 0x011).toNat + 64 * (head.toNat % s.ringSize ctx)) r.bytes
  let s := s.ctxSet ctx 0x013 (head + 1)
  let ctl := s.ctxGet ctx 0x012
  let s := if bit ctl 8 ∧ bits ctl 16 16 < 64 then { s with msix := s.msix ++ [bits ctl 16 16] } else s
  s.makeHandler ctx

def State.ringFull (s : State) (ctx : Nat) : Bool :=
  (s.ctxGet ctx 0x013 - s.ctxGet ctx 0x014).toNat == s.ringSize ctx

/-- A record for the ring of a context: fault records wait while it is full, event records are dropped (R425). -/
def State.notice (s : State) (ctx : Nat) (r : FaultRec) : State :=
  if s.ringSize ctx = 0 then s
  else if s.ringFull ctx ∨ (!r.event ∧ s.notices.any fun n => n.1 == ctx) then
    if r.event then s.ctxSet ctx 0x015 (s.ctxGet ctx 0x015 + 1) else { s with notices := s.notices ++ [(ctx, r)] }
  else s.ringPush ctx r

end Sys2Proof.Machine
end

