-- ==== Sys2Proof/Machine/FabReq.lean ====
section
/-! DEFINITION. Accesses to frames of other devices (08_memory.md R242, 18_power_package_trust.md R488): the requests that a wave or an
engine command has sent, and their answers. -/
namespace Sys2Proof.Machine

/-- A fabric port of a die takes messages. -/
def State.portUp (s : State) (p : Nat) : Bool := !(s.ports.getD p PortSt.reset).failed
/-- The port of a die that carries an access to a line (R242): port 0 when bit 7 of the DPA is 0, else port 1, or the one that
remains. -/
def State.fabPort (s : State) (die dpa : Nat) : Nat :=
  let p := die * 2 + dpa / 128 % 2
  if s.portUp p then p else die * 2 + (1 - dpa / 128 % 2)
def State.sendFab (s : State) (port : Nat) (m : FabMsg) : State :=
  { s with ports := updAt s.ports port fun p => { p with outbox := p.outbox ++ [m] } }

/-- A request to another device. -/
structure FabAsk where
  tfdn : Nat
  ddie : Nat
  op : Nat
  addr : Nat
  aop : Nat
  etype : Nat
  attr : Nat
  data : List Byte
  att : Nat
  deriving DecidableEq, Repr, Inhabited

/-- The read of the line that holds a fabric place. -/
def Phys.askLine (p : Phys) (m : MMod) : FabAsk :=
  { tfdn := eTfdn p.leaf, ddie := p.home, op := 1, addr := p.dpa / 128 * 128, aop := 0, etype := 0, attr := m.ord.code, data := [], att := 0 }

def State.fabFind (s : State) (owner : Dword) (l : Loc) (a : FabAsk) : Option FabReq :=
  s.fabReqs.find? fun r =>
    r.owner == owner && r.loc == l && r.tfdn == a.tfdn && r.msg.ddie == a.ddie && r.msg.op == a.op && r.msg.addr == a.addr &&
    r.msg.aop == a.aop && r.msg.data == a.data && r.att == a.att

/-- A request goes out, once. With no port of its die in service it ends as one in flight on a failing port does (R489). -/
def State.fabAsk (s : State) (die : Nat) (owner : Dword) (l : Loc) (a : FabAsk) : State :=
  if (s.fabFind owner l a).isSome then s
  else
    let m : FabMsg :=
      { op := a.op, sdie := die, ddie := a.ddie, tid := w32 s.nextId, addr := a.addr, aop := a.aop, etype := a.etype, attr := a.attr,
        sfdn := s.fdn, dfdn := a.tfdn, data := a.data, owner := none }
    let port := s.fabPort die a.addr
    let r : FabReq :=
      { owner := owner, loc := l, tfdn := a.tfdn, msg := m, att := a.att, reply := none, cause := if s.portUp port then 0 else 0x80 }
    let s := { s with fabReqs := s.fabReqs ++ [r], nextId := s.nextId + 1 }
    if s.portUp port then s.sendFab port m else s

/-- Every answer is there. -/
def State.fabReady (s : State) (owner : Dword) (l : Loc) (as : List FabAsk) : Bool :=
  as.all fun a => (s.fabFind owner l a).any fun r => r.reply.isSome || r.cause != 0
def State.fabAskAll (s : State) (die : Nat) (owner : Dword) (l : Loc) (as : List FabAsk) : State :=
  as.foldl (fun s a => s.fabAsk die owner l a) s
/-- The answers have been used. -/
def State.fabDrop (s : State) (owner : Dword) (l : Loc) : State :=
  { s with fabReqs := s.fabReqs.filter fun r => !(r.owner == owner && r.loc == l) }
/-- Bytes of an answered line, and the cause that answered instead. -/
def State.fabBytes (s : State) (owner : Dword) (l : Loc) (a : FabAsk) (off n : Nat) : List Byte :=
  (((((s.fabFind owner l a).bind FabReq.reply).getD []).drop off).take n)
def State.fabCause (s : State) (owner : Dword) (l : Loc) (a : FabAsk) : Nat :=
  ((s.fabFind owner l a).map FabReq.cause).getD 0

end Sys2Proof.Machine
end

