-- ==== Sys2Proof/Machine/Ops.lean ====
section
/-! DEFINITION. The named operations that every meaning is written with: the issuing wave and its lanes, operands and results,
completing and parking, entering blocks and functions (04_control.md R140-R145, R55), and taking a fault as ONE operation
(16_traps_preemption.md R419-R424, R430) with the resumption beside it (R427). -/
namespace Sys2Proof.Machine

/-! ## Waves and lanes -/

def inMask (m : Mask) (L : Nat) : Bool := m.getLsbD L
/-- Lanes of a mask, ascending (R10). -/
def lanesOf (m : Mask) : List Nat := (List.range 32).filter (inMask m)
/-- The mask of the lanes that satisfy a test. -/
def maskOf (p : Nat → Bool) : Mask := BitVec.ofNat 32 ((List.range 32).foldl (fun n L => if p L then n + 2 ^ L else n) 0)

def Wave.lane (w : Wave) (L : Nat) : Lane := w.lanes.getD L default
/-- Every lane replaced by its image. -/
def Wave.mapLanes (w : Wave) (f : Nat → Lane → Lane) : Wave :=
  { w with lanes := (List.range 32).map fun L => f L (w.lane L) }

def State.waveAt (s : State) (wi : Nat) : Wave := s.waves.getD wi default
def State.updWave (s : State) (wi : Nat) (f : Wave → Wave) : State := { s with waves := updAt s.waves wi f }
/-- The issuing wave. -/
def State.wv (s : State) : Wave := s.waveAt s.issue.wave
def State.updWv (s : State) (f : Wave → Wave) : State := s.updWave s.issue.wave f
/-- The lanes of the issuing group (Active). -/
def State.active (s : State) : Mask := s.issue.mask
def State.activeLanes (s : State) : List Nat := lanesOf s.issue.mask
/-- The lowest lane of Active (R216). -/
def State.lowLane (s : State) : Nat := s.activeLanes.headD 0

/-- A workgroup without its write set, its reductions and its scratchpad. -/
def Workgroup.cleared (g : Workgroup) : Workgroup := { g with wset := [], wpool := [], reds := [], spad := [], absent := [], badPad := [] }
def State.wgAt (s : State) (i : Nat) : Workgroup := s.wgs.getD i default
def State.updWg (s : State) (i : Nat) (f : Workgroup → Workgroup) : State := { s with wgs := updAt s.wgs i f }
/-- The issuing wave's workgroup, task, context and launch record. -/
def State.wg (s : State) : Workgroup := s.wgAt s.wv.wg
def State.taskOfWg (s : State) (i : Nat) : Task := (s.taskOf (s.wgAt i).task).getD default
def State.task (s : State) : Task := s.taskOfWg s.wv.wg
def State.ctx (s : State) : Nat := s.task.ctx
def State.dmode (s : State) : Nat := s.task.launch.dmode
def State.ordered (s : State) : Bool := s.dmode % 2 == 1
def State.merged (s : State) : Bool := decide (2 ≤ s.dmode)
def State.cluster (s : State) : Nat := s.wv.core / 4
def State.gcore (s : State) : Nat := globalCore s.wv.die s.wv.core

def Workgroup.gangNum (g : Workgroup) (t : Task) : Nat := g.num / max 1 t.launch.gang
def State.gangOf (s : State) (wi : Nat) : Option Gang :=
  s.gangs.find? fun g => g.task == (s.wgAt wi).task && g.num == (s.wgAt wi).gangNum (s.taskOfWg wi)
def State.updGang (s : State) (task : Dword) (num : Nat) (f : Gang → Gang) : State :=
  { s with gangs := s.gangs.map fun g => if g.task == task && g.num == num then f g else g }
/-- A core's slot mask and slice ratios (R474). -/
def State.ftOf (s : State) (d core : Nat) : BitVec 6 × BitVec 24 := ((s.dieAt d).ftcore.lookup core).getD (0, 0x888888)
/-- Indexes of the workgroups of the issuing wave's gang, and of the waves of a workgroup. -/
def State.gangWgs (s : State) (wi : Nat) : List Nat :=
  (List.range s.wgs.length).filter fun i =>
    (s.wgAt i).task == (s.wgAt wi).task && (s.wgAt i).st != .ended &&
    (s.wgAt i).gangNum (s.taskOfWg i) == (s.wgAt wi).gangNum (s.taskOfWg wi)
def State.wavesOf (s : State) (wi : Nat) : List Nat :=
  (List.range s.waves.length).filter fun i => (s.waveAt i).wg == wi && (s.waveAt i).live

/-! ## Native registers (R86) -/

def isVec (n : Nat) : Bool := decide (n < 768)
def isScal (n : Nat) : Bool := decide (768 ≤ n) && decide (n < 832)
def isPred (n : Nat) : Bool := decide (832 ≤ n) && decide (n < 848)
/-- fm registers read as XT and YT 0x1F until they are written (R93). -/
def fmDflt : Nat → BitVec 32 := fun _ => 0x7DF000
/-- The bits of a format register that are not reserved (R93). -/
def fmMask : Word := 0xFFF000

/-- A lane's copy of a vector, scalar or predicate register; the zero register and every other number read as zero. -/
def Wave.regRead (w : Wave) (n L : Nat) : Dword :=
  if isVec n then (cget (zeros 32) (w.lane L).g n).setWidth 64
  else if isScal n then cget (zeros 64) (w.lane L).s (n - 768)
  else if isPred n then dw (bitOf (inMask (cget (zeros 32) w.q (n - 832)) L))
  else 0

/-- Each lane of a mask writes its copy: 32 bits of a vector register, 64 of a scalar, a bit of a predicate. Writes to the discard
register are dropped. -/
def Wave.regWrite (w : Wave) (m : Mask) (n : Nat) (v : Nat → Dword) : Wave :=
  if isVec n then w.mapLanes fun L l => if inMask m L then { l with g := cset (zeros 32) l.g n ((v L).setWidth 32) } else l
  else if isScal n then w.mapLanes fun L l => if inMask m L then { l with s := cset (zeros 64) l.s (n - 768) (v L) } else l
  else if isPred n then
    let old := cget (zeros 32) w.q (n - 832)
    { w with q := cset (zeros 32) w.q (n - 832) (maskOf fun L => if inMask m L then v L != 0 else inMask old L) }
  else w

/-- A result in the vector registers of one lane. -/
def Lane.putVec (l : Lane) (ds : List (Nat × Nat)) (v : Val) : Lane :=
  ds.foldl (fun l d => (List.range d.2).foldl (fun l i => { l with g := cset (zeros 32) l.g (d.1 + i) (w32 (v.toNat / 2 ^ (32 * i))) }) l) l
/-- Results in the registers of an operation (R82, R83, R108): 32 bits to each vector register of a run. -/
def Wave.putRegs (w : Wave) (m : Mask) : List (Nat × Nat) → (Nat → List Val) → Wave
  | [], _ => w
  | d :: ds, res =>
    let v := fun (L : Nat) => ((res L).headD 0).toNat
    let w := if isVec d.1 then
        (List.range d.2).foldl (fun w i => w.regWrite m (d.1 + i) fun L => dw (v L / 2 ^ (32 * i))) w
      else w.regWrite m d.1 fun L => dw (v L)
    w.putRegs m ds fun L => (res L).tail

/-- Data is on its way to a register of a lane (R90). -/
def Wave.landsOn (w : Wave) (r L : Nat) : Bool := w.landings.any fun x => x.data.any fun e => e.1 == r && e.2.1 == L
/-- What an operation of the issuing wave reads from a register in a lane: before its landing the register is undefined (R6, R90). -/
def State.reg (s : State) (r L : Nat) : Dword :=
  if s.wv.landsOn r L then
    let u := Config.undefReg s.cycle s.gcore r L
    if isVec r then (u.setWidth 32).setWidth 64 else if isPred r then (u.setWidth 1).setWidth 64 else u
  else s.wv.regRead r L
/-- The bits in a run of `n` registers of a lane. -/
def State.regRun (s : State) (r n L : Nat) : Val :=
  if isVec r then BitVec.ofNat 256 ((List.range n).foldl (fun x i => x + (s.reg (r + i) L).toNat * 2 ^ (32 * i)) 0)
  else (s.reg r L).setWidth 256

/-- A result in the words of its registers: register and bits. -/
def regWords (d : Nat × Nat) (v : Val) : List (Nat × Dword) :=
  if isVec d.1 then (List.range d.2).map fun i => (d.1 + i, dw (v.toNat / 2 ^ (32 * i) % 2 ^ 32)) else [(d.1, v.setWidth 64)]
/-- The landing of the issuing operation's results (R90). -/
def State.landing (s : State) (res : Nat → List Val) : Landing :=
  { due := s.cycle + s.issue.land
    back := s.cycle + Config.returnCycles s.cycle s.wv.token (s.issue.dsts.headD (1023, 0)).1
    entries := s.issue.entries
    data := s.activeLanes.flatMap fun L =>
      (s.issue.dsts.zip (res L)).flatMap fun p => (regWords p.1 p.2).map fun e => (e.1, L, e.2) }
/-- Results of the issuing operation on the way to their registers: those of a fixed-latency operation land before the next bundle (R89), those of
a variable-latency one at its arrival cycle (R90). -/
def Wave.deliver (w : Wave) (s : State) (res : Nat → List Val) : Wave :=
  if s.issue.land = 0 then w.putRegs s.active s.issue.dsts res
  else { w with landings := w.landings ++ [s.landing res] }

/-- The data of a landing reaches its registers. -/
def Wave.land (w : Wave) (x : Landing) : Wave := x.data.foldl (fun w e => w.regWrite (maskOf (· == e.2.1)) e.1 fun _ => e.2.2) w
/-- One fmtset comes into force in its lanes (R95). -/
def Wave.setFm (w : Wave) (x : FmPend) : Wave :=
  w.mapLanes fun L l => if inMask x.mask L then { l with fm := cset fmDflt l.fm x.reg x.v } else l
/-- A landing has landed by a cycle: at its arrival cycle, or with the end of the cycle in which late data comes (R90, R91). -/
def Landing.landed (x : Landing) (c : Nat) : Bool := decide (x.due ≤ c) && decide (x.back ≤ x.due ∨ x.back < c)
/-- The landings and the format registers that a cycle finds in place. -/
def Wave.landDue (w : Wave) (c : Nat) : Wave :=
  let w' := (w.landings.filter fun x => x.landed c).foldl Wave.land w
  let w' := (w.fmPend.filter fun x => x.due ≤ c).foldl Wave.setFm w'
  { w' with landings := w.landings.filter fun x => !x.landed c, fmPend := w.fmPend.filter fun x => c < x.due }
/-- Every landing lands, whatever its arrival cycle (R92). -/
def Wave.landAll (w : Wave) : Wave :=
  { w.fmPend.foldl Wave.setFm (w.landings.foldl Wave.land w) with landings := [], fmPend := [] }
/-- Landing-buffer entries in use on a core (R27, R90), and room for `n` more among its 768. -/
def State.entriesUsed (s : State) (core : Nat) : Nat :=
  ((s.waves.filter fun w => w.live && globalCore w.die w.core == core).map fun w => (w.landings.map Landing.entries).foldl (· + ·) 0).foldl (· + ·) 0
def State.bufferRoom (s : State) (n : Nat) : Bool := decide (s.entriesUsed s.gcore + n ≤ 768)
/-- The wave is frozen at its next bundle: a landing is due and its data is not back (R91). -/
def State.frozen (s : State) (i : Nat) : Bool := (s.waveAt i).landings.any fun x => decide (x.due ≤ s.cycle) && !x.landed s.cycle

/-! ## Values and operands -/

/-- The value that an immediate stands for (R59): sign-extended to the element, in every element. -/
def immVal (t : Ty) (v : BitVec 30) : Val :=
  match t with
  | .num sh e =>
    let x := (v.signExtend 64).toNat % 2 ^ e.width
    BitVec.ofNat 256 ((List.range sh.lanes).foldl (fun n i => n + x * 2 ^ (i * e.width)) 0)
  | _ => BitVec.ofNat 256 v.toNat

def Lane.val (l : Lane) (n : Nat) : Val :=
  match l.frames with
  | f :: _ => cget (zeros 256) f.vals n
  | [] => 0

def Lane.setVal (l : Lane) (n : Nat) (v : Val) : Lane :=
  match l.frames with
  | f :: fs => { l with frames := { f with vals := cset (zeros 256) f.vals n v } :: fs }
  | [] => l

/-- Consecutive results written from number `n`. -/
def Lane.setVals (l : Lane) (n : Nat) : List Val → Lane
  | [] => l
  | v :: vs => (l.setVal n v).setVals (n + 1) vs

/-- A value operand, an immediate at a type, or a literal, in a lane. -/
def Lane.opnd (l : Lane) (t : Ty) : Opnd → Val
  | .val n => l.val n.toNat
  | .imm v => immVal t v
  | .lit _ v => v

/-- An operand of the issuing wave in lane `L`. An operation of a bundle reads a value in the registers that the bundle names for it. -/
def State.opnd (s : State) (t : Ty) (o : Opnd) (L : Nat) : Val :=
  match o with
  | .val n =>
    match s.issue.srcs.find? fun e => e.1 == n.toNat with
    | some e => s.regRun e.2.1 e.2.2 L
    | none => (s.wv.lane L).val n.toNat
  | o => (s.wv.lane L).opnd t o
/-- A uniform operand: taken from the lowest lane of Active (R216). -/
def State.uni (s : State) (t : Ty) (o : Opnd) : Val := s.opnd t o s.lowLane
def State.uniNat (s : State) (t : Ty) (o : Opnd) : Nat := (s.uni t o).toNat

/-- The type of a value of the running function (R52); that of the first value operand of a typed operation comes from its format register (R94). -/
def State.valTy (s : State) (n : Nat) : Ty :=
  match s.issue.yt.bind fun y => if y.1 = n then some y.2 else none with
  | some t => t
  | none =>
    match s.funcOf s.issue.loc.handle s.issue.loc.func with
    | some f => f.valTy.getD n .none
    | none => .none

/-- The type that an operand stands for at a position whose type TYPE does not fix (R495). -/
def State.opndTy (s : State) (ts : List Ty) : Opnd → Ty
  | .val n => s.valTy n.toNat
  | .imm _ => tyI32
  | .lit sz _ => (litType sz ts).getD .none

/-- TRIP of a spatial level, an immediate (R48), and the coordinate of workgroup `w` in spatial level `k` of a loop table (R154): levels further
inside have higher numbers. -/
def LoopLevel.immTrip (l : LoopLevel) : Nat :=
  match l.trip with
  | .imm v => (immVal tyN32 v).toNat % 2 ^ 32
  | _ => 0
def spatialCoord (ls : List LoopLevel) (w k : Nat) : Nat :=
  let inner := (ls.drop (k + 1)).filter fun l => l.kind != 0
  w / inner.foldl (fun n l => n * l.immTrip) 1 % (ls.getD k default).immTrip

/-! ## Translations in force -/

/-- The module hash key of a module (R49). -/
def Module.key (m : Module) : Dword := m.digest.setWidth 64

/-- The key of the translation of a function for a wave (R126). -/
def State.transKey (s : State) (w : Wave) (h f : Nat) : TransKey :=
  { modkey := ((s.moduleOf h).map Module.key).getD 0, func := f, cls := dieClass w.die, gen := Config.translatorGen, budget := w.budget,
    dmode := (s.taskOfWg w.wg).launch.dmode }

/-- An image that a request for a key finds (R127, R445). -/
def State.freshImage (s : State) (die : Nat) (k : TransKey) : Option TransImage :=
  s.images.find? fun i => i.die == die && i.key == k && !i.stale
/-- The image in which a wave runs: a stale one keeps running for the waves that were inside it (R445). -/
def State.imageOf (s : State) (w : Wave) (k : TransKey) : Option TransImage :=
  (s.images.find? fun i => i.die == w.die && i.key == k && i.stale && i.users.contains w.token).or (s.freshImage w.die k)

/-- Frame size F of the wave's translation of a function (R88, R122). -/
def State.frameSize (s : State) (w : Wave) (h f : Nat) : Nat :=
  ((s.imageOf w (s.transKey w h f)).map TransImage.framew).getD 0

/-- The translation in which a location lies: that of its own budget. -/
def State.locKey (s : State) (w : Wave) (l : Loc) : TransKey := { s.transKey w l.handle l.func with budget := l.bud }
def State.locImage (s : State) (w : Wave) (l : Loc) : Option TransImage := s.imageOf w (s.locKey w l)
def State.locFrame (s : State) (w : Wave) (l : Loc) : Nat := ((s.locImage w l).map TransImage.framew).getD 0
def State.bundleAt (s : State) (w : Wave) (l : Loc) : Option Bundle := (s.locImage w l).bind fun i => i.plan[l.bun]?

/-- Address of a bundle (R419 NATIVE): its image lies in its units of the reservation, the bundles behind the header (R122, R126). -/
def State.nativeOf (s : State) (w : Wave) (l : Loc) : Dword :=
  match s.locImage w l with
  | some i => dw (Config.reservation + 65536 * i.unit + 64 + ((i.plan[l.bun]?).map Bundle.boff).getD 0)
  | none => Config.nativeAddr w.die l.handle l.func l.block l.index
/-- MAP of a bundle (R81). -/
def State.mapOf (s : State) (w : Wave) (l : Loc) : Nat := ((s.bundleAt w l).bind Bundle.map).getD 0xFFFF

/-- Instruction `idx` of a block of an image's function, in bundle `n`. -/
def TransImage.place (i : TransImage) (h bud b idx n : Nat) : Loc :=
  let p := (i.places.getD b []).getD idx (0, 0)
  { handle := h, func := i.key.func, block := b, index := idx, off := p.1, vnum := p.2, bun := n, bud := bud }
/-- The location that stands for bundle `n`, in the translation in which `l` lies. -/
def TransImage.bunLoc (i : TransImage) (l : Loc) (n : Nat) : Loc :=
  match i.plan[n]? with
  | some b => i.place l.handle l.bud b.block b.index n
  | none => { l with index := l.index + 1, bun := n }

/-- Units of a die's reservation in use: by images, and set aside for translations in progress. -/
def State.usedUnits (s : State) (d : Nat) : List Nat :=
  ((s.images.filter fun i => i.die == d).flatMap fun i => (List.range i.units).map (· + i.unit)) ++
  (s.transReqs.filter fun r => r.die == d).filterMap TransReq.unit
/-- A wave waits for the translation of a key: with the others, or as the first, for which a translator claims the key (R127). -/
def State.joinTrans (s : State) (w : Wave) (h : Nat) (k : TransKey) : State :=
  if s.transReqs.any (fun r => r.die == w.die && r.key == k) then
    { s with transReqs := s.transReqs.map fun r =>
        if r.die == w.die && r.key == k then { r with waiters := r.waiters ++ [w.token] } else r }
  else
    let used := s.usedUnits w.die
    { s with transReqs := s.transReqs ++
        [{ die := w.die, handle := h, key := k, unit := (List.range 4096).find? fun u => !used.contains u, waiters := [w.token] }] }

/-- A request for a translation (R127): the wave joins the waiters of the key; the first request of a key is the miss that
TMISSCNT counts and event 0x10 reports (R129, R426). -/
def State.requestTrans (s : State) (wi h : Nat) (k : TransKey) : State :=
  let w := s.waveAt wi
  if s.transReqs.any (fun r => r.die == w.die && r.key == k && r.waiters.contains w.token) then s
  else
    let ctx := (s.taskOfWg w.wg).ctx
    let s := s.dieSet w.die 0x021 (((s.dieGet w.die 0x021) + 1) &&& 0xFFFFFFFF)
    let s := if bit (s.dieGet w.die 0x020) 0 then s.notice ctx { eventRec 0x10 (dw k.budget) with die := w.die, wave := w.token }
             else s
    s.joinTrans w h k

/-! ## Completing -/

/-- Where the issuing group goes on. -/
def State.after (s : State) : Loc := s.issue.next

/-- The counts that one issue of the wave moves (R136, R175). -/
def Wave.issued (w : Wave) : Wave :=
  { w with retired := w.retired + 1, sincePhase := w.sincePhase + 1, starve := 0, throttled := 0, primary := false, migrate := false }

/-- A lane that goes on at a location of the same block (R399). -/
def Lane.goOn (l : Lane) (p : Loc) : Lane := { l with pc := p, bpos := l.bpos + 1 }

/-- The instruction completes: lane `L` of Active takes the results `res L`, and goes on. The results also go to the registers that the
operation names (R82, R83, R89, R90). -/
def State.finish (s : State) (res : Nat → List Val) : State :=
  s.updWv fun w => ((w.mapLanes fun L l =>
    if inMask s.active L then (l.setVals s.issue.loc.vnum (res L)).goOn s.after else l).deliver s res).issued

/-- One result per lane. -/
def State.put (s : State) (f : Nat → Val) : State := s.finish fun L => [f L]
/-- No result. -/
def State.done (s : State) : State := s.finish fun _ => []

/-- The lanes of a mask park at the instruction, to resume behind it (R150, R285 and the like). -/
def State.park (s : State) (m : Mask) (w : Nat → Wait) : State :=
  s.updWv fun v => (v.mapLanes fun L l =>
    if inMask m L then { l with st := .parked, wait := w L, after := s.after } else l).issued

/-- The instruction waits at issue (a freeze, R91): nothing of it happens now. -/
def State.stall (s : State) : State := s

/-! ## Entering blocks and functions -/

/-- The first bundle of a block, which is bundle `n` of the translation at budget `bud`. -/
def State.blockLoc (s : State) (bud h f b n : Nat) : Loc :=
  match (s.funcOf h f).bind fun fi => fi.blocks[b]? with
  | some bi => { handle := h, func := f, block := b, index := 0, off := bi.off, vnum := bi.argBase + bi.args.length, bun := n, bud := bud }
  | none => { handle := h, func := f, block := b, index := 0, off := 0, vnum := 0, bun := n, bud := bud }

def State.blockInfo (s : State) (h f b : Nat) : BlockInfo :=
  ((s.funcOf h f).bind fun fi => fi.blocks[b]?).getD default

/-- Entry into a block with its arguments, all taking effect together (R55, R140). -/
def Lane.enterBlock (l : Lane) (p : Loc) (base : Nat) (args : List Val) : Lane :=
  { l.setVals base args with pc := p, bpos := 0 }

/-- The arguments of a target in a lane: each at its parameter's type. -/
def Lane.targetArgs (l : Lane) (tys : List Ty) (args : List Opnd) : List Val :=
  (tys.zip args).map fun p => l.opnd p.1 p.2

/-- A lane of the issuing wave enters a target of its function. -/
def State.takeTarget (s : State) (t : Target) (l : Lane) : Lane :=
  let p := s.issue.loc
  let b := t.blk.toNat
  let bi := s.blockInfo p.handle p.func b
  let n := ((s.locImage s.wv p).bind fun i => i.starts[b]?).getD 0
  l.enterBlock (s.blockLoc p.bud p.handle p.func b n) bi.argBase (l.targetArgs bi.args t.args)
/-- A lane takes target number `k`: it enters the block, or goes first to the bundle that leads there (R113, R114). -/
def State.takeExit (s : State) (k : Nat) (t : Target) (l : Lane) : Lane :=
  match s.issue.gos.getD k none with
  | some p => { l with pc := p.1, bpos := p.2 }
  | none => s.takeTarget t l

/-! ## Tiles of frag values (R306, R317) -/

/-- Rows and columns of a tile on a die (R306). -/
def tileTM (die : Nat) : Nat := if dieClass die = 1 then 64 else 16
def tileTN (die : Nat) : Nat := if dieClass die = 1 then 128 else 32

/-- Accumulator registers a0-a15 (R86), and the number of one's tile. -/
def isAcc (n : Nat) : Bool := decide (856 ≤ n) && decide (n < 872)
/-- The tile of a frag value that no bundle gives a register: one for the whole wave. -/
def fragTile (l : Loc) (v : Nat) : Nat := 16 + ((l.handle * 2 ^ 16 + l.func) * 2 ^ 30 + v)
/-- The tile of an operand: that of the accumulator register in which the bundle names it (R306). -/
def State.tileOpnd (s : State) : Opnd → Nat
  | .val n =>
    match s.issue.srcs.find? fun e => e.1 == n.toNat && isAcc e.2.1 with
    | some e => e.2.1 - 856
    | none => fragTile s.issue.loc n.toNat
  | _ => 0

/-- Matrix operations of a wave that name a tile and have not completed, and writes of its mst that have not performed (R308), those among them that
wait at a home for a staging slot (R453). -/
def State.tileBusy (s : State) (tok : Dword) (t : Nat) : Bool :=
  s.quern.any (fun q => q.wave == tok && decide (q.stage < 2) && (q.dst == t || q.srcs.contains t)) ||
  s.msgs.any (fun m => m.wave == tok && m.tile == some t) ||
  s.held.any fun h => h.core == some (globalCore (tok.toNat % 8) (tok.toNat / 8 % 128))

/-- Copies of tiles, all from the old contents: (from, to). -/
def Wave.copyTiles (w : Wave) (ps : List (Nat × Nat)) : Wave :=
  { w with cold := w.cold.filter fun n => !ps.any fun p => 768 + p.2 == n
           tiles := ps.foldl (fun m p => copyRange (zeros 32) w.tiles (p.1 * 8192) 8192 m (p.2 * 8192)) w.tiles }

def Wave.tileAt (w : Wave) (t i j : Nat) : Nat := (cget (zeros 32) w.tiles (t * 8192 + i * tileTN w.die + j)).toNat
/-- A tile with the element (i, j) given by `f`. -/
def Wave.setTile (w : Wave) (t : Nat) (f : Nat → Nat → Nat) : Wave :=
  let tn := tileTN w.die
  let cells := (List.range (tileTM w.die * tn)).filterMap fun n =>
    let v : Word := w32 (f (n / tn) (n % tn))
    if v = 0 then none else some (t * 8192 + n, v)
  { w with cold := w.cold.filter (· != 768 + t)
           tiles := (w.tiles.filter fun e => decide (e.1 < t * 8192)) ++ cells ++
      w.tiles.filter fun e => decide (t * 8192 + 8192 ≤ e.1) }
/-- A tile of free values (R6). -/
def State.freeTile (s : State) (t : Nat) : State :=
  let c := s.freeCnt
  let tn := tileTN s.wv.die
  { s.updWv fun w => w.setTile t fun i j => (Config.freeValue (c + i * tn + j)).toNat % 2 ^ 32 with freeCnt := c + 8192 }

/-- The active lanes branch: `pick L` is the number of the target of lane `L`, and the target (R140). -/
def State.branch (s : State) (pick : Nat → Nat × Target) : State :=
  s.updWv fun w => (w.mapLanes fun L l => if inMask s.active L then s.takeExit (pick L).1 (pick L).2 l else l).issued

/-! ## The view of merged determinism (R402) -/

/-- One byte as a workgroup sees it: its write set, its gang's merged set, memory `m`. -/
def State.viewOn (s : State) (wi k : Nat) (m : Byte) : Byte :=
  let w := cget (zeros 15) (s.wgAt wi).wset k
  if w.getLsbD 8 then w.setWidth 8
  else
    let g := match s.gangOf wi with
      | some g => cget (zeros 47) g.gset k
      | none => 0
    if g.getLsbD 8 then g.setWidth 8 else m
def State.viewByte (s : State) (wi k : Nat) : Byte := s.viewOn wi k (cget memDflt s.mem k)

def State.viewBytes (s : State) (wi k n : Nat) : List Byte := (List.range n).map fun i => s.viewByte wi (k + i)
/-- Bytes of memory from a location on as the workgroup sees them. -/
def State.viewOver (s : State) (wi k : Nat) (bs : List Byte) : List Byte := bs.zipIdx.map fun b => s.viewOn wi (k + b.2) b.1
/-- The location of a byte in the sets of merged determinism: its physical key, or beyond them one of another device's frames. -/
def Phys.vkey (p : Phys) : Nat := physKey p.home p.dpa + if eFab p.leaf then 2 ^ 41 * (1 + eTfdn p.leaf) else 0

/-! ## Calls (R115, R143, R144, R415) -/

/-- What a call reaches. -/
inductive Callee where
  | func (h f : Nat)
  /-- The resolver stub of linkage entry `entry` of module `h` (R148). -/
  | stub (h entry : Nat)
  deriving DecidableEq, Repr, Inhabited

/-- The modifier of a descriptor read. -/
def descMod : MMod := { ord := .relaxed, scope := 0, evict := .dflt, space := .global, reassoc := false }
/-- The access of a wave's own loads and stores in a space. -/
def State.accOf (s : State) (w : Wave) (sp : Space) (rd wr : Bool) : Acc :=
  { core := globalCore w.die w.core, die := w.die, ctx := (s.taskOfWg w.wg).ctx, user := (s.taskOfWg w.wg).user, space := sp,
    rd := rd, wr := wr }

/-- The 16 descriptor bytes at a function address, read as a 16-byte global load (R143): through the workgroup's view under merged determinism, and
on another device as its answer came. -/
def State.readDesc (s : State) (w : Wave) (a : Nat) : Except Cause (List Byte) :=
  if a % 16 ≠ 0 then .error (cause 0x23)
  else
    match s.xlate (s.accOf w .global true false) a with
    | .error c => .error c
    | .ok p =>
      let k := physKey p.home p.dpa
      if eFab p.leaf then
        let q := p.askLine descMod
        if s.fabCause w.token s.issue.loc q ≠ 0 then .error (cause (s.fabCause w.token s.issue.loc q))
        else .ok (s.fabBytes w.token s.issue.loc q (p.dpa % 128) 16)
      else if s.uncorr k then .error (cause 0x80)
      else
        let t := s.meet p 16
        .ok (if 2 ≤ (s.taskOfWg w.wg).launch.dmode then t.viewBytes w.wg k 16 else readBytes t.mem k 16)

def descMagic : Nat := 0x46445844

/-- The key of a linkage entry, and the address that it holds (R45, R147). -/
def Module.linkKey (m : Module) (e : Nat) : Nat := physKey 0 (Config.loaderDpa + (m.linkBase.toNat + 8 * e - Config.loaderVa))
def State.linkEntry (s : State) (h e : Nat) : Nat :=
  match s.moduleOf h with
  | some m => (s.tableEntry (m.linkKey e)).toNat
  | none => 0
/-- The line of a linkage entry is in error. -/
def State.linkBad (s : State) (h e : Nat) : Bool := (s.moduleOf h).any fun m => s.uncorr (m.linkKey e)

/-- The callee behind a function address, for an expected signature (R143). A stub whose entry is already bound leads on to
the bound descriptor (R148 step 2). -/
def State.calleeAt (s : State) (w : Wave) (sig : SigInfo) (a : Nat) : Nat → Except Cause Callee
  | 0 => .error (causeT 0x21 1)
  | n + 1 =>
    match s.readDesc w a with
    | .error c => .error c
    | .ok d =>
      let h := natAt d 4 2
      let f := natAt d 6 2
      if natAt d 0 4 ≠ descMagic ∨ (s.moduleOf h).isNone then .error (causeT 0x21 1)
      else if f = 0xFFFF then
        let e := natAt d 8 4
        let b := s.linkEntry h e
        if s.linkBad h e then .error (cause 0x80)
        else if b = a ∨ n = 0 then .ok (.stub h e) else
          match s.readDesc w b with
          | .error c => .error c
          | .ok d' => if natAt d' 6 2 = 0xFFFF then .ok (.stub h e) else s.calleeAt w sig b n
      else
        match s.funcOf h f with
        | none => .error (causeT 0x21 1)
        | some fi =>
          if fi.sig ≠ sig then .error (causeT 0x21 1)
          else if (s.taskOfWg w.wg).user ∧ ((s.moduleOf h).any fun m => !m.user) then .error (causeT 0x21 5)
          else .ok (.func h f)

/-- The frame of a callee passes word of the thread 16,383 (R115). -/
def frameOver (fb f : Nat) : Bool := decide (16384 < fb + f)

/-- A lane enters a function: a new activation with the arguments as its parameters, at block 0 (R52, R115, R144). `tail` ends
the running activation first. -/
def Lane.enterFunc (l : Lane) (p : Loc) (args : List Val) (ret : Loc) (dst fsize budget bpos : Nat) (tail cont : Bool) : Lane :=
  let old := l.frames.headD default
  let fr : Frame :=
    if tail then { old with vals := [] }
    else { vals := [], ret := some ret, dst := dst, callerFb := l.fb, budget := budget, bpos := bpos, cont := cont }
  let fs := if tail then l.frames.tail else l.frames
  { { l with frames := fr :: fs, fb := if tail then l.fb else l.fb + fsize }.setVals 0 args with pc := p, bpos := 0 }

/-- Words of a lane's frame base after a call, and the size of the callee's own frame, for the frame test. -/
def State.callOver (s : State) (w : Wave) (l : Lane) (h f : Nat) (tail : Bool) : Bool :=
  let fb := if tail then l.fb else l.fb + s.locFrame w l.pc
  frameOver fb (s.frameSize w h f)

/-! ## Taking a fault (R422, R430) -/

/-- The portable location of a bundle: that of its map point; all ones without one (R120, R419). -/
def State.mapLoc (s : State) (w : Wave) (l : Loc) : Option Loc :=
  match s.locImage w l with
  | none => some l
  | some i =>
    ((i.plan[l.bun]?).bind Bundle.map).bind fun m => (i.maps[m]?).map fun r => i.place l.handle l.bud r.block r.index l.bun
/-- The record of a fault of the wave at a bundle. -/
def State.mkRec (s : State) (w : Wave) (loc : Loc) (c : Cause) (prim sec : Mask) (addr : Dword) : FaultRec :=
  { cause := c.code, late := false, async := false, cont := false, event := false, prim := prim, sec := sec, loc := s.mapLoc w loc,
    die := w.die, native := s.nativeOf w loc, addr := addr, tag := c.tag, wave := w.token, task := (s.wgAt w.wg).task }

/-- A lane program counter as the state block holds it (R432): handle, function, bundle offset. -/
def State.lpcOf (s : State) (w : Wave) (p : Loc) : Dword :=
  let boff := ((s.bundleAt w p).map Bundle.boff).getD 0
  dw (p.handle * 2 ^ 48 + p.func * 2 ^ 32 + boff)

def LaneSt.code : LaneSt → Nat
  | .running => 0 | .parked => 1 | .exited => 2 | .stopped => 3

/-- Wait kind, token and address of a wait record (R432 WAITS). -/
def Wait.record : Wait → Nat × Nat × Nat
  | .barrier _ _ a tok => (1, tok.toNat, a.toNat)
  | .waitval _ _ a _ _ _ _ _ => (2, 0, a.toNat)
  | .sleep d => (3, d.getD 0, 0)
  | .rejoin k => (4, k, 0)
  | .contret => (5, 0, 0)
  | .cmpwait h t _ _ => (6, t.toNat, h)
  | .dmerge => (7, 0, 0)
  | _ => (0, 0, 0)

/-- The wait records of the wave's parked groups: at most two (R432). -/
def Wave.waits (w : Wave) : List (Nat × Nat × Nat) :=
  let ls := (w.lanes.filter fun l => l.st == .parked).map fun l => (l.pc, l.wait.record)
  let ds := ls.eraseDups.map Prod.snd
  [ds.getD 0 (0, 0, 0), ds.getD 1 (0, 0, 0)]

/-- Issues since the smaller group was offered (R136, R432). -/
def Wave.sinceOffer (w : Wave) : Nat := (w.unoffered.map Prod.snd).foldl max 0

def wordsBytes (n : Nat) (vs : List Nat) : List Byte := vs.flatMap (bytesOfNat n)

/-- PEND of the state block (R432). -/
def State.pendBytes (s : State) (w : Wave) : List Byte :=
  match w.pend with
  | some p => bytesOfNat 1 p.cause ++ bytesOfNat 3 p.count ++ bytesOfNat 2 (s.mapOf w p.loc) ++ bytesOfNat 1 p.die ++ bytesOfNat 1 0 ++
      bytesOfNat 8 p.addr.toNat ++ bytesOfNat 8 (s.nativeOf w p.loc).toNat ++ bytesOfNat 8 0
  | none => List.replicate 32 0

/-- The wave state block (R432). -/
def State.stateBlock (s : State) (w : Wave) (rpc : Loc) : List Byte :=
  let dm := (s.taskOfWg w.wg).launch.dmode
  let wflags := bitOf w.wkp + 2 * bitOf w.incont + 4 * bitOf w.csig + 8 * bitOf w.faulted + 16 * bitOf w.cutStop
  let lst := (List.range 32).foldl (fun n L => n + (w.lane L).st.code * 4 ^ L) 0
  List.replicate 512 0 ++
  wordsBytes 4 ((List.range 16).map fun i => (cget (zeros 32) w.q i).toNat) ++
  wordsBytes 4 ((List.range 8).map fun k => (w.enr.getD k 0).toNat) ++
  wordsBytes 4 ((List.range 8).map fun k => (w.prk.getD k 0).toNat) ++
  List.replicate 16 0 ++ bytesOfNat 4 w.fpf.toNat ++ bytesOfNat 4 wflags ++ bytesOfNat 8 w.retired.toNat ++
  wordsBytes 4 ((List.range 6).map fun k => (w.idx.getD k 0).toNat) ++
  wordsBytes 4 ((List.range 6).map fun k => (w.trip.getD k 0).toNat) ++
  bytesOfNat 4 0 ++ bytesOfNat 2 w.starve ++ bytesOfNat 2 w.sinceOffer ++ bytesOfNat 4 (w.budget + dm * 2 ^ 16) ++
  bytesOfNat 4 w.cmask.toNat ++ bytesOfNat 8 w.contfn.toNat ++ bytesOfNat 8 w.contarg.toNat ++
  bytesOfNat 8 (s.lpcOf w rpc).toNat ++ bytesOfNat 8 lst ++
  w.waits.flatMap (fun r => bytesOfNat 4 r.1 ++ bytesOfNat 4 r.2.1 ++ bytesOfNat 8 r.2.2) ++ s.pendBytes w ++
  (match w.frec with | some r => r.bytes | none => List.replicate 64 0) ++
  wordsBytes 4 ((List.range 32).map fun L => (w.lane L).fb) ++
  wordsBytes 8 ((List.range 32).map fun L => (s.lpcOf w (w.lane L).pc).toNat) ++
  wordsBytes 8 ((List.range 32).map fun L => (w.lane L).rsidx.toNat) ++ List.replicate 2560 0

/-- Where the state block lies in a register space (R431). -/
def stateBlockOff : Nat := 0x98000

/-- The scalar, format and BPOS areas of a register space (R431): written with the state block. -/
def Wave.laneAreas (w : Wave) : List (Nat × List Byte) :=
  ((List.range 64).map fun n =>
    (0x9A000 + 256 * n, wordsBytes 8 ((List.range 32).map fun L => (cget (zeros 64) (w.lane L).s n).toNat))) ++
  ((List.range 4).map fun n =>
    (0x9E000 + 128 * n, wordsBytes 4 ((List.range 32).map fun L => (cget (fun _ => 0x7DF000) (w.lane L).fm n).toNat))) ++
  [(0x9E200, wordsBytes 4 ((List.range 32).map fun L => (w.lane L).bpos))]

/-- The bytes of a word, as the cells that memory lists. -/
def wordCells (k : Nat) (v : Nat) : Cells 8 :=
  ((bytesOfNat 4 v).zipIdx.map fun b => (k + b.2, b.1)).filter fun e => e.2 != memDflt e.1
/-- Where lines n.. of a register space lie (R87, R306, R431): gn for n < 768, tile an for 768 + n. -/
def tileBytes (die : Nat) : Nat := 4 * tileTM die * tileTN die
def spaceOff (die n : Nat) : Nat := if n < 768 then 128 * n else 0x18000 + (n - 768) * tileBytes die
def spaceLen (die n : Nat) : Nat := if n < 768 then 128 else tileBytes die
/-- The contents of line `n`. -/
def Wave.lineCells (w : Wave) (n : Nat) : Cells 8 :=
  if n < 768 then (List.range 32).flatMap fun L => wordCells (4 * L) (cget (zeros 32) (w.lane L).g n).toNat
  else (sliceRange w.tiles ((n - 768) * 8192) ((n - 768) * 8192 + 8192) 0).flatMap fun e => wordCells (4 * e.1) e.2.toNat
/-- Line `n` goes to the wave's register space; one that the register cache does not hold stands there already. -/
def State.saveLine (s : State) (i n : Nat) : State :=
  let w := s.waveAt i
  match w.wbp with
  | none => s
  | some b =>
    if w.cold.contains n then s
    else s.ctxCopyOut (s.taskOfWg w.wg).ctx (b.toNat + spaceOff w.die n) (spaceLen w.die n) (w.lineCells n)
/-- The lines of a wave's register space that it uses: its vector registers below the budget, and its tiles. -/
def Wave.spaceLines (w : Wave) : List Nat := List.range w.budget ++ (List.range 16).map (768 + ·)

/-- Locations of the wave's running groups, and their lanes. -/
def Wave.groups (w : Wave) : List (Loc × Mask) :=
  let locs := ((w.lanes.filter fun l => l.st == .running).map Lane.pc).eraseDups
  locs.map fun p => (p, maskOf fun L => (w.lane L).st == .running && (w.lane L).pc == p)

/-- Where the wave resumes: the place of its lowest lane that has not exited. -/
def Wave.resumeAt (w : Wave) : Loc :=
  if w.incont || w.faulted then w.rpc else ((w.lanes.find? fun l => l.st != .exited).map Lane.pc).getD default

/-- The wave's registers, tiles and state block go to its register space (R422, R435). A wave that no scheduler placed has none, and keeps its state
in the core only. -/
def State.saveBlock (s : State) (wi : Nat) : State :=
  let w := s.waveAt wi
  let ctx := (s.taskOfWg w.wg).ctx
  match w.wbp with
  | none => s
  | some b =>
    let s := w.spaceLines.foldl (fun s n => s.saveLine wi n) s
    let s := s.ctxWrite ctx (b.toNat + stateBlockOff) (s.stateBlock w w.resumeAt)
    w.laneAreas.foldl (fun s a => s.ctxWrite ctx (b.toNat + a.1) a.2) s
/-- Bytes of the state block at an offset. -/
def State.blockPut (s : State) (wi off : Nat) (bs : List Byte) : State :=
  let w := s.waveAt wi
  match w.wbp with
  | none => s
  | some b => s.ctxWrite (s.taskOfWg w.wg).ctx (b.toNat + stateBlockOff + off) bs

/-- A fault is delivered to a wave (R422): it issues nothing further and the lanes of the group stop. The rest of that rule waits for its issued
operations. `rpc` is the resumption point; within a continuation RPC stays (R429). -/
def State.takeFault (s : State) (wi : Nat) (group : Mask) (rpc : Loc) (r : FaultRec) : State :=
  s.updWave wi fun w =>
    { w.mapLanes (fun L l => if inMask group L && l.st == .running then { l with st := .stopped } else l) with
      faulted := true, unsaved := true, frec := some r, rpc := if w.incont then w.rpc else rpc, contAsk := none }

/-- The signature of a continuation (R430): one n64 parameter, no results. -/
def contSig : SigInfo := { params := [tyN64], results := [] }

/-- A precise fault at a location of a group of a wave: the wave stands still for the call of its continuation when R430 applies, else the fault is
delivered. -/
def State.faultAt (s : State) (wi : Nat) (group : Mask) (loc : Loc) (c : Cause) (prim sec : Mask) (addr : Dword) : State :=
  let w := s.waveAt wi
  let r := s.mkRec w loc c prim sec addr
  if c.code = 0x20 ∧ w.contfn ≠ 0 ∧ w.incont = false ∧ w.contAsk = none ∧ (s.taskOfWg w.wg).launch.dmode % 2 = 0 then
    s.updWave wi fun w => { w with contAsk := some (group, loc, r, false) }
  else s.takeFault wi group loc r

/-- The issuing instruction faults (R10, R420 precise): no effect of it is performed. -/
def State.fault (s : State) (c : Cause) (prim sec : Mask) (addr : Nat) : State :=
  s.faultAt s.issue.wave s.active s.issue.here c prim sec (dw addr)
/-- With Active as the primary mask. -/
def State.faultAll (s : State) (c : Cause) : State := s.fault c s.active 0 0

/-- A late cause of the issuing instruction (R240), which arises at a die: it completes, and the wave takes the fault at the next bundle at or after
the arrival cycle. -/
def State.lateFaultAt (s : State) (die : Nat) (c : Cause) (prim sec : Mask) (addr : Nat) : State :=
  s.updWv fun w =>
    { w with late := w.late ++ [{ due := s.cycle + s.issue.land, cause := c.code, tag := c.tag, prim := prim, sec := sec, addr := dw addr, loc := s.issue.loc,
                                  die := die }] }
/-- One that arises at the wave's own die. -/
def State.lateFault (s : State) (c : Cause) (prim sec : Mask) (addr : Nat) : State := s.lateFaultAt s.wv.die c prim sec addr

/-- An asynchronous cause arrives (R424 step 3): the first is held, and each further one adds to the count. -/
def Wave.pendFault (w : Wave) (p : PendFault) : Wave :=
  match w.pend with
  | none => { w with pend := some p }
  | some q => { w with pend := some { q with count := q.count + 1 } }

/-- An asynchronous cause arrives for a wave; one that stands FAULTED holds its pending fault in its state block too (R422, R432). -/
def State.pendArrives (s : State) (i : Nat) (p : PendFault) : State :=
  let t := s.updWave i fun w => w.pendFault p
  if (t.waveAt i).faulted then t.blockPut i 0x320 (t.pendBytes (t.waveAt i)) else t

/-- The record of a pending asynchronous fault (R424 step 4). -/
def State.pendRec (s : State) (w : Wave) (group : Mask) (p : PendFault) : FaultRec :=
  { s.mkRec w p.loc { code := p.cause, tag := if p.cause = 0x30 then p.tag else dw (p.count * 2 ^ 32) } group 0 p.addr with
    async := true, die := p.die }

/-- The pending asynchronous fault, if any, is delivered at the issuing bundle (R424). -/
def State.deliverPend (s : State) : Option State :=
  match s.wv.pend with
  | none => none
  | some p =>
    let r := s.pendRec s.wv s.active p
    some ((s.updWv fun w => { w with pend := none }).takeFault s.issue.wave s.active s.issue.here r)

/-- Return from a fault (R427 RESUME): the wave leaves FAULTED and its stopped lanes run again. -/
def State.resumeWave (s : State) (wi : Nat) : State :=
  s.updWave wi fun w =>
    { w.mapLanes (fun _ l => if l.st == .stopped then { l with st := .running } else l) with faulted := false }

/-! ## Accesses outstanding -/

/-- Index of the wave with a token. -/
def State.waveOf (s : State) (tok : Dword) : Option Nat :=
  (List.range s.waves.length).find? fun i => (s.waveAt i).live && (s.waveAt i).token == tok

/-- Two waves of one ordered gang. -/
def State.sameGang (s : State) (a b : Dword) : Bool :=
  match s.waveOf a, s.waveOf b with
  | some i, some j =>
    let t := s.taskOfWg (s.waveAt i).wg
    t.launch.dmode % 2 == 1 && (s.wgAt (s.waveAt i).wg).task == (s.wgAt (s.waveAt j).wg).task &&
      (s.wgAt (s.waveAt i).wg).gangNum t == (s.wgAt (s.waveAt j).wg).gangNum t
  | _, _ => false

/-- A remote write, block copy, window contribution or span instruction of a wave has not performed (R283, R302, R230). -/
def State.outstanding (s : State) (token : Dword) : Bool :=
  s.msgs.any (fun m => m.wave == token) || s.copies.any (fun c => c.wave == token) || !s.held.isEmpty ||
  s.spans.any (fun e => e.wave == token) ||
  s.rounds.any (fun r => r.parts.any fun p => p.wave == some token) ||
  s.ports.any fun p => (p.outbox.any fun m => m.owner == some token) || p.replay.any fun f => f.owners.contains token

/-- Operations that a wave has issued are complete (R92, R308). -/
def State.waveQuiet (s : State) (i : Nat) : Bool :=
  let tok := (s.waveAt i).token
  !s.outstanding tok && !(s.quern.any fun q => q.wave == tok && decide (q.stage < 2)) &&
  !(s.fabReqs.any fun r => r.owner == tok && r.reply.isNone && r.cause == 0)

/-- Every access that the issuing wave has issued has performed. -/
def State.quiet (s : State) : Bool := !s.outstanding s.wv.token

/-- Matrix operations that the issuing wave has sent and that have not completed (R325). -/
def State.matrixBusy (s : State) : Bool := s.quern.any fun q => q.wave == s.wv.token && decide (q.stage < 2)
/-- Every earlier access of the issuing wave has performed, those of its matrix operations too: what a release waits for (R265 row d). -/
def State.settled (s : State) : Bool := s.quiet && !s.matrixBusy
/-- Bytes from physical key `k` on that a message writes. -/
def Msg.len (m : Msg) : Nat :=
  match m.fx with
  | .bytes bs => bs.length
  | .rmw _ ty _ => ty.bytes
/-- The location of its first byte. -/
def Msg.vkey (m : Msg) : Nat := physKey m.home m.dpa + ((m.tfdn.map fun f => 2 ^ 41 * (1 + f.toNat)).getD 0)
/-- The location of line `i` of a block copy in memory. -/
def State.copyKey (s : State) (c : BlockCopy) (i : Nat) : Option Nat :=
  match (s.waveOf c.wave).map fun w => s.xlate (s.accOf (s.waveAt w) c.m.space c.toSpad (!c.toSpad)) (c.va.toNat + 128 * i) with
  | some (.ok p) => some p.vkey
  | _ => none
/-- A write, or a line of a block copy, of the issuing wave that touches a byte of [k, k + n) has not performed (R258, R265 row a); the waves of
an ordered gang wait for each other's (R398). -/
def State.ownMsgOn (s : State) (k n : Nat) : Bool :=
  s.msgs.any (fun m => (m.wave == s.wv.token || (s.ordered && s.sameGang m.wave s.wv.token)) && decide (k < m.vkey + m.len) && decide (m.vkey < k + n)) || s.heldOn k n
def State.ownWriteOn (s : State) (k n : Nat) : Bool :=
  s.ownMsgOn k n ||
  s.copies.any fun c => c.wave == s.wv.token && c.lines.any fun i => (s.copyKey c i).any fun q => decide (k < q + 128) && decide (q < k + n)

end Sys2Proof.Machine
end

