-- ==== Sys2Proof/Machine/Operands.lean ====
section
/-! DEFINITION. Memory operands: where a lane's address leads in each space (08_memory.md R232, R250, R251, R255), the causes of
a memory instruction over its lanes (R239), scratchpad lines and presence (R248, R249), the workgroup's view under merged
determinism (15_determinism.md R402, R404), and reading and writing the bytes of an access (R244-R247, R252). -/
namespace Sys2Proof.Machine

/-! ## Causes over the lanes (R239) -/

/-- Priority of a cause, highest first (R239). -/
def causeRank (c : Nat) : Nat :=
  if c = 0x25 then 0 else if c = 0x23 then 1 else if c = 0x24 then 2 else if c = 0x26 then 3 else if c = 0x20 then 4
  else if c = 0x21 then 5 else if c = 0x22 then 6 else 7

/-- The highest cause among the lanes of a mask. -/
def topCause (ls : List Nat) (c : Nat → Option Cause) : Option Cause :=
  (ls.filterMap c).foldl (fun best x =>
    match best with
    | none => some x
    | some b => if causeRank x.code < causeRank b.code then some x else some b) none

/-- The fault of an instruction some of whose lanes have a cause (R239): the lanes with the highest cause are the primary mask,
the others with a cause the secondary mask, and the address is that of the lowest primary lane. -/
def State.laneFault (s : State) (c : Nat → Option Cause) (addr : Nat → Nat) : Option State :=
  match topCause s.activeLanes c with
  | none => none
  | some t =>
    let prim := maskOf fun L => inMask s.active L && (c L).any fun x => x.code == t.code
    let sec := maskOf fun L => inMask s.active L && (c L).any fun x => x.code != t.code
    some (s.fault t prim sec (addr ((lanesOf prim).headD 0)))

def errOf {α : Type} : Except Cause α → Option Cause
  | .error c => some c
  | .ok _ => none

/-! ## Places -/

/-- Where an access of a lane leads. -/
inductive Place where
  /-- Scratchpad offset in the workgroup's allocation. -/
  | spad (off : Nat)
  /-- One translated range. -/
  | phys (va : Nat) (p : Phys)
  /-- Consecutive words of a lane: the place of each. -/
  | words (ws : List (Nat × Phys))
  deriving DecidableEq, Repr, Inhabited

/-- Virtual address of word `w` of lane `L` of a wave (R250). -/
def Wave.wordVa (wv : Wave) (w L : Nat) : Nat := (wv.pbase.toNat + (w * 32 + L) * 4) % 2 ^ 64

/-- Words that a type of `n` bytes covers (R251). -/
def wordCount (n : Nat) : Nat := max 1 (n / 4)

/-- The places of `k` consecutive words. -/
def State.wordPlaces (s : State) (a : Acc) (L w : Nat) : Nat → Except Cause (List (Nat × Phys))
  | 0 => .ok []
  | k + 1 =>
    let va := s.wv.wordVa w L
    match s.xlate a va with
    | .error c => .error c
    | .ok p =>
      match s.wordPlaces a L (w + 1) k with
      | .error c => .error c
      | .ok ps => .ok ((va, p) :: ps)

/-- loc() of R255: the place of an access of `n` bytes of lane `L` at address operand `a`, aligned to `al` bytes. -/
def State.laneLoc (s : State) (sp : Space) (rd wr : Bool) (L a n al : Nat) : Except Cause Place :=
  let acc := s.accOf s.wv sp rd wr
  if sp = .spad then
    if a % al ≠ 0 then .error (cause 0x23)
    else if s.wg.spadB < a + n then .error (cause 0x26)
    else .ok (.spad a)
  else if sp = .priv then
    let k := wordCount n
    if s.task.launch.pwords < a + k then .error (cause 0x25)
    else if a % k ≠ 0 then .error (cause 0x23)
    else
      match s.wordPlaces acc L a k with
      | .error c => .error c
      | .ok ws => .ok (.words ws)
  else if a % al ≠ 0 then .error (cause 0x23)
  else
    match s.xlate acc a with
    | .error c => .error c
    | .ok p => .ok (.phys a p)

def Phys.key (p : Phys) : Nat := physKey p.home p.dpa

/-- The die of the memory in which a place lies. -/
def Place.die : Place → Nat
  | .spad _ => 0
  | .phys _ p => p.home
  | .words ws => ((ws.head?).map fun w => w.2.home).getD 0
/-- Key and length of the bytes of an access reached through translation. -/
def Place.ranges (n : Nat) : Place → List (Nat × Nat)
  | .spad _ => []
  | .phys _ p => [(p.key, n)]
  | .words ws => ws.map fun w => (w.2.key, 4)

/-- The same, with the bytes of other devices at their own locations. -/
def Place.vranges (n : Nat) : Place → List (Nat × Nat)
  | .phys _ p => [(p.vkey, n)]
  | pl => pl.ranges n

def Place.isFab : Place → Bool
  | .phys _ p => eFab p.leaf
  | _ => false

/-- The virtual addresses that a lane's access has translated: none for a scratchpad access, a misaligned one or one past the limit (R239). -/
def State.laneVas (s : State) (sp : Space) (L a n al : Nat) : List Nat :=
  if sp = .spad then []
  else if sp = .priv then
    let k := wordCount n
    if s.task.launch.pwords < a + k ∨ a % k ≠ 0 then [] else (List.range k).map fun i => s.wv.wordVa (a + i) L
  else if a % al ≠ 0 then [] else [a]
/-- The walker's updates for an access that then fails its leaf check, or whose other lanes do (R237): the walk was valid. -/
def State.walked (s : State) (a : Acc) (vas : List Nat) : State :=
  vas.foldl (fun s va =>
    match s.place a va with
    | .ok p => s.touch { a with wr := a.wr && eW p.leaf } va p
    | .error _ => s.walkReads a.die a.ctx va) s

/-- The fault of an access, whose lanes' walks stand: nothing else of it does (R237, R239). -/
def State.walkedFault (s : State) (a : Acc) (vas : List Nat) (c : Nat → Option Cause) (addr : Nat → Nat) : Option State :=
  (s.laneFault c addr).map fun _ => ((s.walked a vas).laneFault c addr).getD s

/-- The walker's updates for a place (R237). -/
def State.touchPlace (s : State) (a : Acc) : Place → State
  | .spad _ => s
  | .phys va p => s.touch a va p
  | .words ws => ws.foldl (fun s w => s.touch a w.1 w.2) s

/-- An access that no walk goes before meets the lines of its place under their page's key ID. -/
def State.met (s : State) (n : Nat) : Place → State
  | .phys _ p => s.meet p n
  | _ => s

/-! ## Scratchpad (R248, R249) -/

/-- The absent lines among [off, off + n) of a workgroup's allocation. -/
def Workgroup.absentIn (g : Workgroup) (off n : Nat) : List Nat := (linesIn off n).filter fun l => g.absent.contains l

def Workgroup.read (g : Workgroup) (off n : Nat) : List Byte := readBytes g.spad off n
/-- A write makes the words good that it covers whole. -/
def Workgroup.write (g : Workgroup) (off : Nat) (bs : List Byte) : Workgroup :=
  { g with spad := writeBytes g.spad off bs, badPad := g.badPad.filter fun w => !(decide (off ≤ 8 * w) && decide (8 * w + 8 ≤ off + bs.length)) }
/-- An uncorrectable error stands in a byte of a read, or in a word of which a write covers a part (R475). -/
def Workgroup.padBad (g : Workgroup) (off n : Nat) : Bool := g.badPad.any fun w => decide (off < 8 * w + 8) && decide (8 * w < off + n)
def Workgroup.padSplit (g : Workgroup) (off n : Nat) : Bool :=
  g.badPad.any fun w => decide (off < 8 * w + 8) && decide (8 * w < off + n) && !(decide (off ≤ 8 * w) && decide (8 * w + 8 ≤ off + n))
def Workgroup.clearPresence (g : Workgroup) (ls : List Nat) : Workgroup :=
  { g with absent := g.absent ++ ls.filter fun l => !g.absent.contains l }
def Workgroup.setPresence (g : Workgroup) (ls : List Nat) : Workgroup := { g with absent := g.absent.filter fun l => !ls.contains l }

/-- The scratchpad lines that park the wave before the instruction issues (R249). -/
def State.absentOf (s : State) (ps : List (Nat × Nat)) : List Nat :=
  (ps.flatMap fun p => s.wg.absentIn p.1 p.2).eraseDups

/-- The group parks until the lines are present; the instruction then issues again (R249). Meanwhile the wave offers nothing (R134). -/
def State.parkPresence (s : State) (ls : List Nat) : State :=
  s.updWv fun w => w.mapLanes fun L l =>
    if inMask s.active L then { l with st := .parked, wait := .presence ls, after := s.issue.here } else l

/-! ## The view of merged determinism (R402) -/

/-- A captured write enters the write set, with the key ID of its page. -/
def setWrite (m : Cells 15) (kid k : Nat) : List Byte → Cells 15
  | [] => m
  | b :: bs => setWrite (cset (zeros 15) m k (BitVec.ofNat 15 (kid % 64 * 512 + 256 + b.toNat))) kid (k + 1) bs

/-- Shadow lines of a set: distinct lines that hold a byte. -/
def shadowLines {w : Nat} (m : Cells w) : List Nat := (m.map fun e => e.1 / 128).eraseDups

/-- The die whose pool holds the records of a reduction: its line's home, and that of the workgroup for one on another device. -/
def Reduction.poolDie (r : Reduction) (g : Workgroup) : Nat := if r.tfdn.isSome then g.die else keyDie r.key
/-- The die whose pool holds a shadow line: its home, of another device's frame that of the same number. -/
def lineDie (line : Nat) : Nat := keyDie (128 * line) % 8
/-- Lines of a die's shadow pool in use (R404): reduction records, four to a line, and the shadow lines that stand in it. -/
def State.poolUsed (s : State) (die : Nat) : Nat :=
  (s.wgs.map fun g => (((g.reds.filter fun r => r.poolDie g == die).map Reduction.lanes).foldl (· + ·) 0 + 3) / 4 +
    (g.wpool.filter fun l => lineDie l == die).length).foldl (· + ·) 0 +
  (s.gangs.map fun g => (g.gpool.filter fun l => lineDie l == die).length).foldl (· + ·) 0
/-- Lines that a die's shadow pool holds. -/
def State.poolLines (s : State) (die : Nat) : Nat := (s.dieGet die 0x039).toNat / 144
/-- Of the new shadow lines of a write, those that the home L2s do not hold (R404): which, is open. -/
def State.overflow (s : State) (wi k n : Nat) : List Nat :=
  let held := shadowLines (s.wgAt wi).wset
  (linesIn k n).filter fun l => !held.contains l && !(s.wgAt wi).wpool.contains l && (Config.freeValue (s.freeCnt + l % 2)).getLsbD 0
/-- Bytes enter a workgroup's write set under the key ID of their page (R402), new shadow lines in the home L2 or the pool; none when the pool of
one has no line for it (R404). -/
def State.captureBy (s : State) (wi kid k : Nat) (bs : List Byte) : Option State :=
  let new := s.overflow wi k bs.length
  let t : State :=
    if (linesIn k bs.length).any fun l => !(shadowLines (s.wgAt wi).wset).contains l then { s with freeCnt := s.freeCnt + 2 } else s
  let u := t.updWg wi fun g => { g with wset := setWrite g.wset kid k bs, wpool := g.wpool ++ new }
  if new.any fun l => decide (u.poolLines (lineDie l) < u.poolUsed (lineDie l)) then none else some u

/-! ## Reading and writing -/

/-! ### Own words (R244, R247, R252) -/

/-- A wave's word or line of words goes home under the key ID of its page (R22, R252). The home die denies the write of another die as it denies a
store (R241): it logs it, and the wave receives fault 0x27. -/
def State.ownHome (s : State) (owner : Dword) (core va kid k : Nat) (bs : List Byte) : State :=
  match s.waveOf owner with
  | none => (s.meetKey k bs.length kid).homeWriteBy (some core) k bs
  | some i =>
    let w := s.waveAt i
    if keyDie k != w.die && s.frameDenies (s.taskOfWg w.wg).user k then
      let loc := ((w.lanes.find? fun l => l.st != .exited).map Lane.pc).getD default
      (s.logDenial (keyDie k) va owner (s.mapOf w loc) w.die 0x27 s.fdn).pendArrives i
        { cause := 0x27, count := 0, loc := loc, die := keyDie k, addr := dw va, tag := 0, tile := none }
    else (s.meetKey k bs.length kid).homeWriteBy (some core) k bs

/-- A dirty line of own words goes back to its home and stays clean (R252, R259). -/
def State.l1WriteBack (s : State) (l : L1Line) : State :=
  if l.dirty then
    let s := s.ownHome l.owner l.core l.va.toNat l.keyid (l.line * 128) l.data
    { s with l1 := s.l1.map fun x => if x == l then { l with dirty := false } else x }
  else s
/-- A line leaves the L1; a dirty one goes home first. -/
def State.l1Evict (s : State) (l : L1Line) : State :=
  let t := s.l1WriteBack l
  t.l1Drop l.core l.line l.sp
/-- A line enters the L1, most recently used. -/
def State.l1Put (s : State) (l : L1Line) : State :=
  let s := s.l1Drop l.core l.line l.sp
  { s with l1 := l :: s.l1 }
/-- A set that has taken a line beyond its 16 ways gives up its victim (R247). -/
def State.overfull (s : State) : Option L1Line :=
  if s.l1.length ≤ 16 then none else
  let n := s.l1.foldl (fun (a : Array Nat) l => a.modify (l1Set l.line) (· + 1)) (Array.replicate 128 0)
  ((s.l1.filter fun l => decide (16 < n.getD (l1Set l.line) 0)).find? fun l => decide (16 < (s.l1Ways l.core (l1Set l.line)).length)).bind
    fun l => l1Victim (s.l1Ways l.core (l1Set l.line))

/-- A word of the thread's own space (R244, R252): the L1 line when present, else memory. -/
def State.wordRead (s : State) (core k : Nat) : List Byte :=
  match s.l1Find core (lineOf k) 2 with
  | some l => (l.data.drop (k % 128)).take 4
  | none => readBytes s.mem k 4

/-- The line of a word is brought into the L1 (write-allocate); with EVICT 3 it is not (R247). -/
def State.wordFill (s : State) (core : Nat) (w : Nat × Phys) (e : Evict) : State :=
  let k := w.2.key
  match s.l1Find core (lineOf k) 2 with
  | some _ => s
  | none =>
    if e == .bypass then s
    else
      (s.rdcRead (core / 80) k e).l1Put { core := core, line := lineOf k, sp := 2, dirty := false, sticky := false, owner := s.wv.token
                                          va := dw (w.1 / 128 * 128), keyid := eKeyid w.2.leaf, data := s.fillBytes core (lineOf k) }

/-- A write of bytes within one word (R251): in the L1 line, or with EVICT 3 on a miss at the home. -/
def State.wordWrite (s : State) (core : Nat) (w : Nat × Phys) (e : Evict) (bs : List Byte) : State :=
  let k := w.2.key
  let s := s.wordFill core w e
  if (s.l1Find core (lineOf k) 2).isNone then s.ownHome s.wv.token core w.1 (eKeyid w.2.leaf) k bs
  else
    { s with l1 := s.l1.map fun l =>
        if l.core == core && l.line == lineOf k && l.sp == 2 then { l with data := spliceBytes l.data (k % 128) bs, dirty := true }
        else l }

/-- The hint of an access to own words (R247): after lastuse the line is dropped without write-back. -/
def State.wordsNote (s : State) (e : Evict) (ws : List (Nat × Phys)) : State :=
  ws.foldl (fun s w => s.l1Note e s.gcore (lineOf w.2.key) 2) s

/-! ### Global and constant spaces (R244-R246) -/

/-- A space reached through translation, whose lines the L1 keeps beside those of own words (R244). -/
def l1Space (sp : Space) : Bool := sp != .spad && sp != .priv

/-- The line of the L1 that serves a read (R245): of space 0 at scopes 0-2 only. -/
def State.l1Serves (s : State) (scope k : Nat) (sp : Space) : Option L1Line :=
  if l1Space sp ∧ (scope ≤ 2 ∨ sp ≠ .global) then s.l1Find s.gcore (lineOf k) sp.code else none
/-- Bytes of an access of the issuing wave: the view, the L1, else the home. -/
def State.globalRead (s : State) (scope k n : Nat) (sp : Space) : List Byte :=
  if s.merged && sp == .global then s.viewBytes s.wv.wg k n
  else
    match s.l1Serves scope k sp with
    | some l => (l.data.drop (k % 128)).take n
    | none => readBytes s.mem k n

/-- Bytes of a load of `n` bytes at a place. -/
def State.placeRead (s : State) (m : MMod) (n : Nat) : Place → List Byte
  | .spad off => s.wg.read off n
  | .phys va p => s.headerAs (m.space == .ca) va (s.globalRead m.scope.toNat p.key n m.space)
  | .words ws => (ws.flatMap fun w => s.wordRead s.gcore w.2.key).take n

/-- What a load of a line leaves in the L1 (R245, R247): a line that the read has passed over takes the bytes that it returned. -/
def State.l1Read (s : State) (m : MMod) (va : Nat) (p : Phys) : State :=
  let core := s.gcore
  let line := lineOf p.key
  let sp := m.space.code
  let fresh := s.fillBytes core line
  let s :=
    match s.l1Find core line sp with
    | some l =>
      if m.scope.toNat ≤ 2 ∨ sp ≠ 0 then s
      else { s with l1 := s.l1.map fun x => if x == l then { l with data := fresh } else x }
    | none =>
      if m.evict == Evict.bypass || s.redOn core line then s
      else s.l1Put { core := core, line := line, sp := sp, dirty := false, sticky := false, owner := 0, va := dw (va / 128 * 128), keyid := eKeyid p.leaf, data := fresh }
  s.l1Note m.evict core line sp

/-- What a load leaves in the caches (R245-R247): the fill of the die's RDC and of the L1, and the eviction hint. -/
def State.afterRead (s : State) (m : MMod) (pl : Place) : State :=
  match pl with
  | .spad _ => s
  | .phys va p =>
    if eFab p.leaf then s
    else
      let s := if (s.l1Serves m.scope.toNat p.key m.space).isSome then s else s.rdcRead s.wv.die p.key m.evict
      if l1Space m.space then s.l1Read m va p else s
  | .words ws => (ws.foldl (fun s w => s.wordFill s.gcore w m.evict) s).wordsNote m.evict ws

/-! ### Causes at the home die (R240, R241, R424) -/

/-- An asynchronous cause of the issuing instruction, met at a die (R240, R424). -/
def State.asyncFaultAt (s : State) (die c addr : Nat) (tile : Option Nat) : State :=
  s.pendArrives s.issue.wave { cause := c, count := 0, loc := s.issue.loc, die := die, addr := dw addr, tag := 0, tile := tile }
/-- At its own die. -/
def State.asyncFault (s : State) (c addr : Nat) (tile : Option Nat) : State := s.asyncFaultAt s.wv.die c addr tile

/-- A write or atomic of the issuing wave that its home die, another die of the package, turns away: 0x27 or 0x80, else 0. -/
def State.remoteCause (s : State) (p : Phys) : Nat :=
  if eFab p.leaf then 0
  else if p.home != s.wv.die && s.frameDenies s.task.user p.key then 0x27
  else if s.uncorr p.key then 0x80 else 0
/-- Another die of the package logs the cause that the issuing wave's access met there. -/
def State.logCause (s : State) (va : Nat) (p : Phys) (c : Nat) : State :=
  if p.home = s.wv.die then s else s.logDenial p.home va s.wv.token (s.mapOf s.wv s.issue.loc) s.wv.die c s.fdn
/-- A write without result that its home turns away: the wave holds the cause. -/
def State.turnAway (s : State) (va : Nat) (p : Phys) (c : Nat) : State := (s.logCause va p c).asyncFaultAt p.home c va none

/-- A remote write leaves for its home die (R241, R242). -/
def State.sendWrite (s : State) (m : MMod) (va : Nat) (p : Phys) (fx : WriteFx) (tile : Option Nat) : State :=
  let msg : Msg :=
    { id := s.nextId, st := .sent, wave := s.wv.token, srcDie := s.wv.die, core := some s.gcore, home := p.home, dpa := p.dpa, va := dw va,
      user := s.task.user, tfdn := if eFab p.leaf then some (BitVec.ofNat 8 (eTfdn p.leaf)) else none, fx := fx, loc := s.issue.loc,
      cause := 0, invs := [], tile := tile, cmd := none, coff := 0, release := decide (2 ≤ m.ord.code),
      acq := if m.ord.code % 2 = 1 then some m.scope.toNat else none, keyid := eKeyid p.leaf }
  { s with msgs := s.msgs ++ [msg], nextId := s.nextId + 1 }

/-- A write is captured (R402). One whose pool has no line for it does not perform, and the wave takes fault 0x30 (R404). -/
def State.capture (s : State) (p : Phys) (bs : List Byte) : State :=
  match s.captureBy s.wv.wg (eKeyid p.leaf) p.vkey bs with
  | some t => t
  | none =>
    ({ s with freeCnt := s.freeCnt + 2 } : State).pendArrives s.issue.wave
      { cause := 0x30, count := 0, loc := s.issue.loc, die := s.wv.die, addr := 0, tag := BitVec.allOnes 64, tile := none }

/-- A write of bytes at a translated place: captured, performed at the own die's L2 unless the line is in error, or sent to its home. A fabric page is in no cache (R242). A
captured write stands in its line's home L2 (R404), whose die checks it. -/
def State.globalWrite (s : State) (m : MMod) (va : Nat) (p : Phys) (bs : List Byte) : State :=
  if s.merged && m.space == .global then
    (if s.remoteCause p ≠ 0 then s.turnAway va p (s.remoteCause p) else s.capture p bs)
  else if eFab p.leaf then s.sendWrite m va p (.bytes bs) none
  else
    let s := (s.l1Note m.evict s.gcore (lineOf p.key) m.space.code).hint 8 (lineOf p.key) m.evict
    if p.home != s.wv.die then (s.l1Update s.gcore p.key bs).sendWrite m va p (.bytes bs) none
    else if s.uncorr p.key then s.asyncFault 0x80 va none
    else (s.l1Update s.gcore p.key bs).homeWriteBy (some s.gcore) p.key bs

/-- Bytes written over consecutive words. -/
def State.wordsWrite (s : State) (e : Evict) (bs : List Byte) : List (Nat × Phys) → State
  | [] => s
  | w :: ws => (s.wordWrite s.gcore w e (bs.take 4)).wordsWrite e (bs.drop 4) ws

/-- The words among some whose lines the L1 lacks, and which stand in error (R240). -/
def State.badWords (s : State) (ws : List (Nat × Phys)) : List (Nat × Phys) :=
  ws.filter fun w => s.uncorr w.2.key && (s.l1Find s.gcore (lineOf w.2.key) 2).isNone
/-- An uncorrectable error in the `n` bytes that a read at a place returns (R240): a line of the L1 that serves the read has none. -/
def State.placeBad (s : State) (m : MMod) (n : Nat) : Place → Bool
  | .spad off => s.wg.padBad off n
  | .phys _ p => !eFab p.leaf && s.uncorr p.key && (s.l1Serves m.scope.toNat p.key m.space).isNone
  | .words ws => !(s.badWords ws).isEmpty

/-- A store of bytes at a place; one that meets an uncorrectable error is not made, and the wave holds the cause with address `addr`. -/
def State.placeWrite (s : State) (m : MMod) (addr : Nat) (bs : List Byte) : Place → State
  | .spad off => if s.wg.padSplit off bs.length then s.asyncFault 0x80 addr none else s.updWg s.wv.wg fun g => g.write off bs
  | .phys va p => s.globalWrite m va p bs
  | .words ws =>
    match s.badWords ws with
    | w :: _ => s.asyncFaultAt w.2.home 0x80 addr none
    | [] => (s.wordsWrite m.evict bs ws).wordsNote m.evict ws

/-- An access to a line of the own die that performs at the point of coherence comes after the wave's earlier ones of that kind: the lines of its
block copies and the writes that wait for a staging slot (R265 row c). -/
def State.homeHeld (s : State) (k : Nat) : Bool :=
  keyDie k == s.wv.die &&
    ((s.held.any fun h => h.core == some s.gcore && keyDie h.key == s.wv.die) ||
     s.copies.any fun c => c.wave == s.wv.token && c.lines.any fun i => (s.copyKey c i).any fun q => keyDie q == s.wv.die)
/-- A reduction of the wave with ORD 3 has not performed at its home: no later access comes before it (R265 row e, R298). -/
def State.acqPending (s : State) : Bool := s.msgs.any fun m => m.wave == s.wv.token && m.acq.isSome
/-- An access waits at issue (a freeze): an earlier write of its own to one of its bytes is still on its way (R244, R265 row a), an earlier access to
its own die has not performed (row c), or its ORD keeps it after writes that have not performed (rows d and f). -/
def State.mustWait (s : State) (m : MMod) (wr : Bool) (n : Nat) (pls : List Place) : Bool :=
  (decide (2 ≤ m.ord.code) && !s.settled) || s.acqPending ||
  pls.any fun pl => (pl.vranges n).any fun r =>
    s.ownWriteOn r.1 r.2 || ((wr || (s.l1Serves m.scope.toNat r.1 m.space).isNone) && s.homeHeld r.1)

/-- An acquire of scope 3 or wider invalidates the L1's lines of space 0 (R245, R270); in spaces 1 and 2 no scope is wider than 2 (R264). -/
def State.acquire (s : State) (ord : Ord) (scope : Nat) (sp : Space) : State :=
  if ord.code % 2 = 1 ∧ 3 ≤ scope ∧ sp ≠ .spad ∧ sp ≠ .priv then s.l1Acquire s.gcore else s

/-- The type a bytes list spells, as a value. -/
def valOfBytes (bs : List Byte) : Val := BitVec.ofNat 256 (natOfBytes bs)
def bytesOfVal (n : Nat) (v : Val) : List Byte := bytesOfNat n v.toNat

/-- The state as the wave `wi` sees it while something acts for it at a location. -/
def State.asWave (s : State) (wi : Nat) (m : Mask) (l : Loc) : State :=
  { s with issue := { wave := wi, mask := m, loc := l, here := l, next := l, gos := [], dsts := [], srcs := [], yt := none, land := 0, entries := 1, stamped := false } }

/-! ## Free values -/

/-- Free values for the 32 lanes of a destination (R6): `ty` cuts them to its type. -/
def State.freeVals (s : State) (ty : Ty) (L : Nat) : Val := BitVec.ofNat 256 ((Config.freeValue (s.freeCnt + L)).toNat % 2 ^ ty.width)
def State.skipFree (s : State) : State := { s with freeCnt := s.freeCnt + 32 }
/-- Bytes of free values (R6). -/
def State.takeFreeBytes (s : State) (n : Nat) : List Byte × State :=
  ((List.range n).map fun i => ((Config.freeValue (s.freeCnt + i / 32)).extractLsb' (8 * (i % 32)) 8),
   { s with freeCnt := s.freeCnt + (n + 31) / 32 })

end Sys2Proof.Machine
end

