-- ==== Sys2Proof/Machine/Flags.lean ====
section
/-! DEFINITION. The sticky floating-point flags (06_float_formats.md R187, R188, R210), the rounding words of stochastic rounding
(R185), and the counter-based generator they come from (07_lanes_spans.md R220, R221). -/
namespace Sys2Proof.Machine

/-! ## FPFLAGS (R187) -/

def flNV : Nat := 1
def flDZ : Nat := 2
def flOF : Nat := 4
def flUF : Nat := 8
def flNX : Nat := 16

/-- The OR of flag sets. -/
def orAll : List Nat → Nat
  | [] => 0
  | x :: xs => x ||| orAll xs

/-- Flags land in FPFLAGS (R188). -/
def Wave.addFlags (w : Wave) (c f : Nat) : Wave :=
  if f % 32 = 0 then w
  else
    { w with fpf := w.fpf ||| BitVec.ofNat 5 f
             fpAt := c + 1
             fpNew := (if w.fpAt = c + 1 then w.fpNew else 0) ||| BitVec.ofNat 5 f }
/-- The bits of a mask leave FPFLAGS in cycle `c` (R210); a flag that lands in that cycle survives (R188). -/
def Wave.clearFlags (w : Wave) (c m : Nat) : Wave :=
  { w with fpf := (w.fpf &&& ~~~(BitVec.ofNat 5 m)) ||| if w.fpAt = c then w.fpNew else 0 }

/-! ## Philox-4x32-10 (R221) -/

structure Ctr where
  c0 : Nat
  c1 : Nat
  c2 : Nat
  c3 : Nat
  deriving DecidableEq, Repr, Inhabited

/-- One round. -/
def philoxRound (k0 k1 : Nat) (c : Ctr) : Ctr :=
  let p0 := c.c0 * 0xD2511F53
  let p1 := c.c2 * 0xCD9E8D57
  { c0 := (p1 / 2 ^ 32) ^^^ c.c1 ^^^ k0, c1 := p1 % 2 ^ 32, c2 := (p0 / 2 ^ 32) ^^^ c.c3 ^^^ k1, c3 := p0 % 2 ^ 32 }

/-- `n` rounds, the key moving on between rounds. -/
def philoxRounds : Nat → Nat → Nat → Ctr → Ctr
  | 0, _, _, c => c
  | n + 1, k0, k1, c => philoxRounds n ((k0 + 0x9E3779B9) % 2 ^ 32) ((k1 + 0xBB67AE85) % 2 ^ 32) (philoxRound k0 k1 c)

/-- The block of a seed, a call index, a thread number and a stream (R220). -/
def philox (seed idx thread stream : Nat) : Ctr :=
  philoxRounds 10 (seed % 2 ^ 32) (seed / 2 ^ 32 % 2 ^ 32)
    { c0 := idx % 2 ^ 32, c1 := idx / 2 ^ 32 % 2 ^ 32, c2 := thread % 2 ^ 32, c3 := stream % 2 ^ 32 }

def Ctr.word (c : Ctr) (i : Nat) : Nat := if i % 4 = 0 then c.c0 else if i % 4 = 1 then c.c1 else if i % 4 = 2 then c.c2 else c.c3

/-- The global thread number of a lane of the issuing wave (R220). -/
def State.thread (s : State) (L : Nat) : Nat := ((s.wg.num * s.task.launch.nwave + s.wv.num) * 32 + L) % 2 ^ 32

def roundingStream : Nat := 0xFFFFFFFF

/-- The rounding word that element `i` of the issuing instruction takes in lane `L` (R185). -/
def State.roundWord (s : State) (L i : Nat) : Nat :=
  let n := ((s.wv.lane L).rsidx.toNat + i) % 2 ^ 64
  (philox s.task.launch.seed.toNat (n / 4) (s.thread L) roundingStream).word n

/-! ## Completing a floating-point instruction -/

/-- Rounding words per lane that a mode takes for `n` elements. -/
def wordsUsed (r : Rnd) (n : Nat) : Nat := if r = .rsto then n else 0

/-- The instruction completes with results and flags of each active lane; RSIDX moves on by the words taken. -/
def State.finishFp (s : State) (words : Nat) (res : Nat → List Val × Nat) : State :=
  (s.finish fun L => (res L).1).updWv fun w =>
    (w.mapLanes fun L l => if inMask s.active L then { l with rsidx := l.rsidx + dw words } else l).addFlags s.cycle
      (orAll (s.activeLanes.map fun L => (res L).2))

end Sys2Proof.Machine
end

