-- ==== Sys2Proof/Machine/Memory.lean ====
section
/-! DEFINITION. The memory-access instructions (08_memory.md R253-R261) and the events of block copies and presence (R249, R258). -/
namespace Sys2Proof.Machine

/-! ## Per-lane accesses (R255, R256) -/

/-- An access of the issuing wave: its modifier, kind, size and alignment, and the address each lane supplies. -/
structure Access where
  m : MMod
  rd : Bool
  wr : Bool
  n : Nat
  al : Nat
  addr : Nat → Nat

/-- loc() of a lane. -/
def State.placeOf (s : State) (a : Access) (L : Nat) : Except Cause Place := s.laneLoc a.m.space a.rd a.wr L (a.addr L) a.n a.al
def State.placeAt (s : State) (a : Access) (L : Nat) : Place :=
  match s.placeOf a L with
  | .ok p => p
  | .error _ => default

/-- Scratchpad ranges of the lanes' places. -/
def padRanges (n : Nat) (pls : List Place) : List (Nat × Nat) :=
  pls.filterMap fun
    | .spad off => some (off, n)
    | _ => none

/-- Lines of other devices that the lanes read. -/
def fabAsks (m : MMod) (pls : List Place) : List FabAsk :=
  (pls.filterMap fun
    | .phys _ p => if eFab p.leaf then some (p.askLine m) else none
    | _ => none).eraseDups

/-- A line whose data an own stblk has not read yet holds the wave's later scratchpad stores back (R258). -/
def State.padHeld (s : State) (rs : List (Nat × Nat)) : Bool :=
  s.copies.any fun c => c.wave == s.wv.token && !c.toSpad &&
    rs.any fun r => (linesIn r.1 r.2).any fun l => c.lines.any fun i => c.spadOff / 128 + i == l

/-- A write of a lane would have to wait for a staging slot (R453). -/
def State.copyBlocked (s : State) (k : Nat) : Bool := s.copyPending (frameOf k) && (s.freeStaging (keyDie k)).isNone

/-- The fault of an access some of whose lanes have a cause. -/
def State.accessFault (s : State) (a : Access) : Option State :=
  s.walkedFault (s.accOf s.wv a.m.space a.rd a.wr) (s.activeLanes.flatMap fun L => s.laneVas a.m.space L (a.addr L) a.n a.al)
    (fun L => errOf (s.placeOf a L)) a.addr

/-- The landing-buffer entries of a load: one for each line that it touches (R262). -/
def Place.lines (n : Nat) : Place → List Nat
  | .spad off => (linesIn off n).map (· + 2 ^ 60)
  | p => (p.ranges n).flatMap fun r => linesIn r.1 r.2
/-- A load of a bundle waits for its entries; with an issue stamp it faults (R90, R399). -/
def State.withEntries (s : State) (n : Nat) (eff : State → State) : State :=
  if s.issue.land = 0 then eff s
  else if s.bufferRoom n then { eff { s with issue := { s.issue with entries := n } } with issue := s.issue }
  else if s.issue.stamped then s.faultAll (causeT 0x31 2)
  else s.stall

/-- What every per-lane access does before its effect: the wait for presence (R249), faults over the lanes (R239), the waits at issue.
`eff` is the effect, given that the instruction issues now. -/
def State.access (s : State) (a : Access) (eff : State → State) : State :=
  let pad := padRanges a.n (s.activeLanes.filterMap fun L => (s.placeOf a L).toOption)
  let ls := s.absentOf pad
  if !ls.isEmpty then s.parkPresence ls
  else
    match s.accessFault a with
    | some s' => s'
    | none =>
      let pls := s.activeLanes.map (s.placeAt a)
      if s.mustWait a.m a.wr a.n pls then s.stall
      else if a.wr && s.padHeld pad then s.stall
      else eff (pls.foldl (fun s p => s.touchPlace (s.accOf s.wv a.m.space a.rd a.wr) p) s)

/-- Bytes that a lane's load returns. -/
def State.laneBytes (s : State) (a : Access) (L : Nat) : List Byte :=
  match s.placeAt a L with
  | .phys va p =>
    if eFab p.leaf then
      let bs := s.fabBytes s.wv.token s.issue.loc (p.askLine a.m) (p.dpa % 128) a.n
      if s.merged then s.viewOver s.wv.wg p.vkey bs else bs
    else s.placeRead a.m a.n (.phys va p)
  | pl => s.placeRead a.m a.n pl

/-- The die at which a lane's load met a late cause: the home of its data. -/
def State.laneDie (s : State) (a : Access) (L : Nat) : Nat :=
  match s.placeAt a L with
  | .spad _ => s.wv.die
  | pl => pl.die
/-- The late cause of a lane's load (R240, R242): 0 for none. -/
def State.laneLate (s : State) (a : Access) (L : Nat) : Nat :=
  match s.placeAt a L with
  | .phys _ p => if eFab p.leaf then s.fabCause s.wv.token s.issue.loc (p.askLine a.m) else if s.placeBad a.m a.n (.phys 0 p) then 0x80 else 0
  | pl => if s.placeBad a.m a.n pl then 0x80 else 0

/-- The effect of a load. -/
def State.loadEff (s : State) (a : Access) : State :=
  let asks := fabAsks a.m (s.activeLanes.map (s.placeAt a))
  let lines := ((s.activeLanes.map (s.placeAt a)).flatMap (Place.lines a.n)).eraseDups
  s.withEntries lines.length fun s =>
  if !s.fabReady s.wv.token s.issue.loc asks then s.fabAskAll s.wv.die s.wv.token s.issue.loc asks
  else
    let late := s.activeLanes.map (s.laneLate a)
    let s' := (s.activeLanes.foldl (fun t L => t.afterRead a.m (s.placeAt a L)) s).acquire a.m.ord a.m.scope.toNat a.m.space
    let s' := s'.fabDrop s.wv.token s.issue.loc
    if late.all (· == 0) then s'.put fun L => valOfBytes (s.laneBytes a L)
    else
      let c := (late.filter (· != 0)).headD 0x80
      let prim := maskOf fun L => inMask s.active L && s.laneLate a L == c
      let sec := maskOf fun L => inMask s.active L && s.laneLate a L != c && s.laneLate a L != 0
      s'.done.lateFaultAt (s.laneDie a ((lanesOf prim).headD 0)) (cause c) prim sec (a.addr ((lanesOf prim).headD 0))

/-- The lanes of a vector store, grouped where each follows on from the one before in one line: a group is one write (R256). -/
def State.storeRuns (s : State) (a : Access) : List Nat → List (Nat × List Nat)
  | [] => []
  | L :: ls =>
    match s.storeRuns a ls with
    | (M, ms) :: rs =>
      (match s.placeAt a L, s.placeAt a M with
       | .phys _ p, .phys _ q =>
         if p.key + a.n = q.key ∧ lineOf p.key = lineOf q.key ∧ eFab p.leaf = eFab q.leaf then (L, L :: ms) :: rs else (L, [L]) :: (M, ms) :: rs
       | _, _ => (L, [L]) :: (M, ms) :: rs)
    | [] => [(L, [L])]

/-- The effect of a store: lanes in ascending order, so that the highest lane's value remains (R255). -/
def State.storeEff (s : State) (a : Access) (lanes : List Nat) (v : Nat → List Byte) : State :=
  (lanes.foldl (fun t L => t.placeWrite a.m (a.addr L) (v L) (s.placeAt a L)) s).done

/-- Address operand of a space. -/
def addrTy (sp : Space) : Ty := if sp = .spad ∨ sp = .priv then tyN32 else tyA64
def State.addrOpnd (s : State) (m : MMod) (o : Opnd) (L : Nat) : Nat := (s.opnd (addrTy m.space) o L).toNat

def State.ldAccess (s : State) (ty : Ty) (m : MMod) (a : Opnd) : Access :=
  { m := m, rd := true, wr := false, n := ty.bytes, al := ty.bytes, addr := fun L => s.addrOpnd m a L }
def execLd (ty : Ty) (m : MMod) (a : Opnd) (s : State) : Outcome :=
  let x := s.ldAccess ty m a
  .next (s.access x fun t => t.loadEff x)

def State.stAccess (s : State) (ty : Ty) (m : MMod) (a : Opnd) : Access :=
  { m := m, rd := false, wr := true, n := ty.bytes, al := ty.bytes, addr := fun L => s.addrOpnd m a L }
def execSt (ty : Ty) (m : MMod) (a v : Opnd) (s : State) : Outcome :=
  let x := s.stAccess ty m a
  .next (s.access x fun t => t.storeEff x t.activeLanes fun L => bytesOfVal ty.bytes (s.opnd ty v L))

/-- Address of lane `L` of ldv and stv (R256). -/
def State.vecAddr (s : State) (m : MMod) (base : Opnd) (n L : Nat) : Nat :=
  (s.uniNat (addrTy m.space) base + L * n) % 2 ^ (if m.space = .spad then 32 else 64)
def execLdv (ty : Ty) (m : MMod) (base : Opnd) (s : State) : Outcome :=
  let x : Access := { m := m, rd := true, wr := false, n := ty.bytes, al := ty.bytes, addr := fun L => s.vecAddr m base ty.bytes L }
  .next (s.access x fun t => t.loadEff x)
def execStv (ty : Ty) (m : MMod) (base v : Opnd) (s : State) : Outcome :=
  let x : Access := { m := m, rd := false, wr := true, n := ty.bytes, al := ty.bytes, addr := fun L => s.vecAddr m base ty.bytes L }
  .next (s.access x fun t =>
    let rs := t.storeRuns x t.activeLanes
    t.storeEff x (rs.map Prod.fst) fun L => ((rs.lookup L).getD [L]).flatMap fun M => bytesOfVal ty.bytes (s.opnd ty v M))

/-! ## Block copies (R257, R258) -/

/-- The first cause among pages that hold [va, va + n). -/
def State.rangeCause (s : State) (a : Acc) (va n : Nat) : Option Cause :=
  ((List.range ((va + n - 1) / 65536 + 1 - va / 65536)).map fun i =>
    errOf (s.xlate a (if i = 0 then va else (va / 65536 + i) * 65536))).findSome? id

/-- The checks of R257, in order: of the operands, then of the pages. -/
def State.blkShape (s : State) (off va len : Nat) : Option Cause :=
  if off % 128 ≠ 0 ∨ va % 128 ≠ 0 ∨ len % 128 ≠ 0 then some (cause 0x23)
  else if len < 128 ∨ 65536 < len then some (causeT 0x26 1)
  else if s.wg.spadB < off + len then some (causeT 0x26 3)
  else none
def State.blkCause (s : State) (a : Acc) (off va len : Nat) : Option Cause := (s.blkShape off va len).or (s.rangeCause a va len)
/-- The pages that the check walks, up to the first with a cause. -/
def State.blkPages (s : State) (a : Acc) (va len : Nat) : List Nat :=
  let vas := (List.range ((va + len - 1) / 65536 + 1 - va / 65536)).map fun i => if i = 0 then va else (va / 65536 + i) * 65536
  vas.take ((vas.takeWhile fun x => (errOf (s.xlate a x)).isNone).length + 1)

/-- Addresses that the record of a block copy's fault names: the misaligned or failing memory address, else the offset. -/
def blkAddr (c : Cause) (off va : Nat) : Nat := if c.code = 0x26 then off else if c.code = 0x23 ∧ va % 128 = 0 then off else va

/-- Both block copies issue: checks, presence, the limit of four per core (R258). -/
def State.blkIssue (s : State) (m : MMod) (off va len : Nat) (toSpad : Bool) : State :=
  let ls := s.wg.absentIn off (min len (s.wg.spadB - off))
  if !ls.isEmpty then s.parkPresence ls
  else
    let acc := s.accOf s.wv m.space toSpad (!toSpad)
    match s.blkCause acc off va len with
    | some c =>
      (if (s.blkShape off va len).isSome then s else s.walked acc (s.blkPages acc va len)).fault c s.active 0 (blkAddr c off va)
    | none =>
      if 4 ≤ (s.copies.filter fun c => c.core == s.gcore).length then (if s.ordered then s.faultAll (causeT 0x31 3) else s.stall)
      else if (2 ≤ m.ord.code ∧ !s.settled) ∨ s.acqPending then s.stall
      else
        let c : BlockCopy :=
          { id := s.nextId, wave := s.wv.token, wg := s.wv.wg, core := s.gcore, toSpad := toSpad, spadOff := off, va := dw va,
            lines := List.range (len / 128), m := m, loc := s.issue.loc, undef := [] }
        let s := { s with copies := s.copies ++ [c], nextId := s.nextId + 1 }
        (if toSpad then s.updWg s.wv.wg fun g => g.clearPresence (linesIn off len) else s).done

def execLdblk (m : MMod) (off src len : Opnd) (s : State) : Outcome :=
  .next (s.blkIssue m (s.uniNat tyN32 off) (s.uniNat tyA64 src) (s.uniNat tyN32 len) true)
def execStblk (m : MMod) (dst off len : Opnd) (s : State) : Outcome :=
  .next (s.blkIssue m (s.uniNat tyN32 off) (s.uniNat tyA64 dst) (s.uniNat tyN32 len) false)

/-- A line of a block copy is finished; the last one ends it. -/
def State.blkLineEnd (s : State) (c : BlockCopy) (i : Nat) : State :=
  { s with copies := (s.copies.map fun x => if x.id == c.id then { x with lines := x.lines.filter (· != i) } else x).filter fun x =>
      !x.lines.isEmpty }

/-- A line of a block copy, with free values for the bytes that R326 makes undefined. -/
def State.blkBytes (s : State) (c : BlockCopy) (i : Nat) (bs : List Byte) : List Byte × State :=
  let hole := fun (k : Nat) => c.undef.any fun r => decide (r.1 ≤ 128 * i + k) && decide (128 * i + k < r.1 + r.2)
  if c.undef.isEmpty then (bs, s)
  else
    let f := s.takeFreeBytes 128
    (bs.zipIdx.map fun b => if hole b.2 then f.1.getD b.2 0 else b.1, f.2)
/-- An earlier block copy of the wave has a line to read or write that line `i` of a copy follows: the same line of memory, another of the own die, or
for the lines that an ldblk writes one that an stblk has yet to read (R258, R265 rows a and c). -/
def State.copyBehind (s : State) (c : BlockCopy) (i : Nat) : Bool :=
  s.copies.any fun x => x.wave == c.wave && decide (x.id < c.id) && x.lines.any fun j =>
    (c.toSpad && !x.toSpad && x.spadOff / 128 + j == c.spadOff / 128 + i) ||
    ((s.copyKey c i).any fun k => (s.copyKey x j).any fun q => k == q || (keyDie k == s.wv.die && keyDie q == s.wv.die))
/-- A line of an ldblk: read as a load of its bundle, written, and present (R258). A line that meets a cause is undefined. -/
def State.blkLoadLine (s : State) (c : BlockCopy) (i : Nat) : State :=
  let va := c.va.toNat + 128 * i
  let off := c.spadOff + 128 * i
  let fin := fun (t : State) (bs : List Byte) =>
    let (bs, t) := t.blkBytes c i bs
    (t.updWg c.wg fun g => (g.write off bs).setPresence [off / 128]).blkLineEnd c i
  let bad := fun (t : State) (k : Nat) =>
    let f := t.takeFreeBytes 128
    fin (f.2.asyncFault k va none) f.1
  match s.xlate (s.accOf s.wv c.m.space true false) va with
  | .error k => bad s k.code
  | .ok p =>
    if eFab p.leaf then
      let l := { c.loc with vnum := c.id }
      let ask := [p.askLine c.m]
      if !s.fabReady c.wave l ask then s.fabAskAll s.wv.die c.wave l ask
      else
        let k := s.fabCause c.wave l (p.askLine c.m)
        let t := s.fabDrop c.wave l
        let bs := s.fabBytes c.wave l (p.askLine c.m) 0 128
        if k = 0 then fin t (if s.merged then s.viewOver s.wv.wg p.vkey bs else bs) else bad t k
    else if s.placeBad c.m 128 (.phys va p) then bad s 0x80
    else
      let t := s.touch (s.accOf s.wv c.m.space true false) va p
      fin (t.afterRead c.m (.phys va p)) (t.placeRead c.m 128 (.phys va p))

/-- A line of an stblk. -/
def State.blkStoreLine (s : State) (c : BlockCopy) (i : Nat) : State :=
  let va := c.va.toNat + 128 * i
  let (bs, s) := s.blkBytes c i ((s.wgAt c.wg).read (c.spadOff + 128 * i) 128)
  let acc := s.accOf s.wv .global false true
  match s.xlate acc va with
  | .error k => (s.asyncFault k.code va none).blkLineEnd c i
  | .ok p =>
    (if (s.wgAt c.wg).padBad (c.spadOff + 128 * i) 128 then s.asyncFault 0x80 va none else (s.touch acc va p).globalWrite c.m va p bs).blkLineEnd c i

/-- Event (R258). Lines of an stblk homed on the issuing die go in ascending order. -/
def execBlockCopyLineDone (id line : Nat) (s : State) : Outcome :=
  match s.copies.find? fun c => c.id == id with
  | none => .next s
  | some c =>
    match s.waveOf c.wave with
    | none => .next { s with copies := s.copies.filter fun x => x.id != id }
    | some wi =>
      if !c.lines.contains line ∨ (!c.toSpad ∧ c.lines.headD 0 ≠ line) then .next s
      else
        let t := s.asWave wi 0 c.loc
        if t.copyBehind c line || (t.copyKey c line).any fun k => t.ownMsgOn k 128 then .next s
        else
        let t := if c.toSpad then t.blkLoadLine c line else t.blkStoreLine c line
        .next { t with issue := s.issue }

/-! ## Cache maintenance (R259) -/

/-- The access that prefetch, wbline and invline check: a 4-byte load with no alignment of its own. -/
def lineAccess (m : MMod) (addr : Nat → Nat) : Access := { m := m, rd := true, wr := false, n := 4, al := 1, addr := addr }

/-- The place is a word whose line stands dirty in the L1: a prefetch of it may be dropped, and must not lose the line (R247, R259). -/
def State.dirtyOwn (s : State) (pl : Place) : Bool :=
  match pl with
  | .words ws => ws.any fun w => (s.l1Find s.gcore (lineOf w.2.key) 2).any L1Line.dirty
  | _ => false
def execPrefetch (m : MMod) (a : Opnd) (s : State) : Outcome :=
  let x := lineAccess m fun L => s.addrOpnd m a L
  .next (s.activeLanes.foldl (fun t L =>
    match s.placeOf x L with
    | .ok pl => if pl.isFab || s.placeBad m 4 pl || t.dirtyOwn pl then t else (t.touchPlace (s.accOf s.wv m.space true false) pl).afterRead m pl
    | .error _ => t) s).done

def wordMod : MMod := { ord := .relaxed, scope := 0, evict := .dflt, space := .priv, reassoc := false }
def execWbline (w : Opnd) (s : State) : Outcome :=
  let x := lineAccess wordMod fun L => (s.opnd tyN32 w L).toNat
  .next (s.access x fun t =>
    (t.activeLanes.foldl (fun u L =>
      match s.placeAt x L with
      | .words ws => ws.foldl (fun u w =>
          match u.l1Find u.gcore (lineOf w.2.key) 2 with
          | some l => u.l1WriteBack l
          | none => u) u
      | _ => u) t).done)

def execInvline (space : Space) (a : Opnd) (s : State) : Outcome :=
  let m := { wordMod with space := space }
  let x := lineAccess m fun L => s.addrOpnd m a L
  .next (s.access x fun t =>
    (t.activeLanes.foldl (fun u L =>
      match s.placeAt x L with
      | .words ws => ws.foldl (fun u w => u.l1Drop u.gcore (lineOf w.2.key) 2) u
      | .phys _ p => u.l1Drop u.gcore (lineOf p.key) space.code
      | .spad _ => u) t).done)

def execZline (m : MMod) (a : Opnd) (s : State) : Outcome :=
  let x : Access := { m := m, rd := false, wr := true, n := 128, al := 128, addr := fun L => s.addrOpnd m a L }
  .next (s.access x fun t =>
    t.storeEff x (t.activeLanes.filter fun L => !(t.activeLanes.any fun j => decide (j < L) && x.addr j == x.addr L))
      fun _ => List.replicate 128 0)

/-! ## Queries (R260, R261) -/

def execSpq (off len : Opnd) (s : State) : Outcome :=
  let o := s.uniNat tyN32 off
  let n := s.uniNat tyN32 len
  .next (if n = 0 then s.faultAll (causeT 0x26 1)
    else if s.wg.spadB < o + n then s.fault (causeT 0x26 3) s.active 0 o
    else s.put fun _ => BitVec.ofNat 256 (s.wg.absentIn o n).length)

def execPvbase (w : Opnd) (s : State) : Outcome :=
  .next (s.put fun L => BitVec.ofNat 256 (s.wv.wordVa (s.opnd tyN32 w L).toNat L))

/-- A lane waits for lines that are present now. -/
def Lane.linesHere (g : Workgroup) (l : Lane) : Bool :=
  match l.wait with
  | .presence ls => l.st == .parked && ls.all fun x => !g.absent.contains x
  | _ => false
/-- Event (R249): lanes of wave `w` whose lines are now present issue their instruction again, from the next cycle on. -/
def execWaveUnparkPresence (w : Nat) (s : State) : Outcome :=
  let g := s.wgAt (s.waveAt w).wg
  let any := (s.waveAt w).lanes.any (Lane.linesHere g)
  .next (s.updWave w fun wv =>
    { wv.mapLanes (fun _ l => if l.linesHere g then { l with st := .running, wait := .none } else l) with
      hold := if any then max wv.hold (s.cycle + 2) else wv.hold })

end Sys2Proof.Machine
end

