-- ==== Sys2Proof/Machine/Int.lean ====
section
/-! DEFINITION. The integer and address instructions (05_integer.md R159-R175). An element is held as the natural number of its
bits; arithmetic is exact on integers and wrapped at the end. -/
namespace Sys2Proof.Machine

/-! ## Elements -/

/-- Element `i` of a value whose elements are `w` bits wide. -/
def elemAt (v : Val) (w i : Nat) : Nat := v.toNat / 2 ^ (i * w) % 2 ^ w
/-- The value with these elements. -/
def ofElems (w : Nat) : List Nat → Nat
  | [] => 0
  | x :: xs => x % 2 ^ w + 2 ^ w * ofElems w xs

def Ty.elem : Ty → Elem
  | .num _ e => e
  | _ => .n64
def Ty.lanes : Ty → Nat
  | .num sh _ => sh.lanes
  | _ => 1

/-- A result element by element (R161). -/
def perElem (ty : Ty) (f : Nat → Nat) : Val :=
  BitVec.ofNat 256 (ofElems (Ty.elem ty).width ((List.range (Ty.lanes ty)).map f))

def map1 (ty : Ty) (f : Elem → Nat → Nat) (a : Val) : Val :=
  let e := Ty.elem ty
  perElem ty fun i => f e (elemAt a e.width i)
def map2 (ty : Ty) (f : Elem → Nat → Nat → Nat) (a b : Val) : Val :=
  let e := Ty.elem ty
  perElem ty fun i => f e (elemAt a e.width i) (elemAt b e.width i)
def map3 (ty : Ty) (f : Elem → Nat → Nat → Nat → Nat) (a b c : Val) : Val :=
  let e := Ty.elem ty
  perElem ty fun i => f e (elemAt a e.width i) (elemAt b e.width i) (elemAt c e.width i)

/-- The integer that an element's bits stand for, in its signedness (R161). -/
def toI (e : Elem) (a : Nat) : Int := if e.signed ∧ 2 ^ (e.width - 1) ≤ a then (a : Int) - 2 ^ e.width else a
/-- The same bits read as signed, and the bits of an integer modulo 2^w. -/
def toS (w a : Nat) : Int := if 2 ^ (w - 1) ≤ a then (a : Int) - 2 ^ w else a
def wrapI (w : Nat) (x : Int) : Nat := (x % (2 ^ w : Int)).toNat

def eMin (e : Elem) : Int := if e.signed then -(2 ^ (e.width - 1)) else 0
def eMax (e : Elem) : Int := if e.signed then 2 ^ (e.width - 1) - 1 else 2 ^ e.width - 1
/-- Sat of R10: clamped to the limits of the element. -/
def satI (e : Elem) (x : Int) : Nat := wrapI e.width (if x < eMin e then eMin e else if eMax e < x then eMax e else x)

/-! ## Element functions -/

def iAdd (e : Elem) (a b : Nat) : Nat := wrapI e.width (toI e a + toI e b)
def iSub (e : Elem) (a b : Nat) : Nat := wrapI e.width (toI e a - toI e b)
def iMul (e : Elem) (a b : Nat) : Nat := wrapI e.width (toI e a * toI e b)
def iMulhi (e : Elem) (a b : Nat) : Nat := wrapI e.width ((toI e a * toI e b) / 2 ^ e.width)
def iMad (e : Elem) (a b c : Nat) : Nat := wrapI e.width (toI e a * toI e b + toI e c)
def iNeg (e : Elem) (a : Nat) : Nat := wrapI e.width (0 - toI e a)
def iAbs (e : Elem) (a : Nat) : Nat := if toI e a < 0 then wrapI e.width (0 - toI e a) else a
def iMin (e : Elem) (a b : Nat) : Nat := if toI e a ≤ toI e b then a else b
def iMax (e : Elem) (a b : Nat) : Nat := if toI e b ≤ toI e a then a else b
def iAddsat (e : Elem) (a b : Nat) : Nat := satI e (toI e a + toI e b)
def iSubsat (e : Elem) (a b : Nat) : Nat := satI e (toI e a - toI e b)

/-- Quotient and remainder of R163. -/
def divRem (e : Elem) (a b : Nat) : Nat × Nat :=
  let x := toI e a
  let y := toI e b
  if b = 0 then (2 ^ e.width - 1, a)
  else if e.signed ∧ x = eMin e ∧ y = -1 then (a, 0)
  else (wrapI e.width (x.tdiv y), wrapI e.width (x - x.tdiv y * y))

/-- Bitwise operations and shifts (R165, R166). -/
def iNot (e : Elem) (a : Nat) : Nat := 2 ^ e.width - 1 - a
def iAndn (e : Elem) (a b : Nat) : Nat := a &&& iNot e b
def iShl (e : Elem) (a n : Nat) : Nat := if e.width ≤ n then 0 else a * 2 ^ n % 2 ^ e.width
def iShr (e : Elem) (a n : Nat) : Nat := if e.width ≤ n then 0 else a / 2 ^ n
def iSra (e : Elem) (a n : Nat) : Nat := wrapI e.width (toS e.width a / 2 ^ min n e.width)
def iRotl (e : Elem) (a n : Nat) : Nat :=
  let k := n % e.width
  (a * 2 ^ k + a / 2 ^ (e.width - k)) % 2 ^ e.width
def iRotr (e : Elem) (a n : Nat) : Nat := iRotl e a (e.width - n % e.width)

/-- Bit counts and orders (R167). -/
def iClz (e : Elem) (a : Nat) : Nat := if a = 0 then e.width else e.width - 1 - Nat.log2 a
def lowZeros : Nat → Nat → Nat
  | 0, _ => 0
  | n + 1, a => if a % 2 = 1 then 0 else 1 + lowZeros n (a / 2)
def iCtz (e : Elem) (a : Nat) : Nat := lowZeros e.width a
def onesIn : Nat → Nat → Nat
  | 0, _ => 0
  | n + 1, a => a % 2 + onesIn n (a / 2)
def iPopc (e : Elem) (a : Nat) : Nat := onesIn e.width a
def revBits : Nat → Nat → Nat
  | 0, _ => 0
  | n + 1, a => a % 2 * 2 ^ n + revBits n (a / 2)
def iBrev (e : Elem) (a : Nat) : Nat := revBits e.width a
def iBswap (e : Elem) (a : Nat) : Nat := natOfBytes (bytesOfNat (e.width / 8) a).reverse

/-- Bit fields (R168). -/
def iBfx (e : Elem) (a off width : Nat) : Nat :=
  let o := min off e.width
  let n := min width (e.width - o)
  let f := a / 2 ^ o % 2 ^ n
  if e.signed ∧ 0 < n then wrapI e.width (toS n f) else f
def iBfi (e : Elem) (a ins off width : Nat) : Nat :=
  let o := min off e.width
  let n := min width (e.width - o)
  a - a / 2 ^ o % 2 ^ n * 2 ^ o + ins % 2 ^ n * 2 ^ o

/-- The compare codes (R169). -/
def iCmp (c : Cmp) (e : Elem) (a b : Nat) : Bool :=
  match c with
  | .eq => a == b
  | .ne => a != b
  | .lt => decide (toI e a < toI e b)
  | .le => decide (toI e a ≤ toI e b)
  | .gt => decide (toI e b < toI e a)
  | .ge => decide (toI e b ≤ toI e a)
  | .ltu => decide (a < b)
  | .leu => decide (a ≤ b)
  | .gtu => decide (b < a)
  | .geu => decide (b ≤ a)

def valOfBool (b : Bool) : Val := if b then 1 else 0

/-! ## The instructions -/

def execAdd (ty : Ty) (a b : Opnd) (s : State) : Outcome := .next (s.put fun L => map2 ty iAdd (s.opnd ty a L) (s.opnd ty b L))
def execSub (ty : Ty) (a b : Opnd) (s : State) : Outcome := .next (s.put fun L => map2 ty iSub (s.opnd ty a L) (s.opnd ty b L))
def execMul (ty : Ty) (a b : Opnd) (s : State) : Outcome := .next (s.put fun L => map2 ty iMul (s.opnd ty a L) (s.opnd ty b L))
def execMulhi (ty : Ty) (a b : Opnd) (s : State) : Outcome :=
  .next (s.put fun L => map2 ty iMulhi (s.opnd ty a L) (s.opnd ty b L))
def execMad (ty : Ty) (a b c : Opnd) (s : State) : Outcome :=
  .next (s.put fun L => map3 ty iMad (s.opnd ty a L) (s.opnd ty b L) (s.opnd ty c L))
def execDiv (ty : Ty) (a b : Opnd) (s : State) : Outcome :=
  .next (s.put fun L => map2 ty (fun e x y => (divRem e x y).1) (s.opnd ty a L) (s.opnd ty b L))
def execRem (ty : Ty) (a b : Opnd) (s : State) : Outcome :=
  .next (s.put fun L => map2 ty (fun e x y => (divRem e x y).2) (s.opnd ty a L) (s.opnd ty b L))
def execNeg (ty : Ty) (a : Opnd) (s : State) : Outcome := .next (s.put fun L => map1 ty iNeg (s.opnd ty a L))
def execAbs (ty : Ty) (a : Opnd) (s : State) : Outcome := .next (s.put fun L => map1 ty iAbs (s.opnd ty a L))
def execMin (ty : Ty) (a b : Opnd) (s : State) : Outcome := .next (s.put fun L => map2 ty iMin (s.opnd ty a L) (s.opnd ty b L))
def execMax (ty : Ty) (a b : Opnd) (s : State) : Outcome := .next (s.put fun L => map2 ty iMax (s.opnd ty a L) (s.opnd ty b L))
def execAddsat (ty : Ty) (a b : Opnd) (s : State) : Outcome :=
  .next (s.put fun L => map2 ty iAddsat (s.opnd ty a L) (s.opnd ty b L))
def execSubsat (ty : Ty) (a b : Opnd) (s : State) : Outcome :=
  .next (s.put fun L => map2 ty iSubsat (s.opnd ty a L) (s.opnd ty b L))

/-- Sum and carry, difference and borrow (R164). -/
def addcPair (ty : Ty) (a b c : Val) : List Val :=
  let w := (Ty.elem ty).width
  let t := elemAt a w 0 + elemAt b w 0 + elemAt c 1 0
  [BitVec.ofNat 256 (t % 2 ^ w), valOfBool (decide (2 ^ w ≤ t))]
def subbPair (ty : Ty) (a b c : Val) : List Val :=
  let w := (Ty.elem ty).width
  let t : Int := (elemAt a w 0 : Int) - (elemAt b w 0 : Int) - (elemAt c 1 0 : Int)
  [BitVec.ofNat 256 (wrapI w t), valOfBool (decide (t < 0))]
def execAddc (ty : Ty) (a b cin : Opnd) (s : State) : Outcome :=
  .next (s.finish fun L => addcPair ty (s.opnd ty a L) (s.opnd ty b L) (s.opnd tyB1 cin L))
def execSubb (ty : Ty) (a b bin : Opnd) (s : State) : Outcome :=
  .next (s.finish fun L => subbPair ty (s.opnd ty a L) (s.opnd ty b L) (s.opnd tyB1 bin L))

def execAnd (ty : Ty) (a b : Opnd) (s : State) : Outcome :=
  .next (s.put fun L => map2 ty (fun _ x y => x &&& y) (s.opnd ty a L) (s.opnd ty b L))
def execOr (ty : Ty) (a b : Opnd) (s : State) : Outcome :=
  .next (s.put fun L => map2 ty (fun _ x y => x ||| y) (s.opnd ty a L) (s.opnd ty b L))
def execXor (ty : Ty) (a b : Opnd) (s : State) : Outcome :=
  .next (s.put fun L => map2 ty (fun _ x y => x ^^^ y) (s.opnd ty a L) (s.opnd ty b L))
def execNot (ty : Ty) (a : Opnd) (s : State) : Outcome := .next (s.put fun L => map1 ty iNot (s.opnd ty a L))
def execAndn (ty : Ty) (a b : Opnd) (s : State) : Outcome := .next (s.put fun L => map2 ty iAndn (s.opnd ty a L) (s.opnd ty b L))
def execShl (ty : Ty) (a n : Opnd) (s : State) : Outcome := .next (s.put fun L => map2 ty iShl (s.opnd ty a L) (s.opnd ty n L))
def execShr (ty : Ty) (a n : Opnd) (s : State) : Outcome := .next (s.put fun L => map2 ty iShr (s.opnd ty a L) (s.opnd ty n L))
def execSra (ty : Ty) (a n : Opnd) (s : State) : Outcome := .next (s.put fun L => map2 ty iSra (s.opnd ty a L) (s.opnd ty n L))
def execRotl (ty : Ty) (a n : Opnd) (s : State) : Outcome := .next (s.put fun L => map2 ty iRotl (s.opnd ty a L) (s.opnd ty n L))
def execRotr (ty : Ty) (a n : Opnd) (s : State) : Outcome := .next (s.put fun L => map2 ty iRotr (s.opnd ty a L) (s.opnd ty n L))
def execClz (ty : Ty) (a : Opnd) (s : State) : Outcome := .next (s.put fun L => map1 ty iClz (s.opnd ty a L))
def execCtz (ty : Ty) (a : Opnd) (s : State) : Outcome := .next (s.put fun L => map1 ty iCtz (s.opnd ty a L))
def execPopc (ty : Ty) (a : Opnd) (s : State) : Outcome := .next (s.put fun L => map1 ty iPopc (s.opnd ty a L))
def execBrev (ty : Ty) (a : Opnd) (s : State) : Outcome := .next (s.put fun L => map1 ty iBrev (s.opnd ty a L))
def execBswap (ty : Ty) (a : Opnd) (s : State) : Outcome := .next (s.put fun L => map1 ty iBswap (s.opnd ty a L))
def execBfx (ty : Ty) (a off width : Opnd) (s : State) : Outcome :=
  .next (s.put fun L =>
    map1 ty (fun e x => iBfx e x (s.opnd tyN32 off L).toNat (s.opnd tyN32 width L).toNat) (s.opnd ty a L))
def execBfi (ty : Ty) (a ins off width : Opnd) (s : State) : Outcome :=
  .next (s.put fun L =>
    map2 ty (fun e x y => iBfi e x y (s.opnd tyN32 off L).toNat (s.opnd tyN32 width L).toNat) (s.opnd ty a L) (s.opnd ty ins L))

def execCmp (ty : Ty) (code : Cmp) (a b : Opnd) (s : State) : Outcome :=
  .next (s.put fun L =>
    let e := Ty.elem ty
    valOfBool (iCmp code e (elemAt (s.opnd ty a L) e.width 0) (elemAt (s.opnd ty b L) e.width 0)))
/-- R170: the whole value of a or of b. -/
def execSel (ty : Ty) (c a b : Opnd) (s : State) : Outcome :=
  .next (s.put fun L => if elemAt (s.opnd tyB1 c L) 1 0 = 1 then s.opnd ty a L else s.opnd ty b L)

/-- R171: the conversions between widths; `src` is the operand's own type. -/
def zextVal (ty src : Ty) (a : Val) : Val := BitVec.ofNat 256 (elemAt a (Ty.elem src).width 0 % 2 ^ ty.width)
def sextVal (ty src : Ty) (a : Val) : Val :=
  BitVec.ofNat 256 (wrapI ty.width (toS (Ty.elem src).width (elemAt a (Ty.elem src).width 0)))
def truncVal (ty : Ty) (a : Val) : Val := BitVec.ofNat 256 (a.toNat % 2 ^ ty.width)
def execZext (ty : Ty) (a : Opnd) (s : State) : Outcome := .next (s.put fun L => zextVal ty (s.opndTy [] a) (s.opnd ty a L))
def execSext (ty : Ty) (a : Opnd) (s : State) : Outcome := .next (s.put fun L => sextVal ty (s.opndTy [] a) (s.opnd ty a L))
def execTrunc (ty : Ty) (a : Opnd) (s : State) : Outcome := .next (s.put fun L => truncVal ty (s.opnd ty a L))

/-- R172: base + (x << shift) + disp modulo 2^64, the index in its own signedness. -/
def leaVal (shift : Nat) (idxTy : Ty) (base idx disp : Val) : Val :=
  let e := Ty.elem idxTy
  BitVec.ofNat 256 (wrapI 64 ((elemAt base 64 0 : Int) + toI e (elemAt idx e.width 0) * 2 ^ shift + toS 64 (elemAt disp 64 0)))
def execLea (shift : BitVec 3) (base idx disp : Opnd) (s : State) : Outcome :=
  .next (s.put fun L =>
    leaVal shift.toNat (s.opndTy [] idx) (s.opnd tyA64 base L) (s.opnd (s.opndTy [] idx) idx L) (s.opnd tyI64 disp L))

def execConst (ty : Ty) (v : Opnd) (s : State) : Outcome := .next (s.put fun L => s.opnd ty v L)

/-- CLOCK as a wave reads it (R175): the retired count under ordered determinism. -/
def State.clockOf (s : State) : Nat := if s.ordered then s.wv.retired.toNat else (s.dieAt s.wv.die).clock

/-- The special registers of R174 for a lane of the issuing wave. -/
def State.sregVal (s : State) (code L : Nat) : Nat :=
  let w := s.wv
  if code = 0x00 then L
  else if code = 0x01 then w.num
  else if code = 0x02 then w.slot
  else if code = 0x03 then s.wg.num
  else if code = 0x04 then s.task.launch.nwave
  else if code = 0x05 then s.task.launch.grid
  else if code = 0x06 then s.gcore
  else if code = 0x07 then (s.dieGet w.die 0x000).toNat
  else if code = 0x08 then s.clockOf
  else if code = 0x09 then w.retired.toNat
  else if code = 0x0A then s.task.launch.pwords
  else if code = 0x0B then w.budget
  else if code = 0x0C then s.dmode
  else if code = 0x0D then s.wg.spadB
  else s.active.toNat

def execSreg (ty : Ty) (code : BitVec 30) (s : State) : Outcome :=
  .next (s.put fun L => BitVec.ofNat 256 (s.sregVal code.toNat L % 2 ^ ty.width))

end Sys2Proof.Machine
end

