-- ==== Sys2Proof/Machine/Float.lean ====
section
/-! DEFINITION. The floating-point formats, rounding, flags and instructions of 06_float_formats.md (R177-R199, R204-R210). A finite
number is held exactly as sign, natural significand and exponent of two; every result is rounded once at the end. -/
namespace Sys2Proof.Machine

/-! ## Formats (R177, R178) -/

/-- Stored significand bits, exponent bits, bias. -/
def fMan : Elem → Nat
  | .f64 => 52 | .f32 => 23 | .f16 => 10 | .bf16 => 7 | .e4m3 => 3 | _ => 2
def fExpBits : Elem → Nat
  | .f64 => 11 | .f32 => 8 | .f16 => 5 | .bf16 => 8 | .e4m3 => 4 | _ => 5
def fBias (e : Elem) : Nat := 2 ^ (fExpBits e - 1) - 1
/-- The exponent field of all ones, and the code of +infinity where the format has one. -/
def fTop (e : Elem) : Nat := 2 ^ fExpBits e - 1
def fInf (e : Elem) : Nat := fTop e * 2 ^ fMan e
/-- The largest finite code. -/
def fMaxCode (e : Elem) : Nat := if e = .e4m3 then 0x7E else fInf e - 1
/-- The canonical NaN (R179). -/
def fNaN (e : Elem) : Nat := if e = .e4m3 then 0x7F else fInf e + 2 ^ (fMan e - 1)
def fSign (e : Elem) (neg : Bool) : Nat := if neg then 2 ^ (e.width - 1) else 0
/-- Infinity of a sign, or what stands for it: the NaN of the sign in E4M3 (R183), the largest finite value under SAT (R186). -/
def fInfRes (e : Elem) (sat neg : Bool) : Nat :=
  fSign e neg + (if sat then fMaxCode e else if e = .e4m3 then 0x7F else fInf e)

/-- What a code stands for. -/
inductive FVal where
  | nan (sig : Bool)
  | inf (neg : Bool)
  | fin (neg : Bool) (m : Nat) (x : Int)
  deriving DecidableEq, Repr, Inhabited

def fNeg (e : Elem) (c : Nat) : Bool := c / 2 ^ (e.width - 1) % 2 == 1
def fMag (e : Elem) (c : Nat) : Nat := c % 2 ^ (e.width - 1)

/-- Exponent of one unit of the subnormal spacing. -/
def fSubExp (e : Elem) : Int := 1 - (fBias e : Int) - fMan e

def fDecode (e : Elem) (c : Nat) : FVal :=
  let neg := fNeg e c
  let ex := fMag e c / 2 ^ fMan e
  let m := c % 2 ^ fMan e
  if e = .e4m3 ∧ fMag e c = 0x7F then .nan false
  else if e ≠ .e4m3 ∧ ex = fTop e then (if m = 0 then .inf neg else .nan (decide (m < 2 ^ (fMan e - 1))))
  else if ex = 0 then .fin neg m (fSubExp e)
  else .fin neg (2 ^ fMan e + m) (fSubExp e + ex - 1)

/-- A source read under FTZI (R184). -/
def fFtz (e : Elem) (ftzi : Bool) (c : Nat) : Nat := if ftzi ∧ fMag e c < 2 ^ fMan e then c - fMag e c else c

def FVal.isNaN : FVal → Bool
  | .nan _ => true
  | _ => false
def FVal.sig : FVal → Bool
  | .nan b => b
  | _ => false
def FVal.isInf : FVal → Bool
  | .inf _ => true
  | _ => false
def FVal.isZero : FVal → Bool
  | .fin _ m _ => m == 0
  | _ => false
def FVal.neg : FVal → Bool
  | .nan _ => false
  | .inf n => n
  | .fin n _ _ => n

/-! ## Rounding (R182-R186) -/

/-- The choice of R182: round up from the truncated magnitude `k`, the discarded fraction being rem/d. -/
def roundUp (r : Rnd) (u : Nat) (neg : Bool) (k rem d : Nat) : Bool :=
  match r with
  | .rne => decide (d < 2 * rem) || (2 * rem == d && k % 2 == 1)
  | .rna => decide (d ≤ 2 * rem)
  | .rtz => false
  | .rup => decide (0 < rem) && !neg
  | .rdn => decide (0 < rem) && neg
  | .rsto => decide (2 ^ 32 ≤ rem * 2 ^ 32 / d + u)

/-- m * 2^x as k + rem/d units of 2^q. -/
def unitsOf (m : Nat) (x q : Int) : Nat × Nat × Nat :=
  if q ≤ x then (m * 2 ^ (x - q).toNat, 0, 1)
  else
    let d := 2 ^ (q - x).toNat
    (m / d, m % d, d)

/-- Exponent of the spacing of the format at m * 2^x, m nonzero. -/
def spacingExp (e : Elem) (m : Nat) (x : Int) : Int :=
  let top : Int := fSubExp e + (fMaxCode e / 2 ^ fMan e : Nat) - 1
  min (max ((Nat.log2 m : Int) + x - fMan e) (fSubExp e)) top

/-- The magnitude code of k units of 2^q. -/
def codeOf (e : Elem) (k : Nat) (q : Int) : Nat := (q - fSubExp e).toNat * 2 ^ fMan e + k

/-- An overflow gives infinity in this mode (R183). -/
def overInf (r : Rnd) (neg : Bool) : Bool :=
  match r with
  | .rne | .rna | .rsto => true
  | .rtz => false
  | .rup => !neg
  | .rdn => neg

/-- FTZO on a magnitude code (R184), with the flags. -/
def flushOut (e : Elem) (ftzo : Bool) (c fl : Nat) : Nat × Nat :=
  if ftzo ∧ 0 < c ∧ c < 2 ^ fMan e then (0, fl ||| flUF ||| flNX) else (c, fl)

/-- The magnitude m * 2^x is tiny (R184). -/
def tiny (e : Elem) (m : Nat) (x : Int) : Bool := decide ((Nat.log2 m : Int) + x < fSubExp e + fMan e)

/-- Round of R182-R186: the exact nonzero value of a sign and magnitude, to a code and its flags. -/
def fRound (e : Elem) (fm : FMod) (u : Nat) (neg : Bool) (m : Nat) (x : Int) : Nat × Nat :=
  let q := spacingExp e m x
  let (k, rem, d) := unitsOf m x q
  let up := roundUp fm.rnd u neg k rem d
  let c := codeOf e (if up then k + 1 else k) q
  let near := (fm.rnd = .rne ∨ fm.rnd = .rna) ∧ fMaxCode e ≤ codeOf e k q ∧ d ≤ 2 * rem
  if fMaxCode e < c ∨ near then
    (if overInf fm.rnd neg then fInfRes e fm.sat neg else fSign e neg + fMaxCode e, flOF ||| flNX)
  else
    let fl := if rem = 0 then 0 else if tiny e m x then flNX ||| flUF else flNX
    let r := flushOut e fm.ftzo c fl
    (fSign e neg + r.1, r.2)

/-- Rounding to an integer (R182 with q = 1): the magnitude, and whether it is inexact. -/
def roundInt (r : Rnd) (u : Nat) (neg : Bool) (m : Nat) (x : Int) : Nat × Bool :=
  let (k, rem, d) := unitsOf m x 0
  (if roundUp r u neg k rem d then k + 1 else k, rem != 0)

/-- A truncated magnitude with a bit below it that says whether anything was cut off. -/
def jam (k : Nat) (cut : Bool) (x : Int) : Nat × Int := (2 * k + bitOf cut, x - 1)

/-- Far beyond every format all magnitudes round alike: the exponent held within reach. -/
def clampExp (x : Int) : Int := if x < -8192 then -8192 else if 8192 < x then 8192 else x

def zeroOf (e : Elem) (neg : Bool) : Nat × Nat := (fSign e neg, 0)
def nanOf (e : Elem) (fl : Nat) : Nat × Nat := (fNaN e, fl)

/-- The signed sum of two exact values. -/
def sumExact (n1 : Bool) (m1 : Nat) (x1 : Int) (n2 : Bool) (m2 : Nat) (x2 : Int) : Int × Int :=
  let x := min x1 x2
  let a : Int := m1 * 2 ^ (x1 - x).toNat
  let b : Int := m2 * 2 ^ (x2 - x).toNat
  ((if n1 then -a else a) + (if n2 then -b else b), x)

/-- The sum of two finite values, with the sign of an exact zero (R193). -/
def fAddFin (e : Elem) (fm : FMod) (u : Nat) (n1 : Bool) (m1 : Nat) (x1 : Int) (n2 : Bool) (m2 : Nat) (x2 : Int) : Nat × Nat :=
  let t := sumExact n1 m1 x1 n2 m2 x2
  if t.1 = 0 then
    if m1 = 0 ∧ m2 = 0 ∧ n1 = n2 then zeroOf e n1 else zeroOf e (fm.rnd = .rdn)
  else fRound e fm u (decide (t.1 < 0)) t.1.natAbs t.2

/-- NV for a signalling operand. -/
def nvIf (b : Bool) : Nat := if b then flNV else 0

/-- a + b (R193). -/
def fAddV (e : Elem) (fm : FMod) (u : Nat) (a b : FVal) : Nat × Nat :=
  if a.isNaN ∨ b.isNaN then nanOf e (nvIf (a.sig || b.sig))
  else
    match a, b with
    | .inf n, .inf n' => if n = n' then (fInfRes e fm.sat n, 0) else nanOf e flNV
    | .inf n, _ => (fInfRes e fm.sat n, 0)
    | _, .inf n => (fInfRes e fm.sat n, 0)
    | .fin n1 m1 x1, .fin n2 m2 x2 => fAddFin e fm u n1 m1 x1 n2 m2 x2
    | _, _ => nanOf e 0

def FVal.flip : FVal → FVal
  | .nan s => .nan s
  | .inf n => .inf !n
  | .fin n m x => .fin (!n) m x

def fAdd (e : Elem) (fm : FMod) (u a b : Nat) : Nat × Nat :=
  fAddV e fm u (fDecode e (fFtz e fm.ftzi a)) (fDecode e (fFtz e fm.ftzi b))
def fSub (e : Elem) (fm : FMod) (u a b : Nat) : Nat × Nat :=
  fAddV e fm u (fDecode e (fFtz e fm.ftzi a)) (fDecode e (fFtz e fm.ftzi b)).flip

/-- a * b (R193). -/
def fMul (e : Elem) (fm : FMod) (u a b : Nat) : Nat × Nat :=
  let x := fDecode e (fFtz e fm.ftzi a)
  let y := fDecode e (fFtz e fm.ftzi b)
  let n := x.neg != y.neg
  if x.isNaN ∨ y.isNaN then nanOf e (nvIf (x.sig || y.sig))
  else if (x.isInf ∧ y.isZero) ∨ (x.isZero ∧ y.isInf) then nanOf e flNV
  else if x.isInf ∨ y.isInf then (fInfRes e fm.sat n, 0)
  else
    match x, y with
    | .fin _ m1 x1, .fin _ m2 x2 => if m1 = 0 ∨ m2 = 0 then zeroOf e n else fRound e fm u n (m1 * m2) (x1 + x2)
    | _, _ => nanOf e 0

/-- a * b + c, rounded once (R193). -/
def fFma (e : Elem) (fm : FMod) (u a b c : Nat) : Nat × Nat :=
  let x := fDecode e (fFtz e fm.ftzi a)
  let y := fDecode e (fFtz e fm.ftzi b)
  let z := fDecode e (fFtz e fm.ftzi c)
  let n := x.neg != y.neg
  if (x.isInf ∧ y.isZero) ∨ (x.isZero ∧ y.isInf) then nanOf e flNV
  else if x.isNaN ∨ y.isNaN ∨ z.isNaN then nanOf e (nvIf (x.sig || y.sig || z.sig))
  else if x.isInf ∨ y.isInf then
    (match z with
     | .inf n' => if n = n' then (fInfRes e fm.sat n, 0) else nanOf e flNV
     | _ => (fInfRes e fm.sat n, 0))
  else
    match x, y, z with
    | .fin _ m1 x1, .fin _ m2 x2, .fin n3 m3 x3 => fAddFin e fm u n (m1 * m2) (x1 + x2) n3 m3 x3
    | _, _, .inf n' => (fInfRes e fm.sat n', 0)
    | _, _, _ => nanOf e 0

/-- Quotient of two magnitudes, truncated with the cut bit. -/
def quotJam (m1 : Nat) (x1 : Int) (m2 : Nat) (x2 : Int) : Nat × Int :=
  let n := m1 * 2 ^ 200
  jam (n / m2) (n % m2 != 0) (x1 - x2 - 200)

/-- a / b (R193). -/
def fDiv (e : Elem) (fm : FMod) (u a b : Nat) : Nat × Nat :=
  let x := fDecode e (fFtz e fm.ftzi a)
  let y := fDecode e (fFtz e fm.ftzi b)
  let n := x.neg != y.neg
  if x.isNaN ∨ y.isNaN then nanOf e (nvIf (x.sig || y.sig))
  else if (x.isInf ∧ y.isInf) ∨ (x.isZero ∧ y.isZero) then nanOf e flNV
  else if x.isInf then (fInfRes e fm.sat n, 0)
  else if y.isInf ∨ x.isZero then zeroOf e n
  else if y.isZero then (fInfRes e fm.sat n, flDZ)
  else
    match x, y with
    | .fin _ m1 x1, .fin _ m2 x2 =>
      let t := quotJam m1 x1 m2 x2
      fRound e fm u n t.1 t.2
    | _, _ => nanOf e 0

/-- Integer square root, bit by bit. -/
def isqrtFrom (n : Nat) : Nat → Nat → Nat
  | 0, r => r
  | k + 1, r =>
    let t := r + 2 ^ k
    isqrtFrom n k (if t * t ≤ n then t else r)
def isqrt (n : Nat) : Nat := isqrtFrom n (Nat.log2 n / 2 + 1) 0

/-- Square root of a magnitude: an even exponent below, truncated with the cut bit. -/
def sqrtJam (m : Nat) (x : Int) : Nat × Int :=
  let h : Nat := if x % 2 = 0 then 200 else 201
  let n := m * 2 ^ h
  let r := isqrt n
  jam r (r * r != n) ((x - h) / 2)

/-- The square root (R194). -/
def fSqrt (e : Elem) (fm : FMod) (u a : Nat) : Nat × Nat :=
  match fDecode e (fFtz e fm.ftzi a) with
  | .nan s => nanOf e (nvIf s)
  | .inf n => if n then nanOf e flNV else (fInfRes e fm.sat false, 0)
  | .fin n m x =>
    if m = 0 then zeroOf e n
    else if n then nanOf e flNV
    else
      let t := sqrtJam m x
      fRound e fm u false t.1 t.2

/-- 1 / a (R194). -/
def fRcp (e : Elem) (fm : FMod) (u a : Nat) : Nat × Nat :=
  match fDecode e (fFtz e fm.ftzi a) with
  | .nan s => nanOf e (nvIf s)
  | .inf n => zeroOf e n
  | .fin n m x =>
    if m = 0 then (fInfRes e fm.sat n, flDZ)
    else
      let t := quotJam 1 0 m x
      fRound e fm u n t.1 t.2

/-! ## Results within a bound of the exact value (R194, R200, R201) -/

/-- The distance of m1 * 2^x1 and m2 * 2^x2 is at most `b2` halves of 2^q. -/
def withinHalves (m1 : Nat) (x1 : Int) (m2 : Nat) (x2 : Int) (b2 : Nat) (q : Int) : Bool :=
  let t := sumExact false m1 x1 true m2 x2
  let x := min t.2 (q - 1)
  decide (t.1.natAbs * 2 ^ (t.2 - x).toNat ≤ b2 * 2 ^ (q - 1 - x).toNat)

/-- Magnitude codes of the format within `b2` half ulps of m * 2^x and not above code `lim`, ascending. -/
def codesNear (e : Elem) (b2 lim : Nat) (m : Nat) (x : Int) : List Nat :=
  let q := spacingExp e m x
  let c0 := codeOf e (unitsOf m x q).1 q
  ((List.range 8).map fun i => c0 + i - 3).eraseDups.filter fun c =>
    decide (c ≤ lim) &&
      (match fDecode e c with
       | .fin _ mc xc => withinHalves mc xc m x b2 q
       | _ => false)

/-- An approximate result: the magnitude that `choice` names among those within the bound. The flags are those of the exact value
(R201: the result overflows exactly when the exact value does). -/
def fApprox (e : Elem) (fm : FMod) (b2 lim choice : Nat) (neg : Bool) (m : Nat) (x : Int) : Nat × Nat :=
  let exact := fRound e { fm with rnd := .rne, ftzo := false } 0 neg m x
  if exact.2 &&& flOF ≠ 0 then exact
  else
    let cs := codesNear e b2 (min lim (fMaxCode e)) m x
    let c := cs.getD (choice % max 1 cs.length) (fMag e exact.1)
    let nx := exact.2 &&& flNX ≠ 0 ∨ c ≠ fMag e exact.1
    let fl := if nx then (if tiny e m x then flNX ||| flUF else flNX) else 0
    let r := flushOut e fm.ftzo c fl
    (fSign e neg + r.1, r.2)

/-- 1 / sqrt of a magnitude, truncated with the cut bit. -/
def rsqrtJam (m : Nat) (x : Int) : Nat × Int :=
  let m' := if x % 2 = 0 then m else 2 * m
  let x' := if x % 2 = 0 then x else x - 1
  let n := 2 ^ 400 / m'
  let r := isqrt n
  jam r (r * r * m' != 2 ^ 400) (-200 - x' / 2)

/-- 1 / sqrt a (R194): correctly rounded for f16 and bf16, within 1 ulp for f32 and f64. -/
def fRsqrt (e : Elem) (fm : FMod) (a : Nat) : Nat × Nat :=
  match fDecode e (fFtz e fm.ftzi a) with
  | .nan s => nanOf e (nvIf s)
  | .inf n => if n then nanOf e flNV else zeroOf e false
  | .fin n m x =>
    if m = 0 then (fInfRes e fm.sat n, flDZ)
    else if n then nanOf e flNV
    else
      let t := rsqrtJam m x
      if e = .f16 ∨ e = .bf16 then fRound e fm 0 false t.1 t.2
      else fApprox e fm 2 (fMaxCode e) (Config.approxChoice 0x0C6 e.code fm.code a) false t.1 t.2

/-! ## Selection, signs, comparison, classes -/

/-- Rank of a code that is no NaN: -0 below +0, infinities at the ends (R195, R225). -/
def fRank (e : Elem) (c : Nat) : Int := if fNeg e c then -(fMag e c : Int) - 1 else fMag e c

def fMinMax (isMin : Bool) (e : Elem) (ftzi : Bool) (a b : Nat) : Nat × Nat :=
  let x := fFtz e ftzi a
  let y := fFtz e ftzi b
  let vx := fDecode e x
  let vy := fDecode e y
  let fl := nvIf (vx.sig || vy.sig)
  if vx.isNaN ∧ vy.isNaN then nanOf e fl
  else if vx.isNaN then (y, fl)
  else if vy.isNaN then (x, fl)
  else if (if isMin then fRank e x ≤ fRank e y else fRank e y ≤ fRank e x) then (x, 0) else (y, 0)

def fAbs (e : Elem) (a : Nat) : Nat := fMag e a
def fNegate (e : Elem) (a : Nat) : Nat := fMag e a + fSign e (!fNeg e a)
def fCopySign (e : Elem) (a b : Nat) : Nat := fMag e a + fSign e (fNeg e b)

/-- fcmp (R197). -/
def fCompare (c : FCmp) (e : Elem) (ftzi : Bool) (a b : Nat) : Bool × Nat :=
  let x := fFtz e ftzi a
  let y := fFtz e ftzi b
  let vx := fDecode e x
  let vy := fDecode e y
  let un := vx.isNaN || vy.isNaN
  let key := fun z : Nat => if fMag e z = 0 then (0 : Int) else if fNeg e z then -(fMag e z : Int) else fMag e z
  let quietNV := match c with
    | .lt | .le | .gt | .ge => true
    | _ => false
  let fl := nvIf (vx.sig || vy.sig || (un && quietNV))
  let r := match c with
    | .eq => !un && key x == key y
    | .ne => un || key x != key y
    | .lt => !un && decide (key x < key y)
    | .le => !un && decide (key x ≤ key y)
    | .gt => !un && decide (key y < key x)
    | .ge => !un && decide (key y ≤ key x)
    | .ord => !un
    | .uno => un
  (r, fl)

/-- fclass (R198). -/
def fClassOf (e : Elem) (ftzi : Bool) (a : Nat) : Nat :=
  let c := fFtz e ftzi a
  match fDecode e c with
  | .nan s => if s then 2 ^ 8 else 2 ^ 9
  | .inf n => if n then 1 else 2 ^ 7
  | .fin n m _ =>
    if m = 0 then (if n then 2 ^ 3 else 2 ^ 4)
    else if fMag e c < 2 ^ fMan e then (if n then 2 ^ 2 else 2 ^ 5)
    else (if n then 2 else 2 ^ 6)

def exactMod : FMod := { rnd := .rne, sat := false, ftzi := false, ftzo := false }

/-- frint (R199). -/
def fRint (e : Elem) (r : Rnd) (ftzi : Bool) (u a : Nat) : Nat × Nat :=
  let c := fFtz e ftzi a
  match fDecode e c with
  | .nan s => nanOf e (nvIf s)
  | .inf _ => (c, 0)
  | .fin n m x =>
    if m = 0 then (c, 0)
    else
      let t := roundInt r u n m x
      (if t.1 = 0 then fSign e n else (fRound e exactMod 0 n t.1 0).1, if t.2 then flNX else 0)

/-- fscale (R199): a * 2^n for a signed n. -/
def fScale (e : Elem) (fm : FMod) (u a : Nat) (n : Int) : Nat × Nat :=
  match fDecode e (fFtz e fm.ftzi a) with
  | .nan s => nanOf e (nvIf s)
  | .inf g => (fInfRes e fm.sat g, 0)
  | .fin g m x => if m = 0 then zeroOf e g else fRound e fm u g m (clampExp (x + n))

/-! ## Conversions (R204-R209) -/

/-- fcvt of one element from format `se` to `e`. -/
def fConvert (se e : Elem) (fm : FMod) (u a : Nat) : Nat × Nat :=
  match fDecode se (fFtz se fm.ftzi a) with
  | .nan s => nanOf e (nvIf s)
  | .inf n => (fInfRes e fm.sat n, if e = .e4m3 then flNV else 0)
  | .fin n m x => if m = 0 then zeroOf e n else fRound e fm u n m x

/-- ftoi (R205). -/
def fToInt (se e : Elem) (r : Rnd) (ftzi : Bool) (u a : Nat) : Nat × Nat :=
  match fDecode se (fFtz se ftzi a) with
  | .nan _ => (0, flNV)
  | .inf n => (wrapI e.width (if n then eMin e else eMax e), flNV)
  | .fin n m x =>
    let t := roundInt r u n m x
    let v : Int := if n then -(t.1 : Int) else t.1
    if v < eMin e then (wrapI e.width (eMin e), flNV)
    else if eMax e < v then (wrapI e.width (eMax e), flNV)
    else (wrapI e.width v, if t.2 then flNX else 0)

/-- itof (R206). -/
def iToFloat (se e : Elem) (r : Rnd) (sat : Bool) (u a : Nat) : Nat × Nat :=
  let v := toI se a
  if v = 0 then zeroOf e false
  else fRound e { rnd := r, sat := sat, ftzi := false, ftzo := false } u (decide (v < 0)) v.natAbs 0

/-- Element bits of a block format (R181). -/
def mxWidth : Ty → Nat
  | .mxi8 => 8 | .mxi6 => 6 | _ => 4

/-- mxdq of one element (R209). -/
def mxDequant (w : Nat) (e : Elem) (fm : FMod) (u q sc : Nat) : Nat × Nat :=
  let v := toS w (q % 2 ^ w)
  if sc = 0xFF then nanOf e 0
  else if v = 0 then zeroOf e false
  else fRound e fm u (decide (v < 0)) v.natAbs ((sc : Int) - 127 - ((w : Int) - 2))

/-- The scale exponent of a block (R208) from the magnitudes of its lanes. -/
def mxScaleExp (e : Elem) (codes : List Nat) : Int :=
  let top := codes.foldl (fun b c => max b (fMag e c)) 0
  match fDecode e top with
  | .fin _ m x => if m = 0 then -127 else max (-127) (min 127 ((Nat.log2 m : Int) + x))
  | _ => -127

/-- One element of mxq (R208): the element's bits and its flags. -/
def mxQuant (w : Nat) (e : Elem) (r : Rnd) (u : Nat) (ex : Int) (c : Nat) : Nat × Nat :=
  match fDecode e c with
  | .fin n m x =>
    let t := roundInt r u n m (x + ((w : Int) - 2 - ex))
    let lim := 2 ^ (w - 1) - 1
    let k := min lim t.1
    let v : Int := if n then -(k : Int) else k
    (wrapI w v, if t.2 ∨ k ≠ t.1 then flNX else 0)
  | _ => (0, 0)

/-! ## Element by element -/

/-- Results of an instruction in a lane: `f i u` is element `i`, given its rounding word. -/
def State.fElems (s : State) (ty : Ty) (L : Nat) (f : Nat → Nat → Nat × Nat) : Val × Nat :=
  let rs := (List.range (Ty.lanes ty)).map fun i => f i (s.roundWord L i)
  (BitVec.ofNat 256 (ofElems (Ty.elem ty).width (rs.map Prod.fst)), orAll (rs.map Prod.snd))

/-- An instruction with one result, whose elements take rounding words under RSTO. -/
def State.putFp (s : State) (ty : Ty) (r : Rnd) (f : Nat → Nat → Nat → Nat × Nat) : State :=
  s.finishFp (wordsUsed r (Ty.lanes ty)) fun L =>
    let t := s.fElems ty L (f L)
    ([t.1], t.2)

/-- Element `i` of an operand in a lane. -/
def State.el (s : State) (ty : Ty) (o : Opnd) (L i : Nat) : Nat := elemAt (s.opnd ty o L) (Ty.elem ty).width i

/-! ## The instructions -/

def execFadd (ty : Ty) (m : FMod) (a b : Opnd) (s : State) : Outcome :=
  .next (s.putFp ty m.rnd fun L i u => fAdd (Ty.elem ty) m u (s.el ty a L i) (s.el ty b L i))
def execFsub (ty : Ty) (m : FMod) (a b : Opnd) (s : State) : Outcome :=
  .next (s.putFp ty m.rnd fun L i u => fSub (Ty.elem ty) m u (s.el ty a L i) (s.el ty b L i))
def execFmul (ty : Ty) (m : FMod) (a b : Opnd) (s : State) : Outcome :=
  .next (s.putFp ty m.rnd fun L i u => fMul (Ty.elem ty) m u (s.el ty a L i) (s.el ty b L i))
def execFma (ty : Ty) (m : FMod) (a b c : Opnd) (s : State) : Outcome :=
  .next (s.putFp ty m.rnd fun L i u => fFma (Ty.elem ty) m u (s.el ty a L i) (s.el ty b L i) (s.el ty c L i))
def execFdiv (ty : Ty) (m : FMod) (a b : Opnd) (s : State) : Outcome :=
  .next (s.putFp ty m.rnd fun L i u => fDiv (Ty.elem ty) m u (s.el ty a L i) (s.el ty b L i))
def execFsqrt (ty : Ty) (m : FMod) (a : Opnd) (s : State) : Outcome :=
  .next (s.putFp ty m.rnd fun L i u => fSqrt (Ty.elem ty) m u (s.el ty a L i))
def execFrsqrt (ty : Ty) (m : FMod) (a : Opnd) (s : State) : Outcome :=
  .next (s.putFp ty m.rnd fun L i _ => fRsqrt (Ty.elem ty) m (s.el ty a L i))
def execFrcp (ty : Ty) (m : FMod) (a : Opnd) (s : State) : Outcome :=
  .next (s.putFp ty m.rnd fun L i u => fRcp (Ty.elem ty) m u (s.el ty a L i))
def execFmin (ty : Ty) (ftzi : Bool) (a b : Opnd) (s : State) : Outcome :=
  .next (s.putFp ty .rne fun L i _ => fMinMax true (Ty.elem ty) ftzi (s.el ty a L i) (s.el ty b L i))
def execFmax (ty : Ty) (ftzi : Bool) (a b : Opnd) (s : State) : Outcome :=
  .next (s.putFp ty .rne fun L i _ => fMinMax false (Ty.elem ty) ftzi (s.el ty a L i) (s.el ty b L i))
def execFabs (ty : Ty) (a : Opnd) (s : State) : Outcome := .next (s.put fun L => map1 ty fAbs (s.opnd ty a L))
def execFneg (ty : Ty) (a : Opnd) (s : State) : Outcome := .next (s.put fun L => map1 ty fNegate (s.opnd ty a L))
def execFcpsgn (ty : Ty) (a b : Opnd) (s : State) : Outcome :=
  .next (s.put fun L => map2 ty fCopySign (s.opnd ty a L) (s.opnd ty b L))
def execFcmp (ty : Ty) (ftzi : Bool) (code : FCmp) (a b : Opnd) (s : State) : Outcome :=
  .next (s.finishFp 0 fun L =>
    let t := fCompare code (Ty.elem ty) ftzi (s.el ty a L 0) (s.el ty b L 0)
    ([valOfBool t.1], t.2))
def execFclass (ty : Ty) (ftzi : Bool) (a : Opnd) (s : State) : Outcome :=
  .next (s.put fun L => BitVec.ofNat 256 (fClassOf (Ty.elem ty) ftzi (s.el ty a L 0)))
def execFrint (ty : Ty) (rnd : Rnd) (ftzi : Bool) (a : Opnd) (s : State) : Outcome :=
  .next (s.putFp ty rnd fun L i u => fRint (Ty.elem ty) rnd ftzi u (s.el ty a L i))
def execFscale (ty : Ty) (m : FMod) (a n : Opnd) (s : State) : Outcome :=
  .next (s.putFp ty m.rnd fun L i u =>
    fScale (Ty.elem ty) m u (s.el ty a L i) (toS 32 ((s.opnd tyI32 n L).toNat % 2 ^ 32)))

/-- The types that the source of fcvt may have (R191, R495): F and F8 in the shape of TYPE. -/
def cvtSrcTys : Ty → List Ty
  | .num sh _ => [.num sh .f64, .num sh .f32, .num sh .f16, .num sh .bf16, .num sh .e4m3, .num sh .e5m2]
  | _ => []
def execFcvt (ty : Ty) (m : FMod) (a : Opnd) (s : State) : Outcome :=
  let st := s.opndTy (cvtSrcTys ty) a
  .next (s.putFp ty m.rnd fun L i u => fConvert (Ty.elem st) (Ty.elem ty) m u (s.el st a L i))

def floatSrcTys : List Ty := cvtSrcTys tyF32
def intSrcTys : List Ty :=
  [.num .s1 .i8, .num .s1 .i16, .num .s1 .i32, .num .s1 .i64, .num .s1 .n8, .num .s1 .n16, .num .s1 .n32, .num .s1 .n64]
def execFtoi (ty : Ty) (rnd : Rnd) (ftzi : Bool) (a : Opnd) (s : State) : Outcome :=
  let st := s.opndTy floatSrcTys a
  .next (s.putFp ty rnd fun L i u => fToInt (Ty.elem st) (Ty.elem ty) rnd ftzi u (s.el st a L i))
def execItof (ty : Ty) (rnd : Rnd) (sat : Bool) (a : Opnd) (s : State) : Outcome :=
  let st := s.opndTy intSrcTys a
  .next (s.putFp ty rnd fun L i u => iToFloat (Ty.elem st) (Ty.elem ty) rnd sat u (s.el st a L i))
def execFpack2 (ty : Ty) (m : FMod) (a b : Opnd) (s : State) : Outcome :=
  .next (s.putFp ty m.rnd fun L i u => fConvert .f32 (Ty.elem ty) m u (s.el tyF32 (if i = 0 then a else b) L 0))

/-- The types that the source of funpack2 may have. -/
def unpackSrcTys : List Ty := [.num .s2 .f16, .num .s2 .bf16, .num .s2 .e4m3, .num .s2 .e5m2]
def execFunpack2 (ftzi : Bool) (a : Opnd) (s : State) : Outcome :=
  let st := s.opndTy unpackSrcTys a
  let m : FMod := { exactMod with ftzi := ftzi }
  .next (s.finishFp 0 fun L =>
    let lo := fConvert (Ty.elem st) .f32 m 0 (s.el st a L 0)
    let hi := fConvert (Ty.elem st) .f32 m 0 (s.el st a L 1)
    ([BitVec.ofNat 256 lo.1, BitVec.ofNat 256 hi.1], lo.2 ||| hi.2))

def mxSrcTys : List Ty := [tyF32, tyBf16]
/-- R208: the active lanes together are one block. -/
def execMxq (ty : Ty) (rnd : Rnd) (ftzi : Bool) (x : Opnd) (s : State) : Outcome :=
  let st := s.opndTy mxSrcTys x
  let e := Ty.elem st
  let v := fun L => fFtz e ftzi (s.el st x L 0)
  let bad := s.activeLanes.any fun L => (fDecode e (v L)).isNaN || (fDecode e (v L)).isInf
  let ex := mxScaleExp e (s.activeLanes.map v)
  .next (s.finishFp (wordsUsed rnd 1) fun L =>
    if bad then ([0, 0xFF], flNV)
    else
      let q := mxQuant (mxWidth ty) e rnd (s.roundWord L 0) ex (v L)
      ([BitVec.ofNat 256 q.1, BitVec.ofNat 256 (ex + 127).toNat], q.2))

def execMxdq (ty : Ty) (rnd : Rnd) (sat ftzo : Bool) (e sc : Opnd) (s : State) : Outcome :=
  let m : FMod := { rnd := rnd, sat := sat, ftzi := false, ftzo := ftzo }
  let w := mxWidth (s.opndTy [] e)
  .next (s.putFp ty rnd fun L _ u => mxDequant w (Ty.elem ty) m u (s.opnd ty e L).toNat ((s.opnd .e8m0 sc L).toNat % 256))

/-- R210: the flags are read, and the bits that a lane's mask names are cleared. -/
def execFsflag (mask : Opnd) (s : State) : Outcome :=
  let old : Val := s.wv.fpf.setWidth 256
  let c := orAll (s.activeLanes.map fun L => (s.opnd tyN32 mask L).toNat % 32)
  .next ((s.put fun _ => old).updWv fun w => w.clearFlags s.cycle c)

end Sys2Proof.Machine
end

