-- ==== Sys2Proof/Machine/Rmw.lean ====
section
/-! DEFINITION. What atomics and reductions compute (10_atomics.md R295-R297), reduction windows and their rounds (R299-R302). -/
namespace Sys2Proof.Machine

/-- f of R295 for opcode `opc`: the new value from the old value, v (or cmp) and new. Floating-point forms by R296. -/
def atomF (opc : Nat) (ty : Ty) (m v v2 : Val) : Val :=
  let fl := fun (f : Elem → Nat → Nat → Nat × Nat) => map2 ty (fun e a b => (f e a b).1) m v
  match opc - 0x200 with
  | 0 => map2 ty iAdd m v
  | 1 => fl fun e a b => fAdd e exactMod 0 a b
  | 2 => map2 ty (fun _ a b => a &&& b) m v
  | 3 => map2 ty (fun _ a b => a ||| b) m v
  | 4 => map2 ty (fun _ a b => a ^^^ b) m v
  | 5 => map2 ty iMin m v
  | 6 => map2 ty iMax m v
  | 7 => fl fun e a b => fMinMax true e false a b
  | 8 => fl fun e a b => fMinMax false e false a b
  | 9 => map2 ty (fun _ a b => if b ≤ a then 0 else a + 1) m v
  | 10 => map2 ty (fun _ a b => if a = 0 ∨ b < a then b else a - 1) m v
  | 11 => v
  | _ => if m = v then v2 else m

/-- Opcode of the atomic with the function of a red op and of a redf op (R295). -/
def redOpc (op : Nat) : Nat :=
  if op = 0 then 0x200 else if op = 1 then 0x205 else if op = 2 then 0x206 else if op = 3 then 0x202 else if op = 4 then 0x203 else 0x204
def redfOpc (op : Nat) : Nat := if op = 0 then 0x201 else if op = 1 then 0x207 else 0x208

/-- The group's operands in lane order, folded into the old value; each lane's old value on the way (R295). -/
def foldAtom (opc : Nat) (ty : Ty) : Val → List (Val × Val) → Val × List Val
  | m, [] => (m, [])
  | m, v :: vs =>
    let r := foldAtom opc ty (atomF opc ty m v.1 v.2) vs
    (r.1, m :: r.2)

/-- A sum in a tree that the device chooses (R297): two values of the list are replaced by their sum until one is left. -/
def treeSum (opc : Nat) (ty : Ty) : Nat → Nat → List Val → Val
  | 0, _, vs => vs.headD 0
  | n + 1, c, vs =>
    if vs.length ≤ 1 then vs.headD 0
    else
      let k := Config.treeChoice c
      let i := k % vs.length
      let rest := vs.eraseIdx i
      let j := k / vs.length % rest.length
      treeSum opc ty n (c + 1) (atomF opc ty (vs.getD i 0) (rest.getD j 0) 0 :: rest.eraseIdx j)

/-- The operands that the device applies one after another under REASSOC: in lane order, or one tree sum (R297). -/
def State.reassocVals (s : State) (on : Bool) (opc : Nat) (ty : Ty) (vs : List Val) : List Val × State :=
  if on then
    (if Config.treeChoice s.freeCnt % 2 = 0 then vs else [treeSum opc ty vs.length (s.freeCnt + 1) vs],
     { s with freeCnt := s.freeCnt + 33 })
  else (vs, s)

/-- Bytes of a type as an atomic's operand: 4, 8 or 16 (R290). -/
def atomBytes (ty : Ty) : Nat := ty.bytes

/-- The bytes at a home, with the writes that wait there for a staging slot over them (R453). -/
def State.homeBytes (s : State) (k n : Nat) : List Byte :=
  s.held.foldl (fun d h => d.zipIdx.map fun b =>
    if h.key ≤ k + b.2 ∧ k + b.2 < h.key + h.bytes.length then h.bytes.getD (k + b.2 - h.key) 0 else b.1) (readBytes s.mem k n)
/-- A read-modify-write at the home L2 (R295, R298): performed even when the value is unchanged. -/
def State.homeRmw (s : State) (k opc : Nat) (ty : Ty) (vs : List (Val × Val)) : State :=
  let n := atomBytes ty
  s.homeWrite k (bytesOfVal n (foldAtom opc ty (valOfBytes (s.homeBytes k n)) vs).1)

/-! ## Windows (R299, R300) -/

def winSize (b : Dword) : Nat := 2 ^ bits b 0 6
def winBase (b : Dword) : Nat := bits b 16 41 * 65536
/-- The enabled window that holds an address, but for its round word. -/
def State.windowOf (s : State) (va : Nat) : Option (Nat × Dword × Dword) :=
  s.windows.find? fun w => winBase w.2.1 ≤ va && va < winBase w.2.1 + winSize w.2.1 - 8
/-- TYPE and op of an instruction match the window's (R300). -/
def winMatches (w : Nat × Dword × Dword) (ty : Ty) (op : Nat) : Bool := bits w.2.2 6 6 == ty.code && bits w.2.2 0 3 == op

/-- The opcode with the function of a window. -/
def winOpc (ctl : Dword) : Nat :=
  match Ty.ofCode (bits ctl 6 6) with
  | some (.num _ e) => if e.isInt then redOpc (bits ctl 0 3) else redfOpc (bits ctl 0 3)
  | _ => 0x200
def winTy (ctl : Dword) : Ty := (Ty.ofCode (bits ctl 6 6)).getD tyN32

/-- The port through which a die sends contributions (R300): its port 0, its port 1, or that of the lowest-numbered die with a port in service. -/
def State.contribPort (s : State) (die : Nat) : Option Nat :=
  (2 * die :: (2 * die + 1) :: List.range 16).find? fun p => s.portUp p && (s.dieAt (p / 2)).ok

/-- Contribution number `a` comes before `b`: the messages carry the numbers mod 2^16. -/
def numBefore (a b : Nat) : Bool := decide (2 ^ 15 ≤ (a + 2 ^ 16 - b % 2 ^ 16) % 2 ^ 16)
/-- A round with a contribution in the place of its device. -/
def Round.withPart (r : Round) (x : RoundPart) : Round :=
  let ps := (r.parts.filter fun p => decide (p.fdn < x.fdn)) ++ [x] ++ r.parts.filter fun p => decide (x.fdn < p.fdn)
  { r with parts := ps, first := ps.foldl (fun n p => min n p.came) x.came }
/-- A contribution enters the rounds of a window at an offset: those of one device stand in the rounds in ascending number (R301), so that one
which arrives late moves those of higher numbers on. -/
def addPart (win off : Nat) (x : RoundPart) : List Round → List Round
  | [] => [{ window := win, off := off, parts := [x], first := x.came }]
  | r :: rs =>
    if r.window = win ∧ r.off = off then
      match r.parts.find? fun p => p.fdn == x.fdn with
      | none => r.withPart x :: rs
      | some y => if numBefore x.num y.num then r.withPart x :: addPart win off y rs else r :: addPart win off x rs
    else r :: addPart win off x rs

/-- Contribution `num` of a device has come: the numbers below which all have, as far as they go (R301). -/
def hearTo : Nat → Nat → List Nat → Nat × List Nat
  | 0, low, more => (low, more)
  | n + 1, low, more => if more.contains low then hearTo n ((low + 1) % 2 ^ 16) (more.erase low) else (low, more)
def State.hear (s : State) (win fdn num : Nat) : State :=
  let old := ((s.heard.find? fun h => h.1 == win && h.2.1 == fdn).map fun h => h.2.2).getD (0, [])
  let new := hearTo (old.2.length + 1) old.1 (old.2 ++ [num % 2 ^ 16])
  { s with heard := (s.heard.filter fun h => !(h.1 == win && h.2.1 == fdn)) ++ [(win, fdn, new)] }
/-- No contribution of a lower number is still to come from its device. -/
def State.inOrder (s : State) (win : Nat) (x : RoundPart) : Bool :=
  (s.heard.find? fun h => h.1 == win && h.2.1 == x.fdn).any fun h => numBefore x.num h.2.2.1
/-- A round is complete (R301): it holds one contribution from every member, of each its next. -/
def State.roundFull (s : State) (w : Nat × Dword × Dword) (r : Round) : Bool :=
  decide (bits w.2.2 48 8 ≤ r.parts.length) && r.parts.all (s.inOrder w.1)

/-- A contribution leaves for the switches (R300): it takes the next number of its window. -/
def State.contribute (s : State) (w : Nat × Dword × Dword) (va die ctx : Nat) (wave : Option Dword) (v : Val) : State :=
  let num := s.contrib.getD w.1 0
  let off := va - winBase w.2.1
  let s := { s with contrib := updAt s.contrib w.1 (· + 1) }
  let s := if bit w.2.2 61 then
      { s.hear w.1 s.fdn num with
        rounds := addPart w.1 off { fdn := s.fdn, num := num, v := v, ctx := some ctx, wave := wave, came := s.cycle } s.rounds }
    else s
  let m : FabMsg :=
    { op := 8, sdie := die, ddie := 0, tid := w32 (bits w.2.2 32 16 + num % 2 ^ 16 * 2 ^ 16), addr := off, aop := bits w.2.2 0 3,
      etype := bits w.2.2 6 6, attr := 0, sfdn := s.fdn, dfdn := 0, data := bytesOfVal 16 v, owner := wave }
  match s.contribPort die with
  | some p => s.sendFab p m
  | none => s

/-- The place of an address of a round: through the context of this device's own contribution, or with none in it through the lowest context that
maps the address. -/
def State.roundPlace (s : State) (r : Round) (va : Nat) : Option Phys :=
  ((r.parts.filterMap RoundPart.ctx) ++ List.range 64).findSome? fun c => (s.walk c va).toOption

/-- A round is applied at the home device (R301): the total in ascending FDN, then the round word. -/
def State.applyRound (s : State) (w : Nat × Dword × Dword) (r : Round) : State :=
  let opc := winOpc w.2.2
  let ty := winTy w.2.2
  match r.parts.map RoundPart.v with
  | [] => s
  | v :: vs =>
    let t := (foldAtom opc ty v (vs.map fun x => (x, 0))).1
    let base := winBase w.2.1
    let s := match s.roundPlace r (base + r.off) with
      | some p => (s.meet p (atomBytes ty)).homeRmw p.key opc ty [(t, 0)]
      | none => s
    match s.roundPlace r (base + winSize w.2.1 - 8) with
    | some p => (s.meet p 8).homeRmw p.key 0x200 tyN64 [(1, 0)]
    | none => s

/-- The oldest round of a window at an offset. -/
def State.oldestRound (s : State) (n off : Nat) : Option Round := s.rounds.find? fun r => r.window == n && r.off == off
def State.windowSlot (s : State) (n : Nat) : Option (Nat × Dword × Dword) := s.windows.find? fun w => w.1 == n

/-- Event (R301). -/
def execReductionRoundComplete (n off : Nat) (s : State) : Outcome :=
  match s.windowSlot n, s.oldestRound n off with
  | some w, some r =>
    if !s.roundFull w r then .next s
    else .next (({ s with rounds := s.rounds.erase r } : State).applyRound w r)
  | _, _ => .next s

/-- Event (R302): TMO x 1,024 cycles after the first contribution of a round that is not complete, what is present is applied, and PARTIAL is set. -/
def execReductionRoundTimeout (n off : Nat) (s : State) : Outcome :=
  match s.windowSlot n, s.oldestRound n off with
  | some w, some r =>
    if s.roundFull w r ∨ bits w.2.2 16 16 = 0 ∨ s.cycle < r.first + bits w.2.2 16 16 * 1024 then .next s
    else
      let s := ({ s with rounds := s.rounds.erase r } : State).applyRound w r
      .next (s.sysSet 0 (0x050 + n) (s.sysGet 0 (0x050 + n) ||| dw (2 ^ 62)))
  | _, _ => .next s

end Sys2Proof.Machine
end

