-- ==== Sys2Proof/Machine/Atomics.lean ====
section
/-! DEFINITION. The atomic and reduction instructions (10_atomics.md R290-R304). -/
namespace Sys2Proof.Machine

/-! ## Places of atomics -/

/-- What an atomic finds at its place: the scratchpad, the view of merged determinism, or the home L2. -/
def State.atomRead (s : State) (n : Nat) : Place → List Byte
  | .spad off => s.wg.read off n
  | .phys _ p => if s.merged then s.viewBytes s.wv.wg p.key n else readBytes s.mem p.key n
  | .words _ => []

/-- What an atomic leaves there; the L1 of the core drops the line (R298). -/
def State.atomWrite (s : State) (bs : List Byte) : Place → State
  | .spad off => s.updWg s.wv.wg fun g => g.write off bs
  | .phys _ p =>
    if s.merged then (s.l1Drop s.gcore (lineOf p.key) 0).capture p bs
    else (s.l1Drop s.gcore (lineOf p.key) 0).homeWriteBy (some s.gcore) p.key bs
  | .words _ => s

/-- The location of a place, as the lanes of one group share it. -/
def Place.locKey : Place → Nat
  | .spad off => off
  | .phys _ p => p.vkey
  | .words _ => 0

/-- The lanes of a list in groups by location, each in lane order (R295). -/
def groupsBy (key : Nat → Nat) (ls : List Nat) : List (List Nat) :=
  ((ls.map key).eraseDups).map fun k => ls.filter fun L => key L == k

/-- An atomic of the issuing wave. -/
structure AtomOp where
  opc : Nat
  ty : Ty
  m : MMod
  addr : Nat → Nat
  v : Nat → Val
  v2 : Nat → Val

/-- An access of SCOPE 7 inside an enabled window (R293, R300): the window. -/
def State.atomWindow (s : State) (a : AtomOp) (L : Nat) : Option (Nat × Dword × Dword) :=
  if a.m.space = .global ∧ a.m.scope = 7 then s.windowOf (a.addr L) else none

/-- Cause of a lane (R293); `op` is the reduction's op code, none for a returning atomic. -/
def State.atomLoc (s : State) (a : AtomOp) (op : Option Nat) (L : Nat) : Except Cause Place :=
  let n := atomBytes a.ty
  if a.addr L % n ≠ 0 then .error (cause 0x24)
  else
    match s.atomWindow a L with
    | some w =>
      if op.any fun o => winMatches w a.ty o then s.laneLoc a.m.space false true L (a.addr L) n n else
        match s.laneLoc a.m.space true true L (a.addr L) n n with
        | .error c => if causeRank c.code ≤ causeRank 0x21 then .error c else .error (causeT 0x21 3)
        | .ok _ => .error (causeT 0x21 3)
    | none => s.laneLoc a.m.space true true L (a.addr L) n n
def State.atomPlace (s : State) (a : AtomOp) (op : Option Nat) (L : Nat) : Place :=
  match s.atomLoc a op L with
  | .ok p => p
  | .error _ => default

/-- What every atomic does before its effect: the wait for presence (R249), the causes of its lanes (R293), the waits at issue, the walker's
updates. -/
def State.atomIssue (s : State) (a : AtomOp) (op : Option Nat) (eff : State → State) : State :=
  let n := atomBytes a.ty
  let acc := s.accOf s.wv a.m.space true true
  let pad := padRanges n (s.activeLanes.filterMap fun L => (s.atomLoc a op L).toOption)
  let ls := s.absentOf pad
  if !ls.isEmpty then s.parkPresence ls
  else
    match s.walkedFault acc (s.activeLanes.flatMap fun L => s.laneVas a.m.space L (a.addr L) n n) (fun L => errOf (s.atomLoc a op L)) a.addr with
    | some s' => s'
    | none =>
      let pls := s.activeLanes.map (s.atomPlace a op)
      if s.mustWait a.m true n pls || s.padHeld pad then s.stall
      else if pls.any (fun pl => (pl.ranges 1).any fun r => s.copyBlocked r.1) then s.stall
      else eff (pls.foldl (fun s p => s.touchPlace acc p) s)

/-! ## Atomics on other devices (R242, R488) -/

/-- The atomic message of one lane. -/
def atomAsk (p : Phys) (m : MMod) (opc : Nat) (ty : Ty) (v v2 : Val) : FabAsk :=
  { tfdn := eTfdn p.leaf, ddie := p.home, op := 4, addr := p.dpa, aop := opc - 0x200, etype := ty.code, attr := m.ord.code,
    data := bytesOfVal 16 v ++ bytesOfVal 16 v2, att := 0 }
/-- A compare-and-swap message on the bits of a type. -/
def casAsk (p : Phys) (m : MMod) (ty : Ty) (v v2 : Val) : FabAsk :=
  let n := atomBytes ty
  if n = 16 then atomAsk p m 0x20D tyV2n64 v v2 else atomAsk p m 0x20C (if n = 4 then tyN32 else tyN64) v v2

/-- The group's read-modify-write by compare-and-swap messages, each a new try with the value that the last one found: the old value once one has
succeeded, else the message that is due. -/
def State.casChain (s : State) (p : Phys) (m : MMod) (ty : Ty) (f : Val → Val) : Nat → FabAsk → Option Val → Except FabAsk (Val × Nat)
  | 0, a, _ => .error a
  | n + 1, a, expect =>
    match s.fabFind s.wv.token s.issue.loc a with
    | none => .error a
    | some r =>
      if r.cause ≠ 0 then .ok (0, r.cause)
      else
        match r.reply with
        | none => .error a
        | some bs =>
          let old := valOfBytes (bs.take (atomBytes ty))
          if expect = some old then .ok (old, 0) else s.casChain p m ty f n { casAsk p m ty old (f old) with att := a.att + 1 } (some old)

/-- The group of lanes at a fabric place: old value and cause when done, else the message that is due. -/
def State.fabGroup (s : State) (a : AtomOp) (p : Phys) (ls : List Nat) : Except FabAsk (Val × Nat) :=
  match ls with
  | [L] =>
    let q := atomAsk p a.m a.opc a.ty (a.v L) (a.v2 L)
    (match s.fabFind s.wv.token s.issue.loc q with
     | some r => if r.cause ≠ 0 then .ok (0, r.cause) else
        (match r.reply with
         | some bs => .ok (valOfBytes (bs.take (atomBytes a.ty)), 0)
         | none => .error q)
     | none => .error q)
  | _ => s.casChain p a.m a.ty (fun m => (foldAtom a.opc a.ty m (ls.map fun L => (a.v L, a.v2 L))).1) (s.fabReqs.length + 1)
      (casAsk p a.m a.ty 0 0) none

def Place.fabPhys : Place → Option Phys
  | .phys _ p => if eFab p.leaf then some p else none
  | _ => none

/-- Messages that the fabric groups of the instruction still wait for; under merged determinism the reads of what their view lacks. -/
def State.fabDue (s : State) (a : AtomOp) (op : Option Nat) (ls : List Nat) : List FabAsk :=
  if s.merged then (fabAsks a.m (ls.map (s.atomPlace a op))).filter fun q => !s.fabReady s.wv.token s.issue.loc [q] else
  (groupsBy (fun L => (s.atomPlace a op L).locKey) ls).filterMap fun g =>
    match (s.atomPlace a op (g.headD 0)).fabPhys with
    | some p =>
      (match s.fabGroup a p g with
       | .error q => some q
       | .ok _ => none)
    | none => none

/-! ## Returning atomics -/

/-- The group of lanes `ls` performs at its place: what each lane returns, with a late cause. -/
def State.atomGroup (s : State) (a : AtomOp) (ls : List Nat) : State × List (Nat × Val × Nat) :=
  let pl := s.atomPlace a none (ls.headD 0)
  let n := atomBytes a.ty
  let vs := ls.map fun L => (a.v L, a.v2 L)
  match (if s.merged then none else pl.fabPhys) with
  | some p =>
    (match s.fabGroup a p ls with
     | .ok (m, c) => (s, (ls.zip (foldAtom a.opc a.ty m vs).2).map fun x => (x.1, x.2, c))
     | .error _ => (s, []))
  | none =>
    let c := match pl with
      | .phys _ p => if eFab p.leaf then s.fabCause s.wv.token s.issue.loc (p.askLine a.m) else s.remoteCause p
      | .spad off => if s.wg.padBad off n then 0x80 else 0
      | .words _ => 0
    if c ≠ 0 then
      (match pl with
       | .phys va p => if eFab p.leaf then s else s.logCause va p c
       | _ => s, ls.map fun L => (L, 0, c))
    else
      let m := valOfBytes (match pl.fabPhys with
        | some p => s.viewOver s.wv.wg p.vkey (s.fabBytes s.wv.token s.issue.loc (p.askLine a.m) (p.dpa % 128) n)
        | none => s.atomRead n pl)
      let (us, s') := s.reassocVals (a.m.reassoc && !s.merged) a.opc a.ty (vs.map Prod.fst)
      let tree := us.length ≠ vs.length
      let r := foldAtom a.opc a.ty m (if tree then us.map fun u => (u, 0) else vs)
      (s'.atomWrite (bytesOfVal n r.1) pl, if tree then ls.map fun L => (L, m, 0) else (ls.zip r.2).map fun x => (x.1, x.2, 0))

/-- Every group performs (R295), and the lanes take the old values; after a late cause no lane does (R294). A bundle's atomic takes a
landing-buffer entry for each line (R304). -/
def State.atomEff (s : State) (a : AtomOp) : State :=
  let lines := ((s.activeLanes.map (s.atomPlace a none)).flatMap (Place.lines (atomBytes a.ty))).eraseDups
  s.withEntries lines.length fun s =>
  let due := s.fabDue a none s.activeLanes
  if !due.isEmpty then s.fabAskAll s.wv.die s.wv.token s.issue.loc due
  else
    let gs := groupsBy (fun L => (s.atomPlace a none L).locKey) s.activeLanes
    let r := gs.foldl (fun (acc : State × List (Nat × Val × Nat)) g =>
      let x := acc.1.atomGroup a g
      (x.1, acc.2 ++ x.2)) (s, [])
    let t := (r.1.acquire a.m.ord a.m.scope.toNat a.m.space).fabDrop s.wv.token s.issue.loc
    match r.2.filter fun x => x.2.2 != 0 with
    | [] => t.put fun L => ((r.2.lookup L).map Prod.fst).getD 0
    | x :: xs =>
      let c := x.2.2
      let prim := maskOf fun L => (x :: xs).any fun y => y.1 == L && y.2.2 == c
      let sec := maskOf fun L => (x :: xs).any fun y => y.1 == L && y.2.2 != c
      let L := (lanesOf prim).headD 0
      t.done.lateFaultAt (match s.atomPlace a none L with
        | .phys _ p => p.home
        | _ => s.wv.die) (cause c) prim sec (a.addr L)

/-- A returning atomic (R293-R303). Under merged determinism one of scope 3 or wider in space 0 is forbidden as a whole. -/
def State.atomic (s : State) (a : AtomOp) : State :=
  if s.merged ∧ a.m.space = .global ∧ 3 ≤ a.m.scope.toNat then s.faultAll (cause 0x32)
  else s.atomIssue a none fun t => t.atomEff a

def State.atomOp (s : State) (opc : Nat) (ty : Ty) (m : MMod) (a v : Opnd) : AtomOp :=
  { opc := opc, ty := ty, m := m, addr := fun L => s.addrOpnd m a L, v := fun L => s.opnd ty v L, v2 := fun _ => 0 }

def execAtomadd (ty : Ty) (m : MMod) (a v : Opnd) (s : State) : Outcome := .next (s.atomic (s.atomOp 0x200 ty m a v))
def execAtomfadd (ty : Ty) (m : MMod) (a v : Opnd) (s : State) : Outcome := .next (s.atomic (s.atomOp 0x201 ty m a v))
def execAtomand (ty : Ty) (m : MMod) (a v : Opnd) (s : State) : Outcome := .next (s.atomic (s.atomOp 0x202 ty m a v))
def execAtomor (ty : Ty) (m : MMod) (a v : Opnd) (s : State) : Outcome := .next (s.atomic (s.atomOp 0x203 ty m a v))
def execAtomxor (ty : Ty) (m : MMod) (a v : Opnd) (s : State) : Outcome := .next (s.atomic (s.atomOp 0x204 ty m a v))
def execAtommin (ty : Ty) (m : MMod) (a v : Opnd) (s : State) : Outcome := .next (s.atomic (s.atomOp 0x205 ty m a v))
def execAtommax (ty : Ty) (m : MMod) (a v : Opnd) (s : State) : Outcome := .next (s.atomic (s.atomOp 0x206 ty m a v))
def execAtomfmin (ty : Ty) (m : MMod) (a v : Opnd) (s : State) : Outcome := .next (s.atomic (s.atomOp 0x207 ty m a v))
def execAtomfmax (ty : Ty) (m : MMod) (a v : Opnd) (s : State) : Outcome := .next (s.atomic (s.atomOp 0x208 ty m a v))
def execAtominc (ty : Ty) (m : MMod) (a v : Opnd) (s : State) : Outcome := .next (s.atomic (s.atomOp 0x209 ty m a v))
def execAtomdec (ty : Ty) (m : MMod) (a v : Opnd) (s : State) : Outcome := .next (s.atomic (s.atomOp 0x20A ty m a v))
def execAtomxchg (ty : Ty) (m : MMod) (a v : Opnd) (s : State) : Outcome := .next (s.atomic (s.atomOp 0x20B ty m a v))
def execAtomcas (ty : Ty) (m : MMod) (a cmp new : Opnd) (s : State) : Outcome :=
  .next (s.atomic { s.atomOp 0x20C ty m a cmp with v2 := fun L => s.opnd ty new L })
def execAtomcas2 (ty : Ty) (m : MMod) (a cmp new : Opnd) (s : State) : Outcome :=
  .next (s.atomic { s.atomOp 0x20D ty m a cmp with v2 := fun L => s.opnd ty new L })

/-! ## Reductions -/

/-- Reductions held to the merge (R303, R404), unless the shadow pool of a home die has no line left. -/
def State.holdReds (s : State) (rs : List Reduction) : State :=
  let t := s.updWg s.wv.wg fun g => { g with reds := g.reds ++ rs }
  if rs.any fun r => decide (s.poolLines (r.poolDie s.wg) < t.poolUsed (r.poolDie s.wg)) then
    s.pendArrives s.issue.wave { cause := 0x30, count := 0, loc := s.issue.loc, die := s.wv.die, addr := 0, tag := BitVec.allOnes 64, tile := none }
  else t

/-- A group of a reduction outside a window performs: at the own die's home, at its remote home (R241), or on another device. -/
def State.redGroup (s : State) (a : AtomOp) (op : Nat) (ls : List Nat) : State :=
  let pl := s.atomPlace a (some op) (ls.headD 0)
  let n := atomBytes a.ty
  let (us, s) := s.reassocVals (a.m.reassoc && !s.merged) a.opc a.ty (ls.map a.v)
  match pl with
  | .phys va p =>
    if eFab p.leaf then
      (match s.fabGroup a p ls with
       | .ok (_, c) => if c = 0 then s else s.asyncFaultAt p.home c va none
       | .error _ => s)
    else
      let s := s.l1Drop s.gcore (lineOf p.key) 0
      if p.home != s.wv.die then s.sendWrite a.m va p (.rmw a.opc a.ty us) none
      else if s.remoteCause p ≠ 0 then s.asyncFault (s.remoteCause p) va none
      else s.homeRmw p.key a.opc a.ty (us.map fun u => (u, 0))
  | .spad off =>
    if s.wg.padBad off n then s.asyncFault 0x80 off none
    else s.atomWrite (bytesOfVal n (foldAtom a.opc a.ty (valOfBytes (s.atomRead n pl)) (us.map fun u => (u, 0))).1) pl
  | _ => s.atomWrite (bytesOfVal n (foldAtom a.opc a.ty (valOfBytes (s.atomRead n pl)) (us.map fun u => (u, 0))).1) pl

/-- The value that the lanes of a window contribution add up to, in lane order. -/
def contribution (opc : Nat) (ty : Ty) : List Val → Val
  | [] => 0
  | v :: vs => (foldAtom opc ty v (vs.map fun x => (x, 0))).1
/-- A window contribution of the lanes that name one address (R300); the L1 drops the location's line (R298). -/
def State.redContribute (s : State) (a : AtomOp) (op : Nat) (w : Nat × Dword × Dword) (ls : List Nat) : State :=
  let s := match s.atomPlace a (some op) (ls.headD 0) with
    | .phys _ p => s.l1Drop s.gcore (lineOf p.key) 0
    | _ => s
  let (us, s) := s.reassocVals a.m.reassoc a.opc a.ty (ls.map a.v)
  s.contribute w (a.addr (ls.headD 0)) s.wv.die s.ctx (some s.wv.token) (contribution a.opc a.ty us)

/-- What lane `L` holds to the merge: a reduction, or with the lanes that name its address and as the lowest of them a contribution to a window
(R300, R303). The home of a line turns away what it turns away of other writes. -/
def State.heldRed (s : State) (a : AtomOp) (op L : Nat) : List Reduction :=
  match s.atomPlace a (some op) L with
  | .phys va p =>
    let r : Reduction :=
      { key := p.key, va := dw va, window := none, tfdn := if eFab p.leaf then some (eTfdn p.leaf) else none, lanes := 1, op := a.opc, ty := a.ty,
        v := a.v L, keyid := eKeyid p.leaf }
    let same := s.activeLanes.filter fun j => a.addr j == a.addr L
    match s.atomWindow a L with
    | some w => if same.headD L = L then [{ r with window := some w.1, lanes := same.length, v := contribution a.opc a.ty (same.map a.v) }] else []
    | none => if s.remoteCause p ≠ 0 then [] else [r]
  | _ => []
/-- The L1 drops the line of lane `L`'s location (R298), and the wave holds the cause with which its home turns the reduction away. -/
def State.meetRed (s : State) (a : AtomOp) (op L : Nat) : State :=
  match s.atomPlace a (some op) L, s.atomWindow a L with
  | .phys va p, none => if s.remoteCause p ≠ 0 then s.turnAway va p (s.remoteCause p) else s.l1Drop s.gcore (lineOf p.key) 0
  | _, _ => s

/-- The effect of red and redf. -/
def State.redEff (s : State) (a : AtomOp) (op : Nat) : State :=
  let ls := s.activeLanes
  if s.merged ∧ a.m.space = .global then ((ls.foldl (fun t L => t.meetRed a op L) s).holdReds (ls.flatMap (s.heldRed a op))).done
  else
    let inWin := ls.filter fun L => (s.atomWindow a L).isSome
    let rest := ls.filter fun L => (s.atomWindow a L).isNone
    let due := s.fabDue a (some op) rest
    if !due.isEmpty then s.fabAskAll s.wv.die s.wv.token s.issue.loc due
    else
      let t := (groupsBy (fun L => (s.atomPlace a (some op) L).locKey) rest).foldl (fun t g => t.redGroup a op g) s
      let t := (groupsBy a.addr inWin).foldl (fun t g =>
        match s.atomWindow a (g.headD 0) with
        | some w => t.redContribute a op w g
        | none => t) t
      (t.fabDrop s.wv.token s.issue.loc).acquire a.m.ord a.m.scope.toNat a.m.space |>.done

def execRed (ty : Ty) (m : MMod) (op : BitVec 30) (a v : Opnd) (s : State) : Outcome :=
  let x := s.atomOp (redOpc op.toNat) ty m a v
  .next (s.atomIssue x (some op.toNat) fun t => t.redEff x op.toNat)
def execRedf (ty : Ty) (m : MMod) (op : BitVec 30) (a v : Opnd) (s : State) : Outcome :=
  let x := s.atomOp (redfOpc op.toNat) ty m a v
  .next (s.atomIssue x (some op.toNat) fun t => t.redEff x op.toNat)

end Sys2Proof.Machine
end

