-- ==== Sys2Proof/Machine/Ordering.lean ====
section
/-! DEFINITION. The ordering and synchronisation instructions (09_ordering.md R276-R288) and the events that end their waits. -/
namespace Sys2Proof.Machine

/-! ## fence and drain (R282, R283) -/

/-- The wave goes on, or takes its pending asynchronous fault first (R424 step 4). -/
def State.deliverOr (s : State) (t : State) : State :=
  match s.deliverPend with
  | some s' => s'
  | none => t

/-- The wave's block copies have read every line, and its tile loads theirs (R258, R282). -/
def State.copiesRead (s : State) : Bool :=
  !(s.copies.any fun c => c.wave == s.wv.token && c.toSpad) &&
  !s.quern.any fun q => q.wave == s.wv.token && decide (q.stage < 2) && (match q.instr with | .mld .. => true | _ => false)
/-- A fence at scope 0 keeps nothing; one at scope 6 or 7 waits as drain does. Every other read of the wave has performed once its bundle has issued. -/
def State.fenceEff (s : State) (ord : Ord) (scope : Nat) : State :=
  if scope = 0 then s.done
  else if (2 ≤ ord.code ∧ !s.settled) ∨ (6 ≤ scope ∧ !s.quiet) then s.stall
  else if !s.copiesRead then s.stall
  else
    let t := (if ord.code % 2 = 1 ∧ 3 ≤ scope then s.l1Acquire s.gcore else s).done
    if 6 ≤ scope then s.deliverOr t else t
def execFence (ord : Ord) (scope : BitVec 3) (s : State) : Outcome := .next (s.fenceEff ord scope.toNat)

def execDrain (s : State) : Outcome := .next (if !s.quiet then s.stall else s.deliverOr s.done)

/-! ## Barriers (R276-R279, R284) -/

/-- A barrier (R276). -/
structure Barrier where
  phase : Nat
  arr : Nat
  expa : Nat
  doneb : Nat
  expb : Nat
  deriving DecidableEq, Repr, Inhabited

def Barrier.ofBytes (bs : List Byte) : Barrier :=
  { expb := natAt bs 0 4, doneb := natAt bs 4 4, expa := natAt bs 8 2, arr := natAt bs 10 2, phase := natAt bs 12 4 }
def Barrier.bytes (b : Barrier) : List Byte :=
  bytesOfNat 4 b.expb ++ bytesOfNat 4 b.doneb ++ bytesOfNat 2 b.expa ++ bytesOfNat 2 b.arr ++ bytesOfNat 4 b.phase

/-- The completion test (R277). -/
def Barrier.test (b : Barrier) : Barrier :=
  if b.arr = b.expa ∧ b.doneb = b.expb then { b with phase := (b.phase + 1) % 2 ^ 32, arr := 0, doneb := 0, expb := 0 } else b

/-- An update ends in a state past TAG 2 of R278, or passes the test. -/
def Barrier.settle (b : Barrier) : Except Nat Barrier := if b.arr = b.expa ∧ b.expb < b.doneb then .error 2 else .ok b.test

/-- The updates, each with the TAG of its failure (R278). -/
def Barrier.arrive (b : Barrier) (cnt : Nat) : Except Nat Barrier :=
  if cnt = 0 ∨ 65535 < cnt then .error 3
  else if b.expa < b.arr + cnt then .error 1
  else ({ b with arr := b.arr + cnt } : Barrier).settle
def Barrier.expect (b : Barrier) (n : Nat) : Except Nat Barrier :=
  if n = 0 then .ok b
  else if 2 ^ 32 ≤ b.expb + n then .error 4
  else ({ b with expb := b.expb + n } : Barrier).settle
def Barrier.deliver (b : Barrier) (n : Nat) : Except Nat Barrier :=
  if 2 ^ 32 ≤ b.doneb + n then .error 4 else ({ b with doneb := b.doneb + n } : Barrier).settle
def Barrier.init (expa : Nat) : Except Nat Barrier :=
  if expa = 0 ∨ 65535 < expa then .error 3 else .ok { phase := 0, arr := 0, expa := expa, doneb := 0, expb := 0 }

/-- Key that names a barrier for the count of R136. -/
def barKey (wg : Nat) : Place → Nat
  | .spad off => 2 ^ 60 + wg * 2 ^ 32 + off
  | .phys _ p => p.key
  | .words _ => 0

def barMod (scope : BitVec 3) (space : Space) : MMod :=
  { ord := .relaxed, scope := scope, evict := .dflt, space := space, reassoc := false }
def State.barBase (s : State) (space : Space) (base : Opnd) : Nat := s.uniNat (addrTy space) base
/-- The barrier's place: its causes are those of a 16-byte load or store. A frame of another device holds no barrier: R242 does not list barrier
instructions among those that may reach one (see the assumption log). -/
def State.barLoc (s : State) (space : Space) (wr : Bool) (a : Nat) : Except Cause Place :=
  match s.laneLoc space (!wr) wr s.lowLane a 16 16 with
  | .ok pl => if pl.isFab then .error (causeT 0x21 7) else .ok pl
  | .error c => .error c

/-- What every barrier instruction does first; `ord` is the order of its access. -/
def State.barIssue (s : State) (scope : BitVec 3) (space : Space) (wr : Bool) (a : Nat) (ord : Ord) (eff : State → Place → State) : State :=
  let acc := s.accOf s.wv space (!wr) wr
  match s.barLoc space wr a with
  | .error c => (s.walkedFault acc (s.laneVas space s.lowLane a 16 16) (fun _ => some c) fun _ => a).getD s
  | .ok pl =>
    let pad := padRanges 16 [pl]
    let ls := s.absentOf pad
    if !ls.isEmpty then s.parkPresence ls
    else if s.mustWait { barMod scope space with ord := ord } true 16 [pl] || (wr && s.padHeld pad) || (wr && (pl.ranges 1).any fun r => s.copyBlocked r.1) then s.stall
    else eff (s.touchPlace acc pl) pl

/-- A phase has advanced: waves that have arrived on the barrier start counting again (R136). -/
def State.phaseAdvanced (s : State) (key : Nat) : State :=
  { s with waves := s.waves.map fun w =>
      if w.arrivedOn.contains key then { w with sincePhase := 0, arrivedOn := w.arrivedOn.erase key } else w }

/-- An update of the barrier at a place performs: the phase before it, and the state; or its failure. -/
def State.barUpdate (s : State) (pl : Place) (arrives : Bool) (f : Barrier → Except Nat Barrier) : Except Cause (Nat × State) :=
  let late := match pl with
    | .phys _ p => s.remoteCause p
    | .spad off => if s.wg.padBad off 16 then 0x80 else 0
    | .words _ => 0
  if late ≠ 0 then .error (cause late)
  else
    let b := Barrier.ofBytes (s.atomRead 16 pl)
    match f b with
    | .error t => .error (causeT 0x70 t)
    | .ok b' =>
      let key := barKey s.wv.wg pl
      let s := if arrives then s.updWv fun w => { w with arrivedOn := if w.arrivedOn.contains key then w.arrivedOn else key :: w.arrivedOn } else s
      let s := s.atomWrite b'.bytes pl
      .ok (b.phase, if b'.phase ≠ b.phase then s.phaseAdvanced key else s)

/-- A failing update: a late fault with Active as the primary mask, and no result (R240, R278); a cause met at the home of a barrier whose
instruction has no result is asynchronous (R424). -/
def State.barFail (s : State) (c : Cause) (a : Nat) (pl : Place) (nres : Nat) : State :=
  if c.code = 0x70 then s.done.lateFault c s.active 0 0
  else
    match pl with
    | .phys va p => if nres = 0 then (s.turnAway va p c.code).done else (s.logCause va p c.code).done.lateFaultAt p.home c s.active 0 a
    | _ => if nres = 0 then (s.asyncFault c.code a none).done else s.done.lateFault c s.active 0 a

def execBarinit (scope : BitVec 3) (space : Space) (base expa : Opnd) (s : State) : Outcome :=
  let a := s.barBase space base
  let n := s.uniNat tyN32 expa
  .next (s.barIssue scope space true a .release fun t pl =>
    match t.barUpdate pl false fun _ => Barrier.init n with
    | .error c => t.barFail c a pl 0
    | .ok r => r.2.done)
def execBararr (scope : BitVec 3) (space : Space) (base cnt : Opnd) (s : State) : Outcome :=
  let a := s.barBase space base
  let n := s.uniNat tyN32 cnt
  .next (s.barIssue scope space true a .release fun t pl =>
    match t.barUpdate pl true fun b => b.arrive n with
    | .error c => t.barFail c a pl 1
    | .ok r => r.2.put fun _ => BitVec.ofNat 256 r.1)
def execBarexp (scope : BitVec 3) (space : Space) (base bytes : Opnd) (s : State) : Outcome :=
  let a := s.barBase space base
  let n := s.uniNat tyN32 bytes
  .next (s.barIssue scope space true a .relaxed fun t pl =>
    match t.barUpdate pl false fun b => b.expect n with
    | .error c => t.barFail c a pl 0
    | .ok r => r.2.done)

/-- PHASE at a place, as a read at the point of coherence. -/
def State.barPhase (s : State) (pl : Place) : Nat := (Barrier.ofBytes ((s.met 16 pl).atomRead 16 pl)).phase

/-- The wait of barwait and barsync on a token (R285). -/
def State.barPark (s : State) (scope : BitVec 3) (space : Space) (a tok : Nat) (pl : Place) : State :=
  if s.barPhase pl ≠ tok then (s.acquire .acquire scope.toNat space).done
  else s.park s.active fun _ => .barrier scope.toNat space (dw a) (w32 tok)
def execBarwait (scope : BitVec 3) (space : Space) (base tok : Opnd) (s : State) : Outcome :=
  let a := s.barBase space base
  let k := s.uniNat tyN32 tok
  .next (s.barIssue scope space false a .relaxed fun t pl =>
    if t.placeBad (barMod scope space) 16 pl then t.done.lateFaultAt pl.die (cause 0x80) t.active 0 a else t.barPark scope space a k pl)
def execBarsync (scope : BitVec 3) (space : Space) (base : Opnd) (s : State) : Outcome :=
  let a := s.barBase space base
  .next (s.barIssue scope space true a .release fun t pl =>
    match t.barUpdate pl true fun b => b.arrive 1 with
    | .error c => t.barFail c a pl 0
    | .ok r => r.2.barPark scope space a r.1 pl)
def execBartest (scope : BitVec 3) (space : Space) (base tok : Opnd) (s : State) : Outcome :=
  let a := s.barBase space base
  let k := s.uniNat tyN32 tok
  .next (s.barIssue scope space false a .relaxed fun t pl =>
    if t.placeBad (barMod scope space) 16 pl then t.done.lateFaultAt pl.die (cause 0x80) t.active 0 a
    else (t.acquire .acquire scope.toNat space).put fun _ => valOfBool (t.barPhase pl ≠ k))

/-- Lanes of a wave leave their wait and go on. -/
def Lane.resume (l : Lane) : Lane := { l with st := .running, wait := .none, pc := l.after, bpos := l.bpos + 1 }

/-- Event (R285): the lanes of wave `w` parked on a barrier whose PHASE differs from their token go on, with an acquire. -/
def execBarrierWaitRelease (w : Nat) (s : State) : Outcome :=
  let free := fun (l : Lane) =>
    match l.wait with
    | .barrier scope space a tok =>
      let t := s.asWave w 0 l.pc
      (match t.laneLoc space true false 0 a.toNat 16 16 with
       | .ok pl => if l.st == .parked && t.barPhase pl != tok.toNat then some (scope, space) else none
       | .error _ => none)
    | _ => none
  let s' := ((s.waveAt w).lanes.filterMap free).foldl (fun u c =>
    { (u.asWave w 0 default).acquire .acquire c.1 c.2 with issue := s.issue }) s
  .next (s'.updWave w fun wv => wv.mapLanes fun _ l => if (free l).isSome then l.resume else l)

/-! ## waitval (R286) -/

/-- The condition codes of waitval. -/
def waitCond (ty : Ty) (c : Nat) (x v : Val) : Bool :=
  let e := Ty.elem ty
  let a := elemAt x e.width 0
  let b := elemAt v e.width 0
  iCmp (if c = 0 then .eq else if c = 1 then .ne else if c = 2 then .lt else if c = 3 then .le else if c = 4 then .gt else .ge) e a b

/-- What a lane's waitval reads now: a value, a late cause, or nothing yet (a fabric answer is due). -/
inductive WaitRead where
  | value (v : Val)
  /-- With the die at which it arises. -/
  | late (c die : Nat)
  | pending (q : FabAsk)

def State.waitRead (s : State) (m : MMod) (ty : Ty) (L a : Nat) : WaitRead :=
  match s.laneLoc m.space true false L a ty.bytes ty.bytes with
  | .error c => .late c.code s.wv.die
  | .ok pl =>
    match pl.fabPhys with
    | some p =>
      let q := p.askLine m
      if !s.fabReady s.wv.token s.issue.loc [q] then .pending q
      else if s.fabCause s.wv.token s.issue.loc q ≠ 0 then .late (s.fabCause s.wv.token s.issue.loc q) p.home
      else
        let bs := s.fabBytes s.wv.token s.issue.loc q (p.dpa % 128) ty.bytes
        .value (valOfBytes (if s.merged then s.viewOver s.wv.wg p.vkey bs else bs))
    | none => if s.placeBad m ty.bytes pl then .late 0x80 pl.die else .value (valOfBytes ((s.met ty.bytes pl).atomRead ty.bytes pl))

/-- One reading of a lane that waits: the lane, and what else it leads to. -/
def State.waitStep (s : State) (L : Nat) (l : Lane) : Lane :=
  match l.wait with
  | .waitval ty m a v c dst rs false =>
    (match s.waitRead m ty L a.toNat with
     | .value x => if waitCond ty c x v then { (l.setVal dst x).putVec rs x with wait := .waitval ty m a v c dst rs true } else l
     | _ => l)
  | _ => l
def State.waitAsks (s : State) (ls : List (Nat × Lane)) : List FabAsk :=
  ls.filterMap fun p =>
    match p.2.wait with
    | .waitval ty m a _ _ _ _ false =>
      (match s.waitRead m ty p.1 a.toNat with
       | .pending q => some q
       | _ => none)
    | _ => none
def State.waitLate (s : State) (ls : List (Nat × Lane)) : Option (Nat × Nat × Nat) :=
  ls.findSome? fun p =>
    match p.2.wait with
    | .waitval ty m a _ _ _ _ false =>
      (match s.waitRead m ty p.1 a.toNat with
       | .late c d => some (c, a.toNat, d)
       | _ => none)
    | _ => none
/-- The reads that end a wait pass the caches as reads at the point of coherence: a copy in the L1 takes what they read (R244, R246). -/
def State.waitSeen (s : State) (ls : List (Nat × Lane)) : State :=
  ls.foldl (fun s p =>
    match p.2.wait with
    | .waitval ty m a _ _ _ _ _ =>
      (match s.laneLoc m.space true false p.1 a.toNat ty.bytes ty.bytes with
       | .ok (.phys va x) => s.afterRead { m with scope := 5 } (.phys va x)
       | _ => s)
    | _ => s) s
def Lane.satisfied (l : Lane) : Bool :=
  match l.wait with
  | .waitval _ _ _ _ _ _ _ d => d
  | _ => false

/-- The parked waitvals of a wave at one location are read again: they go on together once every lane is satisfied. -/
def State.waitGroup (s : State) (w : Nat) (loc : Loc) : State :=
  let isIn := fun (l : Lane) =>
    l.st == .parked && l.pc == loc && (match l.wait with | .waitval .. => true | _ => false)
  let t := s.asWave w (maskOf fun L => isIn ((s.waveAt w).lane L)) loc
  let ls := t.activeLanes.map fun L => (L, t.wv.lane L)
  let asks := t.waitAsks ls
  let stepped := t.updWv fun wv => wv.mapLanes fun L l => if isIn l then t.waitStep L l else l
  let m := (ls.findSome? fun p => match p.2.wait with | .waitval _ m _ _ _ _ _ _ => some m | _ => none).getD default
  let out :=
    match t.waitLate ls with
    | some (c, a, d) =>
      ((stepped.updWv fun wv => wv.mapLanes fun _ l => if isIn l then l.resume else l).lateFaultAt d (cause c) t.active 0 a).fabDrop
        t.wv.token loc
    | none =>
      if !asks.isEmpty then stepped.fabAskAll t.wv.die t.wv.token loc asks
      else if t.activeLanes.all fun L => (stepped.wv.lane L).satisfied then
        (((stepped.waitSeen ls).acquire m.ord m.scope.toNat m.space).updWv fun wv => wv.mapLanes fun _ l =>
          if isIn l then l.resume else l).fabDrop t.wv.token loc
      else stepped.fabDrop t.wv.token loc
  { out with issue := s.issue }

/-- Event (R286). -/
def execWaitvalReread (w : Nat) (s : State) : Outcome :=
  let locs := (((s.waveAt w).lanes.filter fun l =>
    l.st == .parked && (match l.wait with | .waitval .. => true | _ => false)).map Lane.pc).eraseDups
  .next (locs.foldl (fun t p => t.waitGroup w p) s)

def execWaitval (ty : Ty) (m : MMod) (a v : Opnd) (cond : BitVec 30) (s : State) : Outcome :=
  let x : Access := { m := m, rd := true, wr := false, n := ty.bytes, al := ty.bytes, addr := fun L => s.addrOpnd m a L }
  .next (s.access x fun t =>
    let p := t.park t.active fun L =>
      .waitval ty m (dw (x.addr L)) (s.opnd ty v L) cond.toNat s.issue.loc.vnum s.issue.dsts false
    { p.waitGroup t.issue.wave t.issue.here with issue := s.issue })

/-! ## sleep and wake (R287) -/

/-- The count that a sleep's deadline stands on: FC under ordered determinism, else cluster cycles. -/
def State.sleepNow (s : State) (w : Nat) : Nat :=
  let wv := s.waveAt w
  if (s.taskOfWg wv.wg).launch.dmode % 2 = 1 then ((s.gangOf wv.wg).map Gang.fc).getD 0 else (s.dieAt wv.die).clock

def execSleep (t : Opnd) (s : State) : Outcome :=
  let n := s.uniNat tyN32 t
  .next (if s.wv.wkp then (s.updWv fun w => { w with wkp := false }).done
    else s.park s.active fun _ => .sleep (if n = 0 then none else some (s.sleepNow s.issue.wave + n)))

def Lane.sleeping (l : Lane) : Bool :=
  l.st == .parked && (match l.wait with | .sleep _ => true | _ => false)
/-- A wake reaches a wave. -/
def Wave.wake (w : Wave) : Wave :=
  if w.lanes.any Lane.sleeping then w.mapLanes fun _ l => if l.sleeping then l.resume else l else { w with wkp := true }

def execWake (w : Opnd) (s : State) : Outcome :=
  let n := s.uniNat tyN32 w
  .next (if !s.settled then s.stall
    else
      ((s.wavesOf s.wv.wg).foldl (fun t i =>
        if n = 0xFFFFFFFF ∨ (t.waveAt i).num = n then t.updWave i Wave.wake else t) s).done)

/-- Event (R287): the timed sleeps of wave `w` that are due end. -/
def execSleepTimeout (w : Nat) (s : State) : Outcome :=
  let now := s.sleepNow w
  .next (s.updWave w fun wv => wv.mapLanes fun _ l =>
    match l.wait with
    | .sleep (some d) => if l.st == .parked && decide (d ≤ now) then l.resume else l
    | _ => l)

/-! ## opfence (R288) -/

def execOpfence (s : State) : Outcome := .next (s.updWv fun w => { w with opfence := true }).done

end Sys2Proof.Machine
end

