-- ==== Sys2Proof/Machine/Merge.lean ====
section
/-! DEFINITION. Folds and merges of merged determinism (15_determinism.md R405, R406), and the ends of threads, workgroups and tasks
(04_control.md R145, 12_async_engines.md R342, 14_tasks_placement.md R379, R385). -/
namespace Sys2Proof.Machine

/-! ## Write sets (R405, R406) -/

/-- Indexes of the workgroups of a gang, in ascending workgroup number, the ended ones too. -/
def State.gangMembers (s : State) (task : Dword) (num size : Nat) : List Nat :=
  ((List.range size).map (· + num * size)).filterMap fun n =>
    (List.range s.wgs.length).find? fun i => (s.wgAt i).task == task && (s.wgAt i).num == n

/-- A conflict: the key, and the two workgroups that the fault names. -/
structure Conflict where
  key : Nat
  wa : Nat
  wb : Nat
  deriving DecidableEq, Repr, Inhabited

/-- The sets of (number, bytes) that hold a byte, in the order given. -/
def holders (sets : List (Nat × Cells 15)) (k : Nat) : List (Nat × Byte) :=
  sets.filterMap fun e =>
    let c := cget (zeros 15) e.2 k
    if c.getLsbD 8 then some (e.1, c.setWidth 8) else none

/-- The conflict of an address: the lowest holder, and the lowest holder whose value differs. -/
def conflictAt (sets : List (Nat × Cells 15)) (k : Nat) : Option Conflict :=
  match holders sets k with
  | [] => none
  | (wa, v) :: hs => (hs.find? fun h => h.2 != v).map fun h => { key := k, wa := wa, wb := h.1 }

/-- The conflict at the lowest address among the sets. -/
def firstConflict (sets : List (Nat × Cells 15)) : Option Conflict :=
  (sets.flatMap fun e => e.2.filterMap fun c => conflictAt sets c.1).foldl (fun best c =>
    match best with
    | none => some c
    | some b => if c.key < b.key then some c else some b) none

/-- Write sets folded into a merged set, the later workgroups over the earlier. -/
def foldInto (g : Cells 47) (sets : List (Nat × Cells 15)) : Cells 47 :=
  sets.foldl (fun g e => e.2.foldl (fun g c =>
    cset (zeros 47) g c.1 (c.2.setWidth 47 ||| BitVec.ofNat 47 (e.1 * 2 ^ 15))) g) g

def State.writeSets (s : State) (ms : List Nat) : List (Nat × Cells 15) := ms.map fun i => ((s.wgAt i).num, (s.wgAt i).wset)
def State.clearWrites (s : State) (ms : List Nat) : State :=
  ms.foldl (fun s i => s.updWg i fun g => { g with wset := [], wpool := [] }) s

/-- The bytes of a merged set as a write set, and the owner of a byte. -/
def gsetBytes (g : Cells 47) : Cells 15 := g.map fun e => (e.1, e.2.setWidth 15)
def gsetOwner (g : Cells 47) (k : Nat) : Nat := (cget (zeros 47) g k).toNat / 2 ^ 15

/-! ## dmerge (R405, R406, R410) -/

/-- Every lane of every wave of the gang is parked at a dmerge or exited. -/
def State.gangParked (s : State) (ms : List Nat) : Bool :=
  s.waves.all fun w => !(w.live && ms.contains w.wg) || w.lanes.all fun l => l.st == .exited || (l.st == .parked && l.wait == .dmerge)

/-- The waves of a fold that met a conflict fault at their dmerge, with their parked lanes as the primary mask. -/
def State.foldFaults (s : State) (ms : List Nat) (c : Conflict) : State :=
  ((List.range s.waves.length).filter fun i => (s.waveAt i).live && ms.contains (s.waveAt i).wg).foldl (fun s i =>
    let m := maskOf fun L => ((s.waveAt i).lane L).st == .parked
    if m = 0 then s
    else
      let loc := ((s.waveAt i).lane ((lanesOf m).headD 0)).pc
      let s := s.updWave i fun w => w.mapLanes fun L l => if inMask m L then { l with st := .running, wait := .none } else l
      s.faultAt i m loc { code := 0x30, tag := dw (c.wa * 2 ^ 32 + c.wb) } m 0 (dw (c.key % 2 ^ 41))) s

/-- The fold of a gang at a dmerge, and the release of its lanes. -/
def State.foldGang (s : State) (task : Dword) (num : Nat) (ms : List Nat) : State :=
  match firstConflict (s.writeSets ms) with
  | some c => s.foldFaults ms c
  | none =>
    let sets := s.writeSets ms
    let pool := ms.flatMap fun i => (s.wgAt i).wpool
    let s := (s.clearWrites ms).updGang task num fun g =>
      { g with gset := foldInto g.gset sets, gpool := (g.gpool ++ pool).eraseDups, folds := g.folds + 1 }
    let s := { s with waves := s.waves.map fun w =>
      if w.live && ms.contains w.wg then w.mapLanes fun _ l => if l.st == .parked then l.resume else l else w }
    ((List.range s.waves.length).filter fun i => (s.waveAt i).live && ms.contains (s.waveAt i).wg).foldl
      (fun s i => s.l1Acquire (globalCore (s.waveAt i).die (s.waveAt i).core)) s

/-- The gang of a wave may fold now. -/
def State.gangReady (s : State) (w : Nat) : Bool :=
  let wg := (s.waveAt w).wg
  let t := s.taskOfWg wg
  let ms := s.gangMembers t.handle ((s.wgAt wg).gangNum t) t.launch.gang
  decide (2 ≤ t.launch.dmode) && (s.waveAt w).live && !(s.waveAt w).faulted &&
  ((s.waveAt w).lanes.any fun l => l.st == .parked && l.wait == .dmerge) && s.gangParked ms

/-- Event (R405). -/
def execGangFold (w : Nat) (s : State) : Outcome :=
  let wg := (s.waveAt w).wg
  let t := s.taskOfWg wg
  let num := (s.wgAt wg).gangNum t
  .next (if s.gangReady w then s.foldGang t.handle num (s.gangMembers t.handle num t.launch.gang) else s)

/-! ## The end of a task -/

/-- The folded sets of the gangs of a task, ascending. -/
def State.foldedGangs (s : State) (t : Task) : List (Nat × Cells 47) :=
  (List.range (t.launch.grid / max 1 t.launch.gang)).map fun n =>
    let ms := s.gangMembers t.handle n t.launch.gang
    let old := ((s.gangs.find? fun g => g.task == t.handle && g.num == n).map Gang.gset).getD []
    (n, foldInto old (s.writeSets ms))

/-- The conflict that the end of a task names (R406): the lowest address over both kinds, a conflict inside a gang first. -/
def State.taskConflict (s : State) (t : Task) : Option Conflict :=
  let inside := (List.range (t.launch.grid / max 1 t.launch.gang)).filterMap fun n =>
    firstConflict (s.writeSets (s.gangMembers t.handle n t.launch.gang))
  let gs := s.foldedGangs t
  let across := (firstConflict (gs.map fun g => (g.1, gsetBytes g.2))).map fun c =>
    { c with wa := gsetOwner ((gs.lookup c.wa).getD []) c.key, wb := gsetOwner ((gs.lookup c.wb).getD []) c.key }
  let best := inside.foldl (fun b c =>
    match b with
    | none => some c
    | some x => if c.key < x.key then some c else some x) none
  match best, across with
  | some a, some b => if b.key < a.key then some b else some a
  | some a, none => some a
  | none, b => b

/-- The token under which the writes of merges are on their way. -/
def mergeToken : Dword := BitVec.allOnes 64
/-- A write of a merge to another device's memory leaves as a message of a die (R242). -/
def State.sendMerge (s : State) (t : Task) (die fdn key : Nat) (va : Dword) (fx : WriteFx) : State :=
  let m : Msg :=
    { id := s.nextId, st := .sent, wave := mergeToken, srcDie := die, core := none, home := keyDie key, dpa := keyDpa key, va := va,
      user := t.user, tfdn := some (BitVec.ofNat 8 fdn), fx := fx, loc := default, cause := 0, invs := [], tile := none,
      cmd := none, coff := 0, release := false, acq := none, keyid := 0 }
  { s with msgs := s.msgs ++ [m], nextId := s.nextId + 1 }
/-- One held reduction of a workgroup is applied (R405 step 3). What its home turns away now it does not perform, and its home logs it: no wave is
left to take the cause. -/
def State.applyRed (s : State) (t : Task) (die : Nat) (r : Reduction) : State :=
  match r.window, r.tfdn with
  | some n, _ =>
    (match s.windowSlot n with
     | some w => s.contribute w r.va.toNat die t.ctx none r.v
     | none => s)
  | none, some f => s.sendMerge t die f r.key r.va (.rmw r.op r.ty [r.v])
  | none, none =>
    let c := if s.frameDenies t.user r.key then 0x27 else if s.uncorr r.key then 0x80 else 0
    if c = 0 then (s.meetKey r.key r.ty.bytes r.keyid).homeRmw r.key r.op r.ty [(r.v, 0)] else s.logDenial (keyDie r.key) r.va.toNat 0 0xFFFF die c s.fdn

/-- One byte of a merged set is written, under the key ID of its page; one of another device from the die of the gang's first workgroup. -/
def State.mergeByte (s : State) (t : Task) (die : Nat) (e : Nat × BitVec 47) : State :=
  if 2 ^ 41 ≤ e.1 then s.sendMerge t die (e.1 / 2 ^ 41 - 1) (e.1 % 2 ^ 41) 0 (.bytes [e.2.setWidth 8])
  else (s.meetKey e.1 1 (e.2.toNat / 512 % 64)).homeWrite e.1 [e.2.setWidth 8]
/-- The merge of a task into memory (R405 steps 1-3). -/
def State.mergeTask (s : State) (t : Task) : State :=
  (s.foldedGangs t).foldl (fun s g =>
    let die := (s.wgAt ((s.gangMembers t.handle g.1 t.launch.gang).headD 0)).die
    let s := g.2.foldl (fun s e => s.mergeByte t die e) s
    (s.gangMembers t.handle g.1 t.launch.gang).foldl (fun s i => (s.wgAt i).reds.foldl (fun s r => s.applyRed t (s.wgAt i).die r) s) s) s

/-- What the task held besides its entry goes. -/
def State.dropTaskState (s : State) (h : Dword) : State :=
  { s with gangs := s.gangs.filter fun g => g.task != h
           wgs := s.wgs.map fun g => if g.task == h then g.cleared else g }

/-- The record of a merge conflict at the end of a task (R406): no wave remains. -/
def conflictRec (t : Task) (c : Conflict) : FaultRec :=
  { eventRec 0x30 (dw (c.wa * 2 ^ 32 + c.wb)) with event := false, task := t.handle, addr := dw (c.key % 2 ^ 41) }

/-- Once the writes of its merge have performed, a task is DONE: they are kept before the signals to its successors (R405). -/
def State.signalMerged (s : State) (h : Dword) : State :=
  if (s.msgs.any fun m => m.wave == mergeToken) || !s.held.isEmpty then s else s.taskDone h
/-- A task whose last workgroup has ended: the merge under merged determinism, then DONE (R379, R405, R406). -/
def State.endTask (s : State) (h : Dword) : State :=
  match s.taskOf h with
  | none => s
  | some t =>
    if 2 ≤ t.launch.dmode then
      match s.taskConflict t with
      | some c => (s.dropTaskState h).taskFaultEnd h (conflictRec t c)
      | none => (((s.mergeTask t).dropTaskState h).updTask h fun t => { t with merging := true }).signalMerged h
    else (s.dropTaskState h).taskDone h

/-! ## The end of a workgroup -/

/-- The charge of a workgroup is taken off its die (R385). -/
def State.uncharge (s : State) (wi : Nat) : State :=
  let g := s.wgAt wi
  (s.setDie g.die fun d => { d with chg := (List.range 32).map fun v => d.chg.getD v 0 - g.cost.getD v 0 }).updWg wi
    fun g => { g with cost := [] }

/-- An L1 line holds words of a workgroup's waves. -/
def State.ownLine (s : State) (wi : Nat) (l : L1Line) : Bool := l.sp == 2 && (s.wavesOf wi).any fun i => (s.waveAt i).token == l.owner
/-- The lines of a workgroup's own words are dropped, dirty ones without write-back (R252). -/
def State.dropOwnLines (s : State) (wi : Nat) : State := { s with l1 := s.l1.filter fun l => !s.ownLine wi l }

/-- The waves of a workgroup leave their slots; what belongs to them goes with them. -/
def State.freeWaves (s : State) (wi : Nat) : State :=
  let toks := (s.wavesOf wi).map fun i => (s.waveAt i).token
  { s with
    waves := s.waves.map fun w => if w.wg == wi then { w with live := false } else w
    bindings := s.bindings.filter fun b => b.wg != wi
    fabReqs := s.fabReqs.filter fun r => !toks.contains r.owner
    spans := s.spans.filter fun e => !toks.contains e.wave
    quern := s.quern.filter fun q => !toks.contains q.wave }

/-- A workgroup leaves its cluster now (R388). -/
def State.leaveCluster (s : State) (wi : Nat) : State :=
  s.setDie (s.wgAt wi).die fun d => { d with idle := updAt d.idle ((s.wgAt wi).core / 4) fun _ => s.cycle }

/-- A workgroup ends (R145): its task's last one ends the task. -/
def State.endWg (s : State) (wi : Nat) : State :=
  let h := (s.wgAt wi).task
  let s := (((s.dropOwnLines wi).uncharge wi).freeWaves wi).leaveCluster wi
  let s := s.updWg wi fun g => { g with st := .ended }
  let s := s.updTask h fun t => { t with ended := t.ended + 1 }
  match s.taskOf h with
  | some t => if t.launch.grid ≤ t.ended then s.endTask h else s
  | none => s

/-! ## The end of a thread (R145) -/

/-- A store that raised NOTIFY was made by one of the active lanes. -/
def State.ownPub (s : State) (p : Word × Dword × Mask) : Bool := p.2.1 == dw s.wv.num && (p.2.2 &&& s.active) != 0
/-- Entry `i` of a binding was published by an active lane, or by no store of a thread. -/
def State.ownEntry (s : State) (b : Binding) (i : Word) : Bool :=
  match b.pubs.find? fun p => decide (0 < (p.1 - i).toInt) with
  | some p => s.ownPub p
  | none => true
/-- Every engine command that the active lanes have issued has written its record (R145). -/
def State.engineQuiet (s : State) : Bool :=
  s.bindings.all fun b => b.wg != s.wv.wg ||
    (!(s.cmds.any fun c => c.wg == b.wg && c.handle == b.handle && s.ownEntry b c.seq) &&
     !(b.pubs.any fun p => s.ownPub p && decide (0 < (p.1 - b.head).toInt) && !b.halted && (b.st == 1 || decide (0 < (b.stopAt - b.head).toInt))))
/-- Every command that a workgroup has published has written its record: it does not end before (R342). -/
def State.wgEngineQuiet (s : State) (wi : Nat) : Bool :=
  !(s.cmds.any fun c => c.wg == wi) &&
  s.bindings.all fun b => !(b.wg == wi && b.st == 1) ||
    natOfBytes ((s.wgAt wi).read b.ctl 4) == natOfBytes ((s.wgAt wi).read (b.ctl + 4) 4)
/-- Stores of an instruction have raised NOTIFY of bindings of the workgroup. -/
def State.notePubs (s t : State) : State :=
  if s.bindings.isEmpty then t
  else
    let word := fun (x : State) (b : Binding) => w32 (natOfBytes ((x.wgAt b.wg).read b.ctl 4))
    { t with bindings := t.bindings.map fun b =>
        if b.wg = s.wv.wg ∧ word t b ≠ word s b then { b with pubs := b.pubs ++ [(word t b, dw s.wv.num, s.active)] } else b }

/-- The release test of the rejoin masks (R150). -/
def Wave.rejoinTest (w : Wave) : Wave :=
  (List.range 8).foldl (fun w k =>
    let e := w.enr.getD k 0
    let p := w.prk.getD k 0
    if e ≠ 0 ∧ e &&& ~~~p = 0 then
      { w.mapLanes (fun L l => if inMask p L && l.st == .parked then l.resume else l) with
        enr := updAt w.enr k fun _ => 0, prk := updAt w.prk k fun _ => 0 }
    else w) w

/-- A lane leaves the continuation: its frames down to the continuation's are dropped, and it resumes at RPC (R442). -/
def dropCont : List Frame → List Frame
  | [] => []
  | f :: fs => if f.cont then f :: fs else dropCont fs
def Lane.leaveCont (l : Lane) (p : Loc) (fb : Option Nat) : Lane :=
  let r := dropCont l.frames
  let f := r.headD default
  { l with st := .running, wait := .none, frames := r.tail, fb := fb.getD f.callerFb, pc := p, bpos := f.bpos }

/-- What words 0 to 2 of the frame at `fb` of a lane hold (R115); none when no load could read them. -/
def State.linkageAt (s : State) (L fb : Nat) : Option (Nat × Nat × Nat) :=
  match s.wordPlaces (s.accOf s.wv .priv true false) L fb 3 with
  | .ok ws =>
    if s.placeBad wordMod 12 (.words ws) then none
    else
      let u := ws.foldl (fun u w => u.meet w.2 4) s
      let bs := ws.flatMap fun w => u.wordRead s.gcore w.2.key
      some (natAt bs 0 4, natAt bs 4 4, natAt bs 8 4)
  | .error _ => none
/-- The frame base of a lane's continuation, below `fb` of its running frame. -/
def contFb : List Frame → Nat → Nat
  | [], fb => fb
  | f :: fs, fb => if f.cont then fb else contFb fs f.callerFb
/-- The wave's continuation may end: every lane of CMASK is parked at a contret and CSIG = 1. -/
def Wave.contOver (w : Wave) : Bool :=
  w.incont && w.csig && w.cmask != 0 && (lanesOf w.cmask).all fun L => (w.lane L).st == .parked && (w.lane L).wait == .contret
/-- The end of a continuation (R442): the lanes resume at RPC with the frame bases of their frames, and the read of CSIG is an acquire at scope 6. -/
def State.contTest (s : State) (i : Nat) : State :=
  let w := s.waveAt i
  if w.contOver then
    let x : State := { s with issue := { s.issue with wave := i } }
    (s.updWave i fun w =>
      { w.mapLanes (fun L l => if inMask w.cmask L then l.leaveCont w.rpc ((x.linkageAt L (contFb l.frames l.fb)).map fun e => e.2.2) else l) with
        incont := false, csig := false }).l1Acquire (globalCore w.die w.core)
  else s

/-- Lanes of a mask leave the wave for good: struck from every rejoin mask and from the continuation's lanes. -/
def Wave.exitLanes (w : Wave) (m : Mask) : Wave :=
  let w : Wave :=
    { w.mapLanes (fun L l => if inMask m L then { l with st := .exited, wait := .none } else l) with
      enr := w.enr.map (· &&& ~~~m), prk := w.prk.map (· &&& ~~~m), cmask := w.cmask &&& ~~~m }
  ({ w with incont := w.incont && w.cmask != 0 } : Wave).rejoinTest

def Wave.allExited (w : Wave) : Bool := w.lanes.all fun l => l.st == .exited

/-- The active lanes end their threads: the wait for their accesses and commands, the pending fault, the strike, and the end of the
workgroup with its last lane. -/
def State.exitThreads (s : State) : State :=
  let last := (s.wavesOf s.wv.wg).all fun i => (s.waveAt i).lanes.zipIdx.all fun l => l.1.st == .exited || (i == s.issue.wave && inMask s.active l.2)
  if !s.settled || !s.engineQuiet || (last && !s.wgEngineQuiet s.wv.wg) then s.stall
  else
    match s.deliverPend with
    | some s' => s'
    | none =>
      let t := (s.updWv fun w => (w.exitLanes s.active).issued).contTest s.issue.wave
      if (t.wavesOf s.wv.wg).all fun i => (t.waveAt i).allExited then t.endWg s.wv.wg else t

end Sys2Proof.Machine
end

