-- ==== Sys2Proof/Machine/Control.lean ====
section
/-! DEFINITION. The control and linkage instructions (04_control.md R139-R157) with the call convention of R115 and the migration of
R131. -/
namespace Sys2Proof.Machine

/-! ## Branches (R140) -/

def execBr (t : Target) (s : State) : Outcome := .next (s.branch fun _ => (0, t))
def execBrc (c : Opnd) (t f : Target) (s : State) : Outcome :=
  .next (s.branch fun L => if elemAt (s.opnd tyB1 c L) 1 0 = 1 then (0, t) else (1, f))
/-- The selector in its own signedness chooses a case, or the default. -/
def execBrsw (ty : Ty) (sel : Opnd) (d : Target) (cases : List Target) (s : State) : Outcome :=
  .next (s.branch fun L =>
    let e := Ty.elem ty
    let x := toI e (elemAt (s.opnd ty sel L) e.width 0)
    if 0 ≤ x ∧ x < cases.length then (x.toNat + 1, cases.getD x.toNat d) else (0, d))

/-! ## Calls (R141-R146) -/

/-- A retranslation (R129): it counts in RETRCNT and may write event 0x12, and the wave waits for the image. -/
def State.retranslate (s : State) (wi h : Nat) (k : TransKey) : State :=
  let w := s.waveAt wi
  let s := s.dieSet w.die 0x022 ((s.dieGet w.die 0x022 + 1) &&& 0xFFFFFFFF)
  let s := s.updWave wi fun w => { w with migrate := true, retr := some k }
  let s := if bit (s.dieGet w.die 0x020) 1 then
      s.notice (s.taskOfWg w.wg).ctx { eventRec 0x12 (dw w.budget) with die := w.die, wave := w.token }
    else s
  if (s.freshImage w.die k).isSome ∨ s.transReqs.any fun r => r.die == w.die && r.key == k && r.waiters.contains w.token then s
  else s.joinTrans w h k

/-- A user task reaches a function of a system module (R415). -/
def State.crosses (s : State) (h : Nat) : Bool := s.task.user && (s.moduleOf h).any fun m => !m.user

/-- Lanes that reached a resolver stub stop before the call, and the request joins the loader's queue (R148). -/
def State.askResolve (s : State) (m : Mask) (stub : Nat → Nat × Nat) : State :=
  let s := s.updWv fun w => w.mapLanes fun L l =>
    if inMask m L then { l with st := .parked, wait := .resolve (stub L).1 (stub L).2, after := s.issue.here } else l
  let reqs := ((lanesOf m).map stub).eraseDups.map fun e => LoadReq.resolve s.wv.token e.1 e.2
  { s with loads := s.loads ++ reqs.filter fun r => !s.loads.contains r }

/-- The words of a lane's callee frame that a call writes (R115): handle and function of the caller, and its budget and the map point of the return
bundle, which name that bundle; the caller's frame base. -/
def State.calleeFb (s : State) (L : Nat) : Nat := (s.wv.lane L).fb + s.locFrame s.wv s.issue.here
def State.linkPlaces (s : State) (L : Nat) : Except Cause (List (Nat × Phys)) :=
  s.wordPlaces (s.accOf s.wv .priv false true) L (s.calleeFb L) 3
def State.linkBytes (s : State) (L : Nat) : List Byte :=
  let p := s.issue.loc
  wordsBytes 4 [p.handle * 2 ^ 16 + p.func, p.bud / 8 * 2 ^ 24 + s.mapOf s.wv s.after, (s.wv.lane L).fb]
/-- Bytes over words of a lane of the issuing wave that have their places. -/
def State.wordsPut (s : State) (ws : List (Nat × Phys)) (bs : List Byte) : State :=
  (ws.foldl (fun t w => t.touch (s.accOf s.wv .priv false true) w.1 w.2) s).wordsWrite .dflt bs ws

/-- A call of any form: `callee L` is what lane `L` reaches, or its cause. The address is that of a descriptor read that fails. -/
def State.callWith (s : State) (tys : List Ty) (args : List Opnd) (tail : Bool) (addr : Nat → Nat)
    (callee : Nat → Except Cause Callee) : State :=
  match s.laneFault (fun L => errOf (callee L)) (fun L => if (errOf (callee L)).any fun c => c.tag != 0 then 0 else addr L) with
  | some s' => s'
  | none =>
    let fn := fun L => match callee L with
      | .ok (.func h f) => some (h, f)
      | _ => none
    let stub := fun L => match callee L with
      | .ok (.stub h e) => some (h, e)
      | _ => none
    let missing := (s.activeLanes.filterMap fn).eraseDups.filter fun c => (s.freshImage s.wv.die (s.transKey s.wv c.1 c.2)).isNone
    if !missing.isEmpty then missing.foldl (fun s c => s.requestTrans s.issue.wave c.1 (s.transKey s.wv c.1 c.2)) s
    else if s.activeLanes.any fun L => (fn L).any fun c => s.callOver s.wv (s.wv.lane L) c.1 c.2 tail then s.faultAll (cause 0x25)
    else
      let links := fun (L : Nat) => if tail || (fn L).isNone then .ok [] else s.linkPlaces L
      match s.laneFault (fun L => errOf (links L)) s.calleeFb with
      | some s' => s'
      | none =>
        let fsize := s.locFrame s.wv s.issue.here
        let stubs := maskOf fun L => inMask s.active L && (stub L).isSome
        let t := s.activeLanes.foldl (fun t L =>
          match fn L, links L with
          | some _, .ok ws => t.wordsPut ws (s.linkBytes L)
          | _, _ => t) s
        let t := t.updWv fun w => (w.mapLanes fun L l =>
          match if inMask s.active L then fn L else none with
          | some c =>
            l.enterFunc (s.blockLoc w.budget c.1 c.2 0 0) (l.targetArgs tys args) s.after s.issue.loc.vnum fsize s.issue.loc.bud (l.bpos + 1)
              tail false
          | none => l)
        let t := if s.activeLanes.any fun L => (fn L).isSome then t.updWv Wave.issued else t
        if stubs = 0 then t else t.askResolve stubs fun L => (stub L).getD (0, 0)

/-- The signature of a function of the running module, and one of its signature table. -/
def State.sigOfFunc (s : State) (f : Nat) : SigInfo := ((s.funcOf s.issue.loc.handle f).map FuncInfo.sig).getD default
def State.sigAt (s : State) (i : Nat) : SigInfo := ((s.moduleOf s.issue.loc.handle).bind fun m => m.sigs[i]?).getD default
/-- The signature that a linkage entry names. -/
def State.sigOfLink (s : State) (i : Nat) : SigInfo :=
  (((s.moduleOf s.issue.loc.handle).bind fun m => m.links[i]?).bind LinkInfo.sig).getD default

/-- The callee of call and tcall: a function of the running module. -/
def State.localCallee (s : State) (f : Nat) : Except Cause Callee :=
  if s.crosses s.issue.loc.handle then .error (causeT 0x21 5) else .ok (.func s.issue.loc.handle f)

def execCall (fidx : BitVec 30) (args : List Opnd) (s : State) : Outcome :=
  let sig := s.sigOfFunc fidx.toNat
  .next (s.callWith sig.params args false (fun _ => 0) fun _ => s.localCallee fidx.toNat)
def execTcall (fidx : BitVec 30) (args : List Opnd) (s : State) : Outcome :=
  let sig := s.sigOfFunc fidx.toNat
  .next (s.callWith sig.params args true (fun _ => 0) fun _ => s.localCallee fidx.toNat)
/-- A call through descriptors at the addresses `a L`: it waits for their reads, which are 16-byte loads (R143, R265), and the walker's updates stand
whether or not it faults (R237). -/
def State.callDesc (s : State) (tys : List Ty) (args : List Opnd) (tail : Bool) (sig : SigInfo) (a : Nat → Nat) : State :=
  let acc := s.accOf s.wv .global true false
  let pls := s.activeLanes.filterMap fun L => (s.laneLoc .global true false L (a L) 16 16).toOption
  let asks := fabAsks descMod pls
  if s.mustWait descMod false 16 pls then s.stall
  else if !s.fabReady s.wv.token s.issue.loc asks then s.fabAskAll s.wv.die s.wv.token s.issue.loc asks
  else
    let t := s.walked acc (s.activeLanes.flatMap fun L => s.laneVas .global L (a L) 16 16)
    (t.callWith tys args tail a fun L => s.calleeAt s.wv sig (a L) 2).fabDrop s.wv.token s.issue.loc
def execCallx (sidx : BitVec 30) (addr : Opnd) (args : List Opnd) (s : State) : Outcome :=
  let sig := s.sigAt sidx.toNat
  .next (s.callDesc sig.params args false sig fun L => (s.opnd tyA64 addr L).toNat)
def execTcallx (sidx : BitVec 30) (addr : Opnd) (args : List Opnd) (s : State) : Outcome :=
  let sig := s.sigAt sidx.toNat
  .next (s.callDesc sig.params args true sig fun L => (s.opnd tyA64 addr L).toNat)
/-- R147: the linkage entry is read as an acquire at package scope. -/
def execCalll (lidx : BitVec 30) (args : List Opnd) (s : State) : Outcome :=
  let sig := s.sigOfLink lidx.toNat
  let h := s.issue.loc.handle
  let t := s.l1Acquire s.gcore
  .next (if t.linkBad h lidx.toNat then
      t.fault (cause 0x80) t.active 0 ((((t.moduleOf h).map Module.linkBase).getD 0).toNat + 8 * lidx.toNat)
    else t.callDesc sig.params args false sig fun _ => t.linkEntry h lidx.toNat)

/-- The call of a wave's continuation (R430), as callx makes it (R115, R143), with RPC as its return bundle. It waits for its descriptor, its function's
resolution and its translation; where it faults itself, the original fault is delivered. -/
def State.contStep (s : State) (i : Nat) : State :=
  let w := s.waveAt i
  match w.contAsk with
  | none => s
  | some (m, loc, r, asked) =>
    let issue := s.issue
    let back := fun (t : State) => { t with issue := issue }
    let s : State := { s with issue := { s.issue with wave := i, mask := m, loc := loc, here := loc, next := loc, gos := [], dsts := [], srcs := [], yt := none } }
    let fail := fun (t : State) => back ((t.fabDrop w.token loc).takeFault i m loc r)
    let a := w.contfn.toNat
    let pls := s.activeLanes.filterMap fun L => (s.laneLoc .global true false L a 16 16).toOption
    let asks := fabAsks descMod pls
    if w.xfail.isSome then fail (s.updWave i fun w => { w with xfail := none })
    else if s.mustWait descMod false 16 pls then back s
    else if !s.fabReady w.token loc asks then back (s.fabAskAll w.die w.token loc asks)
    else
      let t := s.walked (s.accOf w .global true false) (s.activeLanes.flatMap fun L => s.laneVas .global L a 16 16)
      match t.calleeAt w contSig a 2 with
      | .error _ => fail t
      | .ok (.stub h e) =>
        let q := LoadReq.resolve w.token h e
        if s.loads.contains q then back s
        else if asked then fail t
        else back (({ t with loads := t.loads ++ [q] } : State).updWave i fun w => { w with contAsk := some (m, loc, r, true) })
      | .ok (.func h f) =>
        let k := t.transKey w h f
        if (t.freshImage w.die k).isNone then back (t.requestTrans i h k)
        else if s.activeLanes.any fun L => t.callOver w (w.lane L) h f false || (errOf (t.linkPlaces L)).isSome then fail t
        else
          let r := { r with cont := true }
          let t := (t.blockPut i 0x340 r.bytes).notice (t.taskOfWg w.wg).ctx r
          let t := s.activeLanes.foldl (fun t L =>
            match t.linkPlaces L with
            | .ok ws => t.wordsPut ws (t.linkBytes L)
            | .error _ => t) t
          back ((t.fabDrop w.token loc).updWave i fun w =>
            { w.mapLanes (fun L l =>
                if inMask m L then
                  l.enterFunc (s.blockLoc w.budget h f 0 0) [w.contarg.setWidth 256] loc 0 (s.locFrame w loc) loc.bud l.bpos false true
                else l) with
              incont := true, csig := false, cmask := m, rpc := loc, frec := some r, contAsk := none })

/-- contret for the active lanes (R442): they park, and the continuation ends once it may. -/
def State.contReturn (s : State) : State :=
  if !s.wv.incont || (s.active &&& ~~~s.wv.cmask) != 0 then s.faultAll (causeT 0x62 0xFFFFFFFE)
  else (s.park s.active fun _ => .contret).contTest s.issue.wave

/-- A lane returns to its caller with results (R115, R144): to a place, with its BPOS, and a frame base. -/
def Lane.ret (l : Lane) (vs : List Val) (p : Loc × Nat) (fb : Nat) : Lane :=
  { ({ l with frames := l.frames.tail, fb := fb } : Lane).setVals (l.frames.headD default).dst vs with pc := p.1, bpos := p.2 }
def State.linkage (s : State) (L : Nat) : Option (Nat × Nat × Nat) := s.linkageAt L (s.wv.lane L).fb
/-- The bundle that words 0 and 1 name, with its number in its block: the one at which the call noted that it returns, or another return bundle of
a translation. Where they name none, the call's own note stands. -/
def State.returnTo (s : State) (f : Frame) (w : Nat × Nat) : Loc × Nat :=
  let note := (f.ret.getD default, f.bpos)
  let p : Loc := { note.1 with handle := w.1 / 2 ^ 16, func := w.1 % 2 ^ 16, bud := w.2 / 2 ^ 24 * 8 }
  match s.locImage s.wv p with
  | none => note
  | some i =>
    match i.plan.findIdx? fun b => b.map == some (w.2 % 2 ^ 16) with
    | none => note
    | some n => if n = note.1.bun ∧ p = note.1 then note else (i.bunLoc p n, ((i.plan[n]?).map Bundle.cyc).getD 0)
/-- Where lane `L` returns to, and its frame base there. -/
def State.returnOf (s : State) (L : Nat) : (Loc × Nat) × Nat :=
  let f := (s.wv.lane L).frames.headD default
  match s.linkage L with
  | some w => (s.returnTo f (w.1, w.2.1), w.2.2)
  | none => ((f.ret.getD default, f.bpos), f.callerFb)

/-- The translation that holds the bundle that words 0 and 1 name is not in the cache: lane `L` waits for it (R115, R127). -/
def State.returnMiss (s : State) (L : Nat) : Option (Nat × TransKey) :=
  match s.linkage L with
  | none => none
  | some w =>
    let h := w.1 / 2 ^ 16
    let p : Loc := { (((s.wv.lane L).frames.headD default).ret.getD default) with handle := h, func := w.1 % 2 ^ 16, bud := w.2.1 / 2 ^ 24 * 8 }
    if (s.funcOf h p.func).isSome && (s.locImage s.wv p).isNone then some (h, s.locKey s.wv p) else none

def Lane.inEntry (l : Lane) : Bool := (l.frames.headD default).ret.isNone
def Lane.inCont (l : Lane) : Bool := (l.frames.headD default).cont

/-- R145: lanes in the task's entry function end as by exit, those in a continuation's outermost frame as by contret, and the others
return; a caller's frame at another budget migrates before the bundle at the return point issues (R131). -/
def execRet (vs : List Opnd) (s : State) : Outcome :=
  let tys := ((s.funcOf s.issue.loc.handle s.issue.loc.func).map fun f => f.sig.results).getD []
  let ends := maskOf fun L => inMask s.active L && (s.wv.lane L).inEntry
  let conts := maskOf fun L => inMask s.active L && (s.wv.lane L).inCont
  let backs := s.active &&& ~~~ends &&& ~~~conts
  .next (
    if conts ≠ 0 then ({ s with issue := { s.issue with mask := conts } } : State).contReturn
    else if backs ≠ 0 then
      let gone := ((lanesOf backs).filterMap s.returnMiss).eraseDups
      if !gone.isEmpty then gone.foldl (fun s c => s.requestTrans s.issue.wave c.1 c.2) s
      else s.updWv fun w => (w.mapLanes fun L l => if inMask backs L then l.ret (l.targetArgs tys vs) (s.returnOf L).1 (s.returnOf L).2 else l).issued
    else s.exitThreads)

def execExit (s : State) : Outcome := .next s.exitThreads
def execUnreach (s : State) : Outcome := .next (s.faultAll { code := 0x62, tag := BitVec.allOnes 64 })

/-- R146: the address of a descriptor, and of a linkage entry, of the running module. -/
def execFnaddr (fidx : BitVec 30) (s : State) : Outcome :=
  .next (s.put fun _ =>
    ((((s.moduleOf s.issue.loc.handle).map Module.descBase).getD 0) + dw (16 * fidx.toNat)).setWidth 256)
def execLnkaddr (lidx : BitVec 30) (s : State) : Outcome :=
  .next (s.put fun _ =>
    ((((s.moduleOf s.issue.loc.handle).map Module.linkBase).getD 0) + dw (8 * lidx.toNat)).setWidth 256)

/-! ## Rejoin masks (R149, R150) -/

def execRjenrol (k : BitVec 30) (s : State) : Outcome :=
  .next (s.done.updWv fun w => ({ w with enr := updAt w.enr k.toNat (· ||| s.active) } : Wave).rejoinTest)
def execRjstrike (k : BitVec 30) (s : State) : Outcome :=
  .next (s.done.updWv fun w => ({ w with enr := updAt w.enr k.toNat (· &&& ~~~s.active) } : Wave).rejoinTest)
def execRjwait (k : BitVec 30) (s : State) : Outcome :=
  let out := s.active &&& ~~~(s.wv.enr.getD k.toNat 0)
  .next (if out ≠ 0 then s.fault (cause 0x71) out 0 0
    else
      (s.park s.active fun _ => .rejoin k.toNat).updWv fun w =>
        ({ w with prk := updAt w.prk k.toNat (· ||| s.active) } : Wave).rejoinTest)
def execRjmask (k : BitVec 30) (s : State) : Outcome := .next (s.put fun _ => (s.wv.enr.getD k.toNat 0).setWidth 256)

/-! ## Loop levels (R152-R155) -/

def State.loopLevels (s : State) : List LoopLevel :=
  ((s.funcOf s.issue.loc.handle s.issue.loc.func).map FuncInfo.loops).getD []
def State.loopLevel (s : State) (k : Nat) : LoopLevel := s.loopLevels.getD k default
def State.tripVal (s : State) (l : LoopLevel) : Nat := s.uniNat tyN32 l.trip % 2 ^ 32

/-- A spatial level's coordinate of the workgroup (R154), in the running function's table. -/
def State.loopCoord (s : State) (k : Nat) : Nat := spatialCoord s.loopLevels s.wg.num k

def execLpbeg (k : BitVec 30) (s : State) : Outcome :=
  let l := s.loopLevel k.toNat
  .next (if l.kind ≠ 0 then s.done
    else s.done.updWv fun w =>
      { w with idx := updAt w.idx k.toNat fun _ => 0, trip := updAt w.trip k.toNat fun _ => w32 (s.tripVal l) })
def execLpend (k : BitVec 30) (s : State) : Outcome :=
  .next (if (s.loopLevel k.toNat).kind ≠ 0 then s.done
    else s.done.updWv fun w => { w with idx := updAt w.idx k.toNat (· + 1) })
def execLpidx (ty : Ty) (k : BitVec 30) (s : State) : Outcome :=
  let l := s.loopLevel k.toNat
  let i := s.wv.idx.getD k.toNat 0
  let t := s.wv.trip.getD k.toNat 0
  .next (s.put fun _ =>
    if ty = tyB1 then valOfBool (l.kind != 0 || decide (i.toNat < t.toNat))
    else if l.kind ≠ 0 then BitVec.ofNat 256 (s.loopCoord k.toNat) else i.setWidth 256)

/-! ## Yield (R157) -/

def execYield (s : State) : Outcome :=
  .next (s.done.updWv fun w => { w with hold := s.cycle + 6, starve := 0, passTurn := s.ordered })

/-- Event (R157): the four cycles of the hold of wave `w` are over. -/
def execYieldHoldEnd (w : Nat) (s : State) : Outcome :=
  .next (s.updWave w fun v => if v.hold ≠ 0 ∧ v.hold ≤ s.cycle + 1 then { v with hold := 0 } else v)

end Sys2Proof.Machine
end

