-- ==== Sys2Proof/Machine/Grist.lean ====
section
/-! DEFINITION. Content-addressed regions (13_content_addressed.md R346-R372): names, entries and chains, lookup-or-allocate, reference
counts and the drop queue, trees, transactions, and the eight instructions with their events. -/
namespace Sys2Proof.Machine

/-! ## Regions (R346-R349) -/

/-- Bytes before the entry table, and of the whole region (R348). -/
def caTables (logn : Nat) : Nat := (4096 + 4 * 2 ^ logn + 65535) / 65536 * 65536
def caSize (logn : Nat) : Nat := caTables logn + 160 * 2 ^ logn
def CaRegion.entryVa (r : CaRegion) (slot : Nat) : Nat := r.base.toNat + caTables r.logn + 32 * slot
def CaRegion.lineVa (r : CaRegion) (slot : Nat) : Nat := r.base.toNat + caTables r.logn + 32 * 2 ^ r.logn + 128 * slot
def CaRegion.bucketVa (r : CaRegion) (name : Nat) : Nat := r.base.toNat + 4096 + 4 * (name / 2 ^ 8 % 2 ^ r.logn)
def CaRegion.zeroVa (r : CaRegion) : Nat := r.base.toNat + 0xF80

/-- The enabled region with this base, reached through a context. -/
def State.caAt (s : State) (ctx : Nat) (base : Dword) : Option CaRegion :=
  (s.ca.find? fun r => r.base == base).map fun r => { r with ctx := ctx }
/-- CARCn and its fields. -/
def State.carc (s : State) (n : Nat) : Dword := s.sysGet 0 (0x070 + n)
def State.caBusy (s : State) (r : CaRegion) : Bool := bit (s.carc r.slot) 62
def State.caLines (s : State) (r : CaRegion) : Nat := bits (s.carc r.slot) 0 32
def State.setLines (s : State) (r : CaRegion) (n : Nat) : State := s.sysSet 0 (0x070 + r.slot) (setBits (s.carc r.slot) 0 32 n)

/-- A cause with the address that its record names. -/
structure CaErr where
  code : Nat
  tag : Nat
  addr : Nat
  deriving DecidableEq, Repr, Inhabited

/-- The engine reaches a page of a region: mapped, CLASS 01, below the reservation, without error (R21, R364). -/
def State.caPage (s : State) (r : CaRegion) (va : Nat) : Except CaErr Phys :=
  match s.walk r.ctx va with
  | .error c => .error { code := c.code, tag := 0, addr := va }
  | .ok p =>
    if eClass p.leaf ≠ 1 ∨ eFab p.leaf ∨ Config.reservation ≤ p.dpa then .error { code := 0x21, tag := 0, addr := va }
    else if s.uncorr p.key then .error { code := 0x80, tag := 0, addr := va }
    else .ok p
def State.caRead (s : State) (r : CaRegion) (va n : Nat) : Except CaErr (List Byte) :=
  (s.caPage r va).map fun p => readBytes (s.meet p n).mem p.key n
def State.caWrite (s : State) (r : CaRegion) (va : Nat) (bs : List Byte) : Except CaErr State :=
  (s.caPage r va).map fun p => (s.meet p bs.length).homeWrite p.key bs
/-- A line is placed in a slot: no L1 keeps an older line of the slot, for a load from a slot whose line is present returns that line's
bytes (R359). -/
def State.caPlaceLine (s : State) (r : CaRegion) (slot : Nat) (line : List Byte) : Except CaErr State := do
  let p ← s.caPage r (r.lineVa slot)
  let t ← s.caWrite r (r.lineVa slot) line
  return { t with l1 := t.l1.filter fun l => !(l.sp == 3 && l.line == lineOf p.key) }

/-! ## Names and entries (R349-R351) -/

def zeroName : Nat := 1
/-- The region key of a key-store slot (R482). -/
def State.regionKey (s : State) (slot : Nat) : List Byte :=
  (hmac512 (bytesOfNat 64 s.trust.kss.toNat) [0x63, 0x61, BitVec.ofNat 8 slot]).take 32
/-- The hash of a line: bytes 0-14 of the keyed hash. -/
def State.lineHash (s : State) (r : CaRegion) (line : List Byte) : Nat := natOfBytes ((blake3Keyed (s.regionKey r.keyslot) line).take 15)

structure CaEnt where
  slot : Nat
  name : Nat
  count : Nat
  next : Nat
  live : Bool
  node : Bool
  deriving DecidableEq, Repr, Inhabited

def CaEnt.bytes (e : CaEnt) : List Byte :=
  bytesOfNat 16 e.name ++ bytesOfNat 4 e.count ++ bytesOfNat 4 e.next ++ bytesOfNat 4 (bitOf e.live + 2 * bitOf e.node) ++ bytesOfNat 4 0
def State.caEnt (s : State) (r : CaRegion) (slot : Nat) : Except CaErr CaEnt :=
  (s.caRead r (r.entryVa slot) 32).map fun bs =>
    { slot := slot, name := natAt bs 0 16, count := natAt bs 16 4, next := natAt bs 20 4, live := natAt bs 24 4 % 2 == 1,
      node := natAt bs 24 4 / 2 % 2 == 1 }
def State.putEnt (s : State) (r : CaRegion) (e : CaEnt) : Except CaErr State := s.caWrite r (r.entryVa e.slot) e.bytes

/-- A chain from a link. -/
def State.caChain (s : State) (r : CaRegion) : Nat → Nat → Except CaErr (List CaEnt)
  | 0, _ => .ok []
  | _ + 1, 0 => .ok []
  | n + 1, k + 1 => do
    let e ← s.caEnt r k
    let es ← s.caChain r n e.next
    return e :: es
/-- The chain of a name's bucket. -/
def State.caBucket (s : State) (r : CaRegion) (name : Nat) : Except CaErr (List CaEnt) := do
  let h ← s.caRead r (r.bucketVa name) 4
  s.caChain r (s.caLines r) (natOfBytes h)
/-- The entry of a present name. -/
def State.caFind (s : State) (r : CaRegion) (name : Nat) : Except CaErr (Option CaEnt) :=
  if name = 0 ∨ name = zeroName then .ok none
  else (s.caBucket r name).map fun es => es.find? fun e => e.live && e.name == name
/-- The entry of a name that must be present. -/
def State.caNeed (s : State) (r : CaRegion) (name : Nat) : Except CaErr CaEnt := do
  match ← s.caFind r name with
  | some e => return e
  | none => throw { code := 0x41, tag := 0, addr := 0 }

/-! ## Counts (R353) -/

def immortal : Nat := 0xFFFFFFFF

def State.countUp (s : State) (r : CaRegion) (e : CaEnt) (k : Nat) : Except CaErr State :=
  if e.count = immortal then .ok s else s.putEnt r { e with count := min (e.count + k) immortal }

/-- Children of a node line, by its bytes: the used ones that are neither null nor the zero line. -/
def lineChildren (line : List Byte) : List Nat := (List.range 7).map fun i => natAt line (16 + 16 * i) 16
def State.queueDrops (s : State) (r : CaRegion) (names : List Nat) : State :=
  { s with ca := s.ca.map fun x =>
      if x.slot == r.slot then { x with drops := x.drops ++ names.map (BitVec.ofNat 128) } else x }

/-- A line is freed: unlinked, not LIVE, and a node's children queued for a drop each. -/
def State.freeLine (s : State) (r : CaRegion) (e : CaEnt) : Except CaErr State := do
  let chain ← s.caBucket r e.name
  let s' ← match chain.find? fun x => x.next == e.slot + 1 && x.slot != e.slot with
    | some p => s.putEnt r { p with next := e.next }
    | none => s.caWrite r (r.bucketVa e.name) (bytesOfNat 4 e.next)
  let line ← s.caRead r (r.lineVa e.slot) 128
  let s'' ← s'.putEnt r { e with count := 0, live := false }
  let t := s''.setLines r (s.caLines r - 1)
  return if e.node then t.queueDrops r ((lineChildren line).filter fun c => c != 0 && c != zeroName) else t

def State.countDown (s : State) (r : CaRegion) (e : CaEnt) (k : Nat) : Except CaErr State :=
  if e.count = immortal then .ok s
  else if e.count < k then .error { code := 0x42, tag := 0, addr := 0 }
  else if e.count = k then s.freeLine r e
  else s.putEnt r { e with count := e.count - k }

/-! ## Lookup-or-allocate (R352) -/

/-- Slots of a region that a capture in progress keeps (R458): their lines were present at S. -/
def State.caKept (s : State) (r : CaRegion) : List Nat :=
  ((s.ckpt.regions.find? fun x => x.n == r.slot).map fun x => x.ents.map Prod.fst).getD []

/-- The first slot at or after `k` without a LIVE entry that no capture keeps; among the first LINES + 1 and the kept ones there is
one when the region has one. -/
def State.caFree (s : State) (r : CaRegion) : Nat → Nat → Except CaErr (Option Nat)
  | 0, _ => .ok none
  | n + 1, k =>
    if 2 ^ r.logn ≤ k then .ok none
    else do
      let e ← s.caEnt r k
      if e.live || (s.caKept r).contains k then s.caFree r n (k + 1) else return some k

/-- The LIVE entry that holds a line, among candidates. -/
def State.caSame (s : State) (r : CaRegion) (line : List Byte) (node : Bool) : List CaEnt → Except CaErr (Option CaEnt)
  | [] => .ok none
  | e :: es => do
    let x ← s.caRead r (r.lineVa e.slot) 128
    if x == line && e.node == node then return some e else s.caSame r line node es

/-- The name of a line, whether it is newly stored, and the state. -/
def State.lookupAlloc (s : State) (r : CaRegion) (line : List Byte) (node : Bool) : Except CaErr (Nat × Bool × State) :=
  if !node && line.all (· == 0) then .ok (zeroName, false, s)
  else do
    let h := s.lineHash r line
    let es := (← s.caBucket r (h * 256)).filter fun e => e.live && e.name / 256 == h
    match ← s.caSame r line node es with
    | some e =>
      let t ← s.countUp r e 1
      return (e.name, false, t)
    | none =>
      match (List.range 256).find? fun i => !(h == 0 && i ≤ 1) && !es.any fun e => e.name == h * 256 + i with
      | none => throw { code := 0x40, tag := 1, addr := 0 }
      | some i =>
        match ← s.caFree r (s.caLines r + 1 + (s.caKept r).length) 0 with
        | none => throw { code := 0x40, tag := 2, addr := 0 }
        | some k => do
          let name := h * 256 + i
          let head ← s.caRead r (r.bucketVa name) 4
          let s1 ← s.caPlaceLine r k line
          let s2 ← s1.putEnt r { slot := k, name := name, count := 1, next := natOfBytes head, live := true, node := node }
          let s3 ← s2.caWrite r (r.bucketVa name) (bytesOfNat 4 (k + 1))
          return (name, true, s3.setLines r (s.caLines r + 1))

/-! ## Trees (R354, R355) -/

structure CaHdr where
  total : Nat
  leaves : Nat
  efmt : Nat
  level : Nat
  fanout : Nat
  rsv : Nat
  deriving DecidableEq, Repr, Inhabited

def CaHdr.ofNat (x : Nat) : CaHdr :=
  { total := x / 2 ^ 80 % 2 ^ 48, leaves := x / 2 ^ 40 % 2 ^ 40, efmt := x / 2 ^ 26 % 64, level := x / 2 ^ 22 % 16, fanout := x / 2 ^ 19 % 8,
    rsv := x % 2 ^ 19 }

/-- What a node needs to know of a child: TOTAL, LEAVES, LEVEL, with 0 for a leaf. -/
def State.caShape (s : State) (r : CaRegion) (name : Nat) : Except CaErr (Nat × Nat × Nat) :=
  if name = zeroName then .ok (128, 1, 0)
  else do
    let e ← s.caNeed r name
    if e.node then
      let h := CaHdr.ofNat (natOfBytes (← s.caRead r (r.lineVa e.slot) 16))
      return (h.total, h.leaves, h.level)
    else return (128, 1, 0)
def State.caShapes (s : State) (r : CaRegion) : List Nat → Except CaErr (List (Nat × Nat × Nat))
  | [] => .ok []
  | n :: ns => do
    let x ← s.caShape r n
    let xs ← s.caShapes r ns
    return x :: xs

/-- Checks 1 and 2 of R355. -/
def CaHdr.checkHead (h : CaHdr) (cs : List Nat) : Bool :=
  1 ≤ h.fanout && 1 ≤ h.level && h.level ≤ 12 && (Ty.ofCode h.efmt).isSome && h.rsv == 0 &&
  (cs.take h.fanout).all (· != 0) && (cs.drop h.fanout).all (· == 0)
/-- Checks 3 and 4 of R355, on the shapes of the used children. -/
def CaHdr.checkTree (h : CaHdr) (cs : List (Nat × Nat × Nat)) : Bool :=
  cs.all (fun c => c.2.2 + 1 == h.level) &&
  (if h.level = 1 then h.leaves == h.fanout && 128 * (h.fanout - 1) < h.total && h.total ≤ 128 * h.fanout
   else
     h.leaves == (cs.map fun c => c.2.1).foldl (· + ·) 0 && h.total == (cs.map fun c => c.1).foldl (· + ·) 0 &&
     cs.dropLast.all fun c => c.1 == 128 * c.2.1)

/-- The child that holds a content byte, and the offset in it. -/
def pickChild : List (Nat × Nat) → Nat → Option (Nat × Nat)
  | [], _ => none
  | (name, total) :: cs, off => if off < total ∨ cs = [] then some (name, off) else pickChild cs (off - total)

/-- Descent to the leaf of a content byte, over at most `fuel` levels (R370). -/
def State.caDescend (s : State) (r : CaRegion) : Nat → Nat → Nat → Except CaErr Nat
  | 0, name, _ => .ok name
  | n + 1, name, off =>
    if name = zeroName then .ok name
    else do
      let e ← s.caNeed r name
      if !e.node then return name
      else
        let line ← s.caRead r (r.lineVa e.slot) 128
        let h := CaHdr.ofNat (natAt line 0 16)
        let cs := (lineChildren line).take h.fanout
        let shapes ← s.caShapes r cs
        match pickChild (cs.zip (shapes.map fun x => x.1)) off with
        | some (c, o) => s.caDescend r n c o
        | none => return name

/-- The name of the leaf that holds content byte `off` of a tree. -/
def State.caLeaf (s : State) (r : CaRegion) (root off : Nat) : Except CaErr Nat := do
  let sh ← s.caShape r root
  if sh.1 ≤ off then throw { code := 0x26, tag := 10, addr := 0 } else s.caDescend r 13 root off

/-- `n` content bytes of a tree from byte `off`, within leaves (R340, R355). -/
def State.caContent (s : State) (r : CaRegion) (root off : Nat) : Nat → Except CaErr (List Byte)
  | 0 => .ok []
  | n + 1 => do
    let leaf ← s.caLeaf r root off
    let b ← if leaf = zeroName then .ok (List.replicate 1 0) else do
      let e ← s.caNeed r leaf
      s.caRead r (r.lineVa e.slot + off % 128) 1
    let bs ← s.caContent r root (off + 1) n
    return b ++ bs

/-! ## Transactions (R357, R358, R364) -/

/-- Priority of a transaction's causes (R364). -/
def caRank (c : Nat) : Nat :=
  if c = 0x20 then 0 else if c = 0x21 then 1 else if c = 0x80 then 2 else if c = 0x27 then 3 else if c = 0x26 then 4
  else if c = 0x41 then 5 else if c = 0x42 then 6 else 7

/-- Lanes applied in ascending order, each to the state that the earlier ones left. -/
def caLanes (f : State → Nat → Except CaErr (Val × State)) : State → List Nat → State × List (Nat × Val) × List (Nat × CaErr)
  | s, [] => (s, [], [])
  | s, L :: ls =>
    match f s L with
    | .ok (v, t) =>
      let r := caLanes f t ls
      (r.1, (L, v) :: r.2.1, r.2.2)
    | .error e =>
      let r := caLanes f s ls
      (r.1, r.2.1, (L, e) :: r.2.2)

/-- A transaction of the issuing wave with `nres` results: performed as a whole, or discarded with its late fault, which leaves the
destination as it was (R240, R364). -/
def State.caTransact (s : State) (nres : Nat) (f : State → Nat → Except CaErr (Val × State)) : State :=
  let r := caLanes f s s.activeLanes
  match r.2.2 with
  | [] => (r.1.l1Acquire s.gcore).finish fun L => if nres = 0 then [] else [(r.2.1.lookup L).getD 0]
  | e :: es =>
    let top := es.foldl (fun b x => if caRank x.2.code < caRank b.2.code then x else b) e
    let prim := maskOf fun L => (e :: es).any fun x => x.1 == L && x.2.code == top.2.code
    let sec := maskOf fun L => (e :: es).any fun x => x.1 == L && x.2.code != top.2.code
    s.done.lateFault (causeT top.2.code top.2.tag) prim sec top.2.addr

/-- A copy-pending frame has no staging slot left: a write of a transaction would wait (R452, R453). -/
def State.stagingFull (s : State) : Bool := s.ckpt.on && (List.range 8).any fun d => (s.freeStaging d).isNone

/-- The region that lane `L` names. -/
def State.caReg (s : State) (rb : Opnd) (L : Nat) : Option CaRegion := s.caAt s.ctx ((s.opnd tyA64 rb L).setWidth 64)

/-- What every instruction of the class does first: causes of R363 under R239, in each lane too, the wait for BUSY (R347), the order of R358. `more` adds the
instruction's own causes. -/
def State.caIssue (s : State) (rb : Opnd) (more : Nat → Option Cause) (addr : Nat → Nat) (eff : State → State) : State :=
  let own := fun L => (s.caReg rb L).isSome || (more L).any fun e => decide (causeRank e.code < causeRank 0x21)
  let c := fun L => if own L then more L else some (causeT 0x21 4)
  match s.laneFault c (fun L => if own L then addr L else (s.opnd tyA64 rb L).toNat) with
  | some s' => s'
  | none =>
    if s.activeLanes.any fun L => (s.caReg rb L).any s.caBusy then s.stall
    else if !s.settled || s.stagingFull then s.stall
    else eff s

/-- A meaning of a lane in its region. -/
def State.caIn (s : State) (rb : Opnd) (L : Nat) (f : CaRegion → Except CaErr (Val × State)) : Except CaErr (Val × State) :=
  match s.caReg rb L with
  | some r => f r
  | none => .error { code := 0x21, tag := 4, addr := 0 }

/-! ## The instructions (R365-R371) -/

def caMod (sp : Space) : MMod := { ord := .relaxed, scope := 5, evict := .bypass, space := sp, reassoc := false }

/-- The line that caput reads. -/
def State.caputAccess (s : State) (spadSrc : Bool) (src : Opnd) : Access :=
  { m := caMod (if spadSrc then Space.spad else Space.global), rd := true, wr := false, n := 128, al := 128,
    addr := fun L => (s.opnd (if spadSrc then tyN32 else tyA64) src L).toNat }
def execCaput (spadSrc : Bool) (rb src : Opnd) (s : State) : Outcome :=
  let sp := if spadSrc then Space.spad else Space.global
  let x := s.caputAccess spadSrc src
  let more := fun L => (errOf (s.placeOf x L)).map fun c => if c.code = 0x26 then causeT 0x26 3 else c
  .next (s.caIssue rb more x.addr fun t =>
    let pls := t.activeLanes.map (t.placeAt x)
    let ls := t.absentOf (padRanges 128 pls)
    let asks := fabAsks x.m pls
    if !ls.isEmpty then t.parkPresence ls
    else if !t.fabReady t.wv.token t.issue.loc asks then t.fabAskAll t.wv.die t.wv.token t.issue.loc asks
    else
      let u := pls.foldl (fun u p => u.touchPlace (t.accOf t.wv sp true false) p) t
      (u.caTransact 1 fun v L =>
        if t.laneLate x L ≠ 0 then .error { code := t.laneLate x L, tag := 0, addr := x.addr L }
        else v.caIn rb L fun r => (v.lookupAlloc r (u.laneBytes x L) false).map fun o => (BitVec.ofNat 256 o.1, o.2.2)).fabDrop
          t.wv.token t.issue.loc)

/-- A name operand of a lane. -/
def State.nameOpnd (s : State) (o : Opnd) (L : Nat) : Nat := (s.opnd .name o L).toNat % 2 ^ 128

def execCaget (rb x : Opnd) (s : State) : Outcome :=
  .next (s.caIssue rb (fun _ => none) (fun _ => 0) fun t => t.caTransact 1 fun v L => v.caIn rb L fun r =>
    let n := s.nameOpnd x L
    if n = zeroName then .ok (BitVec.ofNat 256 r.zeroVa, v)
    else (v.caNeed r n).map fun e => (BitVec.ofNat 256 (r.lineVa e.slot), v))

/-- k of caref and cadrop (R363). -/
def State.caK (s : State) (k : Opnd) (L : Nat) : Nat := (s.opnd tyN32 k L).toNat
def State.caKCause (s : State) (k : Opnd) (L : Nat) : Option Cause :=
  if s.caK k L = 0 ∨ 2 ^ 31 < s.caK k L then some (causeT 0x26 16) else none

def execCaref (rb x k : Opnd) (s : State) : Outcome :=
  .next (s.caIssue rb (s.caKCause k) (fun _ => 0) fun t => t.caTransact 0 fun v L => v.caIn rb L fun r =>
    let n := s.nameOpnd x L
    if n = zeroName then .ok (0, v)
    else do
      let e ← v.caNeed r n
      let u ← v.countUp r e (s.caK k L)
      return (0, u))
def execCadrop (rb x k : Opnd) (s : State) : Outcome :=
  .next (s.caIssue rb (s.caKCause k) (fun _ => 0) fun t => t.caTransact 0 fun v L => v.caIn rb L fun r =>
    let n := s.nameOpnd x L
    if n = zeroName then .ok (0, v)
    else do
      let e ← v.caNeed r n
      let u ← v.countDown r e (s.caK k L)
      return (0, u))

/-- A count of a name moves, but for the null name and the zero line. -/
def State.nameUp (s : State) (r : CaRegion) (n : Nat) : Except CaErr State :=
  if n = 0 ∨ n = zeroName then .ok s else do s.countUp r (← s.caNeed r n) 1
def State.nameDown (s : State) (r : CaRegion) (n : Nat) : Except CaErr State :=
  if n = 0 ∨ n = zeroName then .ok s else do s.countDown r (← s.caNeed r n) 1

/-- A name is null, the zero line, or present. -/
def State.nameThere (s : State) (r : CaRegion) (n : Nat) : Except CaErr Unit :=
  if n = 0 ∨ n = zeroName then .ok () else (s.caNeed r n).map fun _ => ()

/-- The cause that the root slot itself meets (R364): an error before a denial; of a slot on another device, what its answer says. -/
def State.rootCause (s : State) (p : Phys) (got : Nat × Nat) : Nat :=
  if eFab p.leaf then got.2 else if s.uncorr p.key then 0x80 else s.remoteCause p
/-- One lane of caswap on the root slot at a place. `got` is the answer of another device that holds the slot: its contents, with a cause. -/
def State.swapRoot (s : State) (r : CaRegion) (va : Nat) (p : Phys) (got : Nat × Nat) (expect new : Nat) : Except CaErr (Val × State) :=
  let late := s.rootCause p got
  match (do s.nameThere r expect; s.nameUp r new : Except CaErr State) with
  | .error e => .error (if late ≠ 0 ∧ caRank late < caRank e.code then { code := late, tag := 0, addr := va } else e)
  | .ok s1 =>
    if late ≠ 0 then .error { code := late, tag := 0, addr := va }
    else
      let s1 := s1.meet p 16
      let o := if eFab p.leaf then got.1 else readNat s1.mem p.key 16
      if o = expect then
        let s2 := if eFab p.leaf then s1 else (s1.l1Drop s1.gcore (lineOf p.key) 0).homeWriteBy (some s1.gcore) p.key (bytesOfNat 16 new)
        (s2.nameDown r o).map fun t => (BitVec.ofNat 256 o, t)
      else (s1.nameDown r new).map fun t => (BitVec.ofNat 256 o, t)

/-- The compare-and-swap of a lane whose root slot another device holds (R242, R358). -/
def swapAsk (p : Phys) (m : MMod) (expect new L : Nat) : FabAsk :=
  { atomAsk p m 0x20D tyV2n64 (BitVec.ofNat 256 expect) (BitVec.ofNat 256 new) with att := L }
/-- Its answer: the old contents and a cause, once it has come. -/
def State.swapReply (s : State) (q : FabAsk) : Option (Nat × Nat) :=
  (s.fabFind s.wv.token s.issue.loc q).bind fun x => if x.cause ≠ 0 then some (0, x.cause) else x.reply.map fun bs => (natOfBytes (bs.take 16), 0)

/-- The 128-bit atomic on a root slot. -/
def State.rootOp (s : State) (slot : Opnd) : AtomOp :=
  { opc := 0x20D, ty := tyV2n64, m := caMod .global, addr := fun L => (s.opnd tyA64 slot L).toNat, v := fun _ => 0, v2 := fun _ => 0 }
/-- R363, R369. The swaps of slots on other devices leave one after another, in lane order, once nothing else stands against the transaction. -/
def execCaswap (rb slot expect new : Opnd) (s : State) : Outcome :=
  let a := s.rootOp slot
  .next (if s.merged then s.faultAll (cause 0x32)
    else s.caIssue rb (fun L => errOf (s.atomLoc a none L)) a.addr fun t =>
      let ask := fun L => (t.atomPlace a none L).fabPhys.map fun p => swapAsk p a.m (s.nameOpnd expect L) (s.nameOpnd new L) L
      let due := (t.activeLanes.filterMap ask).find? fun q => (t.swapReply q).isNone
      let u := t.activeLanes.foldl (fun u L => u.touchPlace (t.accOf t.wv .global true true) (t.atomPlace a none L)) t
      let lane := fun (v : State) L => v.caIn rb L fun r =>
        match t.atomPlace a none L with
        | .phys va p => v.swapRoot r va p (((ask L).bind t.swapReply).getD (s.nameOpnd expect L, 0)) (s.nameOpnd expect L) (s.nameOpnd new L)
        | _ => .ok (0, v)
      if due.isSome ∧ (caLanes lane u u.activeLanes).2.2 = [] then t.fabAskAll t.wv.die t.wv.token t.issue.loc due.toList
      else
        t.activeLanes.foldl (fun o L =>
          match t.atomPlace a none L with
          | .phys va p => if t.remoteCause p = 0x27 then
              o.logDenial p.home va t.wv.token (t.mapOf t.wv t.issue.loc) t.wv.die 0x27 t.fdn else o
          | _ => o) ((u.caTransact 1 lane).fabDrop t.wv.token t.issue.loc))

def execCawalk (rb root off : Opnd) (s : State) : Outcome :=
  .next (s.caIssue rb (fun _ => none) (fun _ => 0) fun t => t.caTransact 1 fun v L => v.caIn rb L fun r =>
    (v.caLeaf r (s.nameOpnd root L) (s.opnd tyN64 off L).toNat).map fun n => (BitVec.ofNat 256 n, v))

/-- The value of castat for a name (R371); none where the lookup meets a page cause. -/
def State.caStatus (s : State) (r : CaRegion) (n code : Nat) : Option Nat :=
  if code = 3 then some (((s.ca.find? fun x => x.slot == r.slot).map fun x => x.drops.length).getD 0)
  else if code = 4 then some (s.caLines r)
  else if n = zeroName then some (if code = 1 then 5 else 0xFFFFFFFF)
  else
    match s.caFind r n with
    | .error _ => none
    | .ok none => some (if code = 2 then 0xFFFFFFFF else 0)
    | .ok (some e) => some (if code = 0 then e.count else if code = 1 then 1 + 2 * bitOf e.node + 4 * bitOf (e.count == immortal) else e.slot)
def execCastat (rb x : Opnd) (code : BitVec 30) (s : State) : Outcome :=
  .next (s.caIssue rb (fun _ => none) (fun _ => 0) fun t => (t.caTransact 1 fun v L => v.caIn rb L fun r =>
    .ok (match v.caStatus r (s.nameOpnd x L) code.toNat with
      | some n => BitVec.ofNat 256 n
      | none => s.freeVals tyN32 L, v)).skipFree)

/-- One lane of canode (R366). -/
def State.buildNode (s : State) (r : CaRegion) (hdr : Nat) (cs : List Nat) : Except CaErr (Val × State) :=
  let h := CaHdr.ofNat hdr
  if !h.checkHead cs then .error { code := 0x26, tag := 9, addr := 0 }
  else do
    let used := cs.take h.fanout
    let shapes ← s.caShapes r used
    if !h.checkTree shapes then throw { code := 0x26, tag := 9, addr := 0 }
    else
      let o ← s.lookupAlloc r (bytesOfNat 16 hdr ++ cs.flatMap (bytesOfNat 16)) true
      if o.2.1 then
        let t ← used.foldlM (fun t c => t.nameUp r c) o.2.2
        return (BitVec.ofNat 256 o.1, t)
      else return (BitVec.ofNat 256 o.1, o.2.2)
def execCanode (rb hdr c0 c1 c2 c3 c4 c5 c6 : Opnd) (s : State) : Outcome :=
  .next (s.caIssue rb (fun _ => none) (fun _ => 0) fun t => t.caTransact 1 fun v L => v.caIn rb L fun r =>
    v.buildNode r ((s.opnd tyV2n64 hdr L).toNat % 2 ^ 128) ([c0, c1, c2, c3, c4, c5, c6].map fun c => s.nameOpnd c L))

/-! ## The engine's events (R347, R353) -/

/-- The next drop of a region's queue; where it meets a page cause it stays, to be retried within 2^20 cycles. -/
def State.dropNext (s : State) (r : CaRegion) : State :=
  match r.drops with
  | [] => s
  | n :: ns =>
    let popped := { s with ca := s.ca.map fun x => if x.slot == r.slot then { x with drops := ns, retryAt := 0 } else x }
    match s.caFind r n.toNat with
    | .ok (some e) =>
      (match popped.countDown r e 1 with
       | .ok t => t
       | .error _ => { s with ca := s.ca.map fun x => if x.slot == r.slot then { x with retryAt := s.cycle + 2 ^ 20 } else x })
    | .ok none => popped
    | .error _ => { s with ca := s.ca.map fun x => if x.slot == r.slot then { x with retryAt := s.cycle + 2 ^ 20 } else x }
def State.caSlot (s : State) (n : Nat) : Option CaRegion := s.ca.find? fun r => r.slot == n

/-- The region as its engine reaches it: through the context that enabled it, or the lowest one that maps its first page as R347 asks. -/
def State.caEngine (s : State) (r : CaRegion) : CaRegion :=
  match (r.ctx :: List.range 64).find? fun c => match s.caPage { r with ctx := c } r.base.toNat with | .ok _ => true | .error _ => false with
  | some c => { r with ctx := c }
  | none => r

def execBackgroundDrop (n : Nat) (s : State) : Outcome :=
  match s.caSlot n with
  | some r => .next (if r.retryAt ≠ 0 ∨ s.caBusy r ∨ s.stagingFull then s else s.dropNext (s.caEngine r))
  | none => .next s
/-- A retry comes no later than its cycle; one that is asked for earlier is made. -/
def execBackgroundDropRetry (n : Nat) (s : State) : Outcome :=
  match s.caSlot n with
  | some r => .next (if r.retryAt = 0 ∨ s.caBusy r ∨ s.stagingFull then s else s.dropNext (s.caEngine r))
  | none => .next s

/-- Whether a write of `v` to CARCn that sets EN is ignored (R347). -/
def State.caRefused (s : State) (n : Nat) (v : Dword) : Bool :=
  let b := s.sysGet 0 (0x060 + n)
  let logn := bits b 0 5
  let base := bits b 16 41 * 65536
  decide (logn < 11) || !s.trust.regionKeys.contains (bits v 40 8) ||
  s.ca.any fun r => r.slot != n && base < r.base.toNat + caSize r.logn && r.base.toNat < base + caSize logn

/-- Event (R347): EN is written 1. The writing context is that of the issuing wave, or the host's. -/
def State.caEnable (s : State) (n ctx : Nat) (v : Dword) : State :=
  let old := s.carc n
  let v := setBits (setBits v 0 32 (bits old 0 32)) 62 1 (bits old 62 1)
  let v := v &&& 0xC000FF00FFFFFFFF
  if bit old 63 then s.sysSet 0 (0x070 + n) v
  else if s.caRefused n v then s
  else
    let b := s.sysGet 0 (0x060 + n)
    let r : CaRegion :=
      { slot := n, base := dw (bits b 16 41 * 65536), logn := bits b 0 5, keyslot := bits v 40 8, ctx := ctx, drops := [], retryAt := 0 }
    { s with ca := s.ca ++ [r] }.sysSet 0 (0x070 + n) (setBits v 62 1 1)
def execRegionEnable (n : Nat) (v : Dword) (s : State) : Outcome :=
  .next (if n < 16 ∧ bit v 63 then s.caEnable n s.hwctx v else s)

/-- Zero bytes over a range of a region, page by page; a page that the engine cannot reach keeps its bytes. -/
def State.caZero (s : State) (r : CaRegion) (va n : Nat) : State :=
  (List.range ((va + n - 1) / 65536 + 1 - va / 65536)).foldl (fun t i =>
    let a := if i = 0 then va else (va / 65536 + i) * 65536
    let e := min (va + n) ((va / 65536 + i + 1) * 65536)
    match t.caPage r a with
    | .ok p =>
      if t.frameSt p.key = 3 then t else
      let t := (linesIn p.key (e - a)).foldl (fun t l => t.invalidateSharers l) ((t.meet p (e - a)).homeWrite p.key [0])
      { t with mem := clearRange t.mem p.key (p.key + (e - a)) }
    | .error _ => t) s

/-- Event (R347): bucket table, entry table and LINES are zeroed, and BUSY clears. -/
def execRegionInitDone (n : Nat) (s : State) : Outcome :=
  match s.caSlot n with
  | some r =>
    .next (if !s.caBusy r || s.stagingFull then s
      else
        let e := s.caEngine r
        let t := s.caZero e (r.base.toNat + 4096) (4 * 2 ^ r.logn)
        let t := t.caZero e (r.entryVa 0) (32 * 2 ^ r.logn)
        t.sysSet 0 (0x070 + n) (setBits (setBits (t.carc n) 0 32 0) 62 1 0))
  | none => .next s

/-- Event (R347): EN is written 0. Queued drops are discarded. -/
def State.caDisable (s : State) (n : Nat) (v : Dword) : State :=
  let old := s.carc n
  let v := setBits (setBits (v &&& 0x8000FF0000000000) 0 32 (bits old 0 32)) 62 1 0
  { s with ca := s.ca.filter fun r => r.slot != n }.sysSet 0 (0x070 + n) v
def execRegionDisable (n : Nat) (v : Dword) (s : State) : Outcome :=
  .next (if n < 16 ∧ !bit v 63 then s.caDisable n v else s)

end Sys2Proof.Machine
end

