-- ==== Sys2Proof/Machine/Transc.lean ====
section
/-! DEFINITION. The transcendental instructions (06_float_formats.md R200-R203), computed in fixed point with 512 fraction bits: f16 and
bf16 results are correctly rounded, and an f32 result is the one that Config.approxChoice names among those within the bound. -/
namespace Sys2Proof.Machine

/-- Fraction bits of the working precision. -/
def fixP : Nat := 512
def fixOne : Nat := 2 ^ fixP

/-- Pi with 704 fraction bits, and ln 2 with 512. -/
def piFix : Nat :=
  0x3243f6a8885a308d313198a2e03707344a4093822299f31d0082efa98ec4e6c89452821e638d01377be5466cf34e90c6cc0ac29b7c97c50dd3f84d5b5b54709179216d5d98979fb1bd1310ba698dfb5ac2ffd72dbd01adfb7
def ln2Fix : Nat :=
  0xb17217f7d1cf79abc9e3b39803f2f6af40f343267298b62d8a0d175b8baafa2be7b876206debac98559552fb4afa1b10ed2eae35c138214427573b291169b825

/-- A magnitude m * 2^x in fixed point. -/
def toFix (m : Nat) (x : Int) : Nat := (unitsOf m x (-(fixP : Int))).1

/-! ## Series -/

/-- The sum of term * r^j / (k+1)...(k+j). -/
def expTerms (r : Nat) : Nat → Nat → Nat → Nat
  | 0, _, _ => 0
  | n + 1, k, t => t + expTerms r n (k + 1) (t * r / fixOne / (k + 1))
/-- e^r for 0 <= r < 1. -/
def expFix (r : Nat) : Nat := expTerms r 110 0 fixOne

/-- Alternating series in the square of r: sine from (r, 1), cosine from (1, 0). -/
def trigTerms (r2 : Nat) : Nat → Nat → Int → Int
  | 0, _, _ => 0
  | n + 1, k, t => t + trigTerms r2 n (k + 2) (-(t * (r2 : Int)) / fixOne / (((k + 1) * (k + 2) : Nat) : Int))
def sinFix (r : Int) : Int := trigTerms (r.natAbs * r.natAbs / fixOne) 60 1 r
def cosFix (r : Int) : Int := trigTerms (r.natAbs * r.natAbs / fixOne) 60 0 fixOne

/-- z + z^3/3 + z^5/5 + ... -/
def atanhTerms (z2 : Nat) : Nat → Nat → Int → Int
  | 0, _, _ => 0
  | n + 1, k, t => t / (k : Int) + atanhTerms z2 n (k + 2) (t * (z2 : Int) / fixOne)

/-! ## Functions of a magnitude -/

/-- 2^v for v = n + f as (mantissa, exponent). -/
def exp2Parts (v : Int) : Nat × Int :=
  let n := v / (fixOne : Int)
  let f := (v % (fixOne : Int)).toNat
  (expFix (f * ln2Fix / fixOne), n)
/-- e^v likewise. -/
def expParts (v : Int) : Nat × Int :=
  let n := v / (ln2Fix : Int)
  (expFix (v % (ln2Fix : Int)).toNat, n)

/-- log2 of m * 2^x in fixed point, m nonzero. -/
def log2Fix (m : Nat) (x : Int) : Int :=
  let k := Nat.log2 m
  let y := m * fixOne / 2 ^ k
  let big := decide (2 * fixOne * fixOne < y * y)
  let y' : Int := if big then ((y / 2 : Nat) : Int) else y
  let n : Int := (k : Int) + x + (if big then 1 else 0)
  let z := (y' - fixOne) * fixOne / (y' + fixOne)
  let ln := 2 * atanhTerms (z.natAbs * z.natAbs / fixOne) 110 1 z
  n * fixOne + ln * fixOne / ln2Fix

/-- Quadrant and reduced argument of m * 2^x (R202). -/
def reduceArg (m : Nat) (x : Int) : Nat × Int :=
  let a := (unitsOf m x (-704)).1
  let h := piFix / 2
  let k := (a + h / 2) / h
  (k % 4, ((a : Int) - ((k * h : Nat) : Int)) / 2 ^ 192)

def sinQuad (k : Nat) (r : Int) : Int :=
  if k = 0 then sinFix r else if k = 1 then cosFix r else if k = 2 then -sinFix r else -cosFix r

/-- tanh of a fixed-point magnitude. -/
def tanhFix (v : Nat) : Nat :=
  let p := expParts ((2 * min v (170 * fixOne) : Nat) : Int)
  let e := p.1 * 2 ^ p.2.toNat
  (e - fixOne) * fixOne / (e + fixOne)

/-- 1/(1 + e^-v) as a mantissa and an exponent. -/
def sigmParts (neg : Bool) (v : Nat) : Nat × Int :=
  let p := expParts (-((min v (if neg then 2000 * fixOne else 340 * fixOne) : Nat) : Int))
  let one := fixOne * 2 ^ (-p.2).toNat
  ((if neg then p.1 else one) * (one * 4) / (one + p.1), -(((Nat.log2 one : Nat) : Int) + 2))

/-! ## Results -/

/-- Code of 1. -/
def fOne (e : Elem) : Nat := fBias e * 2 ^ fMan e

/-- A result whose exact value is not representable, from a truncated magnitude. -/
def transcRes (opc : Nat) (e : Elem) (fm : FMod) (b2 lim inBits : Nat) (neg : Bool) (k : Nat) (x : Int) : Nat × Nat :=
  let t := jam k true x
  if e = .f32 then fApprox e fm b2 lim (Config.approxChoice opc e.code fm.code inBits) neg t.1 t.2
  else fRound e { fm with rnd := .rne } 0 neg t.1 t.2
/-- A result whose exact value is m * 2^x. -/
def exactRes (e : Elem) (fm : FMod) (neg : Bool) (m : Nat) (x : Int) : Nat × Nat :=
  if m = 0 then zeroOf e neg else fRound e { fm with rnd := .rne } 0 neg m x

def oneOf (e : Elem) (neg : Bool) : Nat × Nat := (fSign e neg + fOne e, 0)

def fExp2 (e : Elem) (fm : FMod) (a : Nat) : Nat × Nat :=
  let c := fFtz e fm.ftzi a
  match fDecode e c with
  | .nan s => nanOf e (nvIf s)
  | .inf n => if n then zeroOf e false else (fInfRes e fm.sat false, 0)
  | .fin n m x =>
    let u := unitsOf m x 0
    let i : Int := if n then -(u.1 : Int) else u.1
    if u.2.1 = 0 then exactRes e fm false 1 (clampExp i)
    else
      let p := exp2Parts (if n then -(toFix m x : Int) else toFix m x)
      transcRes 0x0D1 e fm 2 (fMaxCode e) c false p.1 (clampExp p.2 - fixP)

def fLog2 (e : Elem) (fm : FMod) (a : Nat) : Nat × Nat :=
  let c := fFtz e fm.ftzi a
  match fDecode e c with
  | .nan s => nanOf e (nvIf s)
  | .inf n => if n then nanOf e flNV else (fInfRes e fm.sat false, 0)
  | .fin n m x =>
    if m = 0 then (fInfRes e fm.sat true, flDZ)
    else if n then nanOf e flNV
    else if m = 2 ^ Nat.log2 m then
      let v := (Nat.log2 m : Int) + x
      exactRes e fm (decide (v < 0)) v.natAbs 0
    else
      let v := log2Fix m x
      transcRes 0x0D2 e fm 2 (fMaxCode e) c (decide (v < 0)) v.natAbs (-(fixP : Int))

def fSin (e : Elem) (fm : FMod) (a : Nat) : Nat × Nat :=
  let c := fFtz e fm.ftzi a
  match fDecode e c with
  | .nan s => nanOf e (nvIf s)
  | .inf _ => nanOf e flNV
  | .fin n m x =>
    if m = 0 then zeroOf e n
    else
      let q := reduceArg m x
      let v := sinQuad q.1 q.2
      transcRes 0x0D3 e fm 3 (fOne e) (fMag e c) (n != decide (v < 0)) v.natAbs (-(fixP : Int))

def fCos (e : Elem) (fm : FMod) (a : Nat) : Nat × Nat :=
  let c := fFtz e fm.ftzi a
  match fDecode e c with
  | .nan s => nanOf e (nvIf s)
  | .inf _ => nanOf e flNV
  | .fin _ m x =>
    if m = 0 then oneOf e false
    else
      let q := reduceArg m x
      let v := sinQuad ((q.1 + 1) % 4) q.2
      transcRes 0x0D4 e fm 3 (fOne e) c (decide (v < 0)) v.natAbs (-(fixP : Int))

def fTanh (e : Elem) (fm : FMod) (a : Nat) : Nat × Nat :=
  let c := fFtz e fm.ftzi a
  match fDecode e c with
  | .nan s => nanOf e (nvIf s)
  | .inf n => oneOf e n
  | .fin n m x =>
    if m = 0 then zeroOf e n
    else transcRes 0x0D6 e fm 3 (fOne e) (fMag e c) n (tanhFix (toFix m x)) (-(fixP : Int))

def fSigm (e : Elem) (fm : FMod) (a : Nat) : Nat × Nat :=
  let c := fFtz e fm.ftzi a
  match fDecode e c with
  | .nan s => nanOf e (nvIf s)
  | .inf n => if n then zeroOf e false else oneOf e false
  | .fin n m x =>
    if m = 0 then (fOne e - 2 ^ fMan e, 0)
    else
      let p := sigmParts n (toFix m x)
      transcRes 0x0D7 e fm 3 (fOne e) c false p.1 p.2

/-! ## The instructions -/

def execFexp2 (ty : Ty) (m : FMod) (a : Opnd) (s : State) : Outcome :=
  .next (s.putFp ty .rne fun L i _ => fExp2 (Ty.elem ty) m (s.el ty a L i))
def execFlog2 (ty : Ty) (m : FMod) (a : Opnd) (s : State) : Outcome :=
  .next (s.putFp ty .rne fun L i _ => fLog2 (Ty.elem ty) m (s.el ty a L i))
def execFsin (ty : Ty) (m : FMod) (a : Opnd) (s : State) : Outcome :=
  .next (s.putFp ty .rne fun L i _ => fSin (Ty.elem ty) m (s.el ty a L i))
def execFcos (ty : Ty) (m : FMod) (a : Opnd) (s : State) : Outcome :=
  .next (s.putFp ty .rne fun L i _ => fCos (Ty.elem ty) m (s.el ty a L i))
def execFsincos (ty : Ty) (m : FMod) (a : Opnd) (s : State) : Outcome :=
  .next (s.finishFp 0 fun L =>
    let sn := s.fElems ty L fun i _ => fSin (Ty.elem ty) m (s.el ty a L i)
    let cs := s.fElems ty L fun i _ => fCos (Ty.elem ty) m (s.el ty a L i)
    ([sn.1, cs.1], sn.2 ||| cs.2))
def execFtanh (ty : Ty) (m : FMod) (a : Opnd) (s : State) : Outcome :=
  .next (s.putFp ty .rne fun L i _ => fTanh (Ty.elem ty) m (s.el ty a L i))
def execFsigm (ty : Ty) (m : FMod) (a : Opnd) (s : State) : Outcome :=
  .next (s.putFp ty .rne fun L i _ => fSigm (Ty.elem ty) m (s.el ty a L i))

end Sys2Proof.Machine
end

