-- ==== Sys2Proof/Machine/Lanes.lean ====
section
/-! DEFINITION. The cross-lane, random-number and span instructions (07_lanes_spans.md R213-R231). -/
namespace Sys2Proof.Machine

/-! ## Exchange, votes and matches (R216, R217) -/

/-- The value that lane `L` takes from lane `j`: its own when `j` is outside Active. -/
def State.fromLane (s : State) (ty : Ty) (a : Opnd) (L j : Nat) : Val :=
  if inMask s.active j then s.opnd ty a j else s.opnd ty a L

def execLswap (ty : Ty) (a : Opnd) (m : BitVec 30) (s : State) : Outcome :=
  .next (s.put fun L => s.fromLane ty a L (L ^^^ m.toNat))
def execLshfl (ty : Ty) (a idx : Opnd) (s : State) : Outcome :=
  .next (s.put fun L => s.fromLane ty a L ((s.opnd tyN32 idx L).toNat % 32))
def execLbcast (ty : Ty) (a src : Opnd) (s : State) : Outcome :=
  .next (s.put fun L => s.fromLane ty a L (s.uniNat tyN32 src % 32))
def execLrot (ty : Ty) (a n : Opnd) (s : State) : Outcome :=
  .next (s.put fun L => s.fromLane ty a L ((L + s.uniNat tyN32 n) % 32))

/-- The lanes of Active whose condition is 1. -/
def State.voteMask (s : State) (c : Opnd) : Mask :=
  maskOf fun L => inMask s.active L && elemAt (s.opnd tyB1 c L) 1 0 == 1

def execLvote (c : Opnd) (s : State) : Outcome := .next (s.put fun _ => (s.voteMask c).setWidth 256)
def execLany (c : Opnd) (s : State) : Outcome := .next (s.put fun _ => valOfBool (s.voteMask c != 0))
def execLall (c : Opnd) (s : State) : Outcome := .next (s.put fun _ => valOfBool (s.voteMask c == s.active))
def execLfirst (c : Opnd) (s : State) : Outcome :=
  .next (s.put fun _ => BitVec.ofNat 256 ((lanesOf (s.voteMask c)).headD 32))

/-- The types that the a of lmatch may have (R214, R495). -/
def matchTys : List Ty :=
  intSrcTys ++ [tyA64, .num .s1 .f64, .num .s1 .f32, .num .s1 .f16, .num .s1 .bf16, .num .s1 .e4m3, .num .s1 .e5m2]
def execLmatch (a : Opnd) (s : State) : Outcome :=
  let t := s.opndTy matchTys a
  .next (s.put fun L => (maskOf fun j => inMask s.active j && s.opnd t a j == s.opnd t a L).setWidth 256)

/-! ## Combining (R215, R218) -/

/-- The identity of an op (R215). -/
def LaneOp.ident (e : Elem) : LaneOp → Nat
  | .add | .or | .xor => 0
  | .min => wrapI e.width (eMax e)
  | .max => wrapI e.width (eMin e)
  | .and => 2 ^ e.width - 1
  | .fadd => fSign e true
  | .fmin => fInf e
  | .fmax => fInf e + fSign e true

/-- One step of an op: the result and its flags. -/
def LaneOp.apply (e : Elem) (a b : Nat) : LaneOp → Nat × Nat
  | .add => (iAdd e a b, 0)
  | .min => (iMin e a b, 0)
  | .max => (iMax e a b, 0)
  | .and => (a &&& b, 0)
  | .or => (a ||| b, 0)
  | .xor => (a ^^^ b, 0)
  | .fadd => fAdd e exactMod 0 a b
  | .fmin => fMinMax true e false a b
  | .fmax => fMinMax false e false a b

/-- The same on values that carry the flags so far. -/
def LaneOp.step (e : Elem) (op : LaneOp) (a b : Nat × Nat) : Nat × Nat :=
  let r := LaneOp.apply e a.1 b.1 op
  (r.1, a.2 ||| b.2 ||| r.2)

/-- Neighbours combined; an odd last one passes up unchanged (R218, R226). -/
def pairLevel {α : Type} (f : α → α → α) : List α → List α
  | a :: b :: r => f a b :: pairLevel f r
  | l => l
def pairTree {α : Type} (f : α → α → α) : Nat → List α → List α
  | 0, l => l
  | n + 1, l => pairTree f n (pairLevel f l)

/-- lred: the tree over the 32 positions. -/
def State.laneTree (s : State) (ty : Ty) (op : LaneOp) (a : Opnd) : Nat × Nat :=
  let e := Ty.elem ty
  let v := (List.range 32).map fun P => (if inMask s.active P then s.el ty a P 0 else LaneOp.ident e op, 0)
  (pairTree (LaneOp.step e op) 5 v).headD (0, 0)

def execLred (ty : Ty) (op : LaneOp) (a : Opnd) (s : State) : Outcome :=
  let r := s.laneTree ty op a
  .next (s.finishFp 0 fun _ => ([BitVec.ofNat 256 r.1], r.2))

/-- lscan: what each lane of a list receives, in order, and the flags. -/
def scanLanes (e : Elem) (op : LaneOp) (excl : Bool) (v : Nat → Nat) : List Nat → Nat × Nat → List (Nat × Nat) × Nat
  | [], acc => ([], acc.2)
  | L :: ls, acc =>
    let nxt := LaneOp.step e op acc (v L, 0)
    let r := scanLanes e op excl v ls nxt
    ((L, if excl then acc.1 else nxt.1) :: r.1, r.2)

def execLscan (ty : Ty) (op : LaneOp) (excl : Bool) (a : Opnd) (s : State) : Outcome :=
  let e := Ty.elem ty
  let r := scanLanes e op excl (fun L => s.el ty a L 0) s.activeLanes (LaneOp.ident e op, 0)
  .next (s.finishFp 0 fun L => ([BitVec.ofNat 256 ((r.1.lookup L).getD 0)], r.2))

/-! ## The generator (R222) -/

/-- U >> 8 times 2^-24 in f32. -/
def unitF32 (u : Nat) : Nat := if u / 256 = 0 then 0 else (fRound .f32 exactMod 0 false (u / 256) (-24)).1

/-- The result of rng in a lane. -/
def State.rngVal (s : State) (ty : Ty) (stream i L : Nat) : Val :=
  let seed := s.task.launch.seed.toNat
  if ty = tyV4n32 then
    let c := philox seed i (s.thread L) stream
    BitVec.ofNat 256 (ofElems 32 [c.c0, c.c1, c.c2, c.c3])
  else
    let u := (philox seed (i / 4) (s.thread L) stream).word i
    BitVec.ofNat 256 (if ty = tyF32 then unitF32 u else u)

def execRng (ty : Ty) (st i : Opnd) (s : State) : Outcome :=
  .next (s.put fun L => s.rngVal ty (s.opnd tyN32 st L).toNat (s.opnd tyN64 i L).toNat L)

/-! ## Span instructions (R223-R231) -/

/-- A span: base, element type, count. -/
structure Span where
  base : Nat
  ty : Ty
  n : Nat
  deriving DecidableEq, Repr, Inhabited

def spanSize (ty : Ty) : Nat := (Ty.elem ty).width / 8
def Span.len (sp : Span) : Nat := sp.n * spanSize sp.ty
/-- An element as an f32 code (R223): an f32 element as it stands, any other converted. -/
def spanElem (ty : Ty) (c : Nat) : Nat := if Ty.elem ty = .f32 then c else (fConvert (Ty.elem ty) .f32 exactMod 0 c).1
/-- Element `j` of a span's bytes. -/
def spanAt (ty : Ty) (bs : List Byte) (j : Nat) : Nat :=
  spanElem ty (natOfBytes ((bs.drop (j * spanSize ty)).take (spanSize ty)))
/-- The span as f32 codes. -/
def State.spanRead (s : State) (sp : Span) : List Nat := (List.range sp.n).map (spanAt sp.ty (s.wg.read sp.base sp.len))

/-- The checks of R223, in order. `dst` is the out span: offset, alignment, bytes. -/
def State.spanCause (s : State) (sp : Span) (k : Nat) (dst : Option (Nat × Nat × Nat)) : Option Cause :=
  let sz := spanSize sp.ty
  if sp.base % sz ≠ 0 ∨ dst.any (fun d => d.1 % d.2.1 != 0) then some (cause 0x23)
  else if sp.n = 0 ∨ 2 ^ 20 < sp.n then some (causeT 0x26 1)
  else if k = 0 ∨ 64 < k then some (causeT 0x26 2)
  else if s.wg.spadB < sp.base + sp.n * sz ∨ dst.any (fun d => decide (s.wg.spadB < d.1 + d.2.2)) then some (causeT 0x26 3)
  else none

/-- The unit that runs a span instruction (R231): the cluster's select network on a V die, the core on a K die. -/
def State.spanUnit (s : State) : Nat := if dieClass s.wv.die = 1 then 100 + s.wv.core else s.cluster
/-- A unit takes no further span instruction: its queue is full, or the K core's slices are held. -/
def State.spanBusy (s : State) : Bool :=
  let n := (s.spans.filter fun e => e.die == s.wv.die && e.unit == s.spanUnit).length
  if dieClass s.wv.die = 1 then decide (1 ≤ n) else decide (9 ≤ n)
/-- Rank of an f32 code in the order of R225: all NaNs below -infinity. -/
def spanRank (c : Nat) : Int := if (fDecode .f32 c).isNaN then -(2 ^ 33) else fRank .f32 c

/-- The first of greatest rank among (index, code) pairs. -/
def spanBest : List (Nat × Nat) → Option (Nat × Nat)
  | [] => none
  | x :: xs =>
    match spanBest xs with
    | none => some x
    | some y => if spanRank x.2 < spanRank y.2 then some y else some x
def indexed (l : List Nat) : List (Nat × Nat) := (List.range l.length).zip l

/-- Flag-carrying f32 sum by the tree of R226. -/
def spanSumF (l : List Nat) : Nat × Nat :=
  let n := (l.length + 31) / 32 * 32
  let v := (l ++ List.replicate (n - l.length) (fSign .f32 true)).map fun c => (c, 0)
  (pairTree (LaneOp.step .f32 .fadd) 20 v).headD (0, 0)

/-! ### What the instructions compute -/

def overlaps (a n b m : Nat) : Bool := decide (a < b + m) && decide (b < a + n)

def OutFmt.elem : OutFmt → Elem
  | .of32 => .f32 | .obf16 => .bf16 | .of16 => .f16

/-- What spsoftmax computes (R227): the out codes, the result, and the flags. Pass `p` reads the elements `xs p`. -/
def softmaxOf (o : Elem) (tau : Nat) (xs : Nat → List Nat) : List Nat × Nat × Nat :=
  let ys := fun p => (xs p).map fun x => fMul .f32 exactMod 0 x tau
  let fl := fun p => orAll ((ys p).map Prod.snd)
  let m := ((spanBest (indexed ((ys 0).map Prod.fst))).getD (0, 0)).2
  if (fDecode .f32 m).isNaN ∨ m = 0xFF800000 then ((xs 0).map fun _ => 0, 0xFF800000, fl 0 ||| flNV)
  else
    let zs := fun p => (ys p).map fun y =>
      if y.1 = m then (fOne .f32, 0)
      else if (fDecode .f32 y.1).isNaN ∨ y.1 = 0xFF800000 then (0, 0)
      else
        let d := fSub .f32 exactMod 0 y.1 m
        let p := fMul .f32 exactMod 0 d.1 0x3FB8AA3B
        let z := fExp2 .f32 exactMod p.1
        (z.1, d.2 ||| p.2 ||| z.2)
    let sm := spanSumF ((zs 1).map Prod.fst)
    let outs := (zs 2).map fun z =>
      let q := fDiv .f32 exactMod 0 z.1 sm.1
      let c := fConvert .f32 o exactMod 0 q.1
      (c.1, q.2 ||| c.2)
    let lg := fLog2 .f32 exactMod sm.1
    let p := fMul .f32 exactMod 0 lg.1 0x3F317218
    let r := fAdd .f32 exactMod 0 m p.1
    (outs.map Prod.fst, r.1,
     fl 0 ||| fl 1 ||| fl 2 ||| orAll ((zs 1 ++ zs 2).map Prod.snd) ||| sm.2 ||| orAll (outs.map Prod.snd) ||| lg.2 ||| p.2 ||| r.2)

/-- The k first pairs in the order of R225. -/
def spanTop : Nat → List (Nat × Nat) → List (Nat × Nat)
  | 0, _ => []
  | k + 1, l =>
    match spanBest l with
    | none => []
    | some b => b :: spanTop k (l.filter fun x => x.1 != b.1)
/-- The record of an element of rank (R228). -/
def topRecord (p : Nat × Nat) : List Byte :=
  bytesOfNat 4 (if (fDecode .f32 p.2).isNaN then fNaN .f32 else p.2) ++ bytesOfNat 4 p.1

/-- The running sum of R229: the first index whose sum passes t, with the flags. -/
def sampleRun (t : Nat) : List (Nat × Nat) → Nat × Nat → Option Nat × Nat
  | [], c => (none, c.2)
  | w :: ws, c =>
    let c' := LaneOp.step .f32 .fadd c (w.2, 0)
    if (fCompare .gt .f32 false c'.1 t).1 then (some w.1, c'.2) else sampleRun t ws c'
/-- What spsample draws (R229), with word U. The first pass sums the weights, the second runs over them. -/
def sampleOf (u : Nat) (xs : Nat → List Nat) : Nat × Nat :=
  let ws := fun p => indexed ((xs p).map fun x => if spanRank x < 0 then 0 else x)
  match (ws 0).find? fun w => w.2 == fInf .f32 with
  | some w => (w.1, 0)
  | none =>
    let sm := spanSumF ((ws 0).map Prod.snd)
    if sm.1 = 0 then (0xFFFFFFFF, sm.2 ||| flNV)
    else
      let t := fMul .f32 exactMod 0 (unitF32 u) sm.1
      let r := sampleRun t.1 (ws 1) (0, 0)
      (r.1.getD ((((ws 1).filter fun w => w.2 != 0).getLast?.getD (0, 0)).1), sm.2 ||| t.2 ||| r.2)

/-- Out bytes, result and flags of a span instruction, from the elements that each of its passes reads. -/
def SpanKind.run (k : SpanKind) (xs : Nat → List Nat) : List Byte × Nat × Nat :=
  match k with
  | .max =>
    let c := ((spanBest (indexed (xs 0))).getD (0, 0)).2
    ([], if (fDecode .f32 c).isNaN then fNaN .f32 else c, 0)
  | .argmax => ([], ((spanBest (indexed (xs 0))).getD (0, 0)).1, 0)
  | .sum => let r := spanSumF (xs 0); ([], r.1, r.2)
  | .softmax o tau =>
    let r := softmaxOf (OutFmt.elem o) tau xs
    (r.1.flatMap (bytesOfNat ((OutFmt.elem o).width / 8)), r.2.1, r.2.2)
  | .topk k =>
    let t := spanTop k (indexed (xs 0))
    ((t ++ List.replicate (k - t.length) (0xFFFFFFFF, fNaN .f32)).flatMap topRecord, 0, 0)
  | .sample u => let r := sampleOf u xs; ([], r.1, r.2)

/-! ### Issue and completion -/

/-- Out bytes of a span instruction; where the spans overlap as the rule forbids, free values (R227, R228). -/
def State.spanWrite (s : State) (wg off : Nat) (bs : List Byte) (clash : Bool) : State :=
  let (bs, s) := if clash then s.takeFreeBytes bs.length else (bs, s)
  s.updWg wg fun g => g.write off bs

/-- `back` of a landing that waits for its span instruction to complete (R91). -/
def spanBack : Nat := 0x10000000000000000
/-- The newest landing waits for its span instruction. -/
def Wave.awaitSpan (w : Wave) (n : Nat) : Wave :=
  { w with landings := w.landings.zipIdx.map fun x => if n ≤ x.2 then { x.1 with back := spanBack } else x.1 }

/-- The span instruction issues: it performs on the span as it stands, and holds its unit until it completes. sptopk has no result, and no landing
(R231). -/
def State.spanIssue (s : State) (o : SpanOp) : State :=
  let bs := o.seen.headD []
  let r := o.kind.run fun _ => (List.range o.n).map (spanAt o.ty bs)
  let t := match o.kind with
    | .topk _ => s.done.updWv fun w => { w with landings := s.wv.landings }
    | .max | .argmax => s.put fun _ => BitVec.ofNat 256 r.2.1
    | _ => s.finishFp 0 fun _ => ([BitVec.ofNat 256 r.2.1], r.2.2)
  let t := t.updWv fun w => w.awaitSpan s.wv.landings.length
  let t := if o.outLen = 0 then t else t.spanWrite s.wv.wg o.out r.1 o.clash
  { t with spans := t.spans ++ [o] }

/-- The conduct of every span instruction: the wait for presence (R224), the checks (R223), the wait for the unit. `dst` is the out span: offset,
alignment, bytes. -/
def State.spanRun (s : State) (sp : Span) (kind : SpanKind) (dst : Option (Nat × Nat × Nat)) (clash : Bool) : State :=
  let ls := s.absentOf [(sp.base, min sp.len (s.wg.spadB - sp.base))]
  if !ls.isEmpty then s.parkPresence ls
  else
    match s.spanCause sp (match kind with | .topk k => k | _ => 1) dst with
    | some c => s.faultAll c
    | none =>
      if s.spanBusy then s.stall
      else
        s.spanIssue { die := s.wv.die, unit := s.spanUnit, wave := s.wv.token, kind := kind, base := sp.base, ty := sp.ty, n := sp.n,
                      out := (dst.map Prod.fst).getD 0, outLen := (dst.map fun d => d.2.2).getD 0, clash := clash,
                      seen := [s.wg.read sp.base sp.len] }

def State.spanOf (s : State) (ty : Ty) (base n : Opnd) : Span := { base := s.uniNat tyN32 base, ty := ty, n := s.uniNat tyN32 n }

def execSpmax (ty : Ty) (base n : Opnd) (s : State) : Outcome := .next (s.spanRun (s.spanOf ty base n) .max none false)
def execSpargmax (ty : Ty) (base n : Opnd) (s : State) : Outcome := .next (s.spanRun (s.spanOf ty base n) .argmax none false)
def execSpsum (ty : Ty) (base n : Opnd) (s : State) : Outcome := .next (s.spanRun (s.spanOf ty base n) .sum none false)
def execSpsoftmax (ty : Ty) (out : OutFmt) (base dst n tau : Opnd) (s : State) : Outcome :=
  let sp := s.spanOf ty base n
  let d := s.uniNat tyN32 dst
  let osz := (OutFmt.elem out).width / 8
  let same := d = sp.base ∧ osz = spanSize ty
  .next (s.spanRun sp (.softmax out (s.uniNat tyF32 tau)) (some (d, osz, sp.n * osz)) (overlaps sp.base sp.len d (sp.n * osz) && !same))
def execSptopk (ty : Ty) (base dst n k : Opnd) (s : State) : Outcome :=
  let sp := s.spanOf ty base n
  let d := s.uniNat tyN32 dst
  let kk := s.uniNat tyN32 k
  .next (s.spanRun sp (.topk kk) (some (d, 8, kk * 8)) (overlaps sp.base sp.len d (kk * 8)))
def execSpsample (ty : Ty) (base n st i : Opnd) (s : State) : Outcome :=
  let idx := s.uniNat tyN64 i
  let u := (philox s.task.launch.seed.toNat (idx / 4) (s.thread s.lowLane) (s.uniNat tyN32 st)).word idx
  .next (s.spanRun (s.spanOf ty base n) (.sample u) none false)

/-- The elements that pass `p` of a span instruction reads: of each, a value that it has had while the instruction ran (R230). `c` counts the free
values. -/
def SpanOp.reads (o : SpanOp) (c p : Nat) : List Nat :=
  (List.range o.n).map fun j =>
    let v := if o.seen.length ≤ 1 then 0 else (Config.freeValue (c + p * o.n + j)).toNat % o.seen.length
    spanAt o.ty (o.seen.getD v []) j
/-- Bytes of a span that another agent changed between `s` and `u` count as a further value of their elements (R230). -/
def SpanOp.see (o : SpanOp) (s u : State) : SpanOp :=
  match s.waveOf o.wave with
  | none => o
  | some i =>
    let wi := (s.waveAt i).wg
    let n := o.n * spanSize o.ty
    let a := (s.wgAt wi).read o.base n
    let b := (u.wgAt wi).read o.base n
    if a = b then o
    else { o with seen := o.seen ++ [(o.seen.getLastD []).zipIdx.map fun x => if a.getD x.2 0 = b.getD x.2 0 then x.1 else b.getD x.2 0] }
/-- What a step from `s` to `u` changes under the span instructions that ran in it; those of wave `own` it does not concern, for its accesses are
ordered behind them (R230). -/
def State.spansSee (s : State) (own : Option Dword) (u : State) : State :=
  if s.spans.isEmpty then u
  else { u with spans := u.spans.map fun o => if some o.wave == own || !s.spans.contains o then o else o.see s u }
/-- An instruction whose accesses lie in the out span of a span instruction of its own wave waits for it (R230). -/
def State.spanHolds (s : State) (rs : List (Nat × Nat)) : Bool :=
  s.spans.any fun o => o.wave == s.wv.token && rs.any fun r => overlaps r.1 r.2 o.out o.outLen

/-- The result of a span instruction comes to its landing. -/
def Wave.spanLands (w : Wave) (c : Nat) (v : Option Nat) : Wave :=
  match w.landings.findIdx? fun x => x.back == spanBack with
  | none => w
  | some k =>
    { w with landings := w.landings.zipIdx.map fun x =>
        if x.2 = k then
          { x.1 with back := c, data := match v with
              | some v => x.1.data.map fun e => (e.1, e.2.1, dw v)
              | none => x.1.data }
        else x.1 }
/-- The span instruction completes; sptopk has no landing (R231). It does so with the result that it had at issue, or, where another agent wrote its span meanwhile, with that of the values
its passes read. -/
def State.spanEnd (s : State) (i : Nat) (o : SpanOp) : State :=
  let s : State := { s with spans := s.spans.erase o }
  let lands := fun (w : Wave) (v : Option Nat) => match o.kind with
    | .topk _ => w
    | _ => w.spanLands s.cycle v
  if o.seen.length ≤ 1 then s.updWave i fun w => lands w none
  else
    let r := o.kind.run (o.reads s.freeCnt)
    let s : State := { s with freeCnt := s.freeCnt + 3 * o.n }
    let s := s.updWave i fun w => (lands w (some r.2.1)).addFlags s.cycle r.2.2
    if o.outLen = 0 then s else s.spanWrite (s.waveAt i).wg o.out r.1 o.clash

/-- Event (R231): the span instruction of wave `w` that is first at its unit finishes, and the next queued one starts. -/
def execSpanComplete (w : Nat) (s : State) : Outcome :=
  match s.spans.find? fun e => e.wave == (s.waveAt w).token with
  | none => .next s
  | some e =>
    if (s.spans.find? fun x => x.die == e.die && x.unit == e.unit) = some e then .next (s.spanEnd w e) else .next s

end Sys2Proof.Machine
end

