-- ==== Sys2Proof/Machine/Engines.lean ====
section
/-! DEFINITION. The asynchronous engine of a cluster, the leat (12_async_engines.md R328-R345): bindings and rings, fetch and begin,
command checks, what commands do, completion records, reducing copies at the vaults, and the five instructions. -/
namespace Sys2Proof.Machine

/-! ## Scratchpad as the leat reaches it (R336, R341) -/

/-- A held cut covers the workgroup, whose state is saved in place (R438). -/
def State.heldWg (s : State) (wi : Nat) : Bool :=
  let t := s.taskOfWg wi
  s.cut.st == 3 && (s.wgAt wi).st == .resident && !t.handler && !(s.cut.task != 0 && t.handle == s.cut.task)
/-- Bytes of a workgroup's scratchpad, or of its image once it is saved. -/
def State.padRead (s : State) (wi off n : Nat) : List Byte :=
  let g := s.wgAt wi
  if g.st = .saved then (g.spimg.bind fun b => s.ctxRead (s.taskOfWg wi).ctx (b.toNat + off) n).getD (List.replicate n 0) else g.read off n
/-- Writes of the leat to it. Those bound for a scratchpad that a held cut has saved go to its image too (R341, R435). -/
def State.padWrite (s : State) (wi off : Nat) (bs : List Byte) : State :=
  let g := s.wgAt wi
  let t := if g.st = .saved || s.heldWg wi then
      (match g.spimg with
       | some b => s.ctxWrite (s.taskOfWg wi).ctx (b.toNat + off) bs
       | none => s)
    else s
  if g.st = .saved then t else t.updWg wi fun g => g.write off bs
/-- A read of scratchpad bytes meets an uncorrectable error; so does a write that covers a part of a word in error (R475). -/
def State.padError (s : State) (wi off n : Nat) (wr : Bool) : Bool :=
  let g := s.wgAt wi
  g.st != .saved && if wr then g.padSplit off n else g.padBad off n
def State.padWord (s : State) (wi off : Nat) : Word := w32 (natOfBytes (s.padRead wi off 4))

/-! ## Bindings (R328, R329) -/

def State.bindAt (s : State) (b : Nat) : Binding := s.bindings.getD b default
def State.updBind (s : State) (wg h : Nat) (f : Binding → Binding) : State :=
  { s with bindings := s.bindings.map fun b => if b.wg == wg && b.handle == h then f b else b }
def State.bindOf (s : State) (wg h : Nat) : Option Binding := s.bindings.find? fun b => b.wg == wg && b.handle == h
/-- The leat that serves a binding: die * 20 + cluster. -/
def State.leatOf (s : State) (wg : Nat) : Nat := (s.wgAt wg).die * 20 + (s.wgAt wg).core / 4
/-- Commands of a binding, in entry order, and those begun. -/
def State.cmdsOf (s : State) (b : Binding) : List Command := s.cmds.filter fun c => c.wg == b.wg && c.handle == b.handle
def State.begunOf (s : State) (b : Binding) : List Command := (s.cmdsOf b).filter Command.begun

/-- a - b as a signed 32-bit number. -/
def sdiff (a b : Word) : Int := (a - b).toInt

def State.setHead (s : State) (b : Binding) (v : Word) : State :=
  (s.updBind b.wg b.handle fun x => { x with head := v }).padWrite b.wg (b.ctl + 4) (bytesOfNat 4 v.toNat)
def State.setCtail (s : State) (b : Binding) (v : Word) : State :=
  (s.updBind b.wg b.handle fun x => { x with ctail := v, pubs := x.pubs.filter fun p => decide (0 < sdiff p.1 v) }).padWrite b.wg (b.ctl + 8) (bytesOfNat 4 v.toNat)
def State.setBindSt (s : State) (b : Binding) (v : Nat) : State :=
  (s.updBind b.wg b.handle fun x => { x with st := v }).padWrite b.wg (b.ctl + 16) (bytesOfNat 4 v)

/-- The entry number at which the leat stops fetching: NOTIFY, or for a draining binding the value that engunbind read (R344). -/
def State.bindLimit (s : State) (b : Binding) : Word := if b.st = 3 then b.stopAt else s.padWord b.wg b.ctl

/-- Every entry below the stop is fetched, and every begun command has its record (R344). -/
def State.bindDrained (s : State) (b : Binding) : Bool := (s.cmdsOf b).isEmpty && decide (sdiff b.stopAt b.head ≤ 0)

/-- The binding is released: STATE 0, its handle and slot free. -/
def State.unbind (s : State) (b : Binding) : State :=
  let s := s.padWrite b.wg (b.ctl + 16) (bytesOfNat 4 0)
  { s with bindings := s.bindings.filter fun x => !(x.wg == b.wg && x.handle == b.handle) }

/-- Waits of a workgroup's waves on its bindings that are over: cmpwait takes CTAIL, engunbind releases the binding (R344). -/
def State.engWake (s : State) (wi : Nat) : State :=
  let waiting := fun (h : Nat) => (s.wavesOf wi).any fun i => (s.waveAt i).lanes.any fun l =>
    match l.wait with
    | .engunbind k _ => l.st == .parked && k == h
    | _ => false
  let freed := s.bindings.filter fun b => b.wg == wi && (b.st == 2 || b.st == 3) && s.bindDrained b && waiting b.handle
  let lane := fun (l : Lane) =>
    match l.wait with
    | .cmpwait h target dst ds =>
      (match s.bindOf wi h with
       | some b => if l.st == .parked && decide (0 ≤ sdiff b.ctail target) then
           ((l.setVal dst (b.ctail.setWidth 256)).putVec ds (b.ctail.setWidth 256)).resume else l
       | none => l)
    | .engunbind h _ => if l.st == .parked && freed.any fun b => b.handle == h then l.resume else l
    | _ => l
  let s' := { s with waves := s.waves.map fun w => if w.wg == wi && w.live then w.mapLanes (fun _ l => lane l) else w }
  freed.foldl (fun t b => t.unbind b) s'

/-! ## Fields of a command (R332, R333) -/

def Command.hdr (c : Command) : Nat := natAt c.bytes 0 8
def Command.kind (c : Command) : Nat := c.hdr % 2 ^ 8
def Command.nent (c : Command) : Nat := c.hdr / 2 ^ 8 % 2 ^ 8
def Command.ssp (c : Command) : Nat := c.hdr / 2 ^ 16 % 16
def Command.dsp (c : Command) : Nat := c.hdr / 2 ^ 20 % 16
def Command.evict (c : Command) : Nat := c.hdr / 2 ^ 24 % 8
def Command.scope (c : Command) : Nat := c.hdr / 2 ^ 27 % 8
def Command.ordr (c : Command) : Bool := c.hdr / 2 ^ 30 % 2 == 1
def Command.bar (c : Command) : Bool := c.hdr / 2 ^ 31 % 2 == 1
def Command.tag (c : Command) : Nat := c.hdr / 2 ^ 32 % 2 ^ 16
def Command.barOff (c : Command) : Nat := c.hdr / 2 ^ 48 * 16
def Command.f (c : Command) (off n : Nat) : Nat := natAt c.bytes off n
def Command.src (c : Command) : Nat := c.f 8 8
def Command.dst (c : Command) : Nat := if c.kind = 5 then c.f 8 8 else if c.kind = 7 then c.f 32 8 else c.f 16 8
def Command.len (c : Command) : Nat := if c.kind = 7 then c.f 48 4 else c.f 24 4
def Command.count (c : Command) : Nat := c.f 28 4
def Command.nd (c : Command) : Nat := c.f 28 1
def Command.idx (c : Command) : Nat := c.f 32 8
def Command.istr (c : Command) : Nat := c.f 40 4
/-- COUNT, SSTR and DSTR of dimension `i`. -/
def Command.dim (c : Command) (i : Nat) : Nat × Int × Int :=
  (c.f (32 + 16 * i) 4, (w32 (c.f (36 + 16 * i) 4)).toInt, (w32 (c.f (40 + 16 * i) 4)).toInt)
def Command.dims (c : Command) : List (Nat × Int × Int) := (List.range c.nd).map c.dim
def Command.ety (c : Command) : Option Ty := Ty.ofCode (c.f 37 1)
def Command.isGs (c : Command) : Bool := c.kind == 3 || c.kind == 4

/-- Total bytes of a command (R337): what BAR adds. -/
def Command.total (c : Command) : Nat :=
  if c.kind = 2 then c.dims.foldl (fun n d => n * d.1) c.len else if c.isGs then c.len * c.count else c.len

/-- An op and type that red or redf accepts (R290, R292). -/
def redPair (op : Nat) (ty : Ty) : Bool :=
  match ty with
  | .num _ e => (e.isInt && tyW ty && decide (op ≤ 5)) || (!e.isInt && tyAtomF ty && (op == 0 || (decide (op ≤ 2) && Ty.lanes ty == 1)))
  | _ => false

/-- Address i of a run, modulo the width of its space (R335). -/
def spMod (sp : Nat) (x : Int) : Nat := (x % (2 ^ (if sp = 1 then 32 else 64) : Int)).toNat

/-- The mixed-radix digits of a number, the first fastest. -/
def digits : List Nat → Nat → List Nat
  | [], _ => []
  | c :: cs, n => n % c :: digits cs (n / c)

/-- A run of bytes: source, destination and length. -/
structure Run where
  src : Nat
  dst : Nat
  n : Nat
  deriving DecidableEq, Repr, Inhabited

/-- The runs of a command, in order (R335); the index array is read now. -/
def State.cmdRuns (s : State) (c : Command) : List Run :=
  let a := fun (x : Int) => spMod c.ssp x
  let d := fun (x : Int) => spMod c.dsp x
  if c.kind = 2 then
    (List.range (c.dims.foldl (fun n x => n * x.1) 1)).map fun k =>
      let is := (digits (c.dims.map fun x => x.1) k).zip c.dims
      { src := a (is.foldl (fun (n : Int) x => n + x.1 * x.2.2.1) c.src), dst := d (is.foldl (fun (n : Int) x => n + x.1 * x.2.2.2) c.dst),
        n := c.len }
  else if c.isGs then
    (List.range c.count).map fun k =>
      let x := (s.padWord c.wg (c.idx + 4 * k)).toNat
      if c.kind = 3 then { src := a (c.src + x * c.istr), dst := d (c.dst + k * c.len), n := c.len }
      else { src := a (c.src + k * c.len), dst := d (c.dst + x * c.istr), n := c.len }
  else [{ src := a (if c.kind = 5 ∨ c.kind = 7 then 0 else c.src), dst := d c.dst, n := c.len }]

/-- A kind that reads a source range. -/
def Command.reads (c : Command) : Bool := c.kind != 5 && c.kind != 7

/-- Scratchpad lines of the destination, ascending. -/
def destLines (c : Command) (rs : List Run) : List Nat := if c.dsp = 1 then (rs.flatMap fun r => linesIn r.dst r.n).eraseDups else []

/-! ## Accesses of the leat (R336) -/

/-- The access: as the workgroup's own, in the leat's space. -/
def State.engAcc (s : State) (wi sp : Nat) (rd wr : Bool) : Acc :=
  let g := s.wgAt wi
  { core := globalCore g.die (g.core / 4 * 4), die := g.die, ctx := (s.taskOfWg wi).ctx, user := (s.taskOfWg wi).user,
    space := if sp = 3 then .ca else if sp = 6 then .mconst else .global, rd := rd, wr := wr }
def engMod : MMod := { ord := .relaxed, scope := 5, evict := .bypass, space := .global, reassoc := false }
/-- The owner that marks a command's requests to other devices. -/
def Command.owner (c : Command) : Dword := dw (2 ^ 63 + c.id)
/-- The wave field of a command's messages: no wave's token. -/
def noWave : Dword := BitVec.allOnes 64

def State.wgMerged (s : State) (wi : Nat) : Bool := decide (2 ≤ (s.taskOfWg wi).launch.dmode)

/-- The walker's updates for a piece of a command's source (R237). -/
def State.engTouch (s : State) (c : Command) (a : Nat) : State :=
  let acc := s.engAcc c.wg c.ssp true false
  if c.ssp = 1 then s
  else
    match s.xlate acc a with
    | .ok p => s.touch acc a p
    | .error _ => s
/-- `n` bytes of a command's source. -/
def State.engRead (s : State) (c : Command) (a n : Nat) : Except Nat (List Byte) :=
  if c.ssp = 1 then
    (if (s.wgAt c.wg).spadB < a + n then .error 0x26 else if s.padError c.wg a n false then .error 0x80 else .ok (s.padRead c.wg a n))
  else
    match s.xlate (s.engAcc c.wg c.ssp true false) a with
    | .error k => .error k.code
    | .ok p =>
      if eFab p.leaf then
        let k := s.fabCause c.owner default (p.askLine engMod)
        let bs := s.fabBytes c.owner default (p.askLine engMod) (p.dpa % 128) n
        if k ≠ 0 then .error k else .ok (if s.wgMerged c.wg then s.viewOver c.wg p.vkey bs else bs)
      else if s.uncorr p.key then .error 0x80
      else if s.wgMerged c.wg ∧ c.ssp = 0 then .ok (s.viewBytes c.wg p.key n)
      else .ok (s.headerAs (c.ssp == 3) a (s.readAt p n))

/-- A write of a command on its way to a frame of another die or device; `off` is its offset in the destination. -/
def State.engSend (s : State) (c : Command) (p : Phys) (a off : Nat) (fx : WriteFx) : State :=
  let m : Msg :=
    { id := s.nextId, st := .sent, wave := noWave, srcDie := (s.wgAt c.wg).die, core := none, home := p.home, dpa := p.dpa, va := dw a,
      user := (s.taskOfWg c.wg).user, tfdn := if eFab p.leaf then some (BitVec.ofNat 8 (eTfdn p.leaf)) else none, fx := fx,
      loc := default, cause := 0, invs := [], tile := none, cmd := some c.id, coff := off, release := false, acq := none,
      keyid := eKeyid p.leaf }
  { s with msgs := s.msgs ++ [m], nextId := s.nextId + 1 }

/-- Bytes of a command's destination are written; `off` is their offset in it. -/
def State.engWrite (s : State) (c : Command) (a off : Nat) (bs : List Byte) : Except Nat State :=
  if c.dsp = 1 then
    (if (s.wgAt c.wg).spadB < a + bs.length then .error 0x26 else if s.padError c.wg a bs.length true then .error 0x80
     else .ok (s.padWrite c.wg a bs))
  else
    let acc := s.engAcc c.wg 0 false true
    match s.xlate acc a with
    | .error k => .error k.code
    | .ok p =>
      let s := s.touch acc a p
      let die := (s.wgAt c.wg).die
      if s.wgMerged c.wg then
        (if !eFab p.leaf && p.home != die && s.frameDenies (s.taskOfWg c.wg).user p.key then .error 0x27
         else if !eFab p.leaf && s.uncorr p.key then .error 0x80
         else
           match s.captureBy c.wg (eKeyid p.leaf) p.vkey bs with
           | some t => .ok t
           | none => .error 0x30)
      else if eFab p.leaf || p.home != die then .ok (s.engSend c p a off (.bytes bs))
      else if s.uncorr p.key then .error 0x80
      else .ok (s.homeWrite p.key bs)

/-! ## The checks at begin (R334) -/

/-- Reserved ranges of a command, as (offset, length). -/
def Command.reserved (c : Command) : List (Nat × Nat) :=
  (if c.bar then [] else [(6, 2)]) ++
  (if c.dsp = 1 ∧ c.kind ≠ 6 then [(if c.kind = 5 then 12 else if c.kind = 7 then 36 else 20, 4)] else []) ++
  (if c.ssp = 1 ∧ c.reads then [(12, 4)] else []) ++
  (if c.kind = 1 ∨ c.kind = 5 then [(28, 4)]
   else if c.kind = 2 then (29, 3) :: ((List.range (2 * (c.nent - 1))).map fun i =>
     if i < c.nd then (32 + 16 * i + 12, 4) else (32 + 16 * i, 16))
   else if c.isGs then [(36, 4), (44, 20)]
   else if c.kind = 6 then [(38, 26)]
   else [(52, 12)])

def kindSpaces (k : Nat) : List Nat := if k ≤ 3 then [0, 1, 3, 6] else if k = 5 then [0] else if k = 7 then [3] else [0, 1, 6]

/-- Row 1: the offset of the first field found wrong. -/
def Command.malformed (c : Command) : Option Nat :=
  if c.kind < 1 ∨ 7 < c.kind then some 0
  else if c.nent ≠ (if c.kind = 2 then 1 + (c.nd + 1) / 2 else if c.kind = 1 ∨ c.kind = 5 then 1 else 2) then some 1
  else
    match c.reserved.find? fun r => c.f r.1 r.2 != 0 with
    | some r => some r.1
    | none =>
      if !(kindSpaces c.kind).contains c.ssp ∨ (if c.kind = 6 then 0 else 1) < c.dsp then some 2
      else if c.scope < 2 ∨ 5 < c.evict then some 3
      else if c.kind = 2 ∧ (c.nd < 1 ∨ 6 < c.nd) then some 28
      else if c.kind = 6 ∧ !(c.ety.any fun t => redPair (c.f 36 1) t) then some 36
      else none

/-- Row 2: a field that is no multiple of 4, or of an RCOPY's element. -/
def Command.misaligned (c : Command) : Bool :=
  let fs :=
    (if c.reads then [c.src] else []) ++ [c.dst] ++ [c.len] ++ (if c.isGs then [c.idx, c.istr] else []) ++
    (if c.kind = 2 then (List.range c.nd).flatMap fun i => [c.f (36 + 16 * i) 4, c.f (40 + 16 * i) 4] else [])
  fs.any (fun x => x % 4 != 0) ||
  (c.kind == 6 && c.ety.any fun t => c.src % t.bytes != 0 || c.dst % t.bytes != 0 || c.len % t.bytes != 0)

/-- Row 3. -/
def Command.badSize (c : Command) : Bool :=
  c.total == 0 || decide (2 ^ 32 ≤ c.total) || ((c.kind == 2 || c.isGs) && decide (2 ^ 20 < c.len))

/-- Row 4. -/
def State.cmdPast (s : State) (c : Command) : Bool :=
  let b := (s.wgAt c.wg).spadB
  (c.isGs && decide (b < c.idx + 4 * c.count)) || (c.bar && decide (b < c.barOff + 16)) ||
  (s.cmdRuns c).any fun r => (c.dsp == 1 && decide (b < r.dst + r.n)) || (c.ssp == 1 && c.reads && decide (b < r.src + r.n))

/-- Homes of the pages of an RCOPY's destination; those of other devices stand beyond the package's own dies. -/
def State.cmdHomes (s : State) (c : Command) : List Nat :=
  ((List.range ((c.dst + c.len - 1) / 65536 + 1 - c.dst / 65536)).filterMap fun i =>
    match s.walk (s.taskOfWg c.wg).ctx (if i = 0 then c.dst else (c.dst / 65536 + i) * 65536) with
    | .ok p => some (p.home + if eFab p.leaf then 8 * (1 + eTfdn p.leaf) else 0)
    | .error _ => none).eraseDups

/-- STATUS, FCODE and FOFF of a failing check. -/
def State.cmdCheck (s : State) (c : Command) : Option (Nat × Nat × Nat) :=
  match c.malformed with
  | some off => some (3, 0, off)
  | none =>
    if c.misaligned then some (2, 0x23, 0)
    else if c.badSize then some (2, 0x26, 0)
    else if s.cmdPast c then some (2, 0x26, 0)
    else if c.kind = 6 ∧ c.dsp = 1 then some (3, 0, 2)
    else if c.kind = 6 ∧ 1 < (s.cmdHomes c).length then some (3, 0, 16)
    else if c.kind = 6 ∧ 4095 < c.f 32 4 then some (3, 0, 32)
    else none

/-! ## Fetch (R330) -/

def State.cmdUpd (s : State) (id : Nat) (f : Command → Command) : State :=
  { s with cmds := s.cmds.map fun c => if c.id == id then f c else c }

/-- An entry, by its number. -/
def State.ringEntry (s : State) (b : Binding) (i : Word) : List Byte := s.padRead b.wg (b.cbase + 32 * (i.toNat % b.ncmd)) 32

/-- A leat takes nothing new: the package is halted, or the workgroup is saved, in place too (R341, R435, R447). -/
def State.leatStopped (s : State) (wi : Nat) : Bool := s.halted || (s.wgAt wi).st != .resident || s.heldWg wi

/-- The ring overrun record, which takes its place among the binding's records. -/
def overrunCmd (id : Nat) (b : Binding) : Command :=
  { id := id, wg := b.wg, handle := b.handle, seq := b.head, bytes := [], begun := true, finished := true, status := 5, fcode := 0,
    written := 0, foff := 0, held := none, lines := [] }

/-- NOTIFY runs more than NCMD entries past HEAD (R330). -/
def State.overruns (s : State) (b : Binding) : Bool :=
  (b.st == 1 || b.st == 3) && !b.halted && decide (b.ncmd < (s.padWord b.wg b.ctl - b.head).toNat)
/-- The binding halts with its record; a command that was fetched and has not begun is not begun, and an engunbind that waits ends here. -/
def State.overrun (s : State) (b : Binding) : State :=
  let s : State :=
    { s with cmds := (s.cmds.filter fun c => c.begun || !(c.wg == b.wg && c.handle == b.handle)) ++ [overrunCmd s.nextId b], nextId := s.nextId + 1 }
  (s.updBind b.wg b.handle fun x => { x with stopAt := b.head, halted := true }).setBindSt b 2

/-- Event (R330). -/
def execNotifyFetch (b : Nat) (s : State) : Outcome :=
  let x := s.bindAt b
  let lim := s.bindLimit x
  let avail := sdiff lim x.head
  let e := s.ringEntry x x.head
  let n := natAt e 1 1
  let k := if 1 ≤ n ∧ n ≤ 4 then n else 1
  .next (if s.bindings.length ≤ b ∨ s.leatStopped x.wg ∨ (x.st ≠ 1 ∧ x.st ≠ 3) ∨ x.halted then s
    else if s.overruns x then s.overrun x
    else if ((s.cmdsOf x).any fun c => !c.begun) ∨ avail < k then s
    else
      let c : Command :=
        { id := s.nextId, wg := x.wg, handle := x.handle, seq := x.head,
          bytes := (List.range k).flatMap fun i => s.ringEntry x (x.head + w32 i), begun := false, finished := false, status := 0,
          fcode := 0, written := 0, foff := 0, held := none, lines := [] }
      { s with cmds := s.cmds ++ [c], nextId := s.nextId + 1 })

/-! ## Data (R335) -/

/-- The pieces of a run: 16 bytes where both sides are aligned, else 4. -/
def runPieces : Nat → Run → List Run
  | 0, _ => []
  | fuel + 1, r =>
    if r.n = 0 then []
    else
      let k := if r.src % 16 = 0 ∧ r.dst % 16 = 0 ∧ 16 ≤ r.n then 16 else 4
      { r with n := k } :: runPieces fuel { src := r.src + k, dst := r.dst + k, n := r.n - k }
def cmdPieces (rs : List Run) : List Run := rs.flatMap fun r => runPieces (r.n / 4 + 1) r

/-- A destination byte that is also a source or index byte of the command (R335). -/
def Command.overlap (c : Command) (rs : List Run) (a : Nat) : Bool :=
  (c.reads && c.ssp == c.dsp && rs.any fun r => r.src ≤ a && a < r.src + r.n) ||
  (c.isGs && c.dsp == 1 && c.idx ≤ a && a < c.idx + 4 * c.count)

/-- Bytes with those at overlapping addresses replaced by free values. -/
def State.freeOver (s : State) (ov : Nat → Bool) (a : Nat) (bs : List Byte) : List Byte × State :=
  if (List.range bs.length).any fun i => ov (a + i) then
    let f := s.takeFreeBytes bs.length
    ((List.range bs.length).map fun i => if ov (a + i) then f.1.getD i 0 else bs.getD i 0, f.2)
  else (bs, s)

/-- The pieces move in order, until one meets a cause: the state, the pieces left, and the cause with its offset. `data` gives the bytes of a
piece. -/
def State.movePieces (c : Command) (ov : Nat → Bool) (data : State → Run → Except Nat (List Byte)) :
    State → List Run → State × List Run × Option (Nat × Nat)
  | s, [] => (s, [], none)
  | s, r :: rs =>
    let off := (r.dst + 2 ^ 64 - c.dst) % 2 ^ 32
    let s := if c.reads then s.engTouch c r.src else s
    match data s r with
    | .error k => (s, r :: rs, some (k, off))
    | .ok bs =>
      let f := s.freeOver ov r.dst bs
      match f.2.engWrite c r.dst off f.1 with
      | .error k => (s, r :: rs, some (k, off))
      | .ok t => State.movePieces c ov data t rs

/-- Lines of other devices that the pieces read. -/
def State.cmdAsks (s : State) (c : Command) (ps : List Run) : List FabAsk :=
  if c.reads ∧ c.ssp = 0 then
    (ps.filterMap fun r =>
      match s.xlate (s.engAcc c.wg c.ssp true false) r.src with
      | .ok p => if eFab p.leaf then some (p.askLine engMod) else none
      | .error _ => none).eraseDups
  else []

/-- Four destination bytes that a command has not written become undefined (R338): where the destination can be written at all. -/
def State.spoil (s : State) (c : Command) (a : Nat) : State :=
  let f := s.takeFreeBytes 4
  if c.dsp = 1 then (if (s.wgAt c.wg).spadB < a + 4 then s else f.2.padWrite c.wg a f.1)
  else
    match s.xlate (s.engAcc c.wg 0 false true) a with
    | .error _ => s
    | .ok p =>
      if s.wgMerged c.wg then (f.2.captureBy c.wg (eKeyid p.leaf) p.vkey f.1).getD s
      else if eFab p.leaf || s.frameDenies (s.taskOfWg c.wg).user p.key || s.uncorr p.key then s
      else (f.2.meet p 4).homeWrite p.key f.1
/-- The words of some pieces that no other piece holds. -/
def unwritten (left done : List Run) : List Nat :=
  let words := fun (rs : List Run) => rs.flatMap fun r => (List.range (r.n / 4)).map fun i => r.dst + 4 * i
  (words left).eraseDups.filter fun a => !done.any fun r => decide (r.dst ≤ a) && decide (a < r.dst + r.n)
/-- A command has moved its data, or stopped on a cause with pieces `left`: presence returns, and the destination bytes that it did not write are
undefined (R248, R338). -/
def State.cmdMoved (s : State) (c : Command) (ps left : List Run) (why : Option (Nat × Nat)) : State :=
  let s := s.fabDrop c.owner default
  let s := if why.isSome then (unwritten left (ps.take (ps.length - left.length))).foldl (fun t a => t.spoil c a) s else s
  let s := s.updWg c.wg fun g => g.setPresence c.lines
  s.cmdUpd c.id fun c =>
    { c with finished := true, status := if why.isSome then 2 else 1, fcode := (why.map Prod.fst).getD 0,
             written := ((ps.take (ps.length - left.length)).map Run.n).foldl (· + ·) 0, foff := (why.map Prod.snd).getD 0, lines := [] }

/-! ## Begin (R331) -/

/-- The region that a CAOUT names, where RBASE maps CLASS 01 (R340). -/
def State.caoutRegion (s : State) (c : Command) : Option CaRegion :=
  match s.walk (s.taskOfWg c.wg).ctx (c.f 24 8) with
  | .ok p => if eClass p.leaf = 1 ∧ eFab p.leaf = false then s.caAt (s.taskOfWg c.wg).ctx (dw (c.f 24 8)) else none
  | .error _ => none

/-- The fetched command of a binding may begin. -/
def State.mayBegin (s : State) (b : Binding) : Bool :=
  match (s.cmdsOf b).find? fun c => !c.begun with
  | none => false
  | some c =>
    let begun := s.begunOf b
    decide ((b.ctail + w32 begun.length - s.padWord b.wg (b.ctl + 12)).toNat < b.ncpl) &&
    decide ((s.cmds.filter fun x => x.begun && s.leatOf x.wg == s.leatOf b.wg).length < 8) &&
    !(c.ordr && !begun.isEmpty) && !s.leatStopped b.wg &&
    ((s.cmdCheck c).isSome ||
      ((destLines c (s.cmdRuns c)).all (fun l => !(s.wgAt c.wg).absent.contains l) &&
       !(c.kind == 7 && (s.caoutRegion c).any s.caBusy) && !(c.kind == 7 && s.stagingFull)))

/-- The binding's turn in the round of its leat: no other one that may begin stands between the last served slot and its own. -/
def State.leatTurn (s : State) (b : Binding) : Bool :=
  let last := (cget (zeros 8) s.leatLast (s.leatOf b.wg)).toNat
  let dist := fun (x : Binding) => (x.slot + 16 - last) % 16
  s.bindings.all fun x => !(s.leatOf x.wg == s.leatOf b.wg && s.mayBegin x) || decide (dist b ≤ dist x)

/-- A CAOUT takes its reference (R340). -/
def State.caoutBegin (s : State) (c : Command) : State :=
  let bad := fun (k : Nat) => s.cmdMoved c (cmdPieces (s.cmdRuns c)) (cmdPieces (s.cmdRuns c)) (some (k, 0))
  let name := c.f 8 16
  match s.caoutRegion c with
  | none => bad 0x21
  | some r =>
    if name = 0 then bad 0x41
    else
      match s.nameUp r name with
      | .ok t => t.cmdUpd c.id fun c => { c with held := some (r.slot, BitVec.ofNat 128 name) }
      | .error e => bad e.code

/-- Event (R331, R334): HEAD passes the command; a command that fails a check performs nothing. -/
def execCommandBegin (b : Nat) (s : State) : Outcome :=
  let x := s.bindAt b
  .next (if s.bindings.length ≤ b ∨ !s.mayBegin x ∨ !s.leatTurn x then s
    else if s.overruns x then s.overrun x
    else
      match (s.cmdsOf x).find? fun c => !c.begun with
      | none => s
      | some c =>
        let t := s.setHead x (x.head + w32 (c.bytes.length / 32))
        let t := { t with leatLast := cset (zeros 8) t.leatLast (s.leatOf x.wg) (BitVec.ofNat 8 (x.slot + 1)) }
        match s.cmdCheck c with
        | some k => t.cmdUpd c.id fun c => { c with begun := true, finished := true, status := k.1, fcode := k.2.1, foff := k.2.2 }
        | none =>
          let c := { c with begun := true, lines := destLines c (s.cmdRuns c) }
          let t := (t.cmdUpd c.id fun _ => c).updWg c.wg fun g => g.clearPresence c.lines
          if c.kind = 7 then t.caoutBegin c else t)

/-! ## What the kinds do -/

/-- What a begun command of a kind does. -/
def State.cmdRun (s : State) (id kind : Nat) (data : Command → State → Run → Except Nat (List Byte)) : State :=
  match s.cmds.find? fun c => c.id == id with
  | none => s
  | some c =>
    if !c.begun ∨ c.finished ∨ c.kind ≠ kind then s
    else
      let rs := s.cmdRuns c
      let ps := cmdPieces rs
      let asks := s.cmdAsks c ps
      if !s.fabReady c.owner default asks then s.fabAskAll (s.wgAt c.wg).die c.owner default asks
      else if s.stagingFull then s
      else
        let r := State.movePieces c (c.overlap rs) (data c) s ps
        r.1.cmdMoved c ps r.2.1 r.2.2

def execCopy (id : Nat) (s : State) : Outcome := .next (s.cmdRun id 1 fun c t r => t.engRead c r.src r.n)
def execCopyNd (id : Nat) (s : State) : Outcome := .next (s.cmdRun id 2 fun c t r => t.engRead c r.src r.n)
def execGather (id : Nat) (s : State) : Outcome := .next (s.cmdRun id 3 fun c t r => t.engRead c r.src r.n)
def execScatter (id : Nat) (s : State) : Outcome := .next (s.cmdRun id 4 fun c t r => t.engRead c r.src r.n)
/-- Byte y of the destination is PATTERN byte (y - DST) mod 8. -/
def execEngineFill (id : Nat) (s : State) : Outcome :=
  .next (s.cmdRun id 5 fun c _ r => .ok ((List.range r.n).map fun i => BitVec.ofNat 8 (c.f (16 + (r.dst - c.dst + i) % 8) 1)))
/-- Content of the tree from OFF (R340). -/
def execCaout (id : Nat) (s : State) : Outcome :=
  .next (s.cmdRun id 7 fun c t r =>
    match t.caoutRegion c with
    | none => .error 0x21
    | some g =>
      match t.caShape g (c.f 8 16) with
      | .error e => .error e.code
      | .ok sh =>
        if sh.1 < c.f 40 8 + c.len then .error 0x26
        else
          match t.caContent g (c.f 8 16) (c.f 40 8 + (r.dst - c.dst)) r.n with
          | .ok bs => .ok bs
          | .error e => .error e.code)

/-! ## Reducing copies (R339) -/

/-- An element of an RCOPY and its place; or the cause that stops it. -/
def State.rcElem (s : State) (c : Command) (ty : Ty) (i : Nat) : Except Nat (RcElem × Phys) :=
  let n := ty.bytes
  match s.engRead c (c.src + i * n) n with
  | .error k => .error k
  | .ok bs =>
    match s.xlate (s.engAcc c.wg 0 true true) (c.dst + i * n) with
    | .error k => .error k.code
    | .ok p =>
      if !eFab p.leaf && p.home != (s.wgAt c.wg).die && s.frameDenies (s.taskOfWg c.wg).user p.key then .error 0x27
      else if !eFab p.leaf && s.uncorr p.key then .error 0x80
      else .ok ({ off := i * n, key := p.vkey, keyid := eKeyid p.leaf, v := valOfBytes bs, undef := c.overlap (s.cmdRuns c) (c.dst + i * n) }, p)
/-- The walker's updates for an element. -/
def State.rcTouch (s : State) (c : Command) (a d : Nat) : State :=
  let s := s.engTouch c a
  let acc := s.engAcc c.wg 0 true true
  match s.xlate acc d with
  | .ok p => s.touch acc d p
  | .error _ => s
/-- Elements up to the first cause. -/
def State.rcElems (s : State) (c : Command) (ty : Ty) : Nat → Nat → List (RcElem × Phys) × Option (Nat × Nat)
  | 0, _ => ([], none)
  | n + 1, i =>
    match s.rcElem c ty i with
    | .error k => ([], some (k, i * ty.bytes))
    | .ok e =>
      let r := s.rcElems c ty n (i + 1)
      (e :: r.1, r.2)

def State.seqRegion (s : State) (d r : Nat) : SeqRegion :=
  (s.seqs.find? fun x => x.die == d && x.region == r).getD
    { die := d, region := r, next := 0, exp := List.replicate 32 0, failed := false }
def State.setSeq (s : State) (x : SeqRegion) : State :=
  { s with seqs := x :: s.seqs.filter fun y => !(y.die == x.die && y.region == x.region) }

/-- A part fails, unapplied: its command reports 0x33 (R339). -/
def State.partFails (s : State) (p : SeqPart) : State :=
  let off := p.elems.foldl (fun m e => min m e.off) (2 ^ 32 - 1)
  s.cmdUpd p.cmd fun c =>
    { c with status := 2, fcode := if c.fcode = 0 then 0x33 else c.fcode,
             foff := if p.elems.isEmpty ∧ c.fcode = 0 then c.foff else if c.fcode = 0 then off else min off c.foff }
/-- A command whose parts are all gone is finished. -/
def State.partsDone (s : State) (id : Nat) : State :=
  if s.parts.any fun p => p.cmd == id then s
  else s.cmdUpd id fun c => { c with finished := true, status := if c.status = 0 then 1 else c.status }

/-- Opcode of the function of an op and type. -/
def rcOpc (op : Nat) : Ty → Nat
  | .num _ e => if e.isInt then redOpc op else redfOpc op
  | _ => redOpc op
/-- An element bound for a frame of another device, whose vaults keep the order of SEQ (R242, R339). -/
def State.rcSend (s : State) (c : Command) (ty : Ty) (e : RcElem) (p : Phys) : State :=
  if e.undef then
    let f := s.takeFreeBytes ty.bytes
    f.2.engSend c p (c.dst + e.off) e.off (.bytes f.1)
  else s.engSend c p (c.dst + e.off) e.off (.rmw (rcOpc (c.f 36 1) ty) ty [e.v])

/-- Event (R339): the command reads its source and sends a part, empty or not, to every vault of the home die. -/
def execRcopy (id : Nat) (s : State) : Outcome :=
  match s.cmds.find? fun c => c.id == id with
  | none => .next s
  | some c =>
    if !c.begun ∨ c.finished ∨ c.kind ≠ 6 ∨ s.parts.any fun p => p.cmd == id then .next s
    else
      let ps := cmdPieces (s.cmdRuns c)
      let asks := s.cmdAsks c ps
      if !s.fabReady c.owner default asks then .next (s.fabAskAll (s.wgAt c.wg).die c.owner default asks)
      else
        let ty := c.ety.getD tyN32
        let s := (List.range (c.len / ty.bytes)).foldl (fun s i => s.rcTouch c (c.src + i * ty.bytes) (c.dst + i * ty.bytes)) s
        let r := s.rcElems c ty (c.len / ty.bytes) 0
        let home := (s.cmdHomes c).headD (s.wgAt c.wg).die
        let t := s.fabDrop c.owner default
        let t := match r.2 with
          | some k => t.cmdUpd id fun c => { c with status := 2, fcode := k.1, foff := k.2 }
          | none => t
        if 8 ≤ home ∧ !s.wgMerged c.wg then
          let t := r.1.foldl (fun t e => t.rcSend c ty e.1 e.2) t
          .next ((t.cmdUpd id fun c => { c with written := r.1.length * ty.bytes }).partsDone id)
        else
        let home := home % 8
        let parts := (List.range 32).map fun v =>
          ({ die := home, region := c.f 32 4, vault := v, seq := w32 (c.f 28 4), cmd := id, since := s.cycle,
             elems := (r.1.filter fun e => vaultOf e.2.dpa == v).map Prod.fst, op := c.f 36 1, ty := ty } : SeqPart)
        if (s.seqRegion home (c.f 32 4)).failed then .next ((parts.foldl (fun t p => t.partFails p) t).partsDone id)
        else .next { t with parts := t.parts ++ parts }

/-- An element of a part is applied, under the key ID of its page: at its home, or in the view of a merged workgroup (R336, R402). One that is also
a source byte of its command is undefined (R335). -/
def State.applyElem (s : State) (p : SeqPart) (e : RcElem) : State :=
  let n := p.ty.bytes
  let f := s.takeFreeBytes n
  match (s.cmds.find? fun c => c.id == p.cmd).filter fun c => s.wgMerged c.wg with
  | some c =>
    let old := valOfBytes (s.viewBytes c.wg e.key n)
    let r := if e.undef then (f.1, f.2) else (bytesOfVal n (foldAtom (rcOpc p.op p.ty) p.ty old [(e.v, 0)]).1, s)
    (match r.2.captureBy c.wg e.keyid e.key r.1 with
     | some t => t
     | none => s.cmdUpd c.id fun c =>
         { c with status := 2, fcode := if c.fcode = 0 then 0x30 else c.fcode, foff := if c.fcode = 0 then e.off else min e.off c.foff })
  | none =>
    let t := s.meetKey e.key n e.keyid
    if e.undef then (t.takeFreeBytes n).2.homeWrite e.key (t.takeFreeBytes n).1 else t.homeRmw e.key (rcOpc p.op p.ty) p.ty [(e.v, 0)]

/-- Event (R339): the part whose SEQ is next at a vault is applied. -/
def execVaultPartApply (d v r : Nat) (s : State) : Outcome :=
  let x := s.seqRegion d r
  match s.parts.find? fun p => p.die == d && p.region == r && p.vault == v && p.seq == x.exp.getD v 0 with
  | none => .next s
  | some p =>
    if s.stagingFull then .next s
    else
      let t := p.elems.foldl (fun t e => t.applyElem p e) { s with parts := s.parts.erase p }
      let t := t.setSeq { x with exp := updAt x.exp v (· + 1) }
      let t := t.cmdUpd p.cmd fun c => { c with written := c.written + p.elems.length * p.ty.bytes }
      .next (t.partsDone p.cmd)

/-- Event (R339): a part has waited 2^24 cycles: every waiting part of the region fails, and the region with them. -/
def execSequenceGapTimeout (d v r : Nat) (s : State) : Outcome :=
  let late := s.parts.any fun p =>
    p.die == d && p.region == r && p.vault == v && p.seq != (s.seqRegion d r).exp.getD v 0 && decide (p.since + 2 ^ 24 ≤ s.cycle)
  if !late then .next s
  else
    let out := s.parts.filter fun p => p.die == d && p.region == r
    let t := out.foldl (fun t p => t.partFails p) { s with parts := s.parts.filter fun p => !(p.die == d && p.region == r) }
    let t := t.setSeq { s.seqRegion d r with failed := true }
    .next ((out.map SeqPart.cmd).eraseDups.foldl (fun t i => t.partsDone i) t)

/-! ## Completion (R337, R338) -/

def Command.record (c : Command) : List Byte :=
  bytesOfNat 4 c.foff ++ bytesOfNat 1 c.status ++ bytesOfNat 1 c.fcode ++ bytesOfNat 2 c.tag ++ bytesOfNat 4 c.written ++
  bytesOfNat 4 c.seq.toNat

/-- A malformed command of which the spec gives no total: its kind, its entry count or its dimension count is wrong. -/
def Command.noTotal (c : Command) : Bool := c.status == 3 && (c.foff == 0 || c.foff == 1 || (c.kind == 2 && c.foff == 28))
/-- Step 1: BAR adds the bytes; a failing update is not applied and the record says so. -/
def State.cmdBarrier (s : State) (c : Command) : State × Command :=
  if c.bar ∧ 1 ≤ c.status ∧ c.status ≤ 3 ∧ c.barOff + 16 ≤ (s.wgAt c.wg).spadB then
    let old := Barrier.ofBytes (s.padRead c.wg c.barOff 16)
    let f := s.takeFreeBytes 4
    let s := if c.noTotal then f.2 else s
    match old.deliver (if c.noTotal then natOfBytes f.1 else c.total) with
    | .error _ => (s, { c with status := 2, fcode := 0x70, foff := if c.status = 2 then c.foff else c.written })
    | .ok b =>
      let t := s.padWrite c.wg c.barOff b.bytes
      (if b.phase ≠ old.phase then t.phaseAdvanced (barKey c.wg (.spad c.barOff)) else t, c)
  else (s, c)

/-- A CAOUT gives its reference back (R340). -/
def State.caoutEnd (s : State) (c : Command) : State :=
  match c.held with
  | none => s
  | some h =>
    match s.caSlot h.1 with
    | none => s
    | some r =>
      match s.nameDown { r with ctx := (s.taskOfWg c.wg).ctx } h.2.toNat with
      | .ok t => t
      | .error _ => s

/-- Event (R337): the oldest command of a binding, finished and its writes performed, completes. -/
def execCommandComplete (b : Nat) (s : State) : Outcome :=
  let x := s.bindAt b
  match (s.begunOf x).head? with
  | none => .next s
  | some c =>
    if s.bindings.length ≤ b ∨ !c.finished ∨ s.msgs.any (fun m => m.cmd == some c.id) ∨ s.stagingFull then .next s
    else
      let r := s.cmdBarrier c
      let t := r.1.padWrite c.wg (x.crbase + 16 * (x.ctail.toNat % x.ncpl)) r.2.record
      let t := t.setCtail x (x.ctail + 1)
      let t := { t with cmds := t.cmds.filter fun y => y.id != c.id }
      .next ((t.caoutEnd c).engWake c.wg)

/-! ## The instructions (R343, R344) -/

/-- The three areas of a ring set. -/
def ringAreas (ctl cbase ncmd crbase ncpl : Nat) : List (Nat × Nat) := [(ctl, 64), (cbase, 32 * ncmd), (crbase, 16 * ncpl)]
def pow2In (n : Nat) : Bool := (List.range 11).any fun k => n == 2 ^ (k + 2)
/-- Two areas of a list overlap. -/
def anyOverlap : List (Nat × Nat) → Bool
  | [] => false
  | a :: as => as.any (fun b => overlaps a.1 a.2 b.1 b.2) || anyOverlap as

/-- The checks of engbind, in order. -/
def State.bindCause (s : State) (ctl cbase ncmd crbase ncpl : Nat) : Option Cause :=
  let mine := ringAreas ctl cbase ncmd crbase ncpl
  let others := (s.bindings.filter fun b => b.wg == s.wv.wg).flatMap fun b => ringAreas b.ctl b.cbase b.ncmd b.crbase b.ncpl
  if ctl % 64 ≠ 0 ∨ cbase % 32 ≠ 0 ∨ crbase % 16 ≠ 0 then some (cause 0x23)
  else if !pow2In ncmd ∨ !pow2In ncpl ∨ anyOverlap mine ∨ mine.any fun a => others.any fun o => overlaps a.1 a.2 o.1 o.2 then
    some (causeT 0x26 7)
  else if mine.any fun a => decide (s.wg.spadB < a.1 + a.2) then some (causeT 0x26 3)
  else none

def execEngbind (ctl cbase ncmd crbase ncpl : Opnd) (s : State) : Outcome :=
  let c := s.uniNat tyN32 ctl
  let cb := s.uniNat tyN32 cbase
  let nc := s.uniNat tyN32 ncmd
  let rb := s.uniNat tyN32 crbase
  let np := s.uniNat tyN32 ncpl
  .next (match s.bindCause c cb nc rb np with
    | some k => s.faultAll k
    | none =>
      let ls := s.wg.absentIn c 64
      if !ls.isEmpty then s.parkPresence ls
      else
        let wi := s.wv.wg
        let h := (List.range 4).find? fun h => (s.bindOf wi h).isNone
        let slot := (List.range 16).find? fun k => !(s.bindings.any fun b => s.leatOf b.wg == s.leatOf wi && (s.wgAt b.wg).st != .saved && b.slot == k)
        match h, slot with
        | some h, some k =>
          let b : Binding :=
            { wg := wi, handle := h, slot := k, ctl := c, cbase := cb, ncmd := nc, crbase := rb, ncpl := np, head := 0, ctail := 0,
              st := 1, stopAt := 0, halted := false, pubs := [] }
          if !s.settled then s.stall
          else (({ s with bindings := s.bindings ++ [b] } : State).padWrite wi c (bytesOfNat 16 0 ++ bytesOfNat 4 1)).put fun _ =>
            BitVec.ofNat 256 h
        | _, _ => s.put fun _ => BitVec.ofNat 256 0xFFFFFFFF)

/-- The binding that h names, or fault 0x26 TAG 8. -/
def State.withBind (s : State) (h : Opnd) (f : Binding → State) : State :=
  match s.bindOf s.wv.wg (s.uniNat tyN32 h) with
  | some b => f b
  | none => s.faultAll (causeT 0x26 8)

/-- Issued again by a wave that was saved in its wait, it reads NOTIFY again. -/
def execEngunbind (h : Opnd) (s : State) : Outcome :=
  .next (s.withBind h fun b =>
    let stop := if b.halted then b.head else s.padWord b.wg b.ctl
    let t := (s.updBind b.wg b.handle fun x => { x with stopAt := stop }).setBindSt b 3
    let b' := { b with st := 3, stopAt := stop }
    if t.bindDrained b' then (t.unbind b').done
    else (t.park t.active fun _ => .engunbind b.handle stop))

def execCmpwait (h target : Opnd) (s : State) : Outcome :=
  let k := w32 (s.uniNat tyN32 target)
  .next (s.withBind h fun b =>
    if 0 ≤ sdiff b.ctail k then s.put fun _ => b.ctail.setWidth 256
    else s.park s.active fun _ => .cmpwait b.handle k s.issue.loc.vnum s.issue.dsts)

def execCmpnext (h done : Opnd) (s : State) : Outcome :=
  let n := s.uniNat tyN32 done
  .next (s.withBind h fun b =>
    let chead := s.padWord b.wg (b.ctl + 12)
    if (b.ctail - chead).toNat < n then s.faultAll (causeT 0x26 8)
    else
      let ls := s.wg.absentIn b.ctl 64
      if !ls.isEmpty then s.parkPresence ls
      else if !s.settled then s.stall
      else
        let c := chead + w32 n
        (s.padWrite b.wg (b.ctl + 12) (bytesOfNat 4 c.toNat)).put fun _ =>
          if b.ctail = c then BitVec.ofNat 256 0xFFFFFFFF else BitVec.ofNat 256 (b.crbase + 16 * (c.toNat % b.ncpl)))

def execEngstat (h : Opnd) (code : BitVec 30) (s : State) : Outcome :=
  .next (s.withBind h fun b => s.put fun _ => BitVec.ofNat 256 (
    if code = 0 then (s.begunOf b).length else if code = 1 then b.head.toNat else if code = 2 then b.ctail.toNat else b.st))

end Sys2Proof.Machine
end

