-- ==== Sys2Proof/Machine/Fetch.lean ====
section
/-! DEFINITION. Reading an instruction of a loaded module (02_daxdex_form.md R52, R55-R61, 04_control.md R141, R142): its words, how many
values it defines, and the place of a location of a function. -/
namespace Sys2Proof.Machine

/-- Types of the results of an instruction in raw form (R52): a call's are those of the callee's signature. -/
def resTypes (funcs : List FuncInfo) (sigs : List SigInfo) (links : List LinkInfo) (r : Raw) : List Ty :=
  let k := firstImm r.ops
  if r.opc = 0x004 then ((funcs[k]?).map fun f => f.sig.results).getD []
  else if r.opc = 0x005 then ((sigs[k]?).map SigInfo.results).getD []
  else if r.opc = 0x006 then (((links[k]?).bind LinkInfo.sig).map SigInfo.results).getD []
  else ((rowOf r.opc).map fun rw => rw.res r.ty).getD []
def Module.resTypes (m : Module) (r : Raw) : List Ty := Machine.resTypes m.funcs m.sigs m.links r

/-- Parameter counts of the blocks of a function (R61). -/
def FuncInfo.argc (f : FuncInfo) (b : Nat) : Nat := ((f.blocks[b]?).map fun x => x.args.length).getD 0

/-- The raw instruction at a byte offset of the image. -/
def Module.rawAt (m : Module) (f : FuncInfo) (off : Nat) : Except Reject Raw :=
  (decodeRaw m.user f.argc (wordsOfBytes (m.image.drop off))).map fun r => r.1

/-- The instruction at a location, and the offset of the next one. -/
def State.fetch (s : State) (l : Loc) : Except Reject (Instr × Nat) :=
  match s.moduleOf l.handle, s.funcOf l.handle l.func with
  | some m, some f =>
    (match m.rawAt f l.off with
     | .error e => .error e
     | .ok r =>
       match ofRaw r with
       | some i => .ok (i, l.off + 4 * r.words.length)
       | none => .error .operandKind)
  | _, _ => .error .overrun

end Sys2Proof.Machine
end

