-- ==== Sys2Proof/Machine/Context.lean ====
section
/-! DEFINITION. Register spaces, context save and restore (16_traps_preemption.md R431-R436), and the kill of R386. -/
namespace Sys2Proof.Machine

/-! ## The register-space pool (R431) -/

/-- Bytes of a register space, and the units in which the pool is given out. -/
def spaceUnit : Nat := 2 ^ 20
/-- Units of the image of a scratchpad. -/
def imageUnits (spad : Nat) : Nat := (spad + spaceUnit - 1) / spaceUnit

/-- Units of a die's pool, from its first 1 MiB boundary. -/
def State.poolFirst (s : State) (d : Nat) : Nat := ((s.dieGet d 0x03A).toNat + spaceUnit - 1) / spaceUnit
def State.poolEnd (s : State) (d : Nat) : Nat := ((s.dieGet d 0x03A).toNat + (s.dieGet d 0x03B).toNat) / spaceUnit
/-- Units in use, by live waves and by images of workgroups that have not ended. -/
def State.poolTaken (s : State) : List Nat :=
  (s.waves.filter Wave.live).filterMap (fun w => w.wbp.map fun b => b.toNat / spaceUnit) ++
  (s.wgs.filter fun g => g.st != .ended).flatMap fun g =>
    match g.spimg with
    | some b => (List.range (imageUnits g.spadB)).map fun i => b.toNat / spaceUnit + i
    | none => []
/-- The lowest run of `n` free units of a die's pool that avoids some units. -/
def State.poolRun (s : State) (d n : Nat) (avoid : List Nat) : Option Nat :=
  let used := s.poolTaken ++ avoid
  (List.range (s.poolEnd d + 1 - s.poolFirst d)).findSome? fun i =>
    let u := s.poolFirst d + i
    if u + n ≤ s.poolEnd d ∧ (List.range n).all fun k => !used.contains (u + k) then some u else none
/-- The lowest `n` free units. -/
def State.poolUnits (s : State) (d : Nat) : Nat → List Nat → Option (List Nat)
  | 0, acc => some acc
  | n + 1, acc =>
    match s.poolRun d 1 acc with
    | some u => s.poolUnits d n (acc ++ [u])
    | none => none

/-! ## What stands still before a save or a kill -/

/-- The wave occupies a slot and may issue. -/
def State.resident (s : State) (i : Nat) : Bool := (s.waveAt i).live && (s.wgAt (s.waveAt i).wg).st == .resident
/-- Workgroups of the gang of a workgroup. -/
def State.gangOfWg (s : State) (wi : Nat) : List Nat :=
  (List.range s.wgs.length).filter fun i =>
    (s.wgAt i).task == (s.wgAt wi).task && (s.wgAt i).gangNum (s.taskOfWg i) == (s.wgAt wi).gangNum (s.taskOfWg wi) &&
    (s.wgAt i).st != .ended
def State.gangStill (s : State) (wi : Nat) : Bool := (s.gangOfWg wi).all fun g => (s.wavesOf g).all s.waveQuiet

/-! ## Save (R435) -/

/-- Dirty lines of a wave's own words go home, and leave the L1 (R252). -/
def State.flushWaveLines (s : State) (i : Nat) : State :=
  let mine := fun (l : L1Line) => l.sp == 2 && l.owner == (s.waveAt i).token
  let t := (s.l1.filter mine).foldl (fun s l => s.l1WriteBack l) s
  { t with l1 := t.l1.filter fun l => !mine l }
/-- What follows the delivery of a fault once the wave's issued operations are complete (R92, R422): every landing lands, the wave is saved into its
register space as a context save does, FAULTED with its record, and the record goes to the notice ring. -/
def State.finishFault (s : State) (i : Nat) : State :=
  let w := s.waveAt i
  if !w.unsaved || !s.waveQuiet i then s
  else
    let t := (s.updWave i fun w => { w.landAll with unsaved := false }).flushWaveLines i
    let t := (t.saveBlock i).l1Acquire (globalCore w.die w.core)
    match w.frec with
    | some r => t.notice (t.taskOfWg w.wg).ctx r
    | none => t

/-- Every fault that is due is delivered before the save (R274, R435 step 2): the late ones in the order of their arrival, then the pending
asynchronous one. A wave that has faulted already stays where it is. -/
def State.deliverDue (s : State) (i : Nat) : State :=
  let s := s.finishFault i
  let w := s.waveAt i
  let g := if w.faulted then (w.resumeAt, 0) else (w.groups.head?).getD (w.resumeAt, 0)
  let t := w.late.foldl (fun t f =>
    (t.takeFault i g.2 g.1
      { t.mkRec w f.loc { code := f.cause, tag := f.tag } f.prim f.sec f.addr with late := true, die := f.die }).finishFault i) s
  let t := match w.pend with
    | some p => (t.takeFault i g.2 g.1 (t.pendRec w g.2 p)).finishFault i
    | none => t
  t.updWave i fun w => { w with late := [], pend := none }

/-- Dirty lines of a workgroup's own words go home, and leave the L1 (step 4). -/
def State.flushOwnLines (s : State) (wi : Nat) : State :=
  ((s.l1.filter (s.ownLine wi)).foldl (fun s l => s.l1WriteBack l) s).dropOwnLines wi

/-- The bytes of the workgroup block (R433). -/
def State.wgBlock (s : State) (wi : Nat) : List Byte :=
  let g := s.wgAt wi
  let t := s.taskOfWg wi
  let fc := if t.launch.dmode % 2 = 1 then ((s.gangOf wi).map Gang.fc).getD 0 else 0
  let out := (s.cmds.filter fun c => c.wg == wi && c.begun).length
  bytesOfNat 8 fc ++ bytesOfNat 1 (if t.launch.dmode % 2 = 1 then fc % max 1 t.launch.nwave else 0) ++ bytesOfNat 1 (g.scoreStart % 4) ++
  bytesOfNat 6 0 ++ bytesOfNat 8 (g.spimg.getD 0).toNat ++ bytesOfNat 8 out ++
  ((List.range 4).flatMap fun h =>
    match s.bindOf wi h with
    | some b => wordsBytes 4 [b.ctl, b.cbase, b.ncmd, b.crbase, b.ncpl, b.st] ++ bytesOfNat 8 0
    | none => List.replicate 32 0) ++ List.replicate 3936 0

/-- Lanes that issue their instruction again after a restore: those that wait for a line, waitval, cmpwait and engunbind (R249, R286, R344). -/
def Lane.reissue (l : Lane) : Lane :=
  match l.wait with
  | .presence _ => { l with st := .running, wait := .none }
  | .waitval .. => { l with st := .running, wait := .none }
  | .cmpwait _ _ _ _ => { l with st := .running, wait := .none }
  | .engunbind _ _ => { l with st := .running, wait := .none }
  | _ => l

/-- The state of one workgroup goes to memory, in place (R435 steps 3-7): a sequentially consistent fence at scope 6 (R274). -/
def State.saveInPlace (s : State) (wi : Nat) : State :=
  let g := s.wgAt wi
  let s := (s.flushOwnLines wi).l1Acquire (globalCore g.die g.core)
  let s := (s.wavesOf wi).foldl (fun s i => (s.updWave i Wave.landAll).saveBlock i) s
  let s := match g.spimg with
    | some b => s.ctxCopyOut (s.taskOfWg wi).ctx b.toNat g.spadB g.spad
    | none => s
  match (s.wavesOf wi).find? fun i => (s.waveAt i).num == 0 with
  | some i => s.blockPut i 0x1000 (s.wgBlock wi)
  | none => s

/-- A workgroup leaves its cores with its state saved. -/
def State.saveWg (s : State) (wi : Nat) : State :=
  let s := (s.wavesOf wi).foldl (fun s i => (s.deliverDue i).updWave i fun w => { w with contAsk := none }) s
  let s := s.saveInPlace wi
  let s := { s with cmds := s.cmds.filter fun c => !(c.wg == wi && !c.begun) }
  let s := (s.leaveCluster wi).uncharge wi
  s.updWg wi fun g => { g with st := .saved, absent := [] }

/-- The gang of a workgroup waits for admission again. -/
def State.gangWaits (s : State) (wi : Nat) : State :=
  let t := s.taskOfWg wi
  let n := (s.wgAt wi).gangNum t
  s.updTask t.handle fun t =>
    let adm := t.admitted.filter (· != n)
    { t with admitted := adm, st := if adm.isEmpty ∧ t.ended = 0 then .ready else t.st }

/-- Event (R435): the gang of workgroup `g`, stopped and quiet, is saved. -/
def execContextSave (g : Nat) (s : State) : Outcome :=
  .next (if (s.wgAt g).st ≠ .saving ∨ g ≥ s.wgs.length ∨ !s.gangStill g ∨ s.stagingFull then s
    else
      let ms := (s.gangOfWg g).filter fun i => (s.wgAt i).st == .saving
      ms.foldl (fun s i => (s.saveWg i).gangWaits i) s)

/-! ## Restore (R436) -/

/-- A lane program counter of the state block: the lane keeps its place when the bytes are those that the save wrote; else the map
point with that bundle offset (R427). -/
def State.lpcLoc (s : State) (w : Wave) (old : Loc) (v : Dword) : Loc :=
  if s.lpcOf w old = v then old
  else
    let h := bits v 48 16
    let f := bits v 32 16
    match s.imageOf w (s.transKey w h f) with
    | some i =>
      (match i.plan.findIdx? fun b => b.boff == bits v 0 32 with
       | some n => i.bunLoc { old with handle := h, func := f, bud := w.budget } n
       | none => old)
    | none => old

def LaneSt.ofCode (c : Nat) (l : Lane) : Lane :=
  if c = l.st.code then l
  else if c = 0 then { l with st := .running, wait := .none }
  else if c = 2 then { l with st := .exited, wait := .none }
  else if c = 3 then { l with st := .stopped }
  else l

/-- The wait of a lane as a wait record of the state block gives it (R432, R436): none for kind 0. -/
def Wait.load (old : Wait) (r : Nat × Nat × Nat) : Wait :=
  if r = (old.record.1, old.record.2.1 % 0x100000000, old.record.2.2) then old
  else
    match r.1, old with
    | 1, .barrier c sp _ _ => .barrier c sp (dw r.2.2) (w32 r.2.1)
    | 1, _ => .barrier 6 .global (dw r.2.2) (w32 r.2.1)
    | 2, .waitval ty m _ v c d rs _ => .waitval ty m (dw r.2.2) v c d rs false
    | 3, _ => .sleep (if r.2.1 = 0 then Option.none else Option.some r.2.1)
    | 4, _ => .rejoin (r.2.1 % 8)
    | 5, _ => .contret
    | 6, .cmpwait _ _ d rs => .cmpwait r.2.2 (w32 r.2.1) d rs
    | 7, _ => .dmerge
    | _, _ => Wait.none
/-- A parked lane takes the record of its group: the wait records number the groups as `Wave.waits` does. -/
def Wave.loadWait (w : Wave) (rs : List (Nat × Nat × Nat)) (l : Lane) : Lane :=
  if l.st ≠ .parked then l
  else
    let ls := ((w.lanes.filter fun l => l.st == .parked).map fun l => (l.pc, l.wait.record)).eraseDups
    match rs[ls.idxOf (l.pc, l.wait.record)]? with
    | none => l
    | some r =>
      let x := l.wait.load r
      { l with wait := x, st := if x = .none then .running else .parked }

/-- The wave takes the fields of its state block (R432) and of the scalar, format and BPOS areas (R431); its other registers and its tiles stay in
the register space until they are read (R436). A line in error is found at its next bundle (R423). -/
def State.loadBlock (s : State) (i : Nat) : State :=
  let w := s.waveAt i
  let ctx := (s.taskOfWg w.wg).ctx
  let read := fun (off n : Nat) => w.wbp.bind fun b => s.ctxRead ctx (b.toNat + off) n
  let bad := fun (off n : Nat) => w.wbp.any fun b => s.ctxBad ctx (b.toNat + off) n
  match read stateBlockOff 0x600, read 0x9A000 0x4280 with
  | some bs, some ar =>
    if bad stateBlockOff 0x600 || bad 0x9A000 0x4280 then
      s.updWave i fun w => { w with cold := w.spaceLines, blockBad := true }
    else
      let f := fun (off n : Nat) => natAt bs off n
      let ws := fun (off n k : Nat) => (List.range n).map fun j => w32 (f (off + k * j) 4)
      let fl := f 0x294 4
      let rs := [(f 0x300 4, f 0x304 4, f 0x308 8), (f 0x310 4, f 0x314 4, f 0x318 8)]
      let lane := fun (L : Nat) (l : Lane) =>
        let l := LaneSt.ofCode (f 0x2F8 8 / 4 ^ L % 4) (w.loadWait rs l)
        { l with
          pc := s.lpcLoc w l.pc (dw (f (0x400 + 8 * L) 8)), fb := f (0x380 + 4 * L) 4, rsidx := dw (f (0x500 + 8 * L) 8),
          bpos := natAt ar (0x4200 + 4 * L) 4,
          s := (List.range 64).foldl (fun c n => cset (zeros 64) c n (dw (natAt ar (256 * n + 8 * L) 8))) l.s,
          fm := (List.range 4).foldl (fun c n => cset fmDflt c n (w32 (natAt ar (0x4000 + 128 * n + 4 * L) 4) &&& fmMask)) l.fm }
      s.updWave i fun w =>
        { w.mapLanes lane with
          q := (List.range 16).foldl (fun c n => cset (zeros 32) c n (w32 (f (0x200 + 4 * n) 4))) w.q
          enr := ws 0x240 8 4, prk := ws 0x260 8 4, fpf := BitVec.ofNat 5 (f 0x290 4),
          wkp := fl % 2 == 1, incont := fl / 2 % 2 == 1, csig := fl / 4 % 2 == 1, faulted := fl / 8 % 2 == 1, cutStop := fl / 16 % 2 == 1,
          retired := dw (f 0x298 8), idx := ws 0x2A0 6 4, trip := ws 0x2B8 6 4, starve := f 0x2D4 2,
          unoffered := if f 0x2D6 2 = w.sinceOffer then w.unoffered else w.unoffered.map fun e => (e.1, f 0x2D6 2),
          cmask := w32 (f 0x2DC 4), contfn := dw (f 0x2E0 8), contarg := dw (f 0x2E8 8),
          rpc := s.lpcLoc w w.rpc (dw (f 0x2F0 8)), pend := if f 0x320 1 = 0 then none else w.pend
          cold := w.spaceLines, blockBad := false }
  | _, _ => s

/-- Words that a run of bytes spells, from number `base`; bytes and words that a table does not list are zero. -/
def cellWords (base : Nat) : Cells 8 → Cells 32
  | [] => []
  | (k, v) :: m =>
    let x : Word := v.setWidth 32 <<< (8 * (k % 4))
    match cellWords base m with
    | (j, y) :: r => if j = base + k / 4 then (j, x ||| y) :: r else (base + k / 4, x) :: (j, y) :: r
    | [] => [(base + k / 4, x)]
/-- A read brings line `n` of a wave's register space back (R436). -/
def State.fillLine (s : State) (i n : Nat) : State :=
  let w := s.waveAt i
  let cs := s.ctxCopyIn (s.taskOfWg w.wg).ctx ((w.wbp.getD 0).toNat + spaceOff w.die n) (spaceLen w.die n)
  s.updWave i fun w =>
    { (if n < 768 then w.mapLanes fun L l => { l with g := cset (zeros 32) l.g n (cget (zeros 32) (cellWords 0 cs) L) }
       else
         { w with tiles := (w.tiles.filter fun e => decide (e.1 < (n - 768) * 8192)) ++ cellWords ((n - 768) * 8192) cs ++
                    w.tiles.filter fun e => decide ((n - 768) * 8192 + 8192 ≤ e.1) }) with
      cold := w.cold.filter (· != n) }
/-- Line `n` of a wave's register space, not yet brought back, holds an uncorrectable error (R423). -/
def State.lineBad (s : State) (i n : Nat) : Bool :=
  let w := s.waveAt i
  s.ctxBad (s.taskOfWg w.wg).ctx ((w.wbp.getD 0).toNat + spaceOff w.die n) (spaceLen w.die n)

/-- Lowest free wave slots of a core. -/
def State.freeSlots (s : State) (d core : Nat) : List Nat :=
  let used := ((List.range s.waves.length).filter fun i =>
    (s.waveAt i).live && (s.waveAt i).die == d && (s.waveAt i).core == core && (s.wgAt (s.waveAt i).wg).st != .saved).map fun i =>
      (s.waveAt i).slot
  (List.range 64).filter fun k => !used.contains k

/-- The sequence number of a new wave of a core (R419). -/
def State.nextSeq (s : State) (d core : Nat) : Nat × State :=
  let n := (((s.dieAt d).waveSeq.lookup core).getD 0) + 1
  (n, s.setDie d fun x => { x with waveSeq := (core, n) :: x.waveSeq.filter fun e => e.1 != core })

/-- Waves of a workgroup move to slots of a core, each with a new token. -/
def State.placeWaves (s : State) (d core : Nat) : List Nat → List Nat → State
  | i :: is, k :: ks =>
    let r := s.nextSeq d core
    (r.2.updWave i fun w => { w with die := d, core := core, slot := k, seq := r.1, hold := 0 }).placeWaves d core is ks
  | _, _ => s

/-- A saved workgroup takes its place on a core: scratchpad, state blocks, and a fence (R436). `budget` is its budget there. -/
def State.restoreWg (s : State) (wi d core start budget : Nat) : State :=
  let g := s.wgAt wi
  let ctx := (s.taskOfWg wi).ctx
  let s := s.placeWaves d core (s.wavesOf wi) (s.freeSlots d core)
  let pad := (g.spimg.map fun b => s.ctxCopyIn ctx b.toNat g.spadB).getD g.spad
  let padBad := g.spimg.any fun b => s.ctxBad ctx b.toNat g.spadB
  let s := s.updWg wi fun g =>
    { g with st := .resident, die := d, core := core, scoreStart := start, spad := pad, absent := [], badPad := [], budget := budget }
  let s := (s.wavesOf wi).foldl (fun s i =>
    ((s.loadBlock i).updWave i fun w => { w.mapLanes fun _ l => l.reissue with blockBad := w.blockBad || padBad }).contTest i) s
  let used := (s.bindings.filter fun b => b.wg != wi && s.leatOf b.wg == s.leatOf wi && (s.wgAt b.wg).st != .saved).map Binding.slot
  let free := (List.range 16).filter fun k => !used.contains k
  let mine := (s.bindings.filter fun b => b.wg == wi).map Binding.handle
  let s := (mine.zip free).foldl (fun s p => s.updBind wi p.1 fun b => { b with slot := p.2 }) s
  s.l1Acquire (globalCore d core)

/-! ## Kill (R386, R407) -/

/-- The commands of a workgroup go; one that holds a content-addressed image gives its reference back (R340). -/
def State.dropCommands (s : State) (wi : Nat) : State :=
  let s := (s.cmds.filter fun c => c.wg == wi && c.held.isSome).foldl (fun s c => s.caoutEnd c) s
  { s with cmds := s.cmds.filter fun c => c.wg != wi }
/-- A killed workgroup gives up its resources; it restarts from its entry, or ends with its task (`restart` false). -/
def State.killWg (s : State) (wi : Nat) (restart : Bool) : State :=
  ((((s.dropOwnLines wi).uncharge wi).freeWaves wi).leaveCluster wi).dropCommands wi |>.updWg wi fun g =>
    { g.cleared with st := if restart then .restart else .ended, spimg := none, argsDue := none }

/-- A gang stopped by a kill, once quiet: every workgroup that has not ended is killed; when none had ended its merged set goes too (R407). -/
def State.killGang (s : State) (wi : Nat) (restart : Bool) : State :=
  let t := s.taskOfWg wi
  let n := (s.wgAt wi).gangNum t
  let ms := s.gangOfWg wi
  let all := !(s.wgs.any fun g => g.task == t.handle && g.gangNum t == n && g.st == .ended)
  let s := ms.foldl (fun s i => (s.gangWaits i).killWg i restart) s
  s.updGang t.handle n fun g =>
    { g with fc := 0, plan := [], gset := if all then [] else g.gset, gpool := if all then [] else g.gpool, folds := if all then 0 else g.folds }

/-- The waves of a gang stop for a save or a kill. -/
def State.stopGang (s : State) (wi : Nat) (st : WgSt) : State :=
  (s.gangOfWg wi).foldl (fun s i => s.updWg i fun g => if g.st = .resident ∨ (g.st = .saving ∧ st = .killing) then { g with st := st } else g) s

/-- No command that the gang's workgroups had begun is outstanding (R341 step 5). -/
def State.mayRestore (s : State) (wi : Nat) : Bool :=
  (s.gangOfWg wi).all fun i => !(s.cmds.any fun c => c.wg == i)

end Sys2Proof.Machine
end

