-- ==== Sys2Proof/Machine/XlOps.lean ====
section
/-! DEFINITION. What the translator knows of one native operation (03_tvedah_native.md R84, R96, R117, R118, R120 and the native forms of the class
chapters): slots, latency bounds, nominal landings, faults, effects, stamps and slice holds. -/
namespace Sys2Proof.Machine

/-! ## Opcodes -/

def opcMov : Nat := 0x3C1
def opcSpill : Nat := 0x3C2
def opcFill : Nat := 0x3C3
def opcLand : Nat := 0x3C4
def opcFmtset : Nat := 0x3C5
def opcKmov : Nat := 0x3C6
def opcQmov : Nat := 0x3C7
def opcConst : Nat := 0x065

def opcIn (o lo hi : Nat) : Bool := decide (lo ≤ o) && decide (o < hi)
def isCtl (o : Nat) : Bool := opcIn o 0x001 0x040
def isInt (o : Nat) : Bool := opcIn o 0x040 0x0C0
def isFlt (o : Nat) : Bool := opcIn o 0x0C0 0x140
def isLane (o : Nat) : Bool := opcIn o 0x140 0x14C
def isSpan (o : Nat) : Bool := opcIn o 0x14C 0x180
def isMem (o : Nat) : Bool := opcIn o 0x180 0x1C0
def isOrd (o : Nat) : Bool := opcIn o 0x1C0 0x200
def isAtom (o : Nat) : Bool := opcIn o 0x200 0x240
def isMtx (o : Nat) : Bool := opcIn o 0x240 0x280
def isEng (o : Nat) : Bool := opcIn o 0x280 0x2A0
def isCa (o : Nat) : Bool := opcIn o 0x2A0 0x2C0
def isTask (o : Nat) : Bool := opcIn o 0x2C0 0x2E0
def isDet (o : Nat) : Bool := opcIn o 0x2E0 0x2F0
def isSys (o : Nat) : Bool := opcIn o 0x2F0 0x3C0

/-- call, callx and calll; those with tcall and tcallx. -/
def opcCall (o : Nat) : Bool := opcIn o 0x004 0x007
def opcTail (o : Nat) : Bool := opcIn o 0x007 0x009
def opcRet : Nat := 0x009
def opcExit : Nat := 0x00A
def opcBranch (o : Nat) : Bool := opcIn o 0x001 0x004
def opcTerm (o : Nat) : Bool := opcBranch o || opcIn o 0x007 0x00C

/-! ## Registers (R86, R108) -/

inductive RegClass where
  | vec | scal | pred | acc
  deriving DecidableEq, Repr, Inhabited

/-- First register number of a class. -/
def RegClass.base : RegClass → Nat
  | .vec => 0 | .scal => 768 | .pred => 832 | .acc => 856
def regClass (r : Nat) : RegClass :=
  if r < 768 then .vec else if r < 832 then .scal else if r < 856 then .pred else .acc
def noReg : Nat := 1022
def noDst : Nat := 1023

/-- Vector registers of a value (R108): its width in words, rounded up to 1, 2, 4 or 8. -/
def Ty.regs (t : Ty) : Nat :=
  let n := (t.width + 31) / 32
  if n ≤ 1 then 1 else if n ≤ 2 then 2 else if n ≤ 4 then 4 else 8

/-! ## Native operations under construction -/

/-- One operation of a block before and after scheduling. `att` is the portable instruction it is attributed to, plus 1, and 0 for the entry
of the block; `own` marks the operation that performs that instruction; `post` a spill after a definition (R111). -/
structure NOp where
  opc : Nat
  ty : Ty
  yt : Ty
  mod : Nat
  dst : Nat
  dstN : Nat
  dst2 : Nat
  dst2N : Nat
  srcs : List (Nat × Nat)
  /-- The portable values that it reads: number, first register, register count. -/
  vals : List (Nat × Nat × Nat)
  /-- A register that the operation reads through its DST field (mst, R327). -/
  dstRead : Bool
  lit : Option Nat
  imm10 : Option Nat
  lat : Nat
  land : Nat
  fsel : Nat
  att : Nat
  own : Bool
  post : Bool
  slot : Nat
  deriving DecidableEq, Repr, Inhabited

def NOp.scalarDst (o : NOp) : Bool := opcIn o.dst 768 832
def NOp.predDst (o : NOp) : Bool := opcIn o.dst 832 848
def NOp.native (o : NOp) : Bool := decide (0x3C0 ≤ o.opc)
/-- A typed operation (R94, R494). -/
def NOp.typed (o : NOp) : Bool := !o.native && o.ty != Ty.none

/-! ## Slots (R84) -/

/-- The slots of an operation in the order in which R118 tries them. -/
def NOp.slots (o : NOp) : List Nat :=
  let c := o.opc
  if c = opcMov then (if o.scalarDst || o.predDst then [0] else [1, 2])
  else if c = opcQmov then [0] else if c = opcKmov then [4] else if c = opcSpill ∨ c = opcFill then [3]
  else if c = 0x3C0 then List.range 6
  else if 0x3C0 ≤ c then [5]
  else if c = 0x015 then [5] else if isCtl c then [0]
  else if isInt c || isFlt c then (if o.scalarDst then [0] else [1, 2])
  else if isLane c then [1, 2] else if isSpan c then [2] else if isMem c || isAtom c then [3]
  else if isOrd c then (if c = 0x1C0 ∨ c = 0x1C1 ∨ c = 0x1C8 then [3] else if c = 0x1CB then [4] else [5])
  else if isMtx c then [4]
  else if opcIn c 0x2F0 0x2F3 then [0] else [5]

/-- Cycles for which an operation holds its slice (R26, R118, R176). -/
def NOp.hold (o : NOp) (cls slot : Nat) : Nat :=
  if slot = 1 ∨ slot = 2 then (if cls = 1 then 2 else 1) * max 1 (if o.dst < 768 then o.dstN else 1) else 1

/-! ## Bounds and landings -/

/-- A bound by class (R13): 1 is K, 2 is V. -/
def kv (cls k v : Nat) : Nat := if cls = 1 then k else v

def has64 (t : Ty) : Bool := match t with | .num _ .f64 => true | _ => false

/-- The bounds of R211. -/
def fltLat (cls opc : Nat) (f64 : Bool) : Nat :=
  let is := fun (l : List Nat) => l.contains opc
  if is [0x0C8, 0x0C9, 0x0CA, 0x0CB, 0x0CC, 0x0CD, 0x0CE, 0x0DF] then kv cls 2 1
  else if is [0x0C6, 0x0C7] then (if f64 then kv cls 24 20 else kv cls 12 10)
  else if is [0x0C4, 0x0C5] then (if f64 then kv cls 36 32 else kv cls 20 16)
  else if is [0x0D1, 0x0D2, 0x0D6, 0x0D7] then kv cls 14 12
  else if is [0x0D3, 0x0D4, 0x0D5] then kv cls 24 20
  else if opc = 0x0DD then kv cls 10 8
  else if f64 then kv cls 8 7 else kv cls 5 4

/-- The bounds of R176: S0, K, V. -/
def intLat (cls opc w : Nat) (scalar : Bool) : Nat :=
  let r : Nat × Nat × Nat :=
    if opcIn opc 0x042 0x045 then (if w ≤ 32 then (3, 4, 3) else (5, 8, 6))
    else if opcIn opc 0x045 0x047 then (if w ≤ 32 then (24, 36, 20) else (40, 48, 36))
    else (1, 2, 1)
  if scalar then r.1 else kv cls r.2.1 r.2.2

/-- The bounds of R219. -/
def laneLat (cls opc : Nat) (t : Ty) : Nat :=
  if opc < 0x144 then kv cls 4 2
  else if opc = 0x147 ∨ opc = 0x148 then
    (match t with
     | .num _ e => if e.isF then kv cls 14 12 else kv cls 8 6
     | _ => kv cls 8 6)
  else if opc = 0x14B then kv cls 12 10 else kv cls 3 2

def elemWidth (t : Ty) : Nat := match t with | .num _ e => e.width | _ => 0

/-- LAT of an operation (R82): `n` vector registers hold its first result. -/
def latOf (cls opc : Nat) (t : Ty) (srcs : List Ty) (scalar : Bool) (n : Nat) : Nat :=
  let add := fun (b : Nat) => b + (if cls = 1 then 2 else 1) * (n - 1)
  if opc = opcMov then (if scalar then 1 else kv cls 2 1)
  else if opc = opcFmtset then 4 else if opc = opcKmov then kv cls 16 4 else if opc = opcQmov then 1
  else if opc = 0x00F then 2 else if opc = 0x012 ∨ opc = 0x013 ∨ opc = 0x014 then 1
  else if isInt opc then (if scalar then intLat cls opc (elemWidth t) true else add (intLat cls opc (elemWidth t) false))
  else if isFlt opc then add (fltLat cls opc (has64 t || srcs.any has64))
  else if isLane opc then add (laneLat cls opc t)
  else if opc = 0x18A then kv cls 4 3 else if opc = 0x18B then kv cls 6 4
  else if opc = 0x240 ∨ opc = 0x241 ∨ opc = 0x242 ∨ opc = 0x243 ∨ opc = 0x247 then 1
  else if opc = 0x246 then kv cls 4 3 else if opc = 0x248 then 2
  else if opc = 0x280 then 8 else if opc = 0x283 then 6 else if opc = 0x284 then 4
  else if opc = 0x2C3 ∨ opc = 0x2C4 then 2 else if opc = 0x2C5 then 4
  else if opc = 0x2E1 then 4 else if opc = 0x2E2 then 2
  else if opc = 0x2F3 then 8 else 0

/-- The nominal landing; 0 for an operation that is not variable-latency. -/
def landOf (opc mod : Nat) : Nat :=
  let sp := field mod 8 3
  if opc = opcFill then 24
  else if isSpan opc then 64
  else if opc = 0x180 ∨ opc = 0x182 ∨ opc = 0x1C8 then (if sp = 1 then 16 else if sp = 2 then 24 else 96)
  else if opc = 0x1C3 ∨ opc = 0x1C7 then (if sp = 1 then 16 else 96)
  else if isAtom opc then (if opc = 0x20E ∨ opc = 0x20F then 0 else if sp = 1 then 20 else 128)
  else if opc = 0x282 then 16
  else if opc = 0x2A0 ∨ opc = 0x2A7 then 160 else if opc = 0x2A4 then 192 else if opc = 0x2A5 then 256
  else if isCa opc then 96
  else if opc = 0x2C0 then 128 else if opc = 0x2C1 ∨ opc = 0x2C2 then 96
  else if opc = 0x2E3 ∨ opc = 0x2F8 then 96 else 0

/-- What a later operation waits for: LAT, or the nominal landing (R117). -/
def NOp.weight (o : NOp) : Nat := if o.land = 0 then o.lat else o.land

/-! ## Faults, effects, flags, stamps (R117, R120, R212) -/

def NOp.faults (o : NOp) : Bool :=
  let c := o.opc
  if isSpan c || isAtom c || isEng c || isCa c then true
  else if isMem c then !(c == 0x186 || c == 0x18B)
  else if isOrd c then (if c = 0x1C0 then decide (6 ≤ field o.mod 2 3) else !(c == 0x1C9 || c == 0x1CA || c == 0x1CB))
  else [opcSpill, opcFill, 0x004, 0x005, 0x006, 0x007, 0x008, 0x00B, 0x00D, 0x241, 0x242, 0x243, 0x244, 0x245, 0x246, 0x2C0, 0x2C1,
        0x2C2, 0x2E0, 0x2E3, 0x2F0, 0x2F1, 0x2F2, 0x2F6, 0x2F8].contains c

/-- Operations sent to the quern (R309). -/
def toQuern (c : Nat) : Bool := opcIn c 0x240 0x245 || c == 0x247

def NOp.effect (o : NOp) : Bool :=
  let c := o.opc
  isSpan c || isMem c || isOrd c || isAtom c || isEng c || isCa c || isTask c || isDet c || isSys c && decide (c < 0x3C0) ||
  toQuern c || c == 0x245 || c == opcSpill || c == opcFill

/-- Operations of the float class that can set a flag (R196, R198, R210). -/
def NOp.setsFlag (o : NOp) : Bool := isFlt o.opc && !([0x0CA, 0x0CB, 0x0CC, 0x0CE, 0x0DF].contains o.opc)

/-- Operations that stamp their bundle under modes 01 and 11. -/
def NOp.stamps (o : NOp) : Bool :=
  let c := o.opc
  toQuern c || isEng c || isCa c || isAtom c || opcIn c 0x2C0 0x2C3 ||
  (isMem c || isOrd c) && !([0x18A, 0x18B, 0x1C0, 0x1C1, 0x1C9, 0x1CA, 0x1CB].contains c) &&
    [0, 3, 4, 5, 6].contains (field o.mod 8 3)

/-- Operations that carry an extension word (R83). -/
def NOp.ext (o : NOp) : Bool := o.dst2 != noDst || o.land != 0 || o.lit.isSome || decide (64 ≤ o.mod)

end Sys2Proof.Machine
end

