-- ==== Sys2Proof/Machine/XlAlloc.lean ====
section
/-! DEFINITION. The translator from lowering to the linear scan (03_tvedah_native.md R103-R111, R115, R121, 20_programs_b.md R493). A set of values is a
number whose bit v stands for value v. -/
namespace Sys2Proof.Machine

/-! ## The function as decoded -/

/-- The instructions of a block from a byte offset, with the offset and the number of the next value before each. -/
def Module.rawsFrom (m : Module) (f : FuncInfo) : Nat → Nat → Nat → List (Raw × Nat × Nat)
  | 0, _, _ => []
  | n + 1, off, vnum =>
    match m.rawAt f off with
    | .ok r => (r, off, vnum) :: m.rawsFrom f n (off + 4 * r.words.length) (vnum + (m.resTypes r).length)
    | .error _ => []
def Module.blockRaws (m : Module) (f : FuncInfo) (b : BlockInfo) : List (Raw × Nat × Nat) :=
  m.rawsFrom f b.ninstr b.off (b.argBase + b.args.length)

/-! ## Values (R104, R105, R108) -/

structure XVal where
  ty : Ty
  cls : RegClass
  /-- Registers. -/
  n : Nat
  /-- Interval (R107). -/
  dfn : Nat
  fin : Nat
  arg : Bool
  param : Bool
  /-- The bits, for a value that const defines. -/
  const : Option Nat
  /-- Positions of uses, but for those that pass the value on. -/
  uses : List Nat
  deriving DecidableEq, Repr, Inhabited

/-- Frame words (R98, R111). -/
def XVal.words (v : XVal) : Nat := if v.cls = .scal then 2 else v.n
/-- Registers that it fills in a vector run: in a gather, or as an argument. -/
def XVal.vecN (v : XVal) : Nat := if v.cls = .scal then Ty.regs v.ty else v.n

/-- The class of a value of type `t` that an operation with an opcode defines (R108). -/
def valClass (t : Ty) (opc : Nat) : RegClass :=
  if [opcConst, 0x013, 0x014, 0x012, 0x2C3, 0x2C4].contains opc && decide (t.width ≤ 64) && t != .frag then .scal
  else if t = tyB1 then .pred else if t = .frag then .acc else .vec
def newVal (t : Ty) (opc : Nat) : XVal :=
  let c := valClass t opc
  { ty := t, cls := c, n := if c = .vec then Ty.regs t else 1, dfn := 0, fin := 0, arg := false, param := false, const := none, uses := [] }

/-- Bits of a constant operand at a type. -/
def constBits (t : Ty) : Opnd → Nat
  | .val _ => 0
  | .imm v => (immVal t v).toNat
  | .lit _ v => v.toNat

/-- The portable values in the order of R52. -/
def Module.baseVals (m : Module) (f : FuncInfo) (raws : List (List (Raw × Nat × Nat))) : List XVal :=
  (f.sig.params.map fun t => { newVal t 0 with param := true }) ++
  ((f.blocks.zip raws).flatMap fun b =>
    (b.1.args.map fun t => { newVal t 0 with arg := true }) ++
    b.2.flatMap fun r => (m.resTypes r.1).map fun t =>
      let v := newVal t r.1.opc
      if r.1.opc = opcConst then
        { v with const := some (match r.1.ops with | .op o :: _ => constBits r.1.ty o | _ => 0) }
      else v)

/-! ## Lowering and positions (R104, R105, R493) -/

/-- What stands before an instruction: the movs that lower one operand, or a gather. -/
inductive XPre where
  | lit (pos v bits : Nat)
  | gather (pos v : Nat) (srcs : List Nat)
  deriving DecidableEq, Repr, Inhabited

structure XInstr where
  raw : Raw
  idx : Nat
  pos : Nat
  pre : List XPre
  /-- Values in SA, SB and SC. -/
  srcs : List Nat
  /-- Values passed to a callee or a caller, with the types of their places. -/
  args : List (Nat × Ty)
  targets : List (Nat × List Nat)
  lit : Option Nat
  imm10 : Option Nat
  /-- The rejoin mask that it names (R151). -/
  jreg : Option Nat
  res : List Nat
  deriving DecidableEq, Repr

structure Lower where
  vals : Array XVal
  pos : Nat
  pre : List XPre
  deriving Repr, Inhabited

def Lower.upd (s : Lower) (v : Nat) (f : XVal → XVal) : Lower := { s with vals := s.vals.modify v f }
def Lower.use (s : Lower) (p v : Nat) (passed : Bool) : Lower :=
  s.upd v fun x => { x with fin := max x.fin p, uses := if passed then x.uses else x.uses ++ [p] }

/-- An operand as a value: a constant becomes a new one, defined by movs at a position of its own. -/
def Lower.opnd (s : Lower) (t : Ty) (o : Opnd) : Nat × Lower :=
  match o with
  | .val n => (n.toNat, s)
  | o =>
    let v := s.vals.size
    let p := s.pos + 2
    (v, { vals := s.vals.push { newVal t 0 with dfn := p, fin := p }, pos := p, pre := s.pre ++ [.lit p v (constBits t o)] })
def Lower.opnds (s : Lower) : List (Ty × Opnd) → List Nat × Lower
  | [] => ([], s)
  | (t, o) :: os =>
    let r := s.opnd t o
    let q := r.2.opnds os
    (r.1 :: q.1, q.2)

/-- The type at which a constant stands in a position (R495). -/
def posType (t : Ty) (m : Nat) (p : Pos) (o : Opnd) : Ty :=
  match p.ty.types t m, o with
  | [u], _ => u
  | _, .imm _ => tyI32
  | us, .lit sz _ => (litType sz us).getD .none
  | us, .val _ => us.headD .none

/-- Operands by what becomes of them: those lowered into registers, with their types, and the constant that passes in LIT. -/
def splitOps (t : Ty) (m : Nat) : List Pos → List RawOp → List (Ty × Opnd) × Option Nat
  | p :: ps, .op o :: os =>
    let r := splitOps t m ps os
    if p.val then ((posType t m p o, o) :: r.1, r.2)
    else
      (r.1, match o with
        | .imm v => some (v.toInt % 2 ^ 32).toNat
        | .lit _ v => some (v.toNat % 2 ^ 32)
        | .val _ => r.2)
  | _, _ => ([], none)

/-- Operand lists of a block target: block and arguments with their types. -/
def Lower.targets (s : Lower) (f : FuncInfo) : List RawOp → List (Nat × List Nat) × Lower
  | [] => ([], s)
  | .blk t :: os =>
    let tys := ((f.blocks[t.blk.toNat]?).map BlockInfo.args).getD []
    let r := s.opnds (tys.zip t.args)
    let q := r.2.targets f os
    ((t.blk.toNat, r.1) :: q.1, q.2)
  | .op _ :: os => s.targets f os

def rawOpnds (os : List RawOp) : List Opnd := os.filterMap fun | .op o => some o | .blk _ => none

/-- The values, arguments and constant of an instruction: (sources, arguments, constant). -/
def Module.xOperands (m : Module) (f : FuncInfo) (r : Raw) : List (Ty × Opnd) × List (Ty × Opnd) × Option Nat :=
  let k := firstImm r.ops
  let os := rawOpnds r.ops
  if r.opc = 0x004 ∨ r.opc = 0x007 then ([], ((m.funcs[k]?).map fun g => g.sig.params).getD [] |>.zip os.tail, some k)
  else if r.opc = 0x005 ∨ r.opc = 0x008 then
    ((os.drop 1).take 1 |>.map fun o => (tyA64, o), ((m.sigs[k]?).map SigInfo.params).getD [] |>.zip (os.drop 2), some k)
  else if r.opc = 0x006 then
    ([], (((m.links[k]?).bind LinkInfo.sig).map SigInfo.params).getD [] |>.zip os.tail, some k)
  else if r.opc = opcRet then ([], f.sig.results.zip os, none)
  else if r.opc = opcConst then ([], [], none)
  else
    let x := splitOps r.ty r.mod (((rowOf r.opc).map fun w => w.pos r.ty r.mod).getD []) r.ops
    (x.1, [], x.2)

/-- The least power of two not below `n`, among the first `k` from `p`. -/
def pow2From : Nat → Nat → Nat → Nat
  | 0, p, _ => p
  | k + 1, p, n => if n ≤ p then p else pow2From k (2 * p) n

/-- Loop operations (R155): the level in imm10, a value TRIP in SA, an immediate TRIP in LIT. -/
def FuncInfo.loopTrip (f : FuncInfo) (r : Raw) : Option Opnd :=
  if r.opc ≠ 0x010 then none
  else ((f.loops[firstImm r.ops]?).bind fun l =>
    match l.trip with
    | .val n => if l.kind = 0 then some (.val n) else none
    | o => some o)

/-- One instruction: its lowering, its gather, its position, its uses and definitions. -/
def Lower.instr (m : Module) (f : FuncInfo) (idx : Nat) (r : Raw) (vnum : Nat) (s : Lower) : XInstr × Lower :=
  let ops := m.xOperands f r
  let s : Lower := { s with pre := [] }
  let a := s.opnds ops.1
  let b := a.2.opnds ops.2.1
  let c := b.2.targets f r.ops
  let trip := f.loopTrip r
  let srcs := a.1 ++ (match trip with | some (.val n) => [n.toNat] | _ => [])
  let val := fun (s : Lower) (v : Nat) => s.vals.getD v default
  let rest := srcs.drop 2
  let g : List Nat × Lower :=
    if 3 < srcs.length && rest.all fun v => (val c.2 v).cls != .acc then
      let s := c.2
      let n := pow2From 8 1 (rest.foldl (fun n v => n + (val s v).vecN) 0)
      let v := s.vals.size
      let p := s.pos + 2
      let s : Lower :=
        { vals := s.vals.push { newVal .none 0 with n := n, dfn := p, fin := p }, pos := p, pre := s.pre ++ [.gather p v rest] }
      (srcs.take 2 ++ [v], rest.foldl (fun s u => s.use p u false) s)
    else (srcs, c.2)
  let p := g.2.pos + 2
  let loop := opcIn r.opc 0x010 0x013
  let rej := opcIn r.opc 0x00C 0x010
  let res := (List.range (m.resTypes r).length).map (vnum + ·)
  let s := g.1.foldl (fun s v => s.use p v false) { g.2 with pos := p }
  let s := (b.1 ++ c.1.flatMap Prod.snd).foldl (fun s v => s.use p v true) s
  let s := res.foldl (fun s v => s.upd v fun x => { x with dfn := p, fin := max x.fin p }) s
  ({ raw := r, idx := idx, pos := p, pre := s.pre, srcs := g.1, args := b.1.zip (ops.2.1.map Prod.fst), targets := c.1,
     lit := if loop then (match trip with | some (.imm v) => some v.toNat | _ => none) else if rej then none else ops.2.2,
     imm10 := if loop then some (firstImm r.ops) else none, jreg := if rej then some (848 + firstImm r.ops) else none, res := res }, s)

def Lower.instrs (m : Module) (f : FuncInfo) : Nat → List (Raw × Nat × Nat) → Lower → List XInstr × Lower
  | _, [], s => ([], s)
  | i, (r, _, vnum) :: rs, s =>
    let x := s.instr m f i r vnum
    let y := Lower.instrs m f (i + 1) rs x.2
    (x.1 :: y.1, y.2)

structure XBlock where
  pos : Nat
  /-- Position of the terminator. -/
  tpos : Nat
  args : List Nat
  instrs : List XInstr
  deriving DecidableEq, Repr, Inhabited

def Lower.blocks (m : Module) (f : FuncInfo) : List (BlockInfo × List (Raw × Nat × Nat)) → Lower → List XBlock × Lower
  | [], s => ([], s)
  | (b, rs) :: bs, s =>
    let p := s.pos + 2
    let args := (List.range b.args.length).map (b.argBase + ·)
    let s := args.foldl (fun s v => s.upd v fun x => { x with dfn := p, fin := max x.fin p }) { s with pos := p }
    let x := Lower.instrs m f 0 rs s
    let y := Lower.blocks m f bs x.2
    ({ pos := p, tpos := x.2.pos, args := args, instrs := x.1 } :: y.1, y.2)

/-! ## Liveness and intervals (R106, R107) -/

def setOf (vs : List Nat) : Nat := vs.foldl (fun n v => n ||| 2 ^ v) 0
def setMinus (a b : Nat) : Nat := a ^^^ (a &&& b)
def setElems (n a : Nat) : List Nat := (List.range n).filter a.testBit

def XPre.val : XPre → Nat
  | .lit _ v _ => v
  | .gather _ v _ => v
def XPre.uses : XPre → List Nat
  | .lit _ _ _ => []
  | .gather _ _ us => us
def XInstr.uses (i : XInstr) : List Nat := i.srcs ++ i.args.map Prod.fst ++ i.targets.flatMap Prod.snd ++ i.pre.flatMap XPre.uses
def XInstr.defs (i : XInstr) : List Nat := i.res ++ i.pre.map XPre.val
def XBlock.succs (b : XBlock) : List Nat := (b.instrs.getLast?.map fun i => i.targets.map Prod.fst).getD []

structure Flow where
  use : Nat
  dfn : Nat
  args : Nat
  succs : List Nat
  lin : Nat
  lout : Nat
  deriving Repr, Inhabited

def XBlock.flow (b : XBlock) : Flow :=
  let d := setOf (b.args ++ b.instrs.flatMap XInstr.defs)
  { use := setMinus (setOf (b.instrs.flatMap XInstr.uses)) d, dfn := d, args := setOf b.args, succs := b.succs, lin := 0, lout := 0 }

/-- One round over the blocks, the last first; whether a set changed. -/
def flowRound (fs : Array Flow) : List Nat → Array Flow × Bool
  | [] => (fs, false)
  | b :: bs =>
    let x := fs.getD b default
    let out := x.succs.foldl (fun n t => let y := fs.getD t default; n ||| setMinus y.lin y.args) 0
    let inn := x.use ||| setMinus out x.dfn
    let r := flowRound (fs.setIfInBounds b { x with lin := inn, lout := out }) bs
    (r.1, r.2 || x.lin != inn || x.lout != out)
def flowLoop (order : List Nat) : Nat → Array Flow → Array Flow
  | 0, fs => fs
  | n + 1, fs => match flowRound fs order with | (gs, true) => flowLoop order n gs | (gs, false) => gs

/-- The values live before each instruction of a block, first to last. -/
def liveBefore : List XInstr → Nat → List Nat × Nat
  | [], out => ([], out)
  | i :: is, out =>
    let r := liveBefore is out
    let here := setMinus r.2 (setOf i.defs) ||| setOf i.uses
    (here :: r.1, here)

/-! ## Linear scan (R109-R111) -/

/-- An interval that holds a run of registers: of a value, or the short one of its fill before the use at `fin`. -/
structure Act where
  v : Nat
  short : Bool
  fin : Nat
  k : Nat
  n : Nat
  deriving DecidableEq, Repr, Inhabited

/-- What the scan comes to: a call, or the start of an interval. -/
structure Work where
  start : Nat
  call : Bool
  v : Nat
  short : Bool
  fin : Nat
  deriving DecidableEq, Repr, Inhabited

structure Scan where
  vals : Array XVal
  reg : Array (Option Nat)
  /-- The position at which a value was spilled. -/
  spill : Array (Option Nat)
  slot : Array (Option Nat)
  pool : Array (Option Nat)
  next : Nat
  consts : List (BitVec 128)
  /-- Registers of the fills: value, use, register. -/
  shorts : List (Nat × Nat × Nat)
  active : List Act
  work : List Work
  fail : Option Nat
  deriving Repr, Inhabited

def Work.before (a b : Work) : Bool :=
  if a.start ≠ b.start then decide (a.start < b.start) else if a.call ≠ b.call then a.call else decide (a.v < b.v)
def insertWork (w : Work) : List Work → List Work
  | [] => [w]
  | x :: xs => if w.before x then w :: x :: xs else x :: insertWork w xs

def Scan.val (s : Scan) (v : Nat) : XVal := s.vals.getD v default

/-- The short intervals of a value's uses after a position. -/
def Scan.addShorts (s : Scan) (v : Nat) (after : Option Nat) : Scan :=
  let us := ((s.val v).uses.filter fun u => match after with | some p => decide (p < u) | none => true).eraseDups
  { s with work := us.foldl (fun w u => insertWork { start := u - 1, call := false, v := v, short := true, fin := u } w) s.work }

/-- 128-bit entries of a constant's bits (R125). -/
def poolEntries (width bits : Nat) : List (BitVec 128) :=
  (List.range (max 1 ((width + 127) / 128))).map fun i => BitVec.ofNat 128 (bits / 2 ^ (128 * i))

/-- A value loses its register at a position, and takes slots or constant-pool entries. -/
def Scan.spillVal (s : Scan) (v p : Nat) : Scan :=
  let x := s.val v
  let s : Scan :=
    { s with spill := s.spill.setIfInBounds v (some p), active := s.active.filter fun a => a.short || a.v != v
             reg := if x.dfn = p then s.reg.setIfInBounds v none else s.reg }
  let s : Scan :=
    match x.const with
    | some bits => { s with pool := s.pool.setIfInBounds v (some s.consts.length), consts := s.consts ++ poolEntries x.ty.width bits }
    | none => { s with slot := s.slot.setIfInBounds v (some s.next), next := s.next + x.words }
  s.addShorts v (some p)

/-- Registers of the pool of a class (R108). -/
def poolSize (budget : Nat) : RegClass → Nat
  | .vec => budget - 1 | .scal => 63 | .pred => 15 | .acc => 15

def Scan.freeRun (s : Scan) (size n : Nat) : Option Nat :=
  let occ := s.active.foldl (fun o a => o ||| ((2 ^ a.n - 1) * 2 ^ a.k)) 0
  ((List.range (size / n)).find? fun j => occ / 2 ^ (j * n) % 2 ^ n == 0).map (· * n)

/-- The interval of the furthest end, ties to the higher value. -/
def furthest : List (Nat × Nat) → Option (Nat × Nat)
  | [] => none
  | c :: cs =>
    match furthest cs with
    | none => some c
    | some d => if d.1 < c.1 ∨ (d.1 = c.1 ∧ d.2 < c.2) then some c else some d

/-- Intervals that may be spilled at a position (R109). -/
def Scan.candidates (s : Scan) (w : Work) (n : Nat) : List (Nat × Nat) :=
  let ownOk := fun (v n : Nat) => n == 1 || (s.val v).arg
  ((s.active.filter fun a => !a.short && ((s.val a.v).dfn != w.start || ownOk a.v a.n)).map fun a => (a.fin, a.v)) ++
  (if !w.short && ownOk w.v n then [(w.fin, w.v)] else [])

/-- An interval takes the lowest free run, after spills where none is free. -/
def Scan.place (c : RegClass) (budget : Nat) (w : Work) : Nat → Scan → Scan
  | 0, s => { s with fail := some 1 }
  | fuel + 1, s =>
    let n := (s.val w.v).n
    match s.freeRun (poolSize budget c) n with
    | some k =>
      let s : Scan := { s with active := { v := w.v, short := w.short, fin := w.fin, k := k, n := n } :: s.active }
      if w.short then { s with shorts := (w.v, w.fin, c.base + k) :: s.shorts }
      else { s with reg := s.reg.setIfInBounds w.v (some (c.base + k)) }
    | none =>
      if c = .acc then { s with fail := some 2 }
      else
        match furthest (s.candidates w n) with
        | none => { s with fail := some 1 }
        | some (_, v) => if v = w.v ∧ !w.short then s.spillVal v w.start else Scan.place c budget w fuel (s.spillVal v w.start)

/-- R110. -/
def Scan.atCall (s : Scan) (p : Nat) : Scan :=
  let vs := ((s.active.filter fun a => !a.short && decide (p < a.fin)).map Act.v)
  (setElems s.vals.size (setOf vs)).foldl (fun s v => s.spillVal v p) s

def Scan.run (c : RegClass) (budget : Nat) : Nat → Scan → Scan
  | 0, s => s
  | fuel + 1, s =>
    if s.fail.isSome then s
    else
      match s.work with
      | [] => s
      | w :: ws =>
        let t : Scan := { s with work := ws, active := s.active.filter fun a => decide (w.start ≤ a.fin) }
        Scan.run c budget fuel (if w.call then t.atCall w.start else t.place c budget w (t.active.length + 2))

/-- The scan of one class: its calls and its intervals. -/
def Scan.classScan (calls : List Nat) (budget : Nat) (s : Scan) (c : RegClass) : Scan :=
  if s.fail.isSome then s
  else
    let vs := (List.range s.vals.size).filter fun v => (s.val v).cls == c
    let own := (vs.filter fun v => !(s.val v).param).map fun v =>
      ({ start := (s.val v).dfn, call := false, v := v, short := false, fin := (s.val v).fin } : Work)
    let work := (own ++ calls.map fun p => ({ start := p, call := true, v := 0, short := false, fin := p } : Work)).foldl (fun l w => insertWork w l) []
    let t : Scan := { s with work := work, active := [] }
    let t := (vs.filter fun v => (s.val v).param).foldl (fun t v => t.addShorts v none) t
    let total := vs.foldl (fun n v => n + 1 + (s.val v).uses.length) (calls.length + 8)
    t.run c budget total

/-! ## The function up to the scan -/

structure XFunc where
  raws : List (List (Raw × Nat × Nat))
  nport : Nat
  blocks : List XBlock
  vals : Array XVal
  /-- Values live into each block, and live before each of its instructions. -/
  lin : List Nat
  live : List (List Nat)
  deriving Repr, Inhabited

def Module.xfunc (m : Module) (f : FuncInfo) : XFunc :=
  let raws := f.blocks.map (m.blockRaws f)
  let base := m.baseVals f raws
  let low := Lower.blocks m f (f.blocks.zip raws) { vals := base.toArray, pos := 0, pre := [] }
  let bs := low.1
  let nb := bs.length
  let fl := flowLoop (List.range nb).reverse (nb * low.2.vals.size + 2) (bs.map XBlock.flow).toArray
  let outs := (List.range nb).map fun b => (fl.getD b default).lout
  let vals := (bs.zip outs).foldl (fun vs x =>
    (setElems vs.size x.2).foldl (fun (vs : Array XVal) v => vs.modify v fun y => { y with fin := max y.fin x.1.tpos }) vs) low.2.vals
  { raws := raws, nport := base.length, blocks := bs, vals := vals
    lin := (List.range nb).map fun b => (fl.getD b default).lin
    live := (bs.zip outs).map fun x => (liveBefore x.1.instrs x.2).1 }

/-- Words of the values of a signature. -/
def sigWords (ts : List Ty) : Nat := ts.foldl (fun n t => n + Ty.regs t) 0

/-- The scan of a function at a budget. -/
def XFunc.scan (x : XFunc) (f : FuncInfo) (budget : Nat) : Scan :=
  let n := x.vals.size
  let np := f.sig.params.length
  let slots := (List.range np).map fun v => some (4 + sigWords (f.sig.params.take v))
  let s : Scan :=
    { vals := x.vals, reg := Array.replicate n none, spill := (List.replicate np (some 0) ++ List.replicate (n - np) none).toArray
      slot := (slots ++ List.replicate (n - np) none).toArray, pool := Array.replicate n none
      next := 4 + max (sigWords f.sig.params) (sigWords f.sig.results), consts := [], shorts := [], active := [], work := [], fail := none }
  let calls := x.blocks.flatMap fun b => (b.instrs.filter fun i => opcCall i.raw.opc).map XInstr.pos
  [RegClass.vec, .scal, .pred, .acc].foldl (Scan.classScan calls budget) s

/-- The lowest multiple of 8 at which the scan succeeds (R121), of those from `8 * k`. -/
def XFunc.minBudget (x : XFunc) (f : FuncInfo) : Nat → Nat → Nat
  | 0, k => 8 * k
  | n + 1, k => if (x.scan f (8 * k)).fail = none then 8 * k else x.minBudget f n (k + 1)

/-! ## Where a value stands (R109, R123) -/

inductive XPlace where
  | reg (r : Nat)
  | slot (w : Nat)
  | pool (k : Nat)
  deriving DecidableEq, Repr, Inhabited

/-- The place of a value for a use at a position: its register up to the point of its spill, else its slot or its entry. -/
def Scan.at_ (s : Scan) (v p : Nat) : XPlace :=
  let other := fun (_ : Unit) =>
    match s.pool.getD v none with
    | some k => XPlace.pool k
    | none => .slot ((s.slot.getD v none).getD 0)
  match s.reg.getD v none, s.spill.getD v none with
  | some r, none => .reg r
  | some r, some q => if p ≤ q then .reg r else other ()
  | none, _ => other ()

end Sys2Proof.Machine
end

