-- ==== Sys2Proof/Machine/XlEmit.lean ====
section
/-! DEFINITION. The translator's insertion of native operations (03_tvedah_native.md R104, R111-R112, R115, R151, R155, R173, R327): the operations of
every block in attributed order, and the moves of every branch target. -/
namespace Sys2Proof.Machine

structure XCtx where
  cls : Nat
  budget : Nat
  fi : FuncInfo
  x : XFunc
  scan : Scan
  deriving Repr, Inhabited

def XCtx.val (c : XCtx) (v : Nat) : XVal := c.x.vals.getD v default

/-- Class scratch (R108). -/
def XCtx.scratch (c : XCtx) : RegClass → Nat
  | .vec => c.budget - 1 | .scal => 831 | .pred => 847 | .acc => 871

/-- An operation with every field unused. -/
def nop0 (opc att : Nat) : NOp :=
  { opc := opc, ty := .none, yt := .none, mod := 0, dst := noDst, dstN := 0, dst2 := noDst, dst2N := 0, srcs := [], vals := [], dstRead := false, lit := none,
    imm10 := none, lat := 0, land := landOf opc 0, fsel := 0, att := att, own := false, post := false, slot := 0 }

def XCtx.withLat (c : XCtx) (o : NOp) (srcTys : List Ty) : NOp :=
  { o with lat := if o.land = 0 then latOf c.cls o.opc o.ty srcTys (o.scalarDst || o.native && o.predDst) (if o.dst < 768 then o.dstN else 1) else 0 }

/-- mov of a 32-bit literal (R97); a zero literal comes from the zero register (R494). -/
def XCtx.movLit (c : XCtx) (att dst bits : Nat) : NOp :=
  let o : NOp := { nop0 opcMov att with dst := dst, dstN := 1 }
  c.withLat (if bits = 0 then { o with srcs := [(noReg, 1)] } else { o with lit := some bits }) []
/-- A copy between registers: mov, mov.hi, qmov or kmov (R97, R101, R112). -/
def XCtx.copyReg (c : XCtx) (att dst src : Nat) (hi : Bool) : NOp :=
  let s := regClass src
  let d := regClass dst
  let opc := if d = .acc then opcKmov else if s = .pred ∨ (d = .pred ∧ s ≠ .scal) then opcQmov else opcMov
  c.withLat { nop0 opc att with dst := dst, dstN := 1, srcs := [(src, 1)], mod := bitOf hi } []
def XCtx.spill (c : XCtx) (att src w mod : Nat) : NOp := c.withLat { nop0 opcSpill att with srcs := [(src, 1)], imm10 := some w, mod := mod } []
def XCtx.fill (c : XCtx) (att dst w mod : Nat) : NOp := c.withLat { nop0 opcFill att with dst := dst, dstN := 1, imm10 := some w, mod := mod } []

/-- A constant of a type into a register or run of the class of `dst`: one mov for each 32 bits, or for a scalar register the pair of R173. -/
def XCtx.litOps (c : XCtx) (att dst : Nat) (t : Ty) (bits : Nat) : List NOp :=
  if regClass dst = .scal then
    c.movLit att dst (bits % 2 ^ 32) ::
    (if t.width ≤ 32 then []
     else [c.withLat { nop0 opcConst att with ty := t, dst := dst, dstN := 1, srcs := [(dst, 1)], lit := some (bits / 2 ^ 32 % 2 ^ 32) } []])
  else (List.range (max 1 ((t.width + 31) / 32))).map fun i => c.movLit att (dst + i) (bits / 2 ^ (32 * i) % 2 ^ 32)

/-! ## Values in and out of registers -/

/-- The register of a value's fill before a use. -/
def Scan.shortReg (s : Scan) (v u : Nat) : Nat := ((s.shorts.find? fun e => e.1 == v && e.2.1 == u).map fun e => e.2.2).getD 0

/-- The register in which a use at a position reads a value. -/
def XCtx.readReg (c : XCtx) (v p : Nat) : Nat :=
  match c.scan.at_ v p with
  | .reg r => r
  | _ => c.scan.shortReg v p
/-- The fills, or the movs of a literal, before that use (R111). -/
def XCtx.fillsOf (c : XCtx) (att p v : Nat) : List NOp :=
  match c.scan.at_ v p with
  | .reg _ => []
  | .slot w => (List.range (c.val v).n).map fun i => c.fill att (c.scan.shortReg v p + i) (w + i) 0
  | .pool _ => c.litOps att (c.scan.shortReg v p) (c.val v).ty ((c.val v).const.getD 0)

/-- The register that a definition writes: its own, or the class scratch (R493). -/
def XCtx.writeReg (c : XCtx) (v : Nat) : Nat := (c.scan.reg.getD v none).getD (c.scratch (c.val v).cls)
/-- The spill store of a spilled value, directly after its definition (R111). -/
def XCtx.stores (c : XCtx) (att v : Nat) : List NOp :=
  let x := c.val v
  match c.scan.slot.getD v none with
  | none => []
  | some w =>
    if x.param || (x.arg && (c.scan.reg.getD v none).isNone) then []
    else (List.range x.n).map fun i => { c.spill att (c.writeReg v + i) (w + i) 0 with post := true }

/-- That of a lowering value: the instruction after its definition is the one it is made for (R120). -/
def XCtx.preStores (c : XCtx) (att v : Nat) : List NOp := (c.stores att v).map fun o => { o with post := false }

/-! ## Moves (R112) -/

inductive MvSrc where
  | reg (r : Nat) (hi : Bool)
  | slot (w : Nat)
  /-- A literal; `wide` one of 64 bits for a scalar register. -/
  | const (bits : Nat) (wide : Bool)
  /-- The value that breaking a cycle has put in word 3, or in a15. -/
  | temp
  deriving DecidableEq, Repr, Inhabited

/-- One register's worth of a move to a register or to a frame word, for a place of a class. -/
structure Mv where
  toSlot : Bool
  d : Nat
  cls : RegClass
  s : MvSrc
  deriving DecidableEq, Repr, Inhabited

/-- The moves that bring a value to `n` registers or words from `d` on. -/
def XCtx.moveVal (c : XCtx) (v p : Nat) (toSlot : Bool) (d n : Nat) (cls : RegClass) : List Mv :=
  let x := c.val v
  (List.range n).map fun i =>
    { toSlot := toSlot, d := d + i, cls := cls,
      s := match c.scan.at_ v p with
        | .reg r => if x.cls = .scal then .reg r (i == 1) else .reg (r + i) false
        | .slot w => .slot (w + i)
        | .pool _ => .const (x.const.getD 0 / 2 ^ (32 * i) % 2 ^ 32) false }

/-- Moves by ascending destination. -/
def insertMv (m : Mv) : List Mv → List Mv
  | [] => [m]
  | x :: xs => if m.d < x.d then m :: x :: xs else x :: insertMv m xs
def sortMv (ms : List Mv) : List Mv := ms.foldl (fun l m => insertMv m l) []

/-- A register goes to a frame word; half of a scalar register goes by way of the vector scratch. -/
def XCtx.regToSlot (c : XCtx) (att mod w r : Nat) (hi : Bool) : List NOp :=
  if regClass r = .scal then [c.copyReg att (c.scratch .vec) r hi, c.spill att (c.scratch .vec) w mod] else [c.spill att r w mod]

def MvSrc.readsReg (r : Nat) : MvSrc → Bool
  | .reg q _ => q == r
  | _ => false

/-- Step 2 of R112. -/
def XCtx.regMoves (c : XCtx) (att : Nat) : Nat → List Mv → List NOp
  | 0, _ => []
  | fuel + 1, ms =>
    match sortMv ms with
    | [] => []
    | all@(_ :: _) =>
      match all.find? fun m => !all.any fun x => x.s.readsReg m.d with
      | some m =>
        let ops :=
          match m.s with
          | .reg r hi => [c.copyReg att m.d r hi]
          | .temp =>
            if m.cls = .acc then [c.copyReg att m.d (c.scratch .acc) false]
            else [c.fill att (c.scratch m.cls) 3 0, c.copyReg att m.d (c.scratch m.cls) false]
          | _ => []
        ops ++ c.regMoves att fuel (all.erase m)
      | none =>
        let rs := all.filterMap fun m => match m.s with | .reg r _ => some r | _ => none
        let r := rs.foldl min (rs.headD 0)
        let all := all.map fun m => if m.s.readsReg r then { m with s := .temp } else m
        (if regClass r = .acc then c.copyReg att (c.scratch .acc) r false else c.spill att r 3 0) :: c.regMoves att fuel all

/-- The move reads register, or frame word, `d`. -/
def Mv.reads (m : Mv) (slot : Bool) (d : Nat) : Bool :=
  match m.s with
  | .reg r _ => !slot && r == d
  | .slot w => slot && w == d
  | _ => false
/-- The step of R112 in which a move stands. -/
def Mv.isReg (m : Mv) : Bool := match m.s with | .reg _ _ => true | _ => false
def Mv.stage (m : Mv) : Nat := if m.isReg then bitOf (!m.toSlot) else 2 + bitOf m.toSlot
/-- One move. A literal or a word bound for a frame word goes by way of the class scratch, and so does what word 3 keeps. -/
def XCtx.emitMv (c : XCtx) (att mod : Nat) (m : Mv) : List NOp :=
  let sc := c.scratch m.cls
  match m.s, m.toSlot with
  | .reg r hi, true => c.regToSlot att mod m.d r hi
  | .reg r hi, false => [c.copyReg att m.d r hi]
  | .slot w, true => [c.fill att sc w 0, c.spill att sc m.d mod]
  | .slot w, false => [c.fill att m.d w 0]
  | .const b _, true => [c.movLit att sc b, c.spill att sc m.d mod]
  | .const b wide, false => if wide then c.litOps att m.d tyN64 b else [c.movLit att m.d b]
  | .temp, true => [c.fill att sc 3 0, c.spill att sc m.d mod]
  | .temp, false => if m.cls = .acc then [c.copyReg att m.d sc false] else [c.fill att sc 3 0, c.copyReg att m.d sc false]

/-- R112 has the moves write frame words that later moves of the list still read. -/
def mvClash (ms : List Mv) : Bool :=
  let late := ms.filter fun m => 2 ≤ m.stage
  let words := (sortMv (ms.filter fun m => m.stage == 3)).zipIdx
  (ms.any fun m => m.stage == 0 && late.any fun x => x.reads true m.d) ||
  words.any fun m => words.any fun x => x.2 < m.2 && m.1.reads true x.1.d

/-- The earliest step first, then the lowest destination. -/
def firstMv (ms : List Mv) : Option Mv :=
  ms.foldl (fun b m =>
    match b with
    | none => some m
    | some x => if m.stage < x.stage ∨ (m.stage = x.stage ∧ m.d < x.d) then some m else some x) none

/-- Such a list (see the assumption log): the moves take effect together (R55, R140), so a move waits until no pending one reads its destination; a
cycle is broken as in step 2 of R112, at a register before a frame word. -/
def XCtx.parMoves (c : XCtx) (att : Nat) : Nat → List Mv → List NOp
  | 0, _ => []
  | fuel + 1, ms =>
    match firstMv (ms.filter fun m => !ms.any fun x => x != m && x.reads m.toSlot m.d) with
    | some m => c.emitMv att 0 m ++ c.parMoves att fuel (ms.erase m)
    | none =>
      let regs := ms.filterMap fun m => match m.s with | .reg r _ => some r | _ => none
      let words := ms.filterMap fun m => match m.s with | .slot w => some w | _ => none
      let slot := regs.isEmpty
      let src := if slot then words.foldl min (words.headD 0) else regs.foldl min (regs.headD 0)
      match ms.find? fun m => m.reads slot src with
      | none => []
      | some x =>
        let ops :=
          if slot then [c.fill att (c.scratch x.cls) src 0, c.spill att (c.scratch x.cls) 3 0]
          else if x.cls = .acc then [c.copyReg att (c.scratch .acc) src false] else [c.spill att src 3 0]
        ops ++ c.parMoves att fuel (ms.map fun m => if m.reads slot src then { m with s := .temp } else m)

/-- The moves in the order of R112, to the running frame (`mod` 0) or the callee's (1). -/
def XCtx.moves (c : XCtx) (att mod : Nat) (ms : List Mv) : List NOp :=
  let ms := ms.filter fun m => !(mod == 0 && (m.s == if m.toSlot then .slot m.d else .reg m.d false))
  let part := fun (k : Nat) => sortMv (ms.filter fun m => m.stage == k)
  if mod = 0 ∧ mvClash ms then c.parMoves att (3 * ms.length + 2) ms
  else
    (part 0).flatMap (c.emitMv att mod) ++ c.regMoves att (3 * ms.length + 2) (part 1) ++ (part 2).flatMap (c.emitMv att mod) ++
    (part 3).flatMap (c.emitMv att mod)

/-- Moves of values to words from word 4 on, each taking its register count (R115). -/
def XCtx.argMoves (c : XCtx) (p : Nat) : Nat → List (Nat × Ty) → List Mv
  | _, [] => []
  | w, (v, t) :: as =>
    c.moveVal v p true w (Ty.regs t) (if t = tyB1 then .pred else .vec) ++ c.argMoves p (w + Ty.regs t) as

/-- A branch back to the head of a loop in which the scan spills a value: uses before that point read its register (R109), so the register takes
the value again (see the assumption log). -/
def XCtx.reload (c : XCtx) (p tb : Nat) : List Mv :=
  let head := (c.x.blocks[tb]?.map XBlock.pos).getD 0
  (setElems c.x.nport (c.x.lin.getD tb 0)).flatMap fun v =>
    match c.scan.reg.getD v none, c.scan.spill.getD v none with
    | some r, some q =>
      if q < p ∧ head < q then
        let y := c.val v
        match c.scan.pool.getD v none with
        | some _ => if y.cls = .scal then [{ toSlot := false, d := r, cls := .scal, s := .const (y.const.getD 0) (decide (32 < y.ty.width)) }] else c.moveVal v p false r y.n y.cls
        | none => c.moveVal v p false r y.n y.cls
      else []
    | _, _ => []

/-- Moves of a target's arguments to the places of the block's parameters. -/
def XCtx.targetMoves (c : XCtx) (att p : Nat) (t : Nat × List Nat) : List NOp :=
  let params := (c.x.blocks[t.1]?.map XBlock.args).getD []
  c.moves att 0 (((params.zip t.2).flatMap fun e =>
    let y := c.val e.1
    match c.scan.reg.getD e.1 none with
    | some r => c.moveVal e.2 p false r y.n y.cls
    | none => c.moveVal e.2 p true ((c.scan.slot.getD e.1 none).getD 0) y.words y.cls) ++ c.reload p t.1)

/-! ## Instructions -/

/-- Type of the first operand of kind 00 (R93). -/
def firstValTy (c : XCtx) (r : Raw) : Ty :=
  match r.ops.find? (fun o => match o with | .op (.val _) => true | _ => false) with
  | some (.op (.val n)) => (c.val n.toNat).ty
  | _ => .none

/-- Where a gather finds a source: one that the scan spills at the gather's own start has no register there (R109), and the run may be its old one, so
its slot or its literal goes straight into the run (see the assumption log). -/
def XCtx.gatherFrom (c : XCtx) (p v : Nat) : XPlace :=
  if c.scan.spill.getD v none = some p then c.scan.at_ v (p + 1) else c.scan.at_ v p
/-- The copies of a gather's sources into its run (R104). -/
def XCtx.gatherOps (c : XCtx) (att p : Nat) : Nat → List Nat → List NOp
  | _, [] => []
  | d, v :: vs =>
    let x := c.val v
    let r := c.readReg v p
    (match c.gatherFrom p v with
     | .reg _ =>
       (List.range x.vecN).map fun i => if x.cls = .scal then c.copyReg att (d + i) r (i == 1) else c.copyReg att (d + i) (r + i) false
     | .slot w =>
       if c.scan.spill.getD v none = some p then (List.range x.vecN).map fun i => c.fill att (d + i) (w + i) 0
       else (List.range x.vecN).map fun i => if x.cls = .scal then c.copyReg att (d + i) r (i == 1) else c.copyReg att (d + i) (r + i) false
     | .pool _ =>
       if c.scan.spill.getD v none = some p then (List.range x.vecN).map fun i => c.movLit att (d + i) (x.const.getD 0 / 2 ^ (32 * i) % 2 ^ 32)
       else (List.range x.vecN).map fun i => if x.cls = .scal then c.copyReg att (d + i) r (i == 1) else c.copyReg att (d + i) (r + i) false) ++
    c.gatherOps att p (d + x.vecN) vs

def XCtx.preOps (c : XCtx) (att : Nat) : XPre → List NOp
  | .lit _ v bits => c.litOps att (c.writeReg v) (c.val v).ty bits ++ c.preStores att v
  | .gather p v srcs => srcs.eraseDups.flatMap (c.fillsOf att p) ++ c.gatherOps att p (c.writeReg v) srcs ++ c.preStores att v

/-- The registers of a value's run as an operand field names it. -/
def XCtx.runN (c : XCtx) (v : Nat) : Nat := (c.val v).n

/-- Where a gather has put its sources (R104): each in registers of the run. -/
def XCtx.gathered (c : XCtx) : Nat → List Nat → List (Nat × Nat × Nat)
  | _, [] => []
  | d, v :: vs => (v, d, (c.val v).vecN) :: c.gathered (d + (c.val v).vecN) vs
/-- The registers in which an instruction reads portable values: its own sources, and those that stand in a gather's run. -/
def XCtx.valRegs (c : XCtx) (i : XInstr) : List (Nat × Nat × Nat) :=
  ((i.srcs.filter (· < c.x.nport)).map fun v => (v, c.readReg v i.pos, c.runN v)) ++
  i.pre.flatMap fun
    | .gather _ v us => (c.gathered (c.readReg v i.pos) us).filter fun e => decide (e.1 < c.x.nport)
    | .lit _ _ _ => []

/-- The operation that performs an instruction other than const. -/
def XCtx.ownOp (c : XCtx) (i : XInstr) : NOp :=
  let o := i.raw.opc
  let regs := i.srcs.map fun v => (c.readReg v i.pos, c.runN v)
  let mst := o == 0x244
  let tile := regs.getD 2 (noReg, 1)
  let srcs := if mst then regs.eraseIdx 2 else if o = 0x00D ∨ o = 0x00F then [(i.jreg.getD 848, 1)] else regs
  let rs := if opcCall o then [] else i.res
  let dst := rs.head?.map fun v => (c.writeReg v, c.runN v)
  let dst2 := rs.tail.head?.map fun v => (c.writeReg v, c.runN v)
  let d : Nat × Nat :=
    if mst then tile else if o = 0x00C ∨ o = 0x00E then (i.jreg.getD 848, 1) else dst.getD (noDst, 0)
  c.withLat
    { nop0 o (i.idx + 1) with
      ty := i.raw.ty, yt := firstValTy c i.raw, mod := i.raw.mod, dst := d.1, dstN := d.2, dst2 := (dst2.getD (noDst, 0)).1,
      dst2N := (dst2.getD (noDst, 0)).2, srcs := srcs, vals := c.valRegs i, dstRead := mst, lit := i.lit, imm10 := i.imm10, land := landOf o i.raw.mod, own := true }
    (i.srcs.map fun v => (c.val v).ty)

/-- Fills that bring in the results of a call (R115). -/
def XCtx.resultFills (c : XCtx) (att : Nat) : Nat → List Nat → List NOp
  | _, [] => []
  | w, v :: vs =>
    (List.range (c.runN v)).map (fun i => c.fill att (c.writeReg v + i) (w + i) 1) ++ c.stores att v ++ c.resultFills att (w + c.runN v) vs

/-- The operations of an instruction; a const's last mov performs it, and one that holds no register leaves none (R111, R173). -/
def XCtx.instrOps (c : XCtx) (i : XInstr) : List NOp :=
  let att := i.idx + 1
  let pre := i.pre.flatMap (c.preOps att)
  if i.raw.opc = opcConst then
    let v := i.res.headD 0
    match c.scan.reg.getD v none with
    | none => []
    | some r =>
      let ops := c.litOps att r i.raw.ty ((c.val v).const.getD 0)
      ops.dropLast ++ (ops.getLast?.map fun o => { o with own := true }).toList
  else
    let fills := i.srcs.eraseDups.flatMap (c.fillsOf att i.pos)
    let args := c.moves att (bitOf (opcCall i.raw.opc)) (c.argMoves i.pos 4 i.args)
    let after := if opcCall i.raw.opc then c.resultFills att 4 i.res else i.res.flatMap (c.stores att)
    pre ++ fills ++ args ++ [c.ownOp i] ++ after

/-! ## Blocks and edge stubs (R113, R114) -/

/-- A block or an edge stub before scheduling: its operations, the terminator last, where the terminator's targets lead (a block, or a stub by
number), and instructions that no operation performs. -/
inductive XDest where
  | block (b : Nat)
  | stub (k : Nat)
  deriving DecidableEq, Repr, Inhabited

structure XUnit where
  block : Nat
  /-- The target that a stub stands for. -/
  stub : Option Nat
  ops : List NOp
  dests : List XDest
  /-- Portable instructions of the block without an operation of their own. -/
  bare : List Nat
  deriving DecidableEq, Repr, Inhabited

/-- Registers and frame words as numbers: words from 4096 up. -/
def NOp.touches (o : NOp) : List Nat :=
  if o.opc = opcSpill then
    (if o.mod % 2 = 1 then [] else (List.range (if regClass (o.srcs.headD (0, 1)).1 = .scal then 2 else 1)).map fun i => 4096 + o.imm10.getD 0 + i)
  else (List.range o.dstN).map (o.dst + ·)
def XCtx.holds (c : XCtx) (v p : Nat) : List Nat :=
  match c.scan.at_ v p with
  | .reg r => (List.range (c.val v).n).map (r + ·)
  | .slot w => (List.range (c.val v).words).map (4096 + w + ·)
  | .pool _ => []

/-- A move of target `k` writes what another target receives, or what the terminator reads (R114). -/
def XCtx.clash (c : XCtx) (i : XInstr) (k : Nat) (mv : List NOp) : Bool :=
  let wr := mv.flatMap NOp.touches
  let others := (i.targets.zipIdx.filter fun t => t.2 != k).flatMap fun t =>
    let params := (c.x.blocks[t.1.1]?.map XBlock.args).getD []
    t.1.2 ++ setElems c.x.nport (setMinus (c.x.lin.getD t.1.1 0) (setOf params))
  ((others.flatMap fun v => c.holds v i.pos) ++ i.srcs.map fun v => c.readReg v i.pos).any wr.contains

structure XStubs where
  stubs : List XUnit
  /-- Terminator's block, target block and its arguments, by number of the stub. -/
  keys : List (Nat × Nat × List (Opnd))
  deriving DecidableEq, Repr, Inhabited

/-- The targets of a terminator that need moves take stubs, one for equal targets. -/
def XCtx.stubTargets (c : XCtx) (b : Nat) (i : XInstr) (mvs : List (List NOp)) (raw : List (Nat × List Opnd)) :
    List Nat → XStubs → List XDest × XStubs
  | [], s => ([], s)
  | k :: ks, s =>
    let t := raw.getD k (0, [])
    let mv := mvs.getD k []
    let r : XDest × XStubs :=
      if mv.isEmpty then (.block t.1, s)
      else
        match s.keys.findIdx? fun e => e == (b, t.1, t.2) with
        | some n => (.stub n, s)
        | none =>
          (.stub s.stubs.length,
           { stubs := s.stubs ++ [{ block := b, stub := some k, dests := [.block t.1], bare := []
                                    ops := mv ++ [{ nop0 0x001 (i.idx + 1) with own := true }] }]
             keys := s.keys ++ [(b, t.1, t.2)] })
    let q := c.stubTargets b i mvs raw ks r.2
    (r.1 :: q.1, q.2)

def branchTargets (os : List RawOp) : List (Nat × List Opnd) := os.filterMap fun | .blk t => some (t.blk.toNat, t.args) | .op _ => none

/-- A block: entry stores, its instructions, and its terminator with the moves of R112 before it or in stubs. -/
def XCtx.blockUnit (c : XCtx) (b : Nat) (blk : XBlock) (s : XStubs) : XUnit × XStubs :=
  let entry := blk.args.flatMap (c.stores 0)
  let body := blk.instrs.flatMap c.instrOps
  let bare := (blk.instrs.filter fun i => !(body.any fun o => o.own && o.att == i.idx + 1)).map XInstr.idx
  match blk.instrs.getLast? with
  | none => ({ block := b, stub := none, ops := [], dests := [], bare := [] }, s)
  | some i =>
    let mvs := i.targets.map (c.targetMoves (i.idx + 1) i.pos)
    let need := (List.range mvs.length).filter fun k => !(mvs.getD k []).isEmpty
    let direct := i.raw.opc == 0x001 || decide (need.length ≤ 1) && need.all fun k => !c.clash i k (mvs.getD k [])
    if direct then
      let ops := body.dropLast ++ need.flatMap (fun k => mvs.getD k []) ++ body.getLast?.toList
      ({ block := b, stub := none, ops := entry ++ ops, dests := i.targets.map fun t => .block t.1, bare := bare }, s)
    else
      let r := c.stubTargets b i mvs (branchTargets i.raw.ops) (List.range mvs.length) s
      ({ block := b, stub := none, ops := entry ++ body, dests := r.1, bare := bare }, r.2)

def XCtx.blockUnits (c : XCtx) : List (XBlock × Nat) → XStubs → List XUnit × XStubs
  | [], s => ([], s)
  | (b, k) :: bs, s =>
    let r := c.blockUnit k b s
    let q := c.blockUnits bs r.2
    (r.1 :: q.1, q.2)

/-- The blocks in layout order, then the stubs (R119). -/
def XCtx.units (c : XCtx) : List XUnit :=
  let r := c.blockUnits c.x.blocks.zipIdx { stubs := [], keys := [] }
  r.1 ++ r.2.stubs

end Sys2Proof.Machine
end

