-- ==== Sys2Proof/Machine/XlSched.lean ====
section
/-! DEFINITION. The translator's format assignment, dependence edges and list scheduling (03_tvedah_native.md R116-R118, 06_float_formats.md R212,
20_programs_b.md R494). -/
namespace Sys2Proof.Machine

/-! ## Formats (R116) -/

structure Formats where
  held : List (Option (Ty × Ty))
  /-- Least recently used first. -/
  lru : List Nat
  deriving DecidableEq, Repr, Inhabited
def Formats.fresh : Formats := { held := [none, none, none, none], lru := [0, 1, 2, 3] }

def assignFormats (cls : Nat) : List NOp → Formats → List NOp
  | [], _ => []
  | o :: os, s =>
    if o.typed then
      let pair := (o.ty, o.yt)
      let k := (s.held.findIdx? fun h => h == some pair)
      let r := k.getD (s.lru.headD 0)
      let lit := o.ty.code * 2 ^ 18 + o.yt.code * 2 ^ 12
      let f : NOp := { nop0 opcFmtset o.att with dst := 872 + r, dstN := 1, lit := some lit, lat := latOf cls opcFmtset .none [] false 1 }
      (if k.isSome then [] else [f]) ++ { o with fsel := r } ::
        assignFormats cls os { held := s.held.set r (some pair), lru := s.lru.filter (· != r) ++ [r] }
    else o :: assignFormats cls os (if o.own && opcCall o.opc then Formats.fresh else s)

/-! ## Edges (R117, R212) -/

def regMask (rs : List (Nat × Nat)) : Nat :=
  rs.foldl (fun m r => if r.1 < noReg then m ||| ((2 ^ r.2 - 1) * 2 ^ r.1) else m) 0
def NOp.reads (o : NOp) : Nat :=
  regMask (o.srcs ++ (if o.dstRead then [(o.dst, 1)] else []) ++ if o.typed then [(872 + o.fsel, 1)] else [])
def NOp.writes (o : NOp) : Nat := regMask ((if o.dstRead then [] else [(o.dst, o.dstN)]) ++ [(o.dst2, o.dst2N)])
/-- The weight with which a reader of what it writes follows. -/
def NOp.raw (o : NOp) : Nat := if o.opc = opcFmtset then 5 else o.weight

/-- An operation with what the edges ask of it. -/
structure SOp where
  op : NOp
  rd : Nat
  wr : Nat
  flt : Bool
  eff : Bool
  call : Bool
  deriving DecidableEq, Repr, Inhabited
def NOp.sop (o : NOp) : SOp :=
  { op := o, rd := o.reads, wr := o.writes, flt := o.faults, eff := o.effect, call := o.own && opcCall o.opc }

def maxOpt (a : Option Nat) (c : Bool) (w : Nat) : Option Nat := if c then some (max (a.getD 0) w) else a

/-- The weight of the edge from an earlier operation to a later one, if there is one. -/
def edge (i j : SOp) : Option Nat :=
  let a := i.op.att
  let b := j.op.att
  let loops := opcIn i.op.opc 0x010 0x013 && opcIn j.op.opc 0x010 0x013 && i.op.imm10 == j.op.imm10 && !(i.op.opc == 0x012 && j.op.opc == 0x012)
  let e := maxOpt none (i.rd &&& j.wr != 0) 0
  let e := maxOpt e (i.wr &&& j.rd != 0) i.op.raw
  let e := maxOpt e (i.wr &&& j.wr != 0) (max 1 (i.op.raw + 1 - j.op.raw))
  let e := maxOpt e (i.eff && j.eff || loops) 1
  let e := maxOpt e (j.flt && (decide (a < b) || a == b && j.op.own)) 1
  let e := maxOpt e (i.flt && decide (a < b) && (j.flt || j.eff)) 1
  let e := maxOpt e (j.call && decide (a < b)) (max 1 i.op.weight)
  let e := maxOpt e i.call 1
  maxOpt e (i.op.setsFlag && (j.call || j.op.opc == 0x0DF)) i.op.lat

/-- For each operation, its edges to later ones. -/
def edgesFrom : List SOp → Nat → List (List (Nat × Nat))
  | [], _ => []
  | i :: is, k =>
    ((is.zipIdx (k + 1)).filterMap fun j => (edge i j.1).map fun w => (j.2, w)) :: edgesFrom is (k + 1)

/-- Which operations read what an operation has written to a mask of registers. -/
def consumers : List SOp → Nat → Nat → List Nat
  | [], _, _ => []
  | j :: js, k, m =>
    if m = 0 then []
    else (if m &&& j.rd != 0 then [k] else []) ++ consumers js (k + 1) (setMinus m j.wr)

/-! ## List scheduling (R118) -/

structure Sched where
  ops : Array NOp
  succ : Array (List (Nat × Nat))
  prio : Array Nat
  /-- Edges not yet met, and the earliest cycle that the met ones allow. -/
  wait : Array Nat
  est : Array Nat
  cyc : Array Nat
  left : List Nat
  /-- The first cycle at which each slot is free. -/
  free : List Nat
  deriving Repr, Inhabited

/-- Priorities (R118, R494), the last operation's first computed. -/
def priorities (ops : Array NOp) (succ : Array (List (Nat × Nat))) : Nat → Array Nat → Array Nat
  | 0, ps => ps
  | i + 1, ps =>
    let es := succ.getD i []
    let p := if es.isEmpty then (ops.getD i default).weight else es.foldl (fun m e => max m (e.2 + ps.getD e.1 0)) 0
    priorities ops succ i (ps.setIfInBounds i p)

def Sched.start (ops : List NOp) : Sched :=
  let n := ops.length
  let es := (edgesFrom (ops.map NOp.sop) 0)
  let a := ops.toArray
  let succ := es.toArray
  { ops := a, succ := succ, prio := priorities a succ n (Array.replicate n 0)
    wait := es.foldl (fun (w : Array Nat) l => l.foldl (fun (w : Array Nat) e => w.modify e.1 (· + 1)) w) (Array.replicate n 0)
    est := Array.replicate n 0, cyc := Array.replicate n 0, left := List.range (n - 1), free := [0, 0, 0, 0, 0, 0] }

/-- The first in order of descending priority, then attributed order, then insertion order. -/
def Sched.best (s : Sched) : List Nat → Option Nat → Option Nat
  | [], b => b
  | i :: is, none => s.best is (some i)
  | i :: is, some b =>
    let pi := s.prio.getD i 0
    let pb := s.prio.getD b 0
    let better := if pi ≠ pb then decide (pb < pi) else decide ((s.ops.getD i default).att < (s.ops.getD b default).att)
    s.best is (some (if better then i else b))

/-- An operation issues at a cycle in a slot. -/
def Sched.put (s : Sched) (cls t i slot : Nat) : Sched :=
  let o := s.ops.getD i default
  let es := s.succ.getD i []
  { s with ops := s.ops.setIfInBounds i { o with slot := slot }, cyc := s.cyc.setIfInBounds i t, left := s.left.erase i
           free := s.free.set slot (t + o.hold cls slot)
           wait := es.foldl (fun (w : Array Nat) e => w.modify e.1 (· - 1)) s.wait
           est := es.foldl (fun (w : Array Nat) e => w.modify e.1 (max · (t + e.2))) s.est }

/-- One cycle: ready operations until none fits. -/
def Sched.cycle (cls t : Nat) : Nat → List Nat → Sched → Sched
  | 0, _, s => s
  | fuel + 1, tried, s =>
    match s.best (s.left.filter fun i => s.wait.getD i 0 == 0 && decide (s.est.getD i 0 ≤ t) && !tried.contains i) none with
    | none => s
    | some i =>
      match (s.ops.getD i default).slots.find? fun k => decide (s.free.getD k 0 ≤ t) with
      | some k => Sched.cycle cls t fuel tried (s.put cls t i k)
      | none => Sched.cycle cls t fuel (i :: tried) s

/-- Cycles in order; those in which nothing can be ready are passed over. -/
def Sched.loop (cls : Nat) : Nat → Nat → Sched → Sched
  | 0, _, s => s
  | fuel + 1, t, s =>
    if s.left.isEmpty then s
    else
      let s := s.cycle cls t (2 * s.left.length + 1) []
      let soon := (s.left.filter fun i => s.wait.getD i 0 == 0).map fun i => s.est.getD i 0
      let next := soon.foldl min (soon.headD (t + 1))
      Sched.loop cls fuel (max (t + 1) next) s

/-- The terminator's cycle. -/
def Sched.termCycle (s : Sched) : Nat :=
  let last := s.ops.size - 1
  let t := s.ops.getD last default
  (List.range last).foldl (fun m i =>
    let o := s.ops.getD i default
    let es := s.succ.getD i []
    let w := es.foldl (fun w e => max w e.2) (max 1 o.weight)
    let c := s.cyc.getD i 0
    let m := max m (c + w - 1)
    let m := es.foldl (fun m e => if e.1 = last then max m (c + e.2) else m) m
    if o.faults ∧ (t.opc = opcExit ∨ t.opc = opcRet) then max m (c + 1) else m) 0

/-- A scheduled block: its operations with their cycles, and the terminator's cycle. -/
structure Scheduled where
  ops : List (NOp × Nat)
  term : Nat
  deriving DecidableEq, Repr, Inhabited

/-- LAND of an operation, by the cycles at which its consumers issue (R118). -/
def landAt (own : Nat) (cs : List Nat) (nominal : Nat) : Nat :=
  match cs with
  | [] => nominal
  | c :: cs => max 1 (min 1023 (cs.foldl min c - own))

/-- Schedules the operations of a block, the terminator last; `emit` when the terminator has a slot. -/
def schedule (cls : Nat) (emit : Bool) (ops : List NOp) : Scheduled :=
  let s := Sched.loop cls (ops.foldl (fun n o => n + 64 + o.weight) 64) 0 (Sched.start ops)
  let last := ops.length - 1
  let tc := s.termCycle
  let busy := (List.range last).filterMap fun i => if (s.ops.getD i default).slot = 0 then some (s.cyc.getD i 0) else none
  let tc := if emit && busy.contains tc then (busy.foldl max 0) + 1 else tc
  { ops := (List.range ops.length).map fun i => (s.ops.getD i default, if i = last then tc else s.cyc.getD i 0), term := tc }

end Sys2Proof.Machine
end

