-- ==== Sys2Proof/Machine/XlLayout.lean ====
section
/-! DEFINITION. The translator's packing, layout, marking, side table and bytes (03_tvedah_native.md R80-R83, R113-R114, R118-R120, R122-R125). -/
namespace Sys2Proof.Machine

/-! ## Bundles of a block (R113, R118, R120) -/

/-- Operations by bundle of a block or a stub. -/
structure XPack where
  unit : XUnit
  rows : List (List NOp)
  /-- Number of the terminator's bundle; whether it has an operation; whether a br in a bundle of its own follows. -/
  term : Nat
  emit : Bool
  extra : Bool
  deriving DecidableEq, Repr, Inhabited

/-- Operations whose bundle holds a land. -/
def landsAt (o : NOp) : Bool := o.own && (opcCall o.opc || opcTail o.opc || o.opc == opcRet || o.opc == opcExit)

def packUnit (cls : Nat) (quiet : List Nat) (u : XUnit) : XPack :=
  let ops := assignFormats cls u.ops Formats.fresh
  let t := u.ops.getLast?.getD default
  let next := XDest.block (u.block + 1)
  let emit := u.stub.isSome || !(t.opc == 0x001 && u.dests == [next])
  let sch := schedule cls emit ops
  let n := ops.length
  let toQuiet := opcBranch t.opc && u.dests.any fun d => match d with | .block b => quiet.contains b | .stub _ => false
  let anchors := ((sch.ops.filter fun o => landsAt o.1).map Prod.snd ++ if toQuiet then [sch.term] else []).eraseDups
  let full := anchors.filter fun c => (sch.ops.take (n - 1)).any fun o => o.2 == c && o.1.slot == 5
  let place := fun (c : Nat) => c + (full.filter (· ≤ c)).length
  let sops := ops.map NOp.sop
  let placed := (sch.ops.zipIdx).map fun o =>
    let cs := (consumers (sops.drop (o.2 + 1)) (o.2 + 1) o.1.1.writes).map fun j => place ((sch.ops.getD j default).2)
    ({ o.1.1 with land := if o.1.1.land = 0 then 0 else landAt (place o.1.2) cs o.1.1.land }, place o.1.2)
  let lands := anchors.map fun c => ({ nop0 opcLand t.att with slot := 5 }, place c - (if full.contains c then 1 else 0))
  let kept := (if emit then placed else placed.dropLast) ++ lands
  let extra := u.stub.isNone && t.opc == 0x002 && u.dests.getD 1 next != next
  let rows := (List.range (place sch.term + 1)).map fun c => (kept.filter fun o => o.2 == c).map Prod.fst
  { unit := u, rows := rows ++ (if extra then [[nop0 0x001 t.att]] else []), term := place sch.term, emit := emit, extra := extra }

/-- A branch carries an offset in LIT. -/
def withLit (o : NOp) : NOp := if opcBranch o.opc then { o with lit := some 0 } else o
def rowBytes (r : List NOp) : Nat := 8 * (1 + r.length + (r.filter fun o => (withLit o).ext).length)

/-! ## Encoding (R81-R83) -/

/-- The source in SA, SB or SC: the len of spq and the v of waitval stand in SC (R262, R289). -/
def NOp.src (o : NOp) (k : Nat) : Nat :=
  let gap := o.opc == 0x18A || o.opc == 0x1C8
  (o.srcs.getD (if gap then (if k = 1 then 3 else k / 2) else k) (noReg, 1)).1
def slotWord (o : NOp) : Nat :=
  o.opc * 2 ^ 54 + o.dst * 2 ^ 44 + o.src 0 * 2 ^ 34 + o.src 1 * 2 ^ 24 + (o.imm10.getD (o.src 2)) * 2 ^ 14 + o.lat * 2 ^ 8 + o.fsel * 2 ^ 6 +
  (if o.ext then 0 else o.mod % 64)
def extWord (o : NOp) : Nat := o.lit.getD 0 * 2 ^ 32 + o.mod * 2 ^ 20 + o.dst2 * 2 ^ 10 + o.land
/-- Operations by slot. -/
def bySlot (r : List NOp) : List NOp := (List.range 6).flatMap fun k => r.filter fun o => o.slot == k
def rowWords (map : Option Nat) (stamp : Option Nat) (quiet : Bool) (cut : Nat) (r : List NOp) : List Nat :=
  let rs := bySlot r
  let bits := fun (p : NOp → Bool) => (rs.filter p).foldl (fun n o => n ||| 2 ^ o.slot) 0
  (map.getD 0xFFFF * 2 ^ 48 + bitOf stamp.isSome * 2 ^ 33 + stamp.getD 0 % 256 * 2 ^ 25 + (if quiet then cut else 0) * 2 ^ 13 + bitOf quiet * 2 ^ 12 +
    bits NOp.ext * 2 ^ 6 + bits fun _ => true) ::
  (rs.map slotWord ++ (rs.filter NOp.ext).map extWord)

/-! ## Layout and marking (R119, R120) -/

/-- A bundle in layout: its unit, its number in the unit, its byte offset and its operations. -/
structure XRow where
  unit : Nat
  cyc : Nat
  off : Nat
  ops : List NOp
  deriving DecidableEq, Repr, Inhabited

def layRows : List (Nat × Nat × List NOp) → Nat → List XRow
  | [], _ => []
  | (u, c, r) :: rs, off => { unit := u, cyc := c, off := off, ops := r } :: layRows rs (off + rowBytes r)

def layout (ps : List XPack) : List XRow :=
  layRows ((ps.zipIdx).flatMap fun p => (p.1.rows.zipIdx).map fun r => (p.2, r.2, r.1)) 0

/-- Location of a bundle: of its faulting operation, of the first instruction of a block, of the instruction after a call. -/
def rowPoint (p : XPack) (cyc : Nat) (ops : List NOp) : Option Nat :=
  match ops.find? NOp.faults with
  | some o => some (if o.post then o.att else o.att - 1)
  | none =>
    if cyc = 0 then (if p.unit.stub.isNone then some 0 else none)
    else ((p.rows.getD (cyc - 1) []).find? fun o => o.own && opcCall o.opc).map NOp.att

/-- The register that an entry names has not received its result when bundle `cyc` issues (R124 KIND 11). -/
def pendingReg (p : XPack) (cyc r : Nat) : Bool :=
  match ((p.rows.take cyc).zipIdx.reverse).findSome? fun q => (q.1.find? fun o => o.writes.testBit r).map fun o => q.2 + o.weight with
  | some c => decide (cyc < c)
  | none => false

/-- A side-table entry (R123). -/
def entryWord (v kind place : Nat) : Word := w32 (v * 2 ^ 12 + kind * 2 ^ 10 + place)

/-- The entries of a record: the values live before an instruction. In a bundle that brings in the results of a call, a value that the scan spills
at the call stands in its slot (R109). -/
def XCtx.liveEntries (c : XCtx) (p : XPack) (cyc idx : Nat) (faulting : Bool) : List Word :=
  let b := p.unit.block
  let pos := ((c.x.blocks[b]?.bind fun k => k.instrs[idx]?).map XInstr.pos).getD 0
  let live := ((c.x.live.getD b []).getD idx 0)
  let called := (p.rows.take cyc).any fun r => r.any fun o => o.own && opcCall o.opc && o.att == idx + 1
  (setElems c.x.nport live).map fun v =>
    match c.scan.at_ v (if called then pos + 1 else pos) with
    | .reg r => entryWord v (if faulting && pendingReg p cyc r then 3 else 0) r
    | .slot w => entryWord v 1 w
    | .pool k => entryWord v 2 k

/-! ## The plan that issue follows -/

def NOp.toNative (o : NOp) : Option NatOp :=
  let r := fun (n : Nat) => BitVec.ofNat 10 n
  if o.opc = opcMov then some (.mov (r o.dst) (r (o.src 0)) (o.mod == 1) (o.lit.map w32))
  else if o.opc = opcSpill then some (.spill (r (o.src 0)) (r (o.imm10.getD 0)) (o.mod == 1))
  else if o.opc = opcFill then some (.fill (r o.dst) (r (o.imm10.getD 0)) (o.mod == 1) (r o.land))
  else if o.opc = opcLand then some .land
  else if o.opc = opcFmtset then some (.fmtset (r o.dst) (w32 (o.lit.getD 0)))
  else if o.opc = opcKmov then some (.kmov (r o.dst) (r (o.src 0)))
  else if o.opc = opcQmov then some (.qmov (r o.dst) (r (o.src 0)))
  else none

def NOp.plan (o : NOp) : List BundleOp :=
  let dsts := (if o.dst < noReg then [(o.dst, o.dstN)] else []) ++ (if o.dst2 < noReg then [(o.dst2, o.dst2N)] else [])
  let own : BundleOp :=
    { att := o.att - 1, own := some (o.att - 1), nat := none, high := none, dsts := if o.dstRead then [] else dsts, srcs := o.vals
      fsel := if o.typed then some o.fsel else none, land := o.land }
  let nat : BundleOp :=
    { att := o.att - 1, own := none, nat := o.toNative, high := if o.opc = opcConst then some (o.dst, w32 (o.lit.getD 0)) else none, dsts := []
      srcs := [], fsel := none, land := 0 }
  -- the last mov of a const performs it
  if !o.own then [nat] else if o.opc = opcMov then [nat, { own with dsts := [], fsel := none, land := 0 }] else [own]

/-- land first, then the operations in attributed order, each instruction's as they were inserted. -/
def insertAtt (o : NOp) : List NOp → List NOp
  | [] => [o]
  | x :: xs => if o.att < x.att then o :: x :: xs else x :: insertAtt o xs
def attOrder (r : List NOp) : List NOp :=
  let l := fun (o : NOp) => o.opc == opcLand
  r.filter l ++ (r.filter fun o => !l o).foldl (fun xs o => insertAtt o xs) []

def bareOp (k : Nat) : BundleOp := { att := k, own := some k, nat := none, high := none, dsts := [], srcs := [], fsel := none, land := 0 }

/-- Location index of a bundle that has no map point: of its earliest operation, or of the bundle before it. -/
def rowIndex (p : XPack) (cyc : Nat) (ops : List NOp) : Nat :=
  match rowPoint p cyc ops with
  | some k => k
  | none =>
    let atts := (p.rows.drop cyc).findSome? fun r => (attOrder r).head?.map fun o => o.att - 1
    atts.getD ((p.unit.ops.getLast?.map NOp.att).getD 1 - 1)

/-! ## The translation -/

structure XlateOut where
  /-- Failure reason 1-4 of R121. -/
  fail : Option Nat
  minb : Nat
  framew : Nat
  code : List Byte
  maps : List MapRec
  pool : List (BitVec 128)
  plan : List Bundle
  starts : List Nat
  places : List (List (Nat × Nat))
  /-- Values of the scalar class. -/
  scal : List Nat
  deriving DecidableEq, Repr, Inhabited

/-- Zero bytes up to the next multiple of 8. -/
def padTo8 (bs : List Byte) : List Byte := bs ++ List.replicate ((8 - bs.length % 8) % 8) 0
/-- A record of the side table (R123). -/
def MapRec.bytes (r : MapRec) : List Byte :=
  [r.block, r.index, r.boff, r.live.length].flatMap (bytesOfNat 4) ++ r.live.flatMap fun e => bytesOfNat 4 e.toNat
/-- Where each record begins, from the start of the side table. -/
def recordOffs : List MapRec → Nat → List Nat
  | [], _ => []
  | r :: rs, off => off :: recordOffs rs (off + 16 + 4 * r.live.length)
/-- The side table (R123). -/
def sideTable (maps : List MapRec) : List Byte :=
  (recordOffs maps (4 * maps.length)).flatMap (bytesOfNat 4) ++ maps.flatMap MapRec.bytes
/-- The bytes of an image (R122): header, bundles and case tables, side table, constant pool (R125), each from a multiple of 8. -/
def XlateOut.bytes (x : XlateOut) (k : TransKey) : List Byte :=
  let code := padTo8 x.code
  bytesOfNat 8 k.modkey.toNat ++ bytesOfNat 4 k.func ++ bytesOfNat 1 k.cls ++ bytesOfNat 1 k.gen ++ bytesOfNat 2 k.budget ++
  bytesOfNat 1 k.dmode ++ bytesOfNat 1 Config.translatorGen ++ bytesOfNat 2 x.minb ++ bytesOfNat 4 x.code.length ++
  bytesOfNat 4 (64 + code.length) ++ bytesOfNat 4 x.maps.length ++ bytesOfNat 2 x.framew ++ bytesOfNat 2 x.pool.length ++ List.replicate 28 0 ++
  code ++ padTo8 (sideTable x.maps) ++ x.pool.flatMap fun c => bytesOfNat 16 c.toNat

def XlateOut.failed (why minb : Nat) : XlateOut :=
  { fail := some why, minb := minb, framew := 0, code := [], maps := [], pool := [], plan := [], starts := [], places := [], scal := [] }

/-- Bundles numbered as their map points, cuts and stamps. -/
structure Mark where
  map : Option Nat
  quiet : Bool
  cut : Nat
  stamp : Option Nat
  idx : Nat
  deriving DecidableEq, Repr, Inhabited

def markRows (ps : List XPack) (quiet : List Nat) (stamping : Bool) : List XRow → Nat → Nat → List Mark
  | [], _, _ => []
  | r :: rs, nmap, ncut =>
    let p := ps.getD r.unit default
    let q := r.cyc == 0 && p.unit.stub.isNone && quiet.contains p.unit.block
    let pt := rowPoint p r.cyc r.ops
    { map := pt.map fun _ => nmap, quiet := q, cut := if q then min 4095 (ncut + 1) else 0
      stamp := if stamping && r.ops.any NOp.stamps then some (r.cyc % 256) else none, idx := rowIndex p r.cyc r.ops } ::
      markRows ps quiet stamping rs (if pt.isSome then nmap + 1 else nmap) (if q then ncut + 1 else ncut)

/-- Steps 8 to 12 of R103. -/
def XCtx.finish (c : XCtx) (dmode minb : Nat) : XlateOut :=
  let us := c.units
  let ps := us.map (packUnit c.cls c.fi.quiet)
  let rows := layout ps
  let nb := c.x.blocks.length
  let ra := rows.toArray
  let starts := (List.range ps.length).map fun u => ((ps.take u).foldl (fun n p => n + p.rows.length) 0)
  let destRow := fun (d : XDest) => match d with | .block b => starts.getD b 0 | .stub k => starts.getD (nb + k) 0
  let offOf := fun (k : Nat) => (ra.getD k default).off
  let endOff := (rows.getLast?.map fun r => r.off + rowBytes r.ops).getD 0
  let marks := markRows ps c.fi.quiet (dmode % 2 == 1) rows 0 0
  let rel := fun (dest here : Nat) => ((offOf dest : Int) - (here : Int)) % 2 ^ 32 |>.toNat
  -- case tables follow the last bundle, one brsw's after the other
  let tables := (rows.zipIdx).filter fun r => r.1.ops.any fun o => o.opc == 0x003
  let tableOff := fun (k : Nat) =>
    (tables.takeWhile fun t => t.2 != k).foldl (fun n t => n + 4 * ((ps.getD t.1.unit default).unit.dests.length)) endOff
  let tableBytes := tables.flatMap fun t =>
    ((ps.getD t.1.unit default).unit.dests).flatMap fun d => bytesOfNat 4 (rel (destRow d) t.1.off)
  let setLit := fun (k : Nat) (r : XRow) (o : NOp) =>
    let u := (ps.getD r.unit default)
    if o.opc = 0x003 then { o with lit := some ((tableOff k - r.off) % 2 ^ 32) }
    else if opcBranch o.opc then
      { o with lit := some (rel (destRow (u.unit.dests.getD (if u.extra && r.cyc == u.term + 1 then 1 else 0) (.block 0))) r.off) }
    else o
  let code := ((rows.zip marks).zipIdx).flatMap fun e =>
    (rowWords e.1.2.map e.1.2.stamp e.1.2.quiet e.1.2.cut (e.1.1.ops.map (setLit e.2 e.1.1))).flatMap (bytesOfNat 8)
  let maps := (rows.zip marks).filterMap fun e =>
    match rowPoint (ps.getD e.1.unit default) e.1.cyc e.1.ops with
    | none => none
    | some idx =>
      let p := ps.getD e.1.unit default
      some { block := p.unit.block, index := idx, boff := e.1.off, live := c.liveEntries p e.1.cyc idx (e.1.ops.any NOp.faults) }
  let plan := (rows.zip marks).zipIdx.map fun e =>
    let r := e.1.1
    let m := e.1.2
    let p := ps.getD r.unit default
    let u := p.unit
    let isTerm := r.cyc == p.term || p.extra && r.cyc == p.term + 1
    let last := (u.ops.getLast?.getD default).att - 1
    let lead := fun (k : Nat) (d : XDest) =>
      match d with
      | .stub _ => some (destRow d)
      | .block _ => if p.extra && r.cyc == p.term && k == 1 then some (e.2 + 1) else none
    let bare := if isTerm && (!p.emit || r.cyc != p.term) then [bareOp last] else []
    { block := u.block, index := if r.cyc = 0 ∧ u.stub.isNone then 0 else m.idx, cyc := r.cyc, first := r.cyc == 0 && u.stub.isNone
      back := r.cyc != 0 && (p.rows.getD (r.cyc - 1) []).any fun o => o.own && opcCall o.opc
      slots := r.ops.foldl (fun n o => n ||| 2 ^ o.slot) 0
      holds := (r.ops.filter fun o => decide (1 < o.hold c.cls o.slot)).map fun o => (o.slot, o.hold c.cls o.slot)
      boff := r.off, map := m.map, quiet := m.quiet, cut := m.cut, stamp := m.stamp, term := isTerm, bare := if r.cyc = 0 then u.bare else []
      ops := ((attOrder r.ops).filter fun _ => !(p.extra && r.cyc == p.term + 1)).flatMap NOp.plan ++ bare
      gos := if !isTerm then []
        else if u.stub.isSome then [none]
        else if r.cyc = p.term then (u.dests.zipIdx).map fun d => lead d.2 d.1
        else [lead 1 (u.dests.getD 1 (.block 0))]
      only := match u.stub with
        | some k => if isTerm then some k else none
        | none => if p.extra && r.cyc == p.term + 1 then some 1 else none }
  let out : XlateOut :=
    { fail := none, minb := minb, framew := c.scan.next, code := code ++ tableBytes, maps := maps, pool := c.scan.consts, plan := plan, starts := starts.take nb
      places := c.x.raws.map fun b => b.map Prod.snd
      scal := (List.range c.x.nport).filter fun v => (c.val v).cls == .scal }
  if 1024 < c.scan.next ∨ us.any fun u => u.ops.any fun o => 1023 < o.imm10.getD 0 then XlateOut.failed 3 minb
  else if 65535 < maps.length then XlateOut.failed 4 minb
  else out

end Sys2Proof.Machine
end

