-- ==== Sys2Proof/Machine/Translator.lean ====
section
/-! DEFINITION. The Tvedah translator (03_tvedah_native.md R103, R121, R132): a fixed function of the module, the function, the die class, the budget and
the determinism mode. -/
namespace Sys2Proof.Machine

/-- The translation of a function, or the reason for which it fails. -/
def translate (m : Module) (f : FuncInfo) (cls budget dmode : Nat) : XlateOut :=
  let x := m.xfunc f
  let minb := x.minBudget f 96 1
  if budget < minb then XlateOut.failed (((x.scan f budget).fail).getD 1) minb
  else
    let s := x.scan f budget
    match s.fail with
    | some why => XlateOut.failed why minb
    | none => ({ cls := cls, budget := budget, fi := f, x := x, scan := s } : XCtx).finish dmode minb

end Sys2Proof.Machine
end

