-- ==== Sys2Proof/Machine/Tasks.lean ====
section
/-! DEFINITION. Tasks and placement (14_tasks_placement.md R373-R393): argument blocks, the scan and admission of gangs, the heat test and
its charges, pre-emption, power gating, and the seven instructions. -/
namespace Sys2Proof.Machine

/-! ## Spatial levels (R154, R378, R382) -/

/-- The value of a TRIP immediate or literal. -/
def tripConst : Opnd → Nat
  | .imm v => (v.signExtend 32).toNat
  | .lit _ v => v.toNat % 2 ^ 32
  | .val _ => 0
def Task.loops (s : State) (t : Task) : List LoopLevel := ((s.funcOf t.launch.handle t.launch.fidx).map FuncInfo.loops).getD []
/-- The coordinate of workgroup `w` on the outermost level of a KIND, when there is one. -/
def Task.coord (s : State) (t : Task) (kind w : Nat) : Option Nat :=
  let ls := t.loops s
  match (List.range ls.length).find? fun i => (ls.getD i default).kind == kind with
  | none => none
  | some k =>
    let inner := ((ls.drop (k + 1)).filter fun l => l.kind != 0).foldl (fun n l => n * tripConst l.trip) 1
    some (w / inner % tripConst (ls.getD k default).trip)

/-- The die of a workgroup (R378). -/
def Task.dieOf (s : State) (t : Task) (w : Nat) : Option Nat :=
  let order := s.dieOrder t.launch.spad t.fired
  match t.coord s 2 w with
  | none => order.head?
  | some c => order[c % order.length]?

/-! ## The argument block (R375) -/

/-- The parameters' values, laid one after another in whole registers. -/
def argVals : List Ty → List Byte → List Val
  | [], _ => []
  | t :: ts, bs =>
    let n := 4 * regCount t
    BitVec.ofNat 256 (natOfBytes (bs.take n) % 2 ^ t.width) :: argVals ts (bs.drop n)

/-- The parts of the argument block, by page and line: (offset, length). -/
def argParts (l : Launch) : List (Nat × Nat) :=
  let a := l.args.toNat
  (linesIn a l.arglen).map fun n => (max a (128 * n) - a, min (a + l.arglen) (128 * n + 128) - max a (128 * n))
/-- A line of the block as a load by the workgroup's first wave gives it: its bytes, or a cause. -/
def State.argLine (s : State) (wi : Nat) (acc : Acc) (tok : Dword) (va n : Nat) : Except Nat (List Byte) :=
  match s.xlate acc va with
  | .error c => .error c.code
  | .ok f =>
    let merged := 2 ≤ (s.taskOfWg wi).launch.dmode
    if eFab f.leaf then
      let k := s.fabCause tok default (f.askLine engMod)
      let bs := s.fabBytes tok default (f.askLine engMod) (f.dpa % 128) n
      if k ≠ 0 then .error k else .ok (if merged then s.viewOver wi f.vkey bs else bs)
    else if s.uncorr f.key then .error 0x80
    else .ok (if merged then s.viewOver wi f.vkey (s.readAt f n) else s.readAt f n)
/-- The block read once (R375): its bytes, or a cause and its address; cause 0 while lines of another device are awaited. -/
def State.readArgs (s : State) (wi : Nat) : Except (Nat × Dword) (List Byte) × State :=
  let t := s.taskOfWg wi
  let g := s.wgAt wi
  let acc : Acc :=
    { core := globalCore g.die g.core, die := g.die, ctx := t.ctx, user := t.user, space := .global, rd := true, wr := false }
  let tok := (((s.wavesOf wi).head?).map fun i => (s.waveAt i).token).getD 0
  let ps := argParts t.launch
  let asks := ps.filterMap fun p =>
    match s.xlate acc (t.launch.args.toNat + p.1) with
    | .ok f => if eFab f.leaf then some (f.askLine engMod) else none
    | .error _ => none
  if !s.fabReady tok default asks then (.error (0, 0), s.fabAskAll g.die tok default asks)
  else
    let r := ps.foldl (fun (r : Except (Nat × Dword) (List Byte)) p =>
      match r with
      | .error e => .error e
      | .ok bs =>
        let va := t.launch.args.toNat + p.1
        match s.argLine wi acc tok va p.2 with
        | .error k => .error (k, dw va)
        | .ok x => .ok (bs ++ x)) (.ok [])
    (r, (s.walked acc (ps.map fun p => t.launch.args.toNat + p.1)).fabDrop tok default)

/-- Frame words 0-2 of a thread, and its arguments from word 4 on: (word, value). -/
def Launch.frameWords (l : Launch) (budget : Nat) (tys : List Ty) (bs : List Byte) : List (Nat × Nat) :=
  [(0, l.handle * 2 ^ 16 + l.fidx), (1, budget / 8 * 2 ^ 24 + 0xFFFF), (2, l.pwords)] ++
  (List.range ((tys.map regCount).foldl (· + ·) 0)).map fun k => (4 + k, natAt bs (4 * k) 4)
/-- The device writes those words of every lane of a wave, up to private word 16,383: the lanes' copies of one word lie side by side (R250). -/
def State.startWave (s : State) (i : Nat) (ws : List (Nat × Nat)) : State :=
  let w := s.waveAt i
  let t := s.taskOfWg w.wg
  (ws.filter fun e => decide (t.launch.pwords + e.1 < 16384)).foldl (fun s e => s.ctxWrite t.ctx (w.wordVa (t.launch.pwords + e.1) 0) (wordsBytes 4 (List.replicate 32 e.2))) s

/-- Every lane of every wave of a workgroup takes the arguments; or the cause is kept for wave 0's first bundle. -/
def State.takeArgs (s : State) (wi : Nat) : State :=
  let t := s.taskOfWg wi
  let tys := ((s.funcOf t.launch.handle t.launch.fidx).map fun f => f.sig.params).getD []
  match s.readArgs wi with
  | (.error e, s) => s.updWg wi fun g => { g with argsDue := some e }
  | (.ok bs, s) =>
    let vs := argVals tys bs
    let s := (s.wavesOf wi).foldl (fun s i =>
      (s.startWave i (t.launch.frameWords (s.waveAt i).budget tys bs)).updWave i fun w => w.mapLanes fun _ l => l.setVals 0 vs) s
    s.updWg wi fun g => { g with argsDue := none }

/-! ## Heat (R384, R385) -/

/-- Band of a temperature in 1/16 degC. -/
def bandOf (t : Nat) : Nat := if t < 1360 then 0 else if t < 1520 then 1 else if t < 1680 then 2 else 3
/-- Lower bound of a band, in 1/16 degC. -/
def bandLow (b : Nat) : Nat := if b = 0 then 0 else if b = 1 then 1360 else if b = 2 then 1520 else 1680
/-- 500 GB/s times loss, in halves of a GB/s. -/
def lossHalf (b : Nat) : Nat := if b = 0 then 25 else if b = 1 then 50 else 100

/-- The band after a sample: it rises at once, and falls only past 1 degC below its lower bound. -/
def nextBand (t : Nat) : Nat → Nat
  | 0 => bandOf t
  | b + 1 => if b + 1 ≤ bandOf t then bandOf t else if t + 16 ≤ bandLow (b + 1) then nextBand t b else b + 1

def State.vtemp (s : State) (d v : Nat) : Nat := (s.dieGet d (0x080 + v)).toNat
def nearVault (v c : Nat) : Bool := 5 * v / 8 == c
/-- Cost of a workgroup of heat class `h` on cluster `c` at vault `v`, in halves of a GB/s; none when the test refuses. -/
def State.vaultCost (s : State) (d c h v : Nat) : Option Nat :=
  let x := s.dieAt d
  let hc := s.dieGet d (0x040 + h)
  let t := s.vtemp d v
  let b := x.bands.getD v 0
  let t' := t + (if nearVault v c then bits hc 24 8 else bits hc 16 8)
  if b = 3 ∨ 1680 ≤ t' then none
  else
    let b' := max b (bandOf t')
    let cost := (if nearVault v c then 2 * bits hc 0 16 else 0) + (lossHalf b' - lossHalf b)
    if 1000 < lossHalf b + x.chg.getD v 0 + cost + 2 * bits (s.dieGet d 0x035) 0 16 then none else some cost
/-- The costs at the 32 vaults. -/
def State.heatCost (s : State) (d c h : Nat) : Option (List Nat) := (List.range 32).mapM fun v => s.vaultCost d c h v

/-! ## Admission (R380-R382) -/

/-- Workgroups that hold resources of a die. -/
def State.wgsOn (s : State) (d : Nat) : List Workgroup :=
  s.wgs.filter fun g => g.die == d && (g.st == .resident || g.st == .saving || g.st == .killing)
def Workgroup.waves (s : State) (g : Workgroup) : Nat := ((s.taskOf g.task).map fun t => t.launch.nwave).getD 0
/-- Register-cache lines of a core: 6,144, less what its workgroups hold (R27). -/
def State.linesFree (s : State) (d core : Nat) : Nat :=
  6144 - ((s.wgsOn d).filter fun g => g.core == core).foldl (fun n g => n + g.budget * g.waves s) 0
def State.spadFree (s : State) (d c : Nat) : Nat :=
  spadOf d - ((s.wgsOn d).filter fun g => g.core / 4 == c).foldl (fun n g => n + g.spadB) 0

/-- The key of the translation of a task's entry function on a die, at a budget. -/
def State.entryKey (s : State) (t : Task) (d b : Nat) : TransKey :=
  { modkey := ((s.moduleOf t.launch.handle).map Module.key).getD 0, func := t.launch.fidx, cls := dieClass d, gen := Config.translatorGen, budget := b,
    dmode := t.launch.dmode }
/-- The largest budget at which `n` waves find their lines free on a core. -/
def State.lowered (s : State) (d core n : Nat) : Nat := s.linesFree d core / n / 8 * 8
/-- The budget at which a core takes a workgroup that would run at budget `b` (R381): a lower one is at least MINB of the function's translation,
which stands in the cache. -/
def State.admitBudget (s : State) (t : Task) (d core b : Nat) : Option Nat :=
  let n := t.launch.nwave
  if b * n ≤ s.linesFree d core then some b
  else
    let b2 := s.lowered d core n
    match s.freshImage d (s.entryKey t d b) with
    | some i => if b2 = 0 ∨ b2 < i.minb then none else some b2
    | none => none

/-- A new wave of a workgroup: its spatial loop levels stand at the workgroup's coordinates in the entry function's levels (R154). -/
def State.newWave (s : State) (wi n d core slot seq pbase : Nat) (wbp : Option Dword) (budget : Nat) : Wave :=
  let t := s.taskOfWg wi
  let p := s.blockLoc budget t.launch.handle t.launch.fidx 0 0
  let ls := ((s.funcOf t.launch.handle t.launch.fidx).map FuncInfo.loops).getD []
  let fr : Frame := { vals := [], ret := none, dst := 0, callerFb := t.launch.pwords, budget := budget, bpos := 0, cont := false }
  let l : Lane :=
    { st := .running, wait := .none, pc := p, after := p, frames := [fr], fb := t.launch.pwords, rsidx := 0, bpos := 0, g := [], s := [],
      fm := [] }
  { die := d, core := core, slot := slot, seq := seq, wg := wi, num := n, live := true, lanes := List.replicate 32 l,
    enr := List.replicate 8 0, prk := List.replicate 8 0, idx := (List.range 6).map fun k => if (ls.getD k default).kind ≠ 0 then w32 (spatialCoord ls (s.wgAt wi).num k) else 0
    trip := List.replicate 6 0, fpf := 0, fpAt := 0, fpNew := 0, retired := 0,
    sincePhase := 0, arrivedOn := [], starve := 0, unoffered := [], offerNext := none, hold := 0, passTurn := false, wkp := false,
    faulted := false, frec := none, late := [], pend := none, contfn := 0, contarg := 0, incont := false, csig := false, cmask := 0,
    rpc := default, contAsk := none, unsaved := false, tlbAfter := none, q := [], tiles := [], qoffer := false, fmPend := [], landings := [], tilePend := [], cold := [],
    blockBad := false,
    pbase := dw ((Config.pbaseUnit % 2 ^ 35 + pbase) * 2 ^ 21), wbp := wbp, budget := budget, opfence := false, cutAt := none,
    cutStop := false, throttled := 0, primary := false, migrate := false,
    xfail := none, evicted := false, retr := none, xwait := none }

/-- The lowest unit of the own-word areas that no live wave has (R250). -/
def State.freePbase (s : State) (i : Nat) : Nat :=
  let used := ((s.waves.filter Wave.live).map fun w => (w.pbase.toNat / 2 ^ 21 + 2 ^ 43 - Config.pbaseUnit % 2 ^ 35) % 2 ^ 43)
  ((List.range (used.length + i + 1)).filter fun k => !used.contains k).getD i 0

/-- The waves of a workgroup are created on a core. -/
def State.createWaves (s : State) (wi d core budget : Nat) (wbps : List Nat) : List Nat → State
  | [] => s
  | n :: ns =>
    let slot := (s.freeSlots d core).headD 0
    let r := s.nextSeq d core
    let w := r.2.newWave wi n d core slot r.1 (s.freePbase 0) ((wbps[n]?).map fun u => dw (u * spaceUnit)) budget
    ({ r.2 with waves := r.2.waves ++ [w] } : State).createWaves wi d core budget wbps ns

/-- A workgroup starts on a core: new, or again from its entry. -/
def State.startWg (s : State) (t : Task) (w d core start budget : Nat) (wbps : List Nat) (img : Option Nat) (cost : List Nat) : State :=
  let g : Workgroup :=
    { st := .resident, task := t.handle, num := w, die := d, core := core, scoreStart := start, spadB := t.launch.spad, spad := [],
      absent := [], badPad := [], cost := cost, wset := [], wpool := [], reds := [], spimg := img.map fun u => dw (u * spaceUnit), argsDue := none,
      budget := budget }
  let old := (List.range s.wgs.length).find? fun i => (s.wgAt i).task == t.handle && (s.wgAt i).num == w
  let wi := old.getD s.wgs.length
  let s := if old.isSome then s.updWg wi fun _ => g else { s with wgs := s.wgs ++ [g] }
  let s := s.createWaves wi d core budget wbps (List.range t.launch.nwave)
  s.takeArgs wi

/-- What stands for the admission of one workgroup on one core (R381): `res` asks for its resources, `heat` for the heat test. A workgroup that has
ended takes no part in its gang's return (R400, R407). -/
def State.admitMember (s : State) (t : Task) (w d core start : Nat) (res heat : Bool) : Option State :=
  let c := core / 4
  let x := s.dieAt d
  let mine := fun (st : WgSt) => (List.range s.wgs.length).find? fun i => (s.wgAt i).task == t.handle && (s.wgAt i).num == w && (s.wgAt i).st == st
  let old := mine .saved
  if (mine .ended).isSome then some s
  else if x.goneCores.contains core ∨ x.goneClusters.contains c ∨ x.goneQuerns.contains (c, core % 4 / 2) ∨ t.drainOn.any (fun e => e.2 == globalCore d core) then none
  else
    match (if heat then s.heatCost d c t.launch.heat else some (List.replicate 32 0)) with
    | none => none
    | some cost =>
      let charged := s.setDie d fun x => { x with chg := (List.range 32).map fun v => x.chg.getD v 0 + cost.getD v 0 }
      if !res then some charged
      else if (s.freeSlots d core).length < t.launch.nwave ∨ s.spadFree d c < t.launch.spad ∨
          32 ≤ ((s.wgsOn d).filter fun g => g.core == core).length then none
      else
        match s.admitBudget t d core ((old.map fun i => (s.wgAt i).budget).getD t.launch.budget) with
        | none => none
        | some b =>
          match old with
          | some wi =>
            if dieClass (s.wgAt wi).die ≠ dieClass d ∨ !s.mayRestore wi then none
            else
              let used := (s.bindings.filter fun y => (s.wgAt y.wg).die == d && (s.wgAt y.wg).core / 4 == c && (s.wgAt y.wg).st != .saved)
              if 16 < used.length + (s.bindings.filter fun y => y.wg == wi).length then none
              else some ((charged.restoreWg wi d core start b).updWg wi fun g => { g with cost := cost })
          | none =>
            match s.poolUnits d t.launch.nwave [] with
            | none => none
            | some us =>
              match (if t.launch.spad = 0 then some none else (s.poolRun d (imageUnits t.launch.spad) us).map some) with
              | none => none
              | some img => some (charged.startWg t w d core start b us img cost)

/-- The gang of a task on the run that starts at a core, rank by rank, each against the charges of the lower ranks. -/
def State.admitRun (s : State) (t : Task) (gang d start : Nat) (res heat : Bool) : Option State :=
  (List.range t.launch.gang).foldlM (fun s r => s.admitMember t (gang * t.launch.gang + r) d ((start + r) % 80) start res heat) s

/-- A cluster is gated, by a gating that no dispatch of the same cycle can withdraw (R388). -/
def State.isGated (s : State) (d c : Nat) : Bool := (s.dieAt d).gated.contains c && !(s.dieAt d).gateAt.contains (c, s.cycle)
/-- Runs that a gang may take (R380, R400), in the order of the scan (R382). -/
def State.runsFor (s : State) (t : Task) (gang d : Nat) : List Nat :=
  let pref := ((t.coord s 1 (gang * t.launch.gang)).getD 0) % 80
  let saved := (s.wgs.find? fun g => g.task == t.handle && g.gangNum t == gang && g.st == .saved).map Workgroup.scoreStart
  let ok := fun (c : Nat) =>
    c % 4 + t.launch.gang ≤ 12 && (t.launch.dmode % 2 == 0 || c % 4 + t.launch.gang ≤ 4) &&
    (t.launch.dmode % 2 == 0 || saved.all fun k => k % 4 == c % 4)
  let all := ((List.range 80).map fun i => (pref + i) % 80).filter ok
  let cold := fun (c : Nat) => (List.range t.launch.gang).any fun r => s.isGated d ((c + r) % 80 / 4)
  all.filter (fun c => !cold c) ++ all.filter cold

/-- The first gang of a task that waits for a die. -/
def State.waitingGang (s : State) (t : Task) (d : Nat) : Option Nat :=
  ((List.range (t.launch.grid / max 1 t.launch.gang)).find? fun g => !t.admitted.contains g && t.dieOf s (g * t.launch.gang) == some d)

/-- Tasks in the order of the scan. -/
def insertTask (t : Task) : List Task → List Task
  | [] => [t]
  | x :: xs =>
    if x.prio < t.prio ∨ (x.prio = t.prio ∧ (t.seq < x.seq ∨ (t.seq = x.seq ∧ t.die < x.die))) then t :: x :: xs else x :: insertTask t xs
def State.scanOrder (s : State) : List Task :=
  (s.tasks.filter fun t => (t.st == .ready || t.st == .running) && t.aborted.isNone).foldl (fun l t => insertTask t l) []

/-- A gang that the scan of a die admits: the task, the gang, the start core. One gang enters a die in a cycle. -/
def State.admissible (s : State) (d : Nat) : Option (Task × Nat × Nat) :=
  if (s.dieAt d).scanAt = s.cycle + 1 ∨ s.halted ∨ !(s.dieAt d).ok ∨ (s.dieAt d).withdrawn ∨ s.cut.st = 3 then none
  else
    s.scanOrder.findSome? fun t =>
      match s.waitingGang t d with
      | none => none
      | some g => ((s.runsFor t g d).find? fun c => (s.admitRun t g d c true true).isSome).map fun c => (t, g, c)

/-- A gang is admitted: its counters, its clusters out of gating (R388), and the end of the drains that it waited for. -/
def State.admitGang (s : State) (t : Task) (g d start : Nat) : State :=
  match s.admitRun t g d start true true with
  | none => s
  | some s1 =>
    let s' : State := s1
    let cores := (List.range t.launch.gang).map fun r => (start + r) % 80
    let cold := cores.filter fun c => s.isGated d (c / 4)
    let s' := s'.setDie d fun x => { x with scanAt := s.cycle + 1, gated := x.gated.filter fun k => !(cores.any fun c => c / 4 == k) }
    let s' := { s' with waves := s'.waves.map fun (w : Wave) =>
      if w.live && w.die == d && cold.contains w.core && (s'.wgAt w.wg).task == t.handle then { w with hold := s.cycle + 2049 } else w }
    let s' := if s'.gangs.any (fun x => x.task == t.handle && x.num == g) then s'
      else { s' with gangs := s'.gangs ++ [{ task := t.handle, num := g, fc := 0, plan := [], frameEnd := 0, gset := [], gpool := [], folds := 0 }] }
    let s' := s'.updTask t.handle fun t =>
      { t with st := .running, admitted := t.admitted ++ [g], sinceAdmit := s.cycle, stallSent := false }
    { s' with tasks := s'.tasks.map fun x => { x with drainOn := x.drainOn.filter fun e => !(e.1 == t.handle && e.2 / 80 == d) } }

/-- The gang has been saved. -/
def State.gangSaved (s : State) (t : Task) (g : Nat) : Bool :=
  s.wgs.any fun x => x.task == t.handle && x.gangNum t == g && x.st == .saved

/-- A translation that the scan lacks (R381): some core has lines for its gang only at a lower budget, and the cache does not hold the function. -/
def State.scanLacks (s : State) (d : Nat) : Option (Task × TransKey) :=
  s.scanOrder.findSome? fun t =>
    let k := s.entryKey t d t.launch.budget
    match s.waitingGang t d, s.moduleOf t.launch.handle, s.funcOf t.launch.handle t.launch.fidx with
    | some g, some m, some f =>
      let short := fun (c : Nat) => (List.range t.launch.gang).any fun r =>
        decide (s.linesFree d ((c + r) % 80) < t.launch.budget * t.launch.nwave) && s.lowered d ((c + r) % 80) t.launch.nwave != 0
      if (s.freshImage d k).isSome || (s.transReqs.any fun r => r.die == d && r.key == k) || !((s.runsFor t g d).any short) ||
        (translate m f k.cls k.budget k.dmode).fail.isSome then none
      else some (t, k)
    | _, _, _ => none
/-- Event (R382): one scan; a saved gang is the business of CONTEXT_RESTORE. The scan asks for a translation that it lacks, which is a miss (R129). -/
def execWorkgroupAdmit (d : Nat) (s : State) : Outcome :=
  .next (match s.admissible d with
    | some (t, g, c) => if s.gangSaved t g then s else s.admitGang t g d c
    | none =>
      if s.halted ∨ !(s.dieAt d).ok ∨ (s.dieAt d).withdrawn ∨ s.cut.st = 3 then s
      else
        match s.scanLacks d with
        | none => s
        | some (t, k) =>
          let used := s.usedUnits d
          let u := s.dieSet d 0x021 ((s.dieGet d 0x021 + 1) &&& 0xFFFFFFFF)
          let u := if bit (s.dieGet d 0x020) 0 then u.notice t.ctx { eventRec 0x10 (dw k.budget) with die := d, task := t.handle } else u
          { u with transReqs := u.transReqs ++
              [{ die := d, handle := t.launch.handle, key := k, unit := (List.range 4096).find? fun n => !used.contains n, waiters := [] }] })
/-- Event (R436): the gang of the saved workgroup `g` is the one that its die's scan admits. -/
def execContextRestore (g : Nat) (s : State) : Outcome :=
  .next ((List.range 8).foldl (fun s d =>
    match s.admissible d with
    | some (t, n, c) =>
      if (s.wgAt g).st = .saved ∧ (s.wgAt g).task = t.handle ∧ (s.wgAt g).gangNum t = n then s.admitGang t n d c else s
    | none => s) s)

/-- Event (R383). -/
def execPlacementStalled (t : Nat) (s : State) : Outcome :=
  let x := s.tasks.getD t default
  let waits := (List.range 8).filter fun d => (s.waitingGang x d).isSome
  let late := waits.filter fun d => s.dieGet d 0x030 != 0 && decide (x.sinceAdmit + (s.dieGet d 0x030).toNat * 65536 < s.cycle)
  .next (if s.tasks.length ≤ t ∨ x.stallSent ∨ (x.st ≠ .ready ∧ x.st ≠ .running) then s
    else
      match late.head? with
      | none => s
      | some d =>
        (s.updTask x.handle fun t => { t with stallSent := true }).notice x.ctx { eventRec 0x18 0 with die := d, task := x.handle })

/-! ## Pre-emption (R386) -/

/-- PRIO of the resident workgroups of a run. -/
def State.runPrios (s : State) (t : Task) (d start : Nat) : List (Task × Nat) :=
  let cores := (List.range t.launch.gang).map fun r => (start + r) % 80
  ((List.range s.wgs.length).filter fun i =>
    (s.wgAt i).die == d && (s.wgAt i).st == .resident && cores.contains (s.wgAt i).core).filterMap fun i =>
      (s.taskOf (s.wgAt i).task).map fun x => (x, i)

/-- The run whose greatest resident PRIO is lowest, ties to the lower start core. -/
def State.victimRun (s : State) (t : Task) (g d : Nat) : Option Nat :=
  let runs := (List.range 80).filter fun c => (s.runsFor t g d).contains c && !(s.runPrios t d c).isEmpty
  let top := fun c => (s.runPrios t d c).foldl (fun m p => max m p.1.prio.toNat) 0
  runs.foldl (fun best c =>
    match best with
    | none => some c
    | some b => if top c < top b then some c else some b) none
/-- The task of lowest PRIO in it, ties to the highest sequence number. -/
def victimTask (ps : List (Task × Nat)) : Option Task :=
  (ps.map Prod.fst).foldl (fun best t =>
    match best with
    | none => some t
    | some b => if t.prio < b.prio ∨ (t.prio = b.prio ∧ b.seq < t.seq) then some t else some b) none

inductive Preempt where
  | none | drain | checkpoint | kill
  deriving DecidableEq, Repr, Inhabited

/-- The action (R386). -/
def State.preemptAction (s : State) (d : Nat) (n v : Task) : Preempt :=
  if n.prio.toNat < v.prio.toNat + (s.dieGet d 0x031).toNat then .none
  else if v.launch.mayDrain ∧ v.estim ≤ s.dieGet d 0x032 then .drain
  else if v.launch.mayCkpt ∧ s.dieGet d 0x033 ≤ v.estim then .checkpoint
  else if v.launch.mayKill then .kill
  else if v.launch.mayCkpt then .checkpoint
  else if v.launch.mayDrain then .drain
  else .none

/-- Kills whose gangs stand still are finished, and aborted tasks with nothing left on a core end (R386, R427). -/
def State.finishKills (s : State) : State :=
  let s := (List.range s.wgs.length).foldl (fun s i =>
    if (s.wgAt i).st = .killing ∧ s.gangStill i then s.killGang i (s.taskOfWg i).aborted.isNone else s) s
  (s.tasks.filter fun t => t.aborted.isSome).foldl (fun s t =>
    if s.wgs.any fun g => g.task == t.handle && (g.st == .killing || g.st == .resident || g.st == .saving) then s
    else
      match t.aborted with
      | some r => (s.dropTaskState t.handle).taskFaultEnd t.handle r
      | none => s) s

/-- The first waiting gang of a task that no run of the die can admit, for want of resources and not because of the heat test. -/
def State.starvedGang (s : State) (t : Task) (d : Nat) : Option Nat :=
  match s.waitingGang t d with
  | none => none
  | some g =>
    let runs := s.runsFor t g d
    if t.st != .ready || runs.any (fun c => (s.admitRun t g d c true true).isSome) ||
        !(runs.any fun c => (s.admitRun t g d c false true).isSome) then none
    else some g

/-- Event (R386): the decision of die `d` for the task at index `t`. -/
def execPreemptDecide (d t : Nat) (s : State) : Outcome :=
  let s := s.finishKills
  let n := s.tasks.getD t default
  .next (if s.tasks.length ≤ t ∨ n.aborted.isSome ∨ (s.dieAt d).preemptAt = s.cycle + 1 ∨
      s.tasks.any (fun x => x.drainOn.any fun e => e.1 == n.handle) ∨
      s.wgs.any (fun g => g.die == d && (g.st == .saving || g.st == .killing)) then s
    else
      match s.starvedGang n d with
      | none => s
      | some g =>
        match s.victimRun n g d with
        | none => s
        | some c =>
          match victimTask (s.runPrios n d c) with
          | none => s
          | some v =>
            let cores := (List.range n.launch.gang).map fun r => (c + r) % 80
            let hit := ((s.runPrios n d c).filter fun p => p.1.handle == v.handle).map Prod.snd
            let made := s.setDie d fun x => { x with preemptAt := s.cycle + 1 }
            match s.preemptAction d n v with
            | .none => s
            | .drain => made.updTask v.handle fun v => { v with drainOn := v.drainOn ++ cores.map fun k => (n.handle, globalCore d k) }
            | .checkpoint =>
              if hit.any fun i => (s.gangOf i).any fun x => !x.plan.isEmpty then s else hit.foldl (fun s i => s.stopGang i .saving) made
            | .kill => (hit.foldl (fun s i => s.stopGang i .killing) made).finishKills)

/-- Event (R384): the samples, in 1/16 degC, and the bands that follow them. -/
def execVaultTempSample (d : Nat) (temps : List Nat) (s : State) : Outcome :=
  let ts := (List.range 32).map fun v => temps.getD v 0 % 2 ^ 16
  let s := (List.range 32).foldl (fun s v => s.dieSet d (0x080 + v) (dw (ts.getD v 0))) s
  .next (s.setDie d fun x => { x with bands := (List.range 32).map fun v => nextBand (ts.getD v 0) (x.bands.getD v 0) })

/-- Event (R388): a cluster that has held no wave for IDLEG cycles is gated. -/
def execClusterGate (d c : Nat) (s : State) : Outcome :=
  let x := s.dieAt d
  .next (if 20 ≤ c ∨ x.gated.contains c ∨ (s.wgsOn d).any (fun g => g.core / 4 == c) ∨
      s.cycle < x.idle.getD c 0 + (s.dieGet d 0x034).toNat then s
    else s.setDie d fun x => { x with gated := x.gated ++ [c], gateAt := (c, s.cycle) :: x.gateAt.filter fun e => e.1 != c })

/-! ## The instructions (R391) -/

/-- The order of a table transaction (R392): after every earlier access, before every later one. -/
def State.tableTx (s : State) (eff : State → State) : State :=
  if !s.settled then s.stall else eff (s.l1Acquire s.gcore)
/-- A cause raised in the table: late, with Active as the primary mask, and no effect: no result is written (R240). -/
def State.tableFault (s : State) (tag : Nat) : State := s.done.lateFault (causeT 0x26 tag) s.active 0 0

def execTasknew (rec : Opnd) (s : State) : Outcome :=
  let a := s.uniNat tyA64 rec
  let acc := s.accOf s.wv .global true false
  .next (if a % 128 ≠ 0 then s.fault (cause 0x23) s.active 0 a
    else
      match s.xlate acc a with
      | .error c => s.fault c s.active 0 a
      | .ok p => s.tableTx fun t =>
        let ask := [p.askLine engMod]
        if eFab p.leaf && !t.fabReady t.wv.token t.issue.loc ask then t.fabAskAll t.wv.die t.wv.token t.issue.loc ask
        else
          let late := if eFab p.leaf then t.fabCause t.wv.token t.issue.loc (p.askLine engMod) else if t.uncorr p.key then 0x80 else 0
          let v := t.touch acc a p
          let bs := if eFab p.leaf then t.fabBytes t.wv.token t.issue.loc (p.askLine engMod) 0 128 else v.globalRead 6 p.key 128 .global
          let t := v.fabDrop t.wv.token t.issue.loc
          if late ≠ 0 then t.done.lateFaultAt p.home (cause late) t.active 0 a
          else if !t.launchOk bs then t.tableFault 11
          else
            let r := Launch.ofBytes bs
            match t.newTask t.wv.die t.ctx (if r.prio ≤ t.task.pceil then r.prio else t.task.pceil) false bs with
            | none => t.put fun _ => 0
            | some (h, u) => u.put fun _ => h.setWidth 256)

/-- A task that may still be changed: HELD or ARMED. -/
def State.openTask (s : State) (h : Dword) : Bool := (s.taskOf h).any fun t => t.st == .held || t.st == .armed

def execTaskdep (pred succ : Opnd) (s : State) : Outcome :=
  let p : Dword := (s.uni tyN64 pred).setWidth 64
  let x : Dword := (s.uni tyN64 succ).setWidth 64
  .next (s.tableTx fun t =>
    if !t.openTask x then t.tableFault 12
    else
      match t.taskOf p with
      | none => t.done
      | some q => if q.st = .done then t.done else if 64 ≤ q.succs.length then t.tableFault 14 else (t.addEdge p x).done)

def execTaskarm (t n : Opnd) (s : State) : Outcome :=
  let h : Dword := (s.uni tyN64 t).setWidth 64
  let k : Word := (s.uni tyN32 n).setWidth 32
  .next (s.tableTx fun u =>
    match u.taskOf h with
    | none => u.tableFault 12
    | some x =>
      if !u.openTask h then u.tableFault 12
      else if x.count < k then u.tableFault 13
      else (u.arm h k).done)

def execTaskid (s : State) : Outcome := .next (s.put fun _ => s.wg.task.setWidth 256)
def execGangid (code : BitVec 30) (s : State) : Outcome :=
  let n := max 1 s.task.launch.gang
  .next (s.put fun _ => BitVec.ofNat 256 (if code = 0 then s.wg.num / n else if code = 1 then s.wg.num % n else n))
def execPrio (set : Bool) (p : Opnd) (s : State) : Outcome :=
  let v : Word := (s.uni tyN32 p).setWidth 32
  let old := s.task.prio
  .next ((if set then s.updTask s.wg.task fun t => { t with prio := if v ≤ t.pceil then v else t.pceil } else s).put fun _ => old.setWidth 256)
def execEstim (e : Opnd) (s : State) : Outcome :=
  let v : Dword := (s.uni tyN64 e).setWidth 64
  .next (s.updTask s.wg.task fun t => { t with estim := v }).done

end Sys2Proof.Machine
end

