-- ==== Sys2Proof/Machine/Determ.lean ====
section
/-! DEFINITION. The instructions of determinism (15_determinism.md R408-R413): dmerge (its fold is in Machine/Merge.lean), dcount, dmode,
dseq. -/
namespace Sys2Proof.Machine

/-- R410: the lanes park once every earlier access has performed; the fold is the event GANG_FOLD. -/
def execDmerge (s : State) : Outcome :=
  .next (if !s.merged then s.done
    else if !s.settled then s.stall
    else (s.l1Acquire s.gcore).park s.active fun _ => .dmerge)

/-- R411. -/
def execDcount (code : BitVec 30) (s : State) : Outcome :=
  let n :=
    if code = 3 then s.poolLines s.wv.die - s.poolUsed s.wv.die
    else if !s.merged then 0
    else if code = 0 then (shadowLines s.wg.wset).length
    else if code = 1 then ((s.gangOf s.wv.wg).map Gang.folds).getD 0
    else (s.wg.reds.map Reduction.lanes).foldl (· + ·) 0
  .next (s.put fun _ => BitVec.ofNat 256 (n % 2 ^ 32))

/-- R412. -/
def execDmode (s : State) : Outcome :=
  let pos := if s.ordered then s.wv.num % 256 else 0
  let nw := if s.ordered then s.task.launch.nwave % 64 else 0
  .next (s.put fun _ => BitVec.ofNat 256 (pos * 2 ^ 8 + nw * 2 ^ 2 + s.dmode))

/-- INIT: the waiting parts of a region fail, and the region starts again. -/
def State.seqInit (s : State) (d r : Nat) : State :=
  let out := s.parts.filter fun p => p.die == d && p.region == r
  let t := out.foldl (fun t p => t.partFails p) { s with parts := s.parts.filter fun p => !(p.die == d && p.region == r) }
  let t := t.setSeq { die := d, region := r, next := 0, exp := List.replicate 32 0, failed := false }
  (out.map SeqPart.cmd).eraseDups.foldl (fun t i => t.partsDone i) t

/-- R413: one transaction on the region, at its die. -/
def execDseq (init : Bool) (die region n : Opnd) (s : State) : Outcome :=
  let d := s.uniNat tyN32 die % 2 ^ 32
  let r := s.uniNat tyN32 region % 2 ^ 32
  let k := s.uniNat tyN32 n % 2 ^ 32
  .next (if !s.settled && !s.merged then s.stall
    else
      let t := s.l1Acquire s.gcore
      if 7 < d ∨ 4095 < r ∨ k = 0 ∨ 65536 < k then t.tableFault 15
      else
        let t := if init then t.seqInit d r else t
        let x := t.seqRegion d r
        (t.setSeq { x with next := x.next + w32 k }).put fun _ => x.next.setWidth 256)

end Sys2Proof.Machine
end

