-- ==== Sys2Proof/Machine/System.lean ====
section
/-! DEFINITION. System and trap instructions (16_traps_preemption.md R439-R447), reads and writes of the system registers with what
they start (R243, R299, R347, R417, R418, R441), WCTL (R427), cuts (R437, R438) and the drain of a notice ring (R425). -/
namespace Sys2Proof.Machine

/-! ## Reading a system register (R417, R441) -/

/-- The RC registers: NRLOST, TFLOST, TMISSCNT, RETRCNT. -/
def sysCodeRC (c : Nat) : Bool := c == 0x015 || c == 0x01D || c == 0x021 || c == 0x022

/-- The value that a reader on a die and in a context sees. -/
def State.sysRead (s : State) (d ctx c : Nat) : Dword :=
  if c = 0x003 then dw (ctx % 64)
  else if c = 0x028 then dw (s.cut.kcut % 2 ^ 16 * 2 ^ 48 + s.cut.st % 16 * 2 ^ 16)
  else s.sysGet (sysCopy d ctx c) c

/-- A read of an RC register clears it. -/
def State.sysClear (s : State) (d ctx c : Nat) : State :=
  if sysCodeRC c then s.sysSet (sysCopy d ctx c) c 0 else s

def execSysrd (code : BitVec 30) (s : State) : Outcome :=
  let c := code.toNat
  let v := s.sysRead s.wv.die s.ctx c
  .next ((s.sysClear s.wv.die s.ctx c).put fun _ => v.setWidth 256)

def execNrlostRead (ctx : Nat) (s : State) : Outcome := .next (s.sysClear 0 ctx 0x015)
def execTflostRead (ctx : Nat) (s : State) : Outcome := .next (s.sysClear 0 ctx 0x01D)
def execTmisscntRead (d : Nat) (s : State) : Outcome := .next (s.sysClear d 0 0x021)
def execRetrcntRead (d : Nat) (s : State) : Outcome := .next (s.sysClear d 0 0x022)

/-! ## Inbound grants and reduction windows (R243, R299) -/

/-- A write that sets EN of a grant is ignored when the range reaches the reservation or passes 160 GiB. -/
def State.fgcRefused (s : State) (d n : Nat) (v : Dword) : Bool :=
  decide (Config.reservation < bits (s.dieGet d (0x0A0 + n)) 16 22 * 65536 + (bits v 0 22 + 1) * 65536)

def State.fgcSet (s : State) (d n : Nat) (v : Dword) : State :=
  let old := s.dieGet d (0x0B0 + n)
  let v := v &&& sysMask 0x0B0
  if bit v 63 && !bit old 63 then
    if s.fgcRefused d n v then s
    else { s with grants := s.grants ++ [(d, n, s.dieGet d (0x0A0 + n), v)] }.dieSet d (0x0B0 + n) v
  else if !bit v 63 then { s with grants := s.grants.filter fun g => !(g.1 == d && g.2.1 == n) }.dieSet d (0x0B0 + n) v
  else s.dieSet d (0x0B0 + n) v
def execFgcWrite (d n : Nat) (v : Dword) (s : State) : Outcome := .next (if d < 8 ∧ n < 16 then s.fgcSet d n v else s)

/-- OP and TYPE are a pairing that red or redf accepts (R291, R299). -/
def winPair (ctl : Dword) : Bool :=
  match Ty.ofCode (bits ctl 6 6) with
  | some (.num sh e) =>
    if sh = .s1 ∧ (e = .n32 ∨ e = .i32 ∨ e = .n64 ∨ e = .i64) then decide (bits ctl 0 3 ≤ 5)
    else if sh = .s1 ∧ (e = .f32 ∨ e = .f64) then decide (bits ctl 0 3 ≤ 2)
    else decide (sh = .s2 ∧ (e = .f16 ∨ e = .bf16) ∧ bits ctl 0 3 = 0)
  | _ => false

/-- A write that sets EN of a window is ignored under these conditions. -/
def State.rdwcRefused (s : State) (n : Nat) (v : Dword) : Bool :=
  let b := s.sysGet 0 (0x048 + n)
  let lg := bits b 0 6
  decide (lg < 16) || decide (36 < lg) || winBase b % winSize b != 0 || decide (bits v 48 8 < 2) || !winPair v ||
  s.windows.any fun w => w.1 != n && winBase b < winBase w.2.1 + winSize w.2.1 && winBase w.2.1 < winBase b + winSize b

def State.rdwcSet (s : State) (n : Nat) (v : Dword) : State :=
  let old := s.sysGet 0 (0x050 + n)
  let part := bit old 62 && !bit v 62
  let w := setBits (v &&& sysMask 0x050) 62 1 (bitOf part)
  if bit v 63 && !bit old 63 then
    if s.rdwcRefused n v then s
    else { s with windows := s.windows ++ [(n, s.sysGet 0 (0x048 + n), v &&& sysMask 0x050)] }.sysSet 0 (0x050 + n) w
  else if !bit v 63 then { s with windows := s.windows.filter fun x => x.1 != n, heard := s.heard.filter fun h => h.1 != n, contrib := updAt s.contrib n fun _ => 0 }.sysSet 0 (0x050 + n) w
  else s.sysSet 0 (0x050 + n) w
def execRdwcWrite (n : Nat) (v : Dword) (s : State) : Outcome := .next (if n < 8 then s.rdwcSet n v else s)

/-! ## WCTL (R427) -/

/-- The wave that WSEL of a context names. -/
def State.wselWave (s : State) (ctx : Nat) : Option Nat :=
  (s.waveOf (s.ctxGet ctx 0x019)).filter fun i => (s.taskOfWg (s.waveAt i).wg).ctx == ctx

/-- A field of the state block of a saved wave changes where it lies (R432). -/
def State.blockMap (s : State) (i off n : Nat) (f : Nat → Nat) : State :=
  let w := s.waveAt i
  match w.wbp.bind fun b => s.ctxRead (s.taskOfWg w.wg).ctx (b.toNat + stateBlockOff + off) n with
  | some bs => s.blockPut i off (bytesOfNat n (f (natAt bs 0 n)))
  | none => s
/-- The wave's state is in its register space: a restore reads it from there (R436). -/
def State.savedWave (s : State) (i : Nat) : Bool := (s.wgAt (s.waveAt i).wg).st == .saved

/-- CSIG is set in a wave that is in its continuation (R430, R442), in its state block when it is saved. -/
def State.signalWave (s : State) (i : Nat) : State :=
  if !(s.waveAt i).incont then s
  else
    let t := s.updWave i fun w => { w with csig := true }
    if s.savedWave i then t.blockMap i 0x294 4 fun n => if n.testBit 2 then n else n + 4 else t.contTest i

/-- The lane states of a state block with every stopped lane running. -/
def runStopped (n : Nat) : Nat := (List.range 32).foldl (fun r L => if n / 4 ^ L % 4 = 3 then r - 3 * 4 ^ L else r) n
/-- A faulted wave resumes with its saved state, as a restore does (R436); one whose workgroup is saved resumes when it is restored. The first wave
of a workgroup reads its argument block again (R375). One whose save is still to come is not FAULTED yet. -/
def State.wctlResume (s : State) (i : Nat) : State :=
  let w := s.waveAt i
  if w.unsaved then s
  else if w.faulted then
    let s := if w.num = 0 then s.updWg w.wg fun g => { g with argsDue := g.argsDue.map fun _ => (0, 0) } else s
    if s.savedWave i then
      ((s.resumeWave i).blockMap i 0x294 4 fun n => if n.testBit 3 then n - 8 else n).blockMap i 0x2F8 8 runStopped
    else
      let t := ((s.loadBlock i).resumeWave i).updWave i fun w => w.mapLanes fun _ l => l.reissue
      (t.contTest i).l1Acquire (globalCore w.die w.core)
  else s.signalWave i

/-- The record of an abort: the wave's fault record, or one that names only the wave. -/
def State.abortRec (s : State) (i : Nat) : FaultRec :=
  let w := s.waveAt i
  w.frec.getD { eventRec 0 0 with event := false, die := w.die, wave := w.token, task := (s.wgAt w.wg).task }

/-- A saved workgroup of an aborted task gives up what it holds. -/
def State.endSaved (s : State) (wi : Nat) : State :=
  ((s.dropCommands wi).freeWaves wi).updWg wi fun g => { g.cleared with st := .ended, spimg := none, argsDue := none }

/-- ABORT: every workgroup of the task is killed, and the task ends under R428 when none is left. -/
def State.abortTask (s : State) (h : Dword) (r : FaultRec) : State :=
  let s := s.updTask h fun t => if t.aborted.isSome then t else { t with aborted := some r }
  let mine := (List.range s.wgs.length).filter fun i => (s.wgAt i).task == h
  let s := mine.foldl (fun s i => s.stopGang i .killing) s
  (mine.foldl (fun s i => if (s.wgAt i).st = .saved ∨ (s.wgAt i).st = .restart then s.endSaved i else s) s).finishKills

def State.wctl (s : State) (ctx act : Nat) : State :=
  match s.wselWave ctx with
  | none => s
  | some i =>
    if act = 0 then s.wctlResume i
    else if act = 1 then s.signalWave i
    else if act = 2 then s.abortTask (s.wgAt (s.waveAt i).wg).task (s.abortRec i)
    else s

def execWctlResume (ctx : Nat) (s : State) : Outcome := .next (s.wctl ctx 0)
def execWctlSignal (ctx : Nat) (s : State) : Outcome := .next (s.wctl ctx 1)
def execWctlAbort (ctx : Nat) (s : State) : Outcome := .next (s.wctl ctx 2)

/-! ## Cuts (R437, R438) -/

/-- CUT of a quiet bundle (R81, R120). -/
def State.cutNumber (s : State) (w : Wave) (l : Loc) : Option Nat :=
  (s.bundleAt w l).bind fun b => if b.quiet then some b.cut else none

/-- The cut covers a wave: not of the task that asked, nor of a handler task. -/
def State.cutCovers (s : State) (i : Nat) : Bool :=
  let t := s.taskOfWg (s.waveAt i).wg
  s.resident i && !t.handler && !(s.cut.task != 0 && t.handle == s.cut.task)
/-- The wave has a lane to issue for. -/
def Wave.runs (w : Wave) : Bool := !w.faulted && w.lanes.any fun l => l.st == .running
/-- The quiet place at which a group of the wave stands. -/
def State.quietAt (s : State) (i : Nat) : Option Nat :=
  ((s.waveAt i).groups.filterMap fun g => s.cutNumber (s.waveAt i) g.1).max?

/-- The wave issues nothing because of the cut. -/
def State.cutHolds (s : State) (i : Nat) : Bool :=
  if !s.cutCovers i then false
  else if s.cut.st = 1 then (s.waveAt i).cutAt.isSome || (s.quietAt i).isSome
  else if s.cut.st = 2 then (s.waveAt i).cutStop || (s.quietAt i).any fun c => s.cut.kcut ≤ c
  else s.cut.st == 3

def State.coveredWaves (s : State) : List Nat := (List.range s.waves.length).filter s.cutCovers

/-- Every wave goes on. -/
def State.cutFree (s : State) : State :=
  { s with waves := s.waves.map fun w => { w with cutAt := none, cutStop := false } }

def State.cutAsk (s : State) (task : Dword) (ctx : Nat) : State :=
  if s.cut.st ≠ 0 then s else { s with cut := { st := 1, kcut := s.cut.kcut, since := s.cycle, task := task, ctx := ctx } }

/-- Event 0x1B: a ckpt operation ends (R426, R443). -/
def State.ckptEnd (s : State) (status : Nat) : State :=
  let c := s.ckpt
  { s with ckpt := { (default : CkptSt) with opnum := c.opnum } }.notice c.ctx (eventRec 0x1B (dw (c.opnum % 2 ^ 32 + status * 2 ^ 32)))
/-- Event 0x1A: a cut ends. -/
def State.cutNotice (s : State) (failed : Bool) : State :=
  s.notice s.cut.ctx (eventRec 0x1A (dw (s.cut.kcut + bitOf failed * 2 ^ 16)))

def State.cutLetGo (s : State) : State :=
  if s.cut.st ≠ 3 then s
  else
    let s := { s with cut := { s.cut with st := 0 } }.cutFree
    if s.ckpt.active ∧ s.ckpt.mode = 1 then s.ckptEnd 0 else s

def execCutRequest (s : State) : Outcome := .next (s.cutAsk 0 s.hwctx)
def execCutRelease (s : State) : Outcome := .next s.cutLetGo

/-- All reports are in: KCUT, and the stop of the waves that paused at it. -/
def State.cutReduce (s : State) : State :=
  if s.coveredWaves.all fun i => !(s.waveAt i).runs || (s.waveAt i).cutAt.isSome then
    let k := (s.coveredWaves.filterMap fun i => (s.waveAt i).cutAt).foldl max 0
    { s with cut := { s.cut with st := 2, kcut := k }, waves := s.waves.map fun w => { w with cutAt := none } }
  else s

/-- Event: a wave pauses at the quiet bundle that it would issue, and reports. -/
def execCutReport (w : Nat) (s : State) : Outcome :=
  .next (if s.cut.st ≠ 1 then s
    else
      (if s.cutCovers w && (s.waveAt w).runs then s.updWave w fun v => { v with cutAt := v.cutAt.or (s.quietAt w) } else s).cutReduce)

/-- Every covered wave has stopped and its accesses have performed: what is due to each is delivered, and their workgroups are saved in place (R274). -/
def State.cutHold (s : State) : State :=
  if s.coveredWaves.all fun i => (!(s.waveAt i).runs || (s.waveAt i).cutStop) && s.waveQuiet i then
    let s := s.coveredWaves.foldl State.deliverDue s
    let ws := (s.coveredWaves.map fun i => (s.waveAt i).wg).eraseDups
    let s := ws.foldl (fun s g => s.saveInPlace g) s
    { s with cut := { s.cut with st := 3 } }.cutNotice false
  else s

/-- Event: a wave that stands at a quiet bundle with CUT at or above KCUT drains and stops. -/
def execCutStop (w : Nat) (s : State) : Outcome :=
  .next (if s.cut.st ≠ 2 then s
    else if s.cutCovers w && (s.waveAt w).runs && !(s.waveAt w).cutStop && ((s.quietAt w).any fun c => s.cut.kcut ≤ c) then
      if !s.waveQuiet w then s
      else
        let s := s.deliverDue w
        (if (s.waveAt w).faulted then s else s.updWave w fun v => { v with cutStop := true }).cutHold
    else s.cutHold)

/-- Event: the cut limit of CUTTMO x 65,536 cycles passes in state 1 or 2; state 4 then gives way to 0. -/
def execCutTimeout (s : State) : Outcome :=
  let lim := bits (s.sysGet 0 0x029) 0 16 * 65536
  .next (if s.cut.st = 4 then { s with cut := { s.cut with st := 0 } }
    else if (s.cut.st = 1 ∨ s.cut.st = 2) ∧ lim ≠ 0 ∧ s.cut.since + lim ≤ s.cycle then
      let s := ({ s with cut := { s.cut with st := 4 } }.cutFree).cutNotice true
      if s.ckpt.active ∧ s.ckpt.mode ≤ 1 then s.ckptEnd 4 else s
    else s)

/-! ## Writing a system register (R417, R418, R441) -/

def State.queueLoad (s : State) (v : Dword) (ctx : Nat) : State :=
  let a := s.sysGet 0 0x009
  let r := if bit v 1 then LoadReq.unload a.toNat else LoadReq.load (!bit v 0) a (s.sysGet 0 0x00A).toNat ctx
  { s with loads := s.loads ++ [r] }

/-- A write by a writer on a die and in a context; `actx` is the context in which what the write starts acts. -/
def State.sysWrite (s : State) (d ctx actx c : Nat) (v : Dword) : State :=
  if c = 0x00B then s.queueLoad v actx
  else if c = 0x01A then s.wctl ctx (bits v 0 2)
  else if c = 0x028 then
    if s.cut.st = 3 ∧ bit v 1 then s.cutLetGo else if bit v 0 then s.cutAsk 0 actx else s
  else if 0x050 ≤ c ∧ c ≤ 0x057 then s.rdwcSet (c - 0x050) v
  else if 0x070 ≤ c ∧ c ≤ 0x07F then
    if bit v 63 then s.caEnable (c - 0x070) actx v else s.caDisable (c - 0x070) v
  else if 0x0B0 ≤ c ∧ c ≤ 0x0BF then s.fgcSet d (c - 0x0B0) v
  else if sysMask c = 0 then s
  else s.sysSet (sysCopy d ctx c) c (v &&& sysMask c)

/-- R441. -/
def execSyswr (code : BitVec 30) (v : Opnd) (s : State) : Outcome :=
  let x : Dword := (s.uni tyN64 v).setWidth 64
  .next (if !s.quiet then s.stall
    else ((s.sysWrite s.wv.die s.ctx s.ctx code.toNat x).l1Acquire s.gcore).done)

/-- R485: a write through the management window, by register copy (R456). -/
def execSysregWrite (copy code : Nat) (v : Dword) (s : State) : Outcome :=
  let d := copy - 1
  let ctx := copy - 9
  .next (if (s.dieAt 0).ok ∧ copy ≤ 72 ∧ sysCodeListed code ∧ code ≠ 0x003 ∧ copy = sysCopy d ctx code then s.sysWrite d ctx s.hwctx code v else s)

/-! ## Traps (R440) -/

def execTrap (code : Opnd) (s : State) : Outcome :=
  .next (s.faultAll { code := 0x60, tag := dw (s.uniNat tyN32 code % 2 ^ 32) })
def execBrk (id : BitVec 30) (s : State) : Outcome :=
  .next (if bit (s.ctxGet s.ctx 0x01B) 0 then s.faultAll { code := 0x61, tag := id.setWidth 64 } else s.done)
def execAssert (c code : Opnd) (s : State) : Outcome :=
  let m := maskOf fun L => inMask s.active L && elemAt (s.opnd tyB1 c L) 1 0 == 0
  .next (if m ≠ 0 then s.fault { code := 0x62, tag := dw (s.uniNat tyN32 code % 2 ^ 32) } m 0 0 else s.done)

/-! ## Continuations (R429, R430, R442) -/

def execContset (fn arg : Opnd) (s : State) : Outcome :=
  let f : Dword := (s.uni tyA64 fn).setWidth 64
  let a : Dword := (s.uni tyN64 arg).setWidth 64
  .next (s.done.updWv fun w => { w with contfn := f, contarg := a })
def execContret (s : State) : Outcome := .next s.contReturn
/-- A write with ORD 2 at scope 6. -/
def execContsig (tok : Opnd) (s : State) : Outcome :=
  let k : Dword := (s.uni tyN64 tok).setWidth 64
  .next (if !s.settled then s.stall
    else
      match s.waveOf k with
      | some i => if (s.taskOfWg (s.waveAt i).wg).ctx = s.ctx then (s.done).signalWave i else s.done
      | none => s.done)

/-! ## ckpt (R443) -/

def State.nextOp (s : State) : Nat := if (s.opnum + 1) % 2 ^ 32 = 0 then 1 else (s.opnum + 1) % 2 ^ 32

/-- The capture descriptor (R449): AREA, AREALEN, BASE and SPLIT, when it is well formed. -/
def State.captureDesc (s : State) (ctx a : Nat) : Option (Nat × Nat × Nat × Nat) :=
  match s.ctxRead ctx a 64 with
  | none => none
  | some bs =>
    let area := natAt bs 0 8
    let len := natAt bs 8 8
    if area % 65536 ≠ 0 ∨ len % 65536 ≠ 0 ∨ len < 516 * 2 ^ 20 ∨ 3 < natAt bs 24 1 ∨ natAt bs 25 39 ≠ 0 then none
    else some (area, len, natAt bs 16 8, natAt bs 24 1)

/-- A ckpt operation begins: mode 0 reads its descriptor, and modes 0 and 1 make a cut. -/
def State.ckptBegin (s : State) (h : Dword) : State :=
  let k := s.ckpt
  if k.mode = 0 then
    match s.captureDesc k.ctx k.desc.toNat with
    | none => s.ckptEnd 0x0B
    | some (area, len, base, split) =>
      { s with ckpt := { k with area := area, areaLen := len, base := base, split := split } }.cutAsk h k.ctx
  else if k.mode = 1 then s.cutAsk h k.ctx else s

def execCkpt (mode : BitVec 30) (desc : Opnd) (s : State) : Outcome :=
  let a : Dword := (s.uni tyA64 desc).setWidth 64
  .next (if !s.settled then s.stall
    else
      match s.deliverPend with
      | some t => t
      | none =>
        if a.toNat % 64 ≠ 0 then s.fault (cause 0x23) s.active 0 a.toNat
        else
          let t := s.l1Acquire s.gcore
          if t.cut.st ≠ 0 ∨ t.ckpt.active then t.put fun _ => 0
          else
            let n := t.nextOp
            let h := t.wg.task
            let k : CkptSt :=
              { (default : CkptSt) with active := true, mode := mode.toNat, opnum := n, desc := a, ctx := t.ctx, task := h }
            let u := { t with opnum := n, ckpt := k }
            (u.ckptBegin h).put fun _ => BitVec.ofNat 256 n)

/-! ## tlbinv, tcinv, evtsig, halt (R444-R447) -/

/-- A write, or a request to another device, issued before number `n` is on its way: it used the translation of its time. -/
def State.usesBefore (s : State) (n : Nat) : Bool :=
  s.msgs.any (fun m => decide (m.id < n)) || s.held.any (fun h => decide (h.id < n)) ||
  s.fabReqs.any fun r => decide (r.msg.tid.toNat < n) && r.reply.isNone && r.cause == 0

/-- It waits as drain does, drops the entries, and completes when every access issued before has performed (R444). -/
def execTlbinv (kind : BitVec 30) (va : Opnd) (s : State) : Outcome :=
  let a := s.uniNat tyA64 va
  let ctx := s.ctx
  let hit := fun (t : TlbEnt) =>
    kind == 2 || (t.ctx == ctx && (kind == 1 || t.va == a / 2 ^ t.lg * 2 ^ t.lg))
  let wait := s.updWv fun w => { w with tlbAfter := some (s.nextId, s.issue.here) }
  .next (match s.wv.tlbAfter with
    | some b =>
      if b.2 = s.issue.here ∧ !s.usesBefore b.1 then (s.updWv fun w => { w with tlbAfter := none }).done else s.stall
    | none =>
      if !s.quiet then s.stall
      else
        let t : State := { wait with tlb := s.tlb.filter fun t => !hit t }
        if s.usesBefore s.nextId then t else (t.updWv fun w => { w with tlbAfter := none }).done)

/-- The resident waves whose program counter lies inside an image (R127, R128). -/
def State.inside (s : State) (i : TransImage) : List Nat :=
  (List.range s.waves.length).filter fun n =>
    let w := s.waveAt n
    s.resident n && w.die == i.die &&
    w.lanes.any fun l => l.st != .exited && s.locKey w l.pc == i.key && (s.locImage w l.pc).any fun x => x.unit == i.unit
def State.pinned (s : State) (i : TransImage) : Bool := !(s.inside i).isEmpty
/-- A pinned image is marked stale, and keeps running for the waves inside it (R445). -/
def State.markStale (s : State) (i : TransImage) : TransImage :=
  if i.stale then i else { i with stale := true, users := (s.inside i).map fun n => (s.waveAt n).token }

def execTcinv (h f : Opnd) (s : State) : Outcome :=
  let hn := s.uniNat tyN32 h % 2 ^ 32
  let fn := s.uniNat tyN32 f % 2 ^ 32
  .next (match s.moduleOf hn with
    | none => s.done
    | some m =>
      let hit := fun (i : TransImage) => i.key.modkey == m.key && (fn == 0xFFFFFFFF || i.key.func == fn)
      ({ s with images := s.images.filterMap fun i =>
          if !hit i then some i else if s.pinned i then some (s.markStale i) else none } : State).done)

def execEvtsig (code : Opnd) (s : State) : Outcome :=
  let k := s.uniNat tyN32 code % 2 ^ 32
  .next (if !s.settled then s.stall
    else
      let r := { eventRec 0x01 (dw k) with die := s.wv.die, wave := s.wv.token, task := s.wg.task }
      (s.notice s.ctx r).done)

def execHalt (s : State) : Outcome := .next { s.done with halted := true }
/-- Event (R485): RESUME is written 1. -/
def execHaltResume (s : State) : Outcome := .next (if (s.dieAt 0).ok then { s with halted := false } else s)

/-! ## The notice ring (R425) -/

/-- Event: a waiting fault record of the context is written as space frees. -/
def execNoticeRingDrain (ctx : Nat) (s : State) : Outcome :=
  .next (match s.notices.find? fun n => n.1 == ctx with
    | none => s
    | some n =>
      if s.ringSize ctx = 0 ∨ s.ringFull ctx then s
      else ({ s with notices := s.notices.erase n } : State).ringPush ctx n.2)

end Sys2Proof.Machine
end

