-- ==== Sys2Proof/Machine/Image.lean ====
section
/-! DEFINITION. The tables of the device as bytes: the control image (17_checkpoint.md R456) and the translation-cache directory
(03_tvedah_native.md R128), as a capture stores them and the management window shows them. -/
namespace Sys2Proof.Machine

/-- Codes that hold 0 in the control image: write-only, reserved, CTX (a wave's own) and CUTCTL (R456). -/
def sysCodeShown (c : Nat) : Bool := sysCodeListed c && c != 0x00B && c != 0x01A && c != 0x003 && c != 0x028

/-- Code `c` of register copy `cp` (R456): 0 where the copy has no such register. -/
def State.sysShown (s : State) (cp c : Nat) : Dword :=
  if sysCodeShown c && cp == sysCopy (cp - 1) (cp - 9) c then s.sysGet cp c else 0

/-- States of a dependency-table entry (R376, R456). -/
def TaskSt.code : TaskSt → Nat
  | .held => 1 | .armed => 2 | .ready => 3 | .running => 4 | .done => 5
def TaskSt.ofCode : Nat → TaskSt
  | 1 => .held | 2 => .armed | 3 => .ready | 4 => .running | _ => .done

def padTo (n : Nat) (bs : List Byte) : List Byte := (bs ++ List.replicate (n - bs.length) 0).take n

/-- The 1,024 bytes of a used entry. -/
def Task.entryBytes (t : Task) : List Byte :=
  padTo 1024 (t.launch.bytes ++ bytesOfNat 8 t.handle.toNat ++ bytesOfNat 4 t.count.toNat ++ bytesOfNat 1 t.st.code ++
    bytesOfNat 1 t.succs.length ++ bytesOfNat 2 0 ++ bytesOfNat 8 t.estim.toNat ++ bytesOfNat 4 t.prio.toNat ++
    bytesOfNat 4 t.pceil.toNat ++ bytesOfNat 4 t.ended ++ List.replicate 0x15C 0 ++ wordsBytes 8 ((t.succs.take 64).map BitVec.toNat))

/-- A workgroup that has state to keep or to start again. -/
def Workgroup.listed (g : Workgroup) : Bool := g.st != .ended
/-- KIND of a workgroup-list entry: saved, or to start from its entry. -/
def State.wgKind (s : State) (wi : Nat) : Nat :=
  let g := s.wgAt wi
  if (g.st = .resident ∨ g.st = .saving ∨ g.st = .saved) ∧ !(s.taskOfWg wi).handler ∧ !(s.ckpt.active && g.task == s.ckpt.task) then 1
  else 2

/-- The 512 bytes of a workgroup-list entry. -/
def State.wgEntryBytes (s : State) (wi : Nat) : List Byte :=
  let g := s.wgAt wi
  let n := (s.taskOfWg wi).launch.nwave
  let wbps := (List.range n).map fun k =>
    ((((s.wavesOf wi).find? fun i => (s.waveAt i).num == k).bind fun i => (s.waveAt i).wbp).getD 0).toNat
  padTo 512 (bytesOfNat 8 g.task.toNat ++ bytesOfNat 4 g.num ++ bytesOfNat 1 n ++ bytesOfNat 1 (s.wgKind wi) ++ bytesOfNat 2 g.budget ++
    bytesOfNat 1 g.scoreStart ++ List.replicate 15 0 ++ wordsBytes 8 wbps)
/-- Workgroups of the list of a die, in order. -/
def State.wgList (s : State) (d : Nat) : List Nat :=
  ((List.range s.wgs.length).filter fun i => (s.wgAt i).listed && (s.wgAt i).die == d).take 8192

/-- The 256 bytes of a region of the sequence table. -/
def SeqRegion.bytes (r : SeqRegion) : List Byte :=
  padTo 256 (bytesOfNat 4 r.next.toNat ++ bytesOfNat 1 (bitOf r.failed) ++ bytesOfNat 3 0 ++ wordsBytes 4 ((r.exp.take 32).map BitVec.toNat))

/-- The 32 bytes of a unit of the translation-cache directory (R128). A translation in progress shows the unit set aside for it, as the first and
only one of its image so far. -/
def State.tcEntry (s : State) (d u : Nat) : List Byte :=
  let entry := fun (k : TransKey) (state pins units lastUse : Nat) =>
    bytesOfNat 8 k.modkey.toNat ++ bytesOfNat 4 k.func ++ bytesOfNat 1 k.cls ++ bytesOfNat 1 k.gen ++ bytesOfNat 2 k.budget ++
    bytesOfNat 1 k.dmode ++ bytesOfNat 1 state ++ bytesOfNat 2 pins ++ bytesOfNat 4 units ++ bytesOfNat 8 lastUse
  match s.images.find? fun i => i.die == d && decide (i.unit ≤ u) && decide (u < i.unit + i.units) with
  | some i =>
    let pins := (s.inside i).length
    if i.unit ≠ u then List.replicate 17 0 ++ bytesOfNat 1 2 ++ List.replicate 14 0
    else entry i.key (3 + 4 * bitOf (pins != 0) + 8 * bitOf i.stale) pins i.units i.lastUse
  | none =>
    match s.transReqs.find? fun r => r.die == d && r.unit == some u with
    | some r => entry r.key 0x13 0 1 0
    | none => List.replicate 32 0

/-- One byte of a table of the aperture (R484): 1 dependency, 2 sequence, 3 frame, 4 workgroup list, 5 directory. -/
def State.tableByte (s : State) (d table off : Nat) : Byte :=
  let at_ := fun (n : Nat) (e : List Byte) => e.getD (off % n) 0
  if table = 1 then ((s.tasks.find? fun t => t.die == d && t.entry == off / 1024).map fun t => at_ 1024 t.entryBytes).getD 0
  else if table = 2 then ((s.seqs.find? fun r => r.die == d && r.region == off / 256).map fun r => at_ 256 r.bytes).getD 0
  else if table = 3 then
    BitVec.ofNat 8 ((List.range 4).foldl (fun n j =>
      n + (if off < 2 ^ 20 then (s.frameVal (d * 2 ^ 22 + 4 * off + j)).toNat else 0) * 4 ^ j) 0)
  else if table = 4 then (((s.wgList d)[off / 512]?).map fun i => at_ 512 (s.wgEntryBytes i)).getD 0
  else if table = 5 then (if off < 131072 then at_ 32 (s.tcEntry d (off / 32)) else 0)
  else 0

/-! ## The control image as a sparse table (R456) -/

def mib : Nat := 2 ^ 20

/-- Nonzero bytes at an offset. -/
def putImage (c : Cells 8) (off : Nat) (bs : List Byte) : Cells 8 :=
  (bs.zipIdx).foldl (fun c b => if b.1 = 0 then c else cset (zeros 8) c (off + b.2) b.1) c

def State.controlImage (s : State) : Cells 8 :=
  let c := (List.range 73).foldl (fun c cp => (List.range 256).foldl (fun c k =>
    putImage c (2048 * cp + 8 * k) (bytesOfNat 8 (s.sysShown cp k).toNat)) c) []
  let c := (List.range 8).foldl (fun c d => ((s.wgList d).zipIdx).foldl (fun c g =>
    putImage c (mib + 4 * mib * d + 512 * g.2) (s.wgEntryBytes g.1)) c) c
  let c := s.tasks.foldl (fun c t => putImage c (33 * mib + 64 * mib * t.die + 1024 * t.entry) t.entryBytes) c
  let c := s.seqs.foldl (fun c r => putImage c (545 * mib + mib * r.die + 256 * r.region) r.bytes) c
  c ++ (List.range 8).flatMap fun d => (List.range 655360).filterMap fun i =>
    let b := s.tableByte d 3 i
    if b = 0 then none else some (553 * mib + mib * d + i, b)

end Sys2Proof.Machine
end

