-- ==== Sys2Proof/Machine/Checkpoint.lean ====
section
/-! DEFINITION. Capture and restore of the whole device (17_checkpoint.md R449-R466). -/
namespace Sys2Proof.Machine

/-! ## Accesses of the device for a context (R450) -/

/-- The place of a read or write that the device makes for a context. -/
def State.devPlace (s : State) (ctx va : Nat) (wr : Bool) : Except Cause Phys :=
  match s.walk ctx va with
  | .error c => .error c
  | .ok p =>
    match leafCause { core := 0, die := 0, ctx := ctx, user := false, space := .global, rd := !wr, wr := wr } p with
    | some c => .error c
    | none =>
      if eFab p.leaf then .error (causeT 0x21 7)
      else if wr && s.frameDenies false p.key then .error (cause 0x27)
      else if s.uncorr p.key then .error (cause 0x80) else .ok p

/-- A run of bytes within a page performs at its home. -/
def State.homeRun (s : State) (k : Nat) (bs : List Byte) : State :=
  ((linesIn k bs.length).foldl (fun s l => s.invalidateSharers l) s).homeWrite k bs

/-- Bytes written at an address of a context; none when a part of them faults. -/
def State.devWrite (s : State) (ctx va : Nat) (bs : List Byte) : Option State :=
  (pageParts va bs.length).foldl (fun o part => o.bind fun s =>
    match s.devPlace ctx (va + part.1) true with
    | .error _ => none
    | .ok p => some (((s.markLeaf p true).meet p part.2).homeRun p.key ((bs.drop part.1).take part.2))) (some s)

def State.devRead (s : State) (ctx va n : Nat) : Option (List Byte) :=
  (pageParts va n).foldl (fun o part => o.bind fun bs =>
    match s.devPlace ctx (va + part.1) false with
    | .error _ => none
    | .ok p => some (bs ++ s.readAt p part.2)) (some [])

/-! ## Keys of the trust die (R460, R461, R480, R482) -/

def asciiBytes (s : String) : List Byte := s.toList.map fun c => BitVec.ofNat 8 c.toNat
/-- Seed of the DeviceID key. -/
def deviceSeed : List Byte := (hmac512 (bytesOfNat 32 Config.deviceSecret.toNat) (asciiBytes "HK8 DeviceID")).take 32
def deviceKey : List Byte := ed25519Pub deviceSeed
/-- KEYSET (R482). -/
def State.keySetId (s : State) : List Byte := (sha512 (bytesOfNat 64 s.trust.kss.toNat ++ asciiBytes "set")).take 8

/-! ## Manifests (R460-R464) -/

def shardLen : Nat := 64 * mib
/-- Stream offset of the region records, in shards: control image and gap 9, and 2,556 of each die (R454). -/
def memShards : Nat := capFrames * 65536 / shardLen
def recShard : Nat := 9 + 8 * memShards
def ckptMagic : Nat := 0x4D504B43
/-- CLASSMAP of the package: dies 6 and 7 are of class V (R12). -/
def classMap : Nat := (List.range 8).foldl (fun n d => if dieClass d = 2 then n + 2 ^ d else n) 0

def CkptEntry.bytes (e : CkptEntry) : List Byte :=
  bytesOfNat 64 e.digest.toNat ++ bytesOfNat 8 e.loc ++ bytesOfNat 4 e.clen ++ bytesOfNat 4 e.flags
def CkptEntry.ofBytes (bs : List Byte) : CkptEntry :=
  { digest := BitVec.ofNat 512 (natAt bs 0 64), loc := natAt bs 64 8, clen := natAt bs 72 4, flags := natAt bs 76 4 }

/-- The manifest at an address, when it can be read: its bytes, SIG among them. -/
def State.readManifest (s : State) (ctx a : Nat) : Option (List Byte) :=
  (s.devRead ctx a 16).bind fun h =>
    if natAt h 0 4 = ckptMagic ∧ natAt h 4 2 = 1 then s.devRead ctx a (0x80 + 80 * natAt h 12 4 + 64) else none
def manifestCount (m : List Byte) : Nat := natAt m 12 4
def manifestEntry (m : List Byte) (i : Nat) : CkptEntry := CkptEntry.ofBytes ((m.drop (0x80 + 80 * i)).take 80)
def manifestStream (m : List Byte) : Nat := natAt m 16 8
/-- The digest that SIG signs. -/
def manifestDigest (m : List Byte) : List Byte := sha512 (m.take (m.length - 64))

/-- The first two checks of R464: the status of the first that fails. -/
def State.manifestStatus (s : State) : Option (List Byte) → Option Nat
  | none => some 7
  | some m =>
    let pk := (m.drop 0x20).take 32
    if !ed25519Verify pk (manifestDigest m) (m.drop (m.length - 64)) then some 7
    else if pk != deviceKey && !s.trust.ckptKeys.any (fun k => bytesOfNat 32 k.toNat == pk) then some 7
    else if natAt m 6 1 != classMap || natAt m 7 1 != Config.translatorGen || (m.drop 0x18).take 8 != s.keySetId then some 9
    else none

/-! ## Shards (R459) -/

/-- Planes of `p`-byte groups, and back; the last bytes stand unchanged. -/
def planes (p : Nat) (bs : List Byte) : List Byte :=
  let q := bs.length / p
  ((List.range p).flatMap fun j => (List.range q).map fun i => bs.getD (p * i + j) 0) ++ bs.drop (p * q)
def unplanes (p : Nat) (t : List Byte) : List Byte :=
  let q := t.length / p
  ((List.range q).flatMap fun i => (List.range p).map fun j => t.getD (q * j + i) 0) ++ t.drop (p * q)

/-- The p of SPLIT and of SFLAGS. -/
def splitOf (k : Nat) : Nat := if k = 0 then 1 else if k = 1 then 2 else 4

/-- Length of shard `i` of a stream. -/
def shardSize (stream i : Nat) : Nat := min shardLen (stream - shardLen * i)

/-- The raw bytes of a stored shard; none where they cannot be read, decoded or put together. -/
def State.readShard (s : State) (ctx n : Nat) (e : CkptEntry) : Option (List Byte) :=
  if bit (dw e.flags) 3 then some (List.replicate n 0)
  else
    (s.devRead ctx e.loc e.clen).bind fun c =>
      (if bit (dw e.flags) 2 then some c else lz4Decode c).bind fun t =>
        if t.length = n then some (unplanes (splitOf (bits (dw e.flags) 0 2)) t) else none

/-- A shard of a checkpoint, its digest checked (R464 status 0x08). -/
def State.goodShard (s : State) (ctx : Nat) (m : List Byte) (i : Nat) : Option (List Byte) :=
  let e := manifestEntry m i
  (s.readShard ctx (shardSize (manifestStream m) i) e).filter fun raw => BitVec.ofNat 512 (natOfBytes (sha512 raw)) == e.digest

/-! ## Region records (R457) -/

structure CaRec where
  name : Nat
  loc : Nat
  slot : Nat
  count : Nat
  flags : Nat
  deriving DecidableEq, Repr, Inhabited

def CaRec.bytes (r : CaRec) : List Byte :=
  bytesOfNat 16 r.name ++ bytesOfNat 8 r.loc ++ bytesOfNat 4 r.slot ++ bytesOfNat 4 r.count ++ bytesOfNat 4 r.flags ++ List.replicate 12 0
def CaRec.ofBytes (bs : List Byte) : CaRec :=
  { name := natAt bs 0 16, loc := natAt bs 16 8, slot := natAt bs 24 4, count := natAt bs 28 4, flags := natAt bs 32 4 }

/-- The records of one region slot. -/
structure RegionRec where
  n : Nat
  carb : Dword
  carc : Dword
  recs : List CaRec
  drops : List Nat
  deriving DecidableEq, Repr, Inhabited

/-- Region records of the slots `ns`, in order, from their bytes. -/
def parseRegions : List Nat → List Byte → List RegionRec
  | [], _ => []
  | n :: ns, bs =>
    let k := natAt bs 16 8
    let d := natAt bs 24 8
    let body := bs.drop 64
    { n := n, carb := dw (natAt bs 0 8), carc := dw (natAt bs 8 8),
      recs := (List.range k).map fun i => CaRec.ofBytes ((body.drop (48 * i)).take 48),
      drops := (List.range d).map fun i => natAt body (48 * k + 16 * i) 16 } :: parseRegions ns (body.drop (48 * k + 16 * d))

/-- The slots with EN = 1 in a control image. -/
def enabledSlots (ctl : Nat → Nat) : List Nat := (List.range 16).filter fun n => ctl (8 * (0x070 + n)) / 2 ^ 63 % 2 = 1

/-- 8 bytes of a checkpoint's control image. -/
def imageWord (shards : List (List Byte)) (off : Nat) : Nat := natAt (shards.getD (off / shardLen) []) (off % shardLen) 8

/-- The region records of a checkpoint. -/
def State.ckptRegions (s : State) (ctx : Nat) (m : List Byte) : List RegionRec :=
  let first := ((s.goodShard ctx m 0).getD [])
  let tail := (List.range (manifestCount m - recShard)).flatMap fun i => (s.goodShard ctx m (recShard + i)).getD []
  parseRegions (enabledSlots (imageWord [first])) tail

/-! ## Capture (R451-R463) -/

/-- The operation fails: leaves whose CKP bit it set are cleared, held waves go on (R463). -/
def State.clearLeaves (s : State) (ls : List Nat) : State :=
  ls.foldl (fun s k => (s.viewAs k 0).homeWrite k (bytesOfNat 8 (s.tableEntry k &&& ~~~(0x40000 : Dword)).toNat)) s
def State.ckptFail (s : State) (st : Nat) : State :=
  let ls := s.ckpt.leaves
  ((s.ckptEnd st).clearLeaves ls).cutLetGo

/-- Frames that a run of addresses of a context touches, as ranges of frame numbers. -/
def State.framesOf (s : State) (ctx va n : Nat) : List (Nat × Nat) :=
  (pageParts va n).filterMap fun part =>
    match s.walk ctx (va + part.1) with
    | .ok p => if eFab p.leaf then none else some (frameOf p.key, frameOf p.key + 1)
    | .error _ => none

/-- Frames that stand in the stream as zero bytes (R455). -/
def State.exclFrames (s : State) : List (Nat × Nat) :=
  let k := s.ckpt
  let retired := ((s.frames.filter fun f => f.2 == 3).map fun f => (f.1, f.1 + 1)) ++
    ((List.range 8).filter fun d => !(s.dieAt d).badVaults.isEmpty).map fun d => (d * 2 ^ 22, (d + 1) * 2 ^ 22)
  let old := match if k.base = 0 then none else s.readManifest k.ctx k.base with
    | none => []
    | some m => s.framesOf k.ctx k.base m.length ++ (List.range (manifestCount m)).flatMap fun i =>
        let e := manifestEntry m i
        s.framesOf k.ctx e.loc e.clen
  retired ++ s.framesOf k.ctx k.area k.areaLen ++ old ++ s.ca.flatMap fun r => s.framesOf r.ctx r.base.toNat (caSize r.logn)

/-- Insertion in ascending name. -/
def insertEnt (e : Nat × Nat × Nat × Nat × List Byte) : List (Nat × Nat × Nat × Nat × List Byte) → List (Nat × Nat × Nat × Nat × List Byte)
  | [] => [e]
  | x :: xs => if e.2.1 < x.2.1 then e :: x :: xs else x :: insertEnt e xs

/-- A region as it stands. -/
def State.regionSnap (s : State) (r : CaRegion) : RegionSnap :=
  let ents := (List.range (2 ^ r.logn)).filterMap fun k =>
    match s.caEnt r k, s.caRead r (r.lineVa k) 128 with
    | .ok e, .ok line => if e.live then some (k, e.name, e.count, bitOf e.live + 2 * bitOf e.node, line) else none
    | _, _ => none
  { n := r.slot, carb := s.sysGet 0 (0x060 + r.slot), carc := s.carc r.slot, ents := ents.foldr insertEnt [], drops := r.drops }

/-- The entries of the tables below an entry of a context's page tables: physical keys of the valid leaves, with the frames they
map (R234). -/
def State.leavesUnder (s : State) : Nat → Dword → List (Nat × Nat)
  | level, e =>
    if nonLeafBad e then []
    else
      (List.range (if level = 0 then 32 else 512)).flatMap fun i =>
        let ek := physKey (eHome e) (eDpa e + 8 * i)
        let x := s.tableEntry ek
        if !eValid x then []
        else if eLeaf x then
          if leafBad s.fdn level x ∨ eFab x then []
          else (List.range (2 ^ pageLg level / 65536)).map fun j => (ek, frameOf (physKey (eHome x) (eDpa x)) + j)
        else
          match level with
          | 0 => []
          | l + 1 => s.leavesUnder l x

/-- The workgroups of the device at S, as a restore places them (R465 steps 5 and 6). -/
def State.snapWork (s : State) : CkptSnap :=
  let kind := fun i => s.wgKind i
  let again := fun (g : Gang) => (List.range s.wgs.length).any fun i =>
    (s.wgAt i).listed && kind i == 2 && (s.wgAt i).task == g.task && (s.wgAt i).gangNum (s.taskOfWg i) == g.num
  { key := 0, bindings := s.bindings, waves := s.waves,
    gangs := s.gangs.map fun g => if again g then { g with fc := 0, plan := [], gset := [], gpool := [], folds := 0 } else g
    wgs := (List.range s.wgs.length).map fun i =>
      let g := s.wgAt i
      if !g.listed then g
      else if kind i = 1 then { g with st := .saved, absent := [] }
      else { g.cleared with st := .restart, spimg := none, argsDue := none }
    tasks := s.tasks }

/-- Steps 2 and 3 of R451: the snapshot instant S. -/
def State.ckptInstant (s : State) : State :=
  let k := { s.ckpt with
    phase := 1, on := true, excl := s.exclFrames, taken := [], done := 0, staged := [], ctl := s.controlImage,
    regions := (s.ca.map s.regionSnap), work := s.snapWork }
  { s with rdc := [], rdcFills := [], shr := [], ckpt := k }

/-- Step 4: CKP in every valid leaf whose frame is copy-pending, and step 5: the cut is released. -/
def State.ckptMark (s : State) : State :=
  let all := ((List.range 64).flatMap fun c => s.leavesUnder 4 (s.ctxGet c 0x010))
  let ks := ((all.filter fun e => s.copyPending e.2).map Prod.fst).eraseDups
  let ks := ks.filter fun k => !eCkp (s.tableEntry k)
  let s := ks.foldl (fun s k => (s.viewAs k 0).homeWrite k (bytesOfNat 8 (s.tableEntry k ||| (0x40000 : Dword)).toNat)) s
  ({ s with ckpt := { s.ckpt with leaves := ks, phase := 2 } } : State).cutLetGo

/-- The bytes of a frame as it stood at S, as the vaults store them; none for an uncorrectable error. -/
def State.frameImage (s : State) (f : Nat) : Option (List Byte) :=
  if s.ckpt.excl.any fun r => decide (r.1 ≤ f) && decide (f < r.2) then some (List.replicate 65536 0)
  else
    let own := physKey (f / 2 ^ 22) (f % 2 ^ 22 * 65536)
    let src := match s.ckpt.staged.lookup f with
      | some slot =>
        (match s.stagingPlace (f / 2 ^ 22) slot with
         | some p => p.key
         | none => own)
      | none => own
    if (List.range 32).any fun i => s.uncorr (own + 2048 * i) then none
    else
      let ks := xtsKeys (s.memKey 0)
      some ((List.range 512).flatMap fun i =>
        let r := (cget (zeros 6) s.keyids (src / 128 + i)).toNat
        xtsEnc (if r = 0 then ks else xtsKeys (s.memKey r)) (own + 128 * i) (readBytes s.mem (src + 128 * i) 128))

/-- The frames of memory shard `i`. -/
def shardFrames (i : Nat) : List Nat :=
  let d := (i - 9) / memShards
  let f := (i - 9) % memShards * (shardLen / 65536)
  (List.range (shardLen / 65536)).map fun j => d * 2 ^ 22 + f + j

/-- Raw bytes of shard `i`. -/
def State.shardRaw (s : State) (i : Nat) : Option (List Byte) :=
  if i < 9 then some ((List.range shardLen).map fun j => cget (zeros 8) s.ckpt.ctl (shardLen * i + j))
  else if i < recShard then (shardFrames i).foldr (fun f o => o.bind fun bs => (s.frameImage f).map (· ++ bs)) (some [])
  else some ((s.ckpt.recs.drop (shardLen * (i - recShard))).take shardLen)

/-- Stored bytes at the next multiple of 128 of the area; a status when they do not fit or cannot be written. -/
def State.ckptStore (s : State) (bs : List Byte) : Except Nat (Nat × State) :=
  let at_ := (s.ckpt.stored + 127) / 128 * 128
  if s.ckpt.areaLen < 516 * mib + at_ + bs.length then .error 1
  else
    let loc := s.ckpt.area + 516 * mib + at_
    match s.devWrite s.ckpt.ctx loc bs with
    | none => .error 6
    | some s => .ok (loc, { s with ckpt := { s.ckpt with stored := at_ + bs.length } })

/-- The base's manifest, when there is one. -/
def State.baseManifest (s : State) : Option (List Byte) :=
  if s.ckpt.base = 0 then none else s.readManifest s.ckpt.ctx s.ckpt.base

/-- One shard is processed (R459). -/
def State.ckptShard (s : State) (i : Nat) : Except Nat State :=
  match s.shardRaw i, decide (9 ≤ i) && (shardFrames i).any fun f => s.ckpt.staged.lookup f == some noSlot with
  | _, true => .error 6
  | none, false => .error 5
  | some raw, false =>
    let d := BitVec.ofNat 512 (natOfBytes (sha512 raw))
    let add := fun (s : State) (e : CkptEntry) =>
      let done := if i < 9 then 0 else min (8 * capFrames) ((i + 1 - 9) * (shardLen / 65536))
      let keep := s.ckpt.staged.filter fun x => decide (done ≤ x.1 / 2 ^ 22 * capFrames + x.1 % 2 ^ 22)
      { s with ckpt := { s.ckpt with entries := s.ckpt.entries ++ [e], done := done, staged := keep } }
    if raw.all (· == 0) then .ok (add s { digest := d, loc := 0, clen := 0, flags := 8 })
    else
      match (s.baseManifest.filter fun m => i < manifestCount m && (manifestEntry m i).digest == d).map fun m => manifestEntry m i with
      | some e => .ok (add s { e with flags := e.flags % 16 + 16 })
      | none =>
        let k := if s.ckpt.split = 3 then 0 else s.ckpt.split
        let t := planes (splitOf k) raw
        let c := lz4Block t
        let store := if t.length ≤ c.length then (t, 4) else (c, 0)
        match s.ckptStore store.1 with
        | .error st => .error st
        | .ok (loc, s) => .ok (add s { digest := d, loc := loc, clen := store.1.length, flags := k + store.2 })

/-- The records of one region: a line that the base holds keeps its place, another is appended (R457). -/
def State.ckptLines (s : State) (old : Option RegionRec) : List (Nat × Nat × Nat × Nat × List Byte) → List CaRec → Except Nat (List CaRec × State)
  | [], acc => .ok (acc.reverse, s)
  | (slot, name, count, flags, line) :: es, acc =>
    let mk := fun loc => ({ name := name, loc := loc, slot := slot, count := count, flags := flags } : CaRec)
    match old.bind fun o => o.recs.find? fun r => r.name == name with
    | some r => s.ckptLines old es (mk r.loc :: acc)
    | none =>
      match s.ckptStore line with
      | .error st => .error st
      | .ok (loc, s) => s.ckptLines old es (mk loc :: acc)

def State.ckptRegionsGo (s : State) (base : List RegionRec) : List RegionSnap → List Byte → Except Nat State
  | [], acc => .ok { s with ckpt := { s.ckpt with recs := acc, phase := 3, regions := [] } }
  | r :: rs, acc =>
    let old := base.find? fun o => o.n == r.n && bits o.carc 40 8 == bits r.carc 40 8 && bits o.carb 0 5 == bits r.carb 0 5
    match s.ckptLines old r.ents [] with
    | .error st => .error st
    | .ok (recs, s) =>
      let head := bytesOfNat 8 r.carb.toNat ++ bytesOfNat 8 r.carc.toNat ++ bytesOfNat 8 recs.length ++ bytesOfNat 8 r.drops.length ++
        List.replicate 32 0
      s.ckptRegionsGo base rs (acc ++ head ++ recs.flatMap CaRec.bytes ++ r.drops.flatMap fun d => bytesOfNat 16 d.toNat)

/-- The manifest but for SIG (R460). -/
def State.manifestBytes (s : State) : List Byte :=
  let k := s.ckpt
  let basedig := match s.baseManifest with
    | some m => sha512 (m.take (0x80 + 80 * manifestCount m))
    | none => List.replicate 64 0
  bytesOfNat 4 ckptMagic ++ bytesOfNat 2 1 ++ bytesOfNat 1 classMap ++ bytesOfNat 1 Config.translatorGen ++ bytesOfNat 4 k.opnum ++
  bytesOfNat 4 k.entries.length ++ bytesOfNat 8 (shardLen * recShard + k.recs.length) ++ s.keySetId ++ deviceKey ++ basedig ++
  k.entries.flatMap CkptEntry.bytes

/-- Steps 7 to 9 of R451: the manifest in the order of R462, CKP cleared, event 0x1B. -/
def State.ckptFinish (s : State) : State :=
  let k := s.ckpt
  let m := s.manifestBytes
  let d := sha512 m
  let sig := ed25519Sign deviceSeed d
  let out := [(0, List.replicate 4 0), (4, m.drop 4), (m.length, sig), (0, m.take 4)]
  match out.foldl (fun o w => o.bind fun s => s.devWrite k.ctx (k.area + w.1) w.2) (some s) with
  | none => s.ckptFail 6
  | some t =>
    let snap := { k.work with key := BitVec.ofNat 512 (natOfBytes d) }
    ({ t with snaps := snap :: t.snaps.filter fun x => x.key != snap.key }.ckptEnd 0).clearLeaves k.leaves

/-- Shards of the whole stream. -/
def State.shardCount (s : State) : Nat := recShard + (s.ckpt.recs.length + shardLen - 1) / shardLen

/-- The capture makes its next step: S once the cut is held, the marking of leaves, then one shard, the CA lines, or the manifest. -/
def execCkptCapture (s : State) : Outcome :=
  let k := s.ckpt
  let n := k.entries.length
  .next (
    if !k.active ∨ k.mode ≠ 0 then s
    else if k.phase = 0 then
      if s.cut.st ≠ 3 then s
      else if k.base ≠ 0 ∧ (s.manifestStatus (s.readManifest k.ctx k.base)).isSome then s.ckptFail 2
      else s.ckptInstant
    else if k.phase = 1 then s.ckptMark
    else if k.phase = 2 ∧ n = recShard then
      match s.ckptRegionsGo ((s.baseManifest.map (s.ckptRegions k.ctx)).getD []) k.regions [] with
      | .ok t => t
      | .error st => s.ckptFail st
    else if n < s.shardCount then
      match s.ckptShard n with
      | .ok t => t
      | .error st => s.ckptFail st
    else s.ckptFinish)

/-- A write that waited at its home die performs: its frame has been copied or taken, or a staging slot has come free (R452, R453).
Writes of one frame perform in the order in which they came. -/
def State.heldPerform (s : State) (id : Nat) : State :=
  match s.held.find? fun h => h.id == id with
  | none => s
  | some h =>
    if s.held.any fun g => g.id < id && frameOf g.key == frameOf h.key then s
    else if s.copyPending (frameOf h.key) ∧ (s.freeStaging (keyDie h.key)).isNone then s
    else ({ s with held := s.held.filter fun g => g.id != id } : State).meetKey h.key h.bytes.length h.keyid |>.homeRun h.key h.bytes

/-! ## Restore (R464-R466) -/

/-- Every region record's line has its name (R464 status 0x0A). -/
def State.linesGood (s : State) (ctx : Nat) (rs : List RegionRec) : Bool :=
  rs.all fun r => r.recs.all fun x =>
    match s.devRead ctx x.loc 128 with
    | some line => natOfBytes ((blake3Keyed (s.regionKey (bits r.carc 40 8)) line).take 15) == x.name / 256
    | none => false

/-- The memory of a checkpoint (R465 step 2), with the key IDs under which it is listed, here 0: the lines go into the vaults as they were stored. A
frame that stands in the stream as zero bytes is no frame of the capture set, and keeps its bytes (see the assumption log). -/
def State.restoreMem (s : State) (ctx : Nat) (m : List Byte) : Cells 8 × Cells 6 :=
  let ks := xtsKeys (s.memKey 0)
  (List.range (recShard - 9)).foldl (fun mem j =>
    match s.goodShard ctx m (9 + j) with
    | none => mem
    | some raw =>
      ((shardFrames (9 + j)).zipIdx).foldl (fun mem f =>
        let bs := (raw.drop (65536 * f.2)).take 65536
        let own := physKey (f.1 / 2 ^ 22) (f.1 % 2 ^ 22 * 65536)
        if bs.all (· == 0) then mem
        else
          ((List.range 512).foldl (fun mem i => writeBytes mem (own + 128 * i) (xtsDec ks (own + 128 * i) ((bs.drop (128 * i)).take 128))) mem.1,
           clearRange mem.2 (own / 128) (own / 128 + 512)))
        mem) (s.mem, s.keyids)

/-- The writable system registers of a control image (R465 step 2). -/
def State.restoreSys (s : State) (img : Nat → Nat) : State :=
  (List.range 73).foldl (fun s cp => (List.range 256).foldl (fun s c =>
    if sysCodeShown c ∧ cp = sysCopy (cp - 1) (cp - 9) c ∧ sysCodeRO c = false then s.sysSet cp c (dw (img (2048 * cp + 8 * c)) &&& sysMask c) else s) s) s

/-- Sequence and frame tables of a control image. -/
def restoreSeqs (img : Nat → Nat) : List SeqRegion :=
  (List.range 8).flatMap fun d => (List.range 4096).filterMap fun r =>
    let off := 545 * mib + mib * d + 256 * r
    let w := fun o => w32 (img (off + o / 8 * 8) / 2 ^ (8 * (o % 8)))
    let x : SeqRegion := { die := d, region := r, next := w 0, failed := bit (dw (img off)) 32, exp := (List.range 32).map fun v => w (8 + 4 * v) }
    if (List.range 32).all (fun i => img (off + 8 * i) == 0) then none else some x
def restoreFrames (img : Nat → Nat) : Cells 2 :=
  (List.range 8).flatMap fun d => (List.range (2 ^ 17)).flatMap fun q =>
    let v := img (553 * mib + mib * d + 8 * q)
    (List.range 32).filterMap fun j =>
      let b := BitVec.ofNat 2 (v / 4 ^ j)
      if b = 0 then none else some (d * 2 ^ 22 + 32 * q + j, b)

/-- Tasks of a control image for a checkpoint of which the model holds no register spaces. -/
def State.restoreTasks (s : State) (ctx : Nat) (img : Nat → Nat) : List Task :=
  (List.range 8).flatMap fun d => (List.range 65536).filterMap fun e =>
    let off := 33 * mib + 64 * mib * d + 1024 * e
    let bs := (List.range 128).flatMap fun i => bytesOfNat 8 (img (off + 8 * i))
    let st := natAt bs 0x8C 1
    let r := Launch.ofBytes bs
    if st = 0 then none
    else
      some { die := d, entry := e, seq := natAt bs 0x80 8 / 2 ^ 19, ctx := ctx, user := (s.moduleOf r.handle).any Module.user,
             launch := r, st := TaskSt.ofCode st, count := w32 (natAt bs 0x88 4),
             succs := (List.range (natAt bs 0x8D 1)).map fun i => dw (natAt bs (0x200 + 8 * i) 8), prio := w32 (natAt bs 0x98 4),
             pceil := w32 (natAt bs 0x9C 4), estim := dw (natAt bs 0x90 8), fired := d, admitted := [], ended := natAt bs 0xA0 4,
             sinceAdmit := s.cycle, stallSent := false, handler := false, drainOn := [], aborted := none, merging := false }

/-- A region is rebuilt (R465 step 3). -/
def State.rebuildRegion (s : State) (ctx : Nat) (r : RegionRec) (line : Nat → List Byte) : State :=
  let cr : CaRegion :=
    { slot := r.n, base := r.carb &&& 0x1FFFFFFFFFF0000, logn := bits r.carb 0 5, keyslot := bits r.carc 40 8, ctx := ctx,
      drops := r.drops.map (BitVec.ofNat 128), retryAt := 0 }
  let put := fun (s : State) (va : Nat) (bs : List Byte) => match s.caPage cr va with
    | .ok p => (s.meet p bs.length).homeRun p.key bs
    | .error _ => s
  let s := (pageParts cr.base.toNat (caTables cr.logn + 32 * 2 ^ cr.logn)).foldl (fun s part =>
    put s (cr.base.toNat + part.1) (List.replicate part.2 0)) s
  let s := r.recs.foldl (fun s x =>
    let head := match s.caRead cr (cr.bucketVa x.name) 4 with
      | .ok h => natOfBytes h
      | .error _ => 0
    let s := put s (cr.lineVa x.slot) (line x.loc)
    let s := put s (cr.entryVa x.slot)
      { slot := x.slot, name := x.name, count := x.count, next := head, live := x.flags % 2 == 1, node := x.flags / 2 % 2 == 1 : CaEnt }.bytes
    put s (cr.bucketVa x.name) (bytesOfNat 4 (x.slot + 1))) s
  ({ s with ca := s.ca ++ [cr] } : State).setLines cr r.recs.length

/-- Nothing of the machine's work is left (R465 step 1). -/
def State.emptied (s : State) : State :=
  { s with
    waves := [], wgs := [], gangs := [], tasks := [], l1 := [], shr := [], rdc := [], rdcFills := [], tlb := [], msgs := [],
    copies := [], held := [], bindings := [], cmds := [], quern := [], slots := [], spans := [], slices := [], issued := [], rounds := [], heard := [], hints := [],
    contrib := List.replicate 8 0, parts := [], ca := [], images := [], transReqs := [], notices := [], fabReqs := [],
    cut := default, ckpt := default, halted := false,
    dies := s.dies.map fun d => { d with chg := List.replicate 32 0 } }

/-- A successful restore (R465). -/
def State.ckptApply (s : State) (ctx opnum : Nat) (m : List Byte) (regions : List RegionRec) : State :=
  let shards := (List.range 9).map fun i => (s.goodShard ctx m i).getD []
  let img := imageWord shards
  let lines := fun loc => (s.devRead ctx loc 128).getD []
  let mem := s.restoreMem ctx m
  let t := ({ s.emptied with mem := mem.1, keyids := mem.2, seqs := restoreSeqs img, frames := restoreFrames img } : State).restoreSys img
  let key := BitVec.ofNat 512 (natOfBytes (manifestDigest m))
  let work := (s.snaps.find? fun x => x.key == key).getD
    { (default : CkptSnap) with tasks := s.restoreTasks ctx img }
  let gone := fun (w : Wave) => ((work.wgs.getD w.wg default).st != .saved)
  let waves := work.waves.map fun w => { w with live := w.live && !gone w, cutAt := none, cutStop := false, fmPend := [], landings := [] }
  let tasks := work.tasks.map fun x =>
    { x with admitted := [], st := if x.st = .running ∧ x.ended = 0 then TaskSt.ready else x.st, sinceAdmit := s.cycle, drainOn := [] }
  let binds := work.bindings.filter fun b => (work.wgs.getD b.wg default).st == WgSt.saved
  let windows := (List.range 8).filterMap fun n =>
    if bit (t.sysGet 0 (0x050 + n)) 63 then some (n, t.sysGet 0 (0x048 + n), t.sysGet 0 (0x050 + n)) else none
  let grants := (List.range 8).flatMap fun d => (List.range 16).filterMap fun n =>
    if bit (t.dieGet d (0x0B0 + n)) 63 then some (d, n, t.dieGet d (0x0A0 + n), t.dieGet d (0x0B0 + n)) else none
  let t := { t with wgs := work.wgs, gangs := work.gangs, bindings := binds, waves := waves, tasks := tasks, windows := windows, grants := grants }
  let t := regions.foldl (fun t r => t.rebuildRegion ctx r lines) t
  t.notice ctx (eventRec 0x1B (dw (opnum % 2 ^ 32)))

/-- The restore that a ckpt of mode 2 has started: the checks of R464, then R465. -/
def execCkptRestore (s : State) : Outcome :=
  let k := s.ckpt
  .next (
    if !k.active ∨ k.mode ≠ 2 then s
    else
      let o := s.readManifest k.ctx k.desc.toNat
      match s.manifestStatus o, o with
      | some st, _ => s.ckptEnd st
      | none, none => s.ckptEnd 7
      | none, some m =>
        let n := (manifestStream m + shardLen - 1) / shardLen
        if manifestCount m ≠ n ∨ (List.range n).any (fun i => (s.goodShard k.ctx m i).isNone) then s.ckptEnd 8
        else
          let rs := s.ckptRegions k.ctx m
          if !s.linesGood k.ctx rs then s.ckptEnd 0x0A else s.ckptApply k.ctx k.opnum m rs)

/-! ## Loss of power (R463) -/

/-- The package loses its supply: a capture in progress is left incomplete, and nothing happens until a package reset. -/
def execPowerLoss (s : State) : Outcome :=
  .next { s with power := false, ckpt := default, cut := default }

end Sys2Proof.Machine
end

