-- ==== Sys2Proof/Machine/Matrix.lean ====
section
/-! DEFINITION. The matrix instructions and the querns (11_matrix.md R305-R327). -/
namespace Sys2Proof.Machine

/-! ## Operand panels (R310, R311) -/

/-- A descriptor, in bytes. -/
structure Desc where
  base : Nat
  rpitch : Nat
  tpitch : Nat
  rot : Nat
  sbase : Nat
  srpitch : Nat
  deriving DecidableEq, Repr, Inhabited

def Desc.ofVal (v : Val) : Desc :=
  let lo := elemAt v 64 0
  let hi := elemAt v 64 1
  { base := 16 * (lo / 2 ^ 44), rpitch := 16 * (lo / 2 ^ 30 % 2 ^ 14), tpitch := 16 * (lo / 2 ^ 10 % 2 ^ 20), rot := lo / 2 ^ 7 % 8,
    sbase := 16 * (hi / 2 ^ 44), srpitch := hi / 2 ^ 30 % 2 ^ 14 }

/-- Element width in bits of an operand format. -/
def opWidth : Ty → Nat
  | .num _ e => e.width
  | t => mxWidth t
/-- Bytes of a (row, g) chunk. -/
def chunkBytes (w : Nat) : Nat := 4 * w
/-- Bits that the multiplier slices of a cell take of an operand format (R32). -/
def cellWidth : Ty → Nat
  | .num _ e => (fMan e + 2) / 2 * 2
  | t => (mxWidth t + 1) / 2 * 2
/-- Slices of one product, and multiply-accumulates of a cell in a cycle (R32): the durations that they give are no part of the model. -/
def cellSlices (a b : Ty) : Nat := cellWidth a / 2 * (cellWidth b / 2)
def cellMacs (a b : Ty) : Nat := 16 / cellSlices a b

/-- Byte `b` of the chunk (row, g) of a panel, rotated within its line. -/
def Desc.byteAt (d : Desc) (row g b : Nat) : Nat :=
  (d.base + g * d.tpitch + row * d.rpitch + b) ^^^ (row * d.rot % 8 * 16)

/-- The 16-byte pieces of a panel of `rows` rows and `gs` blocks: their offsets. -/
def Desc.pieces (d : Desc) (w rows gs : Nat) : List Nat :=
  (List.range rows).flatMap fun r => (List.range gs).flatMap fun g =>
    ((List.range (chunkBytes w)).filter fun b => b % 16 == 0).map fun b => d.byteAt r g b
/-- Offsets of the scale bytes. -/
def Desc.scales (d : Desc) (rows gs : Nat) : List Nat :=
  (List.range rows).flatMap fun r => (List.range gs).map fun g => d.sbase + r * d.srpitch + g

/-- Element (row, k) of a panel: the bits of its format. -/
def Desc.elem (d : Desc) (rd : Nat → Nat) (w row k : Nat) : Nat :=
  let g := k / 32
  let e := k % 32
  let b := e * w / 8
  let lo := rd (d.byteAt row g b)
  if w ≤ 8 ∧ e * w % 8 + w ≤ 8 then lo / 2 ^ (e * w % 8) % 2 ^ w
  else (lo + 256 * rd (d.byteAt row g (b + 1))) / 2 ^ (e * w % 8) % 2 ^ w

/-! ## Accumulation (R312, R313) -/

/-- One product: none for NaN, or what it is exactly. -/
def mulExact (a b : FVal) : FVal :=
  if a.isNaN ∨ b.isNaN ∨ (a.isInf ∧ b.isZero) ∨ (a.isZero ∧ b.isInf) then .nan false
  else if a.isInf ∨ b.isInf then .inf (a.neg != b.neg)
  else
    match a, b with
    | .fin n1 m1 x1, .fin n2 m2 x2 => .fin (n1 != n2) (m1 * m2) (x1 + x2)
    | _, _ => .nan false

def FVal.logMag : FVal → Option Int
  | .fin _ m x => if m = 0 then none else some ((Nat.log2 m : Int) + x)
  | _ => none
/-- A finite product truncated toward zero to units of 2^q. -/
def FVal.truncUnits (q : Int) : FVal → Int
  | .fin n m x => if n then -((unitsOf m x q).1 : Int) else (unitsOf m x q).1
  | _ => 0

/-- A group of 32 products is added to the accumulator. -/
def mmaGroup (acc : Nat) (ps : List FVal) : Nat :=
  let pos := ps.any fun p => p == .inf false
  let neg := ps.any fun p => p == .inf true
  if ps.any FVal.isNaN ∨ (pos ∧ neg) then fNaN .f32
  else if pos ∨ neg then (fAddV .f32 exactMod 0 (fDecode .f32 acc) (.inf neg)).1
  else
    match ps.filterMap FVal.logMag with
    | [] => acc
    | l :: ls =>
      let q := ls.foldl max l - 40
      let t := (ps.map (FVal.truncUnits q)).foldl (· + ·) 0
      (fAddV .f32 exactMod 0 (fDecode .f32 acc) (.fin (decide (t < 0)) t.natAbs q)).1

/-- An output element of mma: `a k` and `b k` are the codes of its row of A and of B. -/
def mmaElem (fa fb : Elem) (k acc : Nat) (a b : Nat → Nat) : Nat :=
  (List.range (k / 32)).foldl (fun acc g =>
    mmaGroup acc ((List.range 32).map fun e => mulExact (fDecode fa (a (32 * g + e))) (fDecode fb (b (32 * g + e))))) acc

/-- An output element of mmamx: `a`, `b` the element bits, `sa`, `sb` the scale codes by block. -/
def mmamxElem (wa wb k acc : Nat) (a b sa sb : Nat → Nat) : Nat :=
  let gs := List.range (k / 32)
  if gs.any fun g => sa g == 0xFF || sb g == 0xFF then fNaN .f32
  else
    let x := gs.foldl (fun m g => max m (sa g + sb g)) 0
    let t := gs.foldl (fun (t : Int) g =>
      let p := (List.range 32).foldl (fun (p : Int) e => p + toS wa (a (32 * g + e)) * toS wb (b (32 * g + e))) 0
      t + (p * 2 ^ 16).tdiv (2 ^ (x - (sa g + sb g)))) 0
    if t = 0 then acc
    else
      (fAddV .f32 exactMod 0 (fDecode .f32 acc)
        (.fin (decide (t < 0)) t.natAbs ((x : Int) - 254 - ((wa : Int) - 2) - ((wb : Int) - 2) - 16))).1

/-! ## Sending an operation to the quern (R308, R309) -/

def State.quernOf (s : State) : Nat := s.wv.core % 4 / 2

/-- A tile leaves its slot for its backing lines, from which the next operation that reads it brings it back (R308). A wave without a register space
has none. -/
def State.evictTile (s : State) (tok : Dword) (t : Nat) : State :=
  match s.waveOf tok with
  | some i =>
    if t < 16 ∧ (s.waveAt i).wbp.isSome then
      (s.saveLine i (768 + t)).updWave i fun w => { w with cold := if w.cold.contains (768 + t) then w.cold else (768 + t) :: w.cold }
    else s
  | none => s
/-- Tile slots after an operation names tiles, of which `all` are its own (R308): none when no slot can be taken. -/
def State.takeSlotsOf (s : State) (core : Nat) (tok : Dword) (all : List Nat) : List Nat → Option State
  | [] => some s
  | t :: ts =>
    let used := s.slots.filter fun e => e.1 == core
    let rest := s.slots.filter fun e => e != (core, tok, t)
    if used.contains (core, tok, t) ∨ used.length < 16 then
      ({ s with slots := (core, tok, t) :: rest } : State).takeSlotsOf core tok all ts
    else
      match (used.filter fun e => !s.tileBusy e.2.1 e.2.2 && !(e.2.1 == tok && all.contains e.2.2)).getLast? with
      | some v => (({ s with slots := (core, tok, t) :: rest.filter (· != v) } : State).evictTile v.2.1 v.2.2).takeSlotsOf core tok all ts
      | none => none
def State.takeSlots (s : State) (core : Nat) (tok : Dword) (ts : List Nat) : Option State := s.takeSlotsOf core tok ts ts

/-- Tile of the frag result of the issuing instruction: that of the accumulator register that the bundle names for it (R306). -/
def State.resTile (s : State) : Nat :=
  match s.issue.dsts.head? with
  | some d => if isAcc d.1 then d.1 - 856 else fragTile s.issue.loc s.issue.loc.vnum
  | none => fragTile s.issue.loc s.issue.loc.vnum

/-- The core that holds the window of a quern in a cycle (R309). -/
def windowCore (q c : Nat) : Nat := 2 * q + c / 4 % 2
/-- An operation that writes memory. -/
def QuernOp.stores (q : QuernOp) : Bool :=
  match q.instr with
  | .mst .. => true
  | _ => false
/-- Operations queued at a quern from a core. -/
def State.queuedOps (s : State) (die cluster q core : Nat) : Nat :=
  (s.quern.filter fun o => o.die == die && o.cluster == cluster && o.quern == q && decide (o.stage < 2) &&
    ((s.waveOf o.wave).any fun i => (s.waveAt i).core == core)).length

/-- The core of a wave holds the window of its quern now: on FC under ordered mode, else on the clock (R309, R397). -/
def State.windowOpen (s : State) (w : Nat) : Bool := (s.waveAt w).core % 4 == windowCore ((s.waveAt w).core % 4 / 2) (s.sleepNow w)

/-- The quern takes an operation of a wave now: the wave's core holds the window and has fewer than 8 operations queued. -/
def State.quernOpen (s : State) (w : Nat) : Bool :=
  let wv := s.waveAt w
  s.windowOpen w && decide (s.queuedOps wv.die (wv.core / 4) (wv.core % 4 / 2) wv.core < 8)

/-- The conduct of an operation sent to the quern: the wait of an opfence (R288), the wait for the quern (a full queue refuses a stamped operation,
R399), slots; then it is accepted and the group goes on. -/
def State.toQuern (s : State) (i : Instr) (dst : Nat) (srcs : List Nat) (vals : List Val) (nres : Nat) : State :=
  if s.wv.opfence && !(s.quiet && !s.quern.any fun q => q.wave == s.wv.token && q.stores && decide (q.stage < 2)) then s.stall
  else if !s.quernOpen s.issue.wave then
    (if s.ordered && s.windowOpen s.issue.wave then s.faultAll (causeT 0x31 1) else s.updWv fun w => { w with qoffer := true })
  else
    match s.takeSlots s.gcore s.wv.token (dst :: srcs) with
    | none => s.stall
    | some t =>
      let q : QuernOp :=
        { die := s.wv.die, cluster := s.cluster, quern := s.quernOf, wave := s.wv.token, loc := s.issue.loc, instr := i, dst := dst,
          srcs := srcs, vals := vals, stage := 0, undef := []
          taint := (dst :: srcs).any fun t => s.wv.tilePend.any fun e => e.1 == t && decide (s.cycle < e.2) }
      ({ t with quern := t.quern ++ [q] } : State).updWv (fun w => { w with qoffer := false, opfence := false })
        |>.finish fun _ => List.replicate nres 0

/-- Event (R309): the quern takes the operation that wave `w` waits to send, whose bundle then issues. -/
def execQuernAccept (d c q w : Nat) (s : State) : Outcome :=
  let wv := s.waveAt w
  .next (if wv.live && wv.qoffer && wv.die == d && wv.core / 4 == c && wv.core % 4 / 2 == q && s.quernOpen w then
    s.updWave w fun v => { v with qoffer := false }
  else s)

/-! ## mma and mmamx (R318, R319) -/

/-- The faults that mma and mmamx find, in order; `pads` are the offsets of 16-byte pieces and of scale bytes. -/
def State.mmaCause (s : State) (resv : Bool) (k : Nat) (pieces scales : List Nat) (afrag : Bool) : Option Cause :=
  if resv then some (causeT 0x26 6)
  else if k % 32 ≠ 0 ∨ k < 32 ∨ 4096 < k then some (causeT 0x26 5)
  else if pieces.any (fun p => decide (s.wg.spadB < p + 16)) ∨ scales.any (fun p => decide (s.wg.spadB ≤ p)) then
    some (causeT 0x26 3)
  else if afrag ∧ k ≠ tileTN s.wv.die then some (causeT 0x26 5)
  else none

def descReserved (v : Val) (mx : Bool) : Bool := elemAt v 64 0 % 2 ^ 7 != 0 || (mx && elemAt v 64 1 % 2 ^ 30 != 0)

def State.mmaIssue (s : State) (i : Instr) (fa fb : Ty) (afrag mx : Bool) (c a b k : Opnd) : State :=
  let va := s.uni tyV2n64 a
  let vb := s.uni tyV2n64 b
  let n := s.uniNat tyN32 k
  let gs := n / 32
  let da := Desc.ofVal va
  let db := Desc.ofVal vb
  let small := decide (n ≤ 4096)
  let pieces := if !small then [] else
    (if afrag then [] else da.pieces (opWidth fa) (tileTM s.wv.die) gs) ++ db.pieces (opWidth fb) (tileTN s.wv.die) gs
  let scales := if !small || !mx then [] else da.scales (tileTM s.wv.die) gs ++ db.scales (tileTN s.wv.die) gs
  let ls := s.absentOf ((pieces.map fun p => (p, 16)) ++ scales.map fun p => (p, 1))
  if !ls.isEmpty then s.parkPresence ls
  else
    match s.mmaCause ((!afrag && descReserved va mx) || descReserved vb mx) n pieces scales afrag with
    | some e => s.faultAll e
    | none =>
      s.toQuern i s.resTile (s.tileOpnd c :: (if afrag then [s.tileOpnd a] else []))
        [if afrag then 0 else va, vb, BitVec.ofNat 256 n] 1

def execMzero (s : State) : Outcome := .next (s.toQuern .mzero s.resTile [] [] 1)
def execMma (aFmt bFmt : Elem) (afrag sat : Bool) (c a b k : Opnd) (s : State) : Outcome :=
  .next (s.mmaIssue (.mma aFmt bFmt afrag sat c a b k) (.num .s1 aFmt) (.num .s1 bFmt) afrag false c a b k)
def execMmamx (aFmt bFmt : Ty) (c a b k : Opnd) (s : State) : Outcome :=
  .next (s.mmaIssue (.mmamx aFmt bFmt c a b k) aFmt bFmt false true c a b k)
def execMtrans (t : Opnd) (s : State) : Outcome := .next (s.toQuern (.mtrans t) s.resTile [s.tileOpnd t] [] 1)

/-! ## mld and mst (R320, R321) -/

/-- Bytes of an element in memory by the format code. -/
def fmtBytes (fmt : Nat) : Nat := if fmt % 8 = 0 then 4 else 2
def fmtElem (fmt : Nat) : Elem := if fmt % 8 = 0 then .f32 else if fmt % 8 = 1 then .bf16 else .f16

/-- Causes of the checks of R320 and R321, each with the address of its record. -/
def State.tileCauses (s : State) (sp : Space) (wr : Bool) (addr pitch e : Nat) : List (Cause × Nat) :=
  let tm := tileTM s.wv.die
  let row := tileTN s.wv.die * e
  (if addr % 16 ≠ 0 ∨ pitch % 16 ≠ 0 then [(cause 0x23, addr)] else []) ++
  (if sp = .spad then (if s.wg.spadB < addr + (tm - 1) * pitch + row then [(causeT 0x26 3, addr)] else [])
   else (List.range tm).filterMap fun i =>
    (s.rangeCause (s.accOf s.wv sp (!wr) wr) (addr + i * pitch) row).map fun c => (c, addr + i * pitch))

/-- The highest cause, the first among equals. -/
def firstCause (cs : List (Cause × Nat)) : Option (Cause × Nat) :=
  cs.foldl (fun best x =>
    match best with
    | none => some x
    | some b => if causeRank x.1.code < causeRank b.1.code then some x else some b) none

def State.tilePads (s : State) (sp : Space) (addr pitch e : Nat) : List (Nat × Nat) :=
  if sp = .spad then (List.range (tileTM s.wv.die)).map fun i => (addr + i * pitch, tileTN s.wv.die * e) else []

def execMld (m : MMod) (addr pitch : Opnd) (fmt : BitVec 30) (s : State) : Outcome :=
  let a := s.uniNat (addrTy m.space) addr
  let p := s.uniNat tyN32 pitch
  let ls := s.absentOf (s.tilePads m.space a p (fmtBytes fmt.toNat))
  .next (if !ls.isEmpty then s.parkPresence ls
    else
      match (s.tileCauses m.space false a p (fmtBytes fmt.toNat)).head? with
      | some c => s.fault c.1 s.active 0 c.2
      | none => s.toQuern (.mld m addr pitch fmt) s.resTile [] [BitVec.ofNat 256 a, BitVec.ofNat 256 p] 1)

/-- The atomfmax.f32 that an mst asks for (R321). -/
def State.amaxOp (_ : State) (m : MMod) (amax : Nat) : AtomOp :=
  { opc := 0x208, ty := tyF32, m := { m with space := .global, ord := if 2 ≤ m.ord.code then .release else .relaxed },
    addr := fun _ => amax, v := fun _ => 0, v2 := fun _ => 0 }

def execMst (m : MMod) (addr pitch t : Opnd) (fmt : BitVec 30) (amax : Opnd) (s : State) : Outcome :=
  let a := s.uniNat (addrTy m.space) addr
  let p := s.uniNat tyN32 pitch
  let x := s.uniNat tyA64 amax
  let cs := s.tileCauses m.space true a p (fmtBytes fmt.toNat) ++
    (if fmt.toNat / 8 % 2 = 1 then (errOf (s.atomLoc (s.amaxOp m x) none s.lowLane)).toList.map fun c => (c, x) else [])
  let ls := s.absentOf (s.tilePads m.space a p (fmtBytes fmt.toNat))
  .next (if !ls.isEmpty then s.parkPresence ls
    else
      match firstCause cs with
      | some c => s.fault c.1 s.active 0 c.2
      | none =>
      if 2 ≤ m.ord.code ∧ !s.quiet then s.stall
      else
        s.toQuern (.mst m addr pitch t fmt amax) (s.tileOpnd t) [] [BitVec.ofNat 256 a, BitVec.ofNat 256 p, BitVec.ofNat 256 x] 0)

/-! ## Completion (R309, R312-R321) -/

/-- Bytes of the 16-byte unit that holds byte `b` of the wave's tile image in memory: the place of each row unit. -/
def State.unitPlace (s : State) (sp : Space) (wr : Bool) (va : Nat) : Except Cause Place :=
  if sp = .spad then .ok (.spad va)
  else
    match s.xlate (s.accOf s.wv sp (!wr) wr) va with
    | .error c => .error c
    | .ok p => .ok (.phys va p)

/-- Offsets from `addr` of the 16-byte units of a tile image. -/
def unitOffs (tm row pitch : Nat) : List (Nat × Nat) :=
  (List.range tm).flatMap fun i => (List.range (row / 16)).map fun u => (i, i * pitch + 16 * u)

/-- mld completes: the tile, or a late cause with an undefined tile. -/
def State.mldDone (s : State) (q : QuernOp) (m : MMod) (fmt a p : Nat) : State :=
  let e := fmtBytes fmt
  let units := (unitOffs (tileTM s.wv.die) (tileTN s.wv.die * e) p).map fun u => (u, s.unitPlace m.space false (a + u.2))
  let asks := (units.filterMap fun u =>
    match u.2 with
    | .ok pl => pl.fabPhys.map fun x => x.askLine m
    | .error _ => none).eraseDups
  let l := { q.loc with vnum := q.dst }
  if !s.fabReady q.wave l asks then s.fabAskAll s.wv.die q.wave l asks
  else
    let bad := units.findSome? fun u =>
      match u.2 with
      | .error c => some (c.code, a + u.1.2, s.wv.die)
      | .ok pl =>
        match pl.fabPhys with
        | some x => if s.fabCause q.wave l (x.askLine m) ≠ 0 then some (s.fabCause q.wave l (x.askLine m), a + u.1.2, x.home) else none
        | none => if s.placeBad m 16 pl then some (0x80, a + u.1.2, (match pl with | .phys _ x => x.home | _ => s.wv.die)) else none
    let bytes := units.flatMap fun u =>
      match u.2 with
      | .ok pl =>
        (match pl.fabPhys with
         | some x => s.fabBytes q.wave l (x.askLine m) (x.dpa % 128) 16
         | none => (s.met 16 pl).placeRead m 16 pl)
      | .error _ => List.replicate 16 0
    let t := s.fabDrop q.wave l
    match bad with
    | some (c, va, die) => (t.freeTile q.dst).asyncFaultAt die c va (some q.dst)
    | none =>
      let tn := tileTN s.wv.die
      let t := units.foldl (fun t u =>
        match u.2 with
        | .ok (.phys va x) => (t.touch (s.accOf s.wv m.space true false) va x).afterRead m (.phys va x)
        | _ => t) t
      let arr := bytes.toArray
      t.updWv fun w => w.setTile q.dst fun i j =>
        let o := (i * tn + j) * e
        let c := natOfBytes ((List.range e).map fun b => arr.getD (o + b) 0)
        if e = 4 then c else (fConvert (fmtElem fmt) .f32 exactMod 0 c).1

/-- The bytes of a row of a tile as mst writes them. -/
def Wave.rowBytes (w : Wave) (t fmt i : Nat) : List Byte :=
  (List.range (tileTN w.die)).flatMap fun j =>
    let c := w.tileAt t i j
    if fmt % 8 = 0 then bytesOfNat 4 c else bytesOfNat 2 (fConvert .f32 (fmtElem fmt) exactMod 0 c).1

/-- Runs of bytes of a place: scratchpad or not, offset or location, length. -/
def Place.vruns (n : Nat) : Place → List (Bool × Nat × Nat)
  | .spad off => [(true, off, n)]
  | p => (p.vranges n).map fun r => (false, r.1, r.2)
/-- The tile writes of an mst, as 16-byte stores that remember the tile. Bytes that R326 makes undefined are free values. -/
def State.mstWrites (s : State) (q : QuernOp) (m : MMod) (fmt a p : Nat) : State :=
  let e := fmtBytes fmt
  let row := tileTN s.wv.die * e
  let n := s.nextId
  let t := (unitOffs (tileTM s.wv.die) row p).foldl (fun t u =>
    match t.unitPlace m.space true (a + u.2) with
    | .error c => t.asyncFault c.code (a + u.2) none
    | .ok pl =>
      let hole := fun (k : Nat) => q.taint || (pl.vruns 16).any fun x => q.undef.any fun r =>
        r.1 == x.1 && decide (r.2.1 ≤ x.2.1 + k) && decide (x.2.1 + k < r.2.1 + r.2.2)
      let bs := (((s.wv.rowBytes q.dst fmt u.1).drop (u.2 - u.1 * p)).take 16).zipIdx.map fun b =>
        if hole b.2 then (Config.freeValue (s.freeCnt + 16 * u.2 + b.2)).setWidth 8 else b.1
      (t.touchPlace (t.accOf t.wv m.space false true) pl).placeWrite m (a + u.2) bs pl) s
  { t with
    freeCnt := if q.taint || !q.undef.isEmpty then s.freeCnt + 32 * (tileTM s.wv.die * (p + row)) else t.freeCnt
    msgs := t.msgs.map fun x => if n ≤ x.id && x.wave == q.wave then { x with tile := some q.dst } else x }

/-- The fmax of the absolute values of a tile. -/
def Wave.tileMax (w : Wave) (t : Nat) : Nat :=
  ((List.range (tileTM w.die)).flatMap fun i => (List.range (tileTN w.die)).map fun j => fAbs .f32 (w.tileAt t i j)).foldl
    (fun m c => (fMinMax false .f32 false m c).1) (fAbs .f32 (w.tileAt t 0 0))

/-- The amax update performs: held with the reductions under merged determinism (R303). -/
def State.amaxUpdate (s : State) (m : MMod) (x : Nat) (v : Nat) (tile : Nat) : State :=
  match s.laneLoc .global true true 0 x 4 4 with
  | .ok (.phys va p) =>
    let s := s.touch (s.accOf s.wv .global true true) va p
    if s.merged then
      (if s.remoteCause p ≠ 0 then s.turnAway va p (s.remoteCause p)
       else s.holdReds [{ key := p.key, va := dw va, window := none, tfdn := if eFab p.leaf then some (eTfdn p.leaf) else none, lanes := 1,
                          op := 0x208, ty := tyF32, v := BitVec.ofNat 256 v, keyid := eKeyid p.leaf }])
    else if eFab p.leaf || p.home != s.wv.die then
      s.sendWrite { m with ord := if 2 ≤ m.ord.code then .release else .relaxed } va p (.rmw 0x208 tyF32 [BitVec.ofNat 256 v]) (some tile)
    else if s.remoteCause p ≠ 0 then s.asyncFault (s.remoteCause p) va none
    else ((s.l1Drop s.gcore (lineOf p.key) 0).meet p 4).homeRmw p.key 0x208 tyF32 [(BitVec.ofNat 256 v, 0)]
  | .ok _ => s
  | .error c => s.asyncFault c.code x none

/-- The stage of an operation changes. -/
def State.setStage (s : State) (q : QuernOp) (n : Nat) : State :=
  { s with quern := s.quern.map fun o => if o == q then { q with stage := n } else o }

/-- What the operation at the head of a quern does, for its wave. -/
def State.quernRun (s : State) (q : QuernOp) : State :=
  let w := s.wv
  let tm := tileTM w.die
  let dsc := fun i => Desc.ofVal (q.vals.getD i 0)
  let rd := fun a => (cget memDflt s.wg.spad a).toNat
  let k := (q.vals.getD 2 0).toNat
  let fin := fun (t : State) =>
    let t := if q.taint then t.freeTile q.dst else t
    let t := if t.wv.faulted ∧ q.dst < 16 then t.saveLine t.issue.wave (768 + q.dst) else t
    t.setStage q 2
  match q.instr with
  | .mzero => fin (s.updWv fun w => w.setTile q.dst fun _ _ => 0)
  | .mma fa fb afrag sat _ _ _ _ =>
    let fm : FMod := { exactMod with sat := sat }
    let src := q.srcs.getD 1 0
    let a := fun i kk => if afrag then (fConvert .f32 fa fm 0 (w.tileAt src i kk)).1 else (dsc 0).elem rd fa.width i kk
    fin (s.updWv fun v => v.setTile q.dst fun i j =>
      mmaElem fa fb k (w.tileAt (q.srcs.getD 0 0) i j) (a i) fun kk => (dsc 1).elem rd fb.width j kk)
  | .mmamx fa fb _ _ _ _ =>
    let sc := fun (d : Desc) row g => rd (d.sbase + row * d.srpitch + g)
    fin (s.updWv fun v => v.setTile q.dst fun i j =>
      mmamxElem (mxWidth fa) (mxWidth fb) k (w.tileAt (q.srcs.getD 0 0) i j) (fun kk => (dsc 0).elem rd (mxWidth fa) i kk)
        (fun kk => (dsc 1).elem rd (mxWidth fb) j kk) (sc (dsc 0) i) (sc (dsc 1) j))
  | .mtrans _ =>
    fin (s.updWv fun v => v.setTile q.dst fun i j => w.tileAt (q.srcs.getD 0 0) (j % tm) (j / tm * tm + i))
  | .mld m _ _ fmt =>
    let t := s.mldDone q m fmt.toNat (q.vals.getD 0 0).toNat (q.vals.getD 1 0).toNat
    if t.fabReqs.any fun r => r.owner == q.wave && r.loc == { q.loc with vnum := q.dst } then t else fin t
  | .mst m _ _ _ fmt _ =>
    let moved := s.msgs.any (fun x => x.wave == q.wave) || !s.held.isEmpty
    if q.stage = 0 then
      if 2 ≤ m.ord.code ∧ moved then s
      else
      let t := s.mstWrites q m fmt.toNat (q.vals.getD 0 0).toNat (q.vals.getD 1 0).toNat
      t.setStage q (if fmt.toNat / 8 % 2 = 1 then 1 else 2)
    else if (s.msgs.any fun x => x.wave == q.wave && x.tile == some q.dst) || !s.held.isEmpty then s
    else
      let v := if q.taint then (Config.freeValue s.freeCnt).toNat % 2 ^ 32 else w.tileMax q.dst
      let x := (q.vals.getD 2 0).toNat
      let t := ({ s with freeCnt := s.freeCnt + bitOf q.taint } : State).amaxUpdate m x v q.dst
      (match s.unitPlace .global true x with
       | .ok pl =>
         if (pl.vruns 4).any fun r => q.undef.any fun u => u.1 == r.1 && decide (r.2.1 < u.2.1 + u.2.2) && decide (u.2.1 < r.2.1 + 4) then
           let f := t.takeFreeBytes 4
           f.2.placeWrite { m with space := .global } x f.1 pl
         else t
       | .error _ => t).setStage q 2
  | _ => s.setStage q 2

/-- Event (R309): the oldest operation of a quern performs and completes. -/
def execQuernOpComplete (d c q : Nat) (s : State) : Outcome :=
  match s.quern.find? fun o => o.die == d && o.cluster == c && o.quern == q && decide (o.stage < 2) with
  | none => .next s
  | some o =>
    match s.waveOf o.wave with
    | none => .next { s with quern := s.quern.erase o }
    | some wi => .next { (s.asWave wi 0 o.loc).quernRun o with issue := s.issue }

/-! ## mwait, mdesc, mquery (R322-R324) -/

/-- The operations that an mwait on a tile covers. -/
def QuernOp.names (q : QuernOp) (tok : Dword) (t : Nat) : Bool := q.wave == tok && (q.dst == t || q.srcs.contains t)
/-- An acquiring mld; in scratchpad no scope is wider than 2 (R264). -/
def QuernOp.acquires (q : QuernOp) : Bool :=
  match q.instr with
  | .mld m _ _ _ => m.ord.code % 2 == 1 && decide (3 ≤ m.scope.toNat) && decide (m.space ≠ .spad)
  | _ => false

def execMwait (t : Opnd) (s : State) : Outcome :=
  let n := s.tileOpnd t
  let tok := s.wv.token
  .next (if s.tileBusy tok n then s.stall
    else
      let acq := s.quern.any fun q => q.names tok n && q.acquires
      let covers := s.wv.pend.any fun p => p.tile.any fun x => x == n
      if covers then s.deliverOr s.done
      else
        let t := { s with quern := s.quern.filter fun q => !q.names tok n }
        (if acq then t.l1Acquire t.gcore else t).done)

/-- The cause of a lane's mdesc (R323). -/
def mdescCause (base rp tp rot sb sr : Nat) : Option Cause :=
  if base % 16 ≠ 0 ∨ rp % 16 ≠ 0 ∨ tp % 16 ≠ 0 ∨ sb % 16 ≠ 0 ∨ (rot ≠ 0 ∧ rp % 128 ≠ 0) then some (cause 0x23)
  else if 2 ^ 24 ≤ base ∨ 2 ^ 24 ≤ tp ∨ 2 ^ 24 ≤ sb ∨ 2 ^ 18 ≤ rp ∨ 2 ^ 14 ≤ sr ∨ 7 < rot then some (causeT 0x26 4)
  else none
/-- The descriptor (R310). -/
def mdescVal (base rp tp rot sb sr : Nat) : Val :=
  BitVec.ofNat 256 (base / 16 * 2 ^ 44 + rp / 16 * 2 ^ 30 + tp / 16 * 2 ^ 10 + rot * 2 ^ 7 +
    2 ^ 64 * (sb / 16 * 2 ^ 44 + sr * 2 ^ 30))
def execMdesc (base rpitch tpitch rot sbase srpitch : Opnd) (s : State) : Outcome :=
  let f := fun (o : Opnd) L => (s.opnd tyN32 o L).toNat
  .next (match s.laneFault
      (fun L => mdescCause (f base L) (f rpitch L) (f tpitch L) (f rot L) (f sbase L) (f srpitch L)) (fun _ => 0) with
    | some s' => s'
    | none => s.put fun L => mdescVal (f base L) (f rpitch L) (f tpitch L) (f rot L) (f sbase L) (f srpitch L))

def execMquery (code : BitVec 30) (s : State) : Outcome :=
  let c := code.toNat
  .next (s.put fun _ => BitVec.ofNat 256
    (if c = 0 then tileTM s.wv.die else if c = 1 then tileTN s.wv.die else if c = 2 then 4096 else s.quernOf))

end Sys2Proof.Machine
end

