-- ==== Sys2Proof/Machine/Native.lean ====
section
/-! DEFINITION. The native-only operations (03_tvedah_native.md R86-R101), over the native registers of the lanes, and the landings they
leave pending (R89-R91, R95). -/
namespace Sys2Proof.Machine

/-- A native operation of the group has issued: its bundle counts, and the portable place stays. -/
def State.nativeDone (s : State) : State :=
  s.updWv fun w => (w.mapLanes fun L l => if inMask s.active L then { l with bpos := l.bpos + 1 } else l).issued

def execNop (s : State) : Outcome := .next s.nativeDone

/-- R97. -/
def execMov (dst sa : BitVec 10) (hi : Bool) (lit : Option Word) (s : State) : Outcome :=
  let d := dst.toNat
  let v : Nat → Dword := fun L =>
    let x : Dword := match lit with
      | some k => k.setWidth 64
      | none => s.reg sa.toNat L
    if isVec d && hi then dw (x.toNat / 2 ^ 32) else x
  .next (s.nativeDone.updWv fun w => w.regWrite s.active d v)

/-- R101. -/
def execQmov (dst sa : BitVec 10) (s : State) : Outcome :=
  .next (s.nativeDone.updWv fun w => w.regWrite s.active dst.toNat fun L => s.reg sa.toNat L)
/-- LAT of a kmov (R96). -/
def kmovLat (die : Nat) : Nat := if dieClass die = 1 then 16 else 4
/-- A kmov waits while a matrix operation names one of its tiles (R308). The destination is undefined until LAT has passed (R101). -/
def execKmov (dst sa : BitVec 10) (s : State) : Outcome :=
  let d := dst.toNat - 856
  let a := sa.toNat - 856
  .next (if s.tileBusy s.wv.token d || s.tileBusy s.wv.token a then s.stall
    else
      let t := s.nativeDone.updWv fun w =>
        { w.copyTiles [(a, d)] with tilePend := (w.tilePend.filter fun e => e.1 != d && decide (s.cycle < e.2)) ++ [(d, s.cycle + kmovLat w.die)] }
      if s.wv.tilePend.any fun e => e.1 == a && decide (s.cycle < e.2) then t.freeTile d else t)

/-! ## Frame words (R88, R98) -/

/-- The private words that a lane's spill or fill moves: one, or two for a scalar register. -/
def frameCount (r : Nat) : Nat := if isScal r then 2 else 1
def State.frameWord (s : State) (imm : Nat) (callee : Bool) (L : Nat) : Nat :=
  (s.wv.lane L).fb + imm + (if callee then s.locFrame s.wv s.issue.here else 0)
/-- Where a lane's words lie: past private word 16,383 a fault, else the places of the words, with no limit P. -/
def State.framePlace (s : State) (r imm : Nat) (callee wr : Bool) (L : Nat) : Except Cause (List (Nat × Phys)) :=
  let w := s.frameWord imm callee L
  let k := frameCount r
  if 16383 < w + k - 1 then .error (cause 0x25) else s.wordPlaces (s.accOf s.wv .priv (!wr) wr) L w k
def State.framePhys (s : State) (r imm : Nat) (callee wr : Bool) (L : Nat) : List (Nat × Phys) :=
  match s.framePlace r imm callee wr L with
  | .ok ws => ws
  | .error _ => []

/-- The fault of a spill or fill, with the lane masks of a private access (R239). -/
def State.frameFault (s : State) (r imm : Nat) (callee wr : Bool) : Option State :=
  let vas := fun (L : Nat) =>
    let w := s.frameWord imm callee L
    if 16383 < w + frameCount r - 1 then [] else (List.range (frameCount r)).map fun i => s.wv.wordVa (w + i) L
  s.walkedFault (s.accOf s.wv .priv (!wr) wr) (s.activeLanes.flatMap vas) (fun L => errOf (s.framePlace r imm callee wr L)) (s.frameWord imm callee)

def execSpill (sa imm : BitVec 10) (callee : Bool) (s : State) : Outcome :=
  let r := sa.toNat
  .next (match s.frameFault r imm.toNat callee true with
    | some t => t
    | none =>
      (s.activeLanes.foldl (fun t L =>
        let ws := s.framePhys r imm.toNat callee true L
        (t.touchPlace (s.accOf s.wv .priv false true) (.words ws)).placeWrite wordMod (s.frameWord imm.toNat callee L)
          (bytesOfNat (4 * frameCount r) (s.reg r L).toNat) (.words ws)) s).nativeDone)

/-- An arrival cycle LAND cycles after issue. -/
def State.landsAt (s : State) (land r : Nat) (data : List (Nat × Nat × Dword)) : Landing :=
  { due := s.cycle + land, back := s.cycle + Config.returnCycles s.cycle s.wv.token r, entries := s.issue.entries, data := data }
/-- The data lands LAND cycles after issue; until then the lanes' destination is undefined. -/
def execFill (dst imm : BitVec 10) (callee : Bool) (land : BitVec 10) (s : State) : Outcome :=
  let r := dst.toNat
  .next (match s.frameFault r imm.toNat callee false with
    | some t => t
    | none =>
      let ws := s.framePhys r imm.toNat callee false
      let bad := maskOf fun L => inMask s.active L && s.placeBad wordMod 4 (.words (ws L))
      let u := s.activeLanes.foldl (fun u L => u.touchPlace (s.accOf s.wv .priv true false) (.words (ws L))) s
      let data := s.activeLanes.map fun L => (r, L, dw (natOfBytes ((ws L).flatMap fun w => u.wordRead s.gcore w.2.key)))
      let t := s.activeLanes.foldl (fun t L => t.afterRead wordMod (.words (ws L))) u
      let t := t.nativeDone
      if bad ≠ 0 then
        { ({ t with issue := { t.issue with land := land.toNat } } : State).lateFault (cause 0x80) bad 0
            (s.frameWord imm.toNat callee ((lanesOf bad).headD 0)) with issue := t.issue }
      else t.updWv fun w => { w with landings := w.landings ++ [s.landsAt land.toNat r data] })

/-! ## Landings (R90, R95, R99) -/

/-- Event (R90). -/
def execLanding (w : Nat) (s : State) : Outcome := .next (s.updWave w fun v => v.landDue s.cycle)

/-- R99: the wave is frozen while a landing is pending; that of an operation with a late cause is its arrival cycle (R240). -/
def execLand (s : State) : Outcome :=
  .next (if s.wv.landings.isEmpty && s.wv.late.all fun f => decide (f.due ≤ s.cycle) then s.nativeDone else s.stall)

/-- R95, R100: reserved bits of the literal are ignored. -/
def execFmtset (dst : BitVec 10) (lit : Word) (s : State) : Outcome :=
  .next (s.nativeDone.updWv fun w =>
    { w with fmPend := w.fmPend ++ [{ due := s.cycle + 5, reg := dst.toNat - 872, mask := s.active, v := lit &&& fmMask }] })

/-- R80: a bundle with no operation. -/
def execEmptyBundle (s : State) : Outcome := .next s.nativeDone

/-- What a native-only operation of a bundle does: the meaning of its row of the opcode table. -/
def NatOp.run : NatOp → State → Outcome
  | .mov d a h l => execMov d a h l
  | .spill a k c => execSpill a k c
  | .fill d k c l => execFill d k c l
  | .land => execLand
  | .fmtset d l => execFmtset d l
  | .kmov d a => execKmov d a
  | .qmov d a => execQmov d a

end Sys2Proof.Machine
end

