-- ==== Sys2Proof/Machine/Issue.lean ====
section
/-! DEFINITION. Groups, candidates and turns (04_control.md R133-R136, 15_determinism.md R395-R399, 18_power_package_trust.md R471), what a
wave meets before its bundle issues (R131, R240, R375, R420), and translation on demand (03_tvedah_native.md R121, R126-R131). -/
namespace Sys2Proof.Machine

/-! ## What a wave offers (R133, R134) -/

/-- Groups of the lanes that may run: in a continuation only its own lanes (R430). -/
def Wave.liveGroups (w : Wave) : List (Loc × Mask) :=
  (w.groups.map fun g => (g.1, if w.incont then g.2 &&& w.cmask else g.2)).filter fun g => g.2 != 0

def maskSize (m : Mask) : Nat := (lanesOf m).length
/-- Larger groups first; ties to the lower native address. -/
def State.groupBefore (s : State) (w : Wave) (a b : Loc × Mask) : Bool :=
  if maskSize a.2 = maskSize b.2 then decide ((s.nativeOf w a.1).toNat < (s.nativeOf w b.1).toNat) else decide (maskSize b.2 < maskSize a.2)
def State.insertGroup (s : State) (w : Wave) (g : Loc × Mask) : List (Loc × Mask) → List (Loc × Mask)
  | [] => [g]
  | x :: xs => if s.groupBefore w g x then g :: x :: xs else x :: s.insertGroup w g xs
def State.ranked (s : State) (i : Nat) : List (Loc × Mask) :=
  (s.waveAt i).liveGroups.foldl (fun l g => s.insertGroup (s.waveAt i) g l) []

/-- The wave belongs to an ordered gang (R395). -/
def State.isOrdered (s : State) (i : Nat) : Bool := (s.taskOfWg (s.waveAt i).wg).launch.dmode % 2 == 1

/-- The groups offered, the first first (R133, R136): one that the wave has not offered for 64 issues takes the place of the smaller, and under
ordered mode, where the turn takes the first only (R396), that of the larger. -/
def State.offers (s : State) (i : Nat) : List (Loc × Mask) :=
  let gs := s.ranked i
  match (s.waveAt i).offerNext.bind fun p => gs.find? fun g => g.1 == p with
  | some g => let rest := (gs.filter fun x => x != g).take 1; if s.isOrdered i then g :: rest else rest ++ [g]
  | none => gs.take 2
/-- Groups that the wave does not offer (R136), or does not offer first in a turn (R396). -/
def State.notOffered (s : State) (i : Nat) : List (Loc × Mask) :=
  let o := if s.isOrdered i then (s.offers i).take 1 else s.offers i
  (s.ranked i).filter fun x => !o.contains x
/-- The counts of issues, or turns, for which each group has not been offered. -/
def State.unofferedNow (s : State) (i : Nat) : List (Loc × Nat) :=
  (s.notOffered i).map fun x => (x.1, (((s.waveAt i).unoffered.find? fun e => e.1 == x.1).map Prod.snd).getD 0 + 1)

/-- Lanes of a wave that have issued in this cycle, and its bundles in this cycle's packet (R135). -/
def State.lanesIssued (s : State) (i : Nat) : Mask := (s.issued.filter fun e => e.1 == i).foldl (fun m e => m ||| e.2.1) 0
def State.bundlesIssued (s : State) (i : Nat) : Nat := (s.issued.filter fun e => e.1 == i).length
/-- What the wave still offers in this cycle: of its two groups, those that have not issued in it. -/
def State.offersLeft (s : State) (i : Nat) : List (Loc × Mask) :=
  if s.bundlesIssued i = 0 then s.offers i
  else
    (((s.offers i).map fun g => (g.1, g.2 &&& ~~~s.lanesIssued i)).filter fun g => g.2 != 0).take (2 - s.bundlesIssued i)

/-- The hold of a yield, or of a cluster that leaves gating, is over. -/
def State.holdOver (s : State) (w : Wave) : Bool := w.hold == 0 || decide (w.hold ≤ s.cycle + 1)

/-- A group waits for a scratchpad line: the wave is parked as a whole (R134, R249). -/
def Wave.waitsLine (w : Wave) : Bool :=
  w.lanes.any fun l => l.st == .parked && match l.wait with
    | .presence _ => true
    | _ => false
/-- The wave is in a state to issue: resident, not faulted, not held. -/
def State.mayIssue (s : State) (i : Nat) : Bool :=
  let w := s.waveAt i
  s.resident i && !w.faulted && w.contAsk.isNone && !w.waitsLine && s.holdOver w && !s.cutHolds i && !s.halted && !w.liveGroups.isEmpty &&
  !((s.wgAt w.wg).argsDue.isSome && w.num != 0)

/-! ## Translations on demand (R127, R129-R131, R426) -/

/-- The handler task that was made for the wave's failed translation has not reached DONE. -/
def State.handlerBusy (s : State) (i : Nat) : Bool := (s.waveAt i).xwait.any fun h => s.tasks.any fun t => t.handle == h && t.st != .done

/-- A failed translation of the wave may be delivered (FAILH, R426). -/
def State.failDue (s : State) (i : Nat) : Bool :=
  let w := s.waveAt i
  w.xfail.isSome && !s.handlerBusy i

/-- The translation in which a group stands is in the cache. -/
def State.hasImage (s : State) (i : Nat) (l : Loc) : Bool := (s.locImage (s.waveAt i) l).isSome

/-- The wave waits for a translation that somebody makes. -/
def State.waitsImage (s : State) (i : Nat) : Bool := s.transReqs.any fun r => r.waiters.contains (s.waveAt i).token

/-- Event (R127): the wave's next bundle lies in a function with no image for its key. A wave whose translation was evicted at fault 0x81 asks
for a retranslation, also of an image that is there (R129). -/
def execTranslationMiss (w : Nat) (s : State) : Outcome :=
  .next (if s.waves.length ≤ w ∨ !s.mayIssue w ∨ (s.waveAt w).xfail.isSome then s
    else
      let gs := s.offers w
      let absent := gs.find? fun g => !s.hasImage w g.1
      if (s.waveAt w).evicted then
        match absent.or gs.head? with
        | some g => (s.updWave w fun v => { v with evicted := false }).retranslate w g.1.handle (s.locKey (s.waveAt w) g.1)
        | none => s
      else
        match absent with
        | some g => s.requestTrans w g.1.handle (s.locKey (s.waveAt w) g.1)
        | none => s)

/-- Units of 64 KiB that an image takes. -/
def imageUnitCount (bytes : Nat) : Nat := max 1 ((bytes + 65535) / 65536)
/-- The first run of `n` free units, of 4,096. -/
def State.freeUnits (s : State) (d n : Nat) : Option Nat :=
  let used := s.usedUnits d
  let starts := 0 :: used.map (· + 1)
  (starts.filter fun u => u + n ≤ 4096 && (List.range n).all fun k => !used.contains (u + k)).min?
/-- The unpinned image of a die that was used least recently. -/
def State.evictable (s : State) (d : Nat) : Option TransImage :=
  ((s.images.filter fun i => i.die == d && !s.pinned i)).foldl (fun b i =>
    match b with
    | none => some i
    | some x => if i.lastUse < x.lastUse then some i else some x) none
/-- Evictions until `n` units in a row are free; none when every image is pinned. -/
def State.makeRoom (s : State) (d n : Nat) : Nat → Option (Nat × State)
  | 0 => none
  | k + 1 =>
    match s.freeUnits d n with
    | some u => some (u, s)
    | none =>
      match s.evictable d with
      | some i => ({ s with images := s.images.erase i } : State).makeRoom d n k
      | none => none

/-- Event (R127): request `n` of the translators of die `d` is served. -/
def execTranslationComplete (d n : Nat) (s : State) : Outcome :=
  .next (match (s.transReqs.filter fun r => r.die == d)[n]? with
    | none => s
    | some r =>
      match s.moduleOf r.handle, s.funcOf r.handle r.key.func with
      | some m, some f =>
        let x := translate m f r.key.cls r.key.budget r.key.dmode
        let out : State := { s with transReqs := s.transReqs.erase r }
        let waiters := r.waiters.filterMap s.waveOf
        (match x.fail with
         | some why =>
           waiters.foldl (fun t i =>
             let v := t.waveAt i
             let u := if bit (s.dieGet d 0x020) 2 then
                 t.notice (t.taskOfWg v.wg).ctx { eventRec 0x10 (dw (r.key.budget + why * 2 ^ 16)) with die := d, wave := v.token }
               else t
             let made := (u.tasks.find? fun x => x.handler && !t.tasks.any fun y => y.handle == x.handle).map Task.handle
             u.updWave i fun w => { w with xfail := some why, migrate := w.retr == some r.key, xwait := made }) out
         | none =>
           let bs := x.bytes r.key
           match out.makeRoom d (imageUnitCount bs.length) 4096 with
           | none => s
           | some (u, t) =>
             let i : TransImage :=
               { die := d, unit := u, units := imageUnitCount bs.length, key := r.key, code := x.code, maps := x.maps, pool := x.pool,
                 framew := x.framew, minb := x.minb, plan := x.plan, starts := x.starts, places := x.places, scal := x.scal, stale := false, users := [], lastUse := (s.dieAt d).clock }
             let k := physKey d (Config.reservation + 65536 * u)
             let t := t.meetKey k bs.length 0
             { t with images := (t.images.filter fun j => !(j.die == d && j.key == r.key && !(j.stale && t.pinned j))) ++ [i]
                      mem := putBytes t.mem k bs })
      | _, _ => { s with transReqs := s.transReqs.erase r })

/-- A stale image with no wave in it is removed (R445). -/
def State.dropStale (s : State) : State :=
  if s.images.any TransImage.stale then { s with images := s.images.filter fun i => !i.stale || s.pinned i } else s

/-! ## Migration (R130, R131) -/

/-- The budget at which the wave's translations are to run: never raised while the wave lives (R87). -/
def State.budgetOf (s : State) (i : Nat) : Nat := min (s.waveAt i).budget (s.wgAt (s.waveAt i).wg).budget
/-- The group stands before a bundle with a block-start or a return map point, in a translation at another budget. -/
def State.mustMigrate (s : State) (i : Nat) (l : Loc) : Bool :=
  l.bud != s.budgetOf i && (s.bundleAt (s.waveAt i) l).any fun b => b.first || b.back
def State.migrationPoint (s : State) (i : Nat) : Option Loc := ((s.offers i).find? fun g => s.mustMigrate i g.1).map Prod.fst

/-- The return bundles of a block, in order. -/
def TransImage.backs (i : TransImage) (b : Nat) : List Nat :=
  (List.range i.plan.length).filter fun n => (i.plan[n]?).any fun x => x.back && x.block == b
/-- The bundle of another translation of the function that has the same map point. -/
def TransImage.pointIn (old new : TransImage) (l : Loc) : Nat :=
  match old.plan[l.bun]? with
  | some b => if b.first then new.starts.getD b.block 0 else (new.backs b.block).getD ((old.backs b.block).idxOf l.bun) 0
  | none => 0

/-- An entry of a live list (R123): the value, its kind, and its register, slot or literal. -/
def liveVal (e : Word) : Nat := e.toNat / 4096
def liveKind (e : Word) : Nat := e.toNat / 1024 % 4
def liveAt (e : Word) : Nat := e.toNat % 1024
/-- Frame words that a spilled value holds (R98, R111). -/
def TransImage.slotWords (x : TransImage) (tys : List Ty) (v : Nat) : Nat := if x.scal.contains v then 2 else regCount (tys.getD v .none)
/-- The bits of a live value in lane `L` of the issuing wave, in its place in the old record. -/
def State.liveBits (s : State) (old : TransImage) (tys : List Ty) (e : Word) (L : Nat) : Val :=
  let v := liveVal e
  if liveKind e = 0 then
    let n := regCount (tys.getD v .none)
    if isVec (liveAt e) then BitVec.ofNat 256 ((List.range n).foldl (fun x i => x + (s.wv.regRead (liveAt e + i) L).toNat * 2 ^ (32 * i)) 0)
    else (s.wv.regRead (liveAt e) L).setWidth 256
  else if liveKind e = 2 then (old.pool.getD (liveAt e) 0).setWidth 256 + ((old.pool.getD (liveAt e + 1) 0).setWidth 256 <<< 128)
  else
    match s.wordPlaces (s.accOf s.wv .priv true false) L ((s.wv.lane L).fb + liveAt e) (old.slotWords tys v) with
    | .ok ws => BitVec.ofNat 256 (natOfBytes (ws.flatMap fun w => s.wordRead s.gcore w.2.key))
    | .error _ => 0
/-- A live value goes to its place in the new record: registers, or words of the frame. -/
def State.placeLive (s : State) (new : TransImage) (m : Mask) (tys : List Ty) (e : Word) (bits : Nat → Val) : State :=
  let v := liveVal e
  if liveKind e = 0 then s.updWv fun w => w.putRegs m [(liveAt e, regCount (tys.getD v .none))] fun L => [bits L]
  else if liveKind e = 1 then
    let n := new.slotWords tys v
    (lanesOf m).foldl (fun s L =>
      match s.wordPlaces (s.accOf s.wv .priv false true) L ((s.wv.lane L).fb + liveAt e) n with
      | .ok ws => s.wordsPut ws (bytesOfNat (4 * n) (bits L).toNat)
      | .error _ => s) s
  else s
/-- The live values of the record at a location, with their places there and in another translation of its function. -/
def State.liveMoves (s : State) (i : Nat) (l : Loc) (new : TransImage) : List (Word × Word) :=
  match s.locImage (s.waveAt i) l with
  | none => []
  | some old =>
    let liveOf := fun (x : TransImage) (k : Nat) => ((x.maps.find? fun r => (x.plan[k]?).any fun b => b.boff == r.boff).map MapRec.live).getD []
    let was := liveOf old l.bun
    (liveOf new (old.pointIn new l)).filterMap fun e => (was.find? fun o => liveVal o == liveVal e).map fun o => (o, e)
def State.liveTypes (s : State) (l : Loc) : List Ty := ((s.funcOf l.handle l.func).map FuncInfo.valTy).getD []
/-- Lines of the register space that hold a live value. -/
def liveLines (tys : List Ty) (e : Word) : List Nat :=
  if liveKind e ≠ 0 then []
  else if isAcc (liveAt e) then [768 + (liveAt e - 856)]
  else if isVec (liveAt e) then (List.range (regCount (tys.getD (liveVal e) .none))).map (liveAt e + ·) else []
/-- Frame words of the results of the call before a return bundle, which its fills read (R115). -/
def TransImage.resultWords (x : TransImage) (tys : List Ty) (n : Nat) : Nat :=
  match x.plan[n]?, (x.plan[n - 1]?).bind fun b => (b.ops.filterMap BundleOp.own).getLast? with
  | some b, some k =>
    let p := x.places.getD b.block []
    if !b.back then 0
    else
      let v := (p.getD k (0, 0)).2
      ((List.range ((p.getD (k + 1) (0, v)).2 - v)).map fun j => regCount (tys.getD (v + j) .none)).foldl (· + ·) 0
  | _, _ => 0
/-- They go along with the callee's frame, which begins at the frame size of the translation. -/
def State.moveResults (t s : State) (m : Mask) (old new : TransImage) (n : Nat) : State :=
  (lanesOf m).foldl (fun t L =>
    let fb := (s.wv.lane L).fb + 4
    match s.wordPlaces (s.accOf s.wv .priv true false) L (fb + old.framew) n, s.wordPlaces (s.accOf s.wv .priv false true) L (fb + new.framew) n with
    | .ok ws, .ok ds => t.wordsPut ds (ws.flatMap fun w => s.wordRead s.gcore w.2.key)
    | _, _ => t) t
/-- The lanes at a location go on in another translation of its function: each live value is copied from its place in the old record to that in the
new one, all of them together. The first bundle of a block starts its BPOS, and a return point has the place of its bundle (R399). -/
def State.moveGroup (s : State) (i : Nat) (l : Loc) (new : TransImage) : State :=
  match s.locImage (s.waveAt i) l with
  | none => s
  | some old =>
    let s₀ := s.issue
    let s : State := { s with issue := { s.issue with wave := i } }
    let w := s.waveAt i
    let n := old.pointIn new l
    let l' := new.bunLoc { l with bud := new.key.budget } n
    let m := maskOf fun L => (w.lane L).st == .running && (w.lane L).pc == l
    let tys := s.liveTypes l
    let moves := s.liveMoves i l new
    let tiles := moves.filter fun p => liveKind p.1 == 0 && isAcc (liveAt p.1)
    let t := (moves.filter fun p => decide (liveKind p.1 < 3) && !(liveKind p.1 == 0 && isAcc (liveAt p.1))).foldl (fun t p =>
      t.placeLive new m tys p.2 (s.liveBits old tys p.1)) s
    let t := t.updWv fun w => w.copyTiles (tiles.map fun p => (liveAt p.1 - 856, liveAt p.2 - 856))
    let t := t.moveResults s m old new (old.resultWords tys l.bun)
    let pos := ((new.plan[n]?).map Bundle.cyc).getD 0
    { t.updWv fun w => w.mapLanes fun L x => if inMask m L then { x with pc := l', bpos := pos } else x with issue := s₀ }
/-- The lines that the copies name, and that a restore has left in the register space, are brought back first (R436); one in error is a fault (R423). -/
def State.migrateGroup (s : State) (i : Nat) (l : Loc) (new : TransImage) : State :=
  let w := s.waveAt i
  let ls := ((s.liveMoves i l new).flatMap fun p => liveLines (s.liveTypes l) p.1 ++ liveLines (s.liveTypes l) p.2).eraseDups.filter w.cold.contains
  match ls.find? (s.lineBad i) with
  | some n =>
    let m := maskOf fun L => (w.lane L).st == .running && (w.lane L).pc == l
    s.faultAt i m l (cause 0x80) m 0 (dw ((w.wbp.getD 0).toNat + spaceOff w.die n))
  | none => (ls.foldl (fun s n => s.fillLine i n) s).moveGroup i l new

/-- Event (R130, R131): a group that stands at such a point goes on in the translation at the new budget; the request for that
translation is a retranslation, which counts once for the wave. -/
def execWaveMigrate (w : Nat) (s : State) : Outcome :=
  .next (if s.waves.length ≤ w ∨ !s.resident w ∨ (s.waveAt w).faulted ∨ (s.waveAt w).xfail.isSome then s
    else
      match s.migrationPoint w with
      | none => s
      | some l =>
        let b := s.budgetOf w
        let k := { s.locKey (s.waveAt w) l with budget := b }
        let s' := s.updWave w fun v => { v with budget := b }
        let v := s'.waveAt w
        let asked := v.retr == some k || v.lanes.any fun x => x.st != .exited && s'.locKey v x.pc == k
        let due := (s'.freshImage v.die k).isSome || s'.transReqs.any fun r => r.die == v.die && r.key == k && r.waiters.contains v.token
        let t := if !asked then s'.retranslate w l.handle k else if due then s' else s'.joinTrans v l.handle k
        match t.freshImage (t.waveAt w).die k with
        | some new =>
          if (t.waveAt w).landings.any fun x => decide (t.cycle < x.back) then t
          else (t.updWave w Wave.landAll).migrateGroup w l new
        | none => t)

/-! ## Before the bundle issues -/

/-- A late cause is delivered at the first bundle at or after its arrival (R240, R420). -/
def State.deliverLate (s : State) (i : Nat) (g : Loc × Mask) : Option State :=
  match (s.waveAt i).late.find? fun f => decide (f.due ≤ s.cycle) with
  | none => none
  | some f =>
    let r := { s.mkRec (s.waveAt i) f.loc { code := f.cause, tag := f.tag } f.prim f.sec f.addr with late := true, die := f.die }
    some ((s.updWave i fun w => { w with late := w.late.erase f }).takeFault i g.2 g.1 r)

/-- Before the first bundle of a wave: the read of the task's count, an acquire at scope 6 by the first bundle of the workgroup (R379), the argument
block, while lines of it are awaited or its read has failed, and the entry frame (R375). -/
def State.firstBundle (s : State) (i : Nat) (g : Loc × Mask) : State × Bool :=
  let w := s.waveAt i
  if w.retired ≠ 0 then (s, false)
  else
    let s := if (s.wavesOf w.wg).all fun j => (s.waveAt j).retired == 0 then s.l1Acquire (globalCore w.die w.core) else s
    let s := if w.num = 0 ∧ (s.wgAt w.wg).argsDue.any fun c => c.1 == 0 then s.takeArgs w.wg else s
    match (s.wgAt w.wg).argsDue with
    | some c => if c.1 = 0 then (s, true) else (s.faultAt i g.2 g.1 { code := c.1, tag := 6 } g.2 0 c.2, true)
    | none =>
      let p := (s.taskOfWg w.wg).launch.pwords
      let f := s.locFrame w g.1
      if 16384 < p + f then (s.faultAt i g.2 g.1 (causeT 0x25 1) g.2 0 (dw (p + f)), true) else (s, false)

/-- Lines of the register space that an operation of a bundle names: those of its sources and, for the lanes that it leaves as they are, of its vector
results. -/
def BundleOp.lines (o : BundleOp) : List Nat :=
  let run := fun (r n : Nat) => if isVec r then (List.range n).map (r + ·) else if isAcc r then [768 + (r - 856)] else []
  let vec := fun (r : Nat) => if isVec r then [r] else []
  o.srcs.flatMap (fun e => run e.2.1 e.2.2) ++ o.dsts.flatMap (fun d => if isVec d.1 then run d.1 d.2 else []) ++
  (match o.nat with
   | some (.mov d a _ _) => vec d.toNat ++ vec a.toNat
   | some (.spill a _ _) => vec a.toNat
   | some (.fill d _ _ _) => vec d.toNat
   | some (.qmov d a) => vec d.toNat ++ vec a.toNat
   | some (.kmov _ a) => run a.toNat 1
   | _ => [])
/-- A bundle reads registers and tiles that a restore has left in the register space: they are filled (R436), or a line in error is a precise fault
(R423), with its address. -/
def State.fillFor (s : State) (i : Nat) (b : Bundle) : Except Nat State :=
  let w := s.waveAt i
  let need := if w.cold.isEmpty then [] else (b.ops.flatMap BundleOp.lines).eraseDups.filter w.cold.contains
  match need.find? (s.lineBad i) with
  | some n => .error ((w.wbp.getD 0).toNat + spaceOff w.die n)
  | none => .ok (need.foldl (fun s n => s.fillLine i n) s)

/-- What happens instead of the bundle: a late fault, a failed translation, a state block in error, a failed start. None when the bundle issues. -/
def State.beforeBundle (s : State) (i : Nat) (g : Loc × Mask) : State × Bool :=
  match s.deliverLate i g with
  | some t => (t, true)
  | none =>
    match (s.waveAt i).xfail with
    | some why =>
      let c := if (s.waveAt i).migrate then 0x12 else 0x10
      ((s.updWave i fun w => { w with xfail := none, migrate := false, xwait := none }).faultAt i g.2 g.1 (causeT c why) g.2 0 0, true)
    | none =>
      if (s.waveAt i).blockBad then
        (s.faultAt i g.2 g.1 (cause 0x80) g.2 0 (dw (((s.waveAt i).wbp.getD 0).toNat + stateBlockOff)), true)
      else s.firstBundle i g

/-- The group may be served now: its function is translated and no landing holds it (R91), or there is a fault to deliver. -/
def State.groupReady (s : State) (i : Nat) (g : Loc × Mask) : Bool :=
  let w := s.waveAt i
  if w.xfail.isSome then s.failDue i
  else
    s.hasImage i g.1 && !s.waitsImage i && !s.mustMigrate i g.1 && !w.evicted && !s.frozen i &&
    !(w.landings.any fun x => x.landed s.cycle) && !w.fmPend.any fun x => decide (x.due ≤ s.cycle)

/-! ## Slots (R26, R134, R135, R469) -/

/-- The slots of a group's next bundle that issue first: those outside the core's slot mask, else the lowest (R469). -/
def State.firstSlots (s : State) (i : Nat) (l : Loc) : List Nat :=
  let w := s.waveAt i
  let p := (List.range 6).filter (((s.bundleAt w l).map Bundle.slots).getD 0).testBit
  let free := p.filter fun k => !(s.ftOf w.die w.core).1.getLsbD k
  if free.isEmpty then p.take 1 else free
/-- A slice has an issue edge in the cycle (R468), no earlier operation holds it (R26, R134), and on a K die no span instruction of the core (R231). -/
def State.sliceFree (s : State) (d core k : Nat) : Bool :=
  let n := (s.ftOf d core).2.toNat / 16 ^ k % 16
  decide ((s.dieAt d).clock * n % 8 < n) && !(s.slices.any fun e => e.1 == globalCore d core && e.2.1 == k && decide (s.cycle < e.2.2)) &&
    !((k == 1 || k == 2) && s.spans.any fun e => e.die == d && e.unit == 100 + core)
/-- Slots that bundles of this cycle's packet use on a core (R135). -/
def State.slotsUsed (s : State) (core : Nat) : Nat :=
  (s.issued.filter fun e => globalCore (s.waveAt e.1).die (s.waveAt e.1).core == core).foldl (fun m e => m ||| e.2.2) 0
/-- The slices that a group's bundle needs are free, and the packet of the cycle leaves it its slots. -/
def State.slotsFree (s : State) (i : Nat) (g : Loc × Mask) : Bool :=
  let w := s.waveAt i
  let all := ((s.bundleAt w g.1).map Bundle.slots).getD 0
  (s.firstSlots i g.1).all (s.sliceFree w.die w.core) && all &&& s.slotsUsed (globalCore w.die w.core) == 0

/-! ## Urgency and places (R135, R136, R471) -/

/-- Candidate (a, g) comes before (b, h): a wave with the primary place first, the lowest ordinal among such waves, then R136. -/
def State.urgentBefore (s : State) (a : Nat) (g : Loc × Mask) (b : Nat) (h : Loc × Mask) : Bool :=
  let x := s.waveAt a
  let y := s.waveAt b
  if x.primary ≠ y.primary then x.primary
  else if x.primary ∧ x.slot ≠ y.slot then decide (x.slot < y.slot)
  else if x.sincePhase ≠ y.sincePhase then decide (x.sincePhase < y.sincePhase)
  else if maskSize g.2 ≠ maskSize h.2 then decide (maskSize h.2 < maskSize g.2)
  else decide (x.slot < y.slot)


/-- Waves of a core that may issue. -/
def State.coreWaves (s : State) (d core : Nat) : List Nat :=
  (List.range s.waves.length).filter fun i => (s.waveAt i).die == d && (s.waveAt i).core == core && s.mayIssue i
def State.readyOn (s : State) (d core : Nat) : List Nat :=
  (s.coreWaves d core).filter fun i => (s.offers i).any fun g => s.groupReady i g && s.slotsFree i g

/-- Event (R136): the lowest wave of the core that has issued nothing for 64 cycles takes the primary place. -/
def execStarvationPrimary (d core : Nat) (s : State) : Outcome :=
  let ws := (s.readyOn d core).filter fun i => 64 ≤ (s.waveAt i).starve && !s.isOrdered i
  .next (match ws.foldl (fun b i =>
      match b with
      | none => some i
      | some j => if (s.waveAt i).slot < (s.waveAt j).slot then some i else some j) (none : Option Nat) with
    | some i => s.updWave i fun w => { w with primary := true }
    | none => s)

/-- The core runs with a slot masked or a ratio below 8/8. -/
def State.throttledCore (s : State) (d core : Nat) : Bool := (s.dieAt d).ftcore.any fun e => e.1 == core && (e.2.1 != 0 || e.2.2 != 0x888888)
/-- Event (R471). -/
def execThrottlePrimary (d core : Nat) (s : State) : Outcome :=
  let ws := if s.throttledCore d core then (s.readyOn d core).filter fun i => 8 ≤ (s.waveAt i).throttled && !s.isOrdered i else []
  .next (match ws.foldl (fun b i =>
      match b with
      | none => some i
      | some j =>
        if (s.waveAt j).throttled < (s.waveAt i).throttled ∨
           ((s.waveAt i).throttled = (s.waveAt j).throttled ∧ (s.waveAt i).slot < (s.waveAt j).slot) then some i else some j)
        (none : Option Nat) with
    | some i => s.updWave i fun w => { w with primary := true }
    | none => s)

/-- Event (R136): a group that the wave has not offered for 64 issues is offered next. -/
def execGroupOfferRotate (w : Nat) (s : State) : Outcome :=
  .next (match (s.waveAt w).unoffered.find? fun e => decide (64 ≤ e.2) && (s.ranked w).any fun g => g.1 == e.1 with
    | some e => if (s.waveAt w).offerNext.isNone then s.updWave w fun v => { v with offerNext := some e.1 } else s
    | none => s)

/-! ## Turns of ordered gangs (R395-R399) -/

/-- The workgroup of rank `k` of a gang. -/
def State.rankWg (s : State) (g : Gang) (k : Nat) : Option Nat :=
  (s.taskOf g.task).bind fun t => (List.range s.wgs.length).find? fun i => (s.wgAt i).task == g.task && (s.wgAt i).num == g.num * max 1 t.launch.gang + k
/-- The wave whose turn it is at a rank: position FC mod NW of the rotation (R396). -/
def State.turnWave (s : State) (g : Gang) (k : Nat) : Option Nat :=
  (s.rankWg g k).bind fun wi => (s.wavesOf wi).find? fun i => (s.waveAt i).num == g.fc % max 1 (s.taskOfWg wi).launch.nwave
/-- The ranks of a gang, from rank FC mod GANG on (R398). -/
def State.ranksOf (s : State) (g : Gang) : List Nat :=
  let n := max 1 ((s.taskOf g.task).getD default).launch.gang
  (List.range n).map fun j => (g.fc + j) % n
/-- Nothing issues in the turn of this wave: parked, sleeping, exited, yielding, or outside the quern window (R397). -/
def State.emptyTurn (s : State) (i : Nat) : Bool :=
  let w := s.waveAt i
  w.passTurn || (!w.faulted && (w.liveGroups.isEmpty || w.waitsLine)) || (w.qoffer && !s.windowOpen i)
/-- The gang of a wave, when it is ordered and every workgroup of it that remains is resident. -/
def State.orderedGang (s : State) (i : Nat) : Option Gang :=
  if s.isOrdered i ∧ s.resident i then s.gangOf (s.waveAt i).wg else none
/-- The turn of a frame that comes next: its rank's wave, and whether the turn is empty. -/
def State.nextTurn (s : State) (g : Gang) : Option (Nat × Bool) := (g.plan.head?).bind fun e => (s.turnWave g e.1).map fun i => (i, e.2)
/-- A frame of a gang begins: the turns of its ranks that have a wave, in order. What they find now decides which of them are empty (R397). -/
def State.beginFrame (s : State) (g : Gang) : State :=
  s.updGang g.task g.num fun h => { h with plan := (s.ranksOf g).filterMap fun k => (s.turnWave g k).map fun i => (k, s.emptyTurn i) }
/-- A frame is over: FC increases by one, and the cycle holds no other frame of the gang (R395). -/
def Gang.endFrame (g : Gang) (cycle : Nat) : Gang := { g with plan := [], fc := (g.fc + 1) % 2 ^ 64, frameEnd := cycle + 1 }
/-- A turn is over; after the last rank's, the frame. -/
def State.turnOver (s : State) (g : Gang) : State :=
  s.updGang g.task g.num fun g => if g.plan.length ≤ 1 then g.endFrame s.cycle else { g with plan := g.plan.tail }

/-- Event (R397): the turn of a wave passes empty; it counts for the groups that the wave does not offer (R396). -/
def execEmptyTurn (w : Nat) (s : State) : Outcome :=
  .next (match s.orderedGang w with
    | none => s
    | some g =>
      if s.nextTurn g = some (w, true) ∧ !s.cutHolds w ∧ !s.halted then
        (s.turnOver g).updWave w fun v => { v with passTurn := false, unoffered := s.unofferedNow w }
      else s)

/-- Turns at whose rank no wave is left any more pass. -/
def State.passGoneRanks (s : State) : State :=
  { s with gangs := s.gangs.map fun g =>
      let left := g.plan.filter fun e => (s.turnWave g e.1).isSome
      if left.isEmpty ∧ !g.plan.isEmpty then g.endFrame s.cycle else { g with plan := left } }

end Sys2Proof.Machine
end

