-- ==== Sys2Proof/Machine/MemEvents.lean ====
section
/-! DEFINITION. Events of the memory system (08_memory.md R237, R241, R243, R246, 16_traps_preemption.md R424): page walks, remote writes
at their home dies and their acknowledgements, invalidations and fills of the RDCs, the check of accesses from the fabric. -/
namespace Sys2Proof.Machine

/-! ## Page walks (R237) -/

/-- The walker sets A, and D on a write to a writable page, in the leaf entry of a walk that ends well. -/
def execPageWalk (_d ctx : Nat) (va : Dword) (write : Bool) (s : State) : Outcome :=
  .next (match s.walk ctx va.toNat with
    | .error _ => s
    | .ok p =>
      if inLoaderWindow va.toNat then s
      else
        let leaf := p.leaf ||| (if write && eW p.leaf then 0x30000 else 0x10000)
        if leaf == p.leaf || s.copyBlocked p.ekey then s else (s.viewAs p.ekey 0).homeWrite p.ekey (bytesOfNat 8 leaf.toNat))

/-! ## Remote writes (R241, R246, R424) -/

def State.msgAt (s : State) (id : Nat) : Option Msg := s.msgs.find? fun m => m.id == id
def State.updMsg (s : State) (id : Nat) (f : Msg → Msg) : State :=
  { s with msgs := s.msgs.map fun m => if m.id == id then f m else m }
def State.dropMsg (s : State) (id : Nat) : State := { s with msgs := s.msgs.filter fun m => m.id != id }

/-- MAP of the bundle that a message comes from. -/
def State.msgMap (s : State) (m : Msg) : Nat :=
  match s.waveOf m.wave with
  | some i => s.mapOf (s.waveAt i) m.loc
  | none => 0xFFFF

/-- The message that carries a write of bytes of one line to another device: mask and line (R488). -/
def writeData (off : Nat) (bs : List Byte) : List Byte :=
  let mask := ((List.range bs.length).map fun i => 2 ^ (off + i)).foldl (· + ·) 0
  bytesOfNat 16 mask ++ List.replicate off 0 ++ bs ++ List.replicate (128 - off - bs.length) 0

/-- The parts of [dpa, dpa + n) by line: (address, offset from dpa, length). -/
def lineParts (dpa n : Nat) : List (Nat × Nat × Nat) :=
  (linesIn dpa n).map fun l =>
    let lo := max dpa (l * 128)
    let hi := min (dpa + n) (l * 128 + 128)
    (lo, lo - dpa, hi - lo)

/-- A write that was turned away: its wave holds the cause, or its command reports it (R338). -/
def State.turnedAway (s : State) (m : Msg) (c : Nat) : State :=
  match m.cmd with
  | some id =>
    s.cmdUpd id fun x =>
      { x with status := 2, fcode := if x.fcode = 0 then c else x.fcode, foff := if x.fcode = 0 then m.coff else min m.coff x.foff,
               written := x.written - m.len }
  | none =>
    match s.waveOf m.wave with
    | some i =>
      s.pendArrives i { cause := c, count := 0, loc := m.loc, die := m.home, addr := m.va, tag := 0, tile := none }
    | none => s

/-- The messages of a write to another device, and the transaction numbers that it waits for. With no port of the die in service the link has
failed: the write is turned away with 0x80 (R242). -/
def State.sendOut (s : State) (m : Msg) (fdn : Nat) : State :=
  if !s.portUp (s.fabPort m.srcDie m.dpa) then (s.dropMsg m.id).turnedAway m 0x80
  else
  let asks : List FabAsk :=
    match m.fx with
    | .bytes bs => (lineParts m.dpa bs.length).map fun p =>
        { tfdn := fdn, ddie := m.home, op := 3, addr := p.1 / 128 * 128, aop := 0, etype := 0, attr := if m.release then 2 else 0,
          data := writeData (p.1 % 128) ((bs.drop p.2.1).take p.2.2), att := 0 }
    | .rmw opc ty vs => vs.map fun v =>
        { tfdn := fdn, ddie := m.home, op := 4, addr := m.dpa, aop := opc - 0x200, etype := ty.code, attr := if m.release then 2 else 0,
          data := bytesOfVal 16 v ++ bytesOfVal 16 0, att := 0 }
  let r := asks.foldl (fun (r : State × List Nat) a =>
    let t := r.1
    let f : FabMsg :=
      { op := a.op, sdie := m.srcDie, ddie := a.ddie, tid := w32 t.nextId, addr := a.addr, aop := a.aop, etype := a.etype, attr := a.attr,
        sfdn := t.fdn, dfdn := a.tfdn, data := a.data, owner := none }
    (({ t with nextId := t.nextId + 1 } : State).sendFab (t.fabPort m.srcDie a.addr) f, r.2 ++ [(w32 t.nextId).toNat])) (s, [])
  r.1.updMsg m.id fun m => { m with st := .accepted, invs := r.2 }

/-- An earlier write to some of a message's bytes, of the same agent (R255, R256, R265, R321, R335) or of a wave of the same core, whose L1 has taken
them in that order (R244, R266), has not performed: it comes first. The gang of an ordered wave is one agent (R398). -/
def State.writtenBefore (s : State) (m : Msg) : Bool :=
  s.msgs.any fun x =>
    ((x.wave == m.wave && x.cmd == m.cmd) || (x.core.isSome && x.core == m.core) || s.sameGang x.wave m.wave) && decide (x.id < m.id) &&
    decide (x.vkey < m.vkey + m.len) && decide (m.vkey < x.vkey + x.len)

/-- Event (R241): at the home die, the frame table and the vault decide; a write to another device leaves through a port. -/
def execRemoteWriteCheck (id : Nat) (s : State) : Outcome :=
  .next (match s.msgAt id with
    | none => s
    | some m =>
      if m.st ≠ .sent then s
      else
        match m.tfdn with
        | some f => if s.writtenBefore m then s else s.sendOut m f.toNat
        | none =>
          let k := physKey m.home m.dpa
          let c := if s.frameDenies m.user k then 0x27 else if s.uncorr k then 0x80 else 0
          if c = 0 then
            let shr := cget (zeros 8) s.shr (lineOf k)
            s.updMsg id fun m => { m with st := .accepted, invs := (List.range 8).filter fun d => shr.getLsbD d }
          else (s.logDenial m.home m.va.toNat m.wave (s.msgMap m) m.srcDie c s.fdn).updMsg id fun m => { m with st := .denied, cause := c })

/-- Event (R246): die `d` drops its copy of the line that message `id` writes, and acknowledges; a fill it still awaits will not
be installed. -/
def execRdcInvalidation (d id : Nat) (s : State) : Outcome :=
  .next (match s.msgAt id with
    | none => s
    | some m =>
      if m.st ≠ .accepted ∨ m.tfdn.isSome ∨ !m.invs.contains d then s
      else
        let l := lineOf (physKey m.home m.dpa)
        ({ s with rdc := s.rdc.filter fun e => !(e.1 == d && e.2 == l)
                  rdcFills := s.rdcFills.map fun f => if f.1 == d && f.2.1 == l then (f.1, f.2.1, false) else f } : State).updMsg id
          fun m => { m with invs := m.invs.erase d })

/-- Event (R246): every sharer has acknowledged, and the write performs; one with ORD 2 or 3 after every earlier write of its wave. -/
def execHomeWritePerform (id : Nat) (s : State) : Outcome :=
  .next (match s.msgAt id with
    | none => s
    | some m =>
      let k := physKey m.home m.dpa
      if m.st ≠ .accepted ∨ m.tfdn.isSome ∨ !m.invs.isEmpty ∨ s.copyBlocked k ∨
          (m.release ∧ s.msgs.any fun x => x.wave == m.wave && decide (x.id < m.id)) ∨ s.writtenBefore m then s
      else
        let t := (s.dropMsg id).meetKey k m.len m.keyid
        let t := if m.acq.any fun sc => decide (3 ≤ sc) then (m.core.map t.l1Acquire).getD t else t
        match m.fx with
        | .bytes bs => t.homeWriteBy m.core k bs
        | .rmw opc ty vs => t.homeRmw k opc ty (vs.map fun v => (v, 0)))

/-- Event (R424): the negative acknowledgement of message `id` arrives. -/
def execNegativeAckArrival (id : Nat) (s : State) : Outcome :=
  .next (match s.msgAt id with
    | none => s
    | some m => if m.st ≠ .denied then s else (s.dropMsg id).turnedAway m m.cause)

/-- Event (R246): a fill reaches the RDC of die `d`; it is installed unless an invalidation came first. -/
def execRdcFillArrival (d line : Nat) (s : State) : Outcome :=
  .next (match s.rdcFills.find? fun f => f.1 == d && f.2.1 == line with
    | none => s
    | some f =>
      let t : State := { s with rdcFills := s.rdcFills.erase f }
      if f.2.2 && !t.rdc.contains (d, line) then { t with rdc := t.rdc ++ [(d, line)] } else t)

/-! ## Accesses from the fabric (R243) -/

/-- The first enabled grant of the die that covers the bytes, admits the device, and allows the access. -/
def State.grantOf (s : State) (d sfdn : Nat) (write : Bool) (dpa len : Nat) : Option (Nat × Nat × Dword × Dword) :=
  s.grants.find? fun g =>
    let base := bits g.2.2.1 16 22 * 65536
    let ctl := g.2.2.2
    g.1 == d && base ≤ dpa && dpa + len ≤ base + (bits ctl 0 22 + 1) * 65536 && (bit ctl 61 || bits ctl 48 8 == sfdn) && (!write || bit ctl 62)

def State.granted (s : State) (d sfdn : Nat) (write : Bool) (dpa len : Nat) : Bool := (s.grantOf d sfdn write dpa len).isSome

/-- The cause with which a die turns an access from another device away: 0 for none. -/
def State.inboundCause (s : State) (d sfdn : Nat) (write : Bool) (dpa len : Nat) : Nat :=
  let k := physKey d dpa
  if !s.granted d sfdn write dpa len || !(s.frameSt k == 0 || (s.frameSt k == 1 && !write)) then 0x27
  else if s.uncorr k then 0x80 else 0

/-- The die answers for itself: it is released and not withdrawn, and the address exists. -/
def State.dieServes (s : State) (d dpa : Nat) : Bool :=
  decide (d < 8) && (s.dieAt d).ok && !(s.dieAt d).withdrawn && decide (dpa < Config.dieBytes)

/-- Event (R243): the check alone, with its record. -/
def execFabricInboundAccess (d : Nat) (sfdn : BitVec 8) (write : Bool) (dpa len : Nat) (s : State) : Outcome :=
  let c := s.inboundCause d sfdn.toNat write dpa len
  .next (if c = 0 ∨ !s.dieServes d dpa then s else s.logDenial d dpa 0 0xFFFF 0 c sfdn.toNat)

end Sys2Proof.Machine
end

