-- ==== Sys2Proof/Machine/Power.lean ====
section
/-! DEFINITION. Power and clocks, soft errors, the trust die (18_power_package_trust.md R467-R482, 01_machine.md R18, R19, R36). -/
namespace Sys2Proof.Machine

/-! ## Power (R467-R474) -/

/-- FTCORE (R474). -/
def State.ftReg (s : State) (d core : Nat) : Dword := dw ((s.ftOf d core).1.toNat * 2 ^ 48 + (s.ftOf d core).2.toNat * 2 ^ 24)

/-- A vault near the cluster of a core is in band 3 (R472). -/
def State.hotCore (s : State) (d core : Nat) : Bool :=
  (List.range 32).any fun v => nearVault v (core / 4) && (s.dieAt d).bands.getD v 0 == 3
/-- Ratio numerators with those of S1, S2 and S4 at 1. -/
def hotRatio (r : BitVec 24) : BitVec 24 := (r &&& 0xF0F00F) ||| 0x010110
def ratioOk (r : BitVec 24) : Bool := (List.range 6).all fun k => 1 ≤ r.toNat / 16 ^ k % 16 && r.toNat / 16 ^ k % 16 ≤ 8

/-- At a window boundary the fantail sets the mask and the ratios of a core (R467, R472). -/
def execPowerWindow (d core : Nat) (mask : BitVec 6) (ratio : BitVec 24) (s : State) : Outcome :=
  .next (
    if s.cycle % 1024 ≠ 0 ∨ ratioOk ratio = false ∨ 8 ≤ d ∨ 80 ≤ core then s
    else
      let r := if s.hotCore d core then hotRatio ratio else ratio
      s.setDie d fun x =>
        let rest := x.ftcore.filter fun e => e.1 != core
        { x with ftcore := if mask = 0 ∧ r = 0x888888 then rest else (core, mask, r) :: rest })

/-- R473: the next cycle is stretched, and counts as one. -/
def execDroopDetect (d : Nat) (s : State) : Outcome := .next (s.setDie d fun x => { x with droopcnt := x.droopcnt + 1 })

/-! ## Soft errors (R475-R477) -/

/-- The structures of R475. -/
inductive ErrUnit where
  | millpond | l2 | rdc | l1 | bundle | spad | regcache | landing
  deriving DecidableEq, Repr, Inhabited

/-- A structure instance is numbered die + 8 * structure + 64 * instance (a vault, a core or a cluster). -/
def errUnit (u : Nat) : ErrUnit :=
  match u / 8 % 8 with
  | 0 => .millpond | 1 => .l2 | 2 => .rdc | 3 => .l1 | 4 => .bundle | 5 => .spad | 6 => .regcache | _ => .landing

/-- A unit of a die in the error log, numbered behind the structure instances. -/
def LostUnit.code (u : LostUnit) (d : Nat) : Nat :=
  match u with
  | .port n => d + 64 * (64 + n)
  | .quern c n => d + 64 * (128 + 2 * c + n)
  | .core n => d + 64 * (256 + n)
  | .cluster n => d + 64 * (512 + n)

/-- A lasting fault is written to the die's error log (R477). -/
def State.logError (s : State) (u addr : Nat) : State :=
  s.setDie (u % 8) fun x =>
    if x.errHead - x.errTail = 256 then { x with errDrop := x.errDrop + 1 }
    else
      { x with errLog := (x.errHead % 256, dw addr, u) :: x.errLog.filter (fun e => e.1 != x.errHead % 256), errHead := x.errHead + 1 }

/-- What a lasting fault does (R477): the way of a cache line that is disabled holds nothing that a program can tell. -/
def State.lastingFault (s : State) (u addr : Nat) : State :=
  let d := u % 8
  let s := s.logError u addr
  match errUnit u with
  | .millpond => { s with frames := cset (zeros 2) s.frames (d * 2 ^ 22 + addr / 65536) 3 }
  | .spad => s.setDie d fun x => { x with goneClusters := (u / 64 :: x.goneClusters).eraseDups }
  | .regcache | .landing => s.setDie d fun x => { x with goneCores := (u / 64 :: x.goneCores).eraseDups }
  | .l2 | .rdc | .l1 | .bundle => s

/-- Tracking of corrected errors (R476): the entries after an error at `a` in cycle `t`, its count, and whether it was lost. -/
def trackError (es : List (Nat × Nat × Nat × Nat)) (u a t : Nat) : List (Nat × Nat × Nat × Nat) × Nat × Bool :=
  let mine := fun (e : Nat × Nat × Nat × Nat) => e.1 == u
  match es.find? fun e => mine e && e.2.1 == a with
  | some e =>
    let e' := if t - e.2.2.2 < 2 ^ 24 then (u, a, e.2.2.1 + 1, e.2.2.2) else (u, a, 1, t)
    (es.map fun x => if x == e then e' else x, e'.2.2.1, false)
  | none =>
    if (es.filter mine).length < 64 then (es ++ [(u, a, 1, t)], 1, false)
    else
      match es.find? fun e => mine e && 2 ^ 24 ≤ t - e.2.2.2 with
      | some e => (es.map fun x => if x == e then (u, a, 1, t) else x, 1, false)
      | none => (es, 0, true)

def execCorrectedError (unit addr : Nat) (s : State) : Outcome :=
  let a := addr / 128 * 128
  let r := trackError (s.dieAt (unit % 8)).track unit a s.cycle
  let t := s.setDie (unit % 8) fun x => { x with track := r.1, errLost := if r.2.2 then x.errLost + 1 else x.errLost }
  .next (if r.2.1 = 4 then t.lastingFault unit a else t)

/-- R475: the scrubber reads a line; what it finds in error is an event of its own. -/
def execScrubRead (_d _line : Nat) (s : State) : Outcome := .next s

/-- A vault fails as a whole (R36, R477): the die is withdrawn, and its translation cache is emptied. -/
def execVaultFailure (d v : Nat) (s : State) : Outcome :=
  .next (
    if 8 ≤ d ∨ 32 ≤ v ∨ (s.dieAt d).badVaults.contains v then s
    else
      let s := s.logError (d + 64 * v) 0
      let s := s.setDie d fun x => { x with badVaults := v :: x.badVaults, withdrawn := true }
      { s with images := s.images.filter fun i => i.die != d })

/-! ## The trust die (R18, R19, R478-R482) -/

/-- The package leaves reset (R478): the key store and the lists stay, a verified image and a drawn KSS take effect, and a rekey zeroes
every millpond (R482). `unlisted` memory of the model holds zero. -/
def execPackageReset (s : State) : Outcome :=
  let tr := s.trust
  let fw := tr.pendingFirmware.getD tr.firmware
  let up := fun d => Config.firmwareVerifies fw && Config.dieVerifies fw 0 && Config.dieVerifies fw d
  .next
    { State.reset with
      agenda := s.agenda
      snaps := s.snaps
      freeCnt := s.freeCnt
      mem := if tr.pendingKss.isSome then [] else s.mem
      keyids := if tr.pendingKss.isSome then [] else s.keyids
      dies := (List.range 8).map fun d => { DieSt.reset with ok := up d }
      trust := { TrustSt.reset with
        kss := tr.pendingKss.getD tr.kss, firmware := fw, regionKeys := tr.regionKeys, moduleKeys := tr.moduleKeys,
        ckptKeys := tr.ckptKeys } }

/-- The staged image (R484), up to its last nonzero byte. -/
def State.stagedImage (s : State) : List Byte :=
  readBytes s.trust.staging 0 (match s.trust.staging.getLast? with
    | some c => c.1 + 1
    | none => 0)

/-- R19, R478: an image that verifies as a whole replaces the old one at the next package reset. -/
def execFirmwareUpdate (s : State) : Outcome :=
  let d := BitVec.ofNat 512 (natOfBytes (sha512 s.stagedImage))
  .next (if (s.dieAt 0).ok && Config.firmwareVerifies d then { s with trust := { s.trust with pendingFirmware := some d } } else s)

/-- Measurement blocks 1 to 13 (R479). -/
def State.measurements (s : State) : List (List Byte) :=
  let b := fun (v : BitVec 512) => bytesOfNat 64 v.toNat
  let keys := fun (ks : List Val) => sha512 (ks.flatMap fun k => bytesOfNat 32 k.toNat)
  [b Config.bootRom, b s.trust.firmware] ++
  ((List.range 8).map fun d => if (s.dieAt d).ok then b (Config.dieConfig s.trust.firmware d) else List.replicate 64 0xFF) ++
  [keys s.trust.moduleKeys, keys s.trust.ckptKeys, sha512 [BitVec.ofNat 8 s.fdn, Config.fabricStraps]]

/-- CDI and the public Alias key (R480). -/
def State.cdi (s : State) : List Byte := hmac512 (bytesOfNat 32 Config.deviceSecret.toNat) (bytesOfNat 64 s.trust.firmware.toNat)
def aliasText : List Byte := [0x48, 0x4B, 0x38, 0x20, 0x41, 0x6C, 0x69, 0x61, 0x73]
def State.aliasKey (s : State) : List Byte := ed25519Pub ((hmac512 s.cdi aliasText).take 32)

/-- The responder answers; the bytes of a response are those of the cited standard. -/
def State.reply (s : State) (name : String) (body : List Byte) : State :=
  { s with trust := { s.trust with response := Config.spdmReply name body } }

def execGetVersion (s : State) : Outcome := .next (s.reply "GET_VERSION" [])
def execGetCapabilities (s : State) : Outcome := .next (s.reply "GET_CAPABILITIES" [])
def execNegotiateAlgorithms (s : State) : Outcome := .next (s.reply "NEGOTIATE_ALGORITHMS" [])
/-- Certificates of slot 0 certify the device key and the Alias key. -/
def execGetDigests (s : State) : Outcome := .next (s.reply "GET_DIGESTS" s.aliasKey)
def execGetCertificate (s : State) : Outcome := .next (s.reply "GET_CERTIFICATE" s.aliasKey)
def execChallenge (s : State) : Outcome := .next (s.reply "CHALLENGE" s.aliasKey)
def execGetMeasurements (s : State) : Outcome := .next (s.reply "GET_MEASUREMENTS" s.measurements.flatten)

def State.sessionOf (s : State) (id : Nat) : Option Session := s.trust.sessions.find? fun x => x.id == id
def State.updSession (s : State) (id : Nat) (f : Session → Session) : State :=
  { s with trust := { s.trust with sessions := s.trust.sessions.map fun x => if x.id == id then f x else x } }

/-- KEY_EXCHANGE opens a session while fewer than 4 are open (R481); its key is not stated. -/
def execKeyExchange (s : State) : Outcome :=
  .next (
    if s.trust.sessions.length < 4 then
      let r := s.takeFree
      let x : Session := { id := s.trust.nextSession, established := false, mutualAuth := false, key := r.1 }
      ({ r.2 with trust := { s.trust with sessions := s.trust.sessions ++ [x], nextSession := s.trust.nextSession + 1 } } : State).reply
        "KEY_EXCHANGE" []
    else s.reply "ERROR" [])
/-- FINISH establishes the session; whether the requester has proved the owner certificate is not this model's to say. -/
def execFinish (session : Nat) (s : State) : Outcome :=
  .next (
    if (s.sessionOf session).isSome then
      let r := s.takeFree
      (r.2.updSession session fun x => { x with established := true, mutualAuth := r.1.getLsbD 0 }).reply "FINISH" []
    else s.reply "ERROR" [])
def State.sessionOpen (s : State) (id : Nat) : Bool := (s.sessionOf id).any Session.established
def execKeyUpdate (session : Nat) (s : State) : Outcome :=
  .next (
    if s.sessionOpen session then
      let r := s.takeFree
      (r.2.updSession session fun x => { x with key := r.1 }).reply "KEY_UPDATE" []
    else s.reply "ERROR" [])
def execHeartbeat (session : Nat) (s : State) : Outcome :=
  .next (if s.sessionOpen session then s.reply "HEARTBEAT" [] else s.reply "ERROR" [])
def execEndSession (session : Nat) (s : State) : Outcome :=
  .next (
    if s.sessionOpen session then
      ({ s with trust := { s.trust with sessions := s.trust.sessions.filter fun x => x.id != session } } : State).reply "END_SESSION" []
    else s.reply "ERROR" [])

/-- A vendor-defined request: accepted only in a session with mutual authentication (R481). -/
def State.vendor (s : State) (session : Nat) (f : TrustSt → TrustSt) : State :=
  if (s.sessionOf session).any fun x => x.established && x.mutualAuth then
    ({ s with trust := f s.trust } : State).reply "VENDOR_DEFINED_REQUEST" []
  else s.reply "ERROR" []
/-- A list of at most 32 keys, edited. -/
def editKeys (ks : List Val) (add : Bool) (key : Val) : List Val :=
  if add then (if ks.contains key ∨ 32 ≤ ks.length then ks else ks ++ [key]) else ks.filter fun k => k != key

def execProvisionRegionKey (session slot : Nat) (s : State) : Outcome :=
  .next (s.vendor session fun t => { t with regionKeys := if t.regionKeys.contains slot then t.regionKeys else t.regionKeys ++ [slot] })
def execEditModuleKeyList (session : Nat) (add : Bool) (key : Val) (s : State) : Outcome :=
  .next (s.vendor session fun t => { t with moduleKeys := editKeys t.moduleKeys add key })
def execEditCheckpointKeyList (session : Nat) (add : Bool) (key : Val) (s : State) : Outcome :=
  .next (s.vendor session fun t => { t with ckptKeys := editKeys t.ckptKeys add key })
/-- R482: `kss` is what the trust die draws; it takes effect at the next package reset. -/
def execRekey (session : Nat) (kss : BitVec 512) (s : State) : Outcome :=
  .next (s.vendor session fun t => { t with pendingKss := some kss })
/-- R483: one of up to 4 selective IDE streams gets its key. -/
def execIdeKm (session stream : Nat) (s : State) : Outcome :=
  .next (s.vendor session fun t => if stream < 4 ∧ t.ide.contains stream = false then { t with ide := t.ide ++ [stream] } else t)

end Sys2Proof.Machine
end

