-- ==== Sys2Proof/Machine/Fabric.lean ====
section
/-! DEFINITION. The links of the fabric (18_power_package_trust.md R487-R490): messages in and out of the ports, flits with their sequence
numbers and replay, and the rollover of link keys. Encryption, the tag and the CRC of a flit are transparent: an event carries the
header and the payload as the receiver has checked and decrypted them. -/
namespace Sys2Proof.Machine

def State.portAt (s : State) (p : Nat) : PortSt := s.ports.getD p PortSt.reset
def State.updPort (s : State) (p : Nat) (f : PortSt → PortSt) : State := { s with ports := updAt s.ports p f }

/-! ## Messages (R488) -/

def FabMsg.bytes (m : FabMsg) : List Byte :=
  bytesOfNat 1 m.op ++ bytesOfNat 1 ((m.data.length + 15) / 16) ++ bytesOfNat 1 m.sdie ++ bytesOfNat 1 m.ddie ++
  bytesOfNat 4 m.tid.toNat ++ bytesOfNat 5 m.addr ++ bytesOfNat 1 m.aop ++ bytesOfNat 1 m.etype ++ bytesOfNat 1 m.attr ++
  m.data ++ List.replicate ((m.data.length + 15) / 16 * 16 - m.data.length) 0

/-- The messages of a payload, packed from byte 0. -/
def parseMsgs (sfdn dfdn : Nat) : Nat → List Byte → List FabMsg
  | 0, _ => []
  | n + 1, bs =>
    if bs.length < 16 ∨ natAt bs 0 1 = 0 then []
    else
      let len := 16 * natAt bs 1 1
      { op := natAt bs 0 1, sdie := natAt bs 2 1, ddie := natAt bs 3 1, tid := w32 (natAt bs 4 4), addr := natAt bs 8 5, aop := natAt bs 0x0D 1,
        etype := natAt bs 0x0E 1, attr := natAt bs 0x0F 1, sfdn := sfdn, dfdn := dfdn, data := (bs.drop 16).take len, owner := none } ::
      parseMsgs sfdn dfdn n (bs.drop (16 + len))

/-- The first message received at a port, when it is of a kind. -/
def State.inMsg (s : State) (p op : Nat) : Option (FabMsg × State) :=
  match (s.portAt p).inbox with
  | m :: ms => if m.op = op then some (m, s.updPort p fun x => { x with inbox := ms }) else none
  | [] => none

/-- A response to a request. -/
def State.answer (s : State) (p : Nat) (m : FabMsg) (op aop : Nat) (data : List Byte) : State :=
  s.sendFab p { m with op := op, sdie := m.ddie, ddie := m.sdie, aop := aop, sfdn := s.fdn, dfdn := m.sfdn, data := data }

/-- A request is served at its die, under the key ID of the grant, or turned away with a record (R243, R424). -/
def State.serveMsg (s : State) (p : Nat) (m : FabMsg) (write : Bool) (dpa len : Nat) (eff : State → State) : State :=
  if !s.dieServes m.ddie dpa then s.answer p m 7 0x27 []
  else
    let c := s.inboundCause m.ddie m.sfdn write dpa len
    if c ≠ 0 then (s.logDenial m.ddie dpa 0 0xFFFF m.sdie c m.sfdn).answer p m 7 c []
    else
      let kid := ((s.grantOf m.ddie m.sfdn write dpa len).map fun g => bits g.2.2.2 32 6).getD 0
      eff (s.meetKey (physKey m.ddie dpa) len kid)

def execFabricRead (port : Nat) (s : State) : Outcome :=
  .next (match s.inMsg port 1 with
    | none => s
    | some (m, t) =>
      let a := m.addr / 128 * 128
      t.serveMsg port m false a 128 fun t => t.answer port m 2 0 (readBytes t.mem (physKey m.ddie a) 128))

/-- The masked bytes of a line take their place. -/
def State.maskedWrite (s : State) (k : Nat) (mask : Nat) (bs : List Byte) : State :=
  (List.range 128).foldl (fun t i => if mask / 2 ^ i % 2 = 1 then t.homeWrite (k + i) [bs.getD i 0] else t) s

def execFabricWrite (port : Nat) (s : State) : Outcome :=
  .next (match s.inMsg port 3 with
    | none => s
    | some (m, t) =>
      let a := m.addr / 128 * 128
      if s.copyBlocked (physKey m.ddie a) then s
      else t.serveMsg port m true a 128 fun t =>
        (t.maskedWrite (physKey m.ddie a) (natAt m.data 0 16) (m.data.drop 16)).answer port m 6 0 [])

def execFabricAtomic (port : Nat) (s : State) : Outcome :=
  .next (match s.inMsg port 4 with
    | none => s
    | some (m, t) =>
      let ty := (Ty.ofCode m.etype).getD tyN32
      let n := atomBytes ty
      let k := physKey m.ddie m.addr
      if s.copyBlocked k then s
      else t.serveMsg port m true m.addr n fun t =>
        let old := valOfBytes (readBytes t.mem k n)
        let new := atomF (m.aop + 0x200) ty old (valOfBytes ((m.data.take 16).take n)) (valOfBytes (((m.data.drop 16).take 16).take n))
        (t.homeWrite k (bytesOfVal n new)).answer port m 5 0 (bytesOfVal 16 old))

/-- The answer to a request of this device: its waiting read or atomic, else the write message that waits for its number. -/
def State.takeReply (s : State) (m : FabMsg) (reply : Option (List Byte)) (c : Nat) : State :=
  if s.fabReqs.any fun r => r.msg.tid == m.tid then
    { s with fabReqs := s.fabReqs.map fun r => if r.msg.tid == m.tid then { r with reply := reply, cause := c } else r }
  else
    match s.msgs.find? fun x => x.tfdn.isSome && x.st == .accepted && x.invs.contains m.tid.toNat with
    | none => s
    | some x =>
      let x' := { x with invs := x.invs.erase m.tid.toNat, cause := if c = 0 then x.cause else c }
      if x'.invs.isEmpty then (if x'.cause = 0 then s.dropMsg x.id else (s.dropMsg x.id).turnedAway x' x'.cause)
      else s.updMsg x.id fun _ => x'

def execFabricReadData (port : Nat) (s : State) : Outcome :=
  .next (match s.inMsg port 2 with
    | none => s
    | some (m, t) => t.takeReply m (some m.data) 0)
def execFabricAtomicData (port : Nat) (s : State) : Outcome :=
  .next (match s.inMsg port 5 with
    | none => s
    | some (m, t) => t.takeReply m (some m.data) 0)
def execFabricWriteAck (port : Nat) (s : State) : Outcome :=
  .next (match s.inMsg port 6 with
    | none => s
    | some (m, t) => t.takeReply m (some []) 0)
def execFabricNegativeAck (port : Nat) (s : State) : Outcome :=
  .next (match s.inMsg port 7 with
    | none => s
    | some (m, t) => t.takeReply m none (if m.aop = 0x80 then 0x80 else 0x27))
/-- R301: a contribution of another member enters the rounds of the window of its group, at the device that holds its memory. -/
def execFabricContribution (port : Nat) (s : State) : Outcome :=
  .next (match s.inMsg port 8 with
    | none => s
    | some (m, t) =>
      match t.windows.find? fun w => bits w.2.2 32 16 == m.tid.toNat % 2 ^ 16 && bit w.2.2 61 with
      | none => t
      | some w =>
        { t.hear w.1 m.sfdn (m.tid.toNat / 2 ^ 16) with
          rounds := addPart w.1 m.addr
            { fdn := m.sfdn, num := m.tid.toNat / 2 ^ 16, v := valOfBytes (m.data.take 16), ctx := none, wave := none, came := t.cycle } t.rounds })

/-! ## Flits (R487, R489) -/

def Flit.mk' (seq kind epoch dfdn : Nat) (payload : List Byte) : Flit := { seq := seq, kind := kind, epoch := epoch, dfdn := dfdn, payload := payload, owners := [] }

/-- Messages for one device that fit one payload of 464 bytes. -/
def takeFit (dfdn : Nat) : Nat → List FabMsg → List FabMsg
  | _, [] => []
  | room, m :: ms => if m.dfdn = dfdn ∧ m.bytes.length ≤ room then m :: takeFit dfdn (room - m.bytes.length) ms else []

/-- A flit enters the replay buffer and goes out. -/
def PortSt.send (p : PortSt) (now kind dfdn : Nat) (payload : List Byte) (owners : List Dword) : PortSt :=
  { p with replay := p.replay ++ [{ Flit.mk' p.sendSeq kind p.epoch dfdn payload with owners := owners }], sendSeq := p.sendSeq + 1,
           lastAck := if p.replay.isEmpty then now else p.lastAck }
/-- A port sends its oldest messages in one data flit, unless the replay buffer is full. -/
def PortSt.sendNext (p : PortSt) (now : Nat) : PortSt :=
  match p.outbox with
  | [] => p
  | m :: _ =>
    if p.failed ∨ 512 ≤ p.replay.length then p
    else
      let ms := takeFit m.dfdn 464 p.outbox
      let bs := ms.flatMap FabMsg.bytes
      ({ p with outbox := p.outbox.drop ms.length } : PortSt).send now 1 m.dfdn (bs ++ List.replicate (464 - bs.length) 0) (ms.filterMap FabMsg.owner)

/-- What a receiver sends back: an acknowledgement or a negative one. -/
def PortSt.reply (p : PortSt) (kind seq dfdn : Nat) : PortSt := { p with replies := p.replies ++ [Flit.mk' seq kind p.epoch dfdn []] }

/-- Event (R489): a data flit arrives; `bytes` are its header and payload, shorter when the CRC or the tag failed. -/
def execDataFlit (port : Nat) (bytes : List Byte) (s : State) : Outcome :=
  let p := s.portAt port
  let hd := natAt bytes 0 16
  let seq := hd / 2 ^ 64
  let sfdn := hd / 2 ^ 40 % 2 ^ 8
  let good := decide (480 ≤ bytes.length) && hd / 2 ^ 56 % 2 ^ 8 == 1 && p.rxKeys.contains (hd / 2 ^ 55 % 2) && seq == p.expSeq
  .next (if p.failed then s
    else if good then
      s.updPort port fun p =>
        ({ p with expSeq := p.expSeq + 1, inbox := p.inbox ++ parseMsgs sfdn (hd / 2 ^ 32 % 2 ^ 8) 30 ((bytes.drop 16).take 464) } : PortSt).reply
          2 seq sfdn
    else s.updPort port fun p => p.reply 3 p.expSeq sfdn)

/-- Rollover of the keys of a port (R490): the trust die gives the receiver the new key, then the sender; while a rollover of either
direction is open, a request is deferred. -/
def PortSt.rollKeys (p : PortSt) : PortSt :=
  if p.rollover ≠ 0 ∨ 2 ≤ p.rxKeys.length then { p with deferred := true }
  else { p with rxKeys := p.rxKeys ++ [1 - p.rxKeys.headD 0], txKeys := [1 - p.epoch], epoch := 1 - p.epoch, rollover := 1, deferred := false }
/-- The sender's next step: the epoch-retired flit once no old flit is left, and the end when that one is acknowledged. -/
def PortSt.rollOn (p : PortSt) (now : Nat) : PortSt :=
  if p.rollover = 1 ∧ !(p.replay.any fun f => f.epoch != p.epoch) then { p.send now 4 0 [] [] with rollover := 2 }
  else if p.rollover = 2 ∧ !(p.replay.any fun f => f.kind == 4) then
    let p := { p with rollover := 0 }
    if p.deferred then p.rollKeys else p
  else p
def execKeyRollover (port : Nat) (s : State) : Outcome := .next (s.updPort port PortSt.rollKeys)

/-- Event (R489): flits up to a SEQ are acknowledged and freed. -/
def execFlitAcknowledge (port : Nat) (seq : Dword) (s : State) : Outcome :=
  .next (s.updPort port fun p =>
    let left := p.replay.filter fun f => seq.toNat < f.seq
    if left.length = p.replay.length then p
    else ({ p with replay := left, resends := 0, lastAck := s.cycle } : PortSt).rollOn s.cycle)

/-- A port that fails is reported and withdrawn (R36, R489): writes and requests in flight on it end with cause 0x80. -/
def State.failPort (s : State) (port : Nat) : State :=
  let die := port / 2
  let lost := s.msgs.filter fun m => m.tfdn.isSome && m.srcDie == die && s.fabPort die m.dpa == port
  let reqs := s.fabReqs.map fun r =>
    if r.reply.isNone && r.cause == 0 && r.msg.sdie == die && s.fabPort die r.msg.addr == port then { r with cause := 0x80 } else r
  let s := { s with fabReqs := reqs }.updPort port fun p => { p with failed := true, outbox := [] }
  (lost.foldl (fun s m => (s.dropMsg m.id).turnedAway m 0x80) s).logError (LostUnit.code (.port (port % 2)) die) 0

/-- A unit with a lasting fault is reported to the host in the die's error log and withdrawn from placement (R36). -/
def State.unitFails (s : State) (d : Nat) (u : LostUnit) : State :=
  match u with
  | .core n => (s.logError (u.code d) 0).setDie d fun x => { x with goneCores := (n :: x.goneCores).eraseDups }
  | .quern c n => (s.logError (u.code d) 0).setDie d fun x => { x with goneQuerns := ((c, n) :: x.goneQuerns).eraseDups }
  | .cluster n => (s.logError (u.code d) 0).setDie d fun x => { x with goneClusters := (n :: x.goneClusters).eraseDups }
  | .port n => s.failPort (2 * d + n % 2)

/-- The sender resends from a SEQ; after 16 resends of one SEQ the port fails. -/
def State.resend (s : State) (port : Nat) : State :=
  let p := s.portAt port
  if p.failed ∨ p.replay.isEmpty then s
  else if 16 ≤ p.resends then s.failPort port
  else s.updPort port fun p => { p with resends := p.resends + 1, lastAck := s.cycle }
def execFlitNegativeAck (port : Nat) (seq : Dword) (s : State) : Outcome :=
  .next (if (s.portAt port).replay.any fun f => f.seq == seq.toNat then s.resend port else s)
def execFlitReplayTimeout (port : Nat) (s : State) : Outcome :=
  .next (if (s.portAt port).lastAck + 1024 ≤ s.cycle then s.resend port else s)

/-- Event (R490 step 4): the epoch-retired flit is accepted in sequence; the receiver erases the old key. -/
def execEpochRetired (port : Nat) (seq : Dword) (s : State) : Outcome :=
  .next (s.updPort port fun p =>
    if p.failed then p
    else if seq.toNat = p.expSeq ∧ 2 ≤ p.rxKeys.length then
      let p := ({ p with expSeq := p.expSeq + 1, rxKeys := p.rxKeys.drop 1 } : PortSt).reply 2 seq.toNat 0
      if p.deferred ∧ p.rollover = 0 then p.rollKeys else p
    else p.reply 3 p.expSeq 0)

/-- Event (R487): an idle flit carries nothing. -/
def execIdleFlit (_port : Nat) (s : State) : Outcome := .next s

end Sys2Proof.Machine
end

