-- ==== Sys2Proof/Machine/HostIf.lean ====
section
/-! DEFINITION. The host interface (18_power_package_trust.md R467, R483-R486, 09_ordering.md R275): the host window, the management
window and the task port. -/
namespace Sys2Proof.Machine

/-- A write of PLIM (R467), by a host that the package answers (R18): a field above its reset value takes its reset value. -/
def State.setPlim (s : State) (v : Dword) : State :=
  { s with plim := dw (min (bits v 0 16) 3200 + min (bits v 16 16) 3600 * 2 ^ 16 + min (bits v 32 16) 10000 * 2 ^ 32) }
def execPlimWrite (v : Dword) (s : State) : Outcome := .next (if (s.dieAt 0).ok then s.setPlim v else s)

/-! ## The task port (R486) -/

/-- A write of TKGO: the task is created on die 0 as tasknew does, and armed with 0 when `arm`. -/
def State.taskGo (s : State) (arm : Bool) : State :=
  if !s.launchOk s.tkrec then { s with tkres := 0 }
  else
    match s.newTask 0 s.tkctx (Launch.ofBytes s.tkrec).prio false s.tkrec with
    | none => { s with tkres := 0 }
    | some (h, t) =>
      let t := { t with tkres := h }
      if arm then t.arm h 0 else t
def execTaskPortCreate (s : State) : Outcome := .next (if (s.dieAt 0).ok then s.taskGo false else s)
def execTaskPortCreateArm (s : State) : Outcome := .next (if (s.dieAt 0).ok then s.taskGo true else s)

/-! ## The management window (R484, R485) -/

/-- Offsets that the manual does not give within their pages: HALTCTL, HWCTX and DIEOK at 0, 8 and 16; PLIM at 0x1000, then DROOPCNT,
ERRHEAD, ERRTAIL and ERRDROP of the eight dies; ERRLOST after the error logs (see the assumption log). -/
def offPlim : Nat := 0x1000
def offDroop : Nat := 0x1008
def offErrHead : Nat := 0x1048
def offErrTail : Nat := 0x1088
def offErrDrop : Nat := 0x10C8
def offErrLost : Nat := 0x310000

/-- The register index of an offset among eight 8-byte registers from a base. -/
def regIn (base off : Nat) : Option Nat := if base ≤ off ∧ off < base + 64 then some ((off - base) / 8) else none

/-- The 8 bytes at an aligned offset, a write-only register as zero (R9); none where the manual does not say what is read. -/
def State.mgmtRead (s : State) (off : Nat) : Option Nat :=
  if off = 0 then some (bitOf s.halted)
  else if off = 8 then some s.hwctx
  else if off = 16 then some ((List.range 8).foldl (fun n d => if (s.dieAt d).ok then n + 2 ^ d else n) 0)
  else if off < 0x1000 then none
  else if off = offPlim then some s.plim.toNat
  else if off < 0x2000 then
    match regIn offDroop off, regIn offErrHead off, regIn offErrTail off, regIn offErrDrop off with
    | some d, _, _, _ => some (s.dieAt d).droopcnt.toNat
    | _, some d, _, _ => some (s.dieAt d).errHead
    | _, _, some d, _ => some (s.dieAt d).errTail
    | _, _, _, some d => some (s.dieAt d).errDrop
    | _, _, _, _ => none
  else if 0x100000 ≤ off ∧ off < 0x100000 + 73 * 2048 then
    let cp := (off - 0x100000) / 2048
    let c := (off - 0x100000) % 2048 / 8
    some (if c = 0x028 ∧ cp = 0 then (s.sysRead 0 0 c).toNat else (s.sysShown cp c).toNat)
  else if 0x200000 ≤ off ∧ off < 0x200000 + 5120 then
    let g := (off - 0x200000) / 8
    some (s.ftReg (g / 80) (g % 80)).toNat
  else if 0x300000 ≤ off ∧ off < 0x310000 then none
  else if offErrLost ≤ off ∧ off < offErrLost + 64 then some (s.dieAt ((off - offErrLost) / 8)).errLost
  else if 0x400000 ≤ off ∧ off < 0x400080 then some (natAt s.tkrec (off - 0x400000) 8)
  else if off = 0x400080 then some s.tkctx
  else if off = 0x400088 then some 0
  else if off = 0x400090 then some s.tkres.toNat
  else if off = 0x500000 then some s.statesel.toNat
  else if 0x500010 ≤ off ∧ off < 0x501000 then
    let v := s.statesel
    some (natOfBytes ((List.range 8).map fun i => s.tableByte (bits v 61 3) (bits v 56 4) (bits v 0 48 + (off - 0x500010) + i)))
  else if 0x1000000 ≤ off ∧ off < 0x3000000 then some (natOfBytes (readBytes s.trust.staging (off - 0x1000000) 8))
  else none

/-- A write of the 8 bytes at an aligned offset; RO fields and offsets without a register take nothing. -/
def State.mgmtWrite (s : State) (off : Nat) (v : Dword) : State :=
  if off = 0 then (if bit v 1 then { s with halted := false } else s)
  else if off = 8 then { s with hwctx := v.toNat % 64 }
  else if off = offPlim then s.setPlim v
  else if 0x1000 ≤ off ∧ off < 0x2000 then
    match regIn offErrTail off, regIn offErrDrop off with
    | some d, _ => s.setDie d fun x => { x with errTail := v.toNat }
    | _, some d => s.setDie d fun x => { x with errDrop := v.toNat }
    | _, _ => s
  else if 0x100000 ≤ off ∧ off < 0x100000 + 73 * 2048 then
    let cp := (off - 0x100000) / 2048
    let c := (off - 0x100000) % 2048 / 8
    if sysCodeListed c ∧ c ≠ 0x003 ∧ cp = sysCopy (cp - 1) (cp - 9) c then s.sysWrite (cp - 1) (cp - 9) s.hwctx c v else s
  else if 0x400000 ≤ off ∧ off < 0x400080 then
    { s with tkrec := spliceBytes s.tkrec (off - 0x400000) (bytesOfNat 8 v.toNat) }
  else if off = 0x400080 then { s with tkctx := v.toNat % 64 }
  else if off = 0x400088 then s.taskGo (bit v 0)
  else if off = 0x500000 then { s with statesel := v &&& 0xEF00FFFFFFFFFFFF }
  else if 0x1000000 ≤ off ∧ off < 0x3000000 then
    { s with trust := { s.trust with staging := writeBytes s.trust.staging (off - 0x1000000) (bytesOfNat 8 v.toNat) } }
  else s

/-- The aligned 8-byte words of [off, off + n): offset of the word, first byte in it, and bytes of it. -/
def wordParts (off n : Nat) : List (Nat × Nat × Nat) :=
  (List.range ((off + n + 7) / 8 - off / 8)).map fun i =>
    let w := (off / 8 + i) * 8
    let lo := max off w
    (w, lo - w, min (off + n) (w + 8) - lo)

/-- The bytes of a register that a narrower write does not name: as they read, but a bit that writing 1 clears stands as 0 (R9, R301). -/
def State.mgmtOld (s : State) (off : Nat) : Nat :=
  let v := (s.mgmtRead off).getD 0
  if 0x100000 + 8 * 0x050 ≤ off ∧ off < 0x100000 + 8 * 0x058 then v - v / 2 ^ 62 % 2 * 2 ^ 62 else v

/-- A write of bytes: one narrower than a register writes the register whole, with the bytes that it does not name as `mgmtOld` gives them
(log entry on the management window). -/
def State.mgmtPut (s : State) (off : Nat) (bs : List Byte) : State :=
  (wordParts off bs.length).foldl (fun s p =>
    let old := bytesOfNat 8 (s.mgmtOld p.1)
    let new := spliceBytes old p.2.1 ((bs.drop (p.1 + p.2.1 - off)).take p.2.2)
    s.mgmtWrite p.1 (dw (natOfBytes new))) s

/-- Bytes read through the window; what the manual does not state is free. -/
def State.mgmtGet (s : State) (off n : Nat) : List Byte × State :=
  (wordParts off n).foldl (fun r p =>
    let w := match r.2.mgmtRead p.1 with
      | some v => (bytesOfNat 8 v, r.2)
      | none => (bytesOfNat 8 r.2.takeFree.1.toNat, r.2.takeFree.2)
    (r.1 ++ (w.1.drop p.2.1).take p.2.2, w.2)) ([], s)

/-! ## The host window (R275, R483) -/

/-- The model numbers the host's addresses: the host window from 0, the management window from 2^41. -/
def mgmtBase : Nat := 2 ^ 41

/-- The host's access of a byte range of context HWCTX, part by part: a part that faults is not written, and what it reads is free. -/
def State.hostPut (s : State) (va : Nat) (bs : List Byte) : State :=
  (pageParts va bs.length).foldl (fun s part =>
    match s.devPlace s.hwctx (va + part.1) true with
    | .error _ => s
    | .ok p => ((s.markLeaf p true).meet p part.2).homeRun p.key ((bs.drop part.1).take part.2)) s
def State.hostGet (s : State) (va n : Nat) : List Byte × State :=
  (pageParts va n).foldl (fun r part =>
    match r.2.devPlace r.2.hwctx (va + part.1) false with
    | .error _ => (r.1 ++ bytesOfNat part.2 r.2.takeFree.1.toNat, r.2.takeFree.2)
    | .ok p => (r.1 ++ r.2.readAt p part.2, r.2.markLeaf p false)) ([], s)

/-- One host access performs. -/
def State.hostDo (s : State) (r : HostReq) : State :=
  if r.write then
    if mgmtBase ≤ r.va.toNat then s.mgmtPut (r.va.toNat - mgmtBase) r.bytes else s.hostPut r.va.toNat r.bytes
  else
    let x := if mgmtBase ≤ r.va.toNat then s.mgmtGet (r.va.toNat - mgmtBase) r.n else s.hostGet r.va.toNat r.n
    { x.2 with hostData := x.1 }

/-- Host accesses perform in order of receipt; while an earlier write waits at its home die, the later ones wait too (R275). -/
def State.hostRun : List HostReq → State → State
  | [], s => { s with hostQ := [] }
  | r :: rs, s => if s.held.isEmpty then State.hostRun rs (s.hostDo r) else { s with hostQ := r :: rs }

/-- A host access arrives. Where die 0 failed its measurement, the package presents no function to the host (R18). -/
def State.hostAsk (s : State) (r : HostReq) : State := if (s.dieAt 0).ok then State.hostRun (s.hostQ ++ [r]) s else s

def execHostWrite (va : Dword) (bytes : List Byte) (s : State) : Outcome := .next (s.hostAsk { write := true, va := va, bytes := bytes, n := 0 })
def execHostRead (va : Dword) (n : Nat) (s : State) : Outcome := .next (s.hostAsk { write := false, va := va, bytes := [], n := n })

/-- A write that waited at its home die performs, and after it the host accesses that waited for it. -/
def execCopyPendingWrite (id : Nat) (s : State) : Outcome :=
  let t := s.heldPerform id
  .next (if t.hostQ.isEmpty then t else State.hostRun t.hostQ t)

end Sys2Proof.Machine
end

