-- ==== Sys2Proof/Machine/LoadCheck.lean ====
section
/-! DEFINITION. The loader's checks of a module image (02_daxdex_form.md R37-R69, R71-R73, R142, R152, R307): steps 1 to 3 and 7
and 8 of R71, each with the status and the WHERE that a failure reports. -/
namespace Sys2Proof.Machine

/-- A rejection: STATUS, WHERE and FUNC (R72, R74). -/
structure LoadErr where
  status : Nat
  place : Nat
  func : Nat
  deriving DecidableEq, Repr, Inhabited

def rej {α : Type} (st place : Nat) : Except LoadErr α := .error { status := st, place := place, func := 0xFFFF }
/-- A check: it holds, or the request is rejected. -/
def must (ok : Bool) (st place : Nat) : Except LoadErr Unit := if ok then .ok () else rej st place
/-- The first failure of a list of checks. -/
def musts : List (Except LoadErr Unit) → Except LoadErr Unit
  | [] => .ok ()
  | c :: cs =>
    match c with
    | .error e => .error e
    | .ok _ => musts cs
/-- No WHERE applies (R74). -/
def noPlace : Nat := 0xFFFFFFFF

/-! ## Steps 1 and 2: header and directory (R38, R39) -/

structure Sect where
  kind : Nat
  len : Nat
  off : Nat
  deriving DecidableEq, Repr, Inhabited

def checkHeader (img : List Byte) : Except LoadErr Unit :=
  musts ([must (64 ≤ img.length) 0x0B noPlace, must (natAt img 0 4 == 0x58445844) 0x01 0, must (natAt img 4 2 == 1) 0x02 4] ++
    ((List.range 36).map fun i => must (natAt img (0x1C + i) 1 == 0) 0x03 (0x1C + i)) ++
    [must (natAt img 6 2 < 2) 0x03 6, must (natAt img 0x18 4 != 0) 0x03 0x18, must (natAt img 8 8 == img.length) 0x0B 8])

/-- The directory entries from number `i`: `prev` is the last KIND, `pend` the end of what lies before. -/
def checkDir (img : List Byte) (signed : Bool) : Nat → Nat → Nat → Nat → Nat → List Sect → Except LoadErr (List Sect)
  | 0, _, _, pend, _, acc =>
    let once := fun k => (acc.filter fun x => x.kind == k).length == 1
    if once 1 && once 2 && once 3 && once 7 && (!signed || once 8) && pend == img.length then .ok acc.reverse else rej 0x04 0x40
  | n + 1, i, prev, pend, ndata, acc =>
    let p := 0x40 + 16 * i
    let x : Sect := { kind := natAt img p 4, len := natAt img (p + 4) 4, off := natAt img (p + 8) 8 }
    if x.kind = 0 ∨ 8 < x.kind ∨ x.kind < prev ∨ x.off % 8 ≠ 0 ∨ x.off < pend ∨ img.length < x.off + x.len then rej 0x04 p
    else if x.kind = 5 ∧ ndata = 65535 then rej 0x18 p
    else if x.kind ≠ 5 ∧ x.kind = prev then rej 0x04 p
    else if (x.kind = 7 ∧ x.len ≠ 64) ∨ (x.kind = 8 ∧ (x.len ≠ 96 ∨ signed = false)) then rej 0x04 p
    else checkDir img signed n (i + 1) x.kind (x.off + x.len) (if x.kind = 5 then ndata + 1 else ndata) (x :: acc)

/-- The sections of an image, its directory well formed. -/
def checkDirectory (img : List Byte) : Except LoadErr (List Sect) :=
  let n := natAt img 0x10 4
  if n < 4 then rej 0x04 0x10
  else if 65542 < n then rej 0x18 0x10
  else if img.length < 0x40 + 16 * n then rej 0x04 0x10
  else checkDir img (natAt img 6 2 == 1) n 0 0 (0x40 + 16 * n) 0 []

def sectOf (ss : List Sect) (k : Nat) : Option Sect := ss.find? fun x => x.kind == k
def sectBytes (img : List Byte) (x : Sect) : List Byte := (img.drop x.off).take x.len

/-! ## Step 7: strings, signatures, linkage, data, loop tables (R40, R41, R44, R47, R48) -/

/-- UTF-8 (R40). -/
def utf8Ok : List Byte → Bool
  | [] => true
  | a :: r1 =>
    let a := a.toNat
    let cont := fun (b : Byte) => b.toNat / 64 == 2
    if a < 0x80 then utf8Ok r1
    else
      match r1 with
      | [] => false
      | b :: r2 =>
        if 0xC2 ≤ a ∧ a < 0xE0 then cont b && utf8Ok r2
        else
          match r2 with
          | [] => false
          | c :: r3 =>
            if 0xE0 ≤ a ∧ a < 0xF0 then
              cont b && cont c && (a != 0xE0 || 0xA0 ≤ b.toNat) && (a != 0xED || b.toNat < 0xA0) && utf8Ok r3
            else
              match r3 with
              | [] => false
              | d :: r4 =>
                0xF0 ≤ a && a < 0xF5 && cont b && cont c && cont d && (a != 0xF0 || 0x90 ≤ b.toNat) &&
                (a != 0xF4 || b.toNat < 0x90) && utf8Ok r4

/-- The strings of a table by the offset of their first byte. -/
def splitStrings : List Byte → Nat → Nat → List Byte → List (Nat × List Byte)
  | [], _, _, _ => []
  | b :: bs, off, start, acc =>
    if b = 0 then (start, acc.reverse) :: splitStrings bs (off + 1) (off + 1) [] else splitStrings bs (off + 1) start (b :: acc)

abbrev Strings := List (Nat × List Byte)
def Strings.at_ (t : Strings) (i : Nat) : Option (List Byte) := (t.find? fun x => x.1 == i).map Prod.snd

def checkStrings (img : List Byte) (x : Sect) : Except LoadErr Strings := do
  let bs := sectBytes img x
  must (bs.head? == some 0 && bs.getLast? == some 0) 0x10 x.off
  let ss := splitStrings bs 0 0 []
  musts (ss.map fun e => must (e.2.length ≤ 4095 && utf8Ok e.2) 0x10 (x.off + e.1))
  must (Strings.at_ ss (natAt img 0x14 4)).isSome 0x10 0x14
  return ss

/-- A type byte of a signature record (R41, R307). -/
def checkTypeByte (b place : Nat) : Except LoadErr Ty :=
  match Ty.ofCode b with
  | some .none => rej 0x11 place
  | some .frag => rej 0x24 place
  | some t => .ok t
  | none => rej 0x11 place

def mapChk {α β : Type} (f : α → Except LoadErr β) : List α → Except LoadErr (List β)
  | [] => .ok []
  | a :: as =>
    match f a with
    | .error e => .error e
    | .ok b =>
      match mapChk f as with
      | .error e => .error e
      | .ok bs => .ok (b :: bs)

/-- One signature record, at an offset of its section; the records follow the count and the `cnt` offsets. -/
def checkSig (img : List Byte) (x : Sect) (cnt o : Nat) : Except LoadErr SigInfo := do
  let p := x.off + o
  must (4 + 4 * cnt ≤ o ∧ o + 4 ≤ x.len) 0x11 p
  let pc := natAt img p 1
  let rc := natAt img (p + 1) 1
  must (rc ≤ 15) 0x18 (p + 1)
  must (natAt img (p + 2) 2 == 0) 0x11 (p + 2)
  let n := 4 + pc + rc
  let full := (n + 3) / 4 * 4
  must (o + full ≤ x.len) 0x11 p
  let ts ← mapChk (fun i => checkTypeByte (natAt img (p + 4 + i) 1) (p + 4 + i)) (List.range (pc + rc))
  musts ((List.range (full - n)).map fun i => must (natAt img (p + n + i) 1 == 0) 0x11 (p + n + i))
  return { params := ts.take pc, results := ts.drop pc }

def checkSigs (img : List Byte) (x : Sect) : Except LoadErr (List SigInfo) := do
  must (4 ≤ x.len) 0x11 x.off
  let n := natAt img x.off 4
  must (n ≤ 16777216) 0x18 x.off
  must (4 + 4 * n ≤ x.len) 0x11 x.off
  mapChk (fun i => checkSig img x n (natAt img (x.off + 4 + 4 * i) 4)) (List.range n)

def checkLink (img : List Byte) (ss : Strings) (sigs : List SigInfo) (p : Nat) : Except LoadErr LinkInfo := do
  let fr := natAt img (p + 4) 4
  let sg := natAt img (p + 8) 4
  let kind := natAt img (p + 12) 1
  let bind := natAt img (p + 13) 1
  must (ss.at_ (natAt img p 4)).isSome 0x13 p
  must (ss.at_ fr).isSome 0x13 (p + 4)
  must (kind ≤ 1) 0x13 (p + 12)
  must (if kind = 0 then decide (sg < sigs.length) else sg == 0xFFFFFFFF) 0x13 (p + 8)
  must (bind = 0 || (bind == 1 && kind == 0)) 0x13 (p + 13)
  must (natAt img (p + 14) 2 == 0) 0x13 (p + 14)
  return { sym := (ss.at_ (natAt img p 4)).getD [], from_ := if fr = 0 then none else ss.at_ fr,
           sig := if kind = 0 then sigs[sg]? else none, lazy := bind == 1 }

def checkLinks (img : List Byte) (ss : Strings) (sigs : List SigInfo) : Option Sect → Except LoadErr (List LinkInfo)
  | none => .ok []
  | some x => do
    must (8 ≤ x.len) 0x13 x.off
    let m := natAt img x.off 4
    must (m ≤ 65535) 0x18 x.off
    must (natAt img (x.off + 4) 4 == 0) 0x13 (x.off + 4)
    must (8 + 16 * m ≤ x.len) 0x13 x.off
    mapChk (fun i => checkLink img ss sigs (x.off + 8 + 16 * i)) (List.range m)

/-- A data section before it has its place: its record, log2 of its alignment, and its first bytes. -/
structure DataSect where
  info : DataInfo
  align : Nat
  content : List Byte
  deriving DecidableEq, Repr, Inhabited

def checkData (img : List Byte) (ss : Strings) (x : Sect) : Except LoadErr DataSect := do
  must (24 ≤ x.len) 0x14 x.off
  let fl := natAt img (x.off + 4) 4
  let size := natAt img (x.off + 16) 8
  must (ss.at_ (natAt img x.off 4)).isSome 0x14 x.off
  must (fl < 8) 0x14 (x.off + 4)
  must (natAt img (x.off + 8) 4 ≤ 16) 0x14 (x.off + 8)
  must (natAt img (x.off + 12) 4 == 0) 0x14 (x.off + 12)
  must (x.len == 24 + if 4 ≤ fl then 0 else size) 0x14 (x.off + 16)
  return { info := { name := (ss.at_ (natAt img x.off 4)).getD [], writable := fl % 2 == 1, exported := fl / 2 % 2 == 1, addr := 0,
                     size := size },
           align := natAt img (x.off + 8) 4, content := (img.drop (x.off + 24)).take (x.len - 24) }

/-- A loop table: where it lies, its owner and its levels. -/
structure LoopTab where
  place : Nat
  owner : Nat
  levels : List LoopLevel
  deriving DecidableEq, Repr, Inhabited

def checkLoopLevel (img : List Byte) (p : Nat) : Except LoadErr LoopLevel := do
  let kind := natAt img p 1
  let tw := natAt img (p + 12) 4
  must (kind ≤ 2) 0x15 p
  must (natAt img (p + 1) 3 == 0) 0x15 (p + 1)
  must (tw / 2 ^ 30 ≤ 1) 0x15 (p + 12)
  must (tw / 2 ^ 30 = 0 || decide (1 ≤ (BitVec.ofNat 30 tw).toInt)) 0x15 (p + 12)
  must (kind = 0 || tw / 2 ^ 30 == 1) 0x15 (p + 12)
  return { kind := kind, head := natAt img (p + 4) 4, exit := natAt img (p + 8) 4,
           trip := if tw / 2 ^ 30 = 0 then .val (BitVec.ofNat 30 tw) else .imm (BitVec.ofNat 30 tw) }

/-- One loop table; its offset counts from the first byte of the image, for R48 names no other base (R37). -/
def checkLoop (img : List Byte) (x : Sect) (fcount o : Nat) : Except LoadErr LoopTab := do
  let p := o
  must (x.off ≤ p && p + 8 ≤ x.off + x.len) 0x15 p
  let n := natAt img (p + 4) 1
  must (natAt img p 4 < fcount) 0x15 p
  must (n ≤ 6) 0x18 (p + 4)
  must (n != 0) 0x15 (p + 4)
  must (natAt img (p + 5) 3 == 0) 0x15 (p + 5)
  must (p + 8 + 16 * n ≤ x.off + x.len) 0x15 p
  let ls ← mapChk (fun i => checkLoopLevel img (p + 8 + 16 * i)) (List.range n)
  return { place := p, owner := natAt img p 4, levels := ls }

def checkLoops (img : List Byte) (fcount : Nat) : Option Sect → Except LoadErr (List LoopTab)
  | none => .ok []
  | some x => do
    must (4 ≤ x.len) 0x15 x.off
    let n := natAt img x.off 4
    must (4 + 4 * n ≤ x.len) 0x15 x.off
    mapChk (fun i => checkLoop img x fcount (natAt img (x.off + 4 + 4 * i) 4)) (List.range n)

/-! ## Step 8, first pass: one instruction (R56-R65, R71, R142, R152) -/

/-- What the checks of a function's instructions are made against. -/
structure FnCx where
  user : Bool
  sigs : List SigInfo
  links : List LinkInfo
  /-- Signature of every function of the module, where its record names one. -/
  fsigs : List (Option SigInfo)
  blks : List (List Ty)
  results : List Ty
  levels : List LoopLevel
  deriving Repr

/-- A use of a value: its type is to be in `ok`; of a type only in `wide` the combination is rejected (0x24), of another the
status is `miss`. -/
structure ValUse where
  place : Nat
  v : Nat
  ok : List Ty
  wide : List Ty
  miss : Nat
  deriving Repr, Inhabited

/-- What one operand position takes. -/
inductive Want where
  | pos (p : Pos)
  | arg (t : Ty)
  | blk
  deriving Repr

/-- The types that a source may have beside TYPE, and those of the combinations allowed (R171, R191). -/
def srcTypes (opc : Nat) (t : Ty) (ts : List Ty) : List Ty × List Ty :=
  if opc = 0x061 ∨ opc = 0x062 then (ts.filter fun u => u.width ≤ t.width, ts)
  else if opc = 0x063 then (ts.filter fun u => u != tyB1 && t.width ≤ u.width, ts)
  else if opc = 0x0D8 then (ts, [Shape.s1, Shape.s2, Shape.s4].flatMap fun sh => floatElems.map (Ty.num sh))
  else (ts, ts)

/-- One argument word of a block operand (R61). -/
def checkBlkArg (t : Ty) : Opnd → Option Nat
  | .val _ => none
  | .imm v =>
    match t with
    | .num _ e => if !e.takesImm then some 0x29 else if e.range.1 ≤ v.toInt ∧ v.toInt ≤ e.range.2 then none else some 0x2A
    | _ => some 0x29
  | .lit sz v => if litType sz [t] = some t then (if v.toNat < 2 ^ t.width then none else some 0x26) else some 0x29

/-- What the checks of operands have read so far: operands and uses (last first), the byte offset, and the words left. -/
structure OpScan where
  ops : List RawOp
  uses : List ValUse
  off : Nat
  ws : List Word

def scanArgs : List Ty → List Opnd → OpScan → Except LoadErr (List Opnd × OpScan)
  | [], acc, sc => .ok (acc.reverse, sc)
  | t :: ts, acc, sc =>
    match parseOpnd sc.ws with
    | .error .overrun => rej 0x2F (if sc.ws = [] then sc.off else sc.off + 4 * sc.ws.length)
    | .error e => rej e.status sc.off
    | .ok (o, rest) =>
      match checkBlkArg t o with
      | some st => rej st sc.off
      | none =>
        let us := match o with
          | .val n => [{ place := sc.off, v := n.toNat, ok := [t], wide := [t], miss := 0x29 : ValUse }]
          | _ => []
        scanArgs ts (o :: acc) { sc with uses := us ++ sc.uses, off := sc.off + 4 * o.words.length, ws := rest }

/-- A plain operand at a position; a form that it does not take is rejected before the operand's further words are read. -/
def scanPlain (opc : Nat) (t : Ty) (m : Nat) (p : Pos) (sc : OpScan) : Except LoadErr OpScan :=
  match sc.ws with
  | [] => rej 0x2F sc.off
  | x :: _ =>
    if x.toNat / 2 ^ 30 = 2 ∨ (x.toNat / 2 ^ 30 = 3 ∧ p.lit = false) then rej (badForm opc p false).status sc.off
    else
      match parseOpnd sc.ws with
      | .error .overrun => rej 0x2F (sc.off + 4 * sc.ws.length)
      | .error e => rej e.status sc.off
      | .ok (o, rest) =>
        match checkOpnd opc t m p o with
        | some e => rej e.status sc.off
        | none =>
          let st := srcTypes opc t (p.ty.types t m)
          let us := match o with
            | .val n => [{ place := sc.off, v := n.toNat, ok := st.1, wide := st.2, miss := 0x27 : ValUse }]
            | _ => []
          .ok { ops := .op o :: sc.ops, uses := us ++ sc.uses, off := sc.off + 4 * o.words.length, ws := rest }

def scanOpnd (cx : FnCx) (opc : Nat) (t : Ty) (m : Nat) (w : Want) (sc : OpScan) : Except LoadErr OpScan :=
  match w with
  | .pos p => scanPlain opc t m p sc
  | .arg u => scanPlain opc t m (.vil (.is u)) sc
  | .blk =>
    match sc.ws with
    | [] => rej 0x2F sc.off
    | x :: rest =>
      let b := x.toNat % 2 ^ 30
      if x.toNat / 2 ^ 30 ≠ 2 then rej 0x26 sc.off
      else if b = 0 ∨ cx.blks.length ≤ b then rej 0x28 sc.off
      else
        match scanArgs (cx.blks.getD b []) [] { sc with off := sc.off + 4, ws := rest } with
        | .error e => .error e
        | .ok (as, sc) => .ok { sc with ops := .blk { blk := BitVec.ofNat 30 b, args := as } :: sc.ops }

/-- Rules over an operand that depend on the module or on the instruction, checked when the operand has been read (R142, R152,
R291, R316, R417, R439, R73). -/
def opndRule (cx : FnCx) (r : Raw) : Option Nat :=
  let k := firstImm r.ops
  let first := r.ops.length == 1
  if r.opc = 0x2F3 ∨ r.opc = 0x2F4 ∨ r.opc = 0x2F2 then
    match (rowOf r.opc).bind fun rw => rw.extra r.ty r.mod r.ops with
    | some e => some e.status
    | none => if r.opc = 0x2F3 ∧ cx.user ∧ sysCodeUser k = false then some 0x2E else none
  else if first ∧ (r.opc = 0x004 ∨ r.opc = 0x007 ∨ r.opc = 0x013) then (if k < cx.fsigs.length then none else some 0x2A)
  else if first ∧ (r.opc = 0x005 ∨ r.opc = 0x008) then (if k < cx.sigs.length then none else some 0x2A)
  else if first ∧ r.opc = 0x014 then (if k < cx.links.length then none else some 0x2A)
  else if first ∧ r.opc = 0x006 then
    match cx.links[k]? with
    | none => some 0x2A
    | some l => if l.sig.isSome then none else some 0x24
  else if r.opc = 0x010 ∨ r.opc = 0x011 ∨ r.opc = 0x012 then (if k < cx.levels.length then none else some 0x2A)
  else (checkOperandRules r).map Reject.status

def scanOpnds (cx : FnCx) (r : Raw) : List Want → OpScan → Except LoadErr OpScan
  | [], sc => .ok sc
  | w :: ws, sc =>
    match scanOpnd cx r.opc r.ty r.mod w sc with
    | .error e => .error e
    | .ok sc' =>
      match opndRule cx { r with ops := sc'.ops.reverse } with
      | some st => rej st sc.off
      | none => scanOpnds cx r ws sc'

/-- The modifier, field by field, with the rules over several fields at the field where they can be judged, and the spaces of a
user-level module (R71, R73). -/
def scanMod (user : Bool) (rw : Row) (r : Raw) : Nat → Nat → Option Nat
  | 0, _ => none
  | k + 1, b =>
    match checkModFrom rw.mods r.mod 1 b with
    | some e => some e.status
    | none =>
      let space := rw.mods.any (fun f => f.lo == 8 && f.w == 3)
      let ruleAt := if 0x1C2 ≤ r.opc ∧ r.opc ≤ 0x1C7 then 2 else if r.opc = 0x241 then 9 else if r.opc = 0x20F then 11 else 0
      if user ∧ space ∧ b = 8 ∧ (field r.mod 8 3 = 4 ∨ field r.mod 8 3 = 5) then some 0x2E
      else
        match if b = ruleAt ∧ !(0x2F2 ≤ r.opc && r.opc ≤ 0x2F4) then rw.extra r.ty r.mod r.ops else none with
        | some e => some e.status
        | none => scanMod user rw r k (b + 1)

/-- Terminators (R53). -/
def isTerm (opc : Nat) : Bool := opc == 1 || opc == 2 || opc == 3 || (7 ≤ opc && opc ≤ 11)

/-- The signature whose parameters the arguments of a call match (R142). -/
def callSig (cx : FnCx) (r : Raw) : Option SigInfo :=
  let k := firstImm r.ops
  if r.opc = 0x004 ∨ r.opc = 0x007 then (cx.fsigs[k]?).join
  else if r.opc = 0x005 ∨ r.opc = 0x008 then cx.sigs[k]?
  else if r.opc = 0x006 then (cx.links[k]?).bind LinkInfo.sig
  else none

/-- One checked instruction. -/
structure Ins where
  blk : Nat
  idx : Nat
  place : Nat
  raw : Raw
  uses : List ValUse
  first : Nat
  res : List Ty
  deriving Repr

/-- Operands of an instruction of `n` operands, in the order of R71. -/
def scanAll (cx : FnCx) (rw : Row) (r : Raw) (n place : Nat) (sc : OpScan) : Except LoadErr OpScan :=
  let ps := (rw.pos r.ty r.mod).map Want.pos
  match rw.arity with
  | .fixed => scanOpnds cx r ps sc
  | .br => scanOpnds cx r [.blk] sc
  | .brc | .brsw => scanOpnds cx r (ps ++ List.replicate (n - 1) .blk) sc
  | .anyCount =>
    if n ≠ cx.results.length then rej 0x25 place else scanOpnds cx r (cx.results.map Want.arg) sc
  | .callLike k =>
    match scanOpnds cx r (ps.take 1) sc with
    | .error e => .error e
    | .ok sc1 =>
      match callSig cx { r with ops := sc1.ops.reverse } with
      | none => rej 0x2A sc.off
      | some sig =>
        if n ≠ k + sig.params.length then rej 0x25 place
        else if (r.opc = 0x007 ∨ r.opc = 0x008) ∧ sig.results ≠ cx.results then rej 0x24 place
        else scanOpnds cx r (ps.drop 1 ++ sig.params.map Want.arg) sc1

/-- One instruction at a byte offset: the first failing check of R71, or what stands there and the words after it. -/
def scanInstr (cx : FnCx) (place : Nat) (last : Bool) (ws : List Word) : Except LoadErr (Raw × List ValUse × Nat × List Word) :=
  match ws with
  | [] => rej 0x2F place
  | h :: ws1 =>
    let n := h.toNat
    let opc := n / 2 ^ 22
    match rowOf opc with
    | none => rej (if opc = 0 then 0x20 else if 0x3C0 ≤ opc then 0x22 else 0x21) place
    | some rw =>
      if cx.user && rw.sysOnly then rej 0x2E place
      else
        match Ty.ofCode (n / 2 ^ 16 % 64) with
        | none => rej 0x23 place
        | some ty =>
          if !rw.tyOk ty then rej 0x24 place
          else
            let r : Raw := { opc := opc, ty := ty, mod := n % 2 ^ 12, ops := [] }
            let nop := n / 2 ^ 12 % 16
            let cnt := if nop < 15 then nop else (ws1.headD 0).toNat
            if nop = 15 ∧ ws1 = [] then rej 0x2F (place + 4)
            else if nop = 15 ∧ (cnt < 15 ∨ 65535 < cnt) then rej 0x25 (place + 4)
            else if !rw.arity.countOk (rw.pos ty r.mod).length cnt then rej 0x25 place
            else
              let sc : OpScan := { ops := [], uses := [], off := if nop < 15 then place + 4 else place + 8,
                                   ws := if nop < 15 then ws1 else ws1.tail }
              match scanAll cx rw r cnt place sc with
              | .error e => .error e
              | .ok sc =>
                let r := { r with ops := sc.ops.reverse }
                match scanMod cx.user rw r 12 0 with
                | some st => rej st place
                | none => if isTerm opc ≠ last then rej 0x2D place else .ok (r, sc.uses.reverse, sc.off, sc.ws)

/-- Result types of an instruction (R52, R66). -/
def insRes (cx : FnCx) (r : Raw) : List Ty :=
  if r.opc = 0x004 ∨ r.opc = 0x005 ∨ r.opc = 0x006 then ((callSig cx r).map SigInfo.results).getD []
  else ((rowOf r.opc).map fun rw => rw.res r.ty).getD []

/-- What the first pass has read of a function. -/
structure FnScan where
  blocks : List BlockInfo
  ins : List Ins
  /-- Types and defining places of the values so far: block, and index plus 1 (0 for an argument); the last value first. -/
  vals : List (Ty × Option (Nat × Nat))
  nval : Nat
  off : Nat
  ws : List Word

def maxValues : Nat := 1048576

/-- The `n` instructions of block `b` from number `idx`. -/
def scanBlock (cx : FnCx) (b : Nat) : Nat → Nat → FnScan → Except LoadErr FnScan
  | 0, _, sc => .ok sc
  | n + 1, idx, sc =>
    match scanInstr cx sc.off (n == 0) sc.ws with
    | .error e => .error e
    | .ok (r, us, off, ws) =>
      let res := insRes cx r
      if maxValues < sc.nval + res.length then rej 0x18 sc.off
      else
        scanBlock cx b n (idx + 1)
          { sc with ins := { blk := b, idx := idx, place := sc.off, raw := r, uses := us, first := sc.nval, res := res } :: sc.ins
                    vals := res.foldl (fun vs t => (t, some (b, idx + 1)) :: vs) sc.vals
                    nval := sc.nval + res.length, off := off, ws := ws }

/-- The blocks in layout order: argument types and instruction counts. -/
def scanBlocks (cx : FnCx) : Nat → List (List Ty × Nat) → FnScan → Except LoadErr FnScan
  | _, [], sc => .ok sc
  | b, (args, n) :: bs, sc =>
    if maxValues < sc.nval + args.length then rej 0x18 sc.off
    else
      let bi : BlockInfo := { off := sc.off, ninstr := n, args := args, argBase := sc.nval }
      match scanBlock cx b n 0
          { sc with blocks := bi :: sc.blocks, vals := args.foldl (fun vs t => (t, some (b, 0)) :: vs) sc.vals
                    nval := sc.nval + args.length } with
      | .error e => .error e
      | .ok sc => scanBlocks cx (b + 1) bs sc

/-! ## Step 8, second pass: dominance, value types, frag values across calls (R54, R55, R48, R307) -/

/-- Blocks that a terminator names. -/
def rawTargets (r : Raw) : List Nat :=
  r.ops.filterMap fun o => match o with
    | .blk t => some t.blk.toNat
    | .op _ => none

/-- Successors of each block: its terminator's targets. -/
def succsOf (ins : List Ins) (b : Nat) : List Nat :=
  (ins.filter fun i => i.blk == b).flatMap fun i => rawTargets i.raw

/-- Blocks reached from some without entering block `avoid`. -/
def reachFrom (succ : Nat → List Nat) (avoid : Option Nat) : Nat → List Nat → List Nat → List Nat
  | 0, _, seen => seen
  | n + 1, front, seen =>
    let next := ((front.flatMap succ).filter fun b => some b != avoid && !seen.contains b).eraseDups
    if next = [] then seen else reachFrom succ avoid n next (seen ++ next)
/-- The same with the start blocks, those that are not to be avoided. -/
def reachSet (succ : Nat → List Nat) (avoid : Option Nat) (n : Nat) (start : List Nat) : List Nat :=
  let st := (start.filter fun b => some b != avoid).eraseDups
  reachFrom succ avoid n st st

/-- What the second pass looks at. -/
structure FnGraph where
  nblk : Nat
  succ : Nat → List Nat
  /-- Values in order. -/
  vals : List (Ty × Option (Nat × Nat))
  ins : List Ins

/-- A value is valid at instruction `idx` of block `b` (R54). -/
def FnGraph.valid (g : FnGraph) (v b idx : Nat) : Bool :=
  match g.vals[v]? with
  | none => false
  | some (_, none) => true
  | some (_, some (d, j)) =>
    if !(reachSet g.succ none g.nblk [0]).contains b then true
    else if d = b then decide (j ≤ idx)
    else !(reachSet g.succ (some d) g.nblk [0]).contains b

def checkUse (g : FnGraph) (i : Ins) (u : ValUse) : Except LoadErr Unit := do
  must (g.valid u.v i.blk i.idx) 0x27 u.place
  let t := ((g.vals[u.v]?).map Prod.fst).getD .none
  must (u.ok.contains t) (if u.wide.contains t then 0x24 else u.miss) u.place

/-- An instruction uses a value. -/
def Ins.usesVal (i : Ins) (v : Nat) : Bool := i.uses.any fun u => u.v == v

/-- Frag value `v`, defined at instruction `j` of block `d`, is live after the call `c`. -/
def FnGraph.liveAcross (g : FnGraph) (c : Ins) (v d j : Nat) : Bool :=
  let later := g.ins.any fun i => i.blk == c.blk && decide (c.idx < i.idx) && i.usesVal v
  let defAfter := d == c.blk && decide (c.idx < j)
  let out := reachSet g.succ (some d) g.nblk (g.succ c.blk)
  !(d == c.blk && j == c.idx) && !defAfter && (later || g.ins.any fun i => out.contains i.blk && i.usesVal v)

def checkIns (g : FnGraph) (levels : List LoopLevel) (i : Ins) : Except LoadErr Unit := do
  if i.raw.opc = 0x010 then
    match (levels[firstImm i.raw.ops]?).map LoopLevel.trip with
    | some (.val n) =>
      let t := ((g.vals[n.toNat]?).map Prod.fst).getD .none
      must (g.valid n.toNat i.blk i.idx && (t == tyI32 || t == tyN32)) 0x27 i.place
    | _ => pure ()
  musts (i.uses.map (checkUse g i))
  if i.raw.opc = 0x004 ∨ i.raw.opc = 0x005 ∨ i.raw.opc = 0x006 then
    must (!((List.range g.vals.length).any fun v =>
      match g.vals[v]? with
      | some (.frag, some (d, j)) => g.liveAcross i v d (j - 1)
      | _ => false)) 0x24 i.place

/-! ## Step 8: one function (R42, R43) -/

/-- What a function is checked against: the image, its function section, and what step 7 found. -/
structure ModCx where
  img : List Byte
  fsec : Sect
  user : Bool
  strs : Strings
  sigs : List SigInfo
  links : List LinkInfo
  loops : List LoopTab
  fcount : Nat

/-- One entry of a block table: parameter types and instruction count. -/
def checkBlkEntry (cx : ModCx) (p b : Nat) : Except LoadErr (List Ty × Nat) := do
  let sg := cx.sigs[natAt cx.img p 4]?
  must (sg.any fun s => s.results.isEmpty && (b != 0 || s.params.isEmpty)) 0x12 p
  let n := natAt cx.img (p + 4) 4
  must (n != 0) 0x12 (p + 4)
  must (n ≤ 65536) 0x18 (p + 4)
  return ((sg.map SigInfo.params).getD [], n)

/-- The signature that a function's record names. -/
def ModCx.fsig (cx : ModCx) (i : Nat) : Option SigInfo := cx.sigs[natAt cx.img (cx.fsec.off + 8 + 32 * i + 4) 4]?

def lookupLoop (cx : ModCx) (i loop place : Nat) : Except LoadErr (List LoopLevel) :=
  let mine := fun t => ((cx.loops[t]?).map LoopTab.owner) == some i
  if loop = 0xFFFFFFFF then
    if (List.range cx.loops.length).any mine then rej 0x15 place else .ok []
  else if cx.loops.length ≤ loop then rej 0x12 place
  else if mine loop && !((List.range cx.loops.length).any fun t => t != loop && mine t) then
    .ok (((cx.loops[loop]?).map LoopTab.levels).getD [])
  else rej 0x15 place

/-- HEAD and EXIT of a level name blocks of the function (R48). -/
def checkLevels (cx : ModCx) (loop nblk : Nat) : Except LoadErr Unit :=
  match cx.loops[loop]? with
  | none => .ok ()
  | some t =>
    musts ((List.range t.levels.length).flatMap fun k =>
      let l := t.levels.getD k default
      [must (l.head < nblk) 0x15 (t.place + 8 + 16 * k + 4), must (l.exit < nblk) 0x15 (t.place + 8 + 16 * k + 8)])

/-- A kind-00 TRIP names a value that dominates HEAD (R48). A breach that no lpbeg shows is a malformed loop table, judged when the second pass
has run (log entry on the loader's order). -/
def checkTrips (cx : ModCx) (g : FnGraph) (loop : Nat) : Except LoadErr Unit :=
  match cx.loops[loop]? with
  | none => .ok ()
  | some t =>
    musts ((List.range t.levels.length).map fun k =>
      let l := t.levels.getD k default
      match l.trip with
      | .val n => must (g.valid n.toNat l.head 0) 0x15 (t.place + 8 + 16 * k + 12)
      | _ => .ok ())

def checkFunc (cx : ModCx) (names : List (List Byte)) (i : Nat) : Except LoadErr FuncInfo := do
  let p := cx.fsec.off + 8 + 32 * i
  let recsEnd := 8 + 32 * cx.fcount
  let rd := fun o n => natAt cx.img (p + o) n
  let name := (cx.strs.at_ (rd 0 4)).getD []
  must ((cx.strs.at_ (rd 0 4)).isSome && !names.contains name) 0x12 p
  must (cx.fsig i).isSome 0x12 (p + 4)
  let nblk := rd 8 4
  must (nblk != 0) 0x12 (p + 8)
  must (nblk ≤ 65536) 0x18 (p + 8)
  let btab := rd 0x0C 4
  must (btab % 4 == 0 && recsEnd ≤ btab && btab + 8 * nblk ≤ cx.fsec.len) 0x12 (p + 0x0C)
  let code := rd 0x10 4
  let nword := rd 0x14 4
  must (code % 4 == 0 && recsEnd ≤ code) 0x12 (p + 0x10)
  must (code + 4 * nword ≤ cx.fsec.len) 0x12 (p + 0x14)
  let levels ← lookupLoop cx i (rd 0x18 4) (p + 0x18)
  must (rd 0x1C 2 < 2) 0x12 (p + 0x1C)
  must (rd 0x1E 2 % 8 == 0 && rd 0x1E 2 ≤ 768) 0x12 (p + 0x1E)
  let bs ← mapChk (fun b => checkBlkEntry cx (cx.fsec.off + btab + 8 * b) b) (List.range nblk)
  checkLevels cx (rd 0x18 4) nblk
  let sig := (cx.fsig i).getD default
  let fcx : FnCx := { user := cx.user, sigs := cx.sigs, links := cx.links, fsigs := (List.range cx.fcount).map cx.fsig,
                      blks := bs.map Prod.fst, results := sig.results, levels := levels }
  let start := cx.fsec.off + code
  let sc ← scanBlocks fcx 0 bs
    { blocks := [], ins := [], vals := (sig.params.map fun t => (t, none)).reverse, nval := sig.params.length, off := start,
      ws := wordsOfBytes ((cx.img.drop start).take (4 * nword)) }
  must sc.ws.isEmpty 0x2F sc.off
  let ins := sc.ins.reverse
  let g : FnGraph := { nblk := nblk, succ := succsOf ins, vals := sc.vals.reverse, ins := ins }
  musts (ins.map (checkIns g levels))
  checkTrips cx g (rd 0x18 4)
  let backTo := ins.flatMap fun j => (rawTargets j.raw).filter fun b => b ≤ j.blk
  return { name := name, sig := sig, blocks := sc.blocks.reverse, valTy := sc.vals.reverse.map Prod.fst, loops := levels,
           quiet := (List.range nblk).filter fun b => b == 0 || backTo.contains b
           exported := rd 0x1C 2 == 1, budget := rd 0x1E 2 }

/-- Functions in index order from number `i`; a failure names its function. -/
def checkFuncs (cx : ModCx) : Nat → Nat → List FuncInfo → Except LoadErr (List FuncInfo)
  | 0, _, acc => .ok acc.reverse
  | n + 1, i, acc =>
    match checkFunc cx (acc.map FuncInfo.name) i with
    | .error e => .error { e with func := i }
    | .ok f => checkFuncs cx n (i + 1) (f :: acc)

/-- Steps 7 and 8: a module with no place in memory yet, and its data sections. -/
def checkModule (img : List Byte) (ss : List Sect) (user : Bool) : Except LoadErr (Module × List DataSect) := do
  let fsec := (sectOf ss 2).getD default
  let strs ← checkStrings img ((sectOf ss 1).getD default)
  let sigs ← checkSigs img ((sectOf ss 3).getD default)
  let links ← checkLinks img strs sigs (sectOf ss 4)
  let datas ← mapChk (checkData img strs) (ss.filter fun x => x.kind == 5)
  let fcount := if 4 ≤ fsec.len then natAt img fsec.off 4 else 0
  let loops ← checkLoops img fcount (sectOf ss 6)
  must (8 ≤ fsec.len) 0x12 fsec.off
  must (fcount ≤ 65535) 0x18 fsec.off
  must (fcount != 0 && 8 + 32 * fcount ≤ fsec.len) 0x12 fsec.off
  must (natAt img (fsec.off + 4) 4 == 0) 0x12 (fsec.off + 4)
  let funcs ← checkFuncs { img := img, fsec := fsec, user := user, strs := strs, sigs := sigs, links := links, loops := loops,
                           fcount := fcount } fcount 0 []
  return ({ handle := 0, user := user, image := img, digest := 0, loads := 1, name := (strs.at_ (natAt img 0x14 4)).getD [],
            funcs := funcs, sigs := sigs, links := links, datas := [], descBase := 0, linkBase := 0 }, datas)

end Sys2Proof.Machine
end

