-- ==== Sys2Proof/Machine/Loader.lean ====
section
/-! DEFINITION. The loader (02_daxdex_form.md R45-R51, R70-R76, 04_control.md R141, R148): load and unload requests in order of arrival,
placement of what a module brings, eager and lazy imports, and the departure of a module. -/
namespace Sys2Proof.Machine

/-! ## Where a module lies in the loader's window -/

/-- Number of a linkage entry among the lazy ones. -/
def lazyRank (ls : List LinkInfo) (e : Nat) : Nat := ((ls.take e).filter LinkInfo.lazy).length
def Module.ndesc (m : Module) : Nat := m.funcs.length + (m.links.filter LinkInfo.lazy).length
/-- Function address of function `f`, and of the resolver stub of entry `e` (R141). -/
def Module.descVa (m : Module) (f : Nat) : Nat := m.descBase.toNat + 16 * f
def Module.stubVa (m : Module) (e : Nat) : Nat := m.descVa (m.funcs.length + lazyRank m.links e)

/-- What a module holds in the window: address and bytes of its descriptors, its linkage table and its data sections. -/
def Module.spans (m : Module) : List (Nat × Nat) :=
  (m.descBase.toNat, 16 * m.ndesc) :: (m.linkBase.toNat, 8 * m.links.length) :: m.datas.map fun d => (d.addr.toNat, d.size)
/-- An address inside a module: in its descriptors or its data (R76). -/
def Module.holds (m : Module) (a : Nat) : Bool :=
  ((m.descBase.toNat, 16 * m.ndesc) :: m.datas.map fun d => (d.addr.toNat, d.size)).any fun x => decide (x.1 ≤ a) && decide (a < x.1 + x.2)

/-- First fit: the lowest address of [lo, hi), a multiple of `al`, at which `n` bytes meet no used span. -/
def firstFit (used : List (Nat × Nat)) (lo hi n al : Nat) : Option Nat :=
  let up := fun a => (a + al - 1) / al * al
  let cands := (lo :: used.map fun x => x.1 + x.2).map up
  let ok := fun a => decide (lo ≤ a) && decide (a + n ≤ hi) &&
    used.all fun x => decide (x.2 = 0) || decide (n = 0) || decide (a + n ≤ x.1) || decide (x.1 + x.2 ≤ a)
  (cands.filter ok).foldl (fun b a => match b with
    | none => some a
    | some x => some (min x a)) none

def winMid : Nat := Config.loaderVa + Config.loaderSpan / 2
def winEnd : Nat := Config.loaderVa + Config.loaderSpan

/-- A place for each of the data sections, in order. -/
def placeDatas : List (Nat × Nat) → List DataSect → List DataInfo → Option (List DataInfo)
  | _, [], acc => some acc.reverse
  | used, d :: ds, acc =>
    let lo := if d.info.writable then winMid else Config.loaderVa
    let hi := if d.info.writable then winEnd else winMid
    match firstFit used lo hi d.info.size (2 ^ d.align) with
    | none => none
    | some a => placeDatas ((a, d.info.size) :: used) ds ({ d.info with addr := dw a } :: acc)

/-- A module with its places, when the window has room for it (R45, R47, R141). -/
def State.placeModule (s : State) (m : Module) (ds : List DataSect) : Option Module :=
  let used := s.modules.flatMap Module.spans
  match firstFit used Config.loaderVa winMid (16 * m.ndesc) 16 with
  | none => none
  | some d =>
    let used := (d, 16 * m.ndesc) :: used
    match firstFit used Config.loaderVa winMid (8 * m.links.length) 8 with
    | none => none
    | some l =>
      (placeDatas ((l, 8 * m.links.length) :: used) ds []).map fun datas =>
        { m with descBase := dw d, linkBase := dw l, datas := datas }

/-- Bytes of [va, va + n) of the window, written before the module is accepted: copies of their lines are dropped. `bs` covers the
first of them and the rest are zero. -/
def State.placeBytes (s : State) (va n : Nat) (bs : List Byte) : State :=
  let k := physKey 0 (Config.loaderDpa + (va - Config.loaderVa))
  let hit := fun line => decide (k / 128 ≤ line) && decide (line ≤ (k + n) / 128)
  let s := s.meetKey k n 0
  { s with mem := writeBytes (clearRange s.mem k (k + n)) k bs
           shr := clearRange s.shr (k / 128) ((k + n) / 128 + 1)
           rdc := s.rdc.filter fun e => !hit e.2
           rdcFills := s.rdcFills.map fun f => if hit f.2.1 then (f.1, f.2.1, false) else f
           l1 := s.l1.filter fun l => !hit l.line }

def descBytes (h f e : Nat) : List Byte := bytesOfNat 4 descMagic ++ bytesOfNat 2 h ++ bytesOfNat 2 f ++ bytesOfNat 4 e ++ bytesOfNat 4 0

/-- The descriptor table of a module: its functions, then a stub per lazy entry (R141). -/
def Module.descTable (m : Module) : List Byte :=
  ((List.range m.funcs.length).flatMap fun f => descBytes m.handle f 0) ++
  ((List.range m.links.length).filter fun e => (m.links[e]?).any LinkInfo.lazy).flatMap fun e => descBytes m.handle 0xFFFF e

/-! ## Imports (R46, R148) -/

/-- Where an export of the import's kind and name lies in a module: its address, or a signature that differs. -/
def Module.exports (m : Module) (l : LinkInfo) : Option (Except Unit Nat) :=
  match l.sig with
  | some sig =>
    ((List.range m.funcs.length).find? fun f => (m.funcs[f]?).any fun fi => fi.exported && fi.name == l.sym).map fun f =>
      if ((m.funcs[f]?).map FuncInfo.sig) == some sig then .ok (m.descVa f) else .error ()
  | none => (m.datas.find? fun d => d.exported && d.name == l.sym).map fun d => .ok d.addr.toNat

/-- The import search: loaded modules, oldest first. -/
def State.findImport (s : State) (l : LinkInfo) : Option (Except Unit Nat) :=
  ((s.modules.filter fun m => 0 < m.loads && (l.from_.all fun n => n == m.name)).filterMap fun m => m.exports l).head?

/-- Eager imports in descriptor order: the address of each entry; a lazy one gets its stub afterwards. -/
def State.bindAll (s : State) (place : Nat) : Nat → List LinkInfo → Except LoadErr (List Nat)
  | _, [] => .ok []
  | i, l :: ls =>
    let rest := s.bindAll place (i + 1) ls
    if l.lazy then rest.map (0 :: ·)
    else
      match s.findImport l with
      | none => rej 0x16 (place + 8 + 16 * i)
      | some (.error _) => rej 0x17 (place + 8 + 16 * i)
      | some (.ok a) => rest.map (a :: ·)

/-! ## Requests (R70-R76) -/

/-- The load-status word (R74). -/
def statusWord (st place func : Nat) : Dword := dw (place % 2 ^ 32 * 2 ^ 32 + func % 2 ^ 16 * 2 ^ 16 + st % 256)
def LoadErr.word (e : LoadErr) : Dword := statusWord e.status e.place e.func

/-- A request completes. -/
def State.loadDone (s : State) (st : Dword) : State :=
  (s.sysSet 0 0x00C st).sysSet 0 0x00D (s.sysGet 0 0x00D + 1)

/-- The bytes of an image through a context, page by page; none where a page is not there, is another device's or lies in the
reservation (R21). -/
def State.imageBytes (s : State) (ctx : Nat) : Nat → Nat → Nat → Option (List Byte)
  | 0, _, _ => some []
  | k + 1, va, n =>
    if n = 0 then some []
    else
      let m := min n (65536 - va % 65536)
      match s.walk ctx va with
      | .error _ => none
      | .ok p =>
        if eFab p.leaf || decide (Config.reservation ≤ p.dpa) then none
        else (s.imageBytes ctx k (va + m) (n - m)).map (s.readAt p m ++ ·)

def State.loadImage (s : State) (ctx va n : Nat) : Option (List Byte) := s.imageBytes ctx (n / 65536 + 2) va n

/-- The module-signature check (R50, R51). -/
def State.checkSignature (s : State) (img digest : List Byte) (ss : List Sect) : Except LoadErr Unit :=
  match sectOf ss 8 with
  | none => must (!bit (s.sysGet 0 0x008) 0) 0x06 noPlace
  | some x => do
    let pk := (img.drop x.off).take 32
    must (s.trust.moduleKeys.any fun k => bytesOfNat 32 k.toNat == pk) 0x07 x.off
    must (ed25519Verify pk digest ((img.drop (x.off + 32)).take 64)) 0x08 (x.off + 32)

/-- What an accepted request does. -/
inductive Accepted where
  | again (h : Nat)
  | fresh (m : Module) (ds : List DataSect) (targets : List Nat)
  deriving DecidableEq, Repr

/-- The lowest handle that no present module holds (R76). -/
def State.freeHandle (s : State) : Option Nat :=
  ((List.range (s.modules.length + 1)).map (· + 1)).find? fun h => h ≤ 65535 && s.modules.all fun m => m.handle != h

/-- Steps 1 to 10 of R71 on the loader's copy of an image. -/
def State.judge (s : State) (user : Bool) (img : List Byte) : Except LoadErr Accepted := do
  checkHeader img
  let ss ← checkDirectory img
  let hoff := ((sectOf ss 7).map Sect.off).getD 0
  let digest := sha512 (img.take hoff)
  must (digest == (img.drop hoff).take 64) 0x05 hoff
  s.checkSignature img digest ss
  must (natAt img 0x18 4 ≤ Config.translatorGen) 0x09 0x18
  let dg := BitVec.ofNat 512 (natOfBytes digest)
  match s.modules.find? fun m => m.digest == dg with
  | some m => if m.user = user then return .again m.handle else rej 0x0D hoff
  | none =>
    must (!s.modules.any fun m => m.digest.setWidth 64 == dg.setWidth 64) 0x0A hoff
    let r ← checkModule img ss user
    let targets ← s.bindAll (((sectOf ss 4).map Sect.off).getD 0) 0 r.1.links
    match s.freeHandle with
    | none => rej 0x30 noPlace
    | some h =>
      match s.placeModule { r.1 with handle := h, digest := dg } r.2 with
      | none => rej 0x30 noPlace
      | some m => return .fresh m r.2 targets

/-- An accepted module takes its place (R45, R47, R141). -/
def State.install (s : State) (m : Module) (ds : List DataSect) (targets : List Nat) : State :=
  let entry := fun i => if (m.links[i]?).any LinkInfo.lazy then m.stubVa i else targets.getD i 0
  let s := s.placeBytes m.descBase.toNat (16 * m.ndesc) m.descTable
  let s := s.placeBytes m.linkBase.toNat (8 * m.links.length) ((List.range m.links.length).flatMap fun i => bytesOfNat 8 (entry i))
  let s := (m.datas.zip ds).foldl (fun s d => s.placeBytes d.1.addr.toNat d.1.size d.2.content) s
  { s with modules := s.modules ++ [m] }

def State.updModule (s : State) (h : Nat) (f : Module → Module) : State :=
  { s with modules := s.modules.map fun m => if m.handle == h then f m else m }

/-- A load request (R70, R71, R75, R76). An image that cannot be read gives a load-status word that the manual does not state. -/
def State.serveLoad (s : State) (user : Bool) (addr : Dword) (len ctx : Nat) : State :=
  if len < 64 then s.loadDone (statusWord 0x0B noPlace 0xFFFF)
  else
    match s.loadImage ctx addr.toNat len with
    | none => let r := s.takeFree; r.2.loadDone (r.1.setWidth 64 &&& 0xFFFFFFFFFFFF00FF#64)
    | some img =>
      match s.judge user img with
      | .error e => s.loadDone e.word
      | .ok (.again h) => (s.updModule h fun m => { m with loads := m.loads + 1 }).loadDone (statusWord 0 h 0xFFFF)
      | .ok (.fresh m ds ts) => (s.install m ds ts).loadDone (statusWord 0 m.handle 0xFFFF)

/-- An unload request (R71, R76). -/
def State.serveUnload (s : State) (h : Nat) : State :=
  match s.moduleOf h with
  | some m =>
    if m.loads = 0 then s.loadDone (statusWord 0x0C noPlace 0xFFFF)
    else (s.updModule h fun m => { m with loads := m.loads - 1 }).loadDone (statusWord 0 h 0xFFFF)
  | none => s.loadDone (statusWord 0x0C noPlace 0xFFFF)

/-- The loader serves the request at the head of its queue. While frames are copy-pending it waits (see the assumption log). -/
def execLoaderServe (s : State) : Outcome :=
  .next (
    if s.ckpt.on || !(s.dieAt 0).ok then s
    else
      match s.loads with
      | .load user addr len ctx :: rest => { s with loads := rest }.serveLoad user addr len ctx
      | .unload h :: rest => { s with loads := rest }.serveUnload h
      | _ => s)

/-! ## Requests of the host (R417 LDGO, R484) -/

/-- The host writes LDGO with a module level, or with the unload bit. -/
def execLoadRequest (level : Bool) (s : State) : Outcome :=
  .next (if (s.dieAt 0).ok then s.queueLoad (if level then 1 else 0) s.hwctx else s)
def execUnloadRequest (s : State) : Outcome := .next (if (s.dieAt 0).ok then s.queueLoad 2 s.hwctx else s)

/-! ## Lazy linkage (R148) -/

/-- The lanes of a wave that wait for a linkage entry. -/
def State.resolveMask (s : State) (wi h e : Nat) : Mask := maskOf fun L => ((s.waveAt wi).lane L).wait = .resolve h e
/-- They run again: each group issues its call anew. -/
def State.wakeResolve (s : State) (wi h e : Nat) : State :=
  s.updWave wi fun w => w.mapLanes fun _ l => if l.wait = .resolve h e then { l with st := .running, wait := .none } else l

/-- The call of the first group that waits takes a fault: its masks name lanes of this group only (R137). With no such group a continuation's call
waits, and fails. -/
def State.resolveFault (s : State) (wi h e : Nat) (c : Cause) : State :=
  let m := s.resolveMask wi h e
  if m = 0 then s else
  let m := maskOf fun L => inMask m L && ((s.waveAt wi).lane L).pc == ((s.waveAt wi).lane ((lanesOf m).headD 0)).pc
  let loc := ((s.waveAt wi).lane ((lanesOf m).headD 0)).pc
  let addr := if c.code = 0x20 then ((s.moduleOf h).map fun x => x.stubVa e).getD 0 else 0
  (s.wakeResolve wi h e).faultAt wi m loc c m 0 (dw addr)

/-- The request of a wave for linkage entry `e` of module `h`. -/
def State.serveResolve (s : State) (wi h e : Nat) : State :=
  match s.moduleOf h with
  | none => s.resolveFault wi h e (causeT 0x21 1)
  | some m =>
    match m.links[e]? with
    | none => s.resolveFault wi h e (causeT 0x21 1)
    | some l =>
      if s.linkEntry h e ≠ m.stubVa e then s.wakeResolve wi h e
      else
        match s.findImport l with
        | none => s.resolveFault wi h e (causeT 0x20 2)
        | some (.error _) => s.resolveFault wi h e (causeT 0x21 1)
        | some (.ok a) =>
          let k := physKey 0 (Config.loaderDpa + (m.linkBase.toNat + 8 * e - Config.loaderVa))
          ((s.meetKey k 8 0).homeWrite k (bytesOfNat 8 a)).wakeResolve wi h e

def execLazyResolve (s : State) : Outcome :=
  .next (
    if s.ckpt.on then s
    else
      match s.loads with
      | .resolve tok h e :: rest =>
        let s := { s with loads := rest }
        match s.waveOf tok with
        | some wi => if s.resolveMask wi h e = 0 ∧ (s.waveAt wi).contAsk = none then s else s.serveResolve wi h e
        | none => s
      | _ => s)

/-! ## Departure (R76) -/

/-- A task refers to a module's functions: its launch record, a program counter or an activation of one of its lanes, or its
continuation. -/
def State.taskRefers (s : State) (m : Module) : Bool :=
  s.tasks.any (fun t => t.launch.handle == m.handle) ||
  s.waves.any fun w => w.live &&
    (m.holds w.contfn.toNat ||
     w.lanes.any fun l => l.pc.handle == m.handle || l.frames.any fun f => f.ret.any fun r => r.handle == m.handle)

/-- A linkage entry of another module holds an address inside a module. -/
def State.linkRefers (s : State) (m : Module) : Bool :=
  s.modules.any fun o => o.handle != m.handle && (List.range o.links.length).any fun e => m.holds (s.linkEntry o.handle e)

/-- A module whose load count is zero and to which nothing refers leaves the device, and its translations with it. -/
def execModuleLeave (h : Nat) (s : State) : Outcome :=
  .next (
    match s.moduleOf h with
    | none => s
    | some m =>
      if m.loads ≠ 0 ∨ s.taskRefers m = true ∨ s.linkRefers m = true then s
      else
        { s with modules := s.modules.filter fun x => x.handle != h
                 images := s.images.filter fun i => i.key.modkey != m.key
                 transReqs := s.transReqs.filter fun r => r.handle != h })

end Sys2Proof.Machine
end

