-- ==== Sys2Proof/Machine/Dispatch.lean ====
section
/-! DEFINITION. The one dispatch: every constructor of Instr to its meaning. -/
namespace Sys2Proof.Machine

def exec (i : Instr) (s : State) : Host.Outcome State Fault Refusal :=
  match i with
  | .br t => Sys2Proof.Machine.execBr t s
  | .brc c t f => Sys2Proof.Machine.execBrc c t f s
  | .brsw ty xs d cases => Sys2Proof.Machine.execBrsw ty xs d cases s
  | .call fidx args => Sys2Proof.Machine.execCall fidx args s
  | .callx sidx addr args => Sys2Proof.Machine.execCallx sidx addr args s
  | .calll lidx args => Sys2Proof.Machine.execCalll lidx args s
  | .tcall fidx args => Sys2Proof.Machine.execTcall fidx args s
  | .tcallx sidx addr args => Sys2Proof.Machine.execTcallx sidx addr args s
  | .ret vs => Sys2Proof.Machine.execRet vs s
  | .rjenrol k => Sys2Proof.Machine.execRjenrol k s
  | .rjwait k => Sys2Proof.Machine.execRjwait k s
  | .rjstrike k => Sys2Proof.Machine.execRjstrike k s
  | .rjmask k => Sys2Proof.Machine.execRjmask k s
  | .lpbeg k => Sys2Proof.Machine.execLpbeg k s
  | .lpend k => Sys2Proof.Machine.execLpend k s
  | .lpidx ty k => Sys2Proof.Machine.execLpidx ty k s
  | .fnaddr fidx => Sys2Proof.Machine.execFnaddr fidx s
  | .lnkaddr lidx => Sys2Proof.Machine.execLnkaddr lidx s
  | .add ty a b => Sys2Proof.Machine.execAdd ty a b s
  | .sub ty a b => Sys2Proof.Machine.execSub ty a b s
  | .mul ty a b => Sys2Proof.Machine.execMul ty a b s
  | .mulhi ty a b => Sys2Proof.Machine.execMulhi ty a b s
  | .mad ty a b c => Sys2Proof.Machine.execMad ty a b c s
  | .div ty a b => Sys2Proof.Machine.execDiv ty a b s
  | .rem ty a b => Sys2Proof.Machine.execRem ty a b s
  | .neg ty a => Sys2Proof.Machine.execNeg ty a s
  | .abs ty a => Sys2Proof.Machine.execAbs ty a s
  | .min ty a b => Sys2Proof.Machine.execMin ty a b s
  | .max ty a b => Sys2Proof.Machine.execMax ty a b s
  | .addsat ty a b => Sys2Proof.Machine.execAddsat ty a b s
  | .subsat ty a b => Sys2Proof.Machine.execSubsat ty a b s
  | .addc ty a b cin => Sys2Proof.Machine.execAddc ty a b cin s
  | .subb ty a b bin => Sys2Proof.Machine.execSubb ty a b bin s
  | .and ty a b => Sys2Proof.Machine.execAnd ty a b s
  | .or ty a b => Sys2Proof.Machine.execOr ty a b s
  | .xor ty a b => Sys2Proof.Machine.execXor ty a b s
  | .not ty a => Sys2Proof.Machine.execNot ty a s
  | .andn ty a b => Sys2Proof.Machine.execAndn ty a b s
  | .shl ty a n => Sys2Proof.Machine.execShl ty a n s
  | .shr ty a n => Sys2Proof.Machine.execShr ty a n s
  | .sra ty a n => Sys2Proof.Machine.execSra ty a n s
  | .rotl ty a n => Sys2Proof.Machine.execRotl ty a n s
  | .rotr ty a n => Sys2Proof.Machine.execRotr ty a n s
  | .clz ty a => Sys2Proof.Machine.execClz ty a s
  | .ctz ty a => Sys2Proof.Machine.execCtz ty a s
  | .popc ty a => Sys2Proof.Machine.execPopc ty a s
  | .brev ty a => Sys2Proof.Machine.execBrev ty a s
  | .bswap ty a => Sys2Proof.Machine.execBswap ty a s
  | .bfx ty a off width => Sys2Proof.Machine.execBfx ty a off width s
  | .bfi ty a ins off width => Sys2Proof.Machine.execBfi ty a ins off width s
  | .cmp ty code a b => Sys2Proof.Machine.execCmp ty code a b s
  | .sel ty c a b => Sys2Proof.Machine.execSel ty c a b s
  | .zext ty a => Sys2Proof.Machine.execZext ty a s
  | .sext ty a => Sys2Proof.Machine.execSext ty a s
  | .trunc ty a => Sys2Proof.Machine.execTrunc ty a s
  | .lea shift base idx disp => Sys2Proof.Machine.execLea shift base idx disp s
  | .const ty v => Sys2Proof.Machine.execConst ty v s
  | .sreg ty code => Sys2Proof.Machine.execSreg ty code s
  | .fadd ty m a b => Sys2Proof.Machine.execFadd ty m a b s
  | .fsub ty m a b => Sys2Proof.Machine.execFsub ty m a b s
  | .fmul ty m a b => Sys2Proof.Machine.execFmul ty m a b s
  | .fma ty m a b c => Sys2Proof.Machine.execFma ty m a b c s
  | .fdiv ty m a b => Sys2Proof.Machine.execFdiv ty m a b s
  | .fsqrt ty m a => Sys2Proof.Machine.execFsqrt ty m a s
  | .frsqrt ty m a => Sys2Proof.Machine.execFrsqrt ty m a s
  | .frcp ty m a => Sys2Proof.Machine.execFrcp ty m a s
  | .fmin ty ftzi a b => Sys2Proof.Machine.execFmin ty ftzi a b s
  | .fmax ty ftzi a b => Sys2Proof.Machine.execFmax ty ftzi a b s
  | .fabs ty a => Sys2Proof.Machine.execFabs ty a s
  | .fneg ty a => Sys2Proof.Machine.execFneg ty a s
  | .fcpsgn ty a b => Sys2Proof.Machine.execFcpsgn ty a b s
  | .fcmp ty ftzi code a b => Sys2Proof.Machine.execFcmp ty ftzi code a b s
  | .fclass ty ftzi a => Sys2Proof.Machine.execFclass ty ftzi a s
  | .frint ty rnd ftzi a => Sys2Proof.Machine.execFrint ty rnd ftzi a s
  | .fscale ty m a n => Sys2Proof.Machine.execFscale ty m a n s
  | .fexp2 ty m a => Sys2Proof.Machine.execFexp2 ty m a s
  | .flog2 ty m a => Sys2Proof.Machine.execFlog2 ty m a s
  | .fsin ty m a => Sys2Proof.Machine.execFsin ty m a s
  | .fcos ty m a => Sys2Proof.Machine.execFcos ty m a s
  | .fsincos ty m a => Sys2Proof.Machine.execFsincos ty m a s
  | .ftanh ty m a => Sys2Proof.Machine.execFtanh ty m a s
  | .fsigm ty m a => Sys2Proof.Machine.execFsigm ty m a s
  | .fcvt ty m a => Sys2Proof.Machine.execFcvt ty m a s
  | .ftoi ty rnd ftzi a => Sys2Proof.Machine.execFtoi ty rnd ftzi a s
  | .itof ty rnd sat a => Sys2Proof.Machine.execItof ty rnd sat a s
  | .fpack2 ty m a b => Sys2Proof.Machine.execFpack2 ty m a b s
  | .funpack2 ftzi a => Sys2Proof.Machine.execFunpack2 ftzi a s
  | .mxq ty rnd ftzi x => Sys2Proof.Machine.execMxq ty rnd ftzi x s
  | .mxdq ty rnd sat ftzo e xs => Sys2Proof.Machine.execMxdq ty rnd sat ftzo e xs s
  | .fsflag mask => Sys2Proof.Machine.execFsflag mask s
  | .lswap ty a m => Sys2Proof.Machine.execLswap ty a m s
  | .lshfl ty a idx => Sys2Proof.Machine.execLshfl ty a idx s
  | .lbcast ty a src => Sys2Proof.Machine.execLbcast ty a src s
  | .lrot ty a n => Sys2Proof.Machine.execLrot ty a n s
  | .lvote c => Sys2Proof.Machine.execLvote c s
  | .lany c => Sys2Proof.Machine.execLany c s
  | .lall c => Sys2Proof.Machine.execLall c s
  | .lred ty op a => Sys2Proof.Machine.execLred ty op a s
  | .lscan ty op excl a => Sys2Proof.Machine.execLscan ty op excl a s
  | .lfirst c => Sys2Proof.Machine.execLfirst c s
  | .lmatch a => Sys2Proof.Machine.execLmatch a s
  | .rng ty xs xi => Sys2Proof.Machine.execRng ty xs xi s
  | .spmax ty base n => Sys2Proof.Machine.execSpmax ty base n s
  | .spsoftmax ty out base dst n tau => Sys2Proof.Machine.execSpsoftmax ty out base dst n tau s
  | .sptopk ty base dst n k => Sys2Proof.Machine.execSptopk ty base dst n k s
  | .spsample ty base n xs xi => Sys2Proof.Machine.execSpsample ty base n xs xi s
  | .spargmax ty base n => Sys2Proof.Machine.execSpargmax ty base n s
  | .spsum ty base n => Sys2Proof.Machine.execSpsum ty base n s
  | .ld ty m a => Sys2Proof.Machine.execLd ty m a s
  | .st ty m a v => Sys2Proof.Machine.execSt ty m a v s
  | .ldv ty m base => Sys2Proof.Machine.execLdv ty m base s
  | .stv ty m base v => Sys2Proof.Machine.execStv ty m base v s
  | .ldblk m off src len => Sys2Proof.Machine.execLdblk m off src len s
  | .stblk m dst off len => Sys2Proof.Machine.execStblk m dst off len s
  | .prefetch m a => Sys2Proof.Machine.execPrefetch m a s
  | .wbline w => Sys2Proof.Machine.execWbline w s
  | .invline space a => Sys2Proof.Machine.execInvline space a s
  | .zline m a => Sys2Proof.Machine.execZline m a s
  | .spq off len => Sys2Proof.Machine.execSpq off len s
  | .pvbase w => Sys2Proof.Machine.execPvbase w s
  | .fence ord scope => Sys2Proof.Machine.execFence ord scope s
  | .barinit scope space base expa => Sys2Proof.Machine.execBarinit scope space base expa s
  | .bararr scope space base cnt => Sys2Proof.Machine.execBararr scope space base cnt s
  | .barwait scope space base tok => Sys2Proof.Machine.execBarwait scope space base tok s
  | .barsync scope space base => Sys2Proof.Machine.execBarsync scope space base s
  | .barexp scope space base bytes => Sys2Proof.Machine.execBarexp scope space base bytes s
  | .bartest scope space base tok => Sys2Proof.Machine.execBartest scope space base tok s
  | .waitval ty m a v cond => Sys2Proof.Machine.execWaitval ty m a v cond s
  | .sleep t => Sys2Proof.Machine.execSleep t s
  | .wake w => Sys2Proof.Machine.execWake w s
  | .atomadd ty m a v => Sys2Proof.Machine.execAtomadd ty m a v s
  | .atomfadd ty m a v => Sys2Proof.Machine.execAtomfadd ty m a v s
  | .atomand ty m a v => Sys2Proof.Machine.execAtomand ty m a v s
  | .atomor ty m a v => Sys2Proof.Machine.execAtomor ty m a v s
  | .atomxor ty m a v => Sys2Proof.Machine.execAtomxor ty m a v s
  | .atommin ty m a v => Sys2Proof.Machine.execAtommin ty m a v s
  | .atommax ty m a v => Sys2Proof.Machine.execAtommax ty m a v s
  | .atomfmin ty m a v => Sys2Proof.Machine.execAtomfmin ty m a v s
  | .atomfmax ty m a v => Sys2Proof.Machine.execAtomfmax ty m a v s
  | .atominc ty m a v => Sys2Proof.Machine.execAtominc ty m a v s
  | .atomdec ty m a v => Sys2Proof.Machine.execAtomdec ty m a v s
  | .atomxchg ty m a v => Sys2Proof.Machine.execAtomxchg ty m a v s
  | .atomcas ty m a cmp new => Sys2Proof.Machine.execAtomcas ty m a cmp new s
  | .atomcas2 ty m a cmp new => Sys2Proof.Machine.execAtomcas2 ty m a cmp new s
  | .red ty m op a v => Sys2Proof.Machine.execRed ty m op a v s
  | .redf ty m op a v => Sys2Proof.Machine.execRedf ty m op a v s
  | .mma aFmt bFmt afrag sat c a b k => Sys2Proof.Machine.execMma aFmt bFmt afrag sat c a b k s
  | .mmamx aFmt bFmt c a b k => Sys2Proof.Machine.execMmamx aFmt bFmt c a b k s
  | .mld m addr pitch fmt => Sys2Proof.Machine.execMld m addr pitch fmt s
  | .mst m addr pitch t fmt amax => Sys2Proof.Machine.execMst m addr pitch t fmt amax s
  | .mwait t => Sys2Proof.Machine.execMwait t s
  | .mdesc base rpitch tpitch rot sbase srpitch => Sys2Proof.Machine.execMdesc base rpitch tpitch rot sbase srpitch s
  | .mtrans t => Sys2Proof.Machine.execMtrans t s
  | .mquery code => Sys2Proof.Machine.execMquery code s
  | .engbind ctl cbase ncmd crbase ncpl => Sys2Proof.Machine.execEngbind ctl cbase ncmd crbase ncpl s
  | .engunbind h => Sys2Proof.Machine.execEngunbind h s
  | .cmpwait h target => Sys2Proof.Machine.execCmpwait h target s
  | .cmpnext h done => Sys2Proof.Machine.execCmpnext h done s
  | .engstat h code => Sys2Proof.Machine.execEngstat h code s
  | .caput spadSrc rb src => Sys2Proof.Machine.execCaput spadSrc rb src s
  | .caget rb x => Sys2Proof.Machine.execCaget rb x s
  | .caref rb x k => Sys2Proof.Machine.execCaref rb x k s
  | .cadrop rb x k => Sys2Proof.Machine.execCadrop rb x k s
  | .caswap rb slot expect new => Sys2Proof.Machine.execCaswap rb slot expect new s
  | .cawalk rb root off => Sys2Proof.Machine.execCawalk rb root off s
  | .castat rb x code => Sys2Proof.Machine.execCastat rb x code s
  | .canode rb hdr c0 c1 c2 c3 c4 c5 c6 => Sys2Proof.Machine.execCanode rb hdr c0 c1 c2 c3 c4 c5 c6 s
  | .tasknew rec => Sys2Proof.Machine.execTasknew rec s
  | .taskdep pred succ => Sys2Proof.Machine.execTaskdep pred succ s
  | .taskarm t n => Sys2Proof.Machine.execTaskarm t n s
  | .gangid code => Sys2Proof.Machine.execGangid code s
  | .prio st p => Sys2Proof.Machine.execPrio st p s
  | .estim e => Sys2Proof.Machine.execEstim e s
  | .dcount code => Sys2Proof.Machine.execDcount code s
  | .dseq init die region n => Sys2Proof.Machine.execDseq init die region n s
  | .trap code => Sys2Proof.Machine.execTrap code s
  | .brk id => Sys2Proof.Machine.execBrk id s
  | .assert c code => Sys2Proof.Machine.execAssert c code s
  | .sysrd code => Sys2Proof.Machine.execSysrd code s
  | .syswr code v => Sys2Proof.Machine.execSyswr code v s
  | .contset fn arg => Sys2Proof.Machine.execContset fn arg s
  | .contsig tok => Sys2Proof.Machine.execContsig tok s
  | .ckpt mode desc => Sys2Proof.Machine.execCkpt mode desc s
  | .tlbinv kind va => Sys2Proof.Machine.execTlbinv kind va s
  | .tcinv h f => Sys2Proof.Machine.execTcinv h f s
  | .evtsig code => Sys2Proof.Machine.execEvtsig code s
  | .spanComplete w => Sys2Proof.Machine.execSpanComplete w s
  | .blockCopyLineDone id line => Sys2Proof.Machine.execBlockCopyLineDone id line s
  | .barrierWaitRelease w => Sys2Proof.Machine.execBarrierWaitRelease w s
  | .waitvalReread w => Sys2Proof.Machine.execWaitvalReread w s
  | .sleepTimeout w => Sys2Proof.Machine.execSleepTimeout w s
  | .reductionRoundComplete n off => Sys2Proof.Machine.execReductionRoundComplete n off s
  | .reductionRoundTimeout n off => Sys2Proof.Machine.execReductionRoundTimeout n off s
  | .quernAccept d c q w => Sys2Proof.Machine.execQuernAccept d c q w s
  | .quernOpComplete d c q => Sys2Proof.Machine.execQuernOpComplete d c q s
  | .notifyFetch b => Sys2Proof.Machine.execNotifyFetch b s
  | .commandBegin b => Sys2Proof.Machine.execCommandBegin b s
  | .copy id => Sys2Proof.Machine.execCopy id s
  | .copyNd id => Sys2Proof.Machine.execCopyNd id s
  | .gather id => Sys2Proof.Machine.execGather id s
  | .scatter id => Sys2Proof.Machine.execScatter id s
  | .engineFill id => Sys2Proof.Machine.execEngineFill id s
  | .rcopy id => Sys2Proof.Machine.execRcopy id s
  | .caout id => Sys2Proof.Machine.execCaout id s
  | .commandComplete b => Sys2Proof.Machine.execCommandComplete b s
  | .vaultPartApply d v r => Sys2Proof.Machine.execVaultPartApply d v r s
  | .sequenceGapTimeout d v r => Sys2Proof.Machine.execSequenceGapTimeout d v r s
  | .backgroundDrop n => Sys2Proof.Machine.execBackgroundDrop n s
  | .backgroundDropRetry n => Sys2Proof.Machine.execBackgroundDropRetry n s
  | .regionInitDone n => Sys2Proof.Machine.execRegionInitDone n s
  | .workgroupAdmit d => Sys2Proof.Machine.execWorkgroupAdmit d s
  | .placementStalled t => Sys2Proof.Machine.execPlacementStalled t s
  | .preemptDecide d t => Sys2Proof.Machine.execPreemptDecide d t s
  | .gangFold w => Sys2Proof.Machine.execGangFold w s
  | .landing w => Sys2Proof.Machine.execLanding w s
  | .starvationPrimary d core => Sys2Proof.Machine.execStarvationPrimary d core s
  | .groupOfferRotate w => Sys2Proof.Machine.execGroupOfferRotate w s
  | .throttlePrimary d core => Sys2Proof.Machine.execThrottlePrimary d core s
  | .translationMiss w => Sys2Proof.Machine.execTranslationMiss w s
  | .translationComplete d n => Sys2Proof.Machine.execTranslationComplete d n s
  | .waveMigrate w => Sys2Proof.Machine.execWaveMigrate w s
  | .waveUnparkPresence w => Sys2Proof.Machine.execWaveUnparkPresence w s
  | .remoteWriteCheck id => Sys2Proof.Machine.execRemoteWriteCheck id s
  | .negativeAckArrival id => Sys2Proof.Machine.execNegativeAckArrival id s
  | .rdcInvalidation d id => Sys2Proof.Machine.execRdcInvalidation d id s
  | .homeWritePerform id => Sys2Proof.Machine.execHomeWritePerform id s
  | .rdcFillArrival d line => Sys2Proof.Machine.execRdcFillArrival d line s
  | .fabricRead port => Sys2Proof.Machine.execFabricRead port s
  | .fabricReadData port => Sys2Proof.Machine.execFabricReadData port s
  | .fabricWrite port => Sys2Proof.Machine.execFabricWrite port s
  | .fabricAtomic port => Sys2Proof.Machine.execFabricAtomic port s
  | .fabricAtomicData port => Sys2Proof.Machine.execFabricAtomicData port s
  | .fabricWriteAck port => Sys2Proof.Machine.execFabricWriteAck port s
  | .fabricNegativeAck port => Sys2Proof.Machine.execFabricNegativeAck port s
  | .fabricContribution port => Sys2Proof.Machine.execFabricContribution port s
  | .flitReplayTimeout port => Sys2Proof.Machine.execFlitReplayTimeout port s
  | .noticeRingDrain ctx => Sys2Proof.Machine.execNoticeRingDrain ctx s
  | .cutReport w => Sys2Proof.Machine.execCutReport w s
  | .cutStop w => Sys2Proof.Machine.execCutStop w s
  | .contextSave g => Sys2Proof.Machine.execContextSave g s
  | .contextRestore g => Sys2Proof.Machine.execContextRestore g s
  | .copyPendingWrite id => Sys2Proof.Machine.execCopyPendingWrite id s
  | .moduleLeave h => Sys2Proof.Machine.execModuleLeave h s
  | .emptyTurn w => Sys2Proof.Machine.execEmptyTurn w s
  | .yieldHoldEnd w => Sys2Proof.Machine.execYieldHoldEnd w s
  | .regionEnable n v => Sys2Proof.Machine.execRegionEnable n v s
  | .regionDisable n v => Sys2Proof.Machine.execRegionDisable n v s
  | .vaultTempSample d temps => Sys2Proof.Machine.execVaultTempSample d temps s
  | .clusterGate d c => Sys2Proof.Machine.execClusterGate d c s
  | .mov dst sa hi lit => Sys2Proof.Machine.execMov dst sa hi lit s
  | .spill sa imm callee => Sys2Proof.Machine.execSpill sa imm callee s
  | .fill dst imm callee land => Sys2Proof.Machine.execFill dst imm callee land s
  | .fmtset dst lit => Sys2Proof.Machine.execFmtset dst lit s
  | .kmov dst sa => Sys2Proof.Machine.execKmov dst sa s
  | .qmov dst sa => Sys2Proof.Machine.execQmov dst sa s
  | .pageWalk d ctx va write => Sys2Proof.Machine.execPageWalk d ctx va write s
  | .fabricInboundAccess d sfdn write dpa len => Sys2Proof.Machine.execFabricInboundAccess d sfdn write dpa len s
  | .dataFlit port bytes => Sys2Proof.Machine.execDataFlit port bytes s
  | .flitAcknowledge port seq => Sys2Proof.Machine.execFlitAcknowledge port seq s
  | .flitNegativeAck port seq => Sys2Proof.Machine.execFlitNegativeAck port seq s
  | .epochRetired port seq => Sys2Proof.Machine.execEpochRetired port seq s
  | .idleFlit port => Sys2Proof.Machine.execIdleFlit port s
  | .keyRollover port => Sys2Proof.Machine.execKeyRollover port s
  | .wctlResume ctx => Sys2Proof.Machine.execWctlResume ctx s
  | .wctlSignal ctx => Sys2Proof.Machine.execWctlSignal ctx s
  | .wctlAbort ctx => Sys2Proof.Machine.execWctlAbort ctx s
  | .powerWindow d core mask ratio => Sys2Proof.Machine.execPowerWindow d core mask ratio s
  | .droopDetect d => Sys2Proof.Machine.execDroopDetect d s
  | .correctedError unit addr => Sys2Proof.Machine.execCorrectedError unit addr s
  | .scrubRead d line => Sys2Proof.Machine.execScrubRead d line s
  | .vaultFailure d v => Sys2Proof.Machine.execVaultFailure d v s
  | .finish session => Sys2Proof.Machine.execFinish session s
  | .keyUpdate session => Sys2Proof.Machine.execKeyUpdate session s
  | .heartbeat session => Sys2Proof.Machine.execHeartbeat session s
  | .endSession session => Sys2Proof.Machine.execEndSession session s
  | .provisionRegionKey session slot => Sys2Proof.Machine.execProvisionRegionKey session slot s
  | .editModuleKeyList session add key => Sys2Proof.Machine.execEditModuleKeyList session add key s
  | .editCheckpointKeyList session add key => Sys2Proof.Machine.execEditCheckpointKeyList session add key s
  | .rekey session kss => Sys2Proof.Machine.execRekey session kss s
  | .ideKm session stream => Sys2Proof.Machine.execIdeKm session stream s
  | .hostWrite va bytes => Sys2Proof.Machine.execHostWrite va bytes s
  | .hostRead va n => Sys2Proof.Machine.execHostRead va n s
  | .loadRequest level => Sys2Proof.Machine.execLoadRequest level s
  | .plimWrite v => Sys2Proof.Machine.execPlimWrite v s
  | .fgcWrite d n v => Sys2Proof.Machine.execFgcWrite d n v s
  | .rdwcWrite n v => Sys2Proof.Machine.execRdwcWrite n v s
  | .nrlostRead ctx => Sys2Proof.Machine.execNrlostRead ctx s
  | .tflostRead ctx => Sys2Proof.Machine.execTflostRead ctx s
  | .tmisscntRead d => Sys2Proof.Machine.execTmisscntRead d s
  | .retrcntRead d => Sys2Proof.Machine.execRetrcntRead d s
  | .sysregWrite copy code v => Sys2Proof.Machine.execSysregWrite copy code v s
  | .exit => Sys2Proof.Machine.execExit s
  | .unreach => Sys2Proof.Machine.execUnreach s
  | .yield => Sys2Proof.Machine.execYield s
  | .drain => Sys2Proof.Machine.execDrain s
  | .opfence => Sys2Proof.Machine.execOpfence s
  | .mzero => Sys2Proof.Machine.execMzero s
  | .taskid => Sys2Proof.Machine.execTaskid s
  | .dmerge => Sys2Proof.Machine.execDmerge s
  | .dmode => Sys2Proof.Machine.execDmode s
  | .contret => Sys2Proof.Machine.execContret s
  | .halt => Sys2Proof.Machine.execHalt s
  | .nop => Sys2Proof.Machine.execNop s
  | .land => Sys2Proof.Machine.execLand s
  | .cutRequest => Sys2Proof.Machine.execCutRequest s
  | .cutRelease => Sys2Proof.Machine.execCutRelease s
  | .cutTimeout => Sys2Proof.Machine.execCutTimeout s
  | .ckptCapture => Sys2Proof.Machine.execCkptCapture s
  | .ckptRestore => Sys2Proof.Machine.execCkptRestore s
  | .packageReset => Sys2Proof.Machine.execPackageReset s
  | .firmwareUpdate => Sys2Proof.Machine.execFirmwareUpdate s
  | .getVersion => Sys2Proof.Machine.execGetVersion s
  | .getCapabilities => Sys2Proof.Machine.execGetCapabilities s
  | .negotiateAlgorithms => Sys2Proof.Machine.execNegotiateAlgorithms s
  | .getDigests => Sys2Proof.Machine.execGetDigests s
  | .getCertificate => Sys2Proof.Machine.execGetCertificate s
  | .challenge => Sys2Proof.Machine.execChallenge s
  | .getMeasurements => Sys2Proof.Machine.execGetMeasurements s
  | .keyExchange => Sys2Proof.Machine.execKeyExchange s
  | .unloadRequest => Sys2Proof.Machine.execUnloadRequest s
  | .loaderServe => Sys2Proof.Machine.execLoaderServe s
  | .lazyResolve => Sys2Proof.Machine.execLazyResolve s
  | .taskPortCreate => Sys2Proof.Machine.execTaskPortCreate s
  | .taskPortCreateArm => Sys2Proof.Machine.execTaskPortCreateArm s
  | .haltResume => Sys2Proof.Machine.execHaltResume s
  | .emptyBundle => Sys2Proof.Machine.execEmptyBundle s
  | .powerLoss => Sys2Proof.Machine.execPowerLoss s

end Sys2Proof.Machine
end

