-- ==== Sys2Proof/Machine/Legal.lean ====
section
/-! DEFINITION. The bytes of a bundle and the twelve conditions that make one illegal (03_tvedah_native.md R80-R86, R94, R96, R97), over the
native forms that the class chapters give (R151, R155, R176, R211, R219, R262, R289, R304, R327). -/
namespace Sys2Proof.Machine

/-! ## Register fields -/

inductive RegKind where
  | vec | scal | pred | rejoin | acc | fmt
  deriving DecidableEq, Repr, Inhabited

/-- The registers of R86. -/
def regKind (n : Nat) : Option RegKind :=
  if n < 768 then some .vec else if n < 832 then some .scal else if n < 848 then some .pred else if n < 856 then some .rejoin
  else if n < 872 then some .acc else if n < 876 then some .fmt else none

/-- The classes in which an operand of one of these types stands (R104, R108). -/
def tyKinds (ts : List Ty) : List RegKind :=
  (ts.flatMap fun t => if t = tyB1 then [RegKind.pred, .scal] else if t = .frag then [.acc] else [.vec, .scal]).eraseDups

/-- What a source field of an operation holds: a register of one of these classes or the zero register, or no register at all. -/
inductive FieldUse where
  | reg (ks : List RegKind)
  | unused
  | imm
  deriving DecidableEq, Repr, Inhabited

/-! ## Slots -/

/-- One slot of a bundle: the fields of its slot word (R82), and its extension word (R83). -/
structure SlotBits where
  slot : Nat
  word : Nat
  ext : Option Nat
  deriving DecidableEq, Repr, Inhabited

def SlotBits.opc (b : SlotBits) : Nat := field b.word 54 10
def SlotBits.dst (b : SlotBits) : Nat := field b.word 44 10
def SlotBits.sa (b : SlotBits) : Nat := field b.word 34 10
def SlotBits.sb (b : SlotBits) : Nat := field b.word 24 10
def SlotBits.sc (b : SlotBits) : Nat := field b.word 14 10
def SlotBits.lat (b : SlotBits) : Nat := field b.word 8 6
def SlotBits.fsel (b : SlotBits) : Nat := field b.word 6 2
def SlotBits.modl (b : SlotBits) : Nat := field b.word 0 6
def SlotBits.mod (b : SlotBits) : Nat :=
  match b.ext with
  | some e => field e 20 12
  | none => b.modl
def SlotBits.dst2 (b : SlotBits) : Nat := (b.ext.map fun e => field e 10 10).getD noDst
def SlotBits.land (b : SlotBits) : Nat := (b.ext.map fun e => field e 0 10).getD 0

/-- A bundle in bits: the header (R81) and its slots. -/
structure BundleBits where
  head : Nat
  slots : List SlotBits
  deriving DecidableEq, Repr, Inhabited

def BundleBits.map (b : BundleBits) : Nat := field b.head 48 16
def BundleBits.ext (b : BundleBits) : Nat := field b.head 6 6
def BundleBits.mask (b : BundleBits) : Nat := field b.head 0 6

/-- The words of a bundle (R80): the header, the slot words, the extension words, each in ascending slot order. -/
def BundleBits.ofWords : List Nat → BundleBits
  | [] => { head := 0, slots := [] }
  | h :: ws =>
    let ss := (List.range 6).filter (field h 0 6).testBit
    let es := (List.range 6).filter (field h 6 6).testBit
    { head := h
      slots := ss.zipIdx.map fun p =>
        { slot := p.1, word := ws.getD p.2 0
          ext := (es.idxOf? p.1).map fun k => ws.getD (ss.length + k) 0 } }

/-! ## What an operation's description allows -/

/-- The format register's types, where its codes name types. -/
structure FmTypes where
  xt : Option Ty
  yt : Option Ty
  deriving DecidableEq, Repr, Inhabited
def FmTypes.ofWord (w : Word) : FmTypes := { xt := Ty.ofCode (field w.toNat 18 6), yt := Ty.ofCode (field w.toNat 12 6) }

/-- The value operands of a portable opcode, by type sets. -/
def valueTypes (r : Row) (t : Ty) (m : Nat) : List (List Ty) := ((r.pos t m).filter Pos.val).map fun p => p.ty.types t m

/-- SA, SB and SC of an operation. Sources 2 onward of an instruction with more than three stand gathered in a vector run (R104). -/
def SlotBits.uses (b : SlotBits) (t : Ty) : List FieldUse :=
  let o := b.opc
  if o = opcMov then [.reg [.vec, .scal], .unused, .unused]
  else if o = opcSpill then [.reg [.vec, .scal, .pred], .unused, .imm]
  else if o = opcFill then [.unused, .unused, .imm]
  else if o = opcKmov then [.reg [.acc], .unused, .unused]
  else if o = opcQmov then [.reg (if b.dst < 768 then [.pred] else [.pred, .vec]), .unused, .unused]
  else if 0x3C0 ≤ o then [.unused, .unused, .unused]
  else if o = 0x00D ∨ o = 0x00F then [.reg [.rejoin], .unused, .unused]
  else if o = 0x010 then [.reg [.vec, .scal], .unused, .imm]
  else if o = 0x011 ∨ o = 0x012 then [.unused, .unused, .imm]
  else if o = opcConst then [.reg [.scal], .unused, .unused]
  else
    match rowOf o with
    | none => [.unused, .unused, .unused]
    | some r =>
      let ks := (valueTypes r t b.mod).map fun ts => FieldUse.reg (tyKinds ts)
      let k := fun (n : Nat) => ks.getD n .unused
      if o = 0x18A ∨ o = 0x1C8 then [k 0, .unused, k 1]
      else if o = 0x244 then [k 0, k 1, k 3]
      else if 3 < ks.length then [k 0, k 1, .reg [.vec]]
      else [k 0, k 1, k 2]

/-- The results of an operation, by class: those of DST and DST2. -/
def SlotBits.results (b : SlotBits) (t : Ty) : List (List RegKind) :=
  let o := b.opc
  if o = opcMov ∨ o = opcFill then [[.vec, .scal, .pred]]
  else if o = opcFmtset then [[.fmt]]
  else if o = opcKmov ∨ o = 0x244 then [[.acc]]
  else if o = opcQmov then [[.vec, .pred]]
  else if 0x3C0 ≤ o then []
  else if o = 0x00C ∨ o = 0x00E then [[.rejoin]]
  else if opcCall o then []
  else ((rowOf o).map fun r => (r.res t).map fun u => tyKinds [u]).getD []

/-- The registers that the first result takes (R108). -/
def SlotBits.resultRegs (b : SlotBits) (t : Ty) : Nat :=
  if 0x3C0 ≤ b.opc ∨ 768 ≤ b.dst then 1 else (((rowOf b.opc).bind fun r => (r.res t).head?).map Ty.regs).getD 1

/-- The operation as R84 and R82 see it. -/
def SlotBits.asOp (b : SlotBits) : NOp := { (default : NOp) with opc := b.opc, dst := b.dst }

/-- The opcode is assigned, and may stand in this slot. -/
def SlotBits.placed (b : SlotBits) : Bool :=
  (if 0x3C0 ≤ b.opc then decide (b.opc ≤ 0x3C7) else (rowOf b.opc).isSome) && b.asOp.slots.contains b.slot

/-! ## The conditions (R85) -/

/-- A source field: 1022 reads as zero in every class, 1023 is none. -/
def sourceOk (budget n : Nat) : FieldUse → Bool
  | .imm => true
  | .unused => n == noReg || (regKind n).any fun k => k != .vec || decide (n < budget)
  | .reg ks => n == noReg || (regKind n).any fun k => ks.contains k && (k != .vec || decide (n < budget))
/-- A destination field, for the classes of its result: 1023 drops the result, 1022 is none. -/
def destOk (budget n : Nat) : Option (List RegKind) → Bool
  | none => n == noDst || (regKind n).any fun k => k != .vec || decide (n < budget)
  | some ks => n == noDst || (regKind n).any fun k => ks.contains k && (k != .vec || decide (n < budget))

/-- TYPE of the operation: what FSEL names, for a typed one. -/
def SlotBits.typed (b : SlotBits) : Bool := decide (b.opc < 0x3C0) && (rowOf b.opc).any fun r => !r.tyOk .none
def SlotBits.ty (b : SlotBits) (f : FmTypes) : Ty := if b.typed then f.xt.getD .none else .none

/-- The pair of a format register is one that the description allows. -/
def SlotBits.pairOk (b : SlotBits) (f : FmTypes) : Bool :=
  if !b.typed then b.fsel == 0
  else
    match f.xt, f.yt, rowOf b.opc with
    | some x, some y, some r =>
      r.tyOk x && (!isLane b.opc || (r.extra x b.mod []).isNone) && (y == .none || (valueTypes r x b.mod).any fun ts => ts.contains y)
    | _, _, _ => false

/-- The bounds that LAT may state: those of the types that its sources may have. -/
def SlotBits.lats (b : SlotBits) (cls : Nat) (f : FmTypes) : List Nat :=
  let t := b.ty f
  let srcs : List (List Ty) := match f.yt with
    | some .none => [] :: (((rowOf b.opc).map fun r => (valueTypes r t b.mod).flatten).getD []).map fun y => [y]
    | some y => [[y]]
    | none => [[]]
  let scal := decide (768 ≤ b.dst ∧ b.dst < 832) || decide (0x3C0 ≤ b.opc) && decide (832 ≤ b.dst ∧ b.dst < 848)
  if landOf b.opc b.mod ≠ 0 then [0]
  else (srcs.map fun ys => latOf cls b.opc t ys scal (b.resultRegs t)).eraseDups

/-- mov.hi moves a scalar register's upper half to a vector register, a vector source goes to a vector register alone, and a predicate takes no
predicate source (R97). -/
def SlotBits.movOk (b : SlotBits) : Bool :=
  b.opc != opcMov ||
  ((b.mod % 2 == 0 || (regKind b.sa == some .scal && regKind b.dst == some .vec)) &&
   (regKind b.sa != some .vec || regKind b.dst == some .vec) && (regKind b.dst != some .pred || regKind b.sa != some .pred))

/-- No condition of R85 holds of a slot. `fm` gives the types of the format registers. -/
def SlotBits.legal (b : SlotBits) (cls budget : Nat) (fm : Nat → FmTypes) : Bool :=
  let f := fm b.fsel
  let t := b.ty f
  let us := b.uses t
  let rs := b.results t
  b.placed && b.pairOk f &&
  sourceOk budget b.sa (us.getD 0 .unused) && sourceOk budget b.sb (us.getD 1 .unused) && sourceOk budget b.sc (us.getD 2 .unused) &&
  destOk budget b.dst rs.head? && destOk budget b.dst2 (rs[1]?) &&
  (b.lats cls f).contains b.lat && (landOf b.opc b.mod == 0 || b.land != 0) && (b.ext.isNone || b.modl == 0) && b.movOk

/-- No condition of R85 holds: of the header, for a translation with `nmap` map points, or of a slot. -/
def BundleBits.legal (b : BundleBits) (nmap cls budget : Nat) (fm : Nat → FmTypes) : Bool :=
  field b.head 34 14 == 0 && b.ext &&& b.mask == b.ext && (field b.head 12 1 == 1 || field b.head 13 12 == 0) &&
  (field b.head 33 1 == 1 || field b.head 25 8 == 0) && (b.map == 0xFFFF || decide (b.map < nmap)) &&
  b.slots.all fun x => x.legal cls budget fm

end Sys2Proof.Machine
end

