-- ==== Sys2Proof/Machine/Pending.lean ====
section
/-! DEFINITION. Accesses of a wave to the bytes that its own pending matrix operations still use (11_matrix.md R326): what such an access makes
undefined. An operation is pending from issue until the mwait that covers it. -/
namespace Sys2Proof.Machine

/-- One access of a lane: whether it reads and writes, its place and length. -/
structure Touch where
  rd : Bool
  wr : Bool
  pl : Place
  n : Nat
  deriving DecidableEq, Repr, Inhabited

/-- What an instruction does to memory in a lane. Block copies have a rule of their own. -/
def State.touches (s : State) (L : Nat) : Instr → List Touch
  | .ld t m a => let x := s.ldAccess t m a; [⟨true, false, s.placeAt x L, x.n⟩]
  | .st t m a _ => let x := s.stAccess t m a; [⟨false, true, s.placeAt x L, x.n⟩]
  | .ldv t m b => [⟨true, false, s.placeAt { s.ldAccess t m b with addr := fun L => s.vecAddr m b t.bytes L } L, t.bytes⟩]
  | .stv t m b _ => [⟨false, true, s.placeAt { s.stAccess t m b with addr := fun L => s.vecAddr m b t.bytes L } L, t.bytes⟩]
  | .zline m a => [⟨false, true, s.placeAt { m := m, rd := false, wr := true, n := 128, al := 128, addr := fun L => s.addrOpnd m a L } L, 128⟩]
  | .waitval t m a _ _ => let x := s.ldAccess t m a; [⟨true, false, s.placeAt x L, x.n⟩]
  | .atomadd t m a v | .atomfadd t m a v | .atomand t m a v | .atomor t m a v | .atomxor t m a v | .atommin t m a v | .atommax t m a v
  | .atomfmin t m a v | .atomfmax t m a v | .atominc t m a v | .atomdec t m a v | .atomxchg t m a v | .atomcas t m a v _
  | .atomcas2 t m a v _ => [⟨true, true, s.atomPlace (s.atomOp 0 t m a v) none L, atomBytes t⟩]
  | .caput p _ x => let y := s.caputAccess p x; [⟨true, false, s.placeAt y L, y.n⟩]
  | .caswap _ x _ _ => [⟨true, true, s.atomPlace (s.rootOp x) none L, 16⟩]
  | .red t m _ a v | .redf t m _ a v => [⟨false, true, s.atomPlace (s.atomOp 0 t m a v) none L, atomBytes t⟩]
  | i =>
    if L ≠ s.lowLane then []
    else
      let bar := fun (sp : Space) (b : Opnd) (rd wr : Bool) =>
        match s.barLoc sp wr (s.barBase sp b) with
        | .ok pl => [⟨rd, wr, pl, 16⟩]
        | .error _ => []
      let span := fun (t : Ty) (b n : Opnd) => let x := s.spanOf t b n; (⟨true, false, .spad x.base, x.n * spanSize t⟩ : Touch)
      let out := fun (d : Opnd) (n : Nat) => (⟨false, true, .spad (s.uniNat tyN32 d), n⟩ : Touch)
      match i with
      | .barinit _ sp b _ | .barexp _ sp b _ => bar sp b false true
      | .bararr _ sp b _ | .barsync _ sp b => bar sp b true true
      | .barwait _ sp b _ | .bartest _ sp b _ => bar sp b true false
      | .spmax t b n | .spargmax t b n | .spsum t b n | .spsample t b n _ _ => [span t b n]
      | .spsoftmax t o b d n _ => [span t b n, out d ((s.spanOf t b n).n * ((OutFmt.elem o).width / 8))]
      | .sptopk t b d n k => [span t b n, out d (8 * s.uniNat tyN32 k)]
      | .engbind c _ _ _ _ => [out c 20]
      | .cmpnext h _ => ((s.bindOf s.wv.wg (s.uniNat tyN32 h)).map fun b => (⟨false, true, .spad (b.ctl + 12), 4⟩ : Touch)).toList
      | _ => []

/-! ## Runs of bytes -/

/-- A run of bytes with the offset in its access: scratchpad or not, offset or physical key, length, offset. -/
abbrev Seg := Bool × Nat × Nat × Nat
def Place.segs (n : Nat) (p : Place) : List Seg :=
  match p with
  | .words ws => ws.zipIdx.map fun w => (false, w.1.2.key, 4, 4 * w.2)
  | p => (p.vruns n).map fun r => (r.1, r.2.1, r.2.2, 0)
/-- The bytes that segments share with runs: by offset and length, and as runs. -/
def shared (xs : List Seg) (rs : List (Bool × Nat × Nat)) : List ((Nat × Nat) × (Bool × Nat × Nat)) :=
  xs.flatMap fun x => rs.filterMap fun r =>
    let lo := max x.2.1 r.2.1
    let hi := min (x.2.1 + x.2.2.1) (r.2.1 + r.2.2)
    if x.1 = r.1 ∧ lo < hi then some ((x.2.2.2 + (lo - x.2.1), hi - lo), (x.1, lo, hi - lo)) else none

/-- The 16-byte pieces of a panel, as far as they hold elements: a chunk of 24 bytes ends in the middle of its second piece. -/
def Desc.pieceRuns (d : Desc) (w rows gs : Nat) : List (Bool × Nat × Nat) :=
  (List.range rows).flatMap fun r => (List.range gs).flatMap fun g =>
    ((List.range (chunkBytes w)).filter fun b => b % 16 == 0).map fun b => (true, d.byteAt r g b, min 16 (chunkBytes w - b))
/-- The bytes that a matrix operation of the issuing wave reads, or for mst writes. -/
def State.quernRuns (s : State) (q : QuernOp) : List (Bool × Nat × Nat) :=
  let v := fun (i : Nat) => q.vals.getD i 0
  let gs := (v 2).toNat / 32
  let panel := fun (i w rows : Nat) => (Desc.ofVal (v i)).pieceRuns w rows gs
  let scales := fun (i rows : Nat) => ((Desc.ofVal (v i)).scales rows gs).map fun p => (true, p, 1)
  let tile := fun (m : MMod) (fmt : BitVec 30) (wr : Bool) =>
    (unitOffs (tileTM s.wv.die) (tileTN s.wv.die * fmtBytes fmt.toNat) (v 1).toNat).flatMap fun u =>
      match s.unitPlace m.space wr ((v 0).toNat + u.2) with
      | .ok p => p.vruns 16
      | .error _ => []
  match q.instr with
  | .mma fa fb afrag _ _ _ _ _ => (if afrag then [] else panel 0 fa.width (tileTM s.wv.die)) ++ panel 1 fb.width (tileTN s.wv.die)
  | .mmamx fa fb _ _ _ _ =>
    panel 0 (mxWidth fa) (tileTM s.wv.die) ++ panel 1 (mxWidth fb) (tileTN s.wv.die) ++ scales 0 (tileTM s.wv.die) ++ scales 1 (tileTN s.wv.die)
  | .mld m _ _ fmt => tile m fmt false
  | .mst m _ _ _ fmt _ => tile m fmt true ++
    (if fmt.toNat / 8 % 2 = 1 then (match s.unitPlace .global true (v 2).toNat with | .ok p => p.vruns 4 | .error _ => []) else [])
  | _ => []

/-! ## What becomes undefined -/

/-- The wave writes bytes that a pending operation uses: an mst will write free values there, any other operation has an undefined result. -/
def State.spoilOp (s : State) (q : QuernOp) (rs : List (Bool × Nat × Nat)) : State :=
  if q.stores then { s with quern := s.quern.map fun o => if o == q then { o with undef := o.undef ++ rs } else o }
  else if q.stage < 2 then { s with quern := s.quern.map fun o => if o == q then { o with taint := true } else o }
  else s.freeTile q.dst

/-- The modifier of a plain store to a place. -/
def Place.mod (p : Place) : MMod :=
  { wordMod with space := match p with | .spad _ => .spad | .phys _ _ => .global | .words _ => .priv }
/-- The place of byte `k` of an access. -/
def Place.sub (k : Nat) : Place → Place
  | .spad off => .spad (off + k)
  | .phys va p => .phys (va + k) { p with dpa := p.dpa + k }
  | .words ws => .words (((ws.drop (k / 4)).take 1).map fun w => (w.1 + k % 4, { w.2 with dpa := w.2.dpa + k % 4 }))
/-- Bytes of a place become free values. -/
def State.freeBytes (s : State) (pl : Place) (off n : Nat) : State :=
  (List.range n).foldl (fun t i =>
    let f := t.takeFreeBytes 1
    f.2.placeWrite (Place.mod pl) 0 f.1 (pl.sub (off + i))) s
/-- The result of lane `L` of the instruction that `s` issued becomes a free value, in its registers too. -/
def State.freeResult (s u : State) (L : Nat) : State :=
  let v := Config.freeValue u.freeCnt
  let w := u.wv.mapLanes fun j x => if j = L then x.setVal s.issue.loc.vnum v else x
  let w :=
    if s.issue.dsts = [] then w
    else if w.landings.length ≤ s.wv.landings.length then w.putRegs (maskOf (· == L)) s.issue.dsts fun _ => [v]
    else
      { w with landings := w.landings.take s.wv.landings.length ++ (w.landings.drop s.wv.landings.length).map fun x =>
          { x with data := x.data.map fun e => if e.2.1 = L then (e.1, L, dw (v.toNat / 2 ^ (32 * (e.1 % 8)) % 2 ^ 32)) else e } }
  { u.updWv fun _ => w with freeCnt := u.freeCnt + 1 }

/-- The wave's pending operations, each with its bytes. -/
def State.pendingOps (s : State) : List (QuernOp × List (Bool × Nat × Nat)) :=
  (s.quern.filter fun q => q.wave == s.wv.token).map fun q => (q, s.quernRuns q)

/-- What one access of lane `L`, made from `s`, makes undefined after it (`u`). -/
def State.meetTouch (s : State) (ops : List (QuernOp × List (Bool × Nat × Nat))) (L : Nat) (u : State) (x : Touch) : State :=
  let hits := (ops.map fun o => (o.1, shared (x.pl.segs x.n) o.2)).filter fun h => !h.2.isEmpty
  let kept := hits.filter fun h => h.1.stores
  let u := if x.wr then hits.foldl (fun t h => t.spoilOp h.1 (h.2.map Prod.snd)) u else u
  let u := if x.wr then kept.foldl (fun t h => h.2.foldl (fun t r => t.freeBytes x.pl r.1.1 r.1.2) t) u else u
  if x.rd && !kept.isEmpty then s.freeResult u L else u

/-- The memory side of a block copy, by pages. -/
def State.copySegs (s : State) (c : BlockCopy) (len : Nat) : List Seg :=
  (pageParts c.va.toNat len).flatMap fun p =>
    match s.xlate (s.accOf s.wv c.m.space c.toSpad (!c.toSpad)) (c.va.toNat + p.1) with
    | .ok q => [(false, q.vkey, p.2, p.1)]
    | .error _ => []
/-- A block copy that has issued: operations whose bytes it writes are spoilt, and the bytes that a pending mst writes too are undefined. -/
def State.meetCopy (s : State) (ops : List (QuernOp × List (Bool × Nat × Nat))) (u : State) (c : BlockCopy) : State :=
  let len := 128 * c.lines.length
  let pad : List Seg := [(true, c.spadOff, len, 0)]
  let mem := s.copySegs c len
  let u := ops.foldl (fun t o =>
    let h := shared (if c.toSpad then pad else mem) o.2
    if h.isEmpty then t else t.spoilOp o.1 (h.map Prod.snd)) u
  let un := (ops.filter fun o => o.1.stores).flatMap fun o => (shared (pad ++ mem) o.2).map Prod.fst
  { u with copies := u.copies.map fun x => if x.id == c.id then { x with undef := un } else x }

/-- A matrix operation that the wave has sent after pending ones: an mma, mmamx or mld that reads bytes of a pending mst has an undefined result, and
the bytes that an mst writes over operand bytes or those of another mst are spoilt. -/
def State.meetMatrix (s : State) (ops : List (QuernOp × List (Bool × Nat × Nat))) (u : State) : State :=
  match u.quern.getLast? with
  | none => u
  | some q =>
    let mine : List Seg := (s.quernRuns q).map fun r => (r.1, r.2.1, r.2.2, 0)
    let hits := (ops.map fun o => (o.1, (shared mine o.2).map Prod.snd)).filter fun h => !h.2.isEmpty
    let kept := hits.filter fun h => h.1.stores
    if q.stores then (hits.foldl (fun t h => t.spoilOp h.1 h.2) u).spoilOp q (kept.flatMap Prod.snd)
    else if kept.isEmpty then u
    else { u with quern := u.quern.map fun o => if o == q then { o with taint := true } else o }

/-- An instruction that a wave with pending matrix operations has issued. -/
def State.meetPending (s : State) (i : Instr) (u : State) : State :=
  if (s.quern.any fun q => q.wave == s.wv.token) = false then u
  else
    match i with
    | .ldblk .. | .stblk .. =>
      (match u.copies.getLast? with
       | some c => s.meetCopy s.pendingOps u c
       | none => u)
    | .mma .. | .mmamx .. | .mld .. | .mst .. => s.meetMatrix s.pendingOps u
    | _ =>
      if (s.touches s.lowLane i).isEmpty then u
      else
        let ops := s.pendingOps
        s.activeLanes.foldl (fun u L => (s.touches L i).foldl (s.meetTouch ops L) u) u

end Sys2Proof.Machine
end

