-- ==== Sys2Proof/WellFormed.lean ====
section
/-! DEFINITION. What a well-formed instruction is: a portable instruction whose words pass the check of R71 (types, operand
forms, ranges, modifiers), or a native-only operation or a machine event whose fields lie in their ranges. -/
namespace Sys2Proof

/-- A literal's bits lie inside its size (R58), and the immediate and value payloads fit by their type. -/
def Opnd.fits : Opnd → Bool
  | .val _ => true
  | .imm _ => true
  | .lit sz v => v.toNat < 2 ^ (32 * sz.words)

def RawOp.fits : RawOp → Bool
  | .op o => o.fits
  | .blk t => t.args.all Opnd.fits

/-- The raw form spells a head word: opcode, type and modifier in their fields, and a count of R57. -/
def Raw.fits (r : Raw) : Bool :=
  r.opc < 1024 && r.mod < 4096 && r.ops.length ≤ 65535 && r.ops.all RawOp.fits

/-- Native register numbers of R86. -/
def regListed (n : Nat) : Bool := n < 876 || n == 1022 || n == 1023

/-- Well-formedness of native-only operations (R96-R101). -/
def Instr.nativeWf : Instr → Bool
  | .nop => true
  | .mov dst sa hi lit =>
    regListed dst.toNat && dst.toNat ≠ 1022 && regListed sa.toNat && sa.toNat ≠ 1023 &&
    (lit.isNone || sa.toNat == 1022) &&
    (!hi || (768 ≤ sa.toNat && sa.toNat < 832 && dst.toNat < 768))
  | .spill sa _ _ => regListed sa.toNat && sa.toNat < 848
  | .fill dst _ _ _ => regListed dst.toNat && dst.toNat < 848
  | .land => true
  | .fmtset dst _ => 872 ≤ dst.toNat && dst.toNat ≤ 875
  | .kmov dst sa => 856 ≤ dst.toNat && dst.toNat < 872 && 856 ≤ sa.toNat && sa.toNat < 872
  | .qmov dst sa =>
    let d := dst.toNat; let a := sa.toNat
    let q := fun n => 832 ≤ n && n < 848
    (q d && (q a || a < 768)) || (d < 768 && q a)
  | _ => false

/-- Well-formedness of an instruction of a program (R71 step 8, first pass): its raw form passes every check. -/
def Instr.portableWf (i : Instr) : Bool :=
  match toRaw i with
  | some r => r.fits && (checkRaw false r r.ops.length none).isNone && ofRaw r == some i
  | none => false

/-- The numbers an event carries name a die, a cluster, a port or a context that the machine has. -/
def Instr.eventWf : Instr → Bool
  | .quernAccept d c q _ | .quernOpComplete d c q => d < 8 && c < 20 && q < 2
  | .starvationPrimary d c | .throttlePrimary d c => d < 8 && c < 80
  | .powerWindow d c _ _ => d < 8 && c < 80
  | .workgroupAdmit d | .droopDetect d | .tmisscntRead d | .retrcntRead d => d < 8
  | .translationComplete d _ | .preemptDecide d _ | .rdcInvalidation d _ | .rdcFillArrival d _ | .scrubRead d _ => d < 8
  | .vaultPartApply d v _ | .sequenceGapTimeout d v _ => d < 8 && v < 32
  | .vaultTempSample d ts => d < 8 && ts.length == 32
  | .clusterGate d c => d < 8 && c < 20
  | .vaultFailure d v => d < 8 && v < 32
  | .pageWalk d ctx _ _ => d < 8 && ctx < 64
  | .fabricInboundAccess d _ _ _ _ => d < 8
  | .fabricRead p | .fabricReadData p | .fabricWrite p | .fabricAtomic p | .fabricAtomicData p | .fabricWriteAck p
  | .fabricNegativeAck p | .fabricContribution p | .dataFlit p _ | .flitAcknowledge p _ | .flitNegativeAck p _
  | .flitReplayTimeout p | .epochRetired p _ | .idleFlit p | .keyRollover p => p < 16
  | .noticeRingDrain c | .wctlResume c | .wctlSignal c | .wctlAbort c | .nrlostRead c | .tflostRead c => c < 64
  | .fgcWrite d n _ => d < 8 && n < 16
  | .rdwcWrite n _ => n < 8
  | .regionEnable n _ | .regionInitDone n | .regionDisable n _ | .backgroundDrop n | .backgroundDropRetry n => n < 16
  | .sysregWrite cp cd _ => cp < 73 && cd < 4096
  | .provisionRegionKey _ slot => slot < 63
  | _ => true

/-- Every instruction is of one of the three kinds of row. -/
def Instr.isNative : Instr → Bool
  | .nop | .mov .. | .spill .. | .fill .. | .land | .fmtset .. | .kmov .. | .qmov .. => true
  | _ => false

def Instr.wf (i : Instr) : Bool :=
  if (toRaw i).isSome then i.portableWf else if i.isNative then i.nativeWf else i.eventWf

end Sys2Proof
end

