-- ==== Sys2Proof/Machine/Sched.lean ====
section
/-! DEFINITION. What happens next (04_control.md R133-R136, 15_determinism.md R395-R399): the moves that the surroundings ask for, the events
that the machine's own state makes due, the candidate that issues, and the passing of a cycle. -/
namespace Sys2Proof.Machine

/-! ## One bundle -/

/-- Bookkeeping of a bundle that has issued: the wave's place in the packet of the cycle (R135), the slices that it holds (R26), the groups that it
did not offer (R136), the use of its image (R127), and the end of its turn (R397). -/
def State.afterIssue (s : State) (i : Nat) (g : Loc × Mask) (b : Bundle) (u : State) : State :=
  if (u.waveAt i).retired = (s.waveAt i).retired then u
  else
    let w := s.waveAt i
    let key := s.locKey w g.1
    let core := globalCore w.die w.core
    let u := u.updWave i fun v => { v with unoffered := s.unofferedNow i }
    let u : State :=
      { u with issued := u.issued ++ [(i, g.2, b.slots)]
               slices := (u.slices.filter fun e => decide (s.cycle < e.2.2)) ++ b.holds.map fun h => (core, h.1, s.cycle + h.2)
               images := u.images.map fun x => if x.die == w.die && x.key == key then { x with lastUse := (s.dieAt w.die).clock } else x }
    match s.orderedGang i with
    | some gg => u.turnOver gg
    | none => u

/-- The targets of a branch, by number. -/
def Instr.targets : Instr → List Target
  | .br t => [t]
  | .brc _ t f => [t, f]
  | .brsw _ _ d cs => d :: cs
  | _ => []

/-- The types in format register `k` of the lanes (R93, R94): those of the lowest active lane. -/
def State.fmTypes (s : State) (k : Nat) : FmTypes := FmTypes.ofWord (cget fmDflt (s.wv.lane s.lowLane).fm k)
/-- The first value operand of an instruction. -/
def firstVal (r : Raw) : Option Nat :=
  r.ops.findSome? fun o => match o with
    | .op (.val n) => some n.toNat
    | _ => none
/-- A typed operation takes its TYPE from XT, and the type of its first value operand from YT (R94). -/
def State.retype (s : State) (k : Nat) (i : Instr) : Instr × Option (Nat × Ty) :=
  match toRaw i with
  | none => (i, none)
  | some r =>
    let f := s.fmTypes k
    let x := f.xt.getD r.ty
    (if x = r.ty then i else (ofRaw { r with ty := x }).getD i,
     (firstVal r).bind fun n => f.yt.bind fun y => if y = .none then none else some (n, y))

/-- Scratchpad bytes that an instruction of the group uses. -/
def State.padUse (s : State) (i : Instr) : List (Nat × Nat) :=
  s.activeLanes.flatMap fun L => (s.touches L i).filterMap fun t =>
    match t.pl with
    | .spad o => some (o, t.n)
    | _ => none
/-- Those of the block copy or of the matrix operation that its execution, to `u`, has put in hand. -/
def State.padSent (s u : State) : List (Nat × Nat) :=
  ((u.copies.drop s.copies.length).map fun c => (c.spadOff, 128 * c.lines.length)) ++
  (((u.quern.drop s.quern.length).flatMap s.quernRuns).filter Prod.fst).map Prod.snd
/-- A portable instruction of the group, behind its wave's span instructions (R230), and with what R326 makes of it. -/
def State.ownEffect (s : State) (i : Instr) : Outcome :=
  if !s.spans.isEmpty && s.spanHolds (s.padUse i) then .next s
  else
    match exec i s with
    | .next u =>
      if !s.spans.isEmpty && s.spanHolds (s.padSent u) then .next s
      else .next (s.spansSee (some s.wv.token) (if u.wv.retired = s.wv.retired then u else s.notePubs (s.meetPending i u)))
    | .fault f => .fault f
    | .refused r => .refused r

/-- One operation of a bundle. `i` is the translation, when it is in the cache. -/
def State.runOp (s : State) (i : TransImage) (b : Bundle) (o : BundleOp) : Outcome :=
  match o.own, o.nat, o.high with
  | none, some n, _ => n.run s
  | none, none, some h =>
    .next (s.nativeDone.updWv fun w => w.regWrite s.active h.1 fun L => dw ((s.reg h.1 L).toNat % 2 ^ 32 + h.2.toNat * 2 ^ 32))
  | some k, _, _ =>
    let p := i.place s.issue.here.handle s.issue.here.bud b.block k s.issue.here.bun
    match s.fetch p with
    | .error e => .refused (.badEncoding e)
    | .ok c =>
      let t := match o.fsel with
        | some f => s.retype f c.1
        | none => (c.1, none)
      let s : State := { s with issue := { s.issue with loc := p, dsts := o.dsts, srcs := o.srcs, yt := t.2, land := o.land } }
      match b.only.bind fun n => (Instr.targets c.1)[n]? with
      | some t => exec (.br t) s
      | none => s.ownEffect t.1
  | none, none, none => execNop s

/-- Before an operation of a bundle, the counts and places stand as before the bundle (R175, R399): it issues once. `ph` is the count of bundles since
the last barrier phase (R136), when an operation of the bundle has set it anew. -/
def State.asBefore (s₀ : State) (ph : Option Nat) (s : State) : State :=
  let o := s₀.wv
  s.updWv fun w =>
    { w.mapLanes (fun L l => if inMask s.active L then { l with bpos := (o.lane L).bpos } else l) with
      retired := o.retired, sincePhase := ph.getD o.sincePhase }
/-- That count after one more operation, which has left the wave `w`. -/
def phaseNow (o w : Wave) (ph : Option Nat) : Option Nat := if w.sincePhase = ph.getD o.sincePhase + 1 then ph else some w.sincePhase

/-- The operations of a bundle, one after another; each that has issued raises RETIRED. One that does not issue (it faults, or waits) is what
the whole bundle does (R91, R420). -/
def State.runOps (s₀ : State) (i : TransImage) (b : Bundle) (ph : Option Nat) : List BundleOp → State → Outcome
  | [], s => .next (match ph with
    | some n => s.updWv fun w => { w with sincePhase := n }
    | none => s)
  | o :: os, s =>
    match (s₀.asBefore ph s).runOp i b o with
    | .next u =>
      if u.wv.retired = s₀.wv.retired then s₀.runOp i b o
      else s₀.runOps i b (phaseNow s₀.wv u.wv ph) os u
    | .fault f => .fault f
    | .refused r => .refused r

/-- The values of the constants that hold no operation stand from the first bundle of the block on. -/
def State.takeBare (s : State) (i : TransImage) (b : Bundle) (k : Nat) : State :=
  match s.runOp i b (bareOp k) with
  | .next u => s.updWv fun w => w.mapLanes fun L l => { l with frames := (u.wv.lane L).frames }
  | _ => s

/-- The registers that an operation of fixed latency writes. -/
def BundleOp.puts (o : BundleOp) : List Nat :=
  match o.nat with
  | some (.mov d ..) | some (.qmov d _) => [d.toNat]
  | some _ => []
  | none =>
    if o.land ≠ 0 then []
    else (o.dsts.flatMap fun d => (List.range (max 1 d.2)).map (d.1 + ·)) ++ (o.high.map Prod.fst).toList
/-- Such a result comes after the landings that earlier operations have on their way to its registers (R89, R117): their data no longer reaches
these registers of the lanes. -/
def Landing.without (x : Landing) (m : Mask) (rs : List Nat) : Landing :=
  { x with data := x.data.filter fun e => !(inMask m e.2.1 && rs.contains e.1) }

/-- The lanes of a bundle with no portable instruction go on; parked lanes keep their place. -/
def State.settleBundle (s₀ : State) (b : Bundle) (s : State) : State :=
  let native := b.ops.all fun o => o.own.isNone
  s.updWv fun w => { w.mapLanes fun L l =>
    if !inMask s₀.active L then l
    else if l.st = .parked then { l with pc := s₀.issue.here, bpos := (s₀.wv.lane L).bpos }
    else if native && l.st == .running then { l with pc := s₀.after } else l with
    landings := w.landings.map fun x => x.without s₀.active (b.ops.flatMap BundleOp.puts) }

/-- What `exec` serves while a bundle issues for a group of a wave. -/
def issueOf (w : Nat) (m : Mask) (l : Loc) (i : TransImage) (b : Bundle) : Issue :=
  { wave := w, mask := m, loc := l, here := l, next := i.bunLoc l (l.bun + 1)
    gos := b.gos.map fun g => g.map fun n => (i.bunLoc l n, ((i.plan[n]?).map Bundle.cyc).getD 0), dsts := [], srcs := [], yt := none, land := 0
    entries := 1, stamped := b.stamp.isSome }

/-- The bundle at a location issues for a group of a wave. -/
def State.runBundle (s : State) (w : Nat) (m : Mask) (l : Loc) (i : TransImage) (b : Bundle) : Outcome :=
  let s : State := { s with issue := issueOf w m l i b }
  let s := b.bare.foldl (fun t k => t.takeBare i b k) s
  match (if b.ops.isEmpty then execEmptyBundle s else s.runOps i b none b.ops s) with
  | .next u => .next (if u.wv.retired = s.wv.retired then u else s.settleBundle b u)
  | .fault f => .fault f
  | .refused r => .refused r

/-! ## The bits of a bundle (R80-R85, R399) -/

/-- The bundle's words as they stand in the reservation (R21, R126). -/
def State.bundleBits (s : State) (x : TransImage) (b : Bundle) : BundleBits :=
  let k := physKey x.die (Config.reservation + 65536 * x.unit + 64 + b.boff)
  let bs := readBytes (sliceRange (s.meetKey k 104 0).mem k (k + 104) 0) 0 104
  BundleBits.ofWords ((List.range 13).map fun j => natAt bs (8 * j) 8)
/-- No condition of R85 holds of a bundle of a group, under the format registers of its lowest lane. An image that no translator made has no
bytes. -/
def State.bundleLegal (s : State) (i : Nat) (m : Mask) (x : TransImage) (bits : BundleBits) : Bool :=
  let l := (s.waveAt i).lane ((lanesOf m).headD 0)
  x.code.isEmpty || bits.legal x.maps.length x.key.cls x.key.budget fun k => FmTypes.ofWord (cget fmDflt l.fm k)
/-- A stamp that is not BPOS mod 256 (R399). -/
def State.stampBad (s : State) (i : Nat) (m : Mask) (x : TransImage) (bits : BundleBits) : Bool :=
  !x.code.isEmpty && field bits.head 33 1 == 1 && field bits.head 25 8 != ((s.waveAt i).lane ((lanesOf m).headD 0)).bpos % 256

/-- An illegal bundle performs nothing: fault 0x81, and its translation leaves the cache (R85). Its location is that of the MAP in its header. -/
def State.illegalBundle (s : State) (i : Nat) (g : Loc × Mask) (x : TransImage) (bits : BundleBits) : State :=
  let loc := (x.maps[bits.map]?).map fun r => x.place g.1.handle g.1.bud r.block r.index g.1.bun
  let r := { s.mkRec (s.waveAt i) g.1 (cause 0x81) g.2 0 0 with loc := if bits.map = 0xFFFF then none else loc }
  let t := s.takeFault i g.2 g.1 r
  { t.updWave i fun w => { w with evicted := true } with images := t.images.filter fun y => !(y.die == x.die && y.unit == x.unit) }

/-- The bundle holds a variable-latency operation. -/
def Bundle.varies (b : Bundle) : Bool :=
  b.ops.any fun o => o.land != 0 || (match o.nat with | some (.fill ..) => true | _ => false)
/-- A full landing buffer (R90): the bundle waits, or, with a stamp, faults (R399). -/
def State.bufferFull (s : State) (i : Nat) (g : Loc × Mask) (b : Bundle) : Option State :=
  let w := s.waveAt i
  if b.varies && decide (768 ≤ s.entriesUsed (globalCore w.die w.core)) then
    some (if b.stamp.isSome then s.faultAt i g.2 g.1 (causeT 0x31 2) g.2 0 0 else s)
  else none

/-- The next bundle of a group of a wave: what stands before it, or the bundle itself (R85, R90, R131, R240, R375, R399, R420, R423). -/
def State.issueGroup (s : State) (i : Nat) (g : Loc × Mask) : Outcome :=
  match s.beforeBundle i g with
  | (t, true) => .next t
  | (t, false) =>
    match t.locImage (t.waveAt i) g.1 with
    | none => .next t
    | some x =>
      match x.plan[g.1.bun]? with
      | none => .next t
      | some b =>
        let bits := if x.code.isEmpty then default else t.bundleBits x b
        if !t.bundleLegal i g.2 x bits then .next (t.illegalBundle i g x bits)
        else if t.stampBad i g.2 x bits then .next (t.faultAt i g.2 g.1 (causeT 0x31 0) g.2 0 0)
        else
          match t.bufferFull i g b, t.fillFor i b with
          | some u, _ => .next u
          | none, .error a => .next (t.faultAt i g.2 g.1 (cause 0x80) g.2 0 (dw a))
          | none, .ok t =>
            match t.runBundle i g.2 g.1 x b with
            | .next u => .next (t.afterIssue i g b u)
            | .fault f => .fault f
            | .refused r => .refused r

/-- What an attempt came to: the bundle issued, or its wave faulted at it. The rest only asks for something, and the bundle waits. -/
def State.took (s u : State) (i : Nat) : Bool :=
  (u.waveAt i).retired != (s.waveAt i).retired || ((u.waveAt i).faulted && !(s.waveAt i).faulted) ||
  ((u.waveAt i).contAsk.isSome && (s.waveAt i).contAsk.isNone)
/-- A bundle that faults has its place in the packet too (R135, R137), and its turn is over (R397). -/
def State.faultTurn (s : State) (i : Nat) (g : Loc × Mask) (u : State) : State :=
  if (u.waveAt i).retired = (s.waveAt i).retired ∧ s.took u i then
    let u : State := { u with issued := u.issued ++ [(i, g.2, ((s.bundleAt (s.waveAt i) g.1).map Bundle.slots).getD 0)] }
    match s.orderedGang i with
    | some gg => u.turnOver gg
    | none => u
  else u
/-- The next bundle of a group, in its packet and its turn. -/
def State.issueTurn (s : State) (i : Nat) (g : Loc × Mask) : Outcome :=
  match s.issueGroup i g with
  | .next u => .next (s.faultTurn i g u)
  | o => o

/-! ## Frames (R395-R397) -/

/-- The wave's turn brings an issue in this cycle: the bundle of the group that it offers first can issue, or it faults. -/
def State.turnIssues (s : State) (i : Nat) : Bool :=
  s.mayIssue i && ((s.offers i).head?).any fun g => s.groupReady i g && s.slotsFree i g &&
    (match s.issueGroup i g with
     | .next u => s.took u i
     | _ => true)
/-- The cycle is a frame of the gang: each rank's turn is empty or brings an issue. Else it is frozen. -/
def State.frameReady (s : State) (g : Gang) : Bool :=
  let ws := (s.ranksOf g).filterMap (s.turnWave g)
  g.plan.isEmpty && g.frameEnd != s.cycle + 1 && !s.halted && !ws.isEmpty &&
    ws.all fun i => s.orderedGang i == some g && !s.cutHolds i && (s.emptyTurn i || s.turnIssues i)

/-! ## Candidates (R134, R136, R396) -/

/-- Bundles that have issued on a core in this cycle: a packet holds two at most (R135). -/
def State.packetSize (s : State) (core : Nat) : Nat :=
  (s.issued.filter fun e => globalCore (s.waveAt e.1).die (s.waveAt e.1).core == core).length
/-- The groups of a wave that may issue now: both that it offers; of an ordered one the first, in its turn. In a frozen cycle a turn's bundle may
only ask for what it waits for. -/
def State.candsOf (s : State) (i : Nat) : List (Nat × Loc × Mask) :=
  if !s.mayIssue i || decide (2 ≤ s.packetSize (globalCore (s.waveAt i).die (s.waveAt i).core)) then []
  else
    let ok := fun g => s.groupReady i g && s.slotsFree i g
    match s.orderedGang i with
    | some g =>
      let first := (((s.offers i).take 1).filter ok).map fun x => (i, x)
      if g.plan.isEmpty then
        (if g.frameEnd ≠ s.cycle + 1 ∧ (s.ranksOf g).any (fun k => s.turnWave g k == some i) ∧ !s.emptyTurn i ∧ !s.turnIssues i then first else [])
      else if s.nextTurn g = some (i, false) then first else []
    | none => ((s.offersLeft i).filter ok).map fun x => (i, x)

/-- Candidates of ordered gangs first, then by urgency. -/
def State.candBefore (s : State) (a b : Nat × Loc × Mask) : Bool :=
  if s.isOrdered a.1 ≠ s.isOrdered b.1 then s.isOrdered a.1 else s.urgentBefore a.1 a.2 b.1 b.2
def State.insertCand (s : State) (x : Nat × Loc × Mask) : List (Nat × Loc × Mask) → List (Nat × Loc × Mask)
  | [] => [x]
  | y :: ys => if s.candBefore x y then x :: y :: ys else y :: s.insertCand x ys

/-- Cores that hold waves and have formed no packet in this cycle, ascending (R135). -/
def State.openCores (s : State) : List Nat :=
  let live := ((List.range s.waves.length).filter s.resident).map fun i => globalCore (s.waveAt i).die (s.waveAt i).core
  (List.range 640).filter fun c => live.contains c && s.packetSize c == 0
/-- The candidates of each core by urgency; those of ordered gangs, of all cores, come before the others (R398). -/
def State.candidates (s : State) : List (Nat × Loc × Mask) :=
  let all := s.openCores.flatMap fun c =>
    (((List.range s.waves.length).filter fun i => globalCore (s.waveAt i).die (s.waveAt i).core == c).flatMap s.candsOf).foldl
      (fun l x => s.insertCand x l) []
  (all.filter fun c => s.isOrdered c.1) ++ all.filter fun c => !s.isOrdered c.1

/-! ## Packets (R135, R137, R249) -/

/-- The bundle of a candidate clears presence bits (R248). -/
def State.clears (s : State) (c : Nat × Loc × Mask) : Bool :=
  match s.locImage (s.waveAt c.1) c.2.1 with
  | none => false
  | some x =>
    match x.plan[c.2.1.bun]? with
    | none => false
    | some b =>
      b.slots.testBit 3 && b.ops.any fun o =>
        match o.own.map fun k => s.fetch (x.place c.2.1.handle c.2.1.bud b.block k c.2.1.bun) with
        | some (.ok (.ldblk .., _)) => true
        | _ => false
/-- The slots of a candidate's bundle. -/
def State.candSlots (s : State) (c : Nat × Loc × Mask) : Nat := ((s.bundleAt (s.waveAt c.1) c.2.1).map Bundle.slots).getD 0
/-- The secondary of a packet: of the candidates behind the primary, the first of its core whose bundle uses no slot that the primary's uses, and
issues in this cycle too. -/
def State.secondary (s : State) (c : Nat × Loc × Mask) (cs : List (Nat × Loc × Mask)) : Option (Nat × Loc × Mask) :=
  let at_ := fun (i : Nat) => globalCore (s.waveAt i).die (s.waveAt i).core
  cs.find? fun x => at_ x.1 == at_ c.1 && s.candSlots x &&& s.candSlots c == 0 &&
    (match s.issueTurn x.1 x.2 with
     | .next v => s.took v x.1
     | _ => true)
/-- The wave can still issue the other bundle of a packet. -/
def State.stillIssues (s : State) (x : Nat × Loc × Mask) (c : Nat × Loc × Mask) : Bool := (s.waveAt x.1).live && (x.1 == c.1 || s.mayIssue x.1)
/-- A packet of two bundles, `u` what the primary alone makes. One that clears presence bits counts as first (R249). A bundle that faults cancels
nothing of the other: a wave's other group issues its bundle before the fault stops the wave, and where both fault the primary's stands (R137). -/
def State.packet (s : State) (c x : Nat × Loc × Mask) (u : State) : Outcome :=
  let behind := (s.clears x && !s.clears c) || (x.1 == c.1 && (u.waveAt c.1).retired == (s.waveAt c.1).retired)
  if behind then
    match s.issueTurn x.1 x.2 with
    | .next v =>
      if x.1 = c.1 ∧ (v.waveAt c.1).retired = (s.waveAt c.1).retired then .next u
      else if v.stillIssues c x then v.issueTurn c.1 c.2 else .next v
    | o => o
  else if u.stillIssues x c then u.issueTurn x.1 x.2 else .next u

/-- The packet of the first core whose primary's bundle is not frozen. What only asks for something comes alone. -/
def State.issueFirst (s : State) : List (Nat × Loc × Mask) → Option Outcome
  | [] => none
  | c :: cs =>
    match s.issueTurn c.1 c.2 with
    | .next u =>
      if { u with issue := s.issue } = s then s.issueFirst cs
      else if s.took u c.1 then
        match s.secondary c cs with
        | some x => some (s.packet c x u)
        | none => some (.next u)
      else some (.next u)
    | .fault f => some (.fault f)
    | .refused r => some (.refused r)

/-! ## Events that are due -/

/-- Events of the waves. -/
def State.dueWave (s : State) (i : Nat) : List Instr :=
  let w := s.waveAt i
  let waits := fun (p : Wait → Bool) => s.resident i && !(s.cut.st == 3 && s.cutCovers i) && w.lanes.any fun l => l.st == .parked && p l.wait
  (if (w.landings.any fun x => x.landed s.cycle) || (w.fmPend.any fun x => decide (x.due ≤ s.cycle)) then [.landing i] else []) ++
  (if waits fun x => match x with | .barrier .. => true | _ => false then [.barrierWaitRelease i] else []) ++
  (if waits fun x => match x with | .waitval .. => true | _ => false then [.waitvalReread i] else []) ++
  (if waits fun x => match x with | .sleep (some _) => true | _ => false then [.sleepTimeout i] else []) ++
  (if waits fun x => match x with | .presence _ => true | _ => false then [.waveUnparkPresence i] else []) ++
  (if waits fun x => x == .dmerge then [.gangFold i] else []) ++
  (if w.live && w.qoffer then [.quernAccept w.die (w.core / 4) (w.core % 4 / 2) i] else []) ++
  (if s.mayIssue i then
     [.translationMiss i] ++ (if (s.migrationPoint i).isSome then [.waveMigrate i] else []) ++
     (if w.unoffered.any fun e => decide (64 ≤ e.2) then [.groupOfferRotate i] else []) ++
     (if 64 ≤ w.starve then [.starvationPrimary w.die w.core] else []) ++
     (if 8 ≤ w.throttled then [.throttlePrimary w.die w.core] else [])
   else []) ++
  (if s.isOrdered i then [.emptyTurn i] else [])

/-- Events of the memory system and the fabric. -/
def State.dueMem (s : State) : List Instr :=
  (s.msgs.flatMap fun m =>
    match m.st with
    | .sent => [.remoteWriteCheck m.id]
    | .denied => [.negativeAckArrival m.id]
    | .accepted => (if m.tfdn.isSome then [] else m.invs.map fun d => .rdcInvalidation d m.id) ++ [.homeWritePerform m.id]) ++
  (s.held.map fun h => .copyPendingWrite h.id) ++ (if s.held.isEmpty && !s.hostQ.isEmpty then [.copyPendingWrite 0] else []) ++
  (s.copies.flatMap fun c => (c.lines.take 1).map fun l => .blockCopyLineDone c.id l) ++
  (s.rdcFills.map fun f => .rdcFillArrival f.1 f.2.1) ++
  ((s.rounds.map fun r => (r.window, r.off)).eraseDups.flatMap fun r => [.reductionRoundComplete r.1 r.2, .reductionRoundTimeout r.1 r.2]) ++
  ((List.range s.ports.length).flatMap fun p =>
    let x := s.portAt p
    (match x.inbox.head?.map FabMsg.op with
     | some 1 => [.fabricRead p] | some 2 => [.fabricReadData p] | some 3 => [.fabricWrite p] | some 4 => [.fabricAtomic p]
     | some 5 => [.fabricAtomicData p] | some 6 => [.fabricWriteAck p] | some 7 => [.fabricNegativeAck p]
     | some 8 => [.fabricContribution p] | _ => []) ++
    (if x.replay.isEmpty then [] else [.flitReplayTimeout p]))

/-- Events of the querns, the engines and the content-addressed regions. -/
def State.dueEngine (s : State) : List Instr :=
  (s.spans.filterMap fun e => (s.waveOf e.wave).map Instr.spanComplete) ++
  ((s.quern.filter fun o => decide (o.stage < 2)).map fun o => .quernOpComplete o.die o.cluster o.quern) ++
  ((s.cmds.filter fun c => c.begun && !c.finished).flatMap fun c =>
    match c.kind with
    | 1 => [.copy c.id] | 2 => [.copyNd c.id] | 3 => [.gather c.id] | 4 => [.scatter c.id] | 5 => [.engineFill c.id] | 6 => [.rcopy c.id]
    | 7 => [.caout c.id] | _ => []) ++
  (s.parts.flatMap fun p => [.vaultPartApply p.die p.vault p.region, .sequenceGapTimeout p.die p.vault p.region]) ++
  ((List.range s.bindings.length).flatMap fun b => [.commandComplete b, .notifyFetch b, .commandBegin b]) ++
  (s.ca.flatMap fun r =>
    (if s.caBusy r then [.regionInitDone r.slot] else []) ++
    (if r.drops.isEmpty then []
     else if r.retryAt = 0 then [.backgroundDrop r.slot] else if r.retryAt ≤ s.cycle then [.backgroundDropRetry r.slot] else []))

/-- Events of tasks, translation, the loader, traps and checkpoints. -/
def State.dueTask (s : State) : List Instr :=
  let dies := List.range 8
  (s.loads.take 1).flatMap (fun _ => [.loaderServe, .lazyResolve]) ++
  ((s.modules.filter fun m => m.loads == 0).map fun m => .moduleLeave m.handle) ++
  (dies.flatMap fun d => (List.range (s.transReqs.filter fun r => r.die == d).length).map fun n => .translationComplete d n) ++
  ((s.notices.map Prod.fst).eraseDups.map .noticeRingDrain) ++
  (match s.cut.st with
   | 1 => (List.range (s.waves.length + 1)).map .cutReport
   | 2 => (List.range (s.waves.length + 1)).map .cutStop
   | _ => []) ++
  (if s.cut.st = 0 ∨ s.cut.st = 3 then [] else [.cutTimeout]) ++
  (if s.ckpt.active then [.ckptCapture, .ckptRestore] else []) ++
  ((List.range s.wgs.length).flatMap fun g =>
    match (s.wgAt g).st with
    | .saving => [.contextSave g]
    | .saved => [.contextRestore g]
    | .killing => [.preemptDecide 0 s.tasks.length]
    | _ => []) ++
  (if s.tasks.any fun t => t.aborted.isSome then [.preemptDecide 0 s.tasks.length] else []) ++
  (if s.tasks.any fun t => t.st == .ready || t.st == .running then dies.map .workgroupAdmit else []) ++
  ((List.range s.tasks.length).flatMap fun t =>
    let x := s.tasks.getD t default
    if x.st = .ready ∨ x.st = .running then
      .placementStalled t :: (if x.st = .ready then dies.map fun d => .preemptDecide d t else [])
    else [])

def State.due (s : State) : List Instr :=
  (List.range s.waves.length).flatMap s.dueWave ++ s.dueMem ++ s.dueEngine ++ s.dueTask

/-- The first due event that has an effect. -/
def State.eventFirst (s : State) : List Instr → Option Outcome
  | [] => none
  | i :: is =>
    match exec i s with
    | .next u => if u = s then s.eventFirst is else some (.next (s.spansSee none u))
    | .fault f => some (.fault f)
    | .refused r => some (.refused r)

/-! ## A cycle -/

/-- At the boundary of a window the cores near a vault in band 3 run with their ratios lowered (R467, R472). -/
def State.hotWindow (s : State) : State :=
  if s.cycle % 1024 ≠ 0 then s
  else
    { s with dies := (List.range s.dies.length).map fun d =>
        let x := s.dieAt d
        let hot := (List.range 80).filter fun c => s.hotCore d c
        if hot.isEmpty then x
        else
          { x with ftcore := x.ftcore.filter (fun e => !hot.contains e.1) ++
              hot.map fun c => (c, (s.ftOf d c).1, hotRatio (s.ftOf d c).2) } }

/-- The counts that a cycle without an issue moves (R136, R471), the hold of a yield that ends with the cycle (R157), and the group that has been
offered in place of the smaller one (R136). -/
def State.tickWave (s : State) (i : Nat) (w : Wave) : Wave :=
  let w := if w.hold ≠ 0 ∧ w.hold ≤ s.cycle + 2 then { w with hold := 0 } else w
  if s.bundlesIssued i ≠ 0 then { w with offerNext := none }
  else if !s.resident i then w
  else
    { w with starve := min 65535 (w.starve + 1)
             throttled := if !s.throttledCore w.die w.core then 0 else if (s.candsOf i).isEmpty then w.throttled else w.throttled + 1 }

/-- What the waves have waited for since their bundles issued: the save of a faulted wave (R422), the call of a continuation (R430). -/
def State.settleWaves (s : State) : State :=
  (List.range s.waves.length).foldl (fun s i =>
    let s := if (s.waveAt i).unsaved && s.resident i then s.finishFault i else s
    if (s.waveAt i).contAsk.isSome && s.resident i && !s.cutHolds i && !s.halted then s.contStep i else s) s
/-- Tasks whose merge has performed are DONE (R405). -/
def State.settleMerges (s : State) : State :=
  ((s.tasks.filter Task.merging).map Task.handle).foldl (fun s h => s.signalMerged h) s
/-- One cycle passes: cycle counters (R175), waits, ESTIM while a workgroup of the task holds what it was given (R387), one data flit a port (R487),
turns that fall to no wave (R396), stale images (R445). -/
def State.tick (s : State) : State :=
  let s := s.passGoneRanks.settleWaves.settleMerges
  let busy := fun (t : Task) => s.wgs.any fun g => g.task == t.handle && (g.st == .resident || g.st == .saving || g.st == .killing)
  let t : State :=
    { s with cycle := s.cycle + 1
             issued := []
             dies := s.dies.map fun d => { d with clock := d.clock + 1 }
             waves := (List.range s.waves.length).map fun i => s.tickWave i (s.waveAt i)
             tasks := s.tasks.map fun t => if busy t then { t with estim := if t.estim = 0 then 0 else t.estim - 1 } else t
             ports := s.ports.map fun p => p.sendNext s.cycle }
  t.hotWindow.dropStale
def State.ticks : Nat → State → State
  | 0, s => s
  | n + 1, s => ticks n s.tick

/-! ## Moves -/

/-- The lines of a bundle in the translation cache take other bytes (R85). The model takes a corruption that makes the bundle illegal under every
pair of types, or that changes its stamp only. -/
def State.corruptBundle (s : State) (d u n : Nat) (bs : List Byte) : State :=
  match s.images.find? fun x => x.die == d && x.unit == u with
  | none => s
  | some x =>
    match x.plan[n]? with
    | none => s
    | some b =>
      let k := physKey d (Config.reservation + 65536 * u + 64 + b.boff)
      let s := s.meetKey k 104 0
      let t : State := { s with mem := putBytes s.mem k (bs.take (((x.plan[n + 1]?).map fun c => c.boff - b.boff).getD 8)) }
      let old := s.bundleBits x b
      let new := t.bundleBits x b
      let pairs := (List.range 4096).map fun n => FmTypes.ofWord (w32 (4096 * n))
      if pairs.all (fun f => !new.legal x.maps.length x.key.cls x.key.budget fun _ => f) ||
          (new.slots == old.slots && new.head % 0x2000000 == old.head % 0x2000000 && new.head / 0x200000000 == old.head / 0x200000000) then t else s

/-- A line leaves the RDC of a die, or its home's L2, with what EVICT had recorded in it (R246, R247). -/
def State.leaveRdc (s : State) (die line : Nat) : State :=
  { s with rdc := s.rdc.filter fun e => !(e.1 == die && e.2 == line), hints := s.hints.filter fun h => !(h.1 == die && h.2.1 == line) }
def State.leaveL2 (s : State) (line : Nat) : State :=
  let t := s.invalidateSharers line
  { t with hints := t.hints.filter fun h => !(h.1 == 8 && h.2.1 == line) }

/-- A move of the surroundings; one that cannot happen leaves the machine as it is. A portable instruction and a native-only operation
happen only in a bundle that the translator made (R2). -/
def State.doMove (s : State) : Move → Outcome
  | .event i =>
    if (toRaw i).isSome || i.isNative || i == .emptyBundle then .next s
    else
      match exec i s with
      | .next u => .next (s.spansSee none u)
      | o => o
  | .issue w L =>
    match (s.candsOf w).find? fun c => inMask c.2.2 L with
    | some c => s.issueTurn w c.2
    | none => .next s
  | .cycles n => .next (State.ticks n s)
  | .evict core line =>
    .next (match l1Victim (s.l1Ways core (l1Set line)) with
      | some l => if l.line = line then s.l1Evict l else s
      | none => s)
  | .evictRdc die line => .next (if s.mayEvict die line then s.leaveRdc die line else s)
  | .evictL2 line => .next (if s.mayEvict 8 line then s.leaveL2 line else s)
  | .unitFails d u => .next (if d < 8 then s.unitFails d u else s)
  | .corrupt d u n bs => .next (s.corruptBundle d u n bs)
  | .upsetPad wg word => .next (s.updWg wg fun g => if g.badPad.contains word || g.spadB < 8 * word + 8 then g else { g with badPad := g.badPad ++ [word] })
  | .upset line => .next (if s.badLines.contains line then s else { s with badLines := s.badLines ++ [line] })

/-- A machine without power only starts again (R463). -/
def State.powerStep (s : State) : Outcome :=
  match s.agenda with
  | .event .packageReset :: ms => exec .packageReset { s with agenda := ms }
  | _ => .fault .noPower

/-- What the machine does when nothing is asked of it: the eviction of a full L1 set's victim, an event that is due, a frame of an ordered gang that
begins, a packet, else a cycle passes. -/
def State.ownStep (s : State) : Outcome :=
  match s.overfull with
  | some l => .next (s.l1Evict l)
  | none =>
    match s.eventFirst s.due with
    | some o => o
    | none =>
      match s.gangs.find? s.frameReady with
      | some g => .next (s.beginFrame g)
      | none =>
      match s.issueFirst s.candidates with
      | some o => o
      | none => .next s.tick

/-- One step. -/
def State.stepOf (s : State) : Outcome :=
  if s.power then
    match s.agenda with
    | m :: ms => ({ s with agenda := ms } : State).doMove m
    | [] => s.ownStep
  else s.powerStep

/-! ## A program placed from outside -/

/-- The function of a module that holds one word: one block of one instruction at offset 0. -/
def oneWordFunc (retTy : List Ty) : FuncInfo :=
  { name := [], sig := { params := [], results := retTy }, blocks := [{ off := 0, ninstr := 1, args := [], argBase := 0 }], valTy := [], loops := [],
    quiet := [0], exported := true, budget := 8 }

/-- A module whose image is an instruction's bytes, followed by zeros. -/
def oneWordModule (nbits w : Nat) : Module :=
  { handle := 1, user := false, image := bytesOfNat (nbits / 8) w ++ List.replicate 256 0, digest := 0, loads := 1, name := [],
    funcs := [oneWordFunc []], sigs := [], links := [], datas := [], descBase := dw Config.loaderVa, linkBase := dw Config.loaderVa }

def oneWordLaunch : Launch :=
  { handle := 1, fidx := 0, grid := 1, nwave := 1, gang := 1, budget := 8, pwords := 0, flags := 0, spad := 0, prio := 0, estim := 0, seed := 0,
    args := 0, arglen := 0, deps := 0, nreg := 0, nsucc := 0, regions := [], succs := [] }

def oneWordTask : Task :=
  { die := 0, entry := 0, seq := 1, ctx := 0, user := false, launch := oneWordLaunch, st := .running, count := 0, succs := [], prio := 0, pceil := 0,
    estim := 0, fired := 0, admitted := [0], ended := 0, sinceAdmit := 0, stallSent := false, handler := false, drainOn := [], aborted := none, merging := false }

def oneWordBundle : Bundle :=
  { block := 0, index := 0, cyc := 0, first := true, back := false, boff := 0, map := some 0, quiet := true, cut := 1, stamp := none, term := false, bare := [],
    ops := [{ att := 0, own := some 0, nat := none, high := none, dsts := [], srcs := [], fsel := none, land := 0 }], slots := 0, holds := [],
    gos := [], only := none }

def oneWordImage : TransImage :=
  { die := 0, unit := 0, units := 1, key := { modkey := 0, func := 0, cls := 1, gen := 1, budget := 8, dmode := 0 }, code := [], maps := [{ block := 0, index := 0, boff := 0, live := [] }], pool := [],
    framew := 4, minb := 8,
    plan := [oneWordBundle], starts := [0], places := [[(0, 0)]], scal := [], stale := false, users := [], lastUse := 0 }

/-- A machine in which the next step issues the placed instruction for the 32 lanes of one wave. -/
def State.placeWord (s : State) (nbits w : Nat) : State :=
  let t : State :=
    { s with power := true, halted := false, modules := [oneWordModule nbits w], tasks := [oneWordTask], wgs := [], waves := [],
             gangs := [{ task := oneWordTask.handle, num := 0, fc := 0, plan := [], frameEnd := 0, gset := [], gpool := [], folds := 0 }],
             images := [oneWordImage], transReqs := [], agenda := [.issue 0 0] }
  let g : Workgroup :=
    { st := .resident, task := oneWordTask.handle, num := 0, die := 0, core := 0, scoreStart := 0, spadB := 0, spad := [], absent := [], badPad := [], cost := [],
      wset := [], wpool := [], reds := [], spimg := none, argsDue := none, budget := 8 }
  let p : Loc := { handle := 1, func := 0, block := 0, index := 0, off := 0, vnum := 0, bun := 0, bud := 8 }
  let fr : Frame := { vals := [], ret := none, dst := 0, callerFb := 0, budget := 8, bpos := 0, cont := false }
  let l : Lane :=
    { st := .running, wait := .none, pc := p, after := p, frames := [fr], fb := 0, rsidx := 0, bpos := 0, g := [], s := [], fm := [] }
  { t with wgs := [g]
           waves := [{ ({ t with wgs := [g] } : State).newWave 0 0 0 0 0 1 0 none 8 with lanes := List.replicate 32 l, pbase := 0 }] }

end Sys2Proof.Machine
end

