-- ==== Sys2Proof/Machine/Step.lean ====
section
/-! DEFINITION. The step function, and the placing of one instruction before it. -/
namespace Sys2Proof.Machine

def step (s : State) : Host.Outcome State Fault Refusal := s.stepOf

/-- See notes/assumptions: a program is loaded from outside the machine; this stands for that load, and for the launch of one wave. -/
def State.withFetchWord (s : State) (nbits w : Nat) : State := s.placeWord nbits w

end Sys2Proof.Machine
end

