-- ==== Sys2Proof/Safety.lean ====
section
/-! DEFINITION. What a safe run is, and the words in which the statements of Certificates/ speak: a wave that issues, what an instruction
leaves as it was, the results it writes, and the bytes of memory that a store reaches. -/
namespace Sys2Proof.Safety
open Sys2Proof.Machine

/-! ## Runs -/

/-- What every step keeps: the memory in canonical form, so that equal memories are equal data. -/
def State.canonical (s : State) : Prop := Memory.wf s.mem

/-- A run that steps through `n` next states. -/
def runs : Nat → State → Prop
  | 0, _ => True
  | n + 1, s => ∃ t, step s = .next t ∧ runs n t

/-- A safe run: it goes on for ever; the only stop of the model is the loss of power (R463) or code that the loader never accepts. -/
def Safe (s : State) : Prop := ∀ n, runs n s

/-! ## The issuing wave -/

/-- Lane `L` is one of the lanes for which the instruction issues. -/
def On (s : State) (L : Nat) : Prop := L < 32 ∧ inMask s.issue.mask L = true
/-- Lane `L` is one of the other lanes. -/
def Off (s : State) (L : Nat) : Prop := L < 32 ∧ inMask s.issue.mask L = false

/-- The issuing wave is a wave of the machine, and each lane that issues runs a function. -/
def Issuing (s : State) : Prop := s.issue.wave < s.waves.length ∧ ∀ L, On s L → (s.wv.lane L).frames ≠ []

/-- Value number `n` of lane `L` of the wave that issued in `s`, as state `t` holds it. -/
def valIn (s t : State) (L n : Nat) : Val := ((t.waveAt s.issue.wave).lane L).val n
/-- Result `k` of the instruction that issued in `s`, in lane `L` of state `t` (R52). -/
def result (s t : State) (L k : Nat) : Val := valIn s t L (s.issue.loc.vnum + k)

/-! ## Frames -/

/-- The wave goes on: it counts one issue (R136, R175), and nothing of it changes but its lanes, its predicate registers, FPFLAGS, its landings, and
the counts. -/
def WaveOn (w v : Wave) : Prop :=
  v = { w with lanes := v.lanes, q := v.q, fpf := v.fpf, fpAt := v.fpAt, fpNew := v.fpNew, landings := v.landings, retired := w.retired + 1, sincePhase := w.sincePhase + 1, starve := 0,
               throttled := 0, primary := false, migrate := false }

/-- A lane that issued goes on at the next place: only its values, its registers, RSIDX and its place have changed. -/
def LaneOn (s : State) (l m : Lane) : Prop :=
  m = { l with frames := m.frames, g := m.g, s := m.s, rsidx := m.rsidx, pc := s.issue.next, bpos := l.bpos + 1 }

/-- THE FRAME of an instruction that writes `k` results and nothing else: every other wave, every byte of memory, every system register, every
workgroup, task and module, every queue and every other piece of the state is as it was; so are the lanes that did not issue, the values of
the others except the results, the callers' activations, every native register except those that the operation names, and every landing on its
way but those of these registers. -/
structure ResultsOnly (s t : State) (k : Nat) : Prop where
  rest : t = { s with waves := t.waves }
  waves : ∀ j, j ≠ s.issue.wave → t.waves[j]? = s.waves[j]?
  wave : WaveOn s.wv t.wv
  off : ∀ L, Off s L → t.wv.lane L = s.wv.lane L
  on : ∀ L, On s L → LaneOn s (s.wv.lane L) (t.wv.lane L)
  vals : ∀ L, On s L → ∀ n, n < s.issue.loc.vnum ∨ s.issue.loc.vnum + k ≤ n → valIn s t L n = valIn s s L n
  callers : ∀ L, On s L → (t.wv.lane L).frames.tail = (s.wv.lane L).frames.tail
  lands : ∃ xs, t.wv.landings = s.wv.landings ++ xs ∧ ∀ x ∈ xs, ∀ e ∈ x.data, On s e.2.1 ∧
    ∃ d ∈ s.issue.dsts, d.1 ≤ e.1 ∧ e.1 < d.1 + max 1 d.2
  regs : ∀ L, L < 32 → ∀ r, (∀ d ∈ s.issue.dsts, r < d.1 ∨ d.1 + max 1 d.2 ≤ r) → t.wv.regRead r L = s.wv.regRead r L

/-- The floating-point flags and the rounding words are as they were. -/
def QuietFp (s t : State) : Prop :=
  t.wv.fpf = s.wv.fpf ∧ t.wv.fpAt = s.wv.fpAt ∧ t.wv.fpNew = s.wv.fpNew ∧ ∀ L, On s L → (t.wv.lane L).rsidx = (s.wv.lane L).rsidx

/-- The instruction completes with one result a lane, of which `P` holds, and changes nothing else. -/
def Gives (i : Instr) (s : State) (P : Nat → Val → Prop) : Prop :=
  ∃ t, exec i s = .next t ∧ ResultsOnly s t 1 ∧ QuietFp s t ∧ ∀ L, On s L → P L (result s t L 0)

/-- The instruction completes with two results a lane. -/
def Gives2 (i : Instr) (s : State) (P : Nat → Val → Val → Prop) : Prop :=
  ∃ t, exec i s = .next t ∧ ResultsOnly s t 2 ∧ QuietFp s t ∧ ∀ L, On s L → P L (result s t L 0) (result s t L 1)

/-- The instruction completes with no result and changes nothing but the wave's place and counts. -/
def Passes (i : Instr) (s : State) : Prop := ∃ t, exec i s = .next t ∧ ResultsOnly s t 0 ∧ QuietFp s t

/-- The flags of a floating-point instruction land: FPFLAGS holds its old bits and every flag `fl` of a lane that issued (R187), these outlive a clear
in the cycle in which they land (R188), and RSIDX has moved on by `words` in these lanes (R185). -/
def FlagsLand (s t : State) (words : Nat) (fl : Nat → Nat) : Prop :=
  (∀ k, k < 5 → (t.wv.fpf.getLsbD k = true ↔ s.wv.fpf.getLsbD k = true ∨ ∃ L, On s L ∧ (fl L).testBit k = true)) ∧
  (∀ k, k < 5 → ((t.wv.clearFlags (s.cycle + 1) 31).fpf.getLsbD k = true ↔
    (s.wv.fpAt = s.cycle + 1 ∧ s.wv.fpNew.getLsbD k = true) ∨ ∃ L, On s L ∧ (fl L).testBit k = true)) ∧
  ∀ L, On s L → (t.wv.lane L).rsidx = (s.wv.lane L).rsidx + dw words

/-- A floating-point instruction completes with one result a lane: `P L d fl` holds of the result and the flags of each lane. -/
def GivesFp (i : Instr) (s : State) (words : Nat) (P : Nat → Val → Nat → Prop) : Prop :=
  ∃ t fl, exec i s = .next t ∧ ResultsOnly s t 1 ∧ FlagsLand s t words fl ∧ ∀ L, On s L → P L (result s t L 0) (fl L)
/-- The same with two results a lane. -/
def GivesFp2 (i : Instr) (s : State) (words : Nat) (P : Nat → Val → Val → Nat → Prop) : Prop :=
  ∃ t fl, exec i s = .next t ∧ ResultsOnly s t 2 ∧ FlagsLand s t words fl ∧
    ∀ L, On s L → P L (result s t L 0) (result s t L 1) (fl L)

/-- Element `j` of a result of type `ty`. -/
def elemOf (ty : Ty) (v : Val) (j : Nat) : Nat := elemAt v (Ty.elem ty).width j
/-- The instruction completes with one result of type `ty` a lane: `P L j d` holds of element `j` of lane `L`, whose bits are `d`, and no bit
stands above the elements (R161). -/
def ByElement (i : Instr) (s : State) (ty : Ty) (P : Nat → Nat → Nat → Prop) : Prop :=
  Gives i s fun L v =>
    v.toNat < 2 ^ ((Ty.elem ty).width * Ty.lanes ty) ∧ ∀ j, j < Ty.lanes ty → elemOf ty v j < 2 ^ (Ty.elem ty).width ∧ P L j (elemOf ty v j)

/-- The same for a floating-point instruction: `P L j d fl` holds of element `j` and its flags, and the lane's flags are those of its
elements. -/
def ByElementFp (i : Instr) (s : State) (ty : Ty) (words : Nat) (P : Nat → Nat → Nat → Nat → Prop) : Prop :=
  GivesFp i s words fun L v fl =>
    v.toNat < 2 ^ ((Ty.elem ty).width * Ty.lanes ty) ∧
    ∃ f : Nat → Nat, (∀ k, k < 5 → (fl.testBit k = true ↔ ∃ j, j < Ty.lanes ty ∧ (f j).testBit k = true)) ∧
      ∀ j, j < Ty.lanes ty → P L j (elemOf ty v j) (f j)

/-- The wave waits: nothing of the instruction happens now. -/
def Waits (i : Instr) (s : State) : Prop := exec i s = .next s

/-! ## Floating point -/

/-- The rational number of a finite value. -/
def ratOf : FVal → Rat
  | .fin n m x => (if n then -1 else 1) * m * (2 : Rat) ^ x
  | _ => 0

/-- The spacing of the format at a magnitude is 2^q (R182): that of the binade, not below the subnormal spacing, and above the largest finite
value the spacing there. -/
def SpacingIs (e : Elem) (v : ℝ) (q : Int) : Prop :=
  ∃ p : Int, (2 : ℝ) ^ p ≤ v ∧ v < (2 : ℝ) ^ (p + 1) ∧
    q = min (max (p - fMan e) (1 - fBias e - fMan e)) ((fMaxCode e / 2 ^ fMan e : Nat) - fBias e - fMan e)

/-- The choice of R182 to round up, from the parity of t/q, the discarded fraction and the rounding word. -/
def RoundsUp (r : Rnd) (u : Nat) (neg : Prop) (k : Nat) (f : ℝ) : Prop :=
  match r with
  | .rne => 1 / 2 < f ∨ (f = 1 / 2 ∧ k % 2 = 1)
  | .rna => 1 / 2 ≤ f
  | .rtz => False
  | .rup => 0 < f ∧ ¬neg
  | .rdn => 0 < f ∧ neg
  | .rsto => (2 : Int) ^ 32 ≤ ⌊f * 2 ^ 32⌋ + u

/-- R182: the truncated magnitude k units of 2^q, with or without one unit more. -/
def RoundedTo (r : Rnd) (u : Nat) (v : ℝ) (q : Int) (y : Nat) (f : ℝ) : Prop :=
  ∃ k : Nat, |v| = (k + f) * (2 : ℝ) ^ q ∧ 0 ≤ f ∧ f < 1 ∧
    (RoundsUp r u (v < 0) k f → y = k + 1) ∧ (¬RoundsUp r u (v < 0) k f → y = k)

/-- The table of R183: where an overflow gives infinity. -/
def OverflowsToInf (r : Rnd) (neg : Prop) : Prop :=
  match r with
  | .rne | .rna | .rsto => True
  | .rtz => False
  | .rup => ¬neg
  | .rdn => neg

/-- The sign bit of a code. -/
def SignIs (e : Elem) (neg : Prop) (d : Nat) : Prop := d < 2 ^ e.width ∧ (d.testBit (e.width - 1) = true ↔ neg)
/-- A code of a sign and magnitude code. -/
def CodeIs (e : Elem) (neg : Prop) (mag d : Nat) : Prop := SignIs e neg d ∧ d % 2 ^ (e.width - 1) = mag
/-- An infinite result (R183, R186): the NaN of the sign in E4M3, the largest finite value under SAT. -/
def InfIs (e : Elem) (sat : Bool) (neg : Prop) (d : Nat) : Prop :=
  CodeIs e neg (if sat then fMaxCode e else if e = .e4m3 then 0x7F else fInf e) d

/-- R182, R183, R184, R186: `d` and its flags are the nonzero real `v` rounded. -/
def RoundIs (e : Elem) (fm : FMod) (u : Nat) (v : ℝ) (d fl : Nat) : Prop :=
  ∃ (q : Int) (y : Nat) (f : ℝ), SpacingIs e |v| q ∧ RoundedTo fm.rnd u v q y f ∧
    let top : ℝ := (ratOf (fDecode e (fMaxCode e)) : ℝ)
    let normal : ℝ := (2 : ℝ) ^ (1 - (fBias e : Int))
    let past := top < y * (2 : ℝ) ^ q ∨ ((fm.rnd = .rne ∨ fm.rnd = .rna) ∧ top + (2 : ℝ) ^ q / 2 ≤ |v|)
    let flush := fm.ftzo = true ∧ y ≠ 0 ∧ y * (2 : ℝ) ^ q < normal
    (past → fl = flOF ||| flNX ∧ (OverflowsToInf fm.rnd (v < 0) → InfIs e fm.sat (v < 0) d) ∧
      (¬OverflowsToInf fm.rnd (v < 0) → CodeIs e (v < 0) (fMaxCode e) d)) ∧
    (¬past → flush → CodeIs e (v < 0) 0 d ∧ fl = flUF ||| flNX) ∧
    (¬past → ¬flush → SignIs e (v < 0) d ∧ (∃ m x, fDecode e (d % 2 ^ (e.width - 1)) = .fin false m x ∧ (m : ℝ) * (2 : ℝ) ^ x = y * (2 : ℝ) ^ q) ∧
      (f = 0 → fl = 0) ∧ (f ≠ 0 → |v| < normal → fl = flNX ||| flUF) ∧ (f ≠ 0 → normal ≤ |v| → fl = flNX))

/-- A NaN result of this chapter (R179), with NV for a signalling operand. -/
def NaNIs (e : Elem) (nv : Prop) (d fl : Nat) : Prop := d = fNaN e ∧ (nv → fl = flNV) ∧ (¬nv → fl = 0)

/-- A sum of R193: of two values of the format read under FTZI, or of an exact product and a value. -/
def SumIs (e : Elem) (fm : FMod) (u : Nat) (a b : FVal) (d fl : Nat) : Prop :=
  match a, b with
  | .inf n, .inf n' => if n = n' then InfIs e fm.sat (n = true) d ∧ fl = 0 else NaNIs e True d fl
  | .inf n, .fin _ _ _ => InfIs e fm.sat (n = true) d ∧ fl = 0
  | .fin _ _ _, .inf n => InfIs e fm.sat (n = true) d ∧ fl = 0
  | .fin n m _, .fin n' m' _ =>
    let v := ratOf a + ratOf b
    (v ≠ 0 → RoundIs e fm u v d fl) ∧
    (v = 0 → fl = 0 ∧ CodeIs e (if m = 0 ∧ m' = 0 ∧ n = n' then n = true else fm.rnd = .rdn) 0 d)
  | _, _ => NaNIs e (a.sig = true ∨ b.sig = true) d fl

/-- What an operand of FTZI reads as: a code and its value. -/
def srcOf (e : Elem) (ftzi : Bool) (c : Nat) : FVal := fDecode e (fFtz e ftzi c)

/-- A product and a quotient of R193. -/
def ProductIs (e : Elem) (fm : FMod) (u : Nat) (a b : FVal) (d fl : Nat) : Prop :=
  match a, b with
  | .fin n m _, .fin n' m' _ =>
    (m ≠ 0 ∧ m' ≠ 0 → RoundIs e fm u (ratOf a * ratOf b : Rat) d fl) ∧ (m = 0 ∨ m' = 0 → fl = 0 ∧ CodeIs e (n ≠ n') 0 d)
  | .inf n, .inf n' => InfIs e fm.sat (n ≠ n') d ∧ fl = 0
  | .inf n, .fin n' m' _ => if m' = 0 then NaNIs e True d fl else InfIs e fm.sat (n ≠ n') d ∧ fl = 0
  | .fin n m _, .inf n' => if m = 0 then NaNIs e True d fl else InfIs e fm.sat (n ≠ n') d ∧ fl = 0
  | _, _ => NaNIs e (a.sig = true ∨ b.sig = true) d fl
def QuotientIs (e : Elem) (fm : FMod) (u : Nat) (a b : FVal) (d fl : Nat) : Prop :=
  match a, b with
  | .fin n m _, .fin n' m' _ =>
    (m ≠ 0 ∧ m' ≠ 0 → RoundIs e fm u (ratOf a / ratOf b : Rat) d fl) ∧ (m = 0 ∧ m' ≠ 0 → fl = 0 ∧ CodeIs e (n ≠ n') 0 d) ∧
    (m ≠ 0 ∧ m' = 0 → fl = flDZ ∧ InfIs e fm.sat (n ≠ n') d) ∧ (m = 0 ∧ m' = 0 → NaNIs e True d fl)
  | .inf _, .inf _ => NaNIs e True d fl
  | .inf n, .fin n' _ _ => InfIs e fm.sat (n ≠ n') d ∧ fl = 0
  | .fin n _ _, .inf n' => fl = 0 ∧ CodeIs e (n ≠ n') 0 d
  | _, _ => NaNIs e (a.sig = true ∨ b.sig = true) d fl
/-- The product of two values as a value, exact; 0 × infinity apart. -/
def productOf : FVal → FVal → FVal
  | .fin n m x, .fin n' m' x' => .fin (n != n') (m * m') (x + x')
  | a, b => .inf (a.neg != b.neg)
/-- 0 × infinity. -/
def zeroTimesInf (a b : FVal) : Prop := (a.isZero = true ∧ b.isInf = true) ∨ (a.isInf = true ∧ b.isZero = true)

/-- The formats of R189: F, and F with F8. -/
def isF (e : Elem) : Prop := e = .f64 ∨ e = .f32 ∨ e = .f16 ∨ e = .bf16
def isS (e : Elem) : Prop := isF e ∨ e = .e4m3 ∨ e = .e5m2

/-- Strictly less, of values that are no NaN: infinities at the ends, the zeros equal. -/
def lessThan : FVal → FVal → Prop
  | .inf true, .inf true => False
  | .inf true, .inf false => True
  | .inf true, .fin _ _ _ => True
  | .fin _ _ _, .inf n => n = false
  | .fin n m x, .fin n' m' x' => ratOf (.fin n m x) < ratOf (.fin n' m' x')
  | _, _ => False

/-! ## Memory -/

/-- One byte of the millponds, by key. -/
def byteAt (s : State) (a : Nat) : Byte := cget memDflt s.mem a
/-- Every byte of memory outside a set of keys reads as before. -/
def KeepsMem (s t : State) (P : Nat → Prop) : Prop := ∀ a, ¬P a → byteAt t a = byteAt s a
/-- Key `a` lies in the `n` bytes from `k`. -/
def inRun (k n a : Nat) : Prop := k ≤ a ∧ a < k + n

/-- Only memory, translation buffers, caches and what belongs to them have changed. -/
def CachesOnly (s u : State) : Prop :=
  u = { s with mem := u.mem, keyids := u.keyids, tlb := u.tlb, l1 := u.l1, rdc := u.rdc, rdcFills := u.rdcFills, hints := u.hints, shr := u.shr, fabReqs := u.fabReqs }

/-- The state after the walker's updates of an access (R237): in it the lanes' places are read and written. -/
def touched (s : State) (x : Access) : State :=
  (s.activeLanes.map (s.placeAt x)).foldl (fun s p => s.touchPlace (s.accOf s.wv x.m.space x.rd x.wr) p) s

/-- The translated ranges of a place. -/
def physOf : Place → List Phys
  | .spad _ => []
  | .phys _ p => [p]
  | .words ws => ws.map Prod.snd
/-- What an access of `n` bytes at a place may change beside the bytes that it stores: the leaf entry, where the walker sets A and D (R237), with its
line where that stands under a key ID other than 0; and lines that the access meets under another key ID than the one under which they stand: they
read as the bytes that the stored line gives under this one (R22). -/
def WalkByte (s : State) (p : Phys) (n a : Nat) : Prop :=
  let stands := (cget (zeros 6) s.keyids (lineOf a)).toNat
  inRun p.ekey 8 a ∨ (lineOf a = lineOf p.ekey ∧ stands ≠ 0) ∨
  (p.key / 128 ≤ lineOf a ∧ lineOf a ≤ (p.key + n - 1) / 128 ∧ stands ≠ eKeyid p.leaf ∧ eFab p.leaf = false)
/-- The lines of an access of `n` bytes at a place stand under the key ID of its page, so that meeting them changes nothing (R22). -/
def StandsUnder (s : State) (p : Phys) (n : Nat) : Prop :=
  eFab p.leaf = true ∨ ∀ l, p.key / 128 ≤ l → l ≤ (p.key + n - 1) / 128 → (cget (zeros 6) s.keyids l).toNat = eKeyid p.leaf
/-- Byte `a` is such a byte of a page that the access uses. -/
def EntryByte (s : State) (x : Access) (a : Nat) : Prop := ∃ L p, On s L ∧ p ∈ physOf (s.placeAt x L) ∧ WalkByte s p x.n a

/-- The access issues now: no lane has a cause, the scratchpad lines are present, nothing holds it back, and no capture runs. -/
structure Goes (s : State) (x : Access) : Prop where
  places : ∀ L, On s L → ∃ p, s.placeOf x L = .ok p
  present : s.absentOf (padRanges x.n (s.activeLanes.map (s.placeAt x))) = []
  free : s.mustWait x.m x.wr x.n (s.activeLanes.map (s.placeAt x)) = false
  unheld : x.wr = true → s.padHeld (padRanges x.n (s.activeLanes.map (s.placeAt x))) = false
  calm : s.ckpt.on = false

/-- The lines that the results of an access take from the landing buffer, one entry each, and room for them (R90, R262). -/
def entriesOf (n : Nat) (pls : List Place) : Nat := (pls.flatMap (Place.lines n)).eraseDups.length
def Lands (s : State) (n : Nat) (pls : List Place) : Prop := s.issue.land = 0 ∨ s.bufferRoom (entriesOf n pls) = true

/-- Nothing but `k` results a lane, the memory of `P`, translation buffers and caches. -/
def AccessOnly (s t : State) (k : Nat) (P : Nat → Prop) : Prop := ∃ u, CachesOnly s u ∧ KeepsMem s t P ∧ u.mem = t.mem ∧ ResultsOnly u t k

/-- The same of an atomic or a reduction. -/
def atomTouched (s : State) (a : AtomOp) (op : Option Nat) : State :=
  (s.activeLanes.map (s.atomPlace a op)).foldl (fun s p => s.touchPlace (s.accOf s.wv a.m.space true true) p) s
def AtomEntryByte (s : State) (a : AtomOp) (op : Option Nat) (b : Nat) : Prop :=
  ∃ L p, On s L ∧ p ∈ physOf (s.atomPlace a op L) ∧ WalkByte s p (atomBytes a.ty) b
structure AtomGoes (s : State) (a : AtomOp) (op : Option Nat) : Prop where
  places : ∀ L, On s L → ∃ p, s.atomLoc a op L = .ok p
  present : s.absentOf (padRanges (atomBytes a.ty) (s.activeLanes.map (s.atomPlace a op))) = []
  free : s.mustWait a.m true (atomBytes a.ty) (s.activeLanes.map (s.atomPlace a op)) = false
  unheld : s.padHeld (padRanges (atomBytes a.ty) (s.activeLanes.map (s.atomPlace a op))) = false
  calm : s.ckpt.on = false

/-- The sequence of R295 at each location: `V k L` is what location `k` holds before lane `L` performs, of lanes that each name one location. -/
def Sequence (s : State) (a : AtomOp) (key : Nat → Nat) (old : Nat → Val) (V : Nat → Nat → Val) : Prop :=
  (∀ k, V k 0 = old k) ∧
  (∀ k L, On s L → key L = k → V k (L + 1) = atomF a.opc a.ty (V k L) (a.v L) (a.v2 L)) ∧
  ∀ k L, ¬(On s L ∧ key L = k) → V k (L + 1) = V k L

/-- An access of the issuing wave in its own words for one lane and one value: the form of ld and st, and of ldv and stv. -/
def accessAt (m : MMod) (rd wr : Bool) (n : Nat) (addr : Nat → Nat) : Access := { m := m, rd := rd, wr := wr, n := n, al := n, addr := addr }

/-! ## Content-addressed regions -/

/-- A transaction of R357: the lanes of the group in ascending order, each applied to the state that the earlier ones left. `R` says what one
lane does to its state, and its result. -/
def LaneChain (s : State) (R : Nat → State → State → Val → Prop) (V : Nat → State) (res : Nat → Val) : Prop :=
  V 0 = s ∧ (∀ L, On s L → R L (V L) (V (L + 1)) (res L)) ∧ ∀ L, Off s L → V (L + 1) = V L

/-- The instruction performs as a transaction that begins in `u` wherever every lane of it can; the core's lines of spaces 0 and 2 are then
read anew (R358). -/
def Transacts (i : Instr) (s u : State) (k : Nat) (R : Nat → State → State → Val → Prop) : Prop :=
  ∀ V res, LaneChain u R V res → ∃ t, exec i s = .next t ∧
    ResultsOnly { V 32 with l1 := t.l1, freeCnt := t.freeCnt, fabReqs := t.fabReqs } t k ∧
    (∀ L, On s L → k = 1 → result s t L 0 = res L) ∧ ∀ l, l ∈ t.l1 ↔ l ∈ (V 32).l1 ∧ ¬(l.core = s.gcore ∧ l.sp = 0)

/-- Every lane names an enabled region that is not being initialised, and nothing of the wave holds the transaction back (R347, R358, R363). -/
def CaReady (s : State) (rb : Opnd) : Prop :=
  (∀ L, On s L → ∃ r, s.caReg rb L = some r ∧ s.caBusy r = false) ∧ s.settled = true ∧ s.stagingFull = false

end Sys2Proof.Safety
end

