-- ==== Sys2Proof/Certificates/Slice0/Obligations.lean ====
section
/-! DEFINITION. The statements for the provers. -/
open Sys2Proof Sys2Proof.Machine Sys2Proof.Safety

/-! ## Integer and address instructions (05_integer.md) -/

/-- R162: the arithmetic instructions, element by element. `toI` is the integer an element's bits stand for in its signedness; a wrapped result is
the one integer modulo 2^w, a saturated one is clamped to MIN..MAX. -/
def Obligations.IntegerArithmetic : Prop :=
  ∀ (s : State) (ty : Ty) (a b c : Opnd), Issuing s →
    let w := (Ty.elem ty).width
    let x := fun o L j => toI (Ty.elem ty) (s.el ty o L j)
    let v := fun d => toI (Ty.elem ty) d
    let lo := eMin (Ty.elem ty)
    let hi := eMax (Ty.elem ty)
    ByElement (.add ty a b) s ty (fun L j d => (d : Int) ≡ x a L j + x b L j [ZMOD 2 ^ w]) ∧
    ByElement (.sub ty a b) s ty (fun L j d => (d : Int) ≡ x a L j - x b L j [ZMOD 2 ^ w]) ∧
    ByElement (.mul ty a b) s ty (fun L j d => (d : Int) ≡ x a L j * x b L j [ZMOD 2 ^ w]) ∧
    ByElement (.mad ty a b c) s ty (fun L j d => (d : Int) ≡ x a L j * x b L j + x c L j [ZMOD 2 ^ w]) ∧
    ByElement (.neg ty a) s ty (fun L j d => (d : Int) ≡ 0 - x a L j [ZMOD 2 ^ w]) ∧
    ByElement (.mulhi ty a b) s ty (fun L j d => v d = x a L j * x b L j / 2 ^ w) ∧
    ByElement (.abs ty a) s ty (fun L j d => if x a L j < 0 then (d : Int) ≡ 0 - x a L j [ZMOD 2 ^ w] else d = s.el ty a L j) ∧
    ByElement (.min ty a b) s ty (fun L j d => v d = min (x a L j) (x b L j)) ∧
    ByElement (.max ty a b) s ty (fun L j d => v d = max (x a L j) (x b L j)) ∧
    ByElement (.addsat ty a b) s ty (fun L j d => v d = max lo (min hi (x a L j + x b L j))) ∧
    ByElement (.subsat ty a b) s ty (fun L j d => v d = max lo (min hi (x a L j - x b L j)))

/-- R163: division and remainder, with the cases of a zero divisor and of MIN by −1. R164: addc and subb give the sum or difference and the carry or
borrow, on the bits as unsigned numbers. -/
def Obligations.CarriesAndDivision : Prop :=
  (∀ (s : State) (ty : Ty) (a b : Opnd), Issuing s →
    let e := Ty.elem ty
    let x := fun o L j => toI e (s.el ty o L j)
    let corner := fun L j => e.signed = true ∧ x a L j = eMin e ∧ x b L j = -1
    ByElement (.div ty a b) s ty (fun L j q =>
      (s.el ty b L j = 0 → q = 2 ^ e.width - 1) ∧ (corner L j → q = s.el ty a L j) ∧
      (s.el ty b L j ≠ 0 → ¬corner L j → toI e q = (x a L j).tdiv (x b L j))) ∧
    ByElement (.rem ty a b) s ty (fun L j r =>
      (s.el ty b L j = 0 → r = s.el ty a L j) ∧ (corner L j → r = 0) ∧
      (s.el ty b L j ≠ 0 → ¬corner L j → toI e r = x a L j - (x a L j).tdiv (x b L j) * x b L j))) ∧
  (∀ (s : State) (ty : Ty) (a b c : Opnd), Issuing s →
    let w := (Ty.elem ty).width
    let x := fun o L => s.el ty o L 0
    let cin := fun L => elemAt (s.opnd tyB1 c L) 1 0
    Gives2 (.addc ty a b c) s (fun L d co =>
      d.toNat < 2 ^ w ∧ co.toNat ≤ 1 ∧ d.toNat + 2 ^ w * co.toNat = x a L + x b L + cin L) ∧
    Gives2 (.subb ty a b c) s (fun L d co =>
      d.toNat < 2 ^ w ∧ co.toNat ≤ 1 ∧ (d.toNat : Int) = x a L - x b L - cin L + 2 ^ w * co.toNat))

/-- R165 and R166: logic bit by bit; shifts and rotations by the unsigned count. -/
def Obligations.LogicAndShifts : Prop :=
  ∀ (s : State) (ty : Ty) (a b : Opnd), Issuing s →
    let w := (Ty.elem ty).width
    let x := fun L j k => (s.el ty a L j).testBit k
    let y := fun L j k => (s.el ty b L j).testBit k
    let n := fun L j => s.el ty b L j
    let bits := fun (i : Instr) (f : Nat → Nat → Nat → Bool) =>
      ByElement i s ty fun L j d => ∀ k, k < w → d.testBit k = f L j k
    bits (.and ty a b) (fun L j k => x L j k && y L j k) ∧
    bits (.or ty a b) (fun L j k => x L j k || y L j k) ∧
    bits (.xor ty a b) (fun L j k => x L j k ^^ y L j k) ∧
    bits (.not ty a) (fun L j k => !x L j k) ∧
    bits (.andn ty a b) (fun L j k => x L j k && !y L j k) ∧
    bits (.shl ty a b) (fun L j k => decide (n L j ≤ k) && x L j (k - n L j)) ∧
    bits (.shr ty a b) (fun L j k => x L j (k + n L j)) ∧
    bits (.sra ty a b) (fun L j k => if k + n L j < w then x L j (k + n L j) else x L j (w - 1)) ∧
    bits (.rotl ty a b) (fun L j k => x L j ((k + (w - n L j % w)) % w)) ∧
    bits (.rotr ty a b) (fun L j k => x L j ((k + n L j) % w))

/-- R167: the counts and orders of bits and bytes. R168: bit fields. The field starts at min(off, w) and is cut at w. -/
def Obligations.BitCountsOrdersAndFields : Prop :=
  (∀ (s : State) (ty : Ty) (a : Opnd), Issuing s →
    let w := (Ty.elem ty).width
    let x := fun L j => s.el ty a L j
    ByElement (.clz ty a) s ty (fun L j d => ∃ n, d = n % 2 ^ w ∧ n ≤ w ∧ x L j < 2 ^ (w - n) ∧ (n < w → 2 ^ (w - n - 1) ≤ x L j)) ∧
    ByElement (.ctz ty a) s ty (fun L j d => ∃ n, d = n % 2 ^ w ∧ n ≤ w ∧ 2 ^ n ∣ x L j ∧ (n < w → (x L j).testBit n = true)) ∧
    ByElement (.popc ty a) s ty (fun L j d => d = ((List.range w).countP fun k => (x L j).testBit k) % 2 ^ w) ∧
    ByElement (.brev ty a) s ty (fun L j d => ∀ k, k < w → d.testBit k = (x L j).testBit (w - 1 - k)) ∧
    ByElement (.bswap ty a) s ty (fun L j d => ∀ k, k < w / 8 → d / 2 ^ (8 * k) % 256 = x L j / 2 ^ (8 * (w / 8 - 1 - k)) % 256)) ∧
  (∀ (s : State) (ty : Ty) (a ins off width : Opnd), Issuing s →
    let w := (Ty.elem ty).width
    let o := fun L => min (s.opnd tyN32 off L).toNat w
    let n := fun L => min (s.opnd tyN32 width L).toNat (w - o L)
    let x := fun L j k => (s.el ty a L j).testBit k
    ByElement (.bfx ty a off width) s ty (fun L j d => ∀ k, k < w → d.testBit k =
      if k < n L then x L j (o L + k)
      else (Ty.elem ty).signed && decide (0 < n L) && x L j (o L + n L - 1)) ∧
    ByElement (.bfi ty a ins off width) s ty (fun L j d => ∀ k, k < w → d.testBit k =
      if o L ≤ k ∧ k < o L + n L then (s.el ty ins L j).testBit (k - o L) else x L j k))

/-- R169, R170, R171: compare, select, and the conversions of width (the source in its own type). -/
def Obligations.CompareSelectConvert : Prop :=
  ∀ (s : State) (ty : Ty) (code : Cmp) (a b c : Opnd), Issuing s →
    let e := Ty.elem ty
    let src := Ty.elem (s.opndTy [] a)
    let x := fun o L => s.el ty o L 0
    let holds := fun L => match code with
      | .eq => x a L = x b L
      | .ne => x a L ≠ x b L
      | .lt => toI e (x a L) < toI e (x b L)
      | .le => toI e (x a L) ≤ toI e (x b L)
      | .gt => toI e (x b L) < toI e (x a L)
      | .ge => toI e (x b L) ≤ toI e (x a L)
      | .ltu => x a L < x b L
      | .leu => x a L ≤ x b L
      | .gtu => x b L < x a L
      | .geu => x b L ≤ x a L
    let y := fun L => elemAt (s.opnd ty a L) src.width 0
    Gives (.cmp ty code a b) s (fun L d => (holds L → d = 1) ∧ (¬holds L → d = 0)) ∧
    Gives (.sel ty c a b) s (fun L d => d = if elemAt (s.opnd tyB1 c L) 1 0 = 1 then s.opnd ty a L else s.opnd ty b L) ∧
    (src.width ≤ ty.width → Gives (.zext ty a) s (fun L d => d.toNat = y L)) ∧
    (src.width ≤ ty.width → Gives (.sext ty a) s (fun L d => d.toNat < 2 ^ ty.width ∧
      ∀ k, k < ty.width → d.toNat.testBit k = (y L).testBit (min k (src.width - 1)))) ∧
    Gives (.trunc ty a) s (fun L d => d.toNat = (s.opnd ty a L).toNat % 2 ^ ty.width)

/-- R172, R173, R174, R146: addresses, constants, special registers (R175: RETIRED counts the bundles issued before), and the addresses of
descriptors and linkage entries. -/
def Obligations.AddressesAndConstants : Prop :=
  ∀ (s : State) (ty : Ty) (shift : BitVec 3) (base idx disp v : Opnd) (code k : BitVec 30), Issuing s →
    let e := Ty.elem (s.opndTy [] idx)
    let x := fun L => toI e (elemAt (s.opnd (s.opndTy [] idx) idx L) e.width 0)
    Gives (.lea shift base idx disp) s (fun L d => d.toNat < 2 ^ 64 ∧
      (d.toNat : Int) ≡ (elemAt (s.opnd tyA64 base L) 64 0 : Int) + x L * 2 ^ shift.toNat + elemAt (s.opnd tyI64 disp L) 64 0 [ZMOD 2 ^ 64]) ∧
    Gives (.const ty v) s (fun L d => d = s.opnd ty v L) ∧
    Gives (.sreg ty code) s (fun L d => d.toNat = s.sregVal code.toNat L % 2 ^ ty.width) ∧
    Gives (.sreg tyN32 0x00) s (fun L d => d.toNat = L) ∧
    Gives (.sreg tyN64 0x09) s (fun _ d => d.toNat = s.wv.retired.toNat) ∧
    Gives (.sreg tyN32 0x0E) s (fun _ d => d.toNat = s.issue.mask.toNat) ∧
    ∀ m, s.moduleOf s.issue.loc.handle = some m →
      Gives (.fnaddr k) s (fun _ d => d.toNat = (m.descBase.toNat + 16 * k.toNat) % 2 ^ 64) ∧
      Gives (.lnkaddr k) s (fun _ d => d.toNat = (m.linkBase.toNat + 8 * k.toNat) % 2 ^ 64)

/-! ## Floating point and formats (06_float_formats.md) -/

/-- R177, R178, R179: what each code of a format stands for, and the canonical NaN. `S`, `E` and `M` are the fields of a code. -/
def Obligations.FormatCodes : Prop :=
  ∀ (e : Elem) (c : Nat), isS e → c < 2 ^ e.width →
    let sg := c.testBit (e.width - 1)
    let E := c / 2 ^ fMan e % 2 ^ fExpBits e
    let M := c % 2 ^ fMan e
    let b : Int := fBias e
    let sign : Rat := if sg then -1 else 1
    let allOnes := E = 2 ^ fExpBits e - 1
    e.width = 1 + fExpBits e + fMan e ∧
    (E = 0 → ∃ m x, fDecode e c = .fin sg m x ∧ ratOf (fDecode e c) = sign * (2 : Rat) ^ (1 - b) * ((M : Rat) / 2 ^ fMan e)) ∧
    (E ≠ 0 → (¬allOnes ∨ (e = .e4m3 ∧ M ≤ 6)) →
      ∃ m x, fDecode e c = .fin sg m x ∧ ratOf (fDecode e c) = sign * (2 : Rat) ^ (E - b) * (1 + (M : Rat) / 2 ^ fMan e)) ∧
    (allOnes → e ≠ .e4m3 → M = 0 → fDecode e c = .inf sg) ∧
    (allOnes → e ≠ .e4m3 → M ≠ 0 → fDecode e c = .nan (!M.testBit (fMan e - 1))) ∧
    (allOnes → e = .e4m3 → M = 7 → fDecode e c = .nan false) ∧
    (fNaN .f64 = 0x7FF8000000000000 ∧ fNaN .f32 = 0x7FC00000 ∧ fNaN .f16 = 0x7E00 ∧ fNaN .bf16 = 0x7FC0 ∧ fNaN .e4m3 = 0x7F ∧
      fNaN .e5m2 = 0x7E)

/-- R182, R183, R184, R186: an exact nonzero value is rounded as the rules say, in every mode, with its flags. -/
def Obligations.Rounding : Prop :=
  ∀ (e : Elem) (fm : FMod) (u : Nat) (neg : Bool) (m : Nat) (x : Int), isS e → m ≠ 0 → u < 2 ^ 32 →
    RoundIs e fm u (ratOf (.fin neg m x) : ℝ) (fRound e fm u neg m x).1 (fRound e fm u neg m x).2

/-- R193: fadd, fsub, fmul, fdiv and fma compute with a single rounding; their special cases and flags. R194: square roots and reciprocals. frsqrt
is correctly rounded in f16 and bf16, and within one ulp in f32 and f64. -/
def Obligations.FloatArithmeticAndRoots : Prop :=
  (∀ (s : State) (ty : Ty) (m : FMod) (a b c : Opnd), Issuing s → isF (Ty.elem ty) →
    let e := Ty.elem ty
    let x := fun o L j => srcOf e m.ftzi (s.el ty o L j)
    let n := wordsUsed m.rnd (Ty.lanes ty)
    ByElementFp (.fadd ty m a b) s ty n (fun L j d fl => SumIs e m (s.roundWord L j) (x a L j) (x b L j) d fl) ∧
    ByElementFp (.fsub ty m a b) s ty n (fun L j d fl => SumIs e m (s.roundWord L j) (x a L j) (x b L j).flip d fl) ∧
    ByElementFp (.fmul ty m a b) s ty n (fun L j d fl => ProductIs e m (s.roundWord L j) (x a L j) (x b L j) d fl) ∧
    ByElementFp (.fdiv ty m a b) s ty n (fun L j d fl => QuotientIs e m (s.roundWord L j) (x a L j) (x b L j) d fl) ∧
    ByElementFp (.fma ty m a b c) s ty n (fun L j d fl =>
      let p := x a L j
      let q := x b L j
      let r := x c L j
      let nan := p.isNaN = true ∨ q.isNaN = true ∨ r.isNaN = true
      (zeroTimesInf p q → NaNIs e True d fl) ∧
      (¬zeroTimesInf p q → nan → NaNIs e (p.sig = true ∨ q.sig = true ∨ r.sig = true) d fl) ∧
      (¬zeroTimesInf p q → ¬nan → SumIs e m (s.roundWord L j) (productOf p q) r d fl))) ∧
  (∀ (s : State) (ty : Ty) (m : FMod) (a : Opnd), Issuing s → isF (Ty.elem ty) →
    let e := Ty.elem ty
    let x := fun L j => srcOf e m.ftzi (s.el ty a L j)
    let v := fun L j => (ratOf (x L j) : ℝ)
    let n := wordsUsed m.rnd (Ty.lanes ty)
    ByElementFp (.fsqrt ty m a) s ty n (fun L j d fl =>
      match x L j with
      | .nan sg => NaNIs e (sg = true) d fl
      | .inf neg => if neg then NaNIs e True d fl else InfIs e m.sat False d ∧ fl = 0
      | .fin neg k _ =>
        if k = 0 then CodeIs e (neg = true) 0 d ∧ fl = 0
        else if neg then NaNIs e True d fl else RoundIs e m (s.roundWord L j) (Real.sqrt (v L j)) d fl) ∧
    ByElementFp (.frcp ty m a) s ty n (fun L j d fl =>
      match x L j with
      | .nan sg => NaNIs e (sg = true) d fl
      | .inf neg => CodeIs e (neg = true) 0 d ∧ fl = 0
      | .fin neg k _ => if k = 0 then InfIs e m.sat (neg = true) d ∧ fl = flDZ else RoundIs e m (s.roundWord L j) (1 / v L j) d fl) ∧
    (m.rnd = .rne → ByElementFp (.frsqrt ty m a) s ty 0 (fun L j d fl =>
      match x L j with
      | .nan sg => NaNIs e (sg = true) d fl
      | .inf neg => if neg then NaNIs e True d fl else CodeIs e False 0 d ∧ fl = 0
      | .fin neg k _ =>
        if k = 0 then InfIs e m.sat (neg = true) d ∧ fl = flDZ
        else if neg then NaNIs e True d fl
        else if e = .f16 ∨ e = .bf16 then RoundIs e m 0 (1 / Real.sqrt (v L j)) d fl
        else ∃ q, SpacingIs e (1 / Real.sqrt (v L j)) q ∧ |(ratOf (fDecode e d) : ℝ) - 1 / Real.sqrt (v L j)| ≤ (2 : ℝ) ^ q)))

/-- R195, R196, R197, R198: the lesser and the greater, signs, comparison and classes. R199, R204, R205, R206, R207: integral values, scaling, and
the conversions among formats and integers. A source of fcvt, ftoi and itof is read in its own type. -/
def Obligations.FloatSelectionAndConversions : Prop :=
  (∀ (s : State) (ty : Ty) (z : Bool) (code : FCmp) (a b : Opnd), Issuing s → isS (Ty.elem ty) →
    let e := Ty.elem ty
    let src := fun o L j => fFtz e z (s.el ty o L j)
    let x := fun o L j => srcOf e z (s.el ty o L j)
    let nv := fun L j => (x a L j).sig = true ∨ (x b L j).sig = true
    let select := fun (p q : Nat) (first : Prop) L j d fl =>
      let na := (x a L j).isNaN = true
      let nb := (x b L j).isNaN = true
      (nv L j → fl = flNV) ∧ (¬nv L j → fl = 0) ∧ (na → nb → d = fNaN e) ∧ (na → ¬nb → d = q) ∧ (¬na → nb → d = p) ∧
      (¬na → ¬nb → first → d = p) ∧ (¬na → ¬nb → ¬first → d = q)
    let zeros := fun p q : FVal => p.isZero = true ∧ q.isZero = true
    let magn := fun o L j => s.el ty o L j % 2 ^ (e.width - 1)
    let sg := fun o L j => (s.el ty o L j).testBit (e.width - 1) = true
    let eq := fun p q : FVal => ¬lessThan p q ∧ ¬lessThan q p
    let cmp := fun p q : FVal =>
      let un := p.isNaN = true ∨ q.isNaN = true
      match code with
      | .eq => ¬un ∧ eq p q
      | .ne => un ∨ ¬eq p q
      | .lt => ¬un ∧ lessThan p q
      | .le => ¬un ∧ ¬lessThan q p
      | .gt => ¬un ∧ lessThan q p
      | .ge => ¬un ∧ ¬lessThan p q
      | .ord => ¬un
      | .uno => un
    let cmpNv := fun p q : FVal => p.sig = true ∨ q.sig = true ∨
      ((p.isNaN = true ∨ q.isNaN = true) ∧ (code = .lt ∨ code = .le ∨ code = .gt ∨ code = .ge))
    ByElementFp (.fmin ty z a b) s ty 0 (fun L j d fl =>
      select (src a L j) (src b L j)
        (if zeros (x a L j) (x b L j) then (x a L j).neg = true ∨ (x b L j).neg = false else ¬lessThan (x b L j) (x a L j)) L j d fl) ∧
    ByElementFp (.fmax ty z a b) s ty 0 (fun L j d fl =>
      select (src a L j) (src b L j)
        (if zeros (x a L j) (x b L j) then (x a L j).neg = false ∨ (x b L j).neg = true else ¬lessThan (x a L j) (x b L j)) L j d fl) ∧
    ByElement (.fabs ty a) s ty (fun L j d => CodeIs e False (magn a L j) d) ∧
    ByElement (.fneg ty a) s ty (fun L j d => CodeIs e (¬sg a L j) (magn a L j) d) ∧
    ByElement (.fcpsgn ty a b) s ty (fun L j d => CodeIs e (sg b L j) (magn a L j) d) ∧
    GivesFp (.fcmp ty z code a b) s 0 (fun L d fl =>
      let p := x a L 0
      let q := x b L 0
      (cmp p q → d = 1) ∧ (¬cmp p q → d = 0) ∧ (cmpNv p q → fl = flNV) ∧ (¬cmpNv p q → fl = 0)) ∧
    Gives (.fclass ty z a) s (fun L d =>
      d.toNat = 2 ^ (match x a L 0 with
        | .nan sg => if sg then 8 else 9
        | .inf neg => if neg then 0 else 7
        | .fin neg k y =>
          if k = 0 then (if neg then 3 else 4)
          else if |ratOf (.fin neg k y)| < (2 : Rat) ^ (1 - (fBias e : Int)) then (if neg then 2 else 5)
          else (if neg then 1 else 6)))) ∧
  (∀ (s : State) (ty : Ty) (m : FMod) (z : Bool) (a b k : Opnd), Issuing s →
    let e := Ty.elem ty
    let u := s.roundWord
    let ct := s.opndTy (cvtSrcTys ty) a
    let ft := s.opndTy floatSrcTys a
    let it := s.opndTy intSrcTys a
    let pt := s.opndTy unpackSrcTys a
    let converted := fun (g : Elem) (md : FMod) (w : Nat) (p : FVal) (d fl : Nat) =>
      match p with
      | .nan sg => NaNIs g (sg = true) d fl
      | .inf neg => InfIs g md.sat (neg = true) d ∧ fl = if g = .e4m3 then flNV else 0
      | .fin neg n _ => (n = 0 → CodeIs g (neg = true) 0 d ∧ fl = 0) ∧ (n ≠ 0 → RoundIs g md w (ratOf p : ℝ) d fl)
    let toInt := fun L => ((s.opnd tyI32 k L).toNat % 2 ^ 32 : Nat)
    let n : Nat → Int := fun L => if 2 ^ 31 ≤ toInt L then (toInt L : Int) - 2 ^ 32 else toInt L
    (isF e → ByElementFp (.frint ty m.rnd z a) s ty (wordsUsed m.rnd (Ty.lanes ty)) (fun L j d fl =>
      let p := srcOf e z (s.el ty a L j)
      match p with
      | .nan sg => NaNIs e (sg = true) d fl
      | .inf _ => d = fFtz e z (s.el ty a L j) ∧ fl = 0
      | .fin neg q _ =>
        (q = 0 → d = fFtz e z (s.el ty a L j) ∧ fl = 0) ∧
        (q ≠ 0 → ∃ (y : Nat) (f : ℝ), RoundedTo m.rnd (u L j) (ratOf p : ℝ) 0 y f ∧ SignIs e (neg = true) d ∧
          |ratOf (fDecode e d)| = y ∧ (f = 0 → fl = 0) ∧ (f ≠ 0 → fl = flNX)))) ∧
    (isF e → ByElementFp (.fscale ty m a k) s ty (wordsUsed m.rnd (Ty.lanes ty)) (fun L j d fl =>
      let p := srcOf e m.ftzi (s.el ty a L j)
      match p with
      | .nan sg => NaNIs e (sg = true) d fl
      | .inf neg => InfIs e m.sat (neg = true) d ∧ fl = 0
      | .fin neg q _ => (q = 0 → CodeIs e (neg = true) 0 d ∧ fl = 0) ∧
        (q ≠ 0 → RoundIs e m (u L j) (ratOf p * (2 : Rat) ^ n L : Rat) d fl))) ∧
    (isS e → isS (Ty.elem ct) → ByElementFp (.fcvt ty m a) s ty (wordsUsed m.rnd (Ty.lanes ty)) (fun L j d fl =>
      converted e m (u L j) (srcOf (Ty.elem ct) m.ftzi (s.el ct a L j)) d fl)) ∧
    (isS e → ByElementFp (.fpack2 ty m a b) s ty (wordsUsed m.rnd (Ty.lanes ty)) (fun L j d fl =>
      converted e m (u L j) (srcOf .f32 m.ftzi (s.el tyF32 (if j = 0 then a else b) L 0)) d fl)) ∧
    (isS (Ty.elem pt) → GivesFp2 (.funpack2 z a) s 0 (fun L d d' fl => ∃ fl1 fl2, fl = fl1 ||| fl2 ∧
      converted .f32 exactMod 0 (srcOf (Ty.elem pt) z (s.el pt a L 0)) d.toNat fl1 ∧
      converted .f32 exactMod 0 (srcOf (Ty.elem pt) z (s.el pt a L 1)) d'.toNat fl2)) ∧
    (isS (Ty.elem ft) → Ty.lanes ty = 1 → ByElementFp (.ftoi ty m.rnd z a) s ty (wordsUsed m.rnd 1) (fun L j d fl =>
      let p := srcOf (Ty.elem ft) z (s.el ft a L j)
      match p with
      | .nan _ => d = 0 ∧ fl = flNV
      | .inf neg => toI e d = (if neg then eMin e else eMax e) ∧ fl = flNV
      | .fin neg _ _ => ∃ (y : Nat) (f : ℝ), RoundedTo m.rnd (u L j) (ratOf p : ℝ) 0 y f ∧
          let r : Int := if neg then -(y : Int) else y
          (r < eMin e → toI e d = eMin e ∧ fl = flNV) ∧ (eMax e < r → toI e d = eMax e ∧ fl = flNV) ∧
          (eMin e ≤ r → r ≤ eMax e → toI e d = r ∧ (f = 0 → fl = 0) ∧ (f ≠ 0 → fl = flNX)))) ∧
    (isS e → Ty.lanes ty = 1 → ByElementFp (.itof ty m.rnd m.sat a) s ty (wordsUsed m.rnd 1) (fun L j d fl =>
      let r := toI (Ty.elem it) (s.el it a L j)
      (r = 0 → d = 0 ∧ fl = 0) ∧ (r ≠ 0 → RoundIs e { m with ftzi := false, ftzo := false } (u L j) (r : ℝ) d fl))))

/-- R200, R201, R203: the transcendental instructions complete on every operand, with the results of the special inputs, the exact powers of two,
and the pair of fsincos equal to fsin and fcos; they take no rounding word. -/
def Obligations.Transcendentals : Prop :=
  ∀ (s : State) (ty : Ty) (m : FMod) (a : Opnd), Issuing s → (Ty.elem ty = .f32 ∨ Ty.elem ty = .f16 ∨ Ty.elem ty = .bf16) →
    let e := Ty.elem ty
    let x := fun L j => srcOf e m.ftzi (s.el ty a L j)
    let one := fBias e * 2 ^ fMan e
    let nan := fun p d fl => ∀ sg, p = FVal.nan sg → NaNIs e (sg = true) d fl
    ByElementFp (.fexp2 ty m a) s ty 0 (fun L j d fl => nan (x L j) d fl ∧
      (x L j = .inf true → CodeIs e False 0 d ∧ fl = 0) ∧ (x L j = .inf false → InfIs e m.sat False d ∧ fl = 0) ∧
      ((x L j).isZero = true → CodeIs e False one d ∧ fl = 0) ∧
      (∀ n : Int, ratOf (x L j) = n → (x L j).isInf = false → (x L j).isNaN = false → 1 - (fBias e : Int) ≤ n → n ≤ fBias e →
        d < 2 ^ e.width ∧ ratOf (fDecode e d) = (2 : Rat) ^ n ∧ fl = 0)) ∧
    ByElementFp (.flog2 ty m a) s ty 0 (fun L j d fl => nan (x L j) d fl ∧
      (x L j = .inf true → NaNIs e True d fl) ∧ (x L j = .inf false → InfIs e m.sat False d ∧ fl = 0) ∧
      ((x L j).isZero = true → InfIs e m.sat True d ∧ fl = flDZ) ∧
      (∀ k y, x L j = .fin true k y → k ≠ 0 → NaNIs e True d fl) ∧
      (∀ n : Int, ratOf (x L j) = (2 : Rat) ^ n → ratOf (fDecode e d) = n ∧ fl = 0)) ∧
    ByElementFp (.fsin ty m a) s ty 0 (fun L j d fl => nan (x L j) d fl ∧ ((x L j).isInf = true → NaNIs e True d fl) ∧
      ((x L j).isZero = true → CodeIs e ((x L j).neg = true) 0 d ∧ fl = 0)) ∧
    ByElementFp (.fcos ty m a) s ty 0 (fun L j d fl => nan (x L j) d fl ∧ ((x L j).isInf = true → NaNIs e True d fl) ∧
      ((x L j).isZero = true → CodeIs e False one d ∧ fl = 0)) ∧
    GivesFp2 (.fsincos ty m a) s 0 (fun L d d' _ => ∃ t t', exec (.fsin ty m a) s = .next t ∧ exec (.fcos ty m a) s = .next t' ∧
      d = result s t L 0 ∧ d' = result s t' L 0) ∧
    ByElementFp (.ftanh ty m a) s ty 0 (fun L j d fl => nan (x L j) d fl ∧ (∀ neg, x L j = .inf neg → CodeIs e (neg = true) one d ∧ fl = 0) ∧
      ((x L j).isZero = true → CodeIs e ((x L j).neg = true) 0 d ∧ fl = 0)) ∧
    ByElementFp (.fsigm ty m a) s ty 0 (fun L j d fl => nan (x L j) d fl ∧ (x L j = .inf true → CodeIs e False 0 d ∧ fl = 0) ∧
      (x L j = .inf false → CodeIs e False one d ∧ fl = 0) ∧
      ((x L j).isZero = true → CodeIs e False (one - 2 ^ fMan e) d ∧ fl = 0))

/-- R208, R209, R210: block quantisation over the lanes that execute it, dequantisation, and the flags read and cleared. -/
def Obligations.BlocksAndFlags : Prop :=
  ∀ (s : State) (ty : Ty) (rnd : Rnd) (sat z : Bool) (x e sc mask : Opnd), Issuing s →
    let st := s.opndTy mxSrcTys x
    let v := fun L => srcOf (Ty.elem st) z (s.el st x L 0)
    let w := mxWidth ty
    let bad := ∃ L, On s L ∧ ((v L).isNaN = true ∨ (v L).isInf = true)
    let wq := mxWidth (s.opndTy [] e)
    let q := fun L => (s.opnd ty e L).toNat % 2 ^ wq
    let k := fun L => (s.opnd .e8m0 sc L).toNat % 256
    let val : Nat → Int := fun L => if 2 ^ (wq - 1) ≤ q L then (q L : Int) - 2 ^ wq else q L
    (Ty.elem st = .f32 ∨ Ty.elem st = .bf16 → GivesFp2 (.mxq ty rnd z x) s (wordsUsed rnd 1) (fun L d d' fl =>
      (bad → d = 0 ∧ d' = 0xFF ∧ fl = flNV) ∧
      (¬bad → ∃ ex : Int, -127 ≤ ex ∧ ex ≤ 127 ∧ (d'.toNat : Int) = ex + 127 ∧
        (∀ M, On s M → ex < 127 → |ratOf (v M)| < (2 : Rat) ^ (ex + 1)) ∧
        (ex ≠ -127 → ∃ M, On s M ∧ (2 : Rat) ^ ex ≤ |ratOf (v M)|) ∧
        ∃ (y : Nat) (f : ℝ), RoundedTo rnd (s.roundWord L 0) (ratOf (v L) * (2 : Rat) ^ ((w : Int) - 2 - ex) : Rat) 0 y f ∧
          let c := min y (2 ^ (w - 1) - 1)
          d.toNat < 2 ^ w ∧ toS w d.toNat = (if ratOf (v L) < 0 then -(c : Int) else c) ∧
          (f = 0 ∧ c = y → fl = 0) ∧ (¬(f = 0 ∧ c = y) → fl = flNX)))) ∧
    (∀ fe : Elem, ty = .num .s1 fe → fe = .f32 ∨ fe = .bf16 →
      ByElementFp (.mxdq ty rnd sat z e sc) s ty (wordsUsed rnd 1) (fun L j d fl =>
        let fm : FMod := { rnd := rnd, sat := sat, ftzi := false, ftzo := z }
        (k L = 0xFF → d = fNaN fe ∧ fl = 0) ∧ (k L ≠ 0xFF → val L = 0 → d = 0 ∧ fl = 0) ∧
        (k L ≠ 0xFF → val L ≠ 0 →
          RoundIs fe fm (s.roundWord L j) (val L * (2 : Rat) ^ ((k L : Int) - 127 - ((wq : Int) - 2)) : Rat) d fl))) ∧
    ∃ t, exec (.fsflag mask) s = .next t ∧ ResultsOnly s t 1 ∧ (∀ L, On s L → (result s t L 0).toNat = s.wv.fpf.toNat) ∧
      ∀ j, j < 5 → (t.wv.fpf.getLsbD j = true ↔
        (s.wv.fpf.getLsbD j = true ∧ ∀ L, On s L → (s.opnd tyN32 mask L).toNat.testBit j = false) ∨
        (s.wv.fpAt = s.cycle ∧ s.wv.fpNew.getLsbD j = true))

/-! ## Lanes and spans (07_lanes_spans.md) -/

/-- R216, R217: lane exchange, votes and matches. Active is the set of lanes that issue; a source outside it gives the lane's own value, and a
uniform operand is that of the lowest lane of Active. -/
def Obligations.LaneExchangeAndVotes : Prop :=
  ∀ (s : State) (ty : Ty) (a c idx : Opnd) (m : BitVec 30) (low : Nat), Issuing s → On s low → (∀ L, On s L → low ≤ L) →
    let t := s.opndTy matchTys a
    let moved := fun (src : Nat → Nat) L d =>
      (On s (src L) → d = s.opnd ty a (src L)) ∧ (¬On s (src L) → d = s.opnd ty a L)
    let yes := fun L => On s L ∧ elemAt (s.opnd tyB1 c L) 1 0 = 1
    Gives (.lswap ty a m) s (moved fun L => L ^^^ m.toNat) ∧
    Gives (.lshfl ty a idx) s (moved fun L => (s.opnd tyN32 idx L).toNat % 32) ∧
    Gives (.lbcast ty a idx) s (moved fun _ => (s.opnd tyN32 idx low).toNat % 32) ∧
    Gives (.lrot ty a idx) s (moved fun L => (L + (s.opnd tyN32 idx low).toNat) % 32) ∧
    Gives (.lvote c) s (fun _ d => ∀ k, (d.getLsbD k = true ↔ yes k)) ∧
    Gives (.lany c) s (fun _ d => ((∃ M, yes M) → d = 1) ∧ ((∀ M, ¬yes M) → d = 0)) ∧
    Gives (.lall c) s (fun _ d => ((∀ M, On s M → yes M) → d = 1) ∧ ((∃ M, On s M ∧ ¬yes M) → d = 0)) ∧
    Gives (.lfirst c) s (fun _ d =>
      (∀ M, yes M → (∀ N, yes N → M ≤ N) → d.toNat = M) ∧ ((∀ M, ¬yes M) → d.toNat = 32)) ∧
    Gives (.lmatch a) s (fun L d => ∀ k, (d.getLsbD k = true ↔ On s k ∧ s.opnd t a k = s.opnd t a L))

/-- R218: lred combines the 32 positions by the fixed tree, `T k i` being position i after k rounds; lscan runs over Active in ascending lane order,
`A n` being the accumulator before lane n. Their flags are those of the steps. R220, R222: rng reads the generator of the task's seed and the
thread's global number, and changes nothing but its result. -/
def Obligations.LaneReductionsAndRandomNumbers : Prop :=
  (∀ (s : State) (ty : Ty) (op : LaneOp) (excl : Bool) (a : Opnd) (T : Nat → Nat → Nat) (A : Nat → Nat), Issuing s →
    let e := Ty.elem ty
    let f := fun x y => LaneOp.apply e x y op
    (∀ i, On s i → T 0 i = s.el ty a i 0) → (∀ i, ¬On s i → T 0 i = LaneOp.ident e op) →
    (∀ k i, T (k + 1) i = (f (T k (2 * i)) (T k (2 * i + 1))).1) →
    A 0 = LaneOp.ident e op → (∀ L, On s L → A (L + 1) = (f (A L) (s.el ty a L 0)).1) → (∀ L, ¬On s L → A (L + 1) = A L) →
    GivesFp (.lred ty op a) s 0 (fun _ d fl => d = BitVec.ofNat 256 (T 5 0) ∧
      ∀ b, (fl.testBit b = true ↔ ∃ k i, k < 5 ∧ i < 2 ^ (4 - k) ∧ (f (T k (2 * i)) (T k (2 * i + 1))).2.testBit b = true)) ∧
    GivesFp (.lscan ty op excl a) s 0 (fun L d fl => d = BitVec.ofNat 256 (if excl then A L else A (L + 1)) ∧
      ∀ b, (fl.testBit b = true ↔ ∃ M, On s M ∧ (f (A M) (s.el ty a M 0)).2.testBit b = true))) ∧
  (∀ (s : State) (st i : Opnd), Issuing s →
    let thread := fun L => ((s.wg.num * s.task.launch.nwave + s.wv.num) * 32 + L) % 2 ^ 32
    let stream := fun L => (s.opnd tyN32 st L).toNat
    let idx := fun L => (s.opnd tyN64 i L).toNat
    let block := fun n L => philox s.task.launch.seed.toNat n (thread L) (stream L)
    let word := fun L => (block (idx L / 4) L).word (idx L % 4)
    Gives (.rng tyN32 st i) s (fun L d => d.toNat = word L) ∧
    Gives (.rng tyF32 st i) s (fun L d => d.toNat < 2 ^ 32 ∧ word L < 2 ^ 32 ∧
      ratOf (fDecode .f32 d.toNat) = ((word L / 256 : Nat) : Rat) / 2 ^ 24) ∧
    Gives (.rng tyV4n32 st i) s (fun L d => elemAt d 32 0 = (block (idx L) L).c0 % 2 ^ 32 ∧ elemAt d 32 1 = (block (idx L) L).c1 % 2 ^ 32 ∧
      elemAt d 32 2 = (block (idx L) L).c2 % 2 ^ 32 ∧ elemAt d 32 3 = (block (idx L) L).c3 % 2 ^ 32))

/-- R223, R224, R225, R226, R229, R231: spmax, spargmax, spsum and spsample on a span that passes the checks, whose lines are present, at a unit
that takes it: the result goes to every lane of Active, the unit holds the instruction, and nothing else changes. While a line of the span is absent
the wave parks and nothing else is looked at; a misaligned base, a count out of range and a span past the allocation then fault, in this order; and
an instruction whose unit takes no other one waits. R227, R228, R230, R231: spsoftmax and sptopk write their out span, and the first span
instruction at a unit finishes: its result is back, the one that it had at issue where no other agent has written its span since, and else one of
which every pass read, of each element, a value that the element has had since; sptopk has no result and no landing, and writes its span again in
the second case. -/
def Obligations.Spans : Prop :=
  (∀ (s : State) (ty : Ty) (base n st i : Opnd), Issuing s →
    let b := s.uniNat tyN32 base
    let k := s.uniNat tyN32 n
    let sz := (Ty.elem ty).width / 8
    let aligned := b % sz = 0
    let counted := 1 ≤ k ∧ k ≤ 2 ^ 20
    let fits := b + k * sz ≤ s.wg.spadB
    let lines := s.absentOf [(b, min (k * sz) (s.wg.spadB - b))]
    let xs := (List.range k).map (spanAt ty (s.wg.read b (k * sz)))
    let x := fun j => xs.getD j 0
    let at_ := s.uniNat tyN64 i
    let u := (philox s.task.launch.seed.toNat (at_ / 4) (s.thread s.lowLane) (s.uniNat tyN32 st)).word at_
    let gives := fun (ins : Instr) (kind : SpanKind) (P : Val → Nat → Prop) => ∃ t r fl, exec ins s = .next t ∧
      t.spans = s.spans ++ [{ die := s.wv.die, unit := s.spanUnit, wave := s.wv.token, kind := kind, base := b, ty := ty, n := k, out := 0
                              outLen := 0, clash := false, seen := [s.wg.read b (k * sz)] }] ∧
      ResultsOnly s { t with spans := s.spans } 1 ∧ FlagsLand s t 0 (fun _ => fl) ∧ (∀ L, On s L → result s t L 0 = r) ∧ P r fl
    let best := fun j => j < k ∧ (∀ p, p < k → spanRank (x p) ≤ spanRank (x j)) ∧ ∀ p, p < j → spanRank (x p) < spanRank (x j)
    (∃ L, On s L) →
    (lines = [] → aligned → counted → fits → s.spanBusy = false →
      gives (.spmax ty base n) .max (fun r fl => fl = 0 ∧ ∃ j, best j ∧
        r.toNat % 2 ^ 32 = (if (fDecode .f32 (x j)).isNaN then fNaN .f32 else x j) % 2 ^ 32) ∧
      gives (.spargmax ty base n) .argmax (fun r fl => fl = 0 ∧ ∃ j, best j ∧ r.toNat = j) ∧
      gives (.spsum ty base n) .sum (fun r fl => r = BitVec.ofNat 256 (spanSumF xs).1 ∧ fl = (spanSumF xs).2) ∧
      gives (.spsample ty base n st i) (.sample u) (fun r fl =>
        r = BitVec.ofNat 256 (sampleOf u fun _ => xs).1 ∧ fl = (sampleOf u fun _ => xs).2)) ∧
    ∀ ins, ins ∈ [.spmax ty base n, .spargmax ty base n, .spsum ty base n, .spsample ty base n st i] →
      (lines ≠ [] → exec ins s = .next (s.parkPresence lines)) ∧
      (lines = [] → ¬aligned → exec ins s = .next (s.faultAll (cause 0x23))) ∧
      (lines = [] → aligned → ¬counted → exec ins s = .next (s.faultAll (causeT 0x26 1))) ∧
      (lines = [] → aligned → counted → ¬fits → exec ins s = .next (s.faultAll (causeT 0x26 3))) ∧
      (lines = [] → aligned → counted → fits → s.spanBusy = true → Waits ins s)) ∧
  ((∀ (s : State) (ty : Ty) (out : OutFmt) (base dst n k tau : Opnd), Issuing s → s.wv.wg < s.wgs.length →
    let b := s.uniNat tyN32 base
    let d := s.uniNat tyN32 dst
    let c := s.uniNat tyN32 n
    let kk := s.uniNat tyN32 k
    let sz := (Ty.elem ty).width / 8
    let osz := (OutFmt.elem out).width / 8
    let xs := (List.range c).map (spanAt ty (s.wg.read b (c * sz)))
    let ready := b % sz = 0 ∧ 1 ≤ c ∧ c ≤ 2 ^ 20 ∧ b + c * sz ≤ s.wg.spadB ∧ s.absentOf [(b, c * sz)] = [] ∧ s.spanBusy = false
    let apart := fun len => d + len ≤ b ∨ b + c * sz ≤ d
    let writes := fun (t : State) (bs : List Byte) => t.wg = s.wg.write d bs ∧ (∀ j, j ≠ s.wv.wg → t.wgs[j]? = s.wgs[j]?)
    let held := fun (t : State) (kind : SpanKind) (len : Nat) => t.spans = s.spans ++
      [{ die := s.wv.die, unit := s.spanUnit, wave := s.wv.token, kind := kind, base := b, ty := ty, n := c, out := d, outLen := len
         clash := false, seen := [s.wg.read b (c * sz)] }]
    (ready → d % osz = 0 → d + c * osz ≤ s.wg.spadB → (apart (c * osz) ∨ (d = b ∧ osz = sz)) →
      let r := softmaxOf (OutFmt.elem out) (s.uniNat tyF32 tau) fun _ => xs
      ∃ t, exec (.spsoftmax ty out base dst n tau) s = .next t ∧ writes t (r.1.flatMap (bytesOfNat osz)) ∧
        held t (.softmax out (s.uniNat tyF32 tau)) (c * osz) ∧ ResultsOnly s { t with spans := s.spans, wgs := s.wgs } 1 ∧
        ∀ L, On s L → result s t L 0 = BitVec.ofNat 256 r.2.1) ∧
    (ready → d % 8 = 0 → 1 ≤ kk → kk ≤ 64 → d + kk * 8 ≤ s.wg.spadB → apart (kk * 8) →
      ∃ t bs, exec (.sptopk ty base dst n k) s = .next t ∧ writes t bs ∧ bs.length = 8 * kk ∧
        held t (.topk kk) (kk * 8) ∧ ResultsOnly s { t with spans := s.spans, wgs := s.wgs } 0 ∧
        (∀ r, r < kk → c ≤ r → (bs.drop (8 * r)).take 8 = bytesOfNat 4 (fNaN .f32) ++ bytesOfNat 4 0xFFFFFFFF) ∧
        ∃ p : Nat → Nat, (∀ r, r < kk → r < c → p r < c ∧ (∀ q, q < r → p q ≠ p r) ∧ (bs.drop (8 * r)).take 8 = topRecord (p r, xs.getD (p r) 0)) ∧
          ∀ r j, r < kk → r < c → j < c → (∀ q, q < r → p q ≠ j) →
            spanRank (xs.getD j 0) < spanRank (xs.getD (p r) 0) ∨ (spanRank (xs.getD j 0) = spanRank (xs.getD (p r) 0) ∧ p r ≤ j))) ∧
  ∀ (s : State) (w : Nat) (xs ys : List SpanOp) (o : SpanOp), s.spans = xs ++ o :: ys → o.wave = (s.waveAt w).token →
    (∀ e ∈ xs, ¬(e.die = o.die ∧ e.unit = o.unit) ∧ e.wave ≠ o.wave) →
    let sawn := fun (rs : Nat → List Nat) => ∀ p, (rs p).length = o.n ∧ ∀ j, j < o.n → ∃ v ∈ o.seen, (rs p).getD j 0 = spanAt o.ty v j
    ((∃ k, o.kind = .topk k) →
      (o.seen.length ≤ 1 → exec (.spanComplete w) s = .next { s with spans := xs ++ ys }) ∧
      (2 ≤ o.seen.length → o.outLen ≠ 0 → o.clash = false → ∃ (t : State) (rs : Nat → List Nat), sawn rs ∧
        exec (.spanComplete w) s = .next t ∧ t = { s with spans := xs ++ ys, wgs := t.wgs, freeCnt := t.freeCnt } ∧
        ((s.waveAt w).wg < s.wgs.length → t.wgAt (s.waveAt w).wg = (s.wgAt (s.waveAt w).wg).write o.out (o.kind.run rs).1))) ∧
    ∀ (as bs : List Landing) (x : Landing), (∀ k, o.kind ≠ .topk k) →
      (s.waveAt w).landings = as ++ x :: bs → (∀ a ∈ as, a.back ≠ spanBack) → x.back = spanBack →
      (o.seen.length ≤ 1 → exec (.spanComplete w) s =
        .next ({ s with spans := xs ++ ys }.updWave w fun v => { v with landings := as ++ { x with back := s.cycle } :: bs })) ∧
      (2 ≤ o.seen.length → o.outLen = 0 → ∃ (t : State) (rs : Nat → List Nat), sawn rs ∧
        exec (.spanComplete w) s = .next t ∧ t.spans = xs ++ ys ∧ (∀ j, j ≠ w → t.waves[j]? = s.waves[j]?) ∧
        (w < s.waves.length → (t.waveAt w).landings =
          as ++ { x with back := s.cycle, data := x.data.map fun e => (e.1, e.2.1, dw (o.kind.run rs).2.1) } :: bs)))

/-! ## Control and linkage (04_control.md) -/

/-- R140, R55: br, brc and brsw act per lane. A lane enters its target, all arguments (read before any write) becoming the parameters together;
where the way leads through a bundle of its own (R113, R114) it goes there first. -/
def Obligations.Branches : Prop :=
  ∀ (s : State) (ty : Ty) (c : Opnd) (a b : Target) (cases : List Target), Issuing s →
    let here := s.issue.loc
    let entered := fun (l m : Lane) (n : Nat) (g : Target) =>
      let bi := s.blockInfo here.handle here.func g.blk.toNat
      match s.issue.gos.getD n none with
      | some p => m = { l with pc := p.1, bpos := p.2 }
      | none => m = { l with frames := m.frames, pc := m.pc, bpos := 0 } ∧ m.frames.tail = l.frames.tail ∧
          m.pc.handle = here.handle ∧ m.pc.func = here.func ∧ m.pc.block = g.blk.toNat ∧ m.pc.index = 0 ∧ m.pc.bud = here.bud ∧
          (∀ j, j < bi.args.length → j < g.args.length → m.val (bi.argBase + j) = l.opnd (bi.args.getD j .none) (g.args.getD j (.imm 0))) ∧
          ∀ v, v < bi.argBase ∨ bi.argBase + min bi.args.length g.args.length ≤ v → m.val v = l.val v
    let branches := fun (i : Instr) (pick : Nat → Nat × Target) => ∃ t, exec i s = .next t ∧ t = { s with waves := t.waves } ∧
      (∀ j, j ≠ s.issue.wave → t.waves[j]? = s.waves[j]?) ∧ WaveOn s.wv t.wv ∧ (∀ L, Off s L → t.wv.lane L = s.wv.lane L) ∧
      ∀ L, On s L → entered (s.wv.lane L) (t.wv.lane L) (pick L).1 (pick L).2
    let sel := fun L => toI (Ty.elem ty) (elemAt (s.opnd ty c L) (Ty.elem ty).width 0)
    branches (.br a) (fun _ => (0, a)) ∧
    branches (.brc c a b) (fun L => if elemAt (s.opnd tyB1 c L) 1 0 = 1 then (0, a) else (1, b)) ∧
    branches (.brsw ty c a cases) (fun L =>
      if 0 ≤ sel L ∧ sel L < cases.length then ((sel L).toNat + 1, cases.getD (sel L).toNat a) else (0, a))

/-- R115, R143, R144, R147: each form of call, where every lane reaches a function that is translated and whose frame fits: the callee runs with the
arguments as its parameters, in an activation that returns behind the call; a tail call takes the place of the running activation. Words 0 to 2 of
the callee's frame name the return bundle and the caller's frame base. A call through descriptors reads them as loads do: after the wave's own
writes to them, and with the walker's updates; the linkage entry is read as an acquire, and one in error takes 0x80. R115, R144, R145: ret gives the
call's results to the caller and resumes at the bundle that words 0 and 1 of its frame name, with the frame base of word 2, once its translation is
in the cache; where these words cannot be read the activation's own note of the call stands (the model's choice, log 2). In the task's entry
function it ends the thread exactly as exit does. exit, when nothing of the wave is outstanding and no asynchronous fault is pending, ends the
threads and strikes them from every rejoin mask; the workgroup ends with its last lane. unreach takes fault 0x62 with TAG all ones. -/
def Obligations.CallsReturnsAndExits : Prop :=
  (∀ (s : State) (k : BitVec 30) (addr : Opnd) (args : List Opnd) (h f : Nat), Issuing s → (∃ L, On s L) →
    let u := s.l1Acquire s.gcore
    let sgF := s.sigOfFunc k.toNat
    let sgX := s.sigAt k.toNat
    let sgL := s.sigOfLink k.toNat
    let ready := fun (s : State) (tail : Bool) => (s.freshImage s.wv.die (s.transKey s.wv h f)).isSome = true ∧
      ∀ L, On s L → s.callOver s.wv (s.wv.lane L) h f tail = false ∧ (tail = true ∨ ∃ ws, s.linkPlaces L = .ok ws)
    let enters := fun (i : Instr) (tail : Bool) (tys : List Ty) => ∃ t, exec i s = .next t ∧
      (∀ j, j ≠ s.issue.wave → t.waves[j]? = s.waves[j]?) ∧ WaveOn s.wv t.wv ∧ (∀ L, Off s L → t.wv.lane L = s.wv.lane L) ∧
      ∀ L, On s L →
        let l := s.wv.lane L
        let m := t.wv.lane L
        let fr := m.frames.headD default
        m = { l with frames := m.frames, fb := m.fb, pc := s.blockLoc s.wv.budget h f 0 0, bpos := 0 } ∧
        (∀ j, j < tys.length → j < args.length → m.val j = l.opnd (tys.getD j .none) (args.getD j (.imm 0))) ∧
        (tail = false → m.frames.tail = l.frames ∧ m.fb = l.fb + s.locFrame s.wv s.issue.here ∧ fr.ret = some s.issue.next ∧
          fr.dst = s.issue.loc.vnum ∧ fr.callerFb = l.fb ∧ fr.budget = s.issue.loc.bud ∧ fr.bpos = l.bpos + 1) ∧
        (tail = true → m.frames.tail = l.frames.tail ∧ m.fb = l.fb ∧ fr.ret = (l.frames.headD default).ret ∧
          fr.dst = (l.frames.headD default).dst)
    let reads := fun (s : State) (a : Nat → Nat) =>
      let pls := s.activeLanes.filterMap fun L => (s.laneLoc .global true false L (a L) 16 16).toOption
      s.mustWait descMod false 16 pls = false ∧ s.fabReady s.wv.token s.issue.loc (fabAsks descMod pls) = true
    let walks := fun (s : State) (a : Nat → Nat) =>
      s.walked (s.accOf s.wv .global true false) (s.activeLanes.flatMap fun L => s.laneVas .global L (a L) 16 16)
    let aX := fun L => (s.opnd tyA64 addr L).toNat
    let aL := fun (_ : Nat) => u.linkEntry s.issue.loc.handle k.toNat
    (k.toNat = f → h = s.issue.loc.handle → s.crosses h = false → ready s false → enters (.call k args) false sgF.params ∧
      ∀ L ws, (∀ M, On s M → M = L) → On s L → s.linkPlaces L = .ok ws → (ws.map fun w => w.2.key).Nodup → (∀ w ∈ ws, w.2.key % 4 = 0) →
        (∀ l ∈ s.l1, l.data.length = 128) → s.ckpt.on = false → ∃ t, exec (.call k args) s = .next t ∧
          (ws.flatMap fun w => t.wordRead s.gcore w.2.key) = bytesOfNat 4 (h * 2 ^ 16 + s.issue.loc.func) ++
            bytesOfNat 4 (s.issue.loc.bud / 8 * 2 ^ 24 + s.mapOf s.wv s.issue.next) ++ bytesOfNat 4 (s.wv.lane L).fb) ∧
    (k.toNat = f → h = s.issue.loc.handle → s.crosses h = false → ready s true → enters (.tcall k args) true sgF.params) ∧
    ((∀ L, On s L → s.calleeAt s.wv sgX (aX L) 2 = .ok (.func h f)) → reads s aX →
      (ready (walks s aX) false → enters (.callx k addr args) false sgX.params) ∧
      (ready (walks s aX) true → enters (.tcallx k addr args) true sgX.params)) ∧
    (u.linkBad s.issue.loc.handle k.toNat = false → u.calleeAt u.wv sgL (aL 0) 2 = .ok (.func h f) → reads u aL → ready (walks u aL) false →
      enters (.calll k args) false sgL.params) ∧
    (u.linkBad s.issue.loc.handle k.toNat = true → ∃ a, exec (.calll k args) s = .next (u.fault (cause 0x80) s.issue.mask 0 a))) ∧
  (∀ (s : State) (vs : List Opnd), Issuing s →
    let tys := ((s.funcOf s.issue.loc.handle s.issue.loc.func).map fun f => f.sig.results).getD []
    let away := s.settled = true ∧ s.engineQuiet = true ∧ s.wv.pend = none
    let last := (∀ L, Off s L → (s.wv.lane L).st = .exited) ∧
      ∀ j, j < s.waves.length → j ≠ s.issue.wave → (s.waveAt j).wg = s.wv.wg → (s.waveAt j).live = true → (s.waveAt j).allExited = true
    (∀ L, On s L → (s.wv.lane L).inCont = false) →
    ((∀ L, On s L → (s.wv.lane L).inEntry = false) → (∃ L, On s L ∧ s.returnMiss L ≠ none) →
      ∃ t, exec (.ret vs) s = .next t ∧ ∀ L, t.wv.lane L = s.wv.lane L) ∧
    ((∀ L, On s L → (s.wv.lane L).inEntry = false) → (∃ L, On s L) → (∀ L, On s L → s.returnMiss L = none) →
      ∃ t, exec (.ret vs) s = .next t ∧ t = { s with waves := t.waves } ∧ (∀ j, j ≠ s.issue.wave → t.waves[j]? = s.waves[j]?) ∧
        WaveOn s.wv t.wv ∧ (∀ L, Off s L → t.wv.lane L = s.wv.lane L) ∧
        ∀ L f fs, On s L → (s.wv.lane L).frames = f :: fs →
          let l := s.wv.lane L
          let m := t.wv.lane L
          (s.linkage L = none → some m.pc = f.ret ∧ m.bpos = f.bpos ∧ m.fb = f.callerFb) ∧
          (∀ x y z, s.linkage L = some (x, y, z) → m.fb = z ∧ ∀ i n, let p := { f.ret.getD default with
              handle := x / 2 ^ 16, func := x % 2 ^ 16, bud := y / 2 ^ 24 * 8 }
            s.locImage s.wv p = some i → i.plan.findIdx? (fun b => b.map == some (y % 2 ^ 16)) = some n →
              m.pc.handle = p.handle ∧ m.pc.func = p.func ∧ m.pc.bud = p.bud ∧ m.pc.bun = n) ∧
          m.frames.tail = fs.tail ∧ m.frames.length = fs.length ∧
          (∀ j, fs ≠ [] → j < tys.length → j < vs.length → m.val (f.dst + j) = l.opnd (tys.getD j .none) (vs.getD j (.imm 0)))) ∧
    ((∀ L, On s L → (s.wv.lane L).inEntry = true) → exec (.ret vs) s = exec .exit s) ∧
    (s.wv.live = true → s.settled = false ∨ s.engineQuiet = false ∨ (last ∧ s.wgEngineQuiet s.wv.wg = false) → Waits .exit s) ∧
    (away → ¬last → s.wv.live = true → ∃ t, exec .exit s = .next t ∧ (∀ j, j ≠ s.issue.wave → t.waves[j]? = s.waves[j]?) ∧
      (∀ L, On s L → (t.wv.lane L).st = .exited) ∧ ∀ k L, On s L → inMask (t.wv.enr.getD k 0) L = false ∧ inMask (t.wv.prk.getD k 0) L = false) ∧
    (away → last → s.wgEngineQuiet s.wv.wg = true → s.wv.live = true → s.wv.wg < s.wgs.length →
      (∀ tk, s.taskOf s.wg.task = some tk → tk.ended + 1 < tk.launch.grid) →
      ∃ t, exec .exit s = .next t ∧ (t.wgAt s.wv.wg).st = .ended) ∧
    exec .unreach s = .next (s.faultAll { code := 0x62, tag := BitVec.allOnes 64 }))

/-- R149, R150: the rejoin masks. E and P are the masks after the instruction's own effect; a mask whose enrolled lanes have all parked releases
them: they resume behind their rjwait, and the mask is empty. rjwait of a lane that is not enrolled takes fault 0x71. R150, R153, R154, R157: rjmask
reads a rejoin mask; the loop registers of a temporal level and the coordinate of a spatial one; yield holds the wave back for the four cycles after
its issue, and the hold ends. -/
def Obligations.RejoinMasksAndLoops : Prop :=
  (∀ (s : State) (k : BitVec 30), Issuing s → s.issue.dsts = [] → k.toNat < 8 → s.wv.enr.length = 8 → s.wv.prk.length = 8 →
    let a := s.issue.mask
    let E := fun j => s.wv.enr.getD j 0
    let P := fun j => s.wv.prk.getD j 0
    let at_ := fun (j : Nat) (x y : Mask) => if j = k.toNat then x else y
    let on := fun L => (s.wv.lane L).goOn s.issue.next
    let settles := fun (i : Instr) (E P : Nat → Mask) (own : Nat → Lane) => ∃ t, exec i s = .next t ∧ t = { s with waves := t.waves } ∧
      (∀ j, j ≠ s.issue.wave → t.waves[j]? = s.waves[j]?) ∧
      let out := fun j => E j ≠ 0 ∧ E j &&& ~~~P j = 0
      (∀ j, j < 8 → (out j → t.wv.enr.getD j 0 = 0 ∧ t.wv.prk.getD j 0 = 0) ∧ (¬out j → t.wv.enr.getD j 0 = E j ∧ t.wv.prk.getD j 0 = P j)) ∧
      ∀ L, L < 32 →
        let l := if inMask a L then own L else s.wv.lane L
        let freed := l.st = .parked ∧ ∃ j, j < 8 ∧ out j ∧ inMask (P j) L = true
        (freed → t.wv.lane L = { l with st := .running, wait := .none, pc := l.after, bpos := l.bpos + 1 }) ∧
        (¬freed → t.wv.lane L = l)
    settles (.rjenrol k) (fun j => at_ j (E j ||| a) (E j)) P on ∧
    settles (.rjstrike k) (fun j => at_ j (E j &&& ~~~a) (E j)) P on ∧
    (a &&& ~~~E k.toNat = 0 → settles (.rjwait k) E (fun j => at_ j (P j ||| a) (P j)) fun L =>
      { s.wv.lane L with st := .parked, wait := .rejoin k.toNat, after := s.issue.next }) ∧
    (a &&& ~~~E k.toNat ≠ 0 → exec (.rjwait k) s = .next (s.fault (cause 0x71) (a &&& ~~~E k.toNat) 0 0))) ∧
  (∀ (s : State) (k : BitVec 30) (w : Nat), Issuing s → s.wv.idx.length = 6 → s.wv.trip.length = 6 →
    let lv := s.loopLevel k.toNat
    let idx := fun j => s.wv.idx.getD j 0
    let trip := fun j => s.wv.trip.getD j 0
    let sets := fun (i : Instr) (f g : Nat → Word) => ∃ t, exec i s = .next t ∧
      ResultsOnly s (t.updWv fun w => { w with idx := s.wv.idx, trip := s.wv.trip }) 0 ∧
      ∀ j, j < 6 → t.wv.idx.getD j 0 = f j ∧ t.wv.trip.getD j 0 = g j
    Gives (.rjmask k) s (fun _ d => d.toNat = (s.wv.enr.getD k.toNat 0).toNat) ∧
    (lv.kind ≠ 0 → Passes (.lpbeg k) s ∧ Passes (.lpend k) s) ∧
    (lv.kind = 0 → k.toNat < 6 →
      sets (.lpbeg k) (fun j => if j = k.toNat then 0 else idx j) (fun j => if j = k.toNat then BitVec.ofNat 32 (s.uniNat tyN32 lv.trip) else trip j) ∧
      sets (.lpend k) (fun j => if j = k.toNat then idx j + 1 else idx j) trip) ∧
    (lv.kind = 0 → Gives (.lpidx tyN32 k) s (fun _ d => d.toNat = (idx k.toNat).toNat) ∧
      Gives (.lpidx tyB1 k) s (fun _ d => (d = 1 ↔ (idx k.toNat).toNat < (trip k.toNat).toNat) ∧ d.toNat ≤ 1)) ∧
    (lv.kind ≠ 0 → Gives (.lpidx tyN32 k) s (fun _ d => d.toNat = s.loopCoord k.toNat % 2 ^ 256) ∧ Gives (.lpidx tyB1 k) s (fun _ d => d = 1)) ∧
    (∃ t, exec .yield s = .next t ∧ t.wv.starve = 0 ∧ t.wv.hold = s.cycle + 6 ∧
      ResultsOnly s (t.updWv fun v => { v with hold := s.wv.hold, passTurn := s.wv.passTurn }) 0) ∧
    ((s.waveAt w).hold = 0 ∨ s.cycle + 1 < (s.waveAt w).hold → exec (.yieldHoldEnd w) s = .next (s.updWave w id)) ∧
    (w < s.waves.length → (s.waveAt w).hold ≠ 0 → (s.waveAt w).hold ≤ s.cycle + 1 →
      ∃ t, exec (.yieldHoldEnd w) s = .next t ∧ t.waveAt w = { s.waveAt w with hold := 0 } ∧ t = { s with waves := t.waves }))

/-! ## Memory access (08_memory.md) -/

/-- R244, R245, R252, R253, R255, R256: ld and ldv, when nothing holds the access back. From scratchpad a lane's result is the bytes at its offset,
little-endian, and nothing else changes. Elsewhere it is the bytes at the place its address translates to, as its space reads them once the walker
has made its updates; nothing changes but A bits of leaf entries, translation buffers and caches. With no landing-buffer entry for one of its lines
it waits, or in a stamped bundle faults (R90, R399). -/
def Obligations.Loads : Prop :=
  ∀ (s : State) (ty : Ty) (m : MMod) (a : Opnd), Issuing s →
    let n := ty.bytes
    let ldAt := fun L => (s.opnd (addrTy m.space) a L).toNat
    let ldvAt := fun L => (s.uniNat (addrTy m.space) a + L * n) % 2 ^ (if m.space = .spad then 32 else 64)
    let loads := fun (i : Instr) (at_ : Nat → Nat) =>
      let x := accessAt m true false n at_
      let u := touched s x
      let pls := u.activeLanes.map (u.placeAt x)
      Goes s x →
      (¬Lands u n pls → exec i s = .next (if s.issue.stamped then u.faultAll (causeT 0x31 2) else u)) ∧
      (m.space = .spad → Lands u n pls → (∀ L, On s L → s.wg.padBad (at_ L) n = false) → ∃ f, exec i s = .next f ∧
        ResultsOnly { s with fabReqs := f.fabReqs, l1 := f.l1 } f 1 ∧ ∀ L, On s L → result s f L 0 = valOfBytes (s.wg.read (at_ L) n)) ∧
      (m.space ≠ .spad → Lands u n pls → (∀ L, On s L → (u.placeAt x L).isFab = false ∧ u.placeBad m n (u.placeAt x L) = false) →
        ∃ t, exec i s = .next t ∧ AccessOnly s t 1 (EntryByte s x) ∧
          ∀ L, On s L → result s t L 0 = valOfBytes (u.placeRead m n (u.placeAt x L)))
    loads (.ld ty m a) ldAt ∧ loads (.ldv ty m a) ldvAt

/-- R244, R253, R255, R256, R259: st, stv and zline to pages of the issuing wave's own die, outside merged determinism. The address a lane stores to
is the place its address translates to; where lanes overlap, the highest one's byte stays. Every byte outside the stored bytes is as it was, but for
the A and D bits of the leaf entries used. R247, R248, R251, R252, R402: the stores that reach no page of memory at once. A scratchpad store changes
the workgroup's scratchpad; a store of merged determinism enters the workgroup's write set; a store to the thread's own words changes the L1 line
and reads back, and no byte of memory changes but leaf entries. With EVICT 3 and no line in the L1 the word goes to its home. -/
def Obligations.Stores : Prop :=
  (∀ (s : State) (ty : Ty) (m : MMod) (a v : Opnd), Issuing s → (s.merged = false ∨ m.space ≠ .global) →
    let stAt := fun L => (s.opnd (addrTy m.space) a L).toNat
    let stvAt := fun L => (s.uniNat (addrTy m.space) a + L * ty.bytes) % 2 ^ (if m.space = .spad then 32 else 64)
    let stores := fun (i : Instr) (n : Nat) (at_ : Nat → Nat) (val : Nat → Nat) =>
      let x := accessAt m false true n at_
      let u := touched s x
      let key := fun L => match u.placeAt x L with
        | .phys _ p => p.key
        | _ => 0
      Goes s x →
      (∀ L, On s L → ∃ va p, u.placeAt x L = .phys va p ∧ eFab p.leaf = false ∧ p.home = s.wv.die ∧ u.uncorr p.key = false) →
      ∃ t, exec i s = .next t ∧ AccessOnly s t 0 (fun b => EntryByte s x b ∨ ∃ L, On s L ∧ inRun (key L) n b) ∧
        ∀ L j, On s L → j < n → (∀ M, On s M → L < M → ¬inRun (key M) n (key L + j)) →
          byteAt t (key L + j) = BitVec.ofNat 8 (val L / 2 ^ (8 * j))
    stores (.st ty m a v) ty.bytes stAt (fun L => (s.opnd ty v L).toNat) ∧
    stores (.stv ty m a v) ty.bytes stvAt (fun L => (s.opnd ty v L).toNat) ∧
    stores (.zline m a) 128 stAt (fun _ => 0)) ∧
  (∀ (s : State) (ty : Ty) (m : MMod) (a v : Opnd), Issuing s → s.wv.wg < s.wgs.length →
    let n := ty.bytes
    let at_ := fun L => (s.opnd (addrTy m.space) a L).toNat
    let x := accessAt m false true n at_
    let u := touched s x
    let byte := fun L j => BitVec.ofNat 8 ((s.opnd ty v L).toNat / 2 ^ (8 * j))
    let wins := fun (key : Nat → Nat) L j => ∀ M, On s M → L < M → ¬inRun (key M) n (key L + j)
    Goes s x →
    (m.space = .spad → (∀ L, On s L → s.wg.padSplit (at_ L) n = false) → ∃ t, exec (.st ty m a v) s = .next t ∧ ResultsOnly { s with wgs := t.wgs } t 0 ∧
      (∀ j, j ≠ s.wv.wg → t.wgs[j]? = s.wgs[j]?) ∧ t.wg = { s.wg with spad := t.wg.spad, badPad := t.wg.badPad } ∧
      (∀ b, b ∈ t.wg.badPad ↔ b ∈ s.wg.badPad ∧ ∀ L, On s L → ¬(at_ L ≤ 8 * b ∧ 8 * b + 8 ≤ at_ L + n)) ∧
      (∀ L j, On s L → j < n → wins at_ L j → t.wg.read (at_ L + j) 1 = [byte L j]) ∧
      ∀ o, (∀ L, On s L → ¬inRun (at_ L) n o) → t.wg.read o 1 = s.wg.read o 1) ∧
    (∀ key : Nat → Nat, m.space = .global → s.merged = true → (∀ d, d < 8 → s.poolUsed d + 32 ≤ s.poolLines d) →
      (∀ L, On s L → ∃ va p, u.placeAt x L = .phys va p ∧ eFab p.leaf = false ∧ u.remoteCause p = 0 ∧ p.key = key L) →
      ∃ t, exec (.st ty m a v) s = .next t ∧ KeepsMem s t (EntryByte s x) ∧
        (∀ j, j ≠ s.wv.wg → t.wgs[j]? = s.wgs[j]?) ∧ t.wg = { s.wg with wset := t.wg.wset, wpool := t.wg.wpool } ∧
        (∀ L j, On s L → j < n → wins key L j → t.viewByte s.wv.wg (key L + j) = byte L j) ∧
        ∀ o, (∀ L, On s L → ¬inRun (key L) n o) → cget (zeros 15) t.wg.wset o = cget (zeros 15) s.wg.wset o) ∧
    ∀ L va p, m.space = .priv → n = 4 → (∀ M, On s M → M = L) → On s L →
      u.placeAt x L = .words [(va, p)] → u.uncorr p.key = false → p.key % 4 = 0 → (∀ l ∈ u.l1, l.data.length = 128) →
      (m.evict ≠ .lastuse → m.evict ≠ .bypass → ∃ t, exec (.st ty m a v) s = .next t ∧ KeepsMem s t (EntryByte s x) ∧ t.wgs = s.wgs ∧
        t.wordRead s.gcore p.key = (List.range 4).map (byte L)) ∧
      (m.evict = .bypass → u.l1Find s.gcore (lineOf p.key) 2 = none → (∀ i, s.waveOf s.wv.token = some i → keyDie p.key = (s.waveAt i).die) →
        ∃ t, exec (.st ty m a v) s = .next t ∧ KeepsMem s t (fun b => EntryByte s x b ∨ inRun p.key 4 b) ∧ t.wgs = s.wgs ∧ t.l1 = u.l1 ∧
          t.wordRead s.gcore p.key = (List.range 4).map (byte L)))

/-- R239: an access of which some lanes have a cause performs nothing. It takes the cause of highest priority; its lanes are the primary mask, the
other lanes with a cause the secondary mask, and the address is that of the lowest primary lane. The walks of its lanes that were valid stand
(R237); the lines of its lanes in scratchpad are present, or it would have parked before (R249). -/
def Obligations.AccessFaults : Prop :=
  ∀ (s : State) (ty : Ty) (m : MMod) (a v : Opnd), Issuing s →
    let faults := fun (i : Instr) (loc : Nat → Except Cause Place) (addr : Nat → Nat) (rd wr : Bool) (n : Nat) => ∀ (c : Nat → Cause) (L0 : Nat),
      let bad := fun L => On s L ∧ loc L = .error (c L)
      let best := fun L => bad L ∧ ∀ M, bad M → causeRank (c L).code ≤ causeRank (c M).code
      best L0 → (∀ M, best M → L0 ≤ M) → (∀ L, On s L → ¬bad L → ∃ p, loc L = .ok p) →
      (∀ L off, On s L → loc L = .ok (.spad off) → s.wg.absentIn off n = []) →
      let u := s.walked (s.accOf s.wv m.space rd wr) (s.activeLanes.flatMap fun L => s.laneVas m.space L (addr L) n n)
      ∃ prim sec, exec i s = .next (u.fault (c L0) prim sec (addr L0)) ∧
        (∀ L, (inMask prim L = true ↔ best L)) ∧ ∀ L, (inMask sec L = true ↔ bad L ∧ ¬best L)
    let at_ := fun L => (s.opnd (addrTy m.space) a L).toNat
    let vec := fun L => (s.uniNat (addrTy m.space) a + L * ty.bytes) % 2 ^ (if m.space = .spad then 32 else 64)
    let placed := fun rd wr n at_ => s.placeOf (accessAt m rd wr n at_)
    faults (.ld ty m a) (placed true false ty.bytes at_) at_ true false ty.bytes ∧
    faults (.ldv ty m a) (placed true false ty.bytes vec) vec true false ty.bytes ∧
    faults (.st ty m a v) (placed false true ty.bytes at_) at_ false true ty.bytes ∧
    faults (.stv ty m a v) (placed false true ty.bytes vec) vec false true ty.bytes ∧
    faults (.zline m a) (placed false true 128 at_) at_ false true 128 ∧
    (s.merged = false → faults (.atomadd ty m a v) (s.atomLoc (s.atomOp 0x200 ty m a v) none) at_ true true ty.bytes)

/-- R257, R258: ldblk and stblk issue when their checks pass, their lines are present and the core runs fewer than four copies: the copy is recorded
with its lines, ldblk clears the presence of its destination, and the checks fault in order. A line that completes is copied, is present again, and
leaves the record; the last one ends the copy. A line behind an earlier copy's (R265) or behind the wave's own write to its bytes waits. While a
line is absent the wave parks, and with four copies on the core the instruction waits, or in an ordered task faults. R249, R259, R260, R261:
prefetch never faults and changes no byte but A bits; wbline writes a dirty line of the core's L1 back and keeps it clean; invline drops the line;
spq counts the absent lines; pvbase gives the address of a word; and a wave parked for scratchpad lines goes on once they are present. -/
def Obligations.BlockCopiesLinesAndQueries : Prop :=
  (∀ (s : State) (m : MMod) (off addr len : Opnd), Issuing s → s.wv.wg < s.wgs.length →
    let o := s.uniNat tyN32 off
    let va := s.uniNat tyA64 addr
    let n := s.uniNat tyN32 len
    let aligned := o % 128 = 0 ∧ va % 128 = 0 ∧ n % 128 = 0
    let sized := 128 ≤ n ∧ n ≤ 65536
    let fits := o + n ≤ s.wg.spadB
    let present := s.wg.absentIn o (min n (s.wg.spadB - o)) = []
    let few := (s.copies.filter fun c => c.core == s.gcore).length < 4
    let room := few ∧ (m.ord.code < 2 ∨ s.settled = true) ∧ s.acqPending = false
    let form := fun (i : Instr) (ld : Bool) =>
      (¬present → exec i s = .next (s.parkPresence (s.wg.absentIn o (min n (s.wg.spadB - o))))) ∧
      (present → aligned → sized → fits → s.rangeCause (s.accOf s.wv m.space ld (!ld)) va n = none → ¬room →
        exec i s = .next (if ¬few ∧ s.ordered = true then s.faultAll (causeT 0x31 3) else s)) ∧
      (present → ¬aligned → ∃ a, exec i s = .next (s.fault (cause 0x23) s.active 0 a)) ∧
      (present → aligned → ¬sized → ∃ a, exec i s = .next (s.fault (causeT 0x26 1) s.active 0 a)) ∧
      (present → aligned → sized → ¬fits → ∃ a, exec i s = .next (s.fault (causeT 0x26 3) s.active 0 a)) ∧
      (present → aligned → sized → fits → room → s.rangeCause (s.accOf s.wv m.space ld (!ld)) va n = none →
        ∃ t c, exec i s = .next t ∧ t.copies = s.copies ++ [c] ∧ c.wave = s.wv.token ∧ c.toSpad = ld ∧ c.spadOff = o ∧ c.va = BitVec.ofNat 64 va ∧
          c.lines = List.range (n / 128) ∧ c.undef = [] ∧ t.wg = { s.wg with absent := t.wg.absent } ∧
          (∀ l, (t.wg.absent.contains l = true ↔ s.wg.absent.contains l = true ∨ (ld = true ∧ o / 128 ≤ l ∧ l < (o + n) / 128))) ∧
          ResultsOnly { s with copies := t.copies, nextId := t.nextId, wgs := t.wgs } t 0)
    form (.ldblk m off addr len) true ∧ form (.stblk m addr off len) false ∧
    ∀ (c : BlockCopy) (line wi : Nat) (p : Phys), s.copies.find? (fun x => x.id == c.id) = some c → s.waveOf c.wave = some wi →
      c.lines.contains line = true → c.wg < s.wgs.length → s.ckpt.on = false → c.undef = [] →
      let w := s.asWave wi 0 c.loc
      let line_va := c.va.toNat + 128 * line
      let acc := if c.toSpad then w.accOf w.wv c.m.space true false else w.accOf w.wv .global false true
      let u := w.touch acc line_va p
      let held := w.copyBehind c line = true ∨ ∃ k, w.copyKey c line = some k ∧ w.ownMsgOn k 128 = true
      w.xlate acc line_va = .ok p → eFab p.leaf = false → w.uncorr p.key = false →
      (held → exec (.blockCopyLineDone c.id line) s = .next s) ∧
      (c.toSpad = true → ¬held → (u.placeRead c.m 128 (.phys line_va p)).length = 128 →
        ∃ t, exec (.blockCopyLineDone c.id line) s = .next t ∧
          (t.wgAt c.wg).read (c.spadOff + 128 * line) 128 = u.placeRead c.m 128 (.phys line_va p) ∧
          (t.wgAt c.wg).absent.contains ((c.spadOff + 128 * line) / 128) = false ∧ KeepsMem s t (WalkByte s p 128) ∧
          ∀ x ∈ t.copies, x.id = c.id → ¬x.lines.contains line) ∧
      (c.toSpad = false → ¬held → c.lines.headD 0 = line → (s.wgAt c.wg).padBad (c.spadOff + 128 * line) 128 = false →
        w.merged = false ∨ c.m.space ≠ .global → p.home = w.wv.die →
        ∃ t, exec (.blockCopyLineDone c.id line) s = .next t ∧
          readBytes t.mem p.key 128 = (s.wgAt c.wg).read (c.spadOff + 128 * line) 128 ∧
          KeepsMem s t (fun b => WalkByte s p 128 b ∨ inRun p.key 128 b) ∧ ∀ x ∈ t.copies, x.id = c.id → ¬x.lines.contains line)) ∧
  (∀ (s : State) (m : MMod) (sp : Space) (a off len : Opnd) (w : Nat), Issuing s →
    let x := lineAccess m fun L => (s.opnd (addrTy m.space) a L).toNat
    let wx := lineAccess wordMod fun L => (s.opnd tyN32 a L).toNat
    let ix := lineAccess { wordMod with space := sp } fun L => (s.opnd (addrTy sp) a L).toNat
    let o := s.uniNat tyN32 off
    let n := s.uniNat tyN32 len
    (s.ckpt.on = false → ∃ t, exec (.prefetch m a) s = .next t ∧ AccessOnly s t 0 (EntryByte s x)) ∧
    (∀ L va p l, Goes s wx → On s L → (∀ M, On s M → M = L) → s.placeAt wx L = .words [(va, p)] →
      (touched s wx).l1Find s.gcore (lineOf p.key) 2 = some l → l.dirty = true → l.data.length = 128 →
      (∀ i, s.waveOf l.owner = some i → keyDie (l.line * 128) = (s.waveAt i).die) →
      ∃ t, exec (.wbline a) s = .next t ∧ readBytes t.mem (l.line * 128) 128 = l.data ∧
        KeepsMem s t (fun b => EntryByte s wx b ∨ inRun (l.line * 128) 128 b) ∧
        ∃ l', t.l1Find s.gcore (lineOf p.key) 2 = some l' ∧ l'.dirty = false ∧ l'.data = l.data) ∧
    (Goes s ix → ∃ t, exec (.invline sp a) s = .next t ∧ AccessOnly s t 0 (EntryByte s ix) ∧
      ∀ L, On s L → match s.placeAt ix L with
        | .phys _ p => t.l1Find s.gcore (lineOf p.key) sp.code = none
        | .words ws => ∀ q ∈ ws, t.l1Find s.gcore (lineOf q.2.key) 2 = none
        | .spad _ => True) ∧
    (n ≠ 0 → o + n ≤ s.wg.spadB → Gives (.spq off len) s fun _ d =>
      d.toNat = ((List.range ((o + n - 1) / 128 + 1)).filter fun l => decide (o / 128 ≤ l) && s.wg.absent.contains l).length % 2 ^ 256) ∧
    (n = 0 → exec (.spq off len) s = .next (s.faultAll (causeT 0x26 1))) ∧
    (n ≠ 0 → s.wg.spadB < o + n → exec (.spq off len) s = .next (s.fault (causeT 0x26 3) s.active 0 o)) ∧
    Gives (.pvbase a) s (fun L d => d.toNat = (s.wv.pbase.toNat + ((s.opnd tyN32 a L).toNat * 32 + L) * 4) % 2 ^ 64) ∧
    (w < s.waves.length → ∃ t, exec (.waveUnparkPresence w) s = .next t ∧ t = { s with waves := t.waves } ∧
      (∀ j, j ≠ w → t.waves[j]? = s.waves[j]?) ∧ ∀ L ls, L < 32 → ((s.waveAt w).lane L).wait = .presence ls → ((s.waveAt w).lane L).st = .parked →
        ((∀ l ∈ ls, (s.wgAt (s.waveAt w).wg).absent.contains l = false) →
          (t.waveAt w).lane L = { (s.waveAt w).lane L with st := .running, wait := .none }) ∧
        ((∃ l ∈ ls, (s.wgAt (s.waveAt w).wg).absent.contains l = true) → (t.waveAt w).lane L = (s.waveAt w).lane L)))

/-- R22, R235, R482: the key ID of the page that maps a line selects the key under which it is met. An access of `n` bytes through a page changes
nothing of the lines that stand under the page's key ID; each other line that it meets then holds the bytes that the page's key gives for the line
that its vault stores, for the data unit of the line; and a read gives the bytes of the lines so met. -/
def Obligations.KeyIds : Prop :=
  ∀ (s : State) (p : Phys) (n : Nat), 0 < n →
    let t := s.meet p n
    let kid := eKeyid p.leaf
    let old := fun (l : Nat) => (cget (zeros 6) s.keyids l).toNat
    let hit := fun (l : Nat) => eFab p.leaf = false ∧ p.key / 128 ≤ l ∧ l ≤ (p.key + n - 1) / 128
    let keys := fun (k : Nat) => xtsKeys (hmac512 (bytesOfNat 64 s.trust.kss.toNat) [0x6D, 0x65, 0x6D, BitVec.ofNat 8 k])
    let line := fun (u : State) (l : Nat) => readBytes u.mem (128 * l) 128
    (StandsUnder s p n → t = s) ∧ StandsUnder t p n ∧ t = { s with mem := t.mem, keyids := t.keyids } ∧
    (∀ l, ¬hit l → line t l = line s l ∧ cget (zeros 6) t.keyids l = cget (zeros 6) s.keyids l) ∧
    (∀ l, hit l → old l = kid → line t l = line s l) ∧
    (∀ l, hit l → old l ≠ kid → line t l = xtsDec (keys kid) (128 * l) (xtsEnc (keys (old l)) (128 * l) (line s l))) ∧
    s.readAt p n = readBytes t.mem p.key n ∧ (Memory.wf s.mem → Memory.wf t.mem)

/-! ## Atomics and reductions (10_atomics.md) -/

/-- R295, R296: what each atomic computes, element by element, from the old value and its operands. -/
def Obligations.AtomicFunctions : Prop :=
  ∀ (ty : Ty) (m v v2 : Val) (j : Nat), j < Ty.lanes ty →
    let e := Ty.elem ty
    let x := fun o => elemAt o e.width j
    let r := fun opc => x (atomF opc ty m v v2)
    (r 0x200 : Int) ≡ toI e (x m) + toI e (x v) [ZMOD 2 ^ e.width] ∧
    (isF e → ∃ fl, SumIs e exactMod 0 (fDecode e (x m)) (fDecode e (x v)) (r 0x201) fl) ∧
    (∀ k, k < e.width → (r 0x202).testBit k = ((x m).testBit k && (x v).testBit k) ∧
      (r 0x203).testBit k = ((x m).testBit k || (x v).testBit k) ∧ (r 0x204).testBit k = ((x m).testBit k ^^ (x v).testBit k)) ∧
    toI e (r 0x205) = min (toI e (x m)) (toI e (x v)) ∧ toI e (r 0x206) = max (toI e (x m)) (toI e (x v)) ∧
    (isF e → ¬(fDecode e (x m)).isNaN → ¬(fDecode e (x v)).isNaN →
      (¬lessThan (fDecode e (x v)) (fDecode e (r 0x207)) ∧ ¬lessThan (fDecode e (x m)) (fDecode e (r 0x207)) ∧ (r 0x207 = x m ∨ r 0x207 = x v)) ∧
      (¬lessThan (fDecode e (r 0x208)) (fDecode e (x v)) ∧ ¬lessThan (fDecode e (r 0x208)) (fDecode e (x m)) ∧ (r 0x208 = x m ∨ r 0x208 = x v))) ∧
    (x v ≤ x m → r 0x209 = 0) ∧ (x m < x v → r 0x209 = x m + 1) ∧
    (x m = 0 ∨ x v < x m → r 0x20A = x v) ∧ (x m ≠ 0 → x m ≤ x v → r 0x20A = x m - 1) ∧
    atomF 0x20B ty m v v2 = v ∧
    (m = v → atomF 0x20C ty m v v2 = v2 ∧ atomF 0x20D ty m v v2 = v2) ∧ (m ≠ v → atomF 0x20C ty m v v2 = m ∧ atomF 0x20D ty m v v2 = m)

/-- R293, R295, R297, R298: each returning atomic on memory of the package and on scratchpad: every lane takes the value its location held before it
in ascending lane order, the location keeps the value after the last, and no other byte changes but leaf entries. Under REASSOC a lane may instead
take the value before the first. Under merged determinism one of scope 3 or wider in space 0 takes fault 0x32. With no landing-buffer entry for one
of its lines it waits, or in a stamped bundle faults (R304, R399). -/
def Obligations.Atomics : Prop :=
  ∀ (s : State) (ty : Ty) (m : MMod) (a v w : Opnd), Issuing s →
    let op := fun opc => s.atomOp opc ty m a v
    let cas := fun opc => { s.atomOp opc ty m a v with v2 := fun L => s.opnd ty w L }
    let n := ty.bytes
    let forms : List (Instr × AtomOp) := [(.atomadd ty m a v, op 0x200), (.atomfadd ty m a v, op 0x201), (.atomand ty m a v, op 0x202),
      (.atomor ty m a v, op 0x203), (.atomxor ty m a v, op 0x204), (.atommin ty m a v, op 0x205), (.atommax ty m a v, op 0x206),
      (.atomfmin ty m a v, op 0x207), (.atomfmax ty m a v, op 0x208), (.atominc ty m a v, op 0x209), (.atomdec ty m a v, op 0x20A),
      (.atomxchg ty m a v, op 0x20B), (.atomcas ty m a v w, cas 0x20C), (.atomcas2 ty m a v w, cas 0x20D)]
    ∀ i x, (i, x) ∈ forms → ∀ (key : Nat → Nat) (V : Nat → Nat → Val),
      let u := atomTouched s x none
      let free := s.merged = false ∨ m.space ≠ .global ∨ m.scope.toNat < 3
      let lands := Lands u n (u.activeLanes.map (u.atomPlace x none))
      (s.merged = true → m.space = .global → 3 ≤ m.scope.toNat → exec i s = .next (s.faultAll (cause 0x32))) ∧
      (free → AtomGoes s x none → ¬lands → exec i s = .next (if s.issue.stamped then u.faultAll (causeT 0x31 2) else u)) ∧
      (free → AtomGoes s x none → lands → s.merged = false → (∀ L, On s L → n ∣ key L) → Sequence s x key (fun k => valOfBytes (readBytes u.mem k n)) V →
        (∀ L, On s L → ∃ va p, u.atomPlace x none L = .phys va p ∧ eFab p.leaf = false ∧ eTfdn p.leaf = 0 ∧ u.remoteCause p = 0 ∧ p.key = key L) →
        ∃ t, exec i s = .next t ∧ KeepsMem s t (fun b => AtomEntryByte s x none b ∨ ∃ L, On s L ∧ inRun (key L) n b) ∧
          (∀ L, On s L → (m.reassoc = false → result s t L 0 = V (key L) L) ∧ (result s t L 0 = V (key L) L ∨ result s t L 0 = V (key L) 0)) ∧
          (m.reassoc = false → AccessOnly s t 1 (fun b => AtomEntryByte s x none b ∨ ∃ L, On s L ∧ inRun (key L) n b) ∧
            ∀ L j, On s L → j < n → byteAt t (key L + j) = BitVec.ofNat 8 ((V (key L) 32).toNat / 2 ^ (8 * j)))) ∧
      (free → AtomGoes s x none → lands → s.merged = true → m.space = .global → s.wv.wg < s.wgs.length → (∀ L, On s L → n ∣ key L) →
        (∀ d, d < 8 → s.poolUsed d + 32 ≤ s.poolLines d) →
        Sequence s x key (fun k => valOfBytes (u.viewBytes s.wv.wg k n)) V →
        (∀ L, On s L → ∃ va p, u.atomPlace x none L = .phys va p ∧ eFab p.leaf = false ∧ eTfdn p.leaf = 0 ∧ u.remoteCause p = 0 ∧ p.key = key L) →
        ∃ t, exec i s = .next t ∧ KeepsMem s t (AtomEntryByte s x none) ∧ (∀ L, On s L → result s t L 0 = V (key L) L) ∧
          ∀ L, On s L → t.viewBytes s.wv.wg (key L) n = bytesOfVal n (V (key L) 32)) ∧
      (AtomGoes s x none → lands → m.space = .spad → m.reassoc = false → s.wv.wg < s.wgs.length → (∀ L, On s L → n ∣ x.addr L) →
        (∀ L, On s L → s.wg.padBad (x.addr L) n = false) →
        Sequence s x x.addr (fun k => valOfBytes (s.wg.read k n)) V →
        ∃ t, exec i s = .next t ∧ t.mem = s.mem ∧ (∀ L, On s L → result s t L 0 = V (x.addr L) L) ∧
          t.wg = { s.wg with spad := t.wg.spad } ∧ (∀ L, On s L → t.wg.read (x.addr L) n = bytesOfVal n (V (x.addr L) 32)) ∧
          ∀ o, (∀ L, On s L → ¬inRun (x.addr L) n o) → t.wg.read o 1 = s.wg.read o 1)

/-- R295, R300, R303: red and redf at a home on the issuing wave's die; under merged determinism they are held with the workgroup's reductions, one
a lane in ascending order; a window access becomes one contribution, with the next number of its window, and changes no memory but leaf entries, and
under merged determinism it is held as one too. R301, R302: the oldest round of a window is applied when it is complete, and else on its timeout,
which sets PARTIAL; before that neither event does anything. What is applied: the contributions combine in the order in which the round holds them,
the total goes into memory as one atomic, and the round word takes 1. -/
def Obligations.Reductions : Prop :=
  (∀ (s : State) (ty : Ty) (m : MMod) (k : BitVec 30) (a v : Opnd), Issuing s →
    let n := ty.bytes
    let forms : List (Instr × AtomOp) := [(.red ty m k a v, s.atomOp (redOpc k.toNat) ty m a v), (.redf ty m k a v, s.atomOp (redfOpc k.toNat) ty m a v)]
    ∀ i x, (i, x) ∈ forms → ∀ (key : Nat → Nat) (V : Nat → Nat → Val),
      let o := some k.toNat
      let u := atomTouched s x o
      let places := ∀ L, On s L → ∃ va p, u.atomPlace x o L = .phys va p ∧ eFab p.leaf = false ∧ eTfdn p.leaf = 0 ∧ p.home = s.wv.die ∧
        u.remoteCause p = 0 ∧ p.key = key L
      AtomGoes s x o →
      (s.merged = false → m.reassoc = false → (∀ L, On s L → n ∣ key L) → Sequence s x key (fun k => valOfBytes (readBytes u.mem k n)) V →
        places → (∀ L, On s L → u.atomWindow x L = none) →
        ∃ t, exec i s = .next t ∧ AccessOnly s t 0 (fun b => AtomEntryByte s x o b ∨ ∃ L, On s L ∧ inRun (key L) n b) ∧
          ∀ L j, On s L → j < n → byteAt t (key L + j) = BitVec.ofNat 8 ((V (key L) 32).toNat / 2 ^ (8 * j))) ∧
      (m.space = .spad → m.reassoc = false → s.wv.wg < s.wgs.length → (∀ L, On s L → n ∣ x.addr L) → (∀ L, On s L → s.wg.padBad (x.addr L) n = false) →
        Sequence s x x.addr (fun k => valOfBytes (s.wg.read k n)) V →
        ∃ t, exec i s = .next t ∧ t.mem = s.mem ∧ (∀ L, On s L → t.wg.read (x.addr L) n = bytesOfVal n (V (x.addr L) 32)) ∧
          ∀ b, (∀ L, On s L → ¬inRun (x.addr L) n b) → t.wg.read b 1 = s.wg.read b 1) ∧
      (s.merged = true → m.space = .global → places → s.wv.wg < s.wgs.length → (∀ L, On s L → u.atomWindow x L = none) →
        (∀ L, On s L → s.poolUsed (keyDie (key L)) + 32 ≤ s.poolLines (keyDie (key L))) →
        ∃ t, exec i s = .next t ∧ KeepsMem s t (AtomEntryByte s x o) ∧
          t.wg.reds.map (fun r => (r.key, r.op, r.ty, r.v)) = s.wg.reds.map (fun r => (r.key, r.op, r.ty, r.v)) ++
            s.activeLanes.map (fun L => (key L, x.opc, ty, s.opnd ty v L))) ∧
      (∀ w c L0, s.merged = true → m.space = .global → places → s.wv.wg < s.wgs.length → (∀ L, On s L → u.atomWindow x L = some (w, c)) →
        On s L0 → (∀ L, On s L → L0 ≤ L ∧ x.addr L = x.addr L0) →
        s.poolUsed (keyDie (key L0)) + 32 ≤ s.poolLines (keyDie (key L0)) →
        ∃ t r, exec i s = .next t ∧ KeepsMem s t (AtomEntryByte s x o) ∧ t.wg.reds = s.wg.reds ++ [r] ∧ r.window = some w ∧
          r.lanes = s.activeLanes.length ∧ r.key = key L0 ∧ r.v = contribution x.opc ty (s.activeLanes.map (s.opnd ty v)) ∧ t.contrib = s.contrib) ∧
      (∀ w c, s.merged = false → m.reassoc = false → places → (∀ L, On s L → u.atomWindow x L = some (w, c)) → (∃ L, On s L) →
        w < u.contrib.length → (∀ L M, On s L → On s M → x.addr L = x.addr M) →
        ∃ t, exec i s = .next t ∧ KeepsMem s t (AtomEntryByte s x o) ∧
          t.contrib.getD w 0 = s.contrib.getD w 0 + 1 ∧ ∀ j, j ≠ w → t.contrib.getD j 0 = s.contrib.getD j 0)) ∧
  (∀ (s : State) (n off : Nat) (w : Nat × Dword × Dword) (r : Round), s.windowSlot n = some w → s.oldestRound n off = some r →
    let due := bits w.2.2 16 16 ≠ 0 ∧ r.first + bits w.2.2 16 16 * 1024 ≤ s.cycle
    let partialSet := fun (t : State) => (t.sysGet 0 (0x050 + n)).getLsbD 62 = true
    (s.roundFull w r = true → ∃ t, exec (.reductionRoundComplete n off) s = .next t ∧ t.rounds = s.rounds.erase r) ∧
    (s.roundFull w r = false → exec (.reductionRoundComplete n off) s = .next s) ∧
    (s.roundFull w r = false → due → ∃ t, exec (.reductionRoundTimeout n off) s = .next t ∧ t.rounds = s.rounds.erase r ∧ partialSet t) ∧
    (s.roundFull w r = true ∨ ¬due → exec (.reductionRoundTimeout n off) s = .next s) ∧
    ∀ (x : RoundPart) (rest : List RoundPart) (p q : Phys), r.parts = x :: rest → s.ckpt.on = false →
      let opc := winOpc w.2.2
      let ty := winTy w.2.2
      let total := rest.foldl (fun t x => atomF opc ty t x.v 0) x.v
      let base := winBase w.2.1
      let s1 := ({ s with rounds := s.rounds.erase r } : State).homeRmw p.key opc ty [(total, 0)]
      s.roundPlace r (base + off) = some p → s1.roundPlace r (base + winSize w.2.1 - 8) = some q → StandsUnder s p ty.bytes → StandsUnder s q 8 →
      s.frameSt p.key ≠ 3 → s.frameSt q.key ≠ 3 → s.heldOn p.key ty.bytes = false → s.heldOn q.key 8 = false →
      (∀ b, inRun p.key ty.bytes b → ¬inRun q.key 8 b) →
      let applied := fun (t : State) =>
        KeepsMem s t (fun b => inRun p.key ty.bytes b ∨ inRun q.key 8 b) ∧
        (∀ j, j < ty.bytes → byteAt t (p.key + j) =
          BitVec.ofNat 8 ((atomF opc ty (valOfBytes (readBytes s.mem p.key ty.bytes)) total 0).toNat / 2 ^ (8 * j))) ∧
        natOfBytes (readBytes t.mem q.key 8) = (natOfBytes (readBytes s.mem q.key 8) + 1) % 2 ^ 64
      (s.roundFull w r = true → ∃ t, exec (.reductionRoundComplete n off) s = .next t ∧ applied t) ∧
      (s.roundFull w r = false → due → ∃ t, exec (.reductionRoundTimeout n off) s = .next t ∧ applied t ∧ partialSet t))

/-- R241, R242, R300: a store or reduction of one lane to a page homed on another die leaves as one message of the wave, which holds its bytes or
its operation; no memory changes but leaf entries. -/
def Obligations.RemoteStoresAndReductions : Prop :=
  ∀ (s : State) (ty : Ty) (m : MMod) (k : BitVec 30) (a v : Opnd) (L va : Nat) (p : Phys), Issuing s → On s L → (∀ M, On s M → M = L) →
    s.merged = false → eFab p.leaf = false → p.home ≠ s.wv.die →
    let x := accessAt m false true ty.bytes fun L => (s.opnd (addrTy m.space) a L).toNat
    let y := fun (opc : Nat) => s.atomOp opc ty m a v
    let sends := fun (i : Instr) (fx : WriteFx) (E : Nat → Prop) => ∃ t msg, exec i s = .next t ∧ t.msgs = s.msgs ++ [msg] ∧
      msg.fx = fx ∧ msg.home = p.home ∧ msg.dpa = p.dpa ∧ msg.wave = s.wv.token ∧ msg.va = BitVec.ofNat 64 va ∧ msg.srcDie = s.wv.die ∧
      msg.user = s.task.user ∧ msg.core = some s.gcore ∧ msg.keyid = eKeyid p.leaf ∧ KeepsMem s t E ∧ WaveOn s.wv t.wv ∧ LaneOn s (s.wv.lane L) (t.wv.lane L)
    (Goes s x → (touched s x).placeAt x L = .phys va p →
      sends (.st ty m a v) (.bytes (bytesOfVal ty.bytes (s.opnd ty v L))) (EntryByte s x)) ∧
    ∀ i opc, (i, opc) ∈ [(Instr.red ty m k a v, redOpc k.toNat), (Instr.redf ty m k a v, redfOpc k.toNat)] →
      let u := atomTouched s (y opc) (some k.toNat)
      AtomGoes s (y opc) (some k.toNat) → m.reassoc = false → u.atomWindow (y opc) L = none → u.atomPlace (y opc) (some k.toNat) L = .phys va p →
      sends i (.rmw opc ty [s.opnd ty v L]) (AtomEntryByte s (y opc) (some k.toNat))

/-! ## Ordering and synchronisation (09_ordering.md) -/

/-- R282, R283, R288: a fence of scope 0 keeps nothing; one that releases waits until every access of the wave has performed, those of its matrix
operations too, one at scope 6 or 7 waits as drain does, and any other one until the wave's block copies have read their lines; an acquire at scope
3 or wider empties the core's L1 of global lines; drain and the wide fences then deliver a pending asynchronous fault; opfence marks the wave. -/
def Obligations.FencesAndDrains : Prop :=
  ∀ (s : State) (ord : Ord) (scope : BitVec 3), Issuing s →
    let waits := scope ≠ 0 ∧ (((ord = .release ∨ ord = .seqCst) ∧ s.settled = false) ∨ (6 ≤ scope.toNat ∧ s.quiet = false) ∨ s.copiesRead = false)
    let acquires := (ord = .acquire ∨ ord = .seqCst) ∧ 3 ≤ scope.toNat
    (scope = 0 → Passes (.fence ord scope) s) ∧
    (waits → Waits (.fence ord scope) s) ∧
    (¬waits → scope.toNat < 6 ∨ s.wv.pend = none → ∃ t, exec (.fence ord scope) s = .next t ∧ ResultsOnly { s with l1 := t.l1 } t 0 ∧
      QuietFp s t ∧ ∀ l, l ∈ t.l1 ↔ l ∈ s.l1 ∧ ¬(acquires ∧ l.core = s.gcore ∧ l.sp = 0)) ∧
    (¬waits → 6 ≤ scope.toNat → s.wv.pend ≠ none → ∃ u, s.deliverPend = some u ∧ exec (.fence ord scope) s = .next u ∧
      (s.issue.wave < s.waves.length → (u.waveAt s.issue.wave).faulted = true ∧ (u.waveAt s.issue.wave).pend = none)) ∧
    (s.quiet = false → Waits .drain s) ∧
    (s.quiet = true → s.wv.pend = none → Passes .drain s) ∧
    (∀ u, s.quiet = true → s.deliverPend = some u → exec .drain s = .next u) ∧
    (∃ t, exec .opfence s = .next t ∧ t.wv.opfence = true ∧ ResultsOnly s (t.updWv fun w => { w with opfence := s.wv.opfence }) 0)

/-- R287: sleep parks the lanes with their deadline, unless a wake is pending, which it takes; wake, once the wave's accesses and matrix operations
have performed, ends the sleeps of the waves it names, or leaves the wake pending; and a timed sleep that is due ends. -/
def Obligations.SleepAndWake : Prop :=
  ∀ (s : State) (o : Opnd) (w : Nat), Issuing s →
    let n := s.uniNat tyN32 o
    let asleep := fun (l : Lane) => l.st = .parked ∧ ∃ d, l.wait = .sleep d
    let resumed := fun (l : Lane) => { l with st := .running, wait := .none, pc := l.after, bpos := l.bpos + 1 }
    (s.wv.wkp = true → ∃ t, exec (.sleep o) s = .next t ∧ t.wv.wkp = false ∧ ResultsOnly s (t.updWv fun w => { w with wkp := s.wv.wkp }) 0) ∧
    (s.wv.wkp = false → ∃ t, exec (.sleep o) s = .next t ∧ t = { s with waves := t.waves } ∧ (∀ j, j ≠ s.issue.wave → t.waves[j]? = s.waves[j]?) ∧
      WaveOn s.wv t.wv ∧ (∀ L, Off s L → t.wv.lane L = s.wv.lane L) ∧
      ∀ L, On s L → t.wv.lane L = { s.wv.lane L with
        st := .parked, after := s.issue.next, wait := .sleep (if n = 0 then none else some (s.sleepNow s.issue.wave + n)) }) ∧
    (s.settled = false → Waits (.wake o) s) ∧
    (s.settled = true → ∃ t, exec (.wake o) s = .next t ∧ t = { s with waves := t.waves } ∧
      ∀ j, j < s.waves.length → j ≠ s.issue.wave →
        let hit := (s.waveAt j).wg = s.wv.wg ∧ (s.waveAt j).live = true ∧ (n = 0xFFFFFFFF ∨ (s.waveAt j).num = n)
        (¬hit → t.waveAt j = s.waveAt j) ∧
        (hit → (∀ l ∈ (s.waveAt j).lanes, ¬asleep l) → t.waveAt j = { s.waveAt j with wkp := true }) ∧
        (hit → (∃ l ∈ (s.waveAt j).lanes, asleep l) → ∀ L, L < 32 →
          (asleep ((s.waveAt j).lane L) → (t.waveAt j).lane L = resumed ((s.waveAt j).lane L)) ∧
          (¬asleep ((s.waveAt j).lane L) → (t.waveAt j).lane L = (s.waveAt j).lane L))) ∧
    (w < s.waves.length → ∃ t, exec (.sleepTimeout w) s = .next t ∧ t = { s with waves := t.waves } ∧
      (∀ j, j ≠ w → t.waves[j]? = s.waves[j]?) ∧ ∀ L, L < 32 →
        let l := (s.waveAt w).lane L
        let due := l.st = .parked ∧ ∃ d, l.wait = .sleep (some d) ∧ d ≤ s.sleepNow w
        (due → (t.waveAt w).lane L = resumed l) ∧ (¬due → (t.waveAt w).lane L = l))

/-- R276, R277, R278, R284, R285: the barrier instructions, on a barrier whose place is reached and which no earlier access holds back. The
completion test follows each update; a failing update changes nothing and is a late fault 0x70. R285: the lanes of a wave that wait on a barrier
whose PHASE is no longer their token go on behind their wait; the others stay. -/
def Obligations.Barriers : Prop :=
  (∀ (s : State) (scope : BitVec 3) (sp : Space) (base o : Opnd) (pl : Place), Issuing s → s.wv.wg < s.wgs.length → s.ckpt.on = false →
    (s.merged = true → ∀ d, d < 8 → s.poolUsed d + 32 ≤ s.poolLines d) →
    let a := s.uniNat (addrTy sp) base
    let n := s.uniNat tyN32 o
    let reach := fun (wr : Bool) (ord : Ord) => s.laneLoc sp (!wr) wr s.lowLane a 16 16 = .ok pl ∧ s.absentOf (padRanges 16 [pl]) = [] ∧
      s.mustWait { Machine.barMod scope sp with ord := ord } true 16 [pl] = false ∧ (wr = true → s.padHeld (padRanges 16 [pl]) = false)
    let at_ := fun (wr : Bool) => s.touchPlace (s.accOf s.wv sp (!wr) wr) pl
    let b := fun wr => Barrier.ofBytes ((at_ wr).atomRead 16 pl)
    let sound := fun wr => ((∃ off, pl = .spad off ∧ s.wg.padBad off 16 = false) ∨ ∃ va p, pl = .phys va p ∧ eFab p.leaf = false ∧ p.key % 16 = 0 ∧ (at_ wr).remoteCause p = 0)
    let tested := fun (b : Barrier) => if b.arr = b.expa ∧ b.doneb = b.expb then
      { b with phase := (b.phase + 1) % 2 ^ 32, arr := 0, doneb := 0, expb := 0 } else b
    let holds := fun (t : State) (b : Barrier) => Barrier.ofBytes (t.atomRead 16 pl) = b
    let goesOn := fun (t : State) => ∀ L, (Off s L → t.wv.lane L = s.wv.lane L) ∧ (On s L → LaneOn s (s.wv.lane L) (t.wv.lane L))
    let parked := fun (t : State) (tok : Nat) => ∀ L, On s L → t.wv.lane L = { s.wv.lane L with
      st := .parked, after := s.issue.next, wait := .barrier scope.toNat sp (BitVec.ofNat 64 a) (BitVec.ofNat 32 tok) }
    let late := fun (i : Instr) (wr : Bool) (tag : Nat) => ∃ t f, exec i s = .next t ∧ holds t (b wr) ∧ t.wv.late = s.wv.late ++ [f] ∧
      f.cause = 0x70 ∧ f.tag = BitVec.ofNat 64 tag ∧ f.prim = s.issue.mask
    let arrived := { b true with arr := (b true).arr + n }
    let counted := 1 ≤ n ∧ n ≤ 65535
    (reach true .release → sound true →
      (counted → ∃ t, exec (.barinit scope sp base o) s = .next t ∧ holds t { phase := 0, arr := 0, expa := n, doneb := 0, expb := 0 } ∧ goesOn t) ∧
      (¬counted → late (.barinit scope sp base o) true 3) ∧
      (counted → (b true).arr + n ≤ (b true).expa → ¬(arrived.arr = arrived.expa ∧ arrived.expb < arrived.doneb) →
        ∃ t, exec (.bararr scope sp base o) s = .next t ∧ holds t (tested arrived) ∧ goesOn t ∧ ∀ L, On s L → (result s t L 0).toNat = (b true).phase) ∧
      (¬counted → late (.bararr scope sp base o) true 3) ∧
      (counted → (b true).expa < (b true).arr + n → late (.bararr scope sp base o) true 1) ∧
      (counted → (b true).arr + n = (b true).expa → (b true).expb < (b true).doneb → late (.bararr scope sp base o) true 2) ∧
      (let one := { b true with arr := (b true).arr + 1 }
       (b true).arr + 1 ≤ (b true).expa → ¬(one.arr = one.expa ∧ one.expb < one.doneb) →
        ∃ t, exec (.barsync scope sp base) s = .next t ∧ holds t (tested one) ∧
          ((tested one).phase = (b true).phase → parked t (b true).phase) ∧ ((tested one).phase ≠ (b true).phase → goesOn t))) ∧
    (reach true .relaxed → sound true →
      (n = 0 → ∃ t, exec (.barexp scope sp base o) s = .next t ∧ holds t (b true) ∧ goesOn t) ∧
      (let e := { b true with expb := (b true).expb + n }
       n ≠ 0 → e.expb < 2 ^ 32 → ¬(e.arr = e.expa ∧ e.expb < e.doneb) →
        ∃ t, exec (.barexp scope sp base o) s = .next t ∧ holds t (tested e) ∧ goesOn t) ∧
      (n ≠ 0 → 2 ^ 32 ≤ (b true).expb + n → late (.barexp scope sp base o) true 4)) ∧
    (reach false .relaxed → sound false → (at_ false).placeBad (barMod scope sp) 16 pl = false →
      ((b false).phase ≠ n → ∃ t, exec (.barwait scope sp base o) s = .next t ∧ holds t (b false) ∧ goesOn t) ∧
      ((b false).phase = n → ∃ t, exec (.barwait scope sp base o) s = .next t ∧ holds t (b false) ∧ parked t n) ∧
      (∃ t, exec (.bartest scope sp base o) s = .next t ∧ holds t (b false) ∧ goesOn t ∧
        ∀ L, On s L → ((b false).phase ≠ n → result s t L 0 = 1) ∧ ((b false).phase = n → result s t L 0 = 0)))) ∧
  (∀ (s : State) (w : Nat), w < s.waves.length →
    ∃ t, exec (.barrierWaitRelease w) s = .next t ∧ t = { s with waves := t.waves, l1 := t.l1 } ∧ (∀ j, j ≠ w → t.waves[j]? = s.waves[j]?) ∧
      ∀ L, L < 32 →
        let l := (s.waveAt w).lane L
        let view := s.asWave w 0 l.pc
        let free := l.st = .parked ∧ ∃ sc sp a tok pl, l.wait = .barrier sc sp a tok ∧ view.laneLoc sp true false 0 a.toNat 16 16 = .ok pl ∧
          view.barPhase pl ≠ tok.toNat
        (free → (t.waveAt w).lane L = { l with st := .running, wait := .none, pc := l.after, bpos := l.bpos + 1 }) ∧
        (¬free → (t.waveAt w).lane L = l))

/-- R286: waitval reads its location. Where the condition holds in every lane, the lanes go on with the values read; in a lane where it does not,
nothing is returned and the group stays parked, to be read again by the event. R286: the event reads a wave's parked waitvals again: a lane whose
condition now holds on a readable location takes the value, and a group of which every lane is satisfied goes on. -/
def Obligations.ValueWaits : Prop :=
  (∀ (s : State) (ty : Ty) (m : MMod) (a v : Opnd) (cond : BitVec 30), Issuing s →
    let x := accessAt m true false ty.bytes fun L => (s.opnd (addrTy m.space) a L).toNat
    let u := touched s x
    let e := Ty.elem ty
    let b := fun L => s.el ty v L 0
    let codes : List Cmp := [.eq, .ne, .lt, .le, .gt, .ge]
    let holds := fun (L : Nat) (r : Val) => iCmp (codes.getD (min cond.toNat 5) .eq) e (elemAt r e.width 0) (b L) = true
    ∀ (pl : Nat → Place) (r : Nat → Val), Goes s x →
      (∀ L, On s L → u.laneLoc m.space true false L (x.addr L) ty.bytes ty.bytes = .ok (pl L) ∧ (pl L).isFab = false ∧ u.placeBad m ty.bytes (pl L) = false ∧
        x.addr L < 2 ^ 64 ∧ r L = valOfBytes ((u.met ty.bytes (pl L)).atomRead ty.bytes (pl L))) →
      (∀ L, Off s L → (s.wv.lane L).st = .parked → (s.wv.lane L).pc = s.issue.here → ∀ ty m a v c d rs f, (s.wv.lane L).wait ≠ .waitval ty m a v c d rs f) →
      (∀ L, On s L → (s.wv.lane L).pc = s.issue.here) → (∃ L, On s L) →
      ((∀ L, On s L → holds L (r L)) → ∃ t, exec (.waitval ty m a v cond) s = .next t ∧
        ∀ L, On s L → result s t L 0 = r L ∧ (t.wv.lane L).st = .running ∧ (t.wv.lane L).pc = s.issue.next) ∧
      ((∃ L, On s L ∧ ¬holds L (r L)) → ∃ t, exec (.waitval ty m a v cond) s = .next t ∧
        ∀ L, On s L → (t.wv.lane L).st = .parked ∧ (t.wv.lane L).pc = s.issue.here ∧ (t.wv.lane L).after = s.issue.next ∧
          ∃ k c d rs f, (t.wv.lane L).wait = .waitval ty m (BitVec.ofNat 64 (x.addr L)) k c d rs f ∧ (f = true ↔ holds L (r L)))) ∧
  (∀ (s : State) (w L : Nat) (ty : Ty) (m : MMod) (a : Dword) (v : Val) (c d : Nat) (rs : List (Nat × Nat)) (p : Place),
    w < s.waves.length → L < 32 → (s.waveAt w).lanes.length = 32 →
    let l := (s.waveAt w).lane L
    let view := s.asWave w 0 l.pc
    l.st = .parked → l.wait = .waitval ty m a v c d rs false → l.frames ≠ [] →
    (∀ M, M < 32 → M ≠ L → ((s.waveAt w).lane M).st ≠ .parked) → m.ord = .relaxed →
    view.laneLoc m.space true false L a.toNat ty.bytes ty.bytes = .ok p → p.isFab = false → view.placeBad m ty.bytes p = false →
    let r := valOfBytes ((view.met ty.bytes p).atomRead ty.bytes p)
    ∃ t, exec (.waitvalReread w) s = .next t ∧ t = { s with waves := t.waves, fabReqs := t.fabReqs, l1 := t.l1, rdc := t.rdc, rdcFills := t.rdcFills, shr := t.shr, hints := t.hints } ∧
      (∀ j, j ≠ w → t.waves[j]? = s.waves[j]?) ∧
      (waitCond ty c r v = true → (t.waveAt w).lane L =
        { (l.setVal d r).putVec rs r with st := .running, wait := .none, pc := l.after, bpos := l.bpos + 1 } ∧ ((t.waveAt w).lane L).val d = r) ∧
      (waitCond ty c r v = false → (t.waveAt w).lane L = l))

/-! ## Matrix instructions and the querns (11_matrix.md) -/

/-- R288, R308, R309, R318, R320, R321, R399: a matrix operation whose checks pass is queued at its quern when the core holds the quern's window,
has fewer than 8 operations queued there and has tile slots, and the wave goes on; before that it offers the operation and waits, and an ordered one
that meets a full queue faults. Nothing else happens at issue. R310, R312, R322, R323, R324: mdesc packs its fields into the descriptor, or takes
the cause of its checks; mquery; mwait waits until no operation that names the tile is left, and delivers the pending fault of an mld that it
covers; and a quern takes up the offer of a wave whose core holds its window, while fewer than 8 operations are queued. -/
def Obligations.MatrixIssueAndQueries : Prop :=
  (∀ (s : State) (fa fb : Elem) (xa xb : Ty) (afrag sat : Bool) (m : MMod) (c a b k x y : Opnd) (fmt : BitVec 30), Issuing s →
    let kk := s.uniNat tyN32 k
    let va := s.uni tyV2n64 a
    let vb := s.uni tyV2n64 b
    let tm := tileTM s.wv.die
    let tn := tileTN s.wv.die
    let padA := fun w => (Desc.ofVal va).pieces w tm (kk / 32)
    let padB := fun w => (Desc.ofVal vb).pieces w tn (kk / 32)
    let scs := (Desc.ofVal va).scales tm (kk / 32) ++ (Desc.ofVal vb).scales tn (kk / 32)
    let sized := kk % 32 = 0 ∧ 32 ≤ kk ∧ kk ≤ 4096
    let inside := fun (ps qs : List Nat) => (∀ p ∈ ps, p + 16 ≤ s.wg.spadB) ∧ (∀ p ∈ qs, p < s.wg.spadB) ∧
      s.absentOf ((ps.map fun p => (p, 16)) ++ qs.map fun p => (p, 1)) = []
    let at_ := s.uniNat (addrTy m.space) x
    let pitch := s.uniNat tyN32 y
    let amax := s.uniNat tyA64 c
    let fenced := s.wv.opfence = true ∧ (s.quiet = false ∨ ∃ q ∈ s.quern, q.wave = s.wv.token ∧ q.stores = true ∧ q.stage < 2)
    let ready := ¬fenced ∧ (s.slots.filter fun e => e.1 == s.gcore).length ≤ 13
    let opens := s.windowOpen s.issue.wave = true ∧ s.queuedOps s.wv.die (s.wv.core / 4) (s.wv.core % 4 / 2) s.wv.core < 8
    let sends := fun (i : Instr) (dst : Nat) (srcs : List Nat) (vals : List Val) =>
      (ready → opens → ∃ t q, exec i s = .next t ∧ t.quern = s.quern ++ [q] ∧ q.instr = i ∧ q.dst = dst ∧ q.srcs = srcs ∧
        q.vals = vals ∧ q.wave = s.wv.token ∧ q.stage = 0 ∧ q.die = s.wv.die ∧ q.cluster = s.wv.core / 4 ∧ q.quern = s.wv.core % 4 / 2 ∧
        q.undef = [] ∧ (q.taint = true ↔ ∃ e ∈ s.wv.tilePend, (e.1 = dst ∨ e.1 ∈ srcs) ∧ s.cycle < e.2) ∧
        t.wv.qoffer = false ∧ t.wv.opfence = false ∧ t = { s with waves := t.waves, slots := t.slots, quern := t.quern } ∧
        (∀ j, j ≠ s.issue.wave → t.waves[j]? = s.waves[j]?) ∧
        ∀ L, (Off s L → t.wv.lane L = s.wv.lane L) ∧ (On s L → LaneOn s (s.wv.lane L) (t.wv.lane L))) ∧
      (¬fenced → ¬opens → ¬(s.ordered = true ∧ s.windowOpen s.issue.wave = true) → exec i s = .next (s.updWv fun w => { w with qoffer := true })) ∧
      (¬fenced → ¬opens → s.ordered = true → s.windowOpen s.issue.wave = true → exec i s = .next (s.faultAll (causeT 0x31 1))) ∧
      (fenced → Waits i s)
    sends .mzero s.resTile [] [] ∧
    sends (.mtrans c) s.resTile [s.tileOpnd c] [] ∧
    (sized → (afrag = true ∨ elemAt va 64 0 % 2 ^ 7 = 0) → elemAt vb 64 0 % 2 ^ 7 = 0 → (afrag = true → kk = tn) →
      inside ((if afrag then [] else padA fa.width) ++ padB fb.width) [] →
      sends (.mma fa fb afrag sat c a b k) s.resTile (s.tileOpnd c :: (if afrag then [s.tileOpnd a] else []))
        [if afrag then 0 else va, vb, BitVec.ofNat 256 kk]) ∧
    (sized → elemAt va 64 0 % 2 ^ 7 = 0 → elemAt vb 64 0 % 2 ^ 7 = 0 → elemAt va 64 1 % 2 ^ 30 = 0 → elemAt vb 64 1 % 2 ^ 30 = 0 →
      inside (padA (opWidth xa) ++ padB (opWidth xb)) scs →
      sends (.mmamx xa xb c a b k) s.resTile [s.tileOpnd c] [va, vb, BitVec.ofNat 256 kk]) ∧
    (s.tileCauses m.space false at_ pitch (fmtBytes fmt.toNat) = [] → s.absentOf (s.tilePads m.space at_ pitch (fmtBytes fmt.toNat)) = [] →
      sends (.mld m x y fmt) s.resTile [] [BitVec.ofNat 256 at_, BitVec.ofNat 256 pitch]) ∧
    (s.tileCauses m.space true at_ pitch (fmtBytes fmt.toNat) = [] → s.absentOf (s.tilePads m.space at_ pitch (fmtBytes fmt.toNat)) = [] →
      fmt.toNat / 8 % 2 = 0 → (m.ord.code < 2 ∨ s.quiet = true) →
      sends (.mst m x y a fmt c) (s.tileOpnd a) [] [BitVec.ofNat 256 at_, BitVec.ofNat 256 pitch, BitVec.ofNat 256 amax])) ∧
  (∀ (s : State) (ba rp tp ro sb sr t : Opnd) (code : BitVec 30) (w : Nat), Issuing s →
    let f := fun o L => (s.opnd tyN32 o L).toNat
    let good := fun L => f ba L % 16 = 0 ∧ f rp L % 16 = 0 ∧ f tp L % 16 = 0 ∧ f sb L % 16 = 0 ∧ (f ro L ≠ 0 → f rp L % 128 = 0)
    let small := fun L => f ba L < 2 ^ 24 ∧ f tp L < 2 ^ 24 ∧ f sb L < 2 ^ 24 ∧ f rp L < 2 ^ 18 ∧ f sr L < 2 ^ 14 ∧ f ro L ≤ 7
    let desc := Instr.mdesc ba rp tp ro sb sr
    let v := s.waveAt w
    ((∀ L, On s L → good L ∧ small L) → Gives desc s fun L d => Desc.ofVal d =
      { base := f ba L, rpitch := f rp L, tpitch := f tp L, rot := f ro L, sbase := f sb L, srpitch := f sr L } ∧
      elemAt d 64 0 % 2 ^ 7 = 0 ∧ elemAt d 64 1 % 2 ^ 30 = 0) ∧
    ((∃ L, On s L ∧ ¬good L) → ∃ prim sec, exec desc s = .next (s.fault (cause 0x23) prim sec 0) ∧
      (∀ L, (inMask prim L = true ↔ On s L ∧ ¬good L)) ∧ ∀ L, (inMask sec L = true ↔ On s L ∧ good L ∧ ¬small L)) ∧
    ((∀ L, On s L → good L) → (∃ L, On s L ∧ ¬small L) → ∃ prim, exec desc s = .next (s.fault (causeT 0x26 4) prim 0 0) ∧
      ∀ L, (inMask prim L = true ↔ On s L ∧ ¬small L)) ∧
    Gives (.mquery code) s (fun _ d => d.toNat =
      if code = 0 then (if dieClass s.wv.die = 1 then 64 else 16) else if code = 1 then (if dieClass s.wv.die = 1 then 128 else 32)
      else if code = 2 then 4096 else s.wv.core % 4 / 2) ∧
    (s.tileBusy s.wv.token (s.tileOpnd t) = true → Waits (.mwait t) s) ∧
    (s.tileBusy s.wv.token (s.tileOpnd t) = false → s.wv.pend = none →
      ∃ u, exec (.mwait t) s = .next u ∧ ResultsOnly { s with quern := u.quern, l1 := u.l1 } u 0 ∧
        u.quern = s.quern.filter fun q => !(q.wave == s.wv.token && (q.dst == s.tileOpnd t || q.srcs.contains (s.tileOpnd t)))) ∧
    (∀ f u, s.tileBusy s.wv.token (s.tileOpnd t) = false → s.wv.pend = some f → f.tile = some (s.tileOpnd t) → s.deliverPend = some u →
      exec (.mwait t) s = .next u) ∧
    (w < s.waves.length → v.live = true → v.qoffer = true →
      let d := v.die
      let c := v.core / 4
      let q := v.core % 4 / 2
      (s.windowOpen w = true → s.queuedOps d c q v.core < 8 → ∃ u, exec (.quernAccept d c q w) s = .next u ∧
        u = { s with waves := u.waves } ∧ u.waveAt w = { v with qoffer := false } ∧ ∀ j, j ≠ w → u.waves[j]? = s.waves[j]?) ∧
      (s.windowOpen w = false ∨ 8 ≤ s.queuedOps d c q v.core → exec (.quernAccept d c q w) s = .next s)))

/-- R312, R313, R317, R318, R319, R320, R321: the oldest operation of a quern performs: each result element is what its rule computes from the
operands as they stand, no other tile of the wave changes, and the operation is complete. -/
def Obligations.MatrixResults : Prop :=
  ∀ (s : State) (d c q wi : Nat) (o : QuernOp), wi < s.waves.length →
    s.quern.find? (fun o => o.die == d && o.cluster == c && o.quern == q && decide (o.stage < 2)) = some o → s.waveOf o.wave = some wi →
    o.taint = false → o.undef = [] → (s.waveAt wi).faulted = false →
    let v := s.waveAt wi
    let tm := tileTM v.die
    let tn := tileTN v.die
    let spad := (s.wgAt v.wg).spad
    let rd := fun a => (cget memDflt spad a).toNat
    let dsc := fun i => Desc.ofVal (o.vals.getD i 0)
    let kk := (o.vals.getD 2 0).toNat
    let acc := fun i j => v.tileAt (o.srcs.getD 0 0) i j
    let src := o.srcs.getD 1 0
    let makes := fun (f : Nat → Nat → Nat) => ∃ t, exec (.quernOpComplete d c q) s = .next t ∧
      (∀ i j, i < tm → j < tn → (t.waveAt wi).tileAt o.dst i j = f i j % 2 ^ 32) ∧
      (∀ n i j, n ≠ o.dst → i < tm → j < tn → (t.waveAt wi).tileAt n i j = v.tileAt n i j) ∧
      t.mem = s.mem ∧ t.wgs = s.wgs ∧ t.quern = s.quern.map fun x => if x == o then { o with stage := 2 } else x
    (o.instr = .mzero → makes fun _ _ => 0) ∧
    (∀ g, o.instr = .mtrans g → ∃ t, exec (.quernOpComplete d c q) s = .next t ∧
      ∀ h i j, h < 2 → i < tm → j < tm → (t.waveAt wi).tileAt o.dst i (h * tm + j) = v.tileAt (o.srcs.getD 0 0) j (h * tm + i)) ∧
    (∀ fa fb sat g1 g2 g3 g4, o.instr = .mma fa fb false sat g1 g2 g3 g4 →
      makes fun i j => mmaElem fa fb kk (acc i j) ((dsc 0).elem rd fa.width i) ((dsc 1).elem rd fb.width j)) ∧
    (∀ fa fb sat g1 g2 g3 g4, o.instr = .mma fa fb true sat g1 g2 g3 g4 →
      makes fun i j => mmaElem fa fb kk (acc i j) (fun n => (fConvert .f32 fa { exactMod with sat := sat } 0 (v.tileAt src i n)).1)
        ((dsc 1).elem rd fb.width j)) ∧
    (∀ fa fb g1 g2 g3 g4, o.instr = .mmamx fa fb g1 g2 g3 g4 →
      makes fun i j => mmamxElem (mxWidth fa) (mxWidth fb) kk (acc i j) ((dsc 0).elem rd (mxWidth fa) i) ((dsc 1).elem rd (mxWidth fb) j)
        (fun g => rd ((dsc 0).sbase + i * (dsc 0).srpitch + g)) (fun g => rd ((dsc 1).sbase + j * (dsc 1).srpitch + g))) ∧
    (∀ m g1 g2 fmt, o.instr = .mld m g1 g2 fmt → m.space = .spad → (s.wgAt v.wg).badPad = [] →
      let at_ := (o.vals.getD 0 0).toNat
      let p := (o.vals.getD 1 0).toNat
      let e := fmtBytes fmt.toNat
      let code := fun i j => natOfBytes (readBytes spad (at_ + i * p + j * e) e)
      ∃ t, exec (.quernOpComplete d c q) s = .next t ∧ t.mem = s.mem ∧ ∀ i j, i < tm → j < tn → (t.waveAt wi).tileAt o.dst i j =
        (if e = 4 then code i j else (fConvert (fmtElem fmt.toNat) .f32 exactMod 0 (code i j)).1) % 2 ^ 32) ∧
    (∀ m g1 g2 g3 fmt g4, o.instr = .mst m g1 g2 g3 fmt g4 → o.stage = 0 → m.ord.code < 2 → m.space = .spad → v.wg < s.wgs.length →
      fmt.toNat / 8 % 2 = 0 → (s.wgAt v.wg).badPad = [] →
      let at_ := (o.vals.getD 0 0).toNat
      let p := (o.vals.getD 1 0).toNat
      let e := fmtBytes fmt.toNat
      tn * e ≤ p → ∃ t, exec (.quernOpComplete d c q) s = .next t ∧ t.mem = s.mem ∧
        (∀ i j, i < tm → j < tn → (t.wgAt v.wg).read (at_ + i * p + j * e) e =
          if e = 4 then bytesOfNat 4 (v.tileAt o.dst i j) else bytesOfNat 2 (fConvert .f32 (fmtElem fmt.toNat) exactMod 0 (v.tileAt o.dst i j)).1) ∧
        ∀ b, (∀ i, i < tm → ¬inRun (at_ + i * p) (tn * e) b) → (t.wgAt v.wg).read b 1 = (s.wgAt v.wg).read b 1)

/-! ## Asynchronous engines (12_async_engines.md) -/

/-- R328, R343, R344: engbind binds the ring set to the lowest free handle, or answers all ones when no handle or slot is free; cmpnext retires
records; cmpwait returns CTAIL or parks; engstat reads the leat; engunbind drains. An unknown handle takes fault 0x26 with TAG 8. -/
def Obligations.EngineInstructions : Prop :=
  ∀ (s : State) (o1 o2 o3 o4 o5 : Opnd) (code : BitVec 30), Issuing s → s.wv.wg < s.wgs.length → s.wg.st = .resident →
    let ctl := s.uniNat tyN32 o1
    let free := fun h => s.bindOf s.wv.wg h = none
    let slotFree := fun k => ∀ x ∈ s.bindings, ¬(s.leatOf x.wg = s.leatOf s.wv.wg ∧ (s.wgAt x.wg).st ≠ .saved ∧ x.slot = k)
    let bind := Instr.engbind o1 o2 o3 o4 o5
    let sound := s.bindCause ctl (s.uniNat tyN32 o2) (s.uniNat tyN32 o3) (s.uniNat tyN32 o4) (s.uniNat tyN32 o5) = none ∧
      s.wg.absentIn ctl 64 = []
    let goesOn := fun (t : State) => ∀ L, (Off s L → t.wv.lane L = s.wv.lane L) ∧ (On s L → LaneOn s (s.wv.lane L) (t.wv.lane L))
    (∀ h k, sound → s.settled = true → h < 4 → free h → (∀ g, g < h → ¬free g) → k < 16 → slotFree k → (∀ g, g < k → ¬slotFree g) →
      ∃ t b, exec bind s = .next t ∧ t.bindings = s.bindings ++ [b] ∧ b.wg = s.wv.wg ∧ b.handle = h ∧ b.slot = k ∧ b.ctl = ctl ∧
        b.head = 0 ∧ b.ctail = 0 ∧ b.st = 1 ∧ (t.wg.read ctl 20).map BitVec.toNat = List.replicate 16 0 ++ [1, 0, 0, 0] ∧
        (∀ a, ¬inRun ctl 20 a → t.wg.read a 1 = s.wg.read a 1) ∧ goesOn t ∧ ∀ L, On s L → (result s t L 0).toNat = h) ∧
    (sound → ((∀ h, h < 4 → ¬free h) ∨ ∀ k, k < 16 → ¬slotFree k) → Gives bind s fun _ d => d.toNat = 0xFFFFFFFF) ∧
    (ctl % 64 ≠ 0 → exec bind s = .next (s.faultAll (cause 0x23))) ∧
    (free ctl → ∀ i ∈ [Instr.engunbind o1, .cmpwait o1 o2, .cmpnext o1 o2, .engstat o1 code], exec i s = .next (s.faultAll (causeT 0x26 8))) ∧
    ∀ b, s.bindOf s.wv.wg ctl = some b →
      let n := s.uniNat tyN32 o2
      let done := (b.ctail - BitVec.ofNat 32 n).toInt
      let chead := BitVec.ofNat 32 (natOfBytes (s.wg.read (b.ctl + 12) 4))
      let new := chead + BitVec.ofNat 32 n
      (0 ≤ done → Gives (.cmpwait o1 o2) s fun _ d => d.toNat = b.ctail.toNat) ∧
      (done < 0 → ∃ t, exec (.cmpwait o1 o2) s = .next t ∧ ∀ L, On s L → (t.wv.lane L).st = .parked ∧ (t.wv.lane L).after = s.issue.next ∧
        ∃ d ds, (t.wv.lane L).wait = .cmpwait b.handle (BitVec.ofNat 32 n) d ds) ∧
      ((b.ctail - chead).toNat < n → exec (.cmpnext o1 o2) s = .next (s.faultAll (causeT 0x26 8))) ∧
      (n ≤ (b.ctail - chead).toNat → s.wg.absentIn b.ctl 64 = [] → s.settled = true → ∃ t, exec (.cmpnext o1 o2) s = .next t ∧
        t.wg.read (b.ctl + 12) 4 = bytesOfNat 4 new.toNat ∧ (∀ a, ¬inRun (b.ctl + 12) 4 a → t.wg.read a 1 = s.wg.read a 1) ∧ goesOn t ∧
        ∀ L, On s L → (b.ctail = new → (result s t L 0).toNat = 0xFFFFFFFF) ∧
          (b.ctail ≠ new → result s t L 0 = BitVec.ofNat 256 (b.crbase + 16 * (new.toNat % b.ncpl)))) ∧
      Gives (.engstat o1 code) s (fun _ d => d.toNat % 2 ^ 32 = (if code = 0 then (s.begunOf b).length else if code = 1 then b.head.toNat
        else if code = 2 then b.ctail.toNat else b.st) % 2 ^ 32) ∧
      (b.st = 1 → b.halted = false → b.wg = s.wv.wg → b.handle = ctl →
        let stop := BitVec.ofNat 32 (natOfBytes (s.wg.read b.ctl 4))
        ((s.cmdsOf b) = [] → (stop - b.head).toInt ≤ 0 → ∃ t, exec (.engunbind o1) s = .next t ∧ t.bindOf s.wv.wg ctl = none ∧
          t.wg.read (b.ctl + 16) 4 = bytesOfNat 4 0 ∧ goesOn t) ∧
        (0 < (stop - b.head).toInt → ∃ t c, exec (.engunbind o1) s = .next t ∧ t.bindOf s.wv.wg ctl = some c ∧ c.st = 3 ∧ c.stopAt = stop ∧
          t.wg.read (b.ctl + 16) 4 = bytesOfNat 4 3 ∧ ∀ L, On s L → (t.wv.lane L).st = .parked ∧ (t.wv.lane L).wait = .engunbind b.handle stop))

/-- R330, R331, R334, R337: the leat fetches the next published command of a binding; a NOTIFY more than NCMD entries past HEAD halts the binding
with the record 0x05 instead; it begins the fetched command when a record is free and its turn has come, HEAD passing its entries; and it completes
the oldest finished command: the record stands in the completion ring and CTAIL rises by one. R332, R335, R338, R340: the copies, gathers, scatters,
fills and content commands from and to a workgroup's scratchpad: each run's bytes stand at its destination in order, no other byte changes, the
lines that its begin cleared are present and the command has finished with its byte count. The bytes of a command whose source and destination
overlap are free values and not named here. -/
def Obligations.EngineRingsAndCommands : Prop :=
  (∀ (s : State) (n : Nat), n < s.bindings.length →
    let b := s.bindAt n
    let g := s.wgAt b.wg
    let notify := BitVec.ofNat 32 (natOfBytes (g.read b.ctl 4))
    let lim := if b.st = 3 then b.stopAt else notify
    let within := (notify - b.head).toNat ≤ b.ncmd
    let entry := fun (i : Word) => g.read (b.cbase + 32 * (i.toNat % b.ncmd)) 32
    let nent := natAt (entry b.head) 1 1
    let k := if 1 ≤ nent ∧ nent ≤ 4 then nent else 1
    b.wg < s.wgs.length → g.st = .resident → s.halted = false → s.heldWg b.wg = false → b.halted = false → b.st = 1 ∨ b.st = 3 → s.bindOf b.wg b.handle = some b →
    ((∀ c ∈ s.cmdsOf b, c.begun = true) → within → (k : Int) ≤ (lim - b.head).toInt →
      ∃ t c, exec (.notifyFetch n) s = .next t ∧ t = { s with cmds := s.cmds ++ [c], nextId := s.nextId + 1 } ∧ c.wg = b.wg ∧ c.handle = b.handle ∧
        c.seq = b.head ∧ c.begun = false ∧ c.finished = false ∧ c.bytes = (List.range k).flatMap fun i => entry (b.head + BitVec.ofNat 32 i)) ∧
    (within → ((∃ c ∈ s.cmdsOf b, c.begun = false) ∨ (lim - b.head).toInt < k) → exec (.notifyFetch n) s = .next s) ∧
    (¬within →
      ∃ t c, exec (.notifyFetch n) s = .next t ∧ (∀ x, x ∈ t.cmds ↔ x = c ∨ (x ∈ s.cmds ∧ ¬(x ∈ s.cmdsOf b ∧ x.begun = false))) ∧ c.status = 5 ∧ c.seq = b.head ∧ c.finished = true ∧
        (t.wgAt b.wg).read (b.ctl + 16) 4 = bytesOfNat 4 2) ∧
    (∀ c, within → s.mayBegin b = true → s.leatTurn b = true → (s.cmdsOf b).find? (fun c => !c.begun) = some c →
      ∃ t, exec (.commandBegin n) s = .next t ∧
        (c.kind ≠ 7 ∨ s.cmdCheck c ≠ none →
          (t.wgAt b.wg).read (b.ctl + 4) 4 = bytesOfNat 4 (b.head + BitVec.ofNat 32 (c.bytes.length / 32)).toNat) ∧
        (s.cmdCheck c = none → c.kind ≠ 7 → t.cmds = s.cmds.map (fun x => if x.id == c.id then { c with begun := true, lines := destLines c (s.cmdRuns c) } else x) ∧
          ∀ l ∈ destLines c (s.cmdRuns c), (t.wgAt c.wg).absent.contains l = true) ∧
        ∀ st fc off, s.cmdCheck c = some (st, fc, off) → t.cmds = s.cmds.map fun x =>
          if x.id == c.id then { x with begun := true, finished := true, status := st, fcode := fc, foff := off } else x) ∧
    ∀ c cs, (∀ x ∈ s.bindings, x.wg = b.wg → x.st ≠ 2 ∧ x.st ≠ 3) → s.begunOf b = c :: cs → c.finished = true → (∀ m ∈ s.msgs, m.cmd ≠ some c.id) → s.stagingFull = false → c.bar = false → c.held = none →
      let at_ := b.crbase + 16 * (b.ctail.toNat % b.ncpl)
      at_ + 16 ≤ b.ctl ∨ b.ctl + 64 ≤ at_ →
      ∃ t, exec (.commandComplete n) s = .next t ∧ (t.wgAt b.wg).read at_ 16 = c.record ∧
        (t.wgAt b.wg).read (b.ctl + 8) 4 = bytesOfNat 4 (b.ctail + 1).toNat ∧ t.cmds = s.cmds.filter (fun x => x.id != c.id) ∧ t.mem = s.mem) ∧
  (∀ (s : State) (c : Command) (content : Nat → Byte), s.cmds.find? (fun x => x.id == c.id) = some c → c.begun = true → c.finished = false →
    s.cmdCheck c = none → c.dsp = 1 → (c.reads = true → c.ssp = 1) → c.wg < s.wgs.length → (s.wgAt c.wg).st = .resident → s.stagingFull = false →
    s.heldWg c.wg = false → (s.wgAt c.wg).badPad = [] →
    let g := s.wgAt c.wg
    let rs := s.cmdRuns c
    (∀ r ∈ rs, ∀ i, i < r.n → c.overlap rs (r.dst + i) = false) →
    let moves := fun (i : Instr) (data : Run → Nat → Byte) => ∃ t, exec i s = .next t ∧ t.mem = s.mem ∧
      (∀ k r j, rs[k]? = some r → j < r.n → (∀ (k' : Nat) (r' : Run), k < k' → rs[k']? = some r' → ¬inRun r'.dst r'.n (r.dst + j)) →
        (t.wgAt c.wg).read (r.dst + j) 1 = [data r j]) ∧
      (∀ a, (∀ r ∈ rs, ¬inRun r.dst r.n a) → (t.wgAt c.wg).read a 1 = g.read a 1) ∧
      (∀ l ∈ c.lines, (t.wgAt c.wg).absent.contains l = false) ∧
      t.cmds = s.cmds.map fun x => if x.id == c.id then
        { x with finished := true, status := 1, fcode := 0, foff := 0, written := (rs.map Run.n).sum, lines := [] } else x
    let copied := fun (r : Run) j => (g.read (r.src + j) 1).headD 0
    (c.kind = 1 → moves (.copy c.id) copied) ∧ (c.kind = 2 → moves (.copyNd c.id) copied) ∧
    (c.kind = 3 → moves (.gather c.id) copied) ∧ (c.kind = 4 → moves (.scatter c.id) copied) ∧
    (c.kind = 5 → moves (.engineFill c.id) fun _ j => BitVec.ofNat 8 (c.f (16 + j % 8) 1)) ∧
    (∀ r sh, c.kind = 7 → s.caoutRegion c = some r → s.caShape r (c.f 8 16) = .ok sh → c.f 40 8 + c.len ≤ sh.1 →
      (∀ o n, o + n ≤ c.len → s.caContent r (c.f 8 16) (c.f 40 8 + o) n = .ok ((List.range n).map fun i => content (o + i))) →
      moves (.caout c.id) fun _ j => content j))

/-- R339: a reducing copy sends one part to each of the 32 vaults of the home die, in the sequence order of its region; the part whose number a
vault expects is applied there, each element as one atomic, and the vault expects the next; a part that has waited 2^24 cycles fails its region. -/
def Obligations.ReducingCopies : Prop :=
  ∀ (s : State),
    (∀ (c : Command) (home : Nat) (u : State), s.cmds.find? (fun x => x.id == c.id) = some c → c.begun = true → c.finished = false → c.kind = 6 →
      (∀ p ∈ s.parts, p.cmd ≠ c.id) → s.fabReady c.owner default (s.cmdAsks c (cmdPieces (s.cmdRuns c))) = true → 
      u = (List.range (c.len / (c.ety.getD tyN32).bytes)).foldl (fun u i =>
        u.rcTouch c (c.src + i * (c.ety.getD tyN32).bytes) (c.dst + i * (c.ety.getD tyN32).bytes)) s → u.cmdHomes c = [home] → home < 8 →
      (u.seqRegion home (c.f 32 4)).failed = false → (u.rcElems c (c.ety.getD tyN32) (c.len / (c.ety.getD tyN32).bytes) 0).2 = none →
      let es := (u.rcElems c (c.ety.getD tyN32) (c.len / (c.ety.getD tyN32).bytes) 0).1
      ∃ t ps, exec (.rcopy c.id) s = .next t ∧ t.parts = u.parts ++ ps ∧ ps.length = 32 ∧ t.mem = u.mem ∧
        ∀ v p, ps[v]? = some p → p.vault = v ∧ p.die = home ∧ p.region = c.f 32 4 ∧ p.seq = BitVec.ofNat 32 (c.f 28 4) ∧ p.cmd = c.id ∧
          p.elems = (es.filter fun e => vaultOf e.2.dpa == v).map Prod.fst) ∧
    (∀ (d v r : Nat) (p : SeqPart), v < 32 → (s.seqRegion d r).exp.length = 32 → s.ckpt.on = false →
      s.parts.find? (fun p => p.die == d && p.region == r && p.vault == v && p.seq == (s.seqRegion d r).exp.getD v 0) = some p →
      (∀ c, s.cmds.find? (fun x => x.id == p.cmd) = some c → s.wgMerged c.wg = false) →
      let n := p.ty.bytes
      p.elems.Pairwise (fun e f => ∀ a, inRun e.key n a → ¬inRun f.key n a) →
      (∀ e ∈ p.elems, e.undef = false ∧ s.frameSt e.key ≠ 3 ∧ s.heldOn e.key n = false ∧
        ∀ l, e.key / 128 ≤ l → l ≤ (e.key + n - 1) / 128 → (cget (zeros 6) s.keyids l).toNat = e.keyid) →
      ∃ t, exec (.vaultPartApply d v r) s = .next t ∧ t.parts = s.parts.erase p ∧
        (t.seqRegion d r).exp.getD v 0 = (s.seqRegion d r).exp.getD v 0 + 1 ∧
        (∀ e ∈ p.elems, readBytes t.mem e.key n = bytesOfNat n (atomF (rcOpc p.op p.ty) p.ty (valOfBytes (readBytes s.mem e.key n)) e.v 0).toNat) ∧
        KeepsMem s t fun a => ∃ e ∈ p.elems, inRun e.key n a) ∧
    (∀ (d v r : Nat),
      let late := ∃ p ∈ s.parts, p.die = d ∧ p.region = r ∧ p.vault = v ∧ p.seq ≠ (s.seqRegion d r).exp.getD v 0 ∧ p.since + 2 ^ 24 ≤ s.cycle
      (¬late → exec (.sequenceGapTimeout d v r) s = .next s) ∧
      (late → ∃ t, exec (.sequenceGapTimeout d v r) s = .next t ∧ (t.seqRegion d r).failed = true ∧ t.mem = s.mem ∧
        (∀ p, p ∈ t.parts ↔ p ∈ s.parts ∧ ¬(p.die = d ∧ p.region = r)) ∧
        ∀ p ∈ s.parts, p.die = d → p.region = r → ∀ c ∈ t.cmds, c.id = p.cmd → c.status = 2))

/-! ## Content-addressed regions (13_content_addressed.md) -/

/-- R352, R353, R355, R357, R363, R365-R371: each content instruction is one transaction of its lanes in ascending order. caput answers the name of
its line by lookup-or-allocate; canode that of a well-formed node, whose children gain a reference when it is newly stored; caget the address of a
line; caref and cadrop move a count; caswap exchanges a root slot; cawalk finds a leaf; castat answers its value. A base that is no enabled region's
takes fault 0x21 with TAG 4, and a busy region holds the instruction back. -/
def Obligations.ContentInstructions : Prop :=
  ∀ (s : State) (rb x y z : Opnd) (cs : Fin 7 → Opnd) (code : BitVec 30) (spad : Bool), Issuing s →
    let all := [Instr.caput spad rb x, .caget rb x, .caref rb x y, .cadrop rb x y, .caswap rb x y z, .cawalk rb x y, .castat rb x code,
      .canode rb x (cs 0) (cs 1) (cs 2) (cs 3) (cs 4) (cs 5) (cs 6)]
    let reg := fun L => (s.caReg rb L).getD default
    let name := fun o L => s.nameOpnd o L
    (∀ i ∈ all, s.merged = false → (∃ L, On s L) → (∀ L, On s L → s.caReg rb L = none) →
      (∀ L, On s L → (1 ≤ s.caK y L ∧ s.caK y L ≤ 2 ^ 31) ∧ (∃ p, s.placeOf (s.caputAccess spad x) L = .ok p) ∧
        ∃ p, s.atomLoc (s.rootOp x) none L = .ok p) →
      exec i s = .next (s.fault (causeT 0x21 4) s.issue.mask 0 (s.opnd tyA64 rb s.lowLane).toNat)) ∧
    (∀ i ∈ [Instr.caget rb x, .cawalk rb x y, .castat rb x code], (∀ L, On s L → (s.caReg rb L).isSome = true) →
      ((∃ L, On s L ∧ s.caBusy (reg L) = true) ∨ s.settled = false) → Waits i s) ∧
    (CaReady s rb →
      (∀ (a : Access) (u : State),
          a = accessAt (caMod (if spad then .spad else .global)) true false 128 (fun L => (s.opnd (if spad then tyN32 else tyA64) x L).toNat) →
        (∀ L, On s L → ∃ p, s.placeOf a L = .ok p ∧ p.isFab = false ∧
          s.placeBad (caMod (if spad then .spad else .global)) 128 p = false) →
        s.absentOf (padRanges 128 (s.activeLanes.map (s.placeAt a))) = [] → u = touched s a →
        Transacts (.caput spad rb x) s u 1 fun L v w d => ∃ n b, v.lookupAlloc (reg L) (u.laneBytes a L) false = .ok (n, b, w) ∧
          d = BitVec.ofNat 256 n) ∧
      Transacts (.caget rb x) s s 1 (fun L v w d => w = v ∧
        ((name x L = 1 ∧ d = BitVec.ofNat 256 ((reg L).base.toNat + 0xF80)) ∨
         (name x L ≠ 1 ∧ ∃ e, v.caNeed (reg L) (name x L) = .ok e ∧ d = BitVec.ofNat 256 ((reg L).lineVa e.slot)))) ∧
      ((∀ L, On s L → 1 ≤ s.caK y L ∧ s.caK y L ≤ 2 ^ 31) →
        Transacts (.caref rb x y) s s 0 (fun L v w _ => (name x L = 1 ∧ w = v) ∨ (name x L ≠ 1 ∧ ∃ e, v.caNeed (reg L) (name x L) = .ok e ∧
          ((e.count = 0xFFFFFFFF ∧ w = v) ∨ (e.count ≠ 0xFFFFFFFF ∧
            v.putEnt (reg L) { e with count := min (e.count + s.caK y L) 0xFFFFFFFF } = .ok w)))) ∧
        Transacts (.cadrop rb x y) s s 0 (fun L v w _ => (name x L = 1 ∧ w = v) ∨ (name x L ≠ 1 ∧ ∃ e, v.caNeed (reg L) (name x L) = .ok e ∧
          ((e.count = 0xFFFFFFFF ∧ w = v) ∨
           (e.count ≠ 0xFFFFFFFF ∧ s.caK y L < e.count ∧ v.putEnt (reg L) { e with count := e.count - s.caK y L } = .ok w) ∨
           (e.count ≠ 0xFFFFFFFF ∧ s.caK y L = e.count ∧ v.freeLine (reg L) e = .ok w))))) ∧
      (∀ (at_ : Nat → Nat × Phys) (u : State), s.merged = false →
        let a : AtomOp := { opc := 0x20D, ty := tyV2n64, m := caMod .global, addr := (fun L => (s.opnd tyA64 x L).toNat), v := (fun _ => 0), v2 := (fun _ => 0) }
        (∀ L, On s L → s.atomLoc a none L = .ok (.phys (at_ L).1 (at_ L).2) ∧ eFab (at_ L).2.leaf = false ∧ s.remoteCause (at_ L).2 = 0) →
        u = s.activeLanes.foldl (fun u L => u.touchPlace (s.accOf s.wv .global true true) (s.atomPlace a none L)) s →
        Transacts (.caswap rb x y z) s u 1 fun L v w d => v.uncorr (at_ L).2.key = false ∧ v.remoteCause (at_ L).2 = 0 ∧ v.nameThere (reg L) (name y L) = .ok () ∧
          ∃ v1 v', v.nameUp (reg L) (name z L) = .ok v1 ∧ v' = v1.meet (at_ L).2 16 ∧
            let k := (at_ L).2.key
            let old := readNat v'.mem k 16
            d = BitVec.ofNat 256 old ∧
            ((old = name y L ∧ ((v'.l1Drop v'.gcore (lineOf k) 0).homeWriteBy (some v'.gcore) k (bytesOfNat 16 (name z L))).nameDown (reg L) old = .ok w) ∨
             (old ≠ name y L ∧ v'.nameDown (reg L) (name z L) = .ok w))) ∧
      Transacts (.cawalk rb x y) s s 1 (fun L v w d => w = v ∧ ∃ n, v.caLeaf (reg L) (name x L) (s.opnd tyN64 y L).toNat = .ok n ∧
        d = BitVec.ofNat 256 n) ∧
      Transacts (.castat rb x code) s s 1 (fun L v w d => w = v ∧
        let is := fun (n : Nat) => d = BitVec.ofNat 256 n
        ((code = 3 ∧ ∃ r ∈ v.ca, v.ca.find? (fun q => q.slot == (reg L).slot) = some r ∧ is r.drops.length) ∨ (code = 4 ∧ is (v.caLines (reg L))) ∨
         (code.toNat < 3 ∧ name x L = 1 ∧ is (if code = 1 then 5 else 0xFFFFFFFF)) ∨
         (code.toNat < 3 ∧ name x L ≠ 1 ∧ v.caFind (reg L) (name x L) = .ok none ∧ is (if code = 2 then 0xFFFFFFFF else 0)) ∨
         (code.toNat < 3 ∧ name x L ≠ 1 ∧ ∃ e, v.caFind (reg L) (name x L) = .ok (some e) ∧
           is (if code = 0 then e.count else if code = 2 then e.slot
               else 1 + (if e.node then 2 else 0) + if e.count = 0xFFFFFFFF then 4 else 0)))) ∧
      Transacts (.canode rb x (cs 0) (cs 1) (cs 2) (cs 3) (cs 4) (cs 5) (cs 6)) s s 1 (fun L v w d =>
        let bits := (s.opnd tyV2n64 x L).toNat % 2 ^ 128
        let h := CaHdr.ofNat bits
        let kids := (List.finRange 7).map fun i => name (cs i) L
        1 ≤ h.fanout ∧ 1 ≤ h.level ∧ h.level ≤ 12 ∧ (∃ ty, Ty.ofCode h.efmt = some ty) ∧ h.rsv = 0 ∧
        (∀ n ∈ kids.take h.fanout, n ≠ 0) ∧ (∀ n ∈ kids.drop h.fanout, n = 0) ∧
        ∃ shapes n new v', v.caShapes (reg L) (kids.take h.fanout) = .ok shapes ∧ (∀ c ∈ shapes, c.2.2 + 1 = h.level) ∧
          (h.level = 1 → h.leaves = h.fanout ∧ 128 * (h.fanout - 1) < h.total ∧ h.total ≤ 128 * h.fanout) ∧
          (h.level ≠ 1 → h.leaves = (shapes.map fun c => c.2.1).sum ∧ h.total = (shapes.map fun c => c.1).sum ∧
            ∀ c ∈ shapes.dropLast, c.1 = 128 * c.2.1) ∧
          v.lookupAlloc (reg L) (bytesOfNat 16 bits ++ kids.flatMap (bytesOfNat 16)) true = .ok (n, new, v') ∧ d = BitVec.ofNat 256 n ∧
          ((new = false ∧ w = v') ∨ (new = true ∧ (kids.take h.fanout).foldlM (fun t c => t.nameUp (reg L) c) v' = .ok w))))

/-- R350, R352, R353, R364, R370: lookup-or-allocate answers the zero-line name for zero bytes, the name of the LIVE line with these bytes and flag,
and else the lowest free collision index in the lowest free slot, linked at the head of its chain; a freed node queues a drop for each child; a leaf
lies where the node's order puts it; a cause discards the whole transaction and is a late fault. R347, R353: a queued drop is performed in queue
order as a count of one, and one that meets a page cause stays, to be retried; enabling a slot needs LOGN 11 to 31, a region key and no overlap, and
sets BUSY; the end of the initialisation clears BUSY and LINES; disabling discards the queued drops. -/
def Obligations.ContentLinesAndRegions : Prop :=
  ((∀ (s : State) (r : CaRegion) (line : List Byte), (∀ b ∈ line, b = 0) → s.lookupAlloc r line false = .ok (1, false, s)) ∧
  (∀ (s : State) (r : CaRegion) (line : List Byte) (node : Bool) (es : List CaEnt), (node = true ∨ ∃ b ∈ line, b ≠ 0) →
    let h := s.lineHash r line
    let live := fun (e : CaEnt) => e.live = true ∧ e.name / 256 = h
    let holds := fun (e : CaEnt) => s.caRead r (r.lineVa e.slot) 128 = .ok line ∧ e.node = node
    let index := fun i => i < 256 ∧ ¬(h = 0 ∧ i ≤ 1) ∧ ∀ e ∈ es, live e → e.name ≠ h * 256 + i
    let slot := fun k => k < 2 ^ r.logn ∧ ∃ e, s.caEnt r k = .ok e ∧ e.live = false
    s.caBucket r (h * 256) = .ok es →
    (∀ e w, es.filter (fun e => e.live && e.name / 256 == h) = [e] → holds e → s.countUp r e 1 = .ok w →
      s.lookupAlloc r line node = .ok (e.name, false, w)) ∧
    (∀ i k head w1 w2 w3, (∀ e ∈ es, live e → ∃ b, s.caRead r (r.lineVa e.slot) 128 = .ok b ∧ ¬(b = line ∧ e.node = node)) →
      index i → (∀ j, j < i → ¬index j) → slot k → (∀ j, j < k → ∃ e, s.caEnt r j = .ok e ∧ e.live = true) →
      k ≤ s.caLines r → s.caKept r = [] → s.caRead r (r.bucketVa (h * 256 + i)) 4 = .ok head → s.caPlaceLine r k line = .ok w1 →
      w1.putEnt r { slot := k, name := h * 256 + i, count := 1, next := natOfBytes head, live := true, node := node } = .ok w2 →
      w2.caWrite r (r.bucketVa (h * 256 + i)) (bytesOfNat 4 (k + 1)) = .ok w3 →
      s.lookupAlloc r line node = .ok (h * 256 + i, true, w3.setLines r (s.caLines r + 1))) ∧
    ((∀ e ∈ es, live e → ∃ b, s.caRead r (r.lineVa e.slot) 128 = .ok b ∧ ¬(b = line ∧ e.node = node)) → (∀ j, ¬index j) →
      s.lookupAlloc r line node = .error { code := 0x40, tag := 1, addr := 0 })) ∧
  (∀ (s w : State) (r : CaRegion) (e : CaEnt) (line : List Byte), s.freeLine r e = .ok w → s.caRead r (r.lineVa e.slot) 128 = .ok line →
    let kids := ((List.range 7).map fun i => natAt line (16 + 16 * i) 16).filter fun c => c ≠ 0 ∧ c ≠ 1
    w.ca = s.ca.map fun x => if x.slot = r.slot ∧ e.node = true then { x with drops := x.drops ++ kids.map (BitVec.ofNat 128) } else x) ∧
  (∀ (s : State) (r : CaRegion) (root off : Nat) (e : CaEnt) (line : List Byte) (shapes : List (Nat × Nat × Nat)), root ≠ 1 →
    s.caNeed r root = .ok e → s.caRead r (r.lineVa e.slot) 128 = .ok line → s.caRead r (r.lineVa e.slot) 16 = .ok (line.take 16) →
    let h := CaHdr.ofNat (natAt line 0 16)
    let kids := (lineChildren line).take h.fanout
    (e.node = false → off < 128 → s.caLeaf r root off = .ok root) ∧
    (e.node = true → h.level = 1 → 1 ≤ h.fanout → h.fanout ≤ 7 → s.caShapes r kids = .ok shapes → (∀ c ∈ shapes, c = (128, 1, 0)) →
      h.total ≤ 128 * h.fanout → (∀ k ∈ kids, k = 1 ∨ ∃ c, s.caNeed r k = .ok c ∧ c.node = false) →
      (off < h.total → s.caLeaf r root off = .ok (kids.getD (off / 128) 0)) ∧
      (h.total ≤ off → s.caLeaf r root off = .error { code := 0x26, tag := 10, addr := 0 }))) ∧
  (∀ (s : State) (rb x y : Opnd) (r : CaRegion) (L : Nat) (err : CaErr), Issuing s → CaReady s rb → s.activeLanes = [L] → s.caReg rb L = some r →
    let n := s.nameOpnd x L
    let late := fun i (c tag : Nat) => ∃ t f, exec i s = .next t ∧ t.mem = s.mem ∧ t.ca = s.ca ∧ t.sys = s.sys ∧
      t.wv.late = s.wv.late ++ [f] ∧ f.cause = c ∧ f.tag = BitVec.ofNat 64 tag ∧ f.prim = s.issue.mask ∧ f.sec = 0
    n ≠ 1 → 1 ≤ s.caK y L → s.caK y L ≤ 2 ^ 31 →
    (s.caFind r n = .ok none → late (.caget rb x) 0x41 0 ∧ late (.caref rb x y) 0x41 0 ∧ late (.cadrop rb x y) 0x41 0) ∧
    (∀ e, s.caFind r n = .ok (some e) → e.count ≠ 0xFFFFFFFF → e.count < s.caK y L → late (.cadrop rb x y) 0x42 0) ∧
    (s.caLeaf r n (s.opnd tyN64 y L).toNat = .error err → late (.cawalk rb x y) err.code err.tag))) ∧
  (∀ (s : State) (n : Nat) (v : Dword) (r : CaRegion), n < 16 →
    let carb := s.sysGet 0 (0x060 + n)
    let old := s.sysGet 0 (0x070 + n)
    let lines := fun (t : State) => (t.sysGet 0 (0x070 + n)).toNat % 2 ^ 32
    let en := fun (t : State) => (t.sysGet 0 (0x070 + n)).getLsbD 63
    let busy := fun (t : State) => (t.sysGet 0 (0x070 + n)).getLsbD 62
    let logn := carb.toNat % 32
    let base := carb.toNat / 2 ^ 16 % 2 ^ 41 * 65536
    let refused := logn < 11 ∨ s.trust.regionKeys.contains (v.toNat / 2 ^ 40 % 256) = false ∨
      ∃ q ∈ s.ca, q.slot ≠ n ∧ base < q.base.toNat + caSize q.logn ∧ q.base.toNat < base + caSize logn
    let e := s.caEngine r
    let popped := fun ns => { s with ca := s.ca.map fun x => if x.slot == n then { x with drops := ns, retryAt := 0 } else x }
    (v.getLsbD 63 = true → old.getLsbD 63 = false → refused → exec (.regionEnable n v) s = .next s) ∧
    (v.getLsbD 63 = true → old.getLsbD 63 = false → ¬refused → ∃ t q, exec (.regionEnable n v) s = .next t ∧ t.ca = s.ca ++ [q] ∧ q.slot = n ∧
      q.base.toNat = base ∧ q.logn = logn ∧ q.keyslot = v.toNat / 2 ^ 40 % 256 ∧ q.drops = [] ∧ en t = true ∧ busy t = true ∧ t.mem = s.mem) ∧
    (v.getLsbD 63 = false → ∃ t, exec (.regionDisable n v) s = .next t ∧ (∀ q, q ∈ t.ca ↔ q ∈ s.ca ∧ q.slot ≠ n) ∧ en t = false ∧
      busy t = false ∧ lines t = lines s ∧ t.mem = s.mem) ∧
    (s.caSlot n = some r → s.stagingFull = false →
      (busy s = true → r.slot = n → ∃ t, exec (.regionInitDone n) s = .next t ∧ busy t = false ∧ lines t = 0 ∧ t.waves = s.waves ∧
        (∀ p j, s.ckpt.on = false → s.caPage e (e.base.toNat + 4096) = .ok p → s.frameSt p.key ≠ 3 → j < 4 * 2 ^ r.logn → j < 61440 → byteAt t (p.key + j) = 0)) ∧
      (busy s = false → r.slot = n → r.drops = [] → exec (.backgroundDrop n) s = .next s) ∧
      (∀ d ds, busy s = false → r.slot = n → r.drops = d :: ds →
        ∀ i, (i = Instr.backgroundDrop n ∧ r.retryAt = 0) ∨ (i = .backgroundDropRetry n ∧ r.retryAt ≠ 0) →
        (s.caFind e d.toNat = .ok none → exec i s = .next (popped ds)) ∧
        (∀ c w, s.caFind e d.toNat = .ok (some c) → (popped ds).countDown e c 1 = .ok w → exec i s = .next w) ∧
        (∀ c, s.caFind e d.toNat = .error c → ∃ t, exec i s = .next t ∧ t.mem = s.mem ∧
          ∀ q, t.caSlot n = some q → q.drops = r.drops ∧ q.retryAt = s.cycle + 2 ^ 20))))

/-! ## Tasks and placement (14_tasks_placement.md) -/

/-- R376, R377, R391, R392, R486: the instructions of the dependency table and the task port, with the tasks that they create, the edges, the counts
and the firing; taskid, gangid, prio and estim. A cause of the table is a late fault 0x26 and changes no task. -/
def Obligations.TaskInstructions : Prop :=
  ∀ (s : State) (o1 o2 : Opnd) (code : BitVec 30), Issuing s →
    let late := fun i (tag : Nat) => ∃ t f, exec i s = .next t ∧ t.tasks = s.tasks ∧ t.mem = s.mem ∧ t.wv.late = s.wv.late ++ [f] ∧
      f.cause = 0x26 ∧ f.tag = BitVec.ofNat 64 tag ∧ f.prim = s.issue.mask
    let h1 : Dword := BitVec.ofNat 64 (s.uniNat tyN64 o1)
    let h2 : Dword := BitVec.ofNat 64 (s.uniNat tyN64 o2)
    let n : Word := BitVec.ofNat 32 (s.uniNat tyN32 o2)
    let handleOf := fun (d e : Nat) => BitVec.ofNat 64 (d + 8 * e + 2 ^ 19 * ((s.dieAt d).taskSeq + 1))
    let freeIn := fun (d e : Nat) => e < 65536 ∧ ∀ x ∈ s.tasks, ¬(x.die = d ∧ x.entry = e)
    let made := fun (t : State) (d e ctx : Nat) (prio : Word) (bs : List Byte) => ∃ x, t.taskOf (handleOf d e) = some x ∧ x.die = d ∧ x.entry = e ∧
      x.ctx = ctx ∧ x.st = .held ∧ x.launch = Launch.ofBytes bs ∧ x.count = (Launch.ofBytes bs).deps ∧ x.prio = prio ∧ x.pceil = prio ∧
      x.estim = (Launch.ofBytes bs).estim ∧ x.succs = (Launch.ofBytes bs).succs.take (Launch.ofBytes bs).nsucc
    let fresh := fun (d e : Nat) (bs : List Byte) => s.taskOf (handleOf d e) = none ∧
      ∀ x ∈ (Launch.ofBytes bs).succs.take (Launch.ofBytes bs).nsucc, x ≠ handleOf d e
    (∀ i ∈ [Instr.tasknew o1, .taskdep o1 o2, .taskarm o1 o2], s.settled = false → (i = .tasknew o1 → s.uniNat tyA64 o1 % 128 = 0 ∧
      ∃ p, s.xlate (s.accOf s.wv .global true false) (s.uniNat tyA64 o1) = .ok p) → Waits i s) ∧
    (s.uniNat tyA64 o1 % 128 ≠ 0 → exec (.tasknew o1) s = .next (s.fault (cause 0x23) s.issue.mask 0 (s.uniNat tyA64 o1))) ∧
    (∀ p e, s.settled = true → s.uniNat tyA64 o1 % 128 = 0 → s.xlate (s.accOf s.wv .global true false) (s.uniNat tyA64 o1) = .ok p →
      eFab p.leaf = false → s.uncorr p.key = false → s.ckpt.on = false →
      let v := (s.l1Acquire s.gcore).touch (s.accOf s.wv .global true false) (s.uniNat tyA64 o1) p
      let bs := v.globalRead 6 p.key 128 .global
      let prio := if (Launch.ofBytes bs).prio.toNat ≤ s.task.pceil.toNat then (Launch.ofBytes bs).prio else s.task.pceil
      (s.launchOk bs = true → freeIn s.wv.die e → (∀ k, k < e → ¬freeIn s.wv.die k) → fresh s.wv.die e bs →
        ∃ t u, exec (.tasknew o1) s = .next t ∧ CachesOnly s u ∧ ResultsOnly { u with tasks := t.tasks, dies := t.dies } t 1 ∧
          made t s.wv.die e s.ctx prio bs ∧ ∀ L, On s L → result s t L 0 = (handleOf s.wv.die e).setWidth 256) ∧
      (s.launchOk bs = true → (∀ k, ¬freeIn s.wv.die k) →
        ∃ t u, exec (.tasknew o1) s = .next t ∧ CachesOnly s u ∧ ResultsOnly u t 1 ∧ ∀ L, On s L → result s t L 0 = 0) ∧
      (s.launchOk bs = false → ∃ t f, exec (.tasknew o1) s = .next t ∧ t.tasks = s.tasks ∧ t.wv.late = s.wv.late ++ [f] ∧ f.cause = 0x26 ∧ f.tag = 11)) ∧
    (s.settled = true →
      let change := fun i (f : Dword → Task → Task) => ∃ t, exec i s = .next t ∧ ResultsOnly { s with tasks := t.tasks, l1 := t.l1 } t 0 ∧
        ∀ h, t.taskOf h = (s.taskOf h).map (f h)
      (s.openTask h2 = false → late (.taskdep o1 o2) 12) ∧
      (s.openTask h2 = true →
        (s.taskOf h1 = none → change (.taskdep o1 o2) fun _ x => x) ∧
        (∀ q, s.taskOf h1 = some q → q.st = .done → change (.taskdep o1 o2) fun _ x => x) ∧
        (∀ q, s.taskOf h1 = some q → q.st ≠ .done → 64 ≤ q.succs.length → late (.taskdep o1 o2) 14) ∧
        (∀ q, s.taskOf h1 = some q → q.st ≠ .done → q.succs.length < 64 → h1 ≠ h2 → change (.taskdep o1 o2) fun h x =>
          if h = h1 then { x with succs := x.succs ++ [h2] } else if h = h2 then { x with count := x.count + 1 } else x)) ∧
      (s.openTask h1 = false → late (.taskarm o1 o2) 12) ∧
      (∀ x, s.taskOf h1 = some x → s.openTask h1 = true →
        let counts := s.pageCounts x.ctx x.launch
        let fires := fun f => (∃ c ∈ counts, c ≠ 0) → f < 8 ∧ (∀ d, d < 8 → counts.getD d 0 ≤ counts.getD f 0) ∧
          ∀ d, d < f → counts.getD d 0 < counts.getD f 0
        (x.count.toNat < n.toNat → late (.taskarm o1 o2) 13) ∧
        (n.toNat < x.count.toNat → change (.taskarm o1 o2) fun h y => if h = h1 then { y with count := y.count - n, st := .armed } else y) ∧
        (∀ f, n = x.count → fires f → ((∀ c ∈ counts, c = 0) → f = x.die) → s.dieOrder x.launch.spad f ≠ [] →
          change (.taskarm o1 o2) fun h y => if h = h1 then { y with count := 0, st := .ready, fired := f, sinceAdmit := s.cycle } else y))) ∧
    Gives .taskid s (fun _ d => d = s.wg.task.setWidth 256) ∧
    (1 ≤ s.task.launch.gang → code.toNat ≤ 2 → Gives (.gangid code) s fun _ d => d.toNat % 2 ^ 256 =
      (if code = 0 then s.wg.num / s.task.launch.gang else if code = 1 then s.wg.num % s.task.launch.gang else s.task.launch.gang) % 2 ^ 256) ∧
    (∀ set, ∃ t, exec (.prio set o1) s = .next t ∧ ResultsOnly { s with tasks := t.tasks } t 1 ∧
      (∀ L, On s L → result s t L 0 = s.task.prio.setWidth 256) ∧
      let p : Word := BitVec.ofNat 32 (s.uniNat tyN32 o1)
      ∀ h, t.taskOf h = (s.taskOf h).map fun x =>
        if set = true ∧ h = s.wg.task then { x with prio := if p.toNat ≤ x.pceil.toNat then p else x.pceil } else x) ∧
    (∃ t, exec (.estim o1) s = .next t ∧ ResultsOnly { s with tasks := t.tasks } t 0 ∧
      ∀ h, t.taskOf h = (s.taskOf h).map fun x => if h = s.wg.task then { x with estim := h1 } else x) ∧
    (∀ i ∈ [Instr.taskPortCreate, .taskPortCreateArm], (s.dieAt 0).ok = true →
      (s.launchOk s.tkrec = false ∨ (∀ k, ¬freeIn 0 k) → exec i s = .next { s with tkres := 0 }) ∧
      (∀ e, s.launchOk s.tkrec = true → freeIn 0 e → (∀ k, k < e → ¬freeIn 0 k) → fresh 0 e s.tkrec → ∃ t, exec i s = .next t ∧ t.tkres = handleOf 0 e ∧
        ((i = .taskPortCreate ∨ (Launch.ofBytes s.tkrec).deps ≠ 0) → t.mem = s.mem ∧ t.waves = s.waves) ∧
        (i = .taskPortCreate → made t 0 e s.tkctx (Launch.ofBytes s.tkrec).prio s.tkrec) ∧
        (i = .taskPortCreateArm → (Launch.ofBytes s.tkrec).deps ≠ 0 → ∃ x, t.taskOf (handleOf 0 e) = some x ∧ x.st = .armed ∧
          x.count = (Launch.ofBytes s.tkrec).deps)))

/-- R380-R386, R388: the scan admits the first gang, by descending PRIO, of which a run has the resources and passes the heat test; each of its
workgroups is resident with its waves at block 0. The heat test's cost, the bands of the samples, the stall event, the choice of a victim and of the
action, and the gating of an idle cluster. -/
def Obligations.Placement : Prop :=
  (∀ (s s' : State) (d g c : Nat) (k : Task), s.admissible d = some (k, g, c) → s.gangSaved k g = false → s.admitRun k g d c true true = some s' →
    (∃ t, exec (.workgroupAdmit d) s = .next t ∧ t.mem = s'.mem ∧
      t.taskOf k.handle = (s'.taskOf k.handle).map (fun x =>
        { x with st := .running, admitted := x.admitted ++ [g], sinceAdmit := s.cycle, stallSent := false, drainOn := x.drainOn.filter fun e => !(e.1 == k.handle && e.2 / 80 == d) }) ∧
      ∀ r, r < k.launch.gang → (∀ x ∈ s.wgs, ¬(x.task = k.handle ∧ x.num = g * k.launch.gang + r ∧ x.st = .ended)) → ∃ i, (t.wgAt i).task = k.handle ∧ (t.wgAt i).num = g * k.launch.gang + r ∧ (t.wgAt i).st = .resident ∧
        (t.wgAt i).die = d ∧ (t.wgAt i).core = (c + r) % 80 ∧ ∀ n, n < k.launch.nwave → ∃ w ∈ t.waves, w.wg = i ∧ w.num = n ∧ w.live = true ∧
          w.core = (c + r) % 80 ∧ (∀ L, L < 32 → (w.lane L).st = .running ∧ (w.lane L).pc.block = 0) ∧
          (s.isGated d ((c + r) % 80 / 4) = true → s.cycle + 2048 ≤ w.hold)) ∧
    c ∈ s.runsFor k g d ∧ ∀ x ∈ s.scanOrder, (∃ n b, s.waitingGang x d = some n ∧ b ∈ s.runsFor x n d ∧ (s.admitRun x n d b true true).isSome = true) →
      x.prio.toNat < k.prio.toNat ∨ (x.prio = k.prio ∧ (k.seq < x.seq ∨ (k.seq = x.seq ∧ k.die ≤ x.die)))) ∧
  (∀ (s : State) (d : Nat), s.admissible d = none → s.scanLacks d = none → exec (.workgroupAdmit d) s = .next s) ∧
  (∀ (s : State) (d : Nat) (x : Task) (k : TransKey), s.admissible d = none → s.scanLacks d = some (x, k) → s.halted = false → (s.dieAt d).ok = true →
    (s.dieAt d).withdrawn = false → s.cut.st ≠ 3 → ∃ t r, exec (.workgroupAdmit d) s = .next t ∧ t.transReqs = s.transReqs ++ [r] ∧ r.key = k ∧
      r.die = d ∧ t.waves = s.waves) ∧
  (∀ (s : State) (d c h v : Nat),
    let t := (s.dieGet d (0x080 + v)).toNat
    let near := 5 * v / 8 = c
    let hc := s.dieGet d (0x040 + h)
    let rise := if near then hc.toNat / 2 ^ 24 % 256 else hc.toNat / 2 ^ 16 % 256
    let loss := fun b => if b = 0 then (1 / 40 : ℚ) else if b = 1 then 1 / 20 else 1 / 10
    let b := (s.dieAt d).bands.getD v 0
    let b' := max b (if t + rise < 1360 then 0 else if t + rise < 1520 then 1 else if t + rise < 1680 then 2 else 3)
    let cost := (if near then ((hc.toNat % 2 ^ 16 : Nat) : ℚ) else 0) + 500 * (loss b' - loss b)
    let refuse := b = 3 ∨ 1680 ≤ t + rise ∨
      500 * (1 - loss b) - ((s.dieAt d).chg.getD v 0 : ℚ) / 2 - cost < (((s.dieGet d 0x035).toNat % 2 ^ 16 : Nat) : ℚ)
    b ≤ 3 → (refuse → s.vaultCost d c h v = none) ∧ (¬refuse → ∃ n, s.vaultCost d c h v = some n ∧ (n : ℚ) / 2 = cost)) ∧
  (∀ (s : State) (d v : Nat) (temps : List Nat), d < s.dies.length → v < 32 → ∃ t, exec (.vaultTempSample d temps) s = .next t ∧
    let x := temps.getD v 0 % 2 ^ 16
    let band := fun x => if x < 1360 then 0 else if x < 1520 then 1 else if x < 1680 then 2 else 3
    let low := fun k => if k = 0 then 0 else if k = 1 then 1360 else if k = 2 then 1520 else 1680
    let old := (s.dieAt d).bands.getD v 0
    let new := (t.dieAt d).bands.getD v 0
    (t.dieGet d (0x080 + v)).toNat = x ∧ t.mem = s.mem ∧ (old ≤ band x → new = band x) ∧ (band x < old → old ≤ 3 → band x ≤ new ∧ new ≤ old ∧
      (∀ k, new < k → k ≤ old → x + 16 ≤ low k) ∧ (band x < new → low new < x + 16))) ∧
  (∀ (s : State) (n : Nat) (x : Task), s.tasks[n]? = some x → x.st = .ready ∨ x.st = .running → x.stallSent = false →
    let late := fun d => d < 8 ∧ (s.waitingGang x d).isSome = true ∧ (s.dieGet d 0x030) ≠ 0 ∧ x.sinceAdmit + (s.dieGet d 0x030).toNat * 65536 < s.cycle
    ((∀ d, ¬late d) → exec (.placementStalled n) s = .next s) ∧
    ∀ d, late d → (∀ e, e < d → ¬late e) → exec (.placementStalled n) s = .next ((s.updTask x.handle fun y => { y with stallSent := true }).notice x.ctx
      { eventRec 0x18 0 with die := d, task := x.handle })) ∧
  (∀ (s : State) (d n g c : Nat) (x v : Task), s.tasks[n]? = some x → (∀ y ∈ s.tasks, y.aborted = none ∧ y.drainOn = []) →
    (∀ y ∈ s.wgs, y.st ≠ .saving ∧ y.st ≠ .killing) → (s.dieAt d).preemptAt ≠ s.cycle + 1 → s.starvedGang x d = some g → s.victimRun x g d = some c → victimTask (s.runPrios x d c) = some v →
    let no := x.prio.toNat < v.prio.toNat + (s.dieGet d 0x031).toNat
    let drain := v.launch.flags.getLsbD 6 = true
    let save := v.launch.flags.getLsbD 7 = true
    let kill := v.launch.flags.getLsbD 8 = true
    let soon := v.estim.toNat ≤ (s.dieGet d 0x032).toNat
    let long := (s.dieGet d 0x033).toNat ≤ v.estim.toNat
    let run := fun i => ∃ p ∈ s.runPrios x d c, p.1.handle = v.handle ∧ p.2 = i
    (∀ p ∈ s.runPrios x d c, v.prio.toNat < p.1.prio.toNat ∨ (v.prio = p.1.prio ∧ p.1.seq ≤ v.seq)) ∧
    (no ∨ ¬(drain ∨ save ∨ kill) → exec (.preemptDecide d n) s = .next s) ∧
    (¬no → drain → soon ∨ ¬(save ∨ kill) → exec (.preemptDecide d n) s = .next ((s.setDie d fun y => { y with preemptAt := s.cycle + 1 }).updTask v.handle fun y =>
      { y with drainOn := y.drainOn ++ (List.range x.launch.gang).map fun r => (x.handle, globalCore d ((c + r) % 80)) })) ∧
    (¬no → ¬(drain ∧ soon) → save → long ∨ ¬kill → (∀ i, run i → ∀ y, s.gangOf i = some y → y.plan = []) → ∃ t, exec (.preemptDecide d n) s = .next t ∧ t.waves = s.waves ∧ t.mem = s.mem ∧
      ∀ i, run i → (t.wgAt i).st = .saving) ∧
    (¬no → ¬(drain ∧ soon) → ¬(save ∧ long) → kill → ∃ t, exec (.preemptDecide d n) s = .next t ∧
      ∀ i, run i → (t.wgAt i).st = .killing ∨ (t.wgAt i).st = .restart)) ∧
  (∀ (s : State) (d c : Nat), d < s.dies.length →
    let idle := c < 20 ∧ (∀ g ∈ s.wgsOn d, g.core / 4 ≠ c) ∧ (s.dieAt d).idle.getD c 0 + (s.dieGet d 0x034).toNat ≤ s.cycle
    (¬idle → exec (.clusterGate d c) s = .next s) ∧
    (idle → ∃ t, exec (.clusterGate d c) s = .next t ∧ (t.dieAt d).gated.contains c = true ∧ t.wgs = s.wgs ∧ t.waves = s.waves ∧ t.mem = s.mem))

/-! ## Determinism modes (15_determinism.md) -/

/-- R405, R406, R408, R410-R413: dmerge parks its lanes for the fold, and acts only under merged modes; dcount, dmode and dseq answer their words.
The fold takes the bytes of every write set of the gang into its merged set, the highest workgroup's last, and releases the lanes; a conflict
changes no set, and every wave of the gang takes fault 0x30 at the lowest address in conflict. -/
def Obligations.Determinism : Prop :=
  ∀ (s : State) (o1 o2 o3 : Opnd) (code : BitVec 30), Issuing s →
    let merged := s.dmode = 2 ∨ s.dmode = 3
    let ordered := s.dmode = 1 ∨ s.dmode = 3
    let d := s.uniNat tyN32 o1 % 2 ^ 32
    let r := s.uniNat tyN32 o2 % 2 ^ 32
    let k := s.uniNat tyN32 o3 % 2 ^ 32
    (¬merged → Passes .dmerge s) ∧
    (merged → s.settled = false → Waits .dmerge s) ∧
    (merged → s.settled = true → ∃ t, exec .dmerge s = .next t ∧ t = { s with waves := t.waves, l1 := t.l1 } ∧ WaveOn s.wv t.wv ∧
      (∀ j, j ≠ s.issue.wave → t.waves[j]? = s.waves[j]?) ∧ (∀ l, l ∈ t.l1 ↔ l ∈ s.l1 ∧ ¬(l.core = s.gcore ∧ l.sp = 0)) ∧
      ∀ L, (Off s L → t.wv.lane L = s.wv.lane L) ∧
        (On s L → t.wv.lane L = { s.wv.lane L with st := .parked, wait := .dmerge, after := s.issue.next })) ∧
    (code.toNat ≤ 3 → Gives (.dcount code) s fun _ v => v.toNat = (if code = 3 then (s.dieGet s.wv.die 0x039).toNat / 144 - s.poolUsed s.wv.die
      else if s.dmode < 2 then 0 else if code = 0 then (s.wg.wset.map fun e => e.1 / 128).eraseDups.length
      else if code = 1 then ((s.gangOf s.wv.wg).map Gang.folds).getD 0 else (s.wg.reds.map Reduction.lanes).sum) % 2 ^ 32) ∧
    Gives .dmode s (fun _ v => v.toNat % 4 = s.dmode ∧ v.toNat < 2 ^ 16 ∧ (¬ordered → v.toNat / 4 = 0) ∧
      (ordered → v.toNat / 4 % 64 = s.task.launch.nwave % 64)) ∧
    (∀ init, (merged ∨ s.settled = true) →
      (7 < d ∨ 4095 < r ∨ k = 0 ∨ 65536 < k → ∃ t f, exec (.dseq init o1 o2 o3) s = .next t ∧ t.seqs = s.seqs ∧ t.parts = s.parts ∧
        t.wv.late = s.wv.late ++ [f] ∧ f.cause = 0x26 ∧ f.tag = 15 ∧ f.prim = s.issue.mask) ∧
      (d ≤ 7 → r ≤ 4095 → 1 ≤ k → k ≤ 65536 → ∃ t, exec (.dseq init o1 o2 o3) s = .next t ∧
        ResultsOnly { s with seqs := t.seqs, parts := t.parts, cmds := t.cmds, l1 := t.l1 } t 1 ∧
        (∀ e q, (e, q) ≠ (d, r) → t.seqRegion e q = s.seqRegion e q) ∧
        (init = false → (∀ L, On s L → result s t L 0 = (s.seqRegion d r).next.setWidth 256) ∧
          t.seqRegion d r = { s.seqRegion d r with next := (s.seqRegion d r).next + BitVec.ofNat 32 k } ∧ t.parts = s.parts ∧ t.cmds = s.cmds) ∧
        (init = true → (∀ L, On s L → result s t L 0 = 0) ∧
          t.seqRegion d r = { die := d, region := r, next := BitVec.ofNat 32 k, exp := List.replicate 32 0, failed := false } ∧
          (∀ p, p ∈ t.parts ↔ p ∈ s.parts ∧ ¬(p.die = d ∧ p.region = r)) ∧
          ∀ p ∈ s.parts, p.die = d → p.region = r → ∀ c ∈ t.cmds, c.id = p.cmd → c.status = 2))) ∧
    ∀ (w : Nat), w < s.waves.length →
      let x := s.taskOfWg (s.waveAt w).wg
      let g := (s.wgAt (s.waveAt w).wg).gangNum x
      let ms := s.gangMembers x.handle g x.launch.gang
      let cell := fun i a => cget (zeros 15) (s.wgAt i).wset a
      let has := fun i a => i ∈ ms ∧ (cell i a).getLsbD 8 = true
      let byte := fun i a => (cell i a).toNat % 256
      let clash := fun a i j => has i a ∧ has j a ∧ byte i a ≠ byte j a
      let num := fun i => (s.wgAt i).num
      let ready := 2 ≤ x.launch.dmode ∧ (s.waveAt w).live = true ∧ (s.waveAt w).faulted = false ∧
        (∃ l ∈ (s.waveAt w).lanes, l.st = .parked ∧ l.wait = .dmerge) ∧
        ∀ v ∈ s.waves, v.live = true → v.wg ∈ ms → ∀ l ∈ v.lanes, l.st = .exited ∨ (l.st = .parked ∧ l.wait = .dmerge)
      let old := s.gangs.find? fun y => y.task == x.handle && y.num == g
      let merge := fun (t : State) => (t.gangs.find? fun y => y.task == x.handle && y.num == g)
      (¬ready → exec (.gangFold w) s = .next s) ∧
      (∀ y, ready → old = some y → y.gset.Pairwise (fun a b => a.1 < b.1) →
        (∀ i ∈ ms, (s.wgAt i).wset.Pairwise (fun a b => a.1 < b.1) ∧ ∀ e ∈ (s.wgAt i).wset, e.2.getLsbD 8 = true) → (∀ a i j, ¬clash a i j) →
        ∃ t z, exec (.gangFold w) s = .next t ∧ merge t = some z ∧ z.folds = y.folds + 1 ∧ t.mem = s.mem ∧ (∀ i ∈ ms, (t.wgAt i).wset = []) ∧
          (∀ a i, has i a → (∀ j, has j a → num j ≤ num i) →
            cget (zeros 47) z.gset a = (cell i a).setWidth 47 ||| BitVec.ofNat 47 (num i * 2 ^ 15)) ∧
          (∀ a, (∀ i, ¬has i a) → cget (zeros 47) z.gset a = cget (zeros 47) y.gset a) ∧
          ∀ j L, (s.waveAt j).live = true → (s.waveAt j).wg ∈ ms → L < 32 → ((s.waveAt j).lane L).st = .parked →
            (t.waveAt j).lane L = { (s.waveAt j).lane L with
              st := .running, wait := .none, pc := ((s.waveAt j).lane L).after, bpos := ((s.waveAt j).lane L).bpos + 1 }) ∧
      (∀ a i j, ready → clash a i j → (∀ b, b < a → ∀ i j, ¬clash b i j) → (∀ m, has m a → num i ≤ num m) →
        (∀ m, clash a i m → num j ≤ num m) → (∀ i ∈ ms, (s.wgAt i).wset.Pairwise (fun a b => a.1 < b.1)) →
        ∃ t, exec (.gangFold w) s = .next t ∧ t.gangs = s.gangs ∧ t.wgs = s.wgs ∧
          ∀ v, (s.waveAt v).live = true → (s.waveAt v).wg ∈ ms → (∃ L, L < 32 ∧ ((s.waveAt v).lane L).st = .parked) →
            (t.waveAt v).faulted = true ∧ ∃ f, (t.waveAt v).frec = some f ∧ f.cause = 0x30 ∧ f.addr = BitVec.ofNat 64 (a % 2 ^ 41) ∧
              f.tag = BitVec.ofNat 64 (num i * 2 ^ 32 + num j) ∧ ∀ L, L < 32 → (f.prim.getLsbD L = true ↔ ((s.waveAt v).lane L).st = .parked))

/-! ## Faults, system and trap instructions (16_traps_preemption.md) -/

/-- R419, R420, R422, R425, R430: a precise fault is delivered: no lane's value changes, the wave is FAULTED with its record, and the lanes of the
group stop where they stand. Once its issued operations are complete, the landings on their way land (R92), its state is saved and the record goes
to the notice ring, which raises NRHEAD, holds fault records back and drops event records while it is full. A page fault of a wave with a
continuation waits for the call of CONTFN with CONTARG instead; where that call faults itself, the fault is delivered. -/
def Obligations.TakingAFault : Prop :=
  ∀ (s : State) (c : Cause) (prim sec : Mask) (addr : Nat), Issuing s →
    let w := s.issue.wave
    let continues := c.code = 0x20 ∧ s.wv.contfn ≠ 0 ∧ s.wv.incont = false ∧ s.wv.contAsk = none ∧ s.dmode % 2 = 0
    let t := s.fault c prim sec addr
    let recordOf := fun (f : FaultRec) => f.cause = c.code ∧ f.tag = c.tag ∧ f.prim = prim ∧ f.sec = sec ∧ f.addr = BitVec.ofNat 64 addr ∧
      f.loc = s.mapLoc s.wv s.issue.here ∧ f.die = s.wv.die ∧ f.wave = s.wv.token ∧ f.task = s.wg.task ∧ f.native = s.nativeOf s.wv s.issue.here ∧
      f.late = false ∧ f.async = false ∧ f.event = false ∧ f.cont = false
    (¬continues → t = { s with waves := t.waves } ∧ (t.waveAt w).faulted = true ∧ (t.waveAt w).unsaved = true ∧
      (t.waveAt w).landings = s.wv.landings ∧ (∃ f, (t.waveAt w).frec = some f ∧ recordOf f) ∧
      (s.wv.incont = false → (t.waveAt w).rpc = s.issue.here) ∧ (s.wv.incont = true → (t.waveAt w).rpc = s.wv.rpc) ∧
      (∀ L, (On s L → (s.wv.lane L).st = .running → (t.waveAt w).lane L = { s.wv.lane L with st := .stopped }) ∧
        (Off s L ∨ (s.wv.lane L).st ≠ .running → L < 32 → (t.waveAt w).lane L = s.wv.lane L)) ∧
      (∀ j, j ≠ w → t.waves[j]? = s.waves[j]?)) ∧
    (continues → t = { s with waves := t.waves } ∧ (∀ j, j ≠ w → t.waves[j]? = s.waves[j]?) ∧
      ∃ f, recordOf f ∧ t.wv = { s.wv with contAsk := some (s.issue.mask, s.issue.here, f, false) }) ∧
    (∀ i, i < s.waves.length →
      let v := s.waveAt i
      let u := s.finishFault i
      (∀ L, L < 32 → ∃ g r fm, v.landAll.lane L = { v.lane L with g := g, s := r, fm := fm }) ∧ v.landAll.landings = [] ∧
      (v.unsaved = false ∨ s.waveQuiet i = false → u = s) ∧
      (v.unsaved = true → s.waveQuiet i = true → u.waveAt i = { v.landAll with unsaved := false } ∧ ∀ j, j ≠ i → u.waves[j]? = s.waves[j]?)) ∧
    (∀ i m loc r asked, i < s.waves.length → (s.waveAt i).contAsk = some (m, loc, r, asked) → (s.waveAt i).xfail = none →
      let v := s.waveAt i
      let z : State := { s with issue := { s.issue with wave := i, mask := m, loc := loc, here := loc, next := loc, gos := [], dsts := [], srcs := [], yt := none } }
      let a := v.contfn.toNat
      let pls := z.activeLanes.filterMap fun L => (z.laneLoc .global true false L a 16 16).toOption
      let y := z.walked (z.accOf v .global true false) (z.activeLanes.flatMap fun L => z.laneVas .global L a 16 16)
      let u := s.contStep i
      z.mustWait descMod false 16 pls = false → (∀ p ∈ pls, p.isFab = false) →
      (∀ e, y.calleeAt v contSig a 2 = .error e → (u.waveAt i).faulted = true ∧ (u.waveAt i).frec = some r ∧ (v.incont = false → (u.waveAt i).rpc = loc)) ∧
      (∀ h f, y.calleeAt v contSig a 2 = .ok (.func h f) → (y.freshImage v.die (y.transKey v h f)).isSome = true →
        (∀ L ∈ z.activeLanes, y.callOver v (v.lane L) h f false = false ∧ (v.lane L).frames ≠ [] ∧ ∃ ws, y.linkPlaces L = .ok ws) →
        (u.waveAt i).faulted = v.faulted ∧ (u.waveAt i).incont = true ∧ (u.waveAt i).csig = false ∧ (u.waveAt i).cmask = m ∧
        (u.waveAt i).rpc = loc ∧ (u.waveAt i).frec = some { r with cont := true } ∧ (u.waveAt i).contAsk = none ∧
        ∀ L, L < 32 → (inMask m L = false → (u.waveAt i).lane L = v.lane L) ∧ (inMask m L = true →
          let l := (u.waveAt i).lane L
          l.pc.handle = h ∧ l.pc.func = f ∧ l.pc.block = 0 ∧ l.val 0 = v.contarg.setWidth 256 ∧ l.frames.tail = (v.lane L).frames ∧
            (l.frames.headD default).cont = true))) ∧
    (∀ ctx r,
      let u := s.notice ctx r
      let head := s.ctxGet ctx 0x013
      let size := s.ringSize ctx
      let full := (head - s.ctxGet ctx 0x014).toNat = size
      let waiting := ∃ n ∈ s.notices, n.1 = ctx
      (size = 0 → u = s) ∧
      (size ≠ 0 → full → r.event = true → u = s.ctxSet ctx 0x015 (s.ctxGet ctx 0x015 + 1)) ∧
      (size ≠ 0 → r.event = false → full ∨ waiting → u = { s with notices := s.notices ++ [(ctx, r)] }) ∧
      (size ≠ 0 → ¬full → r.event = true ∨ ¬waiting → s.ctxGet ctx 0x016 = 0 → u.ctxGet ctx 0x013 = head + 1 ∧ u.notices = s.notices ∧
        (∀ p, s.devWalk ctx ((s.ctxGet ctx 0x011).toNat + 64 * (head.toNat % size)) = .ok p → s.ckpt.on = false → s.frameSt (physKey p.home p.dpa) ≠ 3 →
          readBytes u.mem (physKey p.home p.dpa) 64 = r.bytes)))

/-- R440, R443-R447: trap, brk and assert take their fault; evtsig writes event 0x01; tlbinv drops the translations of its kind; tcinv removes the
images of a module, or marks a pinned one stale; ckpt starts an operation and answers its number; halt stops the package and RESUME ends it. -/
def Obligations.SystemInstructions : Prop :=
  ∀ (s : State) (o1 o2 : Opnd) (id kind : BitVec 30), Issuing s →
    let n1 := s.uniNat tyN32 o1 % 2 ^ 32
    let n2 := s.uniNat tyN32 o2 % 2 ^ 32
    exec (.trap o1) s = .next (s.fault { code := 0x60, tag := BitVec.ofNat 64 n1 } s.issue.mask 0 0) ∧
    ((s.ctxGet s.ctx 0x01B).getLsbD 0 = true →
      exec (.brk id) s = .next (s.fault { code := 0x61, tag := BitVec.ofNat 64 id.toNat } s.issue.mask 0 0)) ∧
    ((s.ctxGet s.ctx 0x01B).getLsbD 0 = false → Passes (.brk id) s) ∧
    (∀ m : Mask, (∀ L, L < 32 → (m.getLsbD L = true ↔ On s L ∧ (s.opnd tyB1 o1 L).toNat % 2 = 0)) →
      (m = 0 → Passes (.assert o1 o2) s) ∧
      (m ≠ 0 → exec (.assert o1 o2) s = .next (s.fault { code := 0x62, tag := BitVec.ofNat 64 n2 } m 0 0))) ∧
    (s.quiet = false → s.wv.tlbAfter = none → Waits (.tlbinv kind o1) s) ∧ (∀ i ∈ [Instr.evtsig o1, .ckpt kind o1], s.settled = false → Waits i s) ∧
    (s.settled = true →
      (∃ t, exec (.evtsig o1) s = .next t ∧ ResultsOnly (s.notice s.ctx { eventRec 0x01 (BitVec.ofNat 64 n1) with
        die := s.wv.die, wave := s.wv.token, task := s.wg.task }) t 0) ∧
      (kind.toNat ≤ 2 → s.quiet = true → s.wv.tlbAfter = none → ∃ t, exec (.tlbinv kind o1) s = .next t ∧
        (∀ l, l ∈ t.tlb ↔ l ∈ s.tlb ∧ ¬(kind = 2 ∨ (l.ctx = s.ctx ∧ (kind = 1 ∨ l.va = s.uniNat tyA64 o1 / 2 ^ l.lg * 2 ^ l.lg)))) ∧
        (s.usesBefore s.nextId = false → ResultsOnly { s with tlb := t.tlb } t 0) ∧
        (s.usesBefore s.nextId = true → t = { s with tlb := t.tlb, waves := t.waves } ∧ t.wv = { s.wv with tlbAfter := some (s.nextId, s.issue.here) })) ∧
      (∀ b, s.wv.tlbAfter = some (b, s.issue.here) → (s.usesBefore b = true → Waits (.tlbinv kind o1) s) ∧
        (s.usesBefore b = false → ∃ t, exec (.tlbinv kind o1) s = .next t ∧ ResultsOnly (s.updWv fun w => { w with tlbAfter := none }) t 0)) ∧
      (s.wv.pend = none →
        let a := s.uniNat tyA64 o1 % 2 ^ 64
        let number := if (s.opnum + 1) % 2 ^ 32 = 0 then 1 else (s.opnum + 1) % 2 ^ 32
        let busy := s.cut.st ≠ 0 ∨ s.ckpt.active = true
        let starts := ∃ t, exec (.ckpt kind o1) s = .next t ∧ ResultsOnly { s with l1 := t.l1, opnum := t.opnum, ckpt := t.ckpt, cut := t.cut } t 1 ∧
          (∀ L, On s L → (result s t L 0).toNat = number) ∧ t.opnum = number ∧ t.ckpt.active = true ∧ t.ckpt.mode = kind.toNat ∧
          t.ckpt.opnum = number ∧ t.ckpt.desc = BitVec.ofNat 64 a ∧ (kind = 2 → t.cut = s.cut) ∧
          (kind ≠ 2 → t.cut = { st := 1, kcut := s.cut.kcut, since := s.cycle, task := s.wg.task, ctx := s.ctx })
        (a % 64 ≠ 0 → exec (.ckpt kind o1) s = .next (s.fault (cause 0x23) s.issue.mask 0 a)) ∧
        (a % 64 = 0 → busy → ∃ t, exec (.ckpt kind o1) s = .next t ∧ ResultsOnly { s with l1 := t.l1 } t 1 ∧ ∀ L, On s L → result s t L 0 = 0) ∧
        (a % 64 = 0 → ¬busy → kind = 1 ∨ kind = 2 → starts) ∧
        (∀ bs, a % 64 = 0 → ¬busy → kind = 0 → s.ctxRead s.ctx a 64 = some bs → natAt bs 0 8 % 65536 = 0 → natAt bs 8 8 % 65536 = 0 →
          516 * 2 ^ 20 ≤ natAt bs 8 8 → natAt bs 24 1 ≤ 3 → natAt bs 25 39 = 0 → starts))) ∧
    (s.moduleOf n1 = none → Passes (.tcinv o1 o2) s) ∧
    (∀ m, s.moduleOf n1 = some m → ∃ t, exec (.tcinv o1 o2) s = .next t ∧ ResultsOnly { s with images := t.images } t 0 ∧
      let hit := fun (i : TransImage) => i.key.modkey = m.key ∧ (n2 = 0xFFFFFFFF ∨ i.key.func = n2)
      ∀ i, i ∈ t.images ↔ (i ∈ s.images ∧ ¬hit i) ∨ ∃ j ∈ s.images, hit j ∧ s.pinned j = true ∧ i = s.markStale j ∧
        i.stale = true ∧ i.code = j.code ∧ i.unit = j.unit) ∧
    (∃ t, exec .halt s = .next t ∧ ResultsOnly { s with halted := true } t 0) ∧
    ((s.dieAt 0).ok = true → exec .haltResume s = .next { s with halted := false }) ∧ ((s.dieAt 0).ok = false → exec .haltResume s = .next s)

/-- R427, R429, R430, R442: contset sets the continuation; contret parks its lanes, and takes fault 0x62 outside a continuation; contsig and SIGNAL
set CSIG; with every lane of CMASK at a contret and CSIG set, the lanes go on at RPC behind their frame. RESUME ends a fault, and ABORT stops every
workgroup of the task. -/
def Obligations.ContinuationsAndResumption : Prop :=
  ∀ (s : State) (o1 o2 : Opnd) (ctx : Nat), Issuing s →
    let waits := fun (w : Wave) L => (w.lane L).st = .parked ∧ (w.lane L).wait = .contret
    let lanes := fun (w : Wave) L => L < 32 ∧ w.cmask.getLsbD L = true
    let left := fun (n : Nat) (w : Wave) =>
      let v := s.waveAt n
      w.incont = false ∧ w.csig = false ∧ ∀ L f fs, lanes v L → (v.lane L).frames = f :: fs → f.cont = true →
      (w.lane L).st = .running ∧ (w.lane L).pc = v.rpc ∧ (w.lane L).frames = fs ∧
      (w.lane L).fb = (match ({ s with issue := { s.issue with wave := n } } : State).linkageAt L (v.lane L).fb with | some e => e.2.2 | none => f.callerFb)
    let signals := fun i (n : Nat) => ∃ t, exec i s = .next t ∧
      ((s.waveAt n).incont = false → (t.waveAt n).csig = (s.waveAt n).csig ∧ (t.waveAt n).incont = false) ∧
      ((s.waveAt n).incont = true → s.savedWave n = true ∨ (∃ L, lanes (s.waveAt n) L ∧ ¬waits (s.waveAt n) L) → (t.waveAt n).csig = true ∧ (t.waveAt n).incont = true) ∧
      ((s.waveAt n).incont = true → s.savedWave n = false → (s.waveAt n).cmask ≠ 0 → (∀ L, lanes (s.waveAt n) L → waits (s.waveAt n) L) → left n (t.waveAt n))
    (∃ t, exec (.contset o1 o2) s = .next t ∧ t.wv.contfn = BitVec.ofNat 64 (s.uniNat tyA64 o1) ∧ t.wv.contarg = BitVec.ofNat 64 (s.uniNat tyN64 o2) ∧
      ResultsOnly s (t.updWv fun w => { w with contfn := s.wv.contfn, contarg := s.wv.contarg }) 0) ∧
    (s.wv.incont = false ∨ (∃ L, On s L ∧ s.wv.cmask.getLsbD L = false) →
      exec .contret s = .next (s.fault (causeT 0x62 0xFFFFFFFE) s.issue.mask 0 0)) ∧
    (s.wv.incont = true → (∀ L, On s L → s.wv.cmask.getLsbD L = true) →
      let all := ∀ L, lanes s.wv L → On s L ∨ waits s.wv L
      ∃ t, exec .contret s = .next t ∧ t = { s with waves := t.waves, l1 := t.l1 } ∧ (∀ j, j ≠ s.issue.wave → t.waves[j]? = s.waves[j]?) ∧
        (s.wv.csig = true → all → s.wv.cmask ≠ 0 → left s.issue.wave t.wv) ∧
        (s.wv.csig = false ∨ ¬all → t.l1 = s.l1 ∧ t.wv.incont = true ∧ t.wv.csig = s.wv.csig ∧
          ∀ L, On s L → t.wv.lane L = { s.wv.lane L with st := .parked, wait := .contret, after := s.issue.next })) ∧
    (s.settled = false → Waits (.contsig o1) s) ∧
    (s.settled = true →
      let token : Dword := BitVec.ofNat 64 (s.uniNat tyN64 o1)
      (s.waveOf token = none → Passes (.contsig o1) s) ∧
      ∀ n, s.waveOf token = some n → ((s.taskOfWg (s.waveAt n).wg).ctx ≠ s.ctx → Passes (.contsig o1) s) ∧
        ((s.taskOfWg (s.waveAt n).wg).ctx = s.ctx → n ≠ s.issue.wave → signals (.contsig o1) n)) ∧
    (s.wselWave ctx = none → ∀ i ∈ [Instr.wctlResume ctx, .wctlSignal ctx, .wctlAbort ctx], exec i s = .next s) ∧
    ∀ n, s.wselWave ctx = some n →
      let w := s.waveAt n
      signals (.wctlSignal ctx) n ∧
      (w.unsaved = true → exec (.wctlResume ctx) s = .next s) ∧
      (w.unsaved = false → w.faulted = false → signals (.wctlResume ctx) n) ∧
      (w.unsaved = false → w.faulted = true → ∃ t, exec (.wctlResume ctx) s = .next t ∧ (t.waveAt n).faulted = false ∧
        (∀ j, j ≠ n → t.waves[j]? = s.waves[j]?) ∧
        let run := fun (l : Lane) => if l.st = .stopped then { l with st := .running } else l
        ((s.wgAt w.wg).st = .saved → ∀ L, L < 32 → (t.waveAt n).lane L = run (w.lane L)) ∧
        ((s.wgAt w.wg).st ≠ .saved → t = { s with waves := t.waves, l1 := t.l1, wgs := t.wgs } ∧
          (w.wbp = none → w.incont = false → ∀ L, L < 32 → (t.waveAt n).lane L = (run (w.lane L)).reissue) ∧
          ∀ b bs ar, w.wbp = some b → s.ctxRead (s.taskOfWg w.wg).ctx (b.toNat + 0x98000) 0x600 = some bs →
            s.ctxRead (s.taskOfWg w.wg).ctx (b.toNat + 0x9A000) 0x4280 = some ar →
            let bad := s.ctxBad (s.taskOfWg w.wg).ctx (b.toNat + 0x98000) 0x600 || s.ctxBad (s.taskOfWg w.wg).ctx (b.toNat + 0x9A000) 0x4280
            (bad = true → (t.waveAt n).blockBad = true) ∧ (bad = false →
              (t.waveAt n).retired = BitVec.ofNat 64 (natAt bs 0x298 8) ∧ (t.waveAt n).cmask = BitVec.ofNat 32 (natAt bs 0x2DC 4) ∧
              (t.waveAt n).contfn = BitVec.ofNat 64 (natAt bs 0x2E0 8) ∧ (t.waveAt n).contarg = BitVec.ofNat 64 (natAt bs 0x2E8 8) ∧
              (∀ L, L < 32 → ((t.waveAt n).lane L).rsidx = BitVec.ofNat 64 (natAt bs (0x500 + 8 * L) 8)) ∧
              (natAt bs 0x294 4 / 2 % 2 = 0 → ∀ L, L < 32 → ((t.waveAt n).lane L).fb = natAt bs (0x380 + 4 * L) 4)))) ∧
      ∃ t, exec (.wctlAbort ctx) s = .next t ∧ ∀ j, j < s.wgs.length → (s.wgAt j).task = (s.wgAt w.wg).task →
        (t.wgAt j).st ≠ .resident ∧ (t.wgAt j).st ≠ .saving ∧ (t.wgAt j).st ≠ .saved

/-- R243, R299, R417, R418, R425, R441, R485: sysrd answers the copy that a code names, and clears an RC register; syswr writes the bits that are no
reserved ones, LDGO queues a request and REQ asks for a cut; EN of a window or a grant that the rules refuse is ignored; a waiting record is written
as the ring frees. -/
def Obligations.SystemRegisters : Prop :=
  ∀ (s : State) (code : BitVec 30) (v : Opnd) (x : Dword) (d n ctx : Nat), Issuing s →
    let c := code.toNat
    let package := c = 1 ∨ c = 2 ∨ (8 ≤ c ∧ c ≤ 0x00D) ∨ c = 0x028 ∨ c = 0x029 ∨ (0x048 ≤ c ∧ c ≤ 0x057) ∨ (0x060 ≤ c ∧ c ≤ 0x07F)
    let copy := if package then 0 else if 0x010 ≤ c ∧ c ≤ 0x01D then 9 + s.ctx else 1 + s.wv.die
    let clears := c = 0x015 ∨ c = 0x01D ∨ c = 0x021 ∨ c = 0x022
    let starts := c = 0x00B ∨ c = 0x01A ∨ c = 0x028 ∨ (0x050 ≤ c ∧ c ≤ 0x057) ∨ (0x070 ≤ c ∧ c ≤ 0x07F) ∨ (0x0B0 ≤ c ∧ c ≤ 0x0BF)
    let keeps := fun (t : State) (cp c : Nat) => ∀ cp' c', c < 4096 → c' < 4096 → (cp', c') ≠ (cp, c) → t.sysGet cp' c' = s.sysGet cp' c'
    let val : Dword := BitVec.ofNat 64 (s.uniNat tyN64 v)
    (∃ t, exec (.sysrd code) s = .next t ∧ ResultsOnly { s with sys := t.sys } t 1 ∧ keeps t copy c ∧
      (clears → t.sysGet copy c = 0) ∧ (¬clears → t.sys = s.sys) ∧
      ∀ L, On s L → result s t L 0 = (if c = 0x003 then BitVec.ofNat 64 (s.ctx % 64)
        else if c = 0x028 then BitVec.ofNat 64 (s.cut.kcut % 2 ^ 16 * 2 ^ 48 + s.cut.st % 16 * 2 ^ 16) else s.sysGet copy c).setWidth 256) ∧
    (s.quiet = false → Waits (.syswr code v) s) ∧
    (s.quiet = true → ¬starts → ∃ t, exec (.syswr code v) s = .next t ∧ ResultsOnly { s with sys := t.sys, l1 := t.l1 } t 0 ∧ keeps t copy c ∧
      (sysMask c = 0 → t.sys = s.sys) ∧ (sysMask c ≠ 0 → t.sysGet copy c = val &&& sysMask c)) ∧
    (s.quiet = true → c = 0x00B → ∃ t q, exec (.syswr code v) s = .next t ∧ ResultsOnly { s with loads := s.loads ++ [q], l1 := t.l1 } t 0 ∧
      (val.getLsbD 1 = true → q = .unload (s.sysGet 0 0x009).toNat) ∧
      (val.getLsbD 1 = false → q = .load (!val.getLsbD 0) (s.sysGet 0 0x009) (s.sysGet 0 0x00A).toNat s.ctx)) ∧
    (s.quiet = true → c = 0x028 → s.cut.st = 0 → val.getLsbD 0 = true → ∃ t, exec (.syswr code v) s = .next t ∧
      ResultsOnly { s with l1 := t.l1, cut := { st := 1, kcut := s.cut.kcut, since := s.cycle, task := 0, ctx := s.ctx } } t 0) ∧
    exec (.nrlostRead ctx) s = .next (s.ctxSet ctx 0x015 0) ∧ exec (.tflostRead ctx) s = .next (s.ctxSet ctx 0x01D 0) ∧
    exec (.tmisscntRead d) s = .next (s.dieSet d 0x021 0) ∧ exec (.retrcntRead d) s = .next (s.dieSet d 0x022 0) ∧
    (∀ copy, copy ≤ 72 → sysCodeListed c = true → c ≠ 0x003 → copy = sysCopy (copy - 1) (copy - 9) c → ¬starts → sysMask c ≠ 0 → (s.dieAt 0).ok = true →
      exec (.sysregWrite copy c x) s = .next (s.sysSet copy c (x &&& sysMask c))) ∧
    (d < 8 → n < 16 →
      let b := s.dieGet d (0x0A0 + n)
      let past := Config.reservation < (b.toNat / 2 ^ 16 % 2 ^ 22 + x.toNat % 2 ^ 22 + 1) * 65536
      let was := (s.dieGet d (0x0B0 + n)).getLsbD 63
      let set := s.dieSet d (0x0B0 + n) (x &&& sysMask 0x0B0)
      (x.getLsbD 63 = true → was = false → past → exec (.fgcWrite d n x) s = .next s) ∧
      (x.getLsbD 63 = true → was = false → ¬past → exec (.fgcWrite d n x) s = .next { set with grants := s.grants ++ [(d, n, b, x &&& sysMask 0x0B0)] }) ∧
      (x.getLsbD 63 = false → ∃ t, exec (.fgcWrite d n x) s = .next t ∧ t = { set with grants := t.grants } ∧
        ∀ g, g ∈ t.grants ↔ g ∈ s.grants ∧ ¬(g.1 = d ∧ g.2.1 = n))) ∧
    (n < 8 →
      let b := s.sysGet 0 (0x048 + n)
      let lg := b.toNat % 64
      let was := (s.sysGet 0 (0x050 + n)).getLsbD 63
      let bad := lg < 16 ∨ 36 < lg ∨ winBase b % 2 ^ lg ≠ 0 ∨ x.toNat / 2 ^ 48 % 256 < 2 ∨ winPair x = false ∨
        ∃ w ∈ s.windows, w.1 ≠ n ∧ winBase b < winBase w.2.1 + winSize w.2.1 ∧ winBase w.2.1 < winBase b + 2 ^ lg
      (x.getLsbD 63 = true → was = false → bad → exec (.rdwcWrite n x) s = .next s) ∧
      (x.getLsbD 63 = true → was = false → ¬bad → ∃ t, exec (.rdwcWrite n x) s = .next t ∧
        t = { s with sys := t.sys, windows := s.windows ++ [(n, b, x &&& sysMask 0x050)] } ∧ (t.sysGet 0 (0x050 + n)).getLsbD 63 = true) ∧
      (x.getLsbD 63 = false → ∃ t, exec (.rdwcWrite n x) s = .next t ∧ t = { s with sys := t.sys, windows := t.windows, heard := t.heard, contrib := t.contrib } ∧
        (∀ w, w ∈ t.windows ↔ w ∈ s.windows ∧ w.1 ≠ n) ∧ (t.sysGet 0 (0x050 + n)).getLsbD 63 = false)) ∧
    (∀ r, s.notices.find? (fun q => q.1 == ctx) = some r →
      let head := s.ctxGet ctx 0x013
      (s.ringSize ctx = 0 ∨ (head - s.ctxGet ctx 0x014).toNat = s.ringSize ctx → exec (.noticeRingDrain ctx) s = .next s) ∧
      (s.ringSize ctx ≠ 0 → (head - s.ctxGet ctx 0x014).toNat ≠ s.ringSize ctx → s.ctxGet ctx 0x016 = 0 →
        ∃ t, exec (.noticeRingDrain ctx) s = .next t ∧ t.notices = s.notices.erase r ∧ t.ctxGet ctx 0x013 = head + 1))

/-! ## Cuts, checkpoints and contexts (16_traps_preemption.md, 17_checkpoint.md) -/

/-- R438: a cut is asked for only in state 0; a wave pauses at its quiet bundle and reports it, and the last report makes KCUT the maximum; a wave
that stands at a quiet bundle with CUT at or above KCUT stops once it is quiet, and the last stop holds the cut; RELEASE lets every wave go on; the
limit fails the cut. -/
def Obligations.Cuts : Prop :=
  ∀ (s : State) (w : Nat),
    let freed := fun (t : State) => ∀ v ∈ t.waves, v.cutAt = none ∧ v.cutStop = false
    let runs := fun (s : State) i => s.cutCovers i = true ∧ (s.waveAt i).faulted = false ∧ ∃ l ∈ (s.waveAt i).lanes, l.st = .running
    let limit := (s.sysGet 0 0x029).toNat % 2 ^ 16 * 65536
    (s.cut.st = 0 → exec .cutRequest s = .next { s with cut := { st := 1, kcut := s.cut.kcut, since := s.cycle, task := 0, ctx := s.hwctx } }) ∧
    (s.cut.st ≠ 0 → exec .cutRequest s = .next s) ∧
    (s.cut.st ≠ 3 → exec .cutRelease s = .next s) ∧
    (s.cut.st = 3 → ∃ t, exec .cutRelease s = .next t ∧ t.cut.st = 0 ∧ freed t ∧ t.waves.length = s.waves.length ∧
      (¬(s.ckpt.active = true ∧ s.ckpt.mode = 1) → t = { s with cut := t.cut, waves := t.waves }) ∧
      (s.ckpt.active = true → s.ckpt.mode = 1 → t.ckpt.active = false)) ∧
    (s.cut.st ≠ 1 → exec (.cutReport w) s = .next s) ∧
    (∀ c, s.cut.st = 1 → w < s.waves.length → runs s w → (s.waveAt w).cutAt = none → s.quietAt w = some c →
      let others := fun j => j ≠ w ∧ j < s.waves.length ∧ runs s j
      ((∃ j, others j ∧ (s.waveAt j).cutAt = none) → exec (.cutReport w) s = .next (s.updWave w fun v => { v with cutAt := some c })) ∧
      ((∀ j, others j → (s.waveAt j).cutAt ≠ none) → ∃ t, exec (.cutReport w) s = .next t ∧ t = { s with cut := t.cut, waves := t.waves } ∧
        t.cut.st = 2 ∧ c ≤ t.cut.kcut ∧ (∀ j k, j ≠ w → j < s.waves.length → s.cutCovers j = true → (s.waveAt j).cutAt = some k → k ≤ t.cut.kcut) ∧
        (t.cut.kcut = c ∨ ∃ j, j < s.waves.length ∧ s.cutCovers j = true ∧ (s.waveAt j).cutAt = some t.cut.kcut))) ∧
    (s.cut.st ≠ 2 → exec (.cutStop w) s = .next s) ∧
    (∀ c, s.cut.st = 2 → w < s.waves.length → runs s w → (s.waveAt w).cutStop = false → s.quietAt w = some c → s.cut.kcut ≤ c →
      (s.waveQuiet w = false → exec (.cutStop w) s = .next s) ∧
      (s.waveQuiet w = true → (s.waveAt w).late = [] → (s.waveAt w).pend = none → (s.waveAt w).unsaved = false →
        let still := ∀ j, j < s.waves.length → s.cutCovers j = true → s.waveQuiet j = true
        let others := fun j => j ≠ w ∧ j < s.waves.length ∧ runs s j
        ((∃ j, others j ∧ (s.waveAt j).cutStop = false) ∨ ¬still → exec (.cutStop w) s = .next (s.updWave w fun v => { v with cutStop := true })) ∧
        ((∀ j, others j → (s.waveAt j).cutStop = true) → still → ∃ t, exec (.cutStop w) s = .next t ∧ t.cut.st = 3 ∧ t.cut.kcut = s.cut.kcut ∧
          (t.waveAt w).cutStop = true))) ∧
    (s.cut.st = 4 → exec .cutTimeout s = .next { s with cut := { s.cut with st := 0 } }) ∧
    (s.cut.st = 1 ∨ s.cut.st = 2 → limit ≠ 0 → s.cut.since + limit ≤ s.cycle →
      ∃ t, exec .cutTimeout s = .next t ∧ t.cut.st = 4 ∧ freed t ∧ (s.ckpt.mode ≤ 1 → t.ckpt.active = false)) ∧
    ((s.cut.st = 0 ∨ s.cut.st = 3) ∨ ((s.cut.st = 1 ∨ s.cut.st = 2) ∧ (limit = 0 ∨ s.cycle < s.cut.since + limit)) → exec .cutTimeout s = .next s)

/-- R435, R436, R451, R452, R459, R463-R465: the workgroups of a stopped gang are saved and wait for admission, and a saved gang that is admitted is
resident again; a waiting write of a copy-pending frame performs after the copy of its frame; a capture passes S, marks and releases, and writes its
shards in ascending index; a restore that fails a check ends with its status and one that passes them discards every wave and loads the system
registers of the control image. -/
def Obligations.CheckpointsAndContexts : Prop :=
  ∀ (s : State),
    (∀ g, g < s.wgs.length → (s.wgAt g).st = .saving → s.gangStill g = false → exec (.contextSave g) s = .next s) ∧
    (∀ g, (s.wgAt g).st ≠ .saving → exec (.contextSave g) s = .next s) ∧
    (∀ g, g < s.wgs.length → (s.wgAt g).st = .saving → s.gangStill g = true → s.stagingFull = false →
      ∃ t, exec (.contextSave g) s = .next t ∧ (∀ i ∈ s.gangOfWg g, (s.wgAt i).st = .saving → (t.wgAt i).st = .saved) ∧
        (∀ x, t.taskOf (s.wgAt g).task = some x → (s.wgAt g).gangNum (s.taskOfWg g) ∉ x.admitted) ∧
        ∀ c ∈ t.cmds, c ∈ s.cmds ∧ ¬(c.wg = g ∧ c.begun = false)) ∧
    ((∀ d, d < 8 → s.admissible d = none) → ∀ g, exec (.contextRestore g) s = .next s) ∧
    (∀ g d k n c, d < 8 → s.admissible d = some (k, n, c) → (s.wgAt g).st = .saved → (s.wgAt g).task = k.handle → (s.wgAt g).gangNum k = n →
      (∀ x ∈ s.wgs, ¬(x.task = k.handle ∧ x.num = (s.wgAt g).num ∧ x.st = .ended)) → 1 ≤ k.launch.gang → (∀ e, e < 8 → e ≠ d → s.admissible e = none ∧ (s.admitGang k n d c).admissible e = none) →
      ∃ t i, exec (.contextRestore g) s = .next t ∧ (t.wgAt i).st = .resident ∧ (t.wgAt i).task = k.handle ∧ (t.wgAt i).num = (s.wgAt g).num ∧
        (t.wgAt i).die = d ∧ (t.wgAt i).core = (c + (s.wgAt g).num % k.launch.gang) % 80) ∧
    (∀ id, s.held.find? (fun h => h.id == id) = none → s.hostQ = [] → exec (.copyPendingWrite id) s = .next s) ∧
    (∀ id h, s.held.find? (fun h => h.id == id) = some h → s.hostQ = [] →
      let stands := ∀ l, h.key / 128 ≤ l → l ≤ (h.key + h.bytes.length - 1) / 128 → (cget (zeros 6) s.keyids l).toNat = h.keyid
      let f := frameOf h.key
      let own := f / 2 ^ 22 * 2 ^ 38 + f % 2 ^ 22 * 65536
      let first := ∀ g ∈ s.held, frameOf g.key = f → id ≤ g.id
      (¬first ∨ (s.copyPending f = true ∧ s.freeStaging (keyDie h.key) = none) → exec (.copyPendingWrite id) s = .next s) ∧
      (first → s.copyPending f = false ∨ s.freeStaging (keyDie h.key) ≠ none → s.frameSt h.key ≠ 3 → h.key % 65536 + h.bytes.length ≤ 65536 →
        let marked := ∀ slot p, s.copyPending f = true → s.freeStaging (keyDie h.key) = some slot →
          s.stagingPlace (f / 2 ^ 22) slot = some p → p.leaf ||| 0x30000 = p.leaf
        ∃ t, exec (.copyPendingWrite id) s = .next t ∧ (marked → ∀ g, g ∈ t.held ↔ g ∈ s.held ∧ g.id ≠ id) ∧ readBytes t.mem h.key h.bytes.length = h.bytes ∧
          (s.copyPending f = false → stands → KeepsMem s t (inRun h.key h.bytes.length)) ∧
          ∀ slot p, stands → marked → s.copyPending f = true → s.freeStaging (keyDie h.key) = some slot → Memory.wf s.mem →
            s.stagingPlace (f / 2 ^ 22) slot = some p → (∀ a, inRun h.key h.bytes.length a → ¬inRun p.key 65536 a) →
            f ∈ t.ckpt.taken ∧ (f, slot) ∈ t.ckpt.staged ∧ ∀ i, i < 65536 → byteAt t (p.key + i) = byteAt s (own + i))) ∧
    (s.ckpt.active = false ∨ s.ckpt.mode ≠ 0 → exec .ckptCapture s = .next s) ∧
    (s.ckpt.active = true → s.ckpt.mode = 0 →
      let n := s.ckpt.entries.length
      let lost := 9 ≤ n ∧ ∃ f ∈ shardFrames n, s.ckpt.staged.lookup f = some noSlot
      (s.ckpt.phase = 0 → s.cut.st ≠ 3 → exec .ckptCapture s = .next s) ∧
      (s.ckpt.phase = 0 → s.cut.st = 3 → s.ckpt.base = 0 → ∃ t, exec .ckptCapture s = .next t ∧ t.ckpt.on = true ∧ t.ckpt.phase = 1 ∧
        t.ckpt.taken = [] ∧ t.ckpt.done = 0 ∧ t.rdc = [] ∧ t.mem = s.mem ∧ t.waves = s.waves ∧ t.ckpt.ctl = s.controlImage) ∧
      (s.ckpt.phase = 1 → s.cut.st = 3 → ∃ t, exec .ckptCapture s = .next t ∧ t.ckpt.phase = 2 ∧ t.cut.st = 0 ∧ t.ckpt.active = true ∧
        ∀ v ∈ t.waves, v.cutStop = false) ∧
      (s.ckpt.phase = 2 → n < recShard → s.shardRaw n = none ∨ lost → ∃ t, exec .ckptCapture s = .next t ∧ t.ckpt.active = false ∧ t.ckpt.on = false) ∧
      (∀ raw, s.ckpt.phase = 2 → n < recShard → ¬lost → s.shardRaw n = some raw → (∀ b ∈ raw, b = 0) → ∃ t, exec .ckptCapture s = .next t ∧
        t = { s with ckpt := t.ckpt } ∧ t.ckpt.entries = s.ckpt.entries ++ [{ digest := BitVec.ofNat 512 (natOfBytes (sha512 raw)), loc := 0, clen := 0, flags := 8 }]) ∧
      (∀ raw e, s.ckpt.phase = 2 → n < recShard → s.shardRaw n = some raw → (∃ b ∈ raw, b ≠ 0) → s.ckpt.base = 0 →
        (match s.ckptShard n with | .ok t => some (t.ckpt.entries.getLast?) | .error _ => none) = some (some e) →
        ∃ t, exec .ckptCapture s = .next t ∧ t.ckpt.entries = s.ckpt.entries ++ [e] ∧ e.digest = BitVec.ofNat 512 (natOfBytes (sha512 raw)) ∧
          s.ckpt.area + 516 * 2 ^ 20 ≤ e.loc ∧ (e.loc - s.ckpt.area) % 128 = 0 ∧ e.clen ≤ raw.length)) ∧
    (s.ckpt.active = false ∨ s.ckpt.mode ≠ 2 → exec .ckptRestore s = .next s) ∧
    (s.ckpt.active = true → s.ckpt.mode = 2 →
      let manifest := s.readManifest s.ckpt.ctx s.ckpt.desc.toNat
      (∀ st, s.manifestStatus manifest = some st → exec .ckptRestore s = .next (s.ckptEnd st)) ∧
      ∀ m, manifest = some m → s.manifestStatus manifest = none →
        let n := (manifestStream m + shardLen - 1) / shardLen
        let good := manifestCount m = n ∧ ∀ i, i < n → (s.goodShard s.ckpt.ctx m i).isSome = true
        (¬good → exec .ckptRestore s = .next (s.ckptEnd 8)) ∧
        (good → s.linesGood s.ckpt.ctx (s.ckptRegions s.ckpt.ctx m) = false → exec .ckptRestore s = .next (s.ckptEnd 0x0A)) ∧
        (good → s.linesGood s.ckpt.ctx (s.ckptRegions s.ckpt.ctx m) = true → ∃ t, exec .ckptRestore s = .next t ∧ t.ckpt.active = false ∧
          t.cut.st = 0 ∧ t.l1 = [] ∧ t.tlb = [] ∧ t.images = [] ∧ t.msgs = [] ∧ t.cmds = [] ∧ t.halted = false ∧
          ∀ cp c, (cp = 0 ∧ (c = 8 ∨ c = 9 ∨ c = 0x029)) ∨ (1 ≤ cp ∧ cp ≤ 8 ∧ 0x030 ≤ c ∧ c ≤ 0x035) →
            t.sysGet cp c = BitVec.ofNat 64 (imageWord ((List.range 9).map fun i => (s.goodShard s.ckpt.ctx m i).getD []) (2048 * cp + 8 * c)) &&&
              sysMask c))

/-! ## Native operations, issue and translation (03_tvedah_native.md, 04_control.md, 15_determinism.md) -/

/-- R80, R86, R89-R91, R95-R101: the native-only operations move registers, tiles and frame words: a mov and a qmov write their register in the
lanes of the group, a kmov waits while a matrix operation names a tile of it and leaves its destination undefined until LAT has passed, a spill
stores to the frame words of its lanes, a fill lands LAND cycles after its issue, and raises 0x80 then where a line of it is in error, fmtset acts
five cycles after it, and land waits for every landing. The portable place of the group stays; a register with a landing on its way reads as
undefined. -/
def Obligations.NativeOperations : Prop :=
  ∀ (s : State) (dst sa imm cyc : BitVec 10) (hi callee : Bool) (lit : Option Word) (word : Word), s.issue.wave < s.waves.length →
    let goesOn := fun (t : State) => (∀ j, j ≠ s.issue.wave → t.waves[j]? = s.waves[j]?) ∧ t.wv.retired = s.wv.retired + 1 ∧
      t.wv.sincePhase = s.wv.sincePhase + 1 ∧ t.wv.frec = s.wv.frec ∧ t.wv.late = s.wv.late ∧ t.wv.fpf = s.wv.fpf ∧
      ∀ L, (Off s L → t.wv.lane L = s.wv.lane L) ∧ (On s L → ∃ g r m, t.wv.lane L =
        { s.wv.lane L with g := g, s := r, fm := m, bpos := (s.wv.lane L).bpos + 1 })
    let waves := fun (t : State) => t = { s with waves := t.waves } ∧ goesOn t
    let keepsRegs := fun (t : State) (d : Nat) => ∀ r L, L < 32 → r ≠ d ∨ Off s L → t.wv.regRead r L = s.wv.regRead r L
    let d := dst.toNat
    let x := fun L : Nat => match lit with | some k => k.toNat | none => (s.reg sa.toNat L).toNat
    let where_ := fun r wr L => s.framePlace r imm.toNat callee wr L
    let past := fun r L => 16383 < s.frameWord imm.toNat callee L + (if 768 ≤ r ∧ r < 832 then 2 else 1) - 1
    (∀ i ∈ [Instr.nop, .emptyBundle], ∃ t, exec i s = .next t ∧ waves t ∧ keepsRegs t 1024) ∧
    (∃ t, exec (.mov dst sa hi lit) s = .next t ∧ waves t ∧ keepsRegs t d ∧ ∀ L, On s L →
      (d < 768 → (t.wv.regRead d L).toNat = (if hi = true then x L / 2 ^ 32 else x L) % 2 ^ 32) ∧
      (768 ≤ d → d < 832 → (t.wv.regRead d L).toNat = x L) ∧
      (832 ≤ d → d < 848 → (t.wv.regRead d L).toNat = if x L = 0 then 0 else 1)) ∧
    (832 ≤ d → d < 848 → ∃ t, exec (.qmov dst sa) s = .next t ∧ waves t ∧ keepsRegs t d ∧
      ∀ L, On s L → (t.wv.regRead d L = 0 ↔ s.reg sa.toNat L = 0)) ∧
    (856 ≤ d → d < 872 → 856 ≤ sa.toNat → sa.toNat < 872 → cwf (zeros 32) s.wv.tiles = true →
      let a := sa.toNat - 856
      let busy := s.tileBusy s.wv.token (d - 856) = true ∨ s.tileBusy s.wv.token a = true
      (busy → Waits (.kmov dst sa) s) ∧
      (¬busy → ∃ t, exec (.kmov dst sa) s = .next t ∧ goesOn t ∧ (d - 856, s.cycle + if dieClass s.wv.die = 1 then 16 else 4) ∈ t.wv.tilePend ∧
        (∀ k, ¬((d - 856) * 8192 ≤ k ∧ k < (d - 855) * 8192) → cget (zeros 32) t.wv.tiles k = cget (zeros 32) s.wv.tiles k) ∧
        ((∀ e ∈ s.wv.tilePend, e.1 = a → e.2 ≤ s.cycle) → waves t ∧ ∀ k, (d - 856) * 8192 ≤ k → k < (d - 855) * 8192 →
          cget (zeros 32) t.wv.tiles k = cget (zeros 32) s.wv.tiles (a * 8192 + (k - (d - 856) * 8192))))) ∧
    ((∃ L, On s L) → (∀ L, On s L → past sa.toNat L) → exec (.spill sa imm callee) s =
      .next (s.fault (cause 0x25) s.issue.mask 0 (s.frameWord imm.toNat callee s.lowLane))) ∧
    (∀ ws : Nat → List (Nat × Phys), (∀ L, On s L → where_ sa.toNat true L = .ok (ws L) ∧ s.placeBad wordMod 4 (.words (ws L)) = false) →
      (∀ L M a b, On s L → On s M → a ∈ ws L → b ∈ ws M → L ≠ M → a.2.key + 4 ≤ b.2.key ∨ b.2.key + 4 ≤ a.2.key) →
      (∀ L, On s L → ((ws L).map fun a => a.2.key).Pairwise (fun a b => a + 4 ≤ b ∨ b + 4 ≤ a)) →
      (∀ L a, On s L → a ∈ ws L → a.2.key % 4 = 0) → s.ckpt.on = false → (∀ l ∈ s.l1, l.data.length = 128) →
      ∃ t, exec (.spill sa imm callee) s = .next t ∧ goesOn t ∧ t.wgs = s.wgs ∧ t.msgs = s.msgs ∧ ∀ L, On s L →
        ((ws L).flatMap fun a => t.wordRead s.gcore a.2.key) = bytesOfNat (4 * (ws L).length) (s.reg sa.toNat L).toNat) ∧
    (∀ ws : Nat → List (Nat × Phys), (∀ L, On s L → where_ d false L = .ok (ws L)) →
      let u := s.activeLanes.foldl (fun u L => u.touchPlace (s.accOf s.wv .priv true false) (.words (ws L))) s
      let bad := fun L => On s L ∧ s.placeBad wordMod 4 (.words (ws L)) = true
      ((∀ L, ¬bad L) → ∃ t e, exec (.fill dst imm callee cyc) s = .next t ∧ goesOn t ∧ t.wgs = s.wgs ∧ t.wv.landings = s.wv.landings ++ [e] ∧
        e.due = s.cycle + cyc.toNat ∧ e.data = s.activeLanes.map fun L =>
          (d, L, BitVec.ofNat 64 (natOfBytes ((ws L).flatMap fun a => u.wordRead s.gcore a.2.key)))) ∧
      ((∃ L, bad L) → ∃ t f, exec (.fill dst imm callee cyc) s = .next t ∧ t.wgs = s.wgs ∧ t.wv.landings = s.wv.landings ∧
        t.wv.late = s.wv.late ++ [f] ∧ f.cause = 0x80 ∧ f.due = s.cycle + cyc.toNat ∧ ∀ L, L < 32 → (f.prim.getLsbD L = true ↔ bad L))) ∧
    (s.wv.landings ≠ [] ∨ (∃ f ∈ s.wv.late, s.cycle < f.due) → Waits .land s) ∧
    (s.wv.landings = [] → (∀ f ∈ s.wv.late, f.due ≤ s.cycle) → ∃ t, exec .land s = .next t ∧ waves t ∧ keepsRegs t 1024) ∧
    (∃ t, exec (.fmtset dst word) s = .next t ∧ waves t ∧ keepsRegs t 1024 ∧
      t.wv.fmPend = s.wv.fmPend ++ [{ due := s.cycle + 5, reg := d - 872, mask := s.issue.mask, v := word &&& 0xFFF000 }]) ∧
    ∃ t, exec (.landing s.issue.wave) s = .next t ∧ t = { s with waves := t.waves } ∧
      (∀ e, e ∈ t.wv.landings ↔ e ∈ s.wv.landings ∧ ¬(e.due ≤ s.cycle ∧ (e.back ≤ e.due ∨ e.back < s.cycle))) ∧ (∀ e, e ∈ t.wv.fmPend ↔ e ∈ s.wv.fmPend ∧ s.cycle < e.due) ∧
      ∀ e r L v, (∀ x ∈ s.wv.landings, x = e ∨ s.cycle < x.due) → s.wv.landings.count e = 1 → e.due ≤ s.cycle → (e.back ≤ e.due ∨ e.back < s.cycle) →
        L < 32 → r < 832 → (r, L, v) ∈ e.data → (e.data.map fun x => (x.1, x.2.1)).Nodup →
        t.wv.regRead r L = if r < 768 then (v.setWidth 32).setWidth 64 else v

/-- R127, R129-R131, R136, R395-R397, R426, R471: a wave that has issued nothing for 64 cycles, or has waited 8 under throttling, takes the primary
place; a group not offered for 64 issues is offered next; an empty turn passes; a missing translation is requested and counted, its end enters the
die's cache or fails its waiters, and a wave goes on in the translation at its new budget at a map point. -/
def Obligations.IssueAndTranslation : Prop :=
  ∀ (s : State) (d core n w : Nat),
    let lowest := fun (p : Nat → Prop) i => p i ∧ ∀ j, p j → (s.waveAt i).slot < (s.waveAt j).slot ∨ (j = i ∨ (s.waveAt j).slot = (s.waveAt i).slot ∧ i < j)
    let starved := fun i => i ∈ s.readyOn d core ∧ 64 ≤ (s.waveAt i).starve ∧ s.isOrdered i = false
    let slow := fun i => s.throttledCore d core = true ∧ i ∈ s.readyOn d core ∧ 8 ≤ (s.waveAt i).throttled ∧ s.isOrdered i = false
    let first := fun i => s.updWave i fun v => { v with primary := true }
    ((∀ i, ¬starved i) → exec (.starvationPrimary d core) s = .next s) ∧
    (∀ i, lowest starved i → exec (.starvationPrimary d core) s = .next (first i)) ∧
    ((∀ i, ¬slow i) → exec (.throttlePrimary d core) s = .next s) ∧
    (∀ i, slow i → (∀ j, slow j → j ≠ i → (s.waveAt j).throttled < (s.waveAt i).throttled ∨ ((s.waveAt j).throttled = (s.waveAt i).throttled ∧
      (s.waveAt i).slot < (s.waveAt j).slot)) → exec (.throttlePrimary d core) s = .next (first i)) ∧
    (∀ e, (s.waveAt w).unoffered.find? (fun e => decide (64 ≤ e.2) && (s.ranked w).any fun g => g.1 == e.1) = some e → (s.waveAt w).offerNext = none →
      exec (.groupOfferRotate w) s = .next (s.updWave w fun v => { v with offerNext := some e.1 })) ∧
    ((∀ e ∈ (s.waveAt w).unoffered, (∃ g ∈ s.ranked w, g.1 = e.1) → e.2 < 64) ∨ (s.waveAt w).offerNext ≠ none →
      exec (.groupOfferRotate w) s = .next s) ∧
    (s.orderedGang w = none → exec (.emptyTurn w) s = .next s) ∧
    (∀ g, s.orderedGang w = some g → s.nextTurn g ≠ some (w, true) → exec (.emptyTurn w) s = .next s) ∧
    (∀ g, s.orderedGang w = some g → s.nextTurn g = some (w, true) → s.cutHolds w = false → s.halted = false →
      ∃ t, exec (.emptyTurn w) s = .next t ∧ t = { s with gangs := t.gangs, waves := t.waves } ∧ (w < s.waves.length → (t.waveAt w).passTurn = false) ∧
        t.gangs = s.gangs.map fun x => if x.task == g.task && x.num == g.num then
          (if x.plan.length ≤ 1 then { x with plan := [], fc := (x.fc + 1) % 2 ^ 64, frameEnd := s.cycle + 1 } else { x with plan := x.plan.tail }) else x) ∧
    ((∀ g ∈ s.offers w, s.hasImage w g.1 = true) → (s.waveAt w).evicted = false → exec (.translationMiss w) s = .next s) ∧
    (∀ g, w < s.waves.length → s.mayIssue w = true → (s.waveAt w).xfail = none → (s.waveAt w).evicted = false →
      (s.offers w).find? (fun g => !s.hasImage w g.1) = some g →
      let k := s.locKey (s.waveAt w) g.1
      let x := s.waveAt w
      (∀ r ∈ s.transReqs, r.die = x.die → r.key = k → x.token ∉ r.waiters) →
      ∃ t r, exec (.translationMiss w) s = .next t ∧ r ∈ t.transReqs ∧ r.die = x.die ∧ r.key = k ∧ x.token ∈ r.waiters ∧ t.waves = s.waves ∧
        t.dieGet x.die 0x021 = (s.dieGet x.die 0x021 + 1) &&& 0xFFFFFFFF) ∧
    (∀ r m f, (s.transReqs.filter fun r => r.die == d)[n]? = some r → s.moduleOf r.handle = some m → s.funcOf r.handle r.key.func = some f →
      let x := translate m f r.key.cls r.key.budget r.key.dmode
      let units := max 1 (((x.bytes r.key).length + 65535) / 65536)
      (∀ why, x.fail = some why → (s.dieGet d 0x020).getLsbD 2 = false → ∃ t, exec (.translationComplete d n) s = .next t ∧
        t = { s with waves := t.waves, transReqs := s.transReqs.erase r } ∧
        ∀ i, i < s.waves.length → (s.waveAt i).live = true → (s.waveAt i).token ∈ r.waiters →
          (∀ j, j < i → (s.waveAt j).live = true → (s.waveAt j).token ≠ (s.waveAt i).token) → (t.waveAt i).xfail = some why) ∧
      (∀ u, x.fail = none → ({ s with transReqs := s.transReqs.erase r } : State).freeUnits d units = some u →
        let at_ := physKey d (Config.reservation + 65536 * u)
        ∃ t i, exec (.translationComplete d n) s = .next t ∧
        t = { s with images := t.images, transReqs := s.transReqs.erase r, mem := t.mem, keyids := t.keyids } ∧ i ∈ t.images ∧ i.die = d ∧
        i.key = r.key ∧ i.plan = x.plan ∧ i.maps = x.maps ∧ i.stale = false ∧ i.unit = u ∧ i.units = units ∧ u + units ≤ 4096 ∧
        (Memory.wf s.mem → readBytes t.mem at_ (x.bytes r.key).length = x.bytes r.key) ∧
        ∀ j ∈ t.images, (j.die = d ∧ j.key = r.key → j = i ∨ (j.stale = true ∧ s.pinned j = true)) ∧
          (j.die = d → j ≠ i → j.unit + j.units ≤ u ∨ u + units ≤ j.unit ∨ j.units = 0))) ∧
    (s.migrationPoint w = none → exec (.waveMigrate w) s = .next s) ∧
    ∀ l new, w < s.waves.length → s.resident w = true → (s.waveAt w).faulted = false → (s.waveAt w).xfail = none → s.migrationPoint w = some l →
      let b := min (s.waveAt w).budget (s.wgAt (s.waveAt w).wg).budget
      (∀ e ∈ (s.waveAt w).landings, e.back ≤ s.cycle) → (s.waveAt w).cold = [] →
      s.freshImage (s.waveAt w).die { s.locKey (s.waveAt w) l with budget := b } = some new →
      ∃ t, exec (.waveMigrate w) s = .next t ∧ (t.waveAt w).budget = b ∧ t.wgs = s.wgs ∧
        ∀ L, L < 32 →
          let x := (s.waveAt w).lane L
          let y := (t.waveAt w).lane L
          (x.st = .running → x.pc = l → y.pc.bud = new.key.budget ∧ y.pc.handle = l.handle ∧ y.frames = x.frames ∧ y.st = .running) ∧
          (x.st ≠ .running ∨ x.pc ≠ l → y.pc = x.pc ∧ y.st = x.st)

/-! ## Memory events and the fabric (08_memory.md, 16_traps_preemption.md R424, 18_power_package_trust.md R487-R490) -/

/-- R237, R241-R243, R246, R424: the walker sets A and D in the leaf entry; a remote write is denied by its home die, with a record in the die's
log, or waits for the sharers of its line to drop their copies and then performs, after the earlier writes of its agent, its core or its ordered
gang to its bytes, on the line as its page's key ID gives it; one to another device leaves by a port, or is turned away with none in service; a
denial becomes the wave's pending fault, or its command's status; a fill is installed unless an invalidation came first. -/
def Obligations.MemoryEvents : Prop :=
  ∀ (s : State) (d ctx id : Nat) (va : Dword) (write : Bool), s.ckpt.on = false →
    (∀ p, s.walk ctx va.toNat = .ok p → inLoaderWindow va.toNat = false → s.frameSt p.ekey ≠ 3 → ∃ t, exec (.pageWalk d ctx va write) s = .next t ∧ t.waves = s.waves ∧
      t.tableEntry p.ekey = (p.leaf ||| if write = true ∧ eW p.leaf = true then 0x30000 else 0x10000) ∧
      (∀ a, lineOf a ≠ lineOf p.ekey → byteAt t a = byteAt s a) ∧ ((cget (zeros 6) s.keyids (lineOf p.ekey)).toNat = 0 → KeepsMem s t (inRun p.ekey 8))) ∧
    (∀ p, s.walk ctx va.toNat = .ok p → inLoaderWindow va.toNat = true → exec (.pageWalk d ctx va write) s = .next s) ∧
    (∀ c, s.walk ctx va.toNat = .error c → exec (.pageWalk d ctx va write) s = .next s) ∧
    (s.msgAt id = none → ∀ i ∈ [Instr.remoteWriteCheck id, .rdcInvalidation d id, .homeWritePerform id, .negativeAckArrival id], exec i s = .next s) ∧
    (∀ m, s.msgAt id = some m →
      let k := physKey m.home m.dpa
      let line := lineOf k
      let cause := if s.frameDenies m.user k = true then 0x27 else if s.uncorr k = true then 0x80 else 0
      let sharers := fun (e : Nat) => e < 8 ∧ (cget (zeros 8) s.shr line).getLsbD e = true
      let port := s.fabPort m.srcDie m.dpa
      let earlier := fun (x : Msg) => x ∈ s.msgs ∧ x.id < m.id ∧ ((m.release = true ∧ x.wave = m.wave) ∨
        (((x.wave = m.wave ∧ x.cmd = m.cmd) ∨ (x.core ≠ none ∧ x.core = m.core) ∨ s.sameGang x.wave m.wave = true) ∧
          x.vkey < m.vkey + m.len ∧ m.vkey < x.vkey + x.len))
      let v := s.meetKey k m.len m.keyid
      let pends := fun (t : State) (c : Nat) => ∀ i, m.cmd = none → s.waveOf m.wave = some i →
        ((s.waveAt i).pend = none → ∃ f, (t.waveAt i).pend = some f ∧ f.cause = c ∧ f.count = 0 ∧ f.addr = m.va ∧ f.die = m.home ∧ f.loc = m.loc) ∧
        ∀ f, (s.waveAt i).pend = some f → (t.waveAt i).pend = some { f with count := f.count + 1 }
      (m.st = .sent → m.tfdn = none → cause = 0 → ∃ t n, exec (.remoteWriteCheck id) s = .next t ∧ t = { s with msgs := t.msgs } ∧
        t.msgAt id = some n ∧ n = { m with st := .accepted, invs := n.invs } ∧ ∀ e, e ∈ n.invs ↔ sharers e) ∧
      (m.st = .sent → m.tfdn = none → cause ≠ 0 → ∃ t, exec (.remoteWriteCheck id) s = .next t ∧
        t.msgAt id = some { m with st := .denied, cause := cause } ∧ t.waves = s.waves ∧
        let head := s.dieGet m.home 0x025
        let base := (s.dieGet m.home 0x024).toNat
        ((head - s.dieGet m.home 0x026).toNat ≠ 128 → base < Config.reservation → t.dieGet m.home 0x025 = head + 1 ∧
          readBytes t.mem (physKey m.home (base + 32 * (head.toNat % 128))) 8 = bytesOfNat 8 m.va.toNat)) ∧
      (m.st ≠ .sent → exec (.remoteWriteCheck id) s = .next s) ∧
      (m.st = .sent → m.tfdn ≠ none → s.writtenBefore m = true → exec (.remoteWriteCheck id) s = .next s) ∧
      (∀ f, m.st = .sent → m.tfdn = some f → s.writtenBefore m = false → s.portUp port = false → ∃ t, exec (.remoteWriteCheck id) s = .next t ∧ t.msgAt id = none ∧ pends t 0x80) ∧
      (∀ f bs, m.st = .sent → m.tfdn = some f → s.writtenBefore m = false → s.portUp port = true → port < s.ports.length → m.fx = .bytes bs → bs ≠ [] →
        m.dpa % 128 + bs.length ≤ 128 → ∃ t g, exec (.remoteWriteCheck id) s = .next t ∧ t.mem = s.mem ∧ t.waves = s.waves ∧
          (t.portAt port).outbox = (s.portAt port).outbox ++ [g] ∧ g.op = 3 ∧ g.sdie = m.srcDie ∧ g.ddie = m.home ∧ g.addr = m.dpa / 128 * 128 ∧
          g.sfdn = s.fdn ∧ g.dfdn = f.toNat ∧ g.data = writeData (m.dpa % 128) bs ∧
          t.msgAt id = some { m with st := .accepted, invs := [g.tid.toNat] }) ∧
      (m.st = .accepted → m.tfdn = none → d ∈ m.invs → ∃ t, exec (.rdcInvalidation d id) s = .next t ∧ t.mem = s.mem ∧
        t.msgAt id = some { m with invs := m.invs.erase d } ∧ (∀ e, e ∈ t.rdc ↔ e ∈ s.rdc ∧ e ≠ (d, line)) ∧
        ∀ f ∈ t.rdcFills, f.1 = d → f.2.1 = line → f.2.2 = false) ∧
      (m.st = .accepted → m.tfdn = none → m.invs ≠ [] → exec (.homeWritePerform id) s = .next s) ∧
      (m.st = .accepted → m.tfdn = none → m.invs = [] → (∃ x, earlier x) → exec (.homeWritePerform id) s = .next s) ∧
      (m.st = .accepted → m.tfdn = none → m.invs = [] → (∀ x, ¬earlier x) → s.frameSt k ≠ 3 → s.heldOn k m.len = false →
        ∃ t, exec (.homeWritePerform id) s = .next t ∧ t.msgAt id = none ∧ t.waves = s.waves ∧
          (∀ bs, m.fx = .bytes bs → readBytes t.mem k bs.length = bs ∧ KeepsMem v t (inRun k bs.length)) ∧
          ∀ opc ty vs, m.fx = .rmw opc ty vs → KeepsMem v t (inRun k (atomBytes ty)) ∧ readBytes t.mem k (atomBytes ty) =
            bytesOfVal (atomBytes ty) (vs.foldl (fun x a => atomF opc ty x a 0) (valOfBytes (readBytes v.mem k (atomBytes ty))))) ∧
      (m.st ≠ .denied → exec (.negativeAckArrival id) s = .next s) ∧
      (m.st = .denied → ∃ t, exec (.negativeAckArrival id) s = .next t ∧ t.msgAt id = none ∧ pends t m.cause ∧
        ((∀ i, s.waveOf m.wave = some i → (s.waveAt i).faulted = false) → t.mem = s.mem) ∧
        ∀ c x, m.cmd = some c → x ∈ t.cmds → x.id = c → x.status = 2)) ∧
    (∀ line f, s.rdcFills.find? (fun f => f.1 == d && f.2.1 == line) = some f → ∃ t, exec (.rdcFillArrival d line) s = .next t ∧
      t.rdcFills = s.rdcFills.erase f ∧ t.mem = s.mem ∧ (f.2.2 = false → t.rdc = s.rdc) ∧ (f.2.2 = true → (d, line) ∈ t.rdc)) ∧
    ∀ (sfdn : BitVec 8) (dpa len : Nat),
      let k := physKey d dpa
      let covers := ∃ g ∈ s.grants, let ctl := g.2.2.2
        g.1 = d ∧ g.2.2.1.toNat / 2 ^ 16 % 2 ^ 22 * 65536 ≤ dpa ∧ dpa + len ≤ g.2.2.1.toNat / 2 ^ 16 % 2 ^ 22 * 65536 + (ctl.toNat % 2 ^ 22 + 1) * 65536 ∧
          (ctl.getLsbD 61 = true ∨ ctl.toNat / 2 ^ 48 % 256 = sfdn.toNat) ∧ (write = true → ctl.getLsbD 62 = true)
      let frame := s.frameSt k = 0 ∨ (s.frameSt k = 1 ∧ write = false)
      let cause := if covers ∧ frame then (if s.uncorr k = true then 0x80 else 0) else 0x27
      let serves := d < 8 ∧ (s.dieAt d).ok = true ∧ (s.dieAt d).withdrawn = false ∧ dpa < Config.dieBytes
      (cause = 0 ∨ ¬serves → exec (.fabricInboundAccess d sfdn write dpa len) s = .next s) ∧
      (cause ≠ 0 → serves → exec (.fabricInboundAccess d sfdn write dpa len) s = .next (s.logDenial d dpa 0 0xFFFF 0 cause sfdn.toNat))

/-- R242, R243, R301, R487-R490: a message at the head of a port's inbox is served at its die, on the line as its grant's key ID gives it, or turned
away; an answer reaches the request that waits for its number; a data flit is accepted in sequence, an acknowledgement frees what it covers, a
negative one or a timeout makes the sender send again, and the seventeenth time the port fails; the keys of a port roll over. -/
def Obligations.FabricLinks : Prop :=
  ∀ (s : State) (p : Nat), p < s.ports.length → s.ckpt.on = false →
    let x := s.portAt p
    let events := [Instr.fabricRead p, .fabricReadData p, .fabricWrite p, .fabricAtomic p, .fabricAtomicData p, .fabricWriteAck p,
      .fabricNegativeAck p, .fabricContribution p]
    (x.inbox = [] → ∀ i ∈ events, exec i s = .next s) ∧
    (∀ m ms, x.inbox = m :: ms →
      let s' := s.updPort p fun x => { x with inbox := ms }
      let line := m.addr / 128 * 128
      let serves := fun (dpa : Nat) => m.ddie < 8 ∧ (s.dieAt m.ddie).ok = true ∧ (s.dieAt m.ddie).withdrawn = false ∧ dpa < Config.dieBytes
      let answers := fun (t : State) (op aop : Nat) (data : List Byte) => (t.portAt p).inbox = ms ∧ (t.portAt p).outbox = x.outbox ++ [{ m with
        op := op, sdie := m.ddie, ddie := m.sdie, aop := aop, sfdn := s.fdn, dfdn := m.sfdn, data := data }]
      let key := fun dpa => physKey m.ddie dpa
      let ty := (Ty.ofCode m.etype).getD tyN32
      let n := atomBytes ty
      let met := fun (w : Bool) (dpa len : Nat) =>
        s.meetKey (key dpa) len (((s.grantOf m.ddie m.sfdn w dpa len).map fun g => g.2.2.2.toNat / 2 ^ 32 % 64).getD 0)
      let old := valOfBytes (readBytes (met true m.addr n).mem (key m.addr) n)
      let new := atomF (m.aop + 0x200) ty old (valOfBytes ((m.data.take 16).take n)) (valOfBytes (((m.data.drop 16).take 16).take n))
      (∀ i dpa, (m.op = 1 ∧ i = Instr.fabricRead p ∧ dpa = line) ∨ (m.op = 3 ∧ i = .fabricWrite p ∧ dpa = line) ∨
          (m.op = 4 ∧ i = .fabricAtomic p ∧ dpa = m.addr) →
        ¬serves dpa → ∃ t, exec i s = .next t ∧ answers t 7 0x27 [] ∧ t.mem = s.mem) ∧
      (m.op = 1 → serves line → s.inboundCause m.ddie m.sfdn false line 128 = 0 → ∃ t, exec (.fabricRead p) s = .next t ∧
        answers t 2 0 (readBytes (met false line 128).mem (key line) 128) ∧ t.mem = (met false line 128).mem) ∧
      (m.op = 3 → serves line → s.inboundCause m.ddie m.sfdn true line 128 = 0 → ∃ t, exec (.fabricWrite p) s = .next t ∧ answers t 6 0 [] ∧
        KeepsMem s t (inRun (key line) 128) ∧ ∀ i, i < 128 →
          ((natAt m.data 0 16).testBit i = true → byteAt t (key line + i) = m.data.getD (16 + i) 0) ∧
          ((natAt m.data 0 16).testBit i = false → byteAt t (key line + i) = byteAt (met true line 128) (key line + i))) ∧
      (m.op = 4 → serves m.addr → s.inboundCause m.ddie m.sfdn true m.addr n = 0 → ∃ t, exec (.fabricAtomic p) s = .next t ∧
        answers t 5 0 (bytesOfVal 16 old) ∧ KeepsMem (met true m.addr n) t (inRun (key m.addr) n) ∧ readBytes t.mem (key m.addr) n = bytesOfVal n new) ∧
      (∀ i reply c, (m.op = 2 ∧ i = Instr.fabricReadData p ∧ reply = some m.data ∧ c = 0) ∨ (m.op = 5 ∧ i = .fabricAtomicData p ∧ reply = some m.data ∧ c = 0) ∨
          (m.op = 6 ∧ i = .fabricWriteAck p ∧ reply = some [] ∧ c = 0) ∨
          (m.op = 7 ∧ i = .fabricNegativeAck p ∧ reply = none ∧ c = if m.aop = 0x80 then 0x80 else 0x27) →
        ((∃ r ∈ s.fabReqs, r.msg.tid = m.tid) → ∃ t, exec i s = .next t ∧ t = { s' with fabReqs := t.fabReqs } ∧
          t.fabReqs = s.fabReqs.map fun r => if r.msg.tid == m.tid then { r with reply := reply, cause := c } else r) ∧
        (∀ w, (∀ r ∈ s.fabReqs, r.msg.tid ≠ m.tid) → s.msgs.find? (fun w => w.tfdn.isSome && w.st == .accepted && w.invs.contains m.tid.toNat) = some w →
          (w.invs.erase m.tid.toNat ≠ [] → ∃ t, exec i s = .next t ∧ t = { s' with msgs := t.msgs } ∧
            t.msgAt w.id = (s.msgAt w.id).map fun _ => { w with invs := w.invs.erase m.tid.toNat, cause := if c = 0 then w.cause else c }) ∧
          (w.invs.erase m.tid.toNat = [] → ∃ t, exec i s = .next t ∧ t.msgAt w.id = none ∧
            (c = 0 → w.cause = 0 → t = { s' with msgs := t.msgs }) ∧
            (∀ j, c ≠ 0 → w.cmd = none → s.waveOf w.wave = some j → (s.waveAt j).pend = none →
              ∃ f, (t.waveAt j).pend = some f ∧ f.cause = c ∧ f.addr = w.va)))) ∧
      (∀ w, m.op = 8 → s.windows.find? (fun w => bits w.2.2 32 16 == m.tid.toNat % 2 ^ 16 && bit w.2.2 61) = some w →
        ∃ t r, exec (.fabricContribution p) s = .next t ∧ t = { s' with rounds := t.rounds, heard := t.heard } ∧ r ∈ t.rounds ∧ r.window = w.1 ∧ r.off = m.addr ∧
          ∃ c ∈ r.parts, c.fdn = m.sfdn ∧ c.num = m.tid.toNat / 2 ^ 16 ∧ c.v = valOfBytes (m.data.take 16))) ∧
    (∀ bytes, x.failed = false →
      let hd := natAt bytes 0 16
      let good := 480 ≤ bytes.length ∧ hd / 2 ^ 56 % 2 ^ 8 = 1 ∧ x.rxKeys.contains (hd / 2 ^ 55 % 2) = true ∧ hd / 2 ^ 64 = x.expSeq
      ∃ t, exec (.dataFlit p bytes) s = .next t ∧ t = { s with ports := t.ports } ∧
        (good → (t.portAt p).expSeq = x.expSeq + 1 ∧ (∃ f, (t.portAt p).replies = x.replies ++ [f] ∧ f.kind = 2 ∧ f.seq = x.expSeq) ∧
          ∃ got, (t.portAt p).inbox = x.inbox ++ got ∧ ∀ m ∈ got, m.sfdn = hd / 2 ^ 40 % 2 ^ 8) ∧
        (¬good → (t.portAt p).expSeq = x.expSeq ∧ (t.portAt p).inbox = x.inbox ∧ ∃ f, (t.portAt p).replies = x.replies ++ [f] ∧ f.kind = 3 ∧ f.seq = x.expSeq)) ∧
    (∀ seq : Dword, ∃ t, exec (.flitAcknowledge p seq) s = .next t ∧ (∀ f, f ∈ (t.portAt p).replay → f.kind ≠ 4 → f ∈ x.replay ∧ seq.toNat < f.seq) ∧
      ((∃ f ∈ x.replay, f.seq ≤ seq.toNat) → x.deferred = false → (t.portAt p).resends = 0) ∧ t.mem = s.mem) ∧
    (∀ i (seq : Dword), (i = Instr.flitNegativeAck p seq ∧ ∃ f ∈ x.replay, f.seq = seq.toNat) ∨ (i = .flitReplayTimeout p ∧ x.lastAck + 1024 ≤ s.cycle) →
      x.replay ≠ [] → x.failed = false →
      (x.resends < 16 → exec i s = .next (s.updPort p fun x => { x with resends := x.resends + 1, lastAck := s.cycle })) ∧
      (16 ≤ x.resends → ∃ t, exec i s = .next t ∧ (t.portAt p).failed = true ∧ (t.portAt p).outbox = [])) ∧
    (s.cycle < x.lastAck + 1024 → exec (.flitReplayTimeout p) s = .next s) ∧
    (∀ seq : Dword, x.failed = false → ∃ t, exec (.epochRetired p seq) s = .next t ∧
      (seq.toNat = x.expSeq → 2 ≤ x.rxKeys.length → x.deferred = false → (t.portAt p).rxKeys = x.rxKeys.drop 1 ∧ (t.portAt p).expSeq = x.expSeq + 1) ∧
      (seq.toNat ≠ x.expSeq → (t.portAt p).rxKeys = x.rxKeys ∧ ∃ f, (t.portAt p).replies = x.replies ++ [f] ∧ f.kind = 3)) ∧
    exec (.idleFlit p) s = .next s ∧
    ∃ t, exec (.keyRollover p) s = .next t ∧ t = { s with ports := t.ports } ∧
      (x.rollover = 0 → x.rxKeys.length < 2 → (t.portAt p).rxKeys = x.rxKeys ++ [1 - x.rxKeys.headD 0] ∧ (t.portAt p).epoch = 1 - x.epoch ∧
        (t.portAt p).rollover = 1) ∧
      (x.rollover ≠ 0 ∨ 2 ≤ x.rxKeys.length → t = s.updPort p fun x => { x with deferred := true })

/-! ## Power, soft errors, the trust die (18_power_package_trust.md R467, R472-R482, 01_machine.md R18, R19, R36, 17_checkpoint.md R463) -/

/-- R18, R19, R36, R463, R467, R472-R482: the fantail sets slots and ratios only at a window boundary; a droop is counted; a fourth corrected error
of a line within 2^24 cycles is a lasting fault; a vault that fails withdraws its die; firmware and a new key-set secret take effect at the package
reset, which keeps the key store; vendor requests need mutual authentication, and at most 4 sessions are open. Where the spec states no value (a
session's key, whether FINISH proved the owner) the statement leaves it free. -/
def Obligations.PowerAndTrust : Prop :=
  ∀ s : State,
    (∀ d core (mask : BitVec 6) (ratio : BitVec 24), d < 8 → d < s.dies.length → core < 80 →
      (s.cycle % 1024 ≠ 0 → exec (.powerWindow d core mask ratio) s = .next s) ∧
      (s.cycle % 1024 = 0 → (∀ k, k < 6 → 1 ≤ ratio.toNat / 16 ^ k % 16 ∧ ratio.toNat / 16 ^ k % 16 ≤ 8) →
        ∃ t, exec (.powerWindow d core mask ratio) s = .next t ∧ t = { s with dies := t.dies } ∧
          bits (t.ftReg d core) 48 6 = mask.toNat ∧
          (∀ k, k < 6 → bits (t.ftReg d core) (24 + 4 * k) 4 =
            if (k = 1 ∨ k = 2 ∨ k = 4) ∧ ∃ v, v < 32 ∧ 5 * v / 8 = core / 4 ∧ (s.dieAt d).bands.getD v 0 = 3 then 1 else ratio.toNat / 16 ^ k % 16) ∧
          ∀ e c, (e, c) ≠ (d, core) → t.ftReg e c = s.ftReg e c)) ∧
    (∀ d, d < s.dies.length → ∃ t, exec (.droopDetect d) s = .next t ∧ t = { s with dies := t.dies } ∧
      t.dieAt d = { s.dieAt d with droopcnt := (s.dieAt d).droopcnt + 1 } ∧ ∀ e, e ≠ d → t.dieAt e = s.dieAt e) ∧
    (∀ unit addr, unit % 8 < s.dies.length →
      let d := unit % 8
      let a := addr / 128 * 128
      let old := (s.dieAt d).track.find? fun e => e.1 == unit && e.2.1 == a
      ∃ t, exec (.correctedError unit addr) s = .next t ∧ t.mem = s.mem ∧ t.waves = s.waves ∧
        (∀ e, old = some e → s.cycle - e.2.2.2 < 2 ^ 24 → (unit, a, e.2.2.1 + 1, e.2.2.2) ∈ (t.dieAt d).track) ∧
        (∀ e, old = some e → 2 ^ 24 ≤ s.cycle - e.2.2.2 → (unit, a, 1, s.cycle) ∈ (t.dieAt d).track ∧ (t.dieAt d).errHead = (s.dieAt d).errHead) ∧
        (old = none → ((s.dieAt d).track.filter fun e => e.1 == unit).length < 64 → (t.dieAt d).track = (s.dieAt d).track ++ [(unit, a, 1, s.cycle)]) ∧
        (∀ e, old = some e → s.cycle - e.2.2.2 < 2 ^ 24 → e.2.2.1 + 1 ≠ 4 → t = { s with dies := t.dies } ∧
          (t.dieAt d).errHead = (s.dieAt d).errHead) ∧
        ∀ e, old = some e → s.cycle - e.2.2.2 < 2 ^ 24 → e.2.2.1 + 1 = 4 →
          ((s.dieAt d).errHead - (s.dieAt d).errTail ≠ 256 → (t.dieAt d).errHead = (s.dieAt d).errHead + 1 ∧
            ((s.dieAt d).errHead % 256, dw a, unit) ∈ (t.dieAt d).errLog) ∧
          ((s.dieAt d).errHead - (s.dieAt d).errTail = 256 → (t.dieAt d).errDrop = (s.dieAt d).errDrop + 1 ∧
            (t.dieAt d).errLog = (s.dieAt d).errLog) ∧
          (unit / 8 % 8 = 0 → cget (zeros 2) t.frames (d * 2 ^ 22 + a / 65536) = 3) ∧
          (unit / 8 % 8 = 5 → unit / 64 ∈ (t.dieAt d).goneClusters) ∧
          (unit / 8 % 8 = 6 ∨ unit / 8 % 8 = 7 → unit / 64 ∈ (t.dieAt d).goneCores)) ∧
    (∀ d line, exec (.scrubRead d line) s = .next s) ∧
    (∀ d v, d < 8 → d < s.dies.length → v < 32 → v ∉ (s.dieAt d).badVaults → ∃ t, exec (.vaultFailure d v) s = .next t ∧
      t.mem = s.mem ∧ t.waves = s.waves ∧ t.wgs = s.wgs ∧ (t.dieAt d).withdrawn = true ∧ v ∈ (t.dieAt d).badVaults ∧
      (∀ dpa user, dpa < 2 ^ 38 → t.frameSt (physKey d dpa) = 3 ∧ t.frameDenies user (physKey d dpa) = true ∧
        (vaultOf dpa = v → t.uncorr (physKey d dpa) = true)) ∧
      ∀ i, i ∈ t.images ↔ i ∈ s.images ∧ i.die ≠ d) ∧
    (∃ t, exec .packageReset s = .next t ∧ t.waves = [] ∧ t.tasks = [] ∧ t.modules = [] ∧ t.sys = [] ∧ t.power = true ∧
      t.mem = (if s.trust.pendingKss.isSome then [] else s.mem) ∧ t.keyids = (if s.trust.pendingKss.isSome then [] else s.keyids) ∧
      t.trust.kss = s.trust.pendingKss.getD s.trust.kss ∧ t.trust.firmware = s.trust.pendingFirmware.getD s.trust.firmware ∧
      t.trust.regionKeys = s.trust.regionKeys ∧ t.trust.moduleKeys = s.trust.moduleKeys ∧ t.trust.ckptKeys = s.trust.ckptKeys ∧
      t.trust.sessions = [] ∧ t.trust.pendingKss = none ∧ t.trust.pendingFirmware = none ∧
      ∀ d, d < 8 → ((t.dieAt d).ok = true ↔ Config.firmwareVerifies t.trust.firmware = true ∧ Config.dieVerifies t.trust.firmware 0 = true ∧
        Config.dieVerifies t.trust.firmware d = true)) ∧
    (∃ t, exec .powerLoss s = .next t ∧ t.power = false ∧ t.mem = s.mem ∧ t.trust = s.trust ∧ t.ckpt.on = false) ∧
    (let dg := BitVec.ofNat 512 (natOfBytes (sha512 s.stagedImage));
      ((s.dieAt 0).ok = false → exec .firmwareUpdate s = .next s) ∧ ((s.dieAt 0).ok = true → ∃ t, exec .firmwareUpdate s = .next t ∧ t = { s with trust := t.trust } ∧
        t.trust = { s.trust with pendingFirmware := if Config.firmwareVerifies dg = true then some dg else s.trust.pendingFirmware })) ∧
    (∀ i ∈ [Instr.getVersion, .getCapabilities, .negotiateAlgorithms, .getDigests, .getCertificate, .challenge],
      ∃ r, exec i s = .next { s with trust := { s.trust with response := r } }) ∧
    (∃ bs : List (List Byte), bs.length = 13 ∧
      exec .getMeasurements s = .next { s with trust := { s.trust with response := Config.spdmReply "GET_MEASUREMENTS" bs.flatten } } ∧
      bs[1]? = some (bytesOfNat 64 s.trust.firmware.toNat) ∧
      (∀ d, d < 8 → (s.dieAt d).ok = false → bs[2 + d]? = some (List.replicate 64 0xFF)) ∧
      bs[10]? = some (sha512 (s.trust.moduleKeys.flatMap fun k => bytesOfNat 32 k.toNat)) ∧
      bs[11]? = some (sha512 (s.trust.ckptKeys.flatMap fun k => bytesOfNat 32 k.toNat))) ∧
    (∃ t x, exec .keyExchange s = .next t ∧ t = { s with trust := t.trust, freeCnt := t.freeCnt } ∧ x.established = false ∧
      t.trust.sessions = if s.trust.sessions.length < 4 then s.trust.sessions ++ [x] else s.trust.sessions) ∧
    ∀ n : Nat,
      let x := s.trust.sessions.find? fun x => x.id == n
      let up := x.any Session.established = true
      let owner := x.any (fun x => x.established && x.mutualAuth) = true
      (∃ t, exec (.finish n) s = .next t ∧ t = { s with trust := t.trust, freeCnt := t.freeCnt } ∧
        (x = none → t.trust.sessions = s.trust.sessions) ∧ ∀ y ∈ t.trust.sessions, y.id = n → y.established = true) ∧
      (∃ t, exec (.keyUpdate n) s = .next t ∧ t = { s with trust := t.trust, freeCnt := t.freeCnt } ∧
        t.trust.sessions.map Session.id = s.trust.sessions.map Session.id ∧ (¬up → t.trust.sessions = s.trust.sessions)) ∧
      (∃ r, exec (.heartbeat n) s = .next { s with trust := { s.trust with response := r } }) ∧
      (∃ r, exec (.endSession n) s = .next { s with trust := { s.trust with response := r
                                                                            sessions := if up then s.trust.sessions.filter (fun y => y.id != n) else s.trust.sessions } }) ∧
      (∀ slot (add : Bool) (key : Val) (kss : BitVec 512) stream,
        let edited := fun (ks ks' : List Val) =>
          (add = false → ∀ k, k ∈ ks' ↔ k ∈ ks ∧ k ≠ key) ∧ (add = true → ks.length < 32 → ∀ k, k ∈ ks' ↔ k ∈ ks ∨ k = key) ∧
          (ks.length ≤ 32 → ks'.length ≤ 32)
        (∀ i ∈ [Instr.provisionRegionKey n slot, .editModuleKeyList n add key, .editCheckpointKeyList n add key, .rekey n kss, .ideKm n stream],
          ∃ t, exec i s = .next t ∧ t = { s with trust := t.trust } ∧
            (¬owner → t.trust = { s.trust with response := t.trust.response }) ∧ t.trust.kss = s.trust.kss ∧
            (owner → i = .provisionRegionKey n slot → ∀ k, k ∈ t.trust.regionKeys ↔ k ∈ s.trust.regionKeys ∨ k = slot) ∧
            (owner → i = .editModuleKeyList n add key → edited s.trust.moduleKeys t.trust.moduleKeys ∧ t.trust.ckptKeys = s.trust.ckptKeys) ∧
            (owner → i = .editCheckpointKeyList n add key → edited s.trust.ckptKeys t.trust.ckptKeys ∧ t.trust.moduleKeys = s.trust.moduleKeys) ∧
            (owner → i = .rekey n kss → t.trust.pendingKss = some kss) ∧
            (owner → i = .ideKm n stream → ∀ k, k ∈ t.trust.ide ↔ k ∈ s.trust.ide ∨ (k = stream ∧ stream < 4))))

/-! ## The host and the loader (18_power_package_trust.md R467, R483-R485, 09_ordering.md R275, 02_daxdex_form.md R70-R76, 04_control.md R148) -/

/-- R18, R70-R76, R148, R275, R467, R483-R485: a host access reaches context HWCTX after the host writes before it, and waits while one of these
waits at its home die; the management window takes what its registers take, and a read of it changes nothing; requests join the loader's queue and
are served from its head, accepted, or turned away with their status; a bound linkage entry lets the waiting lanes run; a module leaves when nothing
refers to it. Offsets within the pages of the management window that the manual does not give are the model's (log entry on the management window).
A package whose die 0 failed its measurement answers nothing. -/
def Obligations.HostAndLoader : Prop :=
  ∀ s : State,
    ((s.dieAt 0).ok = false → ∀ (v va : Dword) (bs : List Byte) (n m : Nat) (level : Bool), ∀ i ∈ [Instr.plimWrite v, .hostWrite va bs, .hostRead va n,
      .loadRequest level, .unloadRequest, .loaderServe, .taskPortCreate, .taskPortCreateArm, .haltResume, .firmwareUpdate, .sysregWrite n m v], exec i s = .next s) ∧
    (∀ (va : Dword) (bs : List Byte) (n : Nat), (s.dieAt 0).ok = true → s.held ≠ [] →
      exec (.hostWrite va bs) s = .next { s with hostQ := s.hostQ ++ [{ write := true, va := va, bytes := bs, n := 0 }] } ∧
      exec (.hostRead va n) s = .next { s with hostQ := s.hostQ ++ [{ write := false, va := va, bytes := [], n := n }] }) ∧
    ((s.dieAt 0).ok = true → s.held = [] → s.hostQ = [] →
    (∀ v : Dword, ∃ p, exec (.plimWrite v) s = .next { s with plim := p } ∧ bits p 0 16 = min (bits v 0 16) 3200 ∧
      bits p 16 16 = min (bits v 16 16) 3600 ∧ bits p 32 16 = min (bits v 32 16) 10000 ∧ bits p 48 16 = 0) ∧
    (∀ v : Dword,
      let put := fun (off : Nat) => exec (.hostWrite (BitVec.ofNat 64 (2 ^ 41 + off)) (bytesOfNat 8 v.toNat)) s
      put 0 = .next { s with halted := s.halted && !v.getLsbD 1 } ∧ put 8 = .next { s with hwctx := v.toNat % 64 } ∧
      put 0x1000 = exec (.plimWrite v) s ∧ put 0x400080 = .next { s with tkctx := v.toNat % 64 } ∧
      put 0x400088 = exec (if v.getLsbD 0 = true then .taskPortCreateArm else .taskPortCreate) s ∧
      put 0x500000 = .next { s with statesel := v &&& 0xEF00FFFFFFFFFFFF } ∧
      (∀ off, off = 16 ∨ off = 0x400090 ∨ (8 ∣ off ∧ 0x200000 ≤ off ∧ off < 0x200000 + 5120) → put off = .next s) ∧
      (∀ k, k < 16 → s.tkrec.length = 128 → ∃ r, put (0x400000 + 8 * k) = .next { s with tkrec := r } ∧ r.length = 128 ∧
        ∀ i, r.getD i 0 = if 8 * k ≤ i ∧ i < 8 * k + 8 then (bytesOfNat 8 v.toNat).getD (i - 8 * k) 0 else s.tkrec.getD i 0) ∧
      ∀ off, 8 ∣ off → off + 8 ≤ 2 ^ 25 → ∃ t, put (0x1000000 + off) = .next t ∧ t = { s with trust := { s.trust with staging := t.trust.staging } } ∧
        ∀ a, cget memDflt t.trust.staging a = if off ≤ a ∧ a < off + 8 then (bytesOfNat 8 v.toNat).getD (a - off) 0 else cget memDflt s.trust.staging a) ∧
    (∀ va n, 2 ^ 41 ≤ va.toNat → ∃ t, exec (.hostRead va n) s = .next t ∧ t = { s with hostData := t.hostData, freeCnt := t.freeCnt }) ∧
    (∀ off x, (off = 0 ∧ x = bitOf s.halted) ∨ (off = 8 ∧ x = s.hwctx) ∨ (off = 0x1000 ∧ x = s.plim.toNat) ∨ (off = 0x400088 ∧ x = 0) ∨ (off = 0x400090 ∧ x = s.tkres.toNat) ∨
        (∃ d core, d < 8 ∧ core < 80 ∧ off = 0x200000 + 8 * (d * 80 + core) ∧ x = (s.ftReg d core).toNat) ∨
        (∃ cp c, cp < 73 ∧ c < 256 ∧ (c, cp) ≠ (0x028, 0) ∧ off = 0x100000 + 2048 * cp + 8 * c ∧ x = (s.sysShown cp c).toNat) →
      exec (.hostRead (BitVec.ofNat 64 (2 ^ 41 + off)) 8) s = .next { s with hostData := bytesOfNat 8 x }) ∧
    (∀ (va : Dword) (bs : List Byte), va.toNat < 2 ^ 41 → 1 ≤ bs.length → va.toNat % 65536 + bs.length ≤ 65536 →
      (∀ c, s.devPlace s.hwctx va.toNat true = .error c → exec (.hostWrite va bs) s = .next s) ∧
      (∀ p, s.ckpt.on = false → s.devPlace s.hwctx va.toNat true = .ok p → ∃ t, exec (.hostWrite va bs) s = .next t ∧
        readBytes t.mem p.key bs.length = bs ∧ KeepsMem s t (fun a => inRun p.key bs.length a ∨ WalkByte s p bs.length a) ∧
        t = { s with mem := t.mem, keyids := t.keyids, hints := t.hints, shr := t.shr, rdc := t.rdc, rdcFills := t.rdcFills }) ∧
      (∀ p, s.ckpt.on = false → s.devPlace s.hwctx va.toNat false = .ok p → ∃ t, exec (.hostRead va bs.length) s = .next t ∧
        t.hostData = s.readAt p bs.length ∧ (StandsUnder s p bs.length → t.hostData = readBytes s.mem p.key bs.length) ∧
        KeepsMem s t (WalkByte s p bs.length) ∧
        t = { s with hostData := t.hostData, mem := t.mem, keyids := t.keyids, hints := t.hints, shr := t.shr, rdc := t.rdc, rdcFills := t.rdcFills }))) ∧
    ((s.dieAt 0).ok = true → ∀ level, exec (.loadRequest level) s = .next { s with loads := s.loads ++ [.load (!level) (s.sysGet 0 0x009) (s.sysGet 0 0x00A).toNat s.hwctx] }) ∧
    ((s.dieAt 0).ok = true → exec .unloadRequest s = .next { s with loads := s.loads ++ [.unload (s.sysGet 0 0x009).toNat] }) ∧
    (s.ckpt.on = true ∨ s.loads = [] → exec .loaderServe s = .next s ∧ exec .lazyResolve s = .next s) ∧
    (∀ rest, s.ckpt.on = false → (s.dieAt 0).ok = true →
      let s' := { s with loads := rest }
      let ends := fun (t : State) (st place func : Nat) => t.sysGet 0 0x00D = s.sysGet 0 0x00D + 1 ∧ t.waves = s.waves ∧ t.tasks = s.tasks ∧ t.loads = rest ∧
        bits (t.sysGet 0 0x00C) 0 8 = st ∧ bits (t.sysGet 0 0x00C) 8 8 = 0 ∧ bits (t.sysGet 0 0x00C) 16 16 = func ∧ bits (t.sysGet 0 0x00C) 32 32 = place
      let turnedAway := fun (t : State) (st place func : Nat) => ends t st place func ∧ t = { s' with sys := t.sys }
      (∀ h, s.loads = .unload h :: rest →
        (∀ m, s.moduleOf h = some m → m.loads ≠ 0 → h < 2 ^ 32 → ∃ t, exec .loaderServe s = .next t ∧ ends t 0 h 0xFFFF ∧ t.mem = s.mem ∧
          t.moduleOf h = some { m with loads := m.loads - 1 }) ∧
        ((∀ m, s.moduleOf h = some m → m.loads = 0) → ∃ t, exec .loaderServe s = .next t ∧ turnedAway t 0x0C 0xFFFFFFFF 0xFFFF)) ∧
      (∀ user addr len ctx, s.loads = .load user addr len ctx :: rest →
        (len < 64 → ∃ t, exec .loaderServe s = .next t ∧ turnedAway t 0x0B 0xFFFFFFFF 0xFFFF) ∧
        (s'.loadImage ctx addr.toNat len = none → ∃ t, exec .loaderServe s = .next t ∧ t = { s' with sys := t.sys, freeCnt := t.freeCnt } ∧
          (64 ≤ len → t.sysGet 0 0x00D = s.sysGet 0 0x00D + 1)) ∧
        (∀ img, 64 ≤ len → s'.loadImage ctx addr.toNat len = some img →
          (∀ e, s'.judge user img = .error e → ∃ t, exec .loaderServe s = .next t ∧ turnedAway t (e.status % 256) (e.place % 2 ^ 32) (e.func % 2 ^ 16)) ∧
          (64 ≤ img.length → natAt img 0 4 ≠ 0x58445844 → ∃ t, exec .loaderServe s = .next t ∧ turnedAway t 0x01 0 0xFFFF) ∧
          (∀ h, h < 2 ^ 32 → s'.judge user img = .ok (.again h) → ∃ t m, exec .loaderServe s = .next t ∧ ends t 0 h 0xFFFF ∧ t.mem = s.mem ∧
            s.moduleOf h = some m ∧ t.moduleOf h = some { m with loads := m.loads + 1 }) ∧
          (∀ m ds ts, s'.judge user img = .ok (.fresh m ds ts) → ∃ t, exec .loaderServe s = .next t ∧ ends t 0 m.handle 0xFFFF ∧
            t.modules = s.modules ++ [m] ∧ m.loads = 1 ∧ m.user = user ∧ 1 ≤ m.handle ∧ m.handle ≤ 65535 ∧ (∀ x ∈ s.modules, x.handle ≠ m.handle)) ∧
          ∀ r, s'.judge user img = .ok r → natAt img 0 4 = 0x58445844 ∧ natAt img 4 2 = 1 ∧ natAt img 8 8 = img.length ∧
            natAt img 0x18 4 ≤ Config.translatorGen ∧ ∃ k, (img.drop k).take 64 = sha512 (img.take k))) ∧
      ∀ tok h e, s.loads = .resolve tok h e :: rest → (s.waveOf tok = none → exec .lazyResolve s = .next s') ∧
        ∀ wi m l a, s.waveOf tok = some wi → s.moduleOf h = some m → m.links[e]? = some l →
          let waits := fun L => L < 32 ∧ ((s.waveAt wi).lane L).wait = .resolve h e
          let goOn := fun (t : State) => t.modules = s.modules ∧ t.loads = rest ∧ ∀ L, L < 32 → (t.waveAt wi).lane L =
            if ((s.waveAt wi).lane L).wait = .resolve h e then { (s.waveAt wi).lane L with st := .running, wait := .none } else (s.waveAt wi).lane L
          let key := physKey 0 (Config.loaderDpa + (m.linkBase.toNat + 8 * e - Config.loaderVa))
          (∃ L, waits L) →
          (s.linkEntry h e ≠ m.stubVa e → ∃ t, exec .lazyResolve s = .next t ∧ goOn t ∧ t.mem = s.mem) ∧
          (s.linkEntry h e = m.stubVa e → s.findImport l = some (.ok a) → ∃ t, exec .lazyResolve s = .next t ∧ goOn t ∧
            t.linkEntry h e = a % 2 ^ 64 ∧ KeepsMem (s.meetKey key 8 0) t (inRun key 8)) ∧
          (s.linkEntry h e = m.stubVa e → (s.findImport l = none ∨ s.findImport l = some (.error ())) → ∃ t, exec .lazyResolve s = .next t ∧
            t.modules = s.modules ∧ (∀ L, waits L → ((t.waveAt wi).lane L).wait ≠ .resolve h e) ∧
            ((s.waveAt wi).contfn = 0 → (t.waveAt wi).faulted = true ∧
              ∃ f, (t.waveAt wi).frec = some f ∧ (f.cause = if s.findImport l = none then 0x20 else 0x21) ∧
                ∀ L K, inMask f.prim L = true → inMask f.prim K = true → waits L ∧ ((s.waveAt wi).lane L).pc = ((s.waveAt wi).lane K).pc))) ∧
    ∀ h, let gone := fun (m : Module) => m.loads = 0 ∧ s.taskRefers m = false ∧ s.linkRefers m = false
      (s.moduleOf h = none → exec (.moduleLeave h) s = .next s) ∧
      ∀ m, s.moduleOf h = some m → (¬gone m → exec (.moduleLeave h) s = .next s) ∧
        (gone m → ∃ t, exec (.moduleLeave h) s = .next t ∧ t = { s with modules := t.modules, images := t.images, transReqs := t.transReqs } ∧
          (∀ x, x ∈ t.modules ↔ x ∈ s.modules ∧ x.handle ≠ h) ∧ (∀ i, i ∈ t.images ↔ i ∈ s.images ∧ i.key.modkey ≠ m.key) ∧
          ∀ r, r ∈ t.transReqs ↔ r ∈ s.transReqs ∧ r.handle ≠ h)

/-! ## Reset, decoding, the step (18_power_package_trust.md R478, 02_daxdex_form.md R56-R58, R71, 04_control.md R135, R136) -/

/-- R13, R18, R74, R384, R417, R467, R474, R478: after reset the eight dies are released, no module is loaded and no task exists, and the registers
hold the reset values that the tables give. -/
def Obligations.ResetState : Prop :=
  let s := State.reset
  s.power = true ∧ s.halted = false ∧ s.waves = [] ∧ s.wgs = [] ∧ s.tasks = [] ∧ s.modules = [] ∧ s.loads = [] ∧ s.ca = [] ∧ s.images = [] ∧
  (∀ d, d < 8 → (s.dieAt d).ok = true ∧ (s.dieAt d).withdrawn = false ∧ (s.dieAt d).droopcnt = 0 ∧
    (s.dieGet d 0x000).toNat = 2 ^ 16 + (if d < 6 then 1 else 2) * 2 ^ 8 + d ∧ ∀ core, core < 80 → s.ftReg d core = 0x888888000000) ∧
  s.plim = 0x00002710_0E10_0C80 ∧ bits (s.sysGet 0 0x00C) 32 32 = 0xFFFFFFFF ∧ bits (s.sysGet 0 0x00C) 0 8 = 0 ∧ s.sysGet 0 0x002 = 1 ∧
  (∀ f, s.frameVal f = 0) ∧ ∀ k, byteAt s k = Config.unlistedByte

/-- The tables of the state after reset have the canonical form that every step keeps (of the memory, the statement below). -/
def Obligations.ResetIsCanonical : Prop :=
  State.canonical State.reset ∧ cwf sysReset State.reset.sys = true ∧ cwf (zeros 2) State.reset.frames = true ∧ cwf (zeros 8) State.reset.shr = true ∧
    cwf (zeros 6) State.reset.keyids = true

/-- Every step keeps the memory canonical: keys strictly rising, and none listed whose byte is what an unlisted one reads as. -/
def Obligations.StepKeepsMemoryCanonical : Prop :=
 ∀ s t : State, State.canonical s → step s = .next t → State.canonical t

/-- R45, R133, R135, R175, R463, R478-R485: what no instruction of a program reaches: the power, the cycle count, the keys and lists of the trust
die, the loaded modules, the power limits, the host's registers, and the surroundings' agenda. -/
def Obligations.ProgramsLeaveThePackage : Prop :=
  ∀ (i : Instr) (s t : State), toRaw i ≠ none → exec i s = .next t →
    t.power = s.power ∧ t.cycle = s.cycle ∧ t.trust = s.trust ∧ t.modules = s.modules ∧ t.plim = s.plim ∧ t.hwctx = s.hwctx ∧ t.tkrec = s.tkrec ∧
    t.tkctx = s.tkctx ∧ t.tkres = s.tkres ∧ t.statesel = s.statesel ∧ t.hostData = s.hostData ∧ t.agenda = s.agenda ∧ t.badLines = s.badLines

/-- R56-R58, R61, R65, R71: the words of every well-formed instruction decode to it, whatever follows them; and words that decode to an instruction
are its words and those left over, and the instruction is well formed: no bit of an encoding is dropped, and no two encodings are one instruction.
-/
def Obligations.DecodeAndEncodeAgree : Prop :=
  (∀ (i : Instr) (r : Raw) (argc : Nat → Nat) (rest : List Word), i.portableWf = true → toRaw i = some r →
    (∀ b, RawOp.blk b ∈ r.ops → b.args.length = argc b.blk.toNat) → decode false argc (encode i ++ rest) = .ok (i, rest)) ∧
  ∀ (user : Bool) (argc : Nat → Nat) (ws rest : List Word) (i : Instr), decode user argc ws = .ok (i, rest) →
    i.portableWf = true ∧ ws = encode i ++ rest

/-- R56-R58 and the encoding tables of the chapters: words written out field by field from them decode to the instructions they stand for, and these
encode to them; a reserved opcode, the zero word and a native opcode are rejected by name. -/
def Obligations.WordsOfTheTables : Prop :=
  let reads := fun (ws : List Nat) (i : Instr) =>
    (∀ argc : Nat → Nat, argc 1 = 1 → decode false argc (ws.map (BitVec.ofNat 32)) = .ok (i, [])) ∧ encode i = ws.map (BitVec.ofNat 32)
  let n64 := Ty.num .s1 .n64
  let mem := fun (o : Ord) (scope : BitVec 3) (e : Evict) (sp : Space) => ({ ord := o, scope := scope, evict := e, space := sp, reassoc := false } : MMod)
  reads [0x10032000, 0, 1] (.add (.num .s1 .i32) (.val 0) (.val 1)) ∧ reads [0x10832000, 2, 0x40000003] (.mul (.num .s1 .i32) (.val 2) (.imm 3)) ∧
  reads [0x005F1000, 0x80000001, 3] (.br { blk := 1, args := [.val 3] }) ∧ reads [0x025F1000, 4] (.ret [.val 4]) ∧
  reads [0x194A1000, 0xD0000000, 0, 0x3FF00000] (.const (.num .s1 .f64) (.lit .l64 0x3FF0000000000000)) ∧
  reads [0x13483000, 0, 2, 0x40000000] (.addc n64 (.val 0) (.val 2) (.imm 0)) ∧
  reads [0x031F1000, 0x40000000] (.rjenrol 0) ∧ reads [0x055F0000] .yield ∧
  reads [0x600B1051, 0] (.ld (.num .s1 .f32) (mem .acquire 4 .sticky .global) (.val 0)) ∧
  reads [0x60442200, 0, 1] (.st (.num .s1 .i64) (mem .relaxed 0 .dflt .priv) (.val 0) (.val 1)) ∧
  reads [0x705F0000] .drain ∧ reads [0x90140000] .mzero ∧ reads [0xA05F1000, 7] (.engunbind (.val 7)) ∧
  reads [0xA8492000, 1, 2] (.caget (.val 1) (.val 2)) ∧ reads [0xB0C80000] .taskid ∧ reads [0xB81F0000] .dmerge ∧
  (∀ user argc rest, decode user argc (0 :: rest) = .error .opcodeZero ∧ decode user argc (0xF05F0000 :: rest) = .error .opcodeNative ∧
    decode user argc (0x0FDF0000 :: rest) = .error .opcodeReserved)

/-- R89-R91, R133, R135, R175, R420, R463: a step of a machine with power makes the move asked of it, else what is due, else the frame of an ordered
gang that is ready, else the first packet of candidates, else the cycle passes. A bundle that is legal, with the stamp that it must have, issues its
operations one after another over the wave that stood before it; an operation that stands for a portable instruction runs the instruction that the
bytes of its module decode to, with the types that its format register gives (R94), by exec; what does not issue is all that its bundle does; an
illegal bundle takes fault 0x81 (R85). The agenda is the model's own (log entry on the surroundings). -/
def Obligations.StepRunsDecoded : Prop :=
  ∀ (s : State) (ms : List Move),
    let s' : State := { s with agenda := ms }
    (∀ i, s.power = true → s.agenda = .event i :: ms → toRaw i = none → i.isNative = false → i ≠ .emptyBundle → step s = match exec i s' with
      | .next u => .next (s'.spansSee none u)
      | .fault f => .fault f
      | .refused r => .refused r) ∧
    (∀ i, s.power = true → s.agenda = .event i :: ms → toRaw i ≠ none ∨ i.isNative = true ∨ i = .emptyBundle → step s = .next s') ∧
    (∀ u, s.spans = [] → s.spansSee none u = u) ∧
    (∀ l, s.power = true → s.agenda = [] → s.overfull = some l → step s = .next (s.l1Evict l)) ∧
    (∀ w L c, s.power = true → s.agenda = .issue w L :: ms → (s'.candsOf w).find? (fun c => inMask c.2.2 L) = some c → step s = s'.issueTurn w c.2) ∧
    (s.power = true → s.agenda = [] → s.overfull = none → (∀ i ∈ s.due, exec i s = .next s) →
      (∀ g, s.gangs.find? s.frameReady = some g → step s = .next (s.beginFrame g)) ∧
      (s.gangs.find? s.frameReady = none → (s.candidates = [] → step s = .next s.tick) ∧
        ∀ c cs u, s.candidates = c :: cs → s.issueTurn c.1 c.2 = .next u → { u with issue := s.issue } ≠ s →
          (s.took u c.1 = false ∨ s.secondary c cs = none → step s = .next u) ∧
          ∀ x, s.took u c.1 = true → s.secondary c cs = some x → step s = s.packet c x u)) ∧
    (∀ w g u, s.issueGroup w g = .next u → (u.waveAt w).retired ≠ (s.waveAt w).retired ∨ s.took u w = false → s.issueTurn w g = .next u) ∧
    (s.power = false → s.agenda = [] → step s = .fault .noPower) ∧ (s.power = false → s.agenda = .event .packageReset :: ms → step s = exec .packageReset s') ∧
    ∀ (w : Nat) (l : Loc) (m : Mask) (t₀ t : State) (x : TransImage) (b : Bundle), s.beforeBundle w (l, m) = (t₀, false) →
      t₀.locImage (t₀.waveAt w) l = some x → x.plan[l.bun]? = some b →
      let bits := if x.code = [] then default else t₀.bundleBits x b
      (t₀.bundleLegal w m x bits = false → s.issueGroup w (l, m) = .next (t₀.illegalBundle w (l, m) x bits)) ∧
      (t₀.bundleLegal w m x bits = true → t₀.stampBad w m x bits = true →
        s.issueGroup w (l, m) = .next (t₀.faultAt w m l (causeT 0x31 0) m 0 0)) ∧
      (t₀.bundleLegal w m x bits = true → t₀.stampBad w m x bits = false → t₀.bufferFull w (l, m) b = none → t₀.fillFor w b = .ok t → b.bare = [] →
        (t.waveAt w).lanes.length = 32 → w < t.waves.length →
      let at_ := fun (p : Loc) dsts srcs yt land => { t with issue :=
        { wave := w, mask := m, loc := p, here := l, next := x.bunLoc l (l.bun + 1)
          gos := b.gos.map fun g => g.map fun n => (x.bunLoc l n, ((x.plan[n]?).map Bundle.cyc).getD 0), dsts := dsts, srcs := srcs, yt := yt
          land := land, entries := 1, stamped := b.stamp.isSome } }
      let u := at_ l [] [] none 0
      let issued := fun (v : State) => v.wv.retired ≠ u.wv.retired
      (∀ (v : Nat → State) (ph : Nat → Option Nat), v 0 = u → ph 0 = none → b.ops ≠ [] →
        (∀ k o, b.ops[k]? = some o → (u.asBefore (ph k) (v k)).runOp x b o = .next (v (k + 1)) ∧ issued (v (k + 1)) ∧
          ph (k + 1) = phaseNow u.wv (v (k + 1)).wv (ph k)) →
        let last := match ph b.ops.length with
          | some n => (v b.ops.length).updWv fun w => { w with sincePhase := n }
          | none => v b.ops.length
        s.issueGroup w (l, m) = .next (t.afterIssue w (l, m) b (u.settleBundle b last))) ∧
      ∀ k o mo f i rest, b.ops = [o] → o.own = some k → b.only = none →
        let p := x.place l.handle l.bud b.block k l.bun
        t.moduleOf p.handle = some mo → t.funcOf p.handle p.func = some f →
        decode mo.user f.argc (wordsOfBytes (mo.image.drop p.off)) = .ok (i, rest) →
        let q := match o.fsel with
          | some k => u.retype k i
          | none => (i, none)
        let y := at_ p o.dsts o.srcs q.2 o.land
        y.spans = [] ∨ y.spanHolds (y.padUse q.1) = false →
        (∀ v, exec q.1 y = .next v → y.spans = [] ∨ y.spanHolds (y.padSent v) = false →
          let z := y.spansSee (some y.wv.token) (if v.wv.retired = y.wv.retired then v else y.notePubs (y.meetPending q.1 v))
          s.issueGroup w (l, m) = .next (t.afterIssue w (l, m) b (if z.wv.retired = y.wv.retired then z else u.settleBundle b z))) ∧
        (∀ f, exec q.1 y = .fault f → s.issueGroup w (l, m) = .fault f) ∧ ∀ r, exec q.1 y = .refused r → s.issueGroup w (l, m) = .refused r)
end

