-- ==== Sys2Proof/Laws/Cells.lean ====
section
/-! SUPPORT. Laws of the sparse tables: what a read gives after a write, and that every operation keeps the canonical form. -/
namespace Sys2Proof.Machine
open Sys2Proof

variable {w : Nat} {d : Nat → BitVec w}

theorem cwfFrom_mono {m : Cells w} {lo lo' : Nat} (h : cwfFrom d lo m = true) (hl : lo' ≤ lo) : cwfFrom d lo' m = true := by
  cases m with
  | nil => rfl
  | cons e m =>
    simp only [cwfFrom, Bool.and_eq_true, decide_eq_true_eq] at h ⊢
    exact ⟨⟨by omega, h.1.2⟩, h.2⟩

/-- A canonical table reads its default at every key below its bound. -/
theorem cget_below {m : Cells w} {lo a : Nat} (h : cwfFrom d lo m = true) (ha : a < lo) : cget d m a = d a := by
  induction m generalizing lo with
  | nil => rfl
  | cons e m ih =>
    simp only [cwfFrom, Bool.and_eq_true, decide_eq_true_eq] at h
    simp only [cget]
    rw [if_neg (by omega)]
    exact ih h.2 (by omega)

theorem cdel_of_below {m : Cells w} {lo a : Nat} (h : cwfFrom d lo m = true) (ha : a < lo) : cdel m a = m := by
  induction m generalizing lo with
  | nil => rfl
  | cons e m ih =>
    simp only [cwfFrom, Bool.and_eq_true, decide_eq_true_eq] at h
    simp only [cdel]
    rw [if_neg (by omega), ih h.2 (by omega)]

theorem cset_cwfFrom {m : Cells w} {lo a : Nat} (v : BitVec w) (h : cwfFrom d lo m = true) (ha : lo ≤ a) :
    cwfFrom d lo (cset d m a v) = true := by
  induction m generalizing lo with
  | nil => by_cases hv : v = d a <;> simp [cset, cwfFrom, hv, ha]
  | cons e m ih =>
    obtain ⟨k, x⟩ := e
    simp only [cwfFrom, Bool.and_eq_true, decide_eq_true_eq] at h
    unfold cset
    by_cases h1 : k < a
    · rw [if_pos h1]
      simp only [cwfFrom, Bool.and_eq_true, decide_eq_true_eq]
      exact ⟨h.1, ih h.2 (by omega)⟩
    · rw [if_neg h1]
      by_cases h2 : k = a
      · subst h2
        rw [if_pos rfl, cdel_of_below h.2 (by omega)]
        by_cases hv : v = d k
        · rw [if_pos hv]; exact cwfFrom_mono h.2 (by omega)
        · rw [if_neg hv]; simp [cwfFrom, hv, h.2, ha]
      · rw [if_neg h2, cdel_of_below h.2 (by omega)]
        by_cases hv : v = d a
        · rw [if_pos hv]; simp [cwfFrom, h.1.1, h.1.2, h.2]
        · rw [if_neg hv]
          simp only [cwfFrom, Bool.and_eq_true, decide_eq_true_eq]
          exact ⟨⟨ha, hv⟩, ⟨⟨by omega, h.1.2⟩, h.2⟩⟩

/-- A write keeps the canonical form. -/
theorem cset_cwf {m : Cells w} (a : Nat) (v : BitVec w) (h : cwf d m = true) : cwf d (cset d m a v) = true :=
  cset_cwfFrom v h (Nat.zero_le a)

theorem cget_cdel_same (m : Cells w) (a : Nat) : cget d (cdel m a) a = d a := by
  induction m with
  | nil => rfl
  | cons e m ih =>
    unfold cdel
    by_cases h : a = e.1
    · rw [if_pos h]; exact ih
    · rw [if_neg h]; simp only [cget]; rw [if_neg h]; exact ih

theorem cget_cdel_other (m : Cells w) {a b : Nat} (hb : b ≠ a) : cget d (cdel m a) b = cget d m b := by
  induction m with
  | nil => rfl
  | cons e m ih =>
    unfold cdel
    by_cases h : a = e.1
    · rw [if_pos h]; simp only [cget]; rw [if_neg (by omega)]; exact ih
    · rw [if_neg h]; simp only [cget]; rw [ih]

/-- Read after write at the same key. -/
@[simp] theorem cget_cset_same (m : Cells w) (a : Nat) (v : BitVec w) : cget d (cset d m a v) a = v := by
  induction m with
  | nil => by_cases h : v = d a <;> simp [cset, cget, h]
  | cons e m ih =>
    obtain ⟨k, x⟩ := e
    unfold cset
    by_cases h1 : k < a
    · rw [if_pos h1]; simp only [cget]; rw [if_neg (by omega)]; exact ih
    · rw [if_neg h1]
      by_cases h2 : k = a
      · rw [if_pos h2]
        by_cases hv : v = d a
        · rw [if_pos hv, cget_cdel_same, hv]
        · rw [if_neg hv]; simp [cget]
      · rw [if_neg h2]
        by_cases hv : v = d a
        · rw [if_pos hv]; simp only [cget]; rw [if_neg (by omega), cget_cdel_same, hv]
        · rw [if_neg hv]; simp [cget]

/-- A write leaves every other key alone. -/
theorem cget_cset_other (m : Cells w) {a b : Nat} (v : BitVec w) (hb : b ≠ a) : cget d (cset d m a v) b = cget d m b := by
  induction m with
  | nil => by_cases h : v = d a <;> simp [cset, cget, h, hb]
  | cons e m ih =>
    obtain ⟨k, x⟩ := e
    unfold cset
    by_cases h1 : k < a
    · rw [if_pos h1]; simp only [cget]; rw [ih]
    · rw [if_neg h1]
      by_cases h2 : k = a
      · rw [if_pos h2]
        by_cases hv : v = d a
        · rw [if_pos hv, cget_cdel_other m hb]; simp only [cget]; rw [if_neg (by omega)]
        · rw [if_neg hv]; simp only [cget]; rw [if_neg hb, cget_cdel_other m hb, if_neg (by omega)]
      · rw [if_neg h2]
        by_cases hv : v = d a
        · rw [if_pos hv]; simp only [cget]; rw [cget_cdel_other m hb]
        · rw [if_neg hv]; simp only [cget]; rw [if_neg hb, cget_cdel_other m hb]

theorem cget_cset (m : Cells w) (a b : Nat) (v : BitVec w) : cget d (cset d m a v) b = if b = a then v else cget d m b := by
  by_cases h : b = a
  · subst h; simp
  · rw [if_neg h, cget_cset_other m v h]

/-- Canonical tables that read the same are the same data. -/
theorem cells_ext_from {m n : Cells w} {lo : Nat} (hm : cwfFrom d lo m = true) (hn : cwfFrom d lo n = true)
    (h : ∀ a, cget d m a = cget d n a) : m = n := by
  induction m generalizing n lo with
  | nil =>
    cases n with
    | nil => rfl
    | cons e n =>
      simp only [cwfFrom, Bool.and_eq_true, decide_eq_true_eq] at hn
      have := h e.1
      simp [cget] at this
      exact absurd this.symm hn.1.2
  | cons e m ih =>
    obtain ⟨k, x⟩ := e
    have hm' := hm
    simp only [cwfFrom, Bool.and_eq_true, decide_eq_true_eq] at hm
    cases n with
    | nil =>
      have := h k
      simp [cget] at this
      exact absurd this hm.1.2
    | cons f n =>
      obtain ⟨j, y⟩ := f
      have hn' := hn
      simp only [cwfFrom, Bool.and_eq_true, decide_eq_true_eq] at hn
      have hkj : k = j := by
        rcases Nat.lt_trichotomy k j with hlt | heq | hgt
        · have e1 := h k
          simp only [cget, if_pos] at e1
          rw [if_neg (by omega), cget_below hn.2 (by omega)] at e1
          exact absurd e1 hm.1.2
        · exact heq
        · have e1 := h j
          simp only [cget, if_pos] at e1
          rw [if_neg (by omega), cget_below hm.2 (by omega)] at e1
          exact absurd e1.symm hn.1.2
      subst hkj
      have hxy : x = y := by have := h k; simpa [cget] using this
      subst hxy
      have hrest : m = n := by
        refine ih hm.2 hn.2 fun a => ?_
        by_cases ha : a = k
        · subst ha; rw [cget_below hm.2 (by omega), cget_below hn.2 (by omega)]
        · have := h a; simpa [cget, ha] using this
      rw [hrest]

theorem cells_ext {m n : Cells w} (hm : cwf d m = true) (hn : cwf d n = true) (h : ∀ a, cget d m a = cget d n a) : m = n :=
  cells_ext_from hm hn h

/-! ## Runs of bytes -/

theorem writeBytes_cwf {m : Cells 8} {k : Nat} {bs : List Byte} (h : cwf memDflt m = true) :
    cwf memDflt (writeBytes m k bs) = true := by
  induction bs generalizing m k with
  | nil => exact h
  | cons b bs ih => exact ih (cset_cwf k b h)

/-- A write of bytes leaves every address outside them alone. -/
theorem cget_writeBytes_other (m : Cells 8) (k : Nat) (bs : List Byte) {a : Nat} (h : a < k ∨ k + bs.length ≤ a) :
    cget memDflt (writeBytes m k bs) a = cget memDflt m a := by
  induction bs generalizing m k with
  | nil => rfl
  | cons b bs ih =>
    simp only [writeBytes, List.length_cons] at h ⊢
    rw [ih _ _ (by omega), cget_cset_other m b (by omega)]

/-- What a byte inside the run reads as. -/
theorem cget_writeBytes_at (m : Cells 8) (k : Nat) (bs : List Byte) {i : Nat} (h : i < bs.length) :
    cget memDflt (writeBytes m k bs) (k + i) = bs.getD i 0 := by
  induction bs generalizing m k i with
  | nil => simp at h
  | cons b bs ih =>
    cases i with
    | zero =>
      simp only [writeBytes, Nat.add_zero]
      rw [cget_writeBytes_other _ _ _ (Or.inl (by omega))]
      simp
    | succ i =>
      simp only [writeBytes]
      have := ih (cset memDflt m k b) (k + 1) (i := i) (by simpa using h)
      rw [show k + (i + 1) = k + 1 + i by omega, this]
      simp

/-- Bytes read back as written. -/
theorem readBytes_writeBytes (m : Cells 8) (k : Nat) (bs : List Byte) : readBytes (writeBytes m k bs) k bs.length = bs := by
  induction bs generalizing m k with
  | nil => rfl
  | cons b bs ih =>
    have e : readBytes (writeBytes m k (b :: bs)) k (b :: bs).length =
        cget memDflt (writeBytes (cset memDflt m k b) (k + 1) bs) k ::
          readBytes (writeBytes (cset memDflt m k b) (k + 1) bs) (k + 1) bs.length := rfl
    rw [e, ih, cget_writeBytes_other _ _ _ (Or.inl (by omega)), cget_cset_same]

/-! ## Copies of ranges -/

theorem filter_cwfFrom (p : Nat × BitVec w → Bool) {m : Cells w} {lo : Nat} (h : cwfFrom d lo m = true) :
    cwfFrom d lo (m.filter p) = true := by
  induction m generalizing lo with
  | nil => rfl
  | cons e m ih =>
    simp only [cwfFrom, Bool.and_eq_true, decide_eq_true_eq] at h
    by_cases hp : p e
    · simp only [List.filter_cons, hp, if_true, cwfFrom, Bool.and_eq_true, decide_eq_true_eq]
      exact ⟨h.1, ih h.2⟩
    · simp only [List.filter_cons, hp, Bool.false_eq_true, if_false]
      exact cwfFrom_mono (ih h.2) (by omega)

theorem clearRange_cwf {m : Cells w} (lo hi : Nat) (h : cwf d m = true) : cwf d (clearRange m lo hi) = true :=
  filter_cwfFrom _ h

theorem foldl_cset_cwf (es : List (Nat × BitVec w)) {m : Cells w} (h : cwf d m = true) :
    cwf d (es.foldl (fun acc e => cset d acc e.1 e.2) m) = true := by
  induction es generalizing m with
  | nil => exact h
  | cons e es ih => exact ih (cset_cwf e.1 e.2 h)

/-- A copy of a range keeps the canonical form. -/
theorem copyRange_cwf {src m : Cells w} (lo n at_ : Nat) (h : cwf d m = true) : cwf d (copyRange d src lo n m at_) = true :=
  foldl_cset_cwf _ (clearRange_cwf at_ (at_ + n) h)

end Sys2Proof.Machine
end

