-- ==== Sys2Proof/Laws/State.lean ====
section
/-! SUPPORT. What the updates of the state change, one lemma a field, each true by definition; and what the lists of waves, workgroups and
lanes hold after one of their elements has changed. -/
namespace Sys2Proof.Machine
open Sys2Proof

/-! ## Lists with one element changed -/

@[simp] theorem updAt_length {α : Type} (l : List α) (i : Nat) (f : α → α) : (updAt l i f).length = l.length := by
  induction l generalizing i with
  | nil => rfl
  | cons a l ih => cases i <;> simp [updAt, ih]

theorem updAt_getElem? {α : Type} (l : List α) (i j : Nat) (f : α → α) :
    (updAt l i f)[j]? = if j = i then (l[j]?).map f else l[j]? := by
  induction l generalizing i j with
  | nil => simp [updAt]
  | cons a l ih => cases i <;> cases j <;> simp [updAt, ih]

theorem updAt_getD_same {α : Type} (l : List α) (i : Nat) (f : α → α) (d : α) (h : i < l.length) :
    (updAt l i f).getD i d = f (l.getD i d) := by
  rw [List.getD_eq_getElem?_getD, List.getD_eq_getElem?_getD, updAt_getElem?, if_pos rfl, List.getElem?_eq_getElem h]
  rfl

theorem updAt_getD_other {α : Type} (l : List α) (i j : Nat) (f : α → α) (d : α) (h : j ≠ i) :
    (updAt l i f).getD j d = l.getD j d := by
  simp [List.getD_eq_getElem?_getD, updAt_getElem?, h]

/-! ## The waves -/

theorem State.updWave_waves (s : State) (i : Nat) (f : Wave → Wave) : (s.updWave i f).waves = updAt s.waves i f := rfl
@[simp] theorem State.updWave_power (s : State) (i : Nat) (f : Wave → Wave) : (s.updWave i f).power = s.power := rfl
@[simp] theorem State.updWave_halted (s : State) (i : Nat) (f : Wave → Wave) : (s.updWave i f).halted = s.halted := rfl
@[simp] theorem State.updWave_cycle (s : State) (i : Nat) (f : Wave → Wave) : (s.updWave i f).cycle = s.cycle := rfl
@[simp] theorem State.updWave_issue (s : State) (i : Nat) (f : Wave → Wave) : (s.updWave i f).issue = s.issue := rfl
@[simp] theorem State.updWave_agenda (s : State) (i : Nat) (f : Wave → Wave) : (s.updWave i f).agenda = s.agenda := rfl
@[simp] theorem State.updWave_issued (s : State) (i : Nat) (f : Wave → Wave) : (s.updWave i f).issued = s.issued := rfl
@[simp] theorem State.updWave_slices (s : State) (i : Nat) (f : Wave → Wave) : (s.updWave i f).slices = s.slices := rfl
@[simp] theorem State.updWave_wgs (s : State) (i : Nat) (f : Wave → Wave) : (s.updWave i f).wgs = s.wgs := rfl
@[simp] theorem State.updWave_gangs (s : State) (i : Nat) (f : Wave → Wave) : (s.updWave i f).gangs = s.gangs := rfl
@[simp] theorem State.updWave_tasks (s : State) (i : Nat) (f : Wave → Wave) : (s.updWave i f).tasks = s.tasks := rfl
@[simp] theorem State.updWave_modules (s : State) (i : Nat) (f : Wave → Wave) : (s.updWave i f).modules = s.modules := rfl
@[simp] theorem State.updWave_loads (s : State) (i : Nat) (f : Wave → Wave) : (s.updWave i f).loads = s.loads := rfl
@[simp] theorem State.updWave_sys (s : State) (i : Nat) (f : Wave → Wave) : (s.updWave i f).sys = s.sys := rfl
@[simp] theorem State.updWave_mem (s : State) (i : Nat) (f : Wave → Wave) : (s.updWave i f).mem = s.mem := rfl
@[simp] theorem State.updWave_l1 (s : State) (i : Nat) (f : Wave → Wave) : (s.updWave i f).l1 = s.l1 := rfl
@[simp] theorem State.updWave_shr (s : State) (i : Nat) (f : Wave → Wave) : (s.updWave i f).shr = s.shr := rfl
@[simp] theorem State.updWave_rdc (s : State) (i : Nat) (f : Wave → Wave) : (s.updWave i f).rdc = s.rdc := rfl
@[simp] theorem State.updWave_rdcFills (s : State) (i : Nat) (f : Wave → Wave) : (s.updWave i f).rdcFills = s.rdcFills := rfl
@[simp] theorem State.updWave_hints (s : State) (i : Nat) (f : Wave → Wave) : (s.updWave i f).hints = s.hints := rfl
@[simp] theorem State.updWave_badLines (s : State) (i : Nat) (f : Wave → Wave) : (s.updWave i f).badLines = s.badLines := rfl
@[simp] theorem State.updWave_keyids (s : State) (i : Nat) (f : Wave → Wave) : (s.updWave i f).keyids = s.keyids := rfl
@[simp] theorem State.updWave_frames (s : State) (i : Nat) (f : Wave → Wave) : (s.updWave i f).frames = s.frames := rfl
@[simp] theorem State.updWave_tlb (s : State) (i : Nat) (f : Wave → Wave) : (s.updWave i f).tlb = s.tlb := rfl
@[simp] theorem State.updWave_msgs (s : State) (i : Nat) (f : Wave → Wave) : (s.updWave i f).msgs = s.msgs := rfl
@[simp] theorem State.updWave_nextId (s : State) (i : Nat) (f : Wave → Wave) : (s.updWave i f).nextId = s.nextId := rfl
@[simp] theorem State.updWave_copies (s : State) (i : Nat) (f : Wave → Wave) : (s.updWave i f).copies = s.copies := rfl
@[simp] theorem State.updWave_held (s : State) (i : Nat) (f : Wave → Wave) : (s.updWave i f).held = s.held := rfl
@[simp] theorem State.updWave_hostQ (s : State) (i : Nat) (f : Wave → Wave) : (s.updWave i f).hostQ = s.hostQ := rfl
@[simp] theorem State.updWave_bindings (s : State) (i : Nat) (f : Wave → Wave) : (s.updWave i f).bindings = s.bindings := rfl
@[simp] theorem State.updWave_cmds (s : State) (i : Nat) (f : Wave → Wave) : (s.updWave i f).cmds = s.cmds := rfl
@[simp] theorem State.updWave_leatLast (s : State) (i : Nat) (f : Wave → Wave) : (s.updWave i f).leatLast = s.leatLast := rfl
@[simp] theorem State.updWave_quern (s : State) (i : Nat) (f : Wave → Wave) : (s.updWave i f).quern = s.quern := rfl
@[simp] theorem State.updWave_slots (s : State) (i : Nat) (f : Wave → Wave) : (s.updWave i f).slots = s.slots := rfl
@[simp] theorem State.updWave_spans (s : State) (i : Nat) (f : Wave → Wave) : (s.updWave i f).spans = s.spans := rfl
@[simp] theorem State.updWave_rounds (s : State) (i : Nat) (f : Wave → Wave) : (s.updWave i f).rounds = s.rounds := rfl
@[simp] theorem State.updWave_heard (s : State) (i : Nat) (f : Wave → Wave) : (s.updWave i f).heard = s.heard := rfl
@[simp] theorem State.updWave_contrib (s : State) (i : Nat) (f : Wave → Wave) : (s.updWave i f).contrib = s.contrib := rfl
@[simp] theorem State.updWave_windows (s : State) (i : Nat) (f : Wave → Wave) : (s.updWave i f).windows = s.windows := rfl
@[simp] theorem State.updWave_grants (s : State) (i : Nat) (f : Wave → Wave) : (s.updWave i f).grants = s.grants := rfl
@[simp] theorem State.updWave_seqs (s : State) (i : Nat) (f : Wave → Wave) : (s.updWave i f).seqs = s.seqs := rfl
@[simp] theorem State.updWave_parts (s : State) (i : Nat) (f : Wave → Wave) : (s.updWave i f).parts = s.parts := rfl
@[simp] theorem State.updWave_ca (s : State) (i : Nat) (f : Wave → Wave) : (s.updWave i f).ca = s.ca := rfl
@[simp] theorem State.updWave_images (s : State) (i : Nat) (f : Wave → Wave) : (s.updWave i f).images = s.images := rfl
@[simp] theorem State.updWave_transReqs (s : State) (i : Nat) (f : Wave → Wave) : (s.updWave i f).transReqs = s.transReqs := rfl
@[simp] theorem State.updWave_notices (s : State) (i : Nat) (f : Wave → Wave) : (s.updWave i f).notices = s.notices := rfl
@[simp] theorem State.updWave_msix (s : State) (i : Nat) (f : Wave → Wave) : (s.updWave i f).msix = s.msix := rfl
@[simp] theorem State.updWave_dies (s : State) (i : Nat) (f : Wave → Wave) : (s.updWave i f).dies = s.dies := rfl
@[simp] theorem State.updWave_cut (s : State) (i : Nat) (f : Wave → Wave) : (s.updWave i f).cut = s.cut := rfl
@[simp] theorem State.updWave_ckpt (s : State) (i : Nat) (f : Wave → Wave) : (s.updWave i f).ckpt = s.ckpt := rfl
@[simp] theorem State.updWave_opnum (s : State) (i : Nat) (f : Wave → Wave) : (s.updWave i f).opnum = s.opnum := rfl
@[simp] theorem State.updWave_snaps (s : State) (i : Nat) (f : Wave → Wave) : (s.updWave i f).snaps = s.snaps := rfl
@[simp] theorem State.updWave_trust (s : State) (i : Nat) (f : Wave → Wave) : (s.updWave i f).trust = s.trust := rfl
@[simp] theorem State.updWave_ports (s : State) (i : Nat) (f : Wave → Wave) : (s.updWave i f).ports = s.ports := rfl
@[simp] theorem State.updWave_fabReqs (s : State) (i : Nat) (f : Wave → Wave) : (s.updWave i f).fabReqs = s.fabReqs := rfl
@[simp] theorem State.updWave_hwctx (s : State) (i : Nat) (f : Wave → Wave) : (s.updWave i f).hwctx = s.hwctx := rfl
@[simp] theorem State.updWave_plim (s : State) (i : Nat) (f : Wave → Wave) : (s.updWave i f).plim = s.plim := rfl
@[simp] theorem State.updWave_tkrec (s : State) (i : Nat) (f : Wave → Wave) : (s.updWave i f).tkrec = s.tkrec := rfl
@[simp] theorem State.updWave_tkctx (s : State) (i : Nat) (f : Wave → Wave) : (s.updWave i f).tkctx = s.tkctx := rfl
@[simp] theorem State.updWave_tkres (s : State) (i : Nat) (f : Wave → Wave) : (s.updWave i f).tkres = s.tkres := rfl
@[simp] theorem State.updWave_statesel (s : State) (i : Nat) (f : Wave → Wave) : (s.updWave i f).statesel = s.statesel := rfl
@[simp] theorem State.updWave_hostData (s : State) (i : Nat) (f : Wave → Wave) : (s.updWave i f).hostData = s.hostData := rfl
@[simp] theorem State.updWave_freeCnt (s : State) (i : Nat) (f : Wave → Wave) : (s.updWave i f).freeCnt = s.freeCnt := rfl
theorem State.updWv_waves (s : State) (f : Wave → Wave) : (s.updWv f).waves = updAt s.waves s.issue.wave f := rfl
@[simp] theorem State.updWv_power (s : State) (f : Wave → Wave) : (s.updWv f).power = s.power := rfl
@[simp] theorem State.updWv_halted (s : State) (f : Wave → Wave) : (s.updWv f).halted = s.halted := rfl
@[simp] theorem State.updWv_cycle (s : State) (f : Wave → Wave) : (s.updWv f).cycle = s.cycle := rfl
@[simp] theorem State.updWv_issue (s : State) (f : Wave → Wave) : (s.updWv f).issue = s.issue := rfl
@[simp] theorem State.updWv_agenda (s : State) (f : Wave → Wave) : (s.updWv f).agenda = s.agenda := rfl
@[simp] theorem State.updWv_issued (s : State) (f : Wave → Wave) : (s.updWv f).issued = s.issued := rfl
@[simp] theorem State.updWv_slices (s : State) (f : Wave → Wave) : (s.updWv f).slices = s.slices := rfl
@[simp] theorem State.updWv_wgs (s : State) (f : Wave → Wave) : (s.updWv f).wgs = s.wgs := rfl
@[simp] theorem State.updWv_gangs (s : State) (f : Wave → Wave) : (s.updWv f).gangs = s.gangs := rfl
@[simp] theorem State.updWv_tasks (s : State) (f : Wave → Wave) : (s.updWv f).tasks = s.tasks := rfl
@[simp] theorem State.updWv_modules (s : State) (f : Wave → Wave) : (s.updWv f).modules = s.modules := rfl
@[simp] theorem State.updWv_loads (s : State) (f : Wave → Wave) : (s.updWv f).loads = s.loads := rfl
@[simp] theorem State.updWv_sys (s : State) (f : Wave → Wave) : (s.updWv f).sys = s.sys := rfl
@[simp] theorem State.updWv_mem (s : State) (f : Wave → Wave) : (s.updWv f).mem = s.mem := rfl
@[simp] theorem State.updWv_l1 (s : State) (f : Wave → Wave) : (s.updWv f).l1 = s.l1 := rfl
@[simp] theorem State.updWv_shr (s : State) (f : Wave → Wave) : (s.updWv f).shr = s.shr := rfl
@[simp] theorem State.updWv_rdc (s : State) (f : Wave → Wave) : (s.updWv f).rdc = s.rdc := rfl
@[simp] theorem State.updWv_rdcFills (s : State) (f : Wave → Wave) : (s.updWv f).rdcFills = s.rdcFills := rfl
@[simp] theorem State.updWv_hints (s : State) (f : Wave → Wave) : (s.updWv f).hints = s.hints := rfl
@[simp] theorem State.updWv_badLines (s : State) (f : Wave → Wave) : (s.updWv f).badLines = s.badLines := rfl
@[simp] theorem State.updWv_keyids (s : State) (f : Wave → Wave) : (s.updWv f).keyids = s.keyids := rfl
@[simp] theorem State.updWv_frames (s : State) (f : Wave → Wave) : (s.updWv f).frames = s.frames := rfl
@[simp] theorem State.updWv_tlb (s : State) (f : Wave → Wave) : (s.updWv f).tlb = s.tlb := rfl
@[simp] theorem State.updWv_msgs (s : State) (f : Wave → Wave) : (s.updWv f).msgs = s.msgs := rfl
@[simp] theorem State.updWv_nextId (s : State) (f : Wave → Wave) : (s.updWv f).nextId = s.nextId := rfl
@[simp] theorem State.updWv_copies (s : State) (f : Wave → Wave) : (s.updWv f).copies = s.copies := rfl
@[simp] theorem State.updWv_held (s : State) (f : Wave → Wave) : (s.updWv f).held = s.held := rfl
@[simp] theorem State.updWv_hostQ (s : State) (f : Wave → Wave) : (s.updWv f).hostQ = s.hostQ := rfl
@[simp] theorem State.updWv_bindings (s : State) (f : Wave → Wave) : (s.updWv f).bindings = s.bindings := rfl
@[simp] theorem State.updWv_cmds (s : State) (f : Wave → Wave) : (s.updWv f).cmds = s.cmds := rfl
@[simp] theorem State.updWv_leatLast (s : State) (f : Wave → Wave) : (s.updWv f).leatLast = s.leatLast := rfl
@[simp] theorem State.updWv_quern (s : State) (f : Wave → Wave) : (s.updWv f).quern = s.quern := rfl
@[simp] theorem State.updWv_slots (s : State) (f : Wave → Wave) : (s.updWv f).slots = s.slots := rfl
@[simp] theorem State.updWv_spans (s : State) (f : Wave → Wave) : (s.updWv f).spans = s.spans := rfl
@[simp] theorem State.updWv_rounds (s : State) (f : Wave → Wave) : (s.updWv f).rounds = s.rounds := rfl
@[simp] theorem State.updWv_heard (s : State) (f : Wave → Wave) : (s.updWv f).heard = s.heard := rfl
@[simp] theorem State.updWv_contrib (s : State) (f : Wave → Wave) : (s.updWv f).contrib = s.contrib := rfl
@[simp] theorem State.updWv_windows (s : State) (f : Wave → Wave) : (s.updWv f).windows = s.windows := rfl
@[simp] theorem State.updWv_grants (s : State) (f : Wave → Wave) : (s.updWv f).grants = s.grants := rfl
@[simp] theorem State.updWv_seqs (s : State) (f : Wave → Wave) : (s.updWv f).seqs = s.seqs := rfl
@[simp] theorem State.updWv_parts (s : State) (f : Wave → Wave) : (s.updWv f).parts = s.parts := rfl
@[simp] theorem State.updWv_ca (s : State) (f : Wave → Wave) : (s.updWv f).ca = s.ca := rfl
@[simp] theorem State.updWv_images (s : State) (f : Wave → Wave) : (s.updWv f).images = s.images := rfl
@[simp] theorem State.updWv_transReqs (s : State) (f : Wave → Wave) : (s.updWv f).transReqs = s.transReqs := rfl
@[simp] theorem State.updWv_notices (s : State) (f : Wave → Wave) : (s.updWv f).notices = s.notices := rfl
@[simp] theorem State.updWv_msix (s : State) (f : Wave → Wave) : (s.updWv f).msix = s.msix := rfl
@[simp] theorem State.updWv_dies (s : State) (f : Wave → Wave) : (s.updWv f).dies = s.dies := rfl
@[simp] theorem State.updWv_cut (s : State) (f : Wave → Wave) : (s.updWv f).cut = s.cut := rfl
@[simp] theorem State.updWv_ckpt (s : State) (f : Wave → Wave) : (s.updWv f).ckpt = s.ckpt := rfl
@[simp] theorem State.updWv_opnum (s : State) (f : Wave → Wave) : (s.updWv f).opnum = s.opnum := rfl
@[simp] theorem State.updWv_snaps (s : State) (f : Wave → Wave) : (s.updWv f).snaps = s.snaps := rfl
@[simp] theorem State.updWv_trust (s : State) (f : Wave → Wave) : (s.updWv f).trust = s.trust := rfl
@[simp] theorem State.updWv_ports (s : State) (f : Wave → Wave) : (s.updWv f).ports = s.ports := rfl
@[simp] theorem State.updWv_fabReqs (s : State) (f : Wave → Wave) : (s.updWv f).fabReqs = s.fabReqs := rfl
@[simp] theorem State.updWv_hwctx (s : State) (f : Wave → Wave) : (s.updWv f).hwctx = s.hwctx := rfl
@[simp] theorem State.updWv_plim (s : State) (f : Wave → Wave) : (s.updWv f).plim = s.plim := rfl
@[simp] theorem State.updWv_tkrec (s : State) (f : Wave → Wave) : (s.updWv f).tkrec = s.tkrec := rfl
@[simp] theorem State.updWv_tkctx (s : State) (f : Wave → Wave) : (s.updWv f).tkctx = s.tkctx := rfl
@[simp] theorem State.updWv_tkres (s : State) (f : Wave → Wave) : (s.updWv f).tkres = s.tkres := rfl
@[simp] theorem State.updWv_statesel (s : State) (f : Wave → Wave) : (s.updWv f).statesel = s.statesel := rfl
@[simp] theorem State.updWv_hostData (s : State) (f : Wave → Wave) : (s.updWv f).hostData = s.hostData := rfl
@[simp] theorem State.updWv_freeCnt (s : State) (f : Wave → Wave) : (s.updWv f).freeCnt = s.freeCnt := rfl

/-! ## The workgroups -/

theorem State.updWg_wgs (s : State) (i : Nat) (f : Workgroup → Workgroup) : (s.updWg i f).wgs = updAt s.wgs i f := rfl
@[simp] theorem State.updWg_power (s : State) (i : Nat) (f : Workgroup → Workgroup) : (s.updWg i f).power = s.power := rfl
@[simp] theorem State.updWg_halted (s : State) (i : Nat) (f : Workgroup → Workgroup) : (s.updWg i f).halted = s.halted := rfl
@[simp] theorem State.updWg_cycle (s : State) (i : Nat) (f : Workgroup → Workgroup) : (s.updWg i f).cycle = s.cycle := rfl
@[simp] theorem State.updWg_issue (s : State) (i : Nat) (f : Workgroup → Workgroup) : (s.updWg i f).issue = s.issue := rfl
@[simp] theorem State.updWg_agenda (s : State) (i : Nat) (f : Workgroup → Workgroup) : (s.updWg i f).agenda = s.agenda := rfl
@[simp] theorem State.updWg_issued (s : State) (i : Nat) (f : Workgroup → Workgroup) : (s.updWg i f).issued = s.issued := rfl
@[simp] theorem State.updWg_slices (s : State) (i : Nat) (f : Workgroup → Workgroup) : (s.updWg i f).slices = s.slices := rfl
@[simp] theorem State.updWg_waves (s : State) (i : Nat) (f : Workgroup → Workgroup) : (s.updWg i f).waves = s.waves := rfl
@[simp] theorem State.updWg_gangs (s : State) (i : Nat) (f : Workgroup → Workgroup) : (s.updWg i f).gangs = s.gangs := rfl
@[simp] theorem State.updWg_tasks (s : State) (i : Nat) (f : Workgroup → Workgroup) : (s.updWg i f).tasks = s.tasks := rfl
@[simp] theorem State.updWg_modules (s : State) (i : Nat) (f : Workgroup → Workgroup) : (s.updWg i f).modules = s.modules := rfl
@[simp] theorem State.updWg_loads (s : State) (i : Nat) (f : Workgroup → Workgroup) : (s.updWg i f).loads = s.loads := rfl
@[simp] theorem State.updWg_sys (s : State) (i : Nat) (f : Workgroup → Workgroup) : (s.updWg i f).sys = s.sys := rfl
@[simp] theorem State.updWg_mem (s : State) (i : Nat) (f : Workgroup → Workgroup) : (s.updWg i f).mem = s.mem := rfl
@[simp] theorem State.updWg_l1 (s : State) (i : Nat) (f : Workgroup → Workgroup) : (s.updWg i f).l1 = s.l1 := rfl
@[simp] theorem State.updWg_shr (s : State) (i : Nat) (f : Workgroup → Workgroup) : (s.updWg i f).shr = s.shr := rfl
@[simp] theorem State.updWg_rdc (s : State) (i : Nat) (f : Workgroup → Workgroup) : (s.updWg i f).rdc = s.rdc := rfl
@[simp] theorem State.updWg_rdcFills (s : State) (i : Nat) (f : Workgroup → Workgroup) : (s.updWg i f).rdcFills = s.rdcFills := rfl
@[simp] theorem State.updWg_hints (s : State) (i : Nat) (f : Workgroup → Workgroup) : (s.updWg i f).hints = s.hints := rfl
@[simp] theorem State.updWg_badLines (s : State) (i : Nat) (f : Workgroup → Workgroup) : (s.updWg i f).badLines = s.badLines := rfl
@[simp] theorem State.updWg_keyids (s : State) (i : Nat) (f : Workgroup → Workgroup) : (s.updWg i f).keyids = s.keyids := rfl
@[simp] theorem State.updWg_frames (s : State) (i : Nat) (f : Workgroup → Workgroup) : (s.updWg i f).frames = s.frames := rfl
@[simp] theorem State.updWg_tlb (s : State) (i : Nat) (f : Workgroup → Workgroup) : (s.updWg i f).tlb = s.tlb := rfl
@[simp] theorem State.updWg_msgs (s : State) (i : Nat) (f : Workgroup → Workgroup) : (s.updWg i f).msgs = s.msgs := rfl
@[simp] theorem State.updWg_nextId (s : State) (i : Nat) (f : Workgroup → Workgroup) : (s.updWg i f).nextId = s.nextId := rfl
@[simp] theorem State.updWg_copies (s : State) (i : Nat) (f : Workgroup → Workgroup) : (s.updWg i f).copies = s.copies := rfl
@[simp] theorem State.updWg_held (s : State) (i : Nat) (f : Workgroup → Workgroup) : (s.updWg i f).held = s.held := rfl
@[simp] theorem State.updWg_hostQ (s : State) (i : Nat) (f : Workgroup → Workgroup) : (s.updWg i f).hostQ = s.hostQ := rfl
@[simp] theorem State.updWg_bindings (s : State) (i : Nat) (f : Workgroup → Workgroup) : (s.updWg i f).bindings = s.bindings := rfl
@[simp] theorem State.updWg_cmds (s : State) (i : Nat) (f : Workgroup → Workgroup) : (s.updWg i f).cmds = s.cmds := rfl
@[simp] theorem State.updWg_leatLast (s : State) (i : Nat) (f : Workgroup → Workgroup) : (s.updWg i f).leatLast = s.leatLast := rfl
@[simp] theorem State.updWg_quern (s : State) (i : Nat) (f : Workgroup → Workgroup) : (s.updWg i f).quern = s.quern := rfl
@[simp] theorem State.updWg_slots (s : State) (i : Nat) (f : Workgroup → Workgroup) : (s.updWg i f).slots = s.slots := rfl
@[simp] theorem State.updWg_spans (s : State) (i : Nat) (f : Workgroup → Workgroup) : (s.updWg i f).spans = s.spans := rfl
@[simp] theorem State.updWg_rounds (s : State) (i : Nat) (f : Workgroup → Workgroup) : (s.updWg i f).rounds = s.rounds := rfl
@[simp] theorem State.updWg_heard (s : State) (i : Nat) (f : Workgroup → Workgroup) : (s.updWg i f).heard = s.heard := rfl
@[simp] theorem State.updWg_contrib (s : State) (i : Nat) (f : Workgroup → Workgroup) : (s.updWg i f).contrib = s.contrib := rfl
@[simp] theorem State.updWg_windows (s : State) (i : Nat) (f : Workgroup → Workgroup) : (s.updWg i f).windows = s.windows := rfl
@[simp] theorem State.updWg_grants (s : State) (i : Nat) (f : Workgroup → Workgroup) : (s.updWg i f).grants = s.grants := rfl
@[simp] theorem State.updWg_seqs (s : State) (i : Nat) (f : Workgroup → Workgroup) : (s.updWg i f).seqs = s.seqs := rfl
@[simp] theorem State.updWg_parts (s : State) (i : Nat) (f : Workgroup → Workgroup) : (s.updWg i f).parts = s.parts := rfl
@[simp] theorem State.updWg_ca (s : State) (i : Nat) (f : Workgroup → Workgroup) : (s.updWg i f).ca = s.ca := rfl
@[simp] theorem State.updWg_images (s : State) (i : Nat) (f : Workgroup → Workgroup) : (s.updWg i f).images = s.images := rfl
@[simp] theorem State.updWg_transReqs (s : State) (i : Nat) (f : Workgroup → Workgroup) : (s.updWg i f).transReqs = s.transReqs := rfl
@[simp] theorem State.updWg_notices (s : State) (i : Nat) (f : Workgroup → Workgroup) : (s.updWg i f).notices = s.notices := rfl
@[simp] theorem State.updWg_msix (s : State) (i : Nat) (f : Workgroup → Workgroup) : (s.updWg i f).msix = s.msix := rfl
@[simp] theorem State.updWg_dies (s : State) (i : Nat) (f : Workgroup → Workgroup) : (s.updWg i f).dies = s.dies := rfl
@[simp] theorem State.updWg_cut (s : State) (i : Nat) (f : Workgroup → Workgroup) : (s.updWg i f).cut = s.cut := rfl
@[simp] theorem State.updWg_ckpt (s : State) (i : Nat) (f : Workgroup → Workgroup) : (s.updWg i f).ckpt = s.ckpt := rfl
@[simp] theorem State.updWg_opnum (s : State) (i : Nat) (f : Workgroup → Workgroup) : (s.updWg i f).opnum = s.opnum := rfl
@[simp] theorem State.updWg_snaps (s : State) (i : Nat) (f : Workgroup → Workgroup) : (s.updWg i f).snaps = s.snaps := rfl
@[simp] theorem State.updWg_trust (s : State) (i : Nat) (f : Workgroup → Workgroup) : (s.updWg i f).trust = s.trust := rfl
@[simp] theorem State.updWg_ports (s : State) (i : Nat) (f : Workgroup → Workgroup) : (s.updWg i f).ports = s.ports := rfl
@[simp] theorem State.updWg_fabReqs (s : State) (i : Nat) (f : Workgroup → Workgroup) : (s.updWg i f).fabReqs = s.fabReqs := rfl
@[simp] theorem State.updWg_hwctx (s : State) (i : Nat) (f : Workgroup → Workgroup) : (s.updWg i f).hwctx = s.hwctx := rfl
@[simp] theorem State.updWg_plim (s : State) (i : Nat) (f : Workgroup → Workgroup) : (s.updWg i f).plim = s.plim := rfl
@[simp] theorem State.updWg_tkrec (s : State) (i : Nat) (f : Workgroup → Workgroup) : (s.updWg i f).tkrec = s.tkrec := rfl
@[simp] theorem State.updWg_tkctx (s : State) (i : Nat) (f : Workgroup → Workgroup) : (s.updWg i f).tkctx = s.tkctx := rfl
@[simp] theorem State.updWg_tkres (s : State) (i : Nat) (f : Workgroup → Workgroup) : (s.updWg i f).tkres = s.tkres := rfl
@[simp] theorem State.updWg_statesel (s : State) (i : Nat) (f : Workgroup → Workgroup) : (s.updWg i f).statesel = s.statesel := rfl
@[simp] theorem State.updWg_hostData (s : State) (i : Nat) (f : Workgroup → Workgroup) : (s.updWg i f).hostData = s.hostData := rfl
@[simp] theorem State.updWg_freeCnt (s : State) (i : Nat) (f : Workgroup → Workgroup) : (s.updWg i f).freeCnt = s.freeCnt := rfl

/-! ## The system registers and the dies -/

@[simp] theorem State.sysSet_power (s : State) (cp c : Nat) (v : Dword) : (s.sysSet cp c v).power = s.power := rfl
@[simp] theorem State.sysSet_halted (s : State) (cp c : Nat) (v : Dword) : (s.sysSet cp c v).halted = s.halted := rfl
@[simp] theorem State.sysSet_cycle (s : State) (cp c : Nat) (v : Dword) : (s.sysSet cp c v).cycle = s.cycle := rfl
@[simp] theorem State.sysSet_issue (s : State) (cp c : Nat) (v : Dword) : (s.sysSet cp c v).issue = s.issue := rfl
@[simp] theorem State.sysSet_agenda (s : State) (cp c : Nat) (v : Dword) : (s.sysSet cp c v).agenda = s.agenda := rfl
@[simp] theorem State.sysSet_issued (s : State) (cp c : Nat) (v : Dword) : (s.sysSet cp c v).issued = s.issued := rfl
@[simp] theorem State.sysSet_slices (s : State) (cp c : Nat) (v : Dword) : (s.sysSet cp c v).slices = s.slices := rfl
@[simp] theorem State.sysSet_waves (s : State) (cp c : Nat) (v : Dword) : (s.sysSet cp c v).waves = s.waves := rfl
@[simp] theorem State.sysSet_wgs (s : State) (cp c : Nat) (v : Dword) : (s.sysSet cp c v).wgs = s.wgs := rfl
@[simp] theorem State.sysSet_gangs (s : State) (cp c : Nat) (v : Dword) : (s.sysSet cp c v).gangs = s.gangs := rfl
@[simp] theorem State.sysSet_tasks (s : State) (cp c : Nat) (v : Dword) : (s.sysSet cp c v).tasks = s.tasks := rfl
@[simp] theorem State.sysSet_modules (s : State) (cp c : Nat) (v : Dword) : (s.sysSet cp c v).modules = s.modules := rfl
@[simp] theorem State.sysSet_loads (s : State) (cp c : Nat) (v : Dword) : (s.sysSet cp c v).loads = s.loads := rfl
@[simp] theorem State.sysSet_mem (s : State) (cp c : Nat) (v : Dword) : (s.sysSet cp c v).mem = s.mem := rfl
@[simp] theorem State.sysSet_l1 (s : State) (cp c : Nat) (v : Dword) : (s.sysSet cp c v).l1 = s.l1 := rfl
@[simp] theorem State.sysSet_shr (s : State) (cp c : Nat) (v : Dword) : (s.sysSet cp c v).shr = s.shr := rfl
@[simp] theorem State.sysSet_rdc (s : State) (cp c : Nat) (v : Dword) : (s.sysSet cp c v).rdc = s.rdc := rfl
@[simp] theorem State.sysSet_rdcFills (s : State) (cp c : Nat) (v : Dword) : (s.sysSet cp c v).rdcFills = s.rdcFills := rfl
@[simp] theorem State.sysSet_hints (s : State) (cp c : Nat) (v : Dword) : (s.sysSet cp c v).hints = s.hints := rfl
@[simp] theorem State.sysSet_badLines (s : State) (cp c : Nat) (v : Dword) : (s.sysSet cp c v).badLines = s.badLines := rfl
@[simp] theorem State.sysSet_keyids (s : State) (cp c : Nat) (v : Dword) : (s.sysSet cp c v).keyids = s.keyids := rfl
@[simp] theorem State.sysSet_frames (s : State) (cp c : Nat) (v : Dword) : (s.sysSet cp c v).frames = s.frames := rfl
@[simp] theorem State.sysSet_tlb (s : State) (cp c : Nat) (v : Dword) : (s.sysSet cp c v).tlb = s.tlb := rfl
@[simp] theorem State.sysSet_msgs (s : State) (cp c : Nat) (v : Dword) : (s.sysSet cp c v).msgs = s.msgs := rfl
@[simp] theorem State.sysSet_nextId (s : State) (cp c : Nat) (v : Dword) : (s.sysSet cp c v).nextId = s.nextId := rfl
@[simp] theorem State.sysSet_copies (s : State) (cp c : Nat) (v : Dword) : (s.sysSet cp c v).copies = s.copies := rfl
@[simp] theorem State.sysSet_held (s : State) (cp c : Nat) (v : Dword) : (s.sysSet cp c v).held = s.held := rfl
@[simp] theorem State.sysSet_hostQ (s : State) (cp c : Nat) (v : Dword) : (s.sysSet cp c v).hostQ = s.hostQ := rfl
@[simp] theorem State.sysSet_bindings (s : State) (cp c : Nat) (v : Dword) : (s.sysSet cp c v).bindings = s.bindings := rfl
@[simp] theorem State.sysSet_cmds (s : State) (cp c : Nat) (v : Dword) : (s.sysSet cp c v).cmds = s.cmds := rfl
@[simp] theorem State.sysSet_leatLast (s : State) (cp c : Nat) (v : Dword) : (s.sysSet cp c v).leatLast = s.leatLast := rfl
@[simp] theorem State.sysSet_quern (s : State) (cp c : Nat) (v : Dword) : (s.sysSet cp c v).quern = s.quern := rfl
@[simp] theorem State.sysSet_slots (s : State) (cp c : Nat) (v : Dword) : (s.sysSet cp c v).slots = s.slots := rfl
@[simp] theorem State.sysSet_spans (s : State) (cp c : Nat) (v : Dword) : (s.sysSet cp c v).spans = s.spans := rfl
@[simp] theorem State.sysSet_rounds (s : State) (cp c : Nat) (v : Dword) : (s.sysSet cp c v).rounds = s.rounds := rfl
@[simp] theorem State.sysSet_heard (s : State) (cp c : Nat) (v : Dword) : (s.sysSet cp c v).heard = s.heard := rfl
@[simp] theorem State.sysSet_contrib (s : State) (cp c : Nat) (v : Dword) : (s.sysSet cp c v).contrib = s.contrib := rfl
@[simp] theorem State.sysSet_windows (s : State) (cp c : Nat) (v : Dword) : (s.sysSet cp c v).windows = s.windows := rfl
@[simp] theorem State.sysSet_grants (s : State) (cp c : Nat) (v : Dword) : (s.sysSet cp c v).grants = s.grants := rfl
@[simp] theorem State.sysSet_seqs (s : State) (cp c : Nat) (v : Dword) : (s.sysSet cp c v).seqs = s.seqs := rfl
@[simp] theorem State.sysSet_parts (s : State) (cp c : Nat) (v : Dword) : (s.sysSet cp c v).parts = s.parts := rfl
@[simp] theorem State.sysSet_ca (s : State) (cp c : Nat) (v : Dword) : (s.sysSet cp c v).ca = s.ca := rfl
@[simp] theorem State.sysSet_images (s : State) (cp c : Nat) (v : Dword) : (s.sysSet cp c v).images = s.images := rfl
@[simp] theorem State.sysSet_transReqs (s : State) (cp c : Nat) (v : Dword) : (s.sysSet cp c v).transReqs = s.transReqs := rfl
@[simp] theorem State.sysSet_notices (s : State) (cp c : Nat) (v : Dword) : (s.sysSet cp c v).notices = s.notices := rfl
@[simp] theorem State.sysSet_msix (s : State) (cp c : Nat) (v : Dword) : (s.sysSet cp c v).msix = s.msix := rfl
@[simp] theorem State.sysSet_dies (s : State) (cp c : Nat) (v : Dword) : (s.sysSet cp c v).dies = s.dies := rfl
@[simp] theorem State.sysSet_cut (s : State) (cp c : Nat) (v : Dword) : (s.sysSet cp c v).cut = s.cut := rfl
@[simp] theorem State.sysSet_ckpt (s : State) (cp c : Nat) (v : Dword) : (s.sysSet cp c v).ckpt = s.ckpt := rfl
@[simp] theorem State.sysSet_opnum (s : State) (cp c : Nat) (v : Dword) : (s.sysSet cp c v).opnum = s.opnum := rfl
@[simp] theorem State.sysSet_snaps (s : State) (cp c : Nat) (v : Dword) : (s.sysSet cp c v).snaps = s.snaps := rfl
@[simp] theorem State.sysSet_trust (s : State) (cp c : Nat) (v : Dword) : (s.sysSet cp c v).trust = s.trust := rfl
@[simp] theorem State.sysSet_ports (s : State) (cp c : Nat) (v : Dword) : (s.sysSet cp c v).ports = s.ports := rfl
@[simp] theorem State.sysSet_fabReqs (s : State) (cp c : Nat) (v : Dword) : (s.sysSet cp c v).fabReqs = s.fabReqs := rfl
@[simp] theorem State.sysSet_hwctx (s : State) (cp c : Nat) (v : Dword) : (s.sysSet cp c v).hwctx = s.hwctx := rfl
@[simp] theorem State.sysSet_plim (s : State) (cp c : Nat) (v : Dword) : (s.sysSet cp c v).plim = s.plim := rfl
@[simp] theorem State.sysSet_tkrec (s : State) (cp c : Nat) (v : Dword) : (s.sysSet cp c v).tkrec = s.tkrec := rfl
@[simp] theorem State.sysSet_tkctx (s : State) (cp c : Nat) (v : Dword) : (s.sysSet cp c v).tkctx = s.tkctx := rfl
@[simp] theorem State.sysSet_tkres (s : State) (cp c : Nat) (v : Dword) : (s.sysSet cp c v).tkres = s.tkres := rfl
@[simp] theorem State.sysSet_statesel (s : State) (cp c : Nat) (v : Dword) : (s.sysSet cp c v).statesel = s.statesel := rfl
@[simp] theorem State.sysSet_hostData (s : State) (cp c : Nat) (v : Dword) : (s.sysSet cp c v).hostData = s.hostData := rfl
@[simp] theorem State.sysSet_freeCnt (s : State) (cp c : Nat) (v : Dword) : (s.sysSet cp c v).freeCnt = s.freeCnt := rfl
@[simp] theorem State.setDie_power (s : State) (d : Nat) (f : DieSt → DieSt) : (s.setDie d f).power = s.power := rfl
@[simp] theorem State.setDie_halted (s : State) (d : Nat) (f : DieSt → DieSt) : (s.setDie d f).halted = s.halted := rfl
@[simp] theorem State.setDie_cycle (s : State) (d : Nat) (f : DieSt → DieSt) : (s.setDie d f).cycle = s.cycle := rfl
@[simp] theorem State.setDie_issue (s : State) (d : Nat) (f : DieSt → DieSt) : (s.setDie d f).issue = s.issue := rfl
@[simp] theorem State.setDie_agenda (s : State) (d : Nat) (f : DieSt → DieSt) : (s.setDie d f).agenda = s.agenda := rfl
@[simp] theorem State.setDie_issued (s : State) (d : Nat) (f : DieSt → DieSt) : (s.setDie d f).issued = s.issued := rfl
@[simp] theorem State.setDie_slices (s : State) (d : Nat) (f : DieSt → DieSt) : (s.setDie d f).slices = s.slices := rfl
@[simp] theorem State.setDie_waves (s : State) (d : Nat) (f : DieSt → DieSt) : (s.setDie d f).waves = s.waves := rfl
@[simp] theorem State.setDie_wgs (s : State) (d : Nat) (f : DieSt → DieSt) : (s.setDie d f).wgs = s.wgs := rfl
@[simp] theorem State.setDie_gangs (s : State) (d : Nat) (f : DieSt → DieSt) : (s.setDie d f).gangs = s.gangs := rfl
@[simp] theorem State.setDie_tasks (s : State) (d : Nat) (f : DieSt → DieSt) : (s.setDie d f).tasks = s.tasks := rfl
@[simp] theorem State.setDie_modules (s : State) (d : Nat) (f : DieSt → DieSt) : (s.setDie d f).modules = s.modules := rfl
@[simp] theorem State.setDie_loads (s : State) (d : Nat) (f : DieSt → DieSt) : (s.setDie d f).loads = s.loads := rfl
@[simp] theorem State.setDie_sys (s : State) (d : Nat) (f : DieSt → DieSt) : (s.setDie d f).sys = s.sys := rfl
@[simp] theorem State.setDie_mem (s : State) (d : Nat) (f : DieSt → DieSt) : (s.setDie d f).mem = s.mem := rfl
@[simp] theorem State.setDie_l1 (s : State) (d : Nat) (f : DieSt → DieSt) : (s.setDie d f).l1 = s.l1 := rfl
@[simp] theorem State.setDie_shr (s : State) (d : Nat) (f : DieSt → DieSt) : (s.setDie d f).shr = s.shr := rfl
@[simp] theorem State.setDie_rdc (s : State) (d : Nat) (f : DieSt → DieSt) : (s.setDie d f).rdc = s.rdc := rfl
@[simp] theorem State.setDie_rdcFills (s : State) (d : Nat) (f : DieSt → DieSt) : (s.setDie d f).rdcFills = s.rdcFills := rfl
@[simp] theorem State.setDie_hints (s : State) (d : Nat) (f : DieSt → DieSt) : (s.setDie d f).hints = s.hints := rfl
@[simp] theorem State.setDie_badLines (s : State) (d : Nat) (f : DieSt → DieSt) : (s.setDie d f).badLines = s.badLines := rfl
@[simp] theorem State.setDie_keyids (s : State) (d : Nat) (f : DieSt → DieSt) : (s.setDie d f).keyids = s.keyids := rfl
@[simp] theorem State.setDie_frames (s : State) (d : Nat) (f : DieSt → DieSt) : (s.setDie d f).frames = s.frames := rfl
@[simp] theorem State.setDie_tlb (s : State) (d : Nat) (f : DieSt → DieSt) : (s.setDie d f).tlb = s.tlb := rfl
@[simp] theorem State.setDie_msgs (s : State) (d : Nat) (f : DieSt → DieSt) : (s.setDie d f).msgs = s.msgs := rfl
@[simp] theorem State.setDie_nextId (s : State) (d : Nat) (f : DieSt → DieSt) : (s.setDie d f).nextId = s.nextId := rfl
@[simp] theorem State.setDie_copies (s : State) (d : Nat) (f : DieSt → DieSt) : (s.setDie d f).copies = s.copies := rfl
@[simp] theorem State.setDie_held (s : State) (d : Nat) (f : DieSt → DieSt) : (s.setDie d f).held = s.held := rfl
@[simp] theorem State.setDie_hostQ (s : State) (d : Nat) (f : DieSt → DieSt) : (s.setDie d f).hostQ = s.hostQ := rfl
@[simp] theorem State.setDie_bindings (s : State) (d : Nat) (f : DieSt → DieSt) : (s.setDie d f).bindings = s.bindings := rfl
@[simp] theorem State.setDie_cmds (s : State) (d : Nat) (f : DieSt → DieSt) : (s.setDie d f).cmds = s.cmds := rfl
@[simp] theorem State.setDie_leatLast (s : State) (d : Nat) (f : DieSt → DieSt) : (s.setDie d f).leatLast = s.leatLast := rfl
@[simp] theorem State.setDie_quern (s : State) (d : Nat) (f : DieSt → DieSt) : (s.setDie d f).quern = s.quern := rfl
@[simp] theorem State.setDie_slots (s : State) (d : Nat) (f : DieSt → DieSt) : (s.setDie d f).slots = s.slots := rfl
@[simp] theorem State.setDie_spans (s : State) (d : Nat) (f : DieSt → DieSt) : (s.setDie d f).spans = s.spans := rfl
@[simp] theorem State.setDie_rounds (s : State) (d : Nat) (f : DieSt → DieSt) : (s.setDie d f).rounds = s.rounds := rfl
@[simp] theorem State.setDie_heard (s : State) (d : Nat) (f : DieSt → DieSt) : (s.setDie d f).heard = s.heard := rfl
@[simp] theorem State.setDie_contrib (s : State) (d : Nat) (f : DieSt → DieSt) : (s.setDie d f).contrib = s.contrib := rfl
@[simp] theorem State.setDie_windows (s : State) (d : Nat) (f : DieSt → DieSt) : (s.setDie d f).windows = s.windows := rfl
@[simp] theorem State.setDie_grants (s : State) (d : Nat) (f : DieSt → DieSt) : (s.setDie d f).grants = s.grants := rfl
@[simp] theorem State.setDie_seqs (s : State) (d : Nat) (f : DieSt → DieSt) : (s.setDie d f).seqs = s.seqs := rfl
@[simp] theorem State.setDie_parts (s : State) (d : Nat) (f : DieSt → DieSt) : (s.setDie d f).parts = s.parts := rfl
@[simp] theorem State.setDie_ca (s : State) (d : Nat) (f : DieSt → DieSt) : (s.setDie d f).ca = s.ca := rfl
@[simp] theorem State.setDie_images (s : State) (d : Nat) (f : DieSt → DieSt) : (s.setDie d f).images = s.images := rfl
@[simp] theorem State.setDie_transReqs (s : State) (d : Nat) (f : DieSt → DieSt) : (s.setDie d f).transReqs = s.transReqs := rfl
@[simp] theorem State.setDie_notices (s : State) (d : Nat) (f : DieSt → DieSt) : (s.setDie d f).notices = s.notices := rfl
@[simp] theorem State.setDie_msix (s : State) (d : Nat) (f : DieSt → DieSt) : (s.setDie d f).msix = s.msix := rfl
@[simp] theorem State.setDie_cut (s : State) (d : Nat) (f : DieSt → DieSt) : (s.setDie d f).cut = s.cut := rfl
@[simp] theorem State.setDie_ckpt (s : State) (d : Nat) (f : DieSt → DieSt) : (s.setDie d f).ckpt = s.ckpt := rfl
@[simp] theorem State.setDie_opnum (s : State) (d : Nat) (f : DieSt → DieSt) : (s.setDie d f).opnum = s.opnum := rfl
@[simp] theorem State.setDie_snaps (s : State) (d : Nat) (f : DieSt → DieSt) : (s.setDie d f).snaps = s.snaps := rfl
@[simp] theorem State.setDie_trust (s : State) (d : Nat) (f : DieSt → DieSt) : (s.setDie d f).trust = s.trust := rfl
@[simp] theorem State.setDie_ports (s : State) (d : Nat) (f : DieSt → DieSt) : (s.setDie d f).ports = s.ports := rfl
@[simp] theorem State.setDie_fabReqs (s : State) (d : Nat) (f : DieSt → DieSt) : (s.setDie d f).fabReqs = s.fabReqs := rfl
@[simp] theorem State.setDie_hwctx (s : State) (d : Nat) (f : DieSt → DieSt) : (s.setDie d f).hwctx = s.hwctx := rfl
@[simp] theorem State.setDie_plim (s : State) (d : Nat) (f : DieSt → DieSt) : (s.setDie d f).plim = s.plim := rfl
@[simp] theorem State.setDie_tkrec (s : State) (d : Nat) (f : DieSt → DieSt) : (s.setDie d f).tkrec = s.tkrec := rfl
@[simp] theorem State.setDie_tkctx (s : State) (d : Nat) (f : DieSt → DieSt) : (s.setDie d f).tkctx = s.tkctx := rfl
@[simp] theorem State.setDie_tkres (s : State) (d : Nat) (f : DieSt → DieSt) : (s.setDie d f).tkres = s.tkres := rfl
@[simp] theorem State.setDie_statesel (s : State) (d : Nat) (f : DieSt → DieSt) : (s.setDie d f).statesel = s.statesel := rfl
@[simp] theorem State.setDie_hostData (s : State) (d : Nat) (f : DieSt → DieSt) : (s.setDie d f).hostData = s.hostData := rfl
@[simp] theorem State.setDie_freeCnt (s : State) (d : Nat) (f : DieSt → DieSt) : (s.setDie d f).freeCnt = s.freeCnt := rfl

/-! ## A wave and its lanes -/

@[simp] theorem Wave.mapLanes_die (w : Wave) (f : Nat → Lane → Lane) : (w.mapLanes f).die = w.die := rfl
@[simp] theorem Wave.mapLanes_core (w : Wave) (f : Nat → Lane → Lane) : (w.mapLanes f).core = w.core := rfl
@[simp] theorem Wave.mapLanes_slot (w : Wave) (f : Nat → Lane → Lane) : (w.mapLanes f).slot = w.slot := rfl
@[simp] theorem Wave.mapLanes_seq (w : Wave) (f : Nat → Lane → Lane) : (w.mapLanes f).seq = w.seq := rfl
@[simp] theorem Wave.mapLanes_wg (w : Wave) (f : Nat → Lane → Lane) : (w.mapLanes f).wg = w.wg := rfl
@[simp] theorem Wave.mapLanes_num (w : Wave) (f : Nat → Lane → Lane) : (w.mapLanes f).num = w.num := rfl
@[simp] theorem Wave.mapLanes_live (w : Wave) (f : Nat → Lane → Lane) : (w.mapLanes f).live = w.live := rfl
@[simp] theorem Wave.mapLanes_enr (w : Wave) (f : Nat → Lane → Lane) : (w.mapLanes f).enr = w.enr := rfl
@[simp] theorem Wave.mapLanes_prk (w : Wave) (f : Nat → Lane → Lane) : (w.mapLanes f).prk = w.prk := rfl
@[simp] theorem Wave.mapLanes_idx (w : Wave) (f : Nat → Lane → Lane) : (w.mapLanes f).idx = w.idx := rfl
@[simp] theorem Wave.mapLanes_trip (w : Wave) (f : Nat → Lane → Lane) : (w.mapLanes f).trip = w.trip := rfl
@[simp] theorem Wave.mapLanes_fpf (w : Wave) (f : Nat → Lane → Lane) : (w.mapLanes f).fpf = w.fpf := rfl
@[simp] theorem Wave.mapLanes_fpAt (w : Wave) (f : Nat → Lane → Lane) : (w.mapLanes f).fpAt = w.fpAt := rfl
@[simp] theorem Wave.mapLanes_fpNew (w : Wave) (f : Nat → Lane → Lane) : (w.mapLanes f).fpNew = w.fpNew := rfl
@[simp] theorem Wave.mapLanes_retired (w : Wave) (f : Nat → Lane → Lane) : (w.mapLanes f).retired = w.retired := rfl
@[simp] theorem Wave.mapLanes_sincePhase (w : Wave) (f : Nat → Lane → Lane) : (w.mapLanes f).sincePhase = w.sincePhase := rfl
@[simp] theorem Wave.mapLanes_arrivedOn (w : Wave) (f : Nat → Lane → Lane) : (w.mapLanes f).arrivedOn = w.arrivedOn := rfl
@[simp] theorem Wave.mapLanes_starve (w : Wave) (f : Nat → Lane → Lane) : (w.mapLanes f).starve = w.starve := rfl
@[simp] theorem Wave.mapLanes_unoffered (w : Wave) (f : Nat → Lane → Lane) : (w.mapLanes f).unoffered = w.unoffered := rfl
@[simp] theorem Wave.mapLanes_offerNext (w : Wave) (f : Nat → Lane → Lane) : (w.mapLanes f).offerNext = w.offerNext := rfl
@[simp] theorem Wave.mapLanes_hold (w : Wave) (f : Nat → Lane → Lane) : (w.mapLanes f).hold = w.hold := rfl
@[simp] theorem Wave.mapLanes_passTurn (w : Wave) (f : Nat → Lane → Lane) : (w.mapLanes f).passTurn = w.passTurn := rfl
@[simp] theorem Wave.mapLanes_wkp (w : Wave) (f : Nat → Lane → Lane) : (w.mapLanes f).wkp = w.wkp := rfl
@[simp] theorem Wave.mapLanes_faulted (w : Wave) (f : Nat → Lane → Lane) : (w.mapLanes f).faulted = w.faulted := rfl
@[simp] theorem Wave.mapLanes_frec (w : Wave) (f : Nat → Lane → Lane) : (w.mapLanes f).frec = w.frec := rfl
@[simp] theorem Wave.mapLanes_late (w : Wave) (f : Nat → Lane → Lane) : (w.mapLanes f).late = w.late := rfl
@[simp] theorem Wave.mapLanes_pend (w : Wave) (f : Nat → Lane → Lane) : (w.mapLanes f).pend = w.pend := rfl
@[simp] theorem Wave.mapLanes_contfn (w : Wave) (f : Nat → Lane → Lane) : (w.mapLanes f).contfn = w.contfn := rfl
@[simp] theorem Wave.mapLanes_contarg (w : Wave) (f : Nat → Lane → Lane) : (w.mapLanes f).contarg = w.contarg := rfl
@[simp] theorem Wave.mapLanes_incont (w : Wave) (f : Nat → Lane → Lane) : (w.mapLanes f).incont = w.incont := rfl
@[simp] theorem Wave.mapLanes_csig (w : Wave) (f : Nat → Lane → Lane) : (w.mapLanes f).csig = w.csig := rfl
@[simp] theorem Wave.mapLanes_cmask (w : Wave) (f : Nat → Lane → Lane) : (w.mapLanes f).cmask = w.cmask := rfl
@[simp] theorem Wave.mapLanes_rpc (w : Wave) (f : Nat → Lane → Lane) : (w.mapLanes f).rpc = w.rpc := rfl
@[simp] theorem Wave.mapLanes_contAsk (w : Wave) (f : Nat → Lane → Lane) : (w.mapLanes f).contAsk = w.contAsk := rfl
@[simp] theorem Wave.mapLanes_unsaved (w : Wave) (f : Nat → Lane → Lane) : (w.mapLanes f).unsaved = w.unsaved := rfl
@[simp] theorem Wave.mapLanes_tlbAfter (w : Wave) (f : Nat → Lane → Lane) : (w.mapLanes f).tlbAfter = w.tlbAfter := rfl
@[simp] theorem Wave.mapLanes_q (w : Wave) (f : Nat → Lane → Lane) : (w.mapLanes f).q = w.q := rfl
@[simp] theorem Wave.mapLanes_tiles (w : Wave) (f : Nat → Lane → Lane) : (w.mapLanes f).tiles = w.tiles := rfl
@[simp] theorem Wave.mapLanes_qoffer (w : Wave) (f : Nat → Lane → Lane) : (w.mapLanes f).qoffer = w.qoffer := rfl
@[simp] theorem Wave.mapLanes_fmPend (w : Wave) (f : Nat → Lane → Lane) : (w.mapLanes f).fmPend = w.fmPend := rfl
@[simp] theorem Wave.mapLanes_landings (w : Wave) (f : Nat → Lane → Lane) : (w.mapLanes f).landings = w.landings := rfl
@[simp] theorem Wave.mapLanes_tilePend (w : Wave) (f : Nat → Lane → Lane) : (w.mapLanes f).tilePend = w.tilePend := rfl
@[simp] theorem Wave.mapLanes_cold (w : Wave) (f : Nat → Lane → Lane) : (w.mapLanes f).cold = w.cold := rfl
@[simp] theorem Wave.mapLanes_blockBad (w : Wave) (f : Nat → Lane → Lane) : (w.mapLanes f).blockBad = w.blockBad := rfl
@[simp] theorem Wave.mapLanes_pbase (w : Wave) (f : Nat → Lane → Lane) : (w.mapLanes f).pbase = w.pbase := rfl
@[simp] theorem Wave.mapLanes_wbp (w : Wave) (f : Nat → Lane → Lane) : (w.mapLanes f).wbp = w.wbp := rfl
@[simp] theorem Wave.mapLanes_budget (w : Wave) (f : Nat → Lane → Lane) : (w.mapLanes f).budget = w.budget := rfl
@[simp] theorem Wave.mapLanes_opfence (w : Wave) (f : Nat → Lane → Lane) : (w.mapLanes f).opfence = w.opfence := rfl
@[simp] theorem Wave.mapLanes_cutAt (w : Wave) (f : Nat → Lane → Lane) : (w.mapLanes f).cutAt = w.cutAt := rfl
@[simp] theorem Wave.mapLanes_cutStop (w : Wave) (f : Nat → Lane → Lane) : (w.mapLanes f).cutStop = w.cutStop := rfl
@[simp] theorem Wave.mapLanes_throttled (w : Wave) (f : Nat → Lane → Lane) : (w.mapLanes f).throttled = w.throttled := rfl
@[simp] theorem Wave.mapLanes_primary (w : Wave) (f : Nat → Lane → Lane) : (w.mapLanes f).primary = w.primary := rfl
@[simp] theorem Wave.mapLanes_migrate (w : Wave) (f : Nat → Lane → Lane) : (w.mapLanes f).migrate = w.migrate := rfl
@[simp] theorem Wave.mapLanes_xfail (w : Wave) (f : Nat → Lane → Lane) : (w.mapLanes f).xfail = w.xfail := rfl
@[simp] theorem Wave.mapLanes_evicted (w : Wave) (f : Nat → Lane → Lane) : (w.mapLanes f).evicted = w.evicted := rfl
@[simp] theorem Wave.mapLanes_retr (w : Wave) (f : Nat → Lane → Lane) : (w.mapLanes f).retr = w.retr := rfl
@[simp] theorem Wave.mapLanes_xwait (w : Wave) (f : Nat → Lane → Lane) : (w.mapLanes f).xwait = w.xwait := rfl
@[simp] theorem Wave.issued_die (w : Wave) : (w.issued).die = w.die := rfl
@[simp] theorem Wave.issued_core (w : Wave) : (w.issued).core = w.core := rfl
@[simp] theorem Wave.issued_slot (w : Wave) : (w.issued).slot = w.slot := rfl
@[simp] theorem Wave.issued_seq (w : Wave) : (w.issued).seq = w.seq := rfl
@[simp] theorem Wave.issued_wg (w : Wave) : (w.issued).wg = w.wg := rfl
@[simp] theorem Wave.issued_num (w : Wave) : (w.issued).num = w.num := rfl
@[simp] theorem Wave.issued_live (w : Wave) : (w.issued).live = w.live := rfl
@[simp] theorem Wave.issued_lanes (w : Wave) : (w.issued).lanes = w.lanes := rfl
@[simp] theorem Wave.issued_enr (w : Wave) : (w.issued).enr = w.enr := rfl
@[simp] theorem Wave.issued_prk (w : Wave) : (w.issued).prk = w.prk := rfl
@[simp] theorem Wave.issued_idx (w : Wave) : (w.issued).idx = w.idx := rfl
@[simp] theorem Wave.issued_trip (w : Wave) : (w.issued).trip = w.trip := rfl
@[simp] theorem Wave.issued_fpf (w : Wave) : (w.issued).fpf = w.fpf := rfl
@[simp] theorem Wave.issued_fpAt (w : Wave) : (w.issued).fpAt = w.fpAt := rfl
@[simp] theorem Wave.issued_fpNew (w : Wave) : (w.issued).fpNew = w.fpNew := rfl
@[simp] theorem Wave.issued_arrivedOn (w : Wave) : (w.issued).arrivedOn = w.arrivedOn := rfl
@[simp] theorem Wave.issued_unoffered (w : Wave) : (w.issued).unoffered = w.unoffered := rfl
@[simp] theorem Wave.issued_offerNext (w : Wave) : (w.issued).offerNext = w.offerNext := rfl
@[simp] theorem Wave.issued_hold (w : Wave) : (w.issued).hold = w.hold := rfl
@[simp] theorem Wave.issued_passTurn (w : Wave) : (w.issued).passTurn = w.passTurn := rfl
@[simp] theorem Wave.issued_wkp (w : Wave) : (w.issued).wkp = w.wkp := rfl
@[simp] theorem Wave.issued_faulted (w : Wave) : (w.issued).faulted = w.faulted := rfl
@[simp] theorem Wave.issued_frec (w : Wave) : (w.issued).frec = w.frec := rfl
@[simp] theorem Wave.issued_late (w : Wave) : (w.issued).late = w.late := rfl
@[simp] theorem Wave.issued_pend (w : Wave) : (w.issued).pend = w.pend := rfl
@[simp] theorem Wave.issued_contfn (w : Wave) : (w.issued).contfn = w.contfn := rfl
@[simp] theorem Wave.issued_contarg (w : Wave) : (w.issued).contarg = w.contarg := rfl
@[simp] theorem Wave.issued_incont (w : Wave) : (w.issued).incont = w.incont := rfl
@[simp] theorem Wave.issued_csig (w : Wave) : (w.issued).csig = w.csig := rfl
@[simp] theorem Wave.issued_cmask (w : Wave) : (w.issued).cmask = w.cmask := rfl
@[simp] theorem Wave.issued_rpc (w : Wave) : (w.issued).rpc = w.rpc := rfl
@[simp] theorem Wave.issued_contAsk (w : Wave) : (w.issued).contAsk = w.contAsk := rfl
@[simp] theorem Wave.issued_unsaved (w : Wave) : (w.issued).unsaved = w.unsaved := rfl
@[simp] theorem Wave.issued_tlbAfter (w : Wave) : (w.issued).tlbAfter = w.tlbAfter := rfl
@[simp] theorem Wave.issued_q (w : Wave) : (w.issued).q = w.q := rfl
@[simp] theorem Wave.issued_tiles (w : Wave) : (w.issued).tiles = w.tiles := rfl
@[simp] theorem Wave.issued_qoffer (w : Wave) : (w.issued).qoffer = w.qoffer := rfl
@[simp] theorem Wave.issued_fmPend (w : Wave) : (w.issued).fmPend = w.fmPend := rfl
@[simp] theorem Wave.issued_landings (w : Wave) : (w.issued).landings = w.landings := rfl
@[simp] theorem Wave.issued_tilePend (w : Wave) : (w.issued).tilePend = w.tilePend := rfl
@[simp] theorem Wave.issued_cold (w : Wave) : (w.issued).cold = w.cold := rfl
@[simp] theorem Wave.issued_blockBad (w : Wave) : (w.issued).blockBad = w.blockBad := rfl
@[simp] theorem Wave.issued_pbase (w : Wave) : (w.issued).pbase = w.pbase := rfl
@[simp] theorem Wave.issued_wbp (w : Wave) : (w.issued).wbp = w.wbp := rfl
@[simp] theorem Wave.issued_budget (w : Wave) : (w.issued).budget = w.budget := rfl
@[simp] theorem Wave.issued_opfence (w : Wave) : (w.issued).opfence = w.opfence := rfl
@[simp] theorem Wave.issued_cutAt (w : Wave) : (w.issued).cutAt = w.cutAt := rfl
@[simp] theorem Wave.issued_cutStop (w : Wave) : (w.issued).cutStop = w.cutStop := rfl
@[simp] theorem Wave.issued_xfail (w : Wave) : (w.issued).xfail = w.xfail := rfl
@[simp] theorem Wave.issued_evicted (w : Wave) : (w.issued).evicted = w.evicted := rfl
@[simp] theorem Wave.issued_retr (w : Wave) : (w.issued).retr = w.retr := rfl
@[simp] theorem Wave.issued_xwait (w : Wave) : (w.issued).xwait = w.xwait := rfl
@[simp] theorem Lane.goOn_st (l : Lane) (p : Loc) : (l.goOn p).st = l.st := rfl
@[simp] theorem Lane.goOn_wait (l : Lane) (p : Loc) : (l.goOn p).wait = l.wait := rfl
@[simp] theorem Lane.goOn_after (l : Lane) (p : Loc) : (l.goOn p).after = l.after := rfl
@[simp] theorem Lane.goOn_frames (l : Lane) (p : Loc) : (l.goOn p).frames = l.frames := rfl
@[simp] theorem Lane.goOn_fb (l : Lane) (p : Loc) : (l.goOn p).fb = l.fb := rfl
@[simp] theorem Lane.goOn_rsidx (l : Lane) (p : Loc) : (l.goOn p).rsidx = l.rsidx := rfl
@[simp] theorem Lane.goOn_g (l : Lane) (p : Loc) : (l.goOn p).g = l.g := rfl
@[simp] theorem Lane.goOn_s (l : Lane) (p : Loc) : (l.goOn p).s = l.s := rfl
@[simp] theorem Lane.goOn_fm (l : Lane) (p : Loc) : (l.goOn p).fm = l.fm := rfl

@[simp] theorem Wave.issued_retired (w : Wave) : w.issued.retired = w.retired + 1 := rfl
@[simp] theorem Lane.goOn_pc (l : Lane) (p : Loc) : (l.goOn p).pc = p := rfl
@[simp] theorem Lane.goOn_bpos (l : Lane) (p : Loc) : (l.goOn p).bpos = l.bpos + 1 := rfl
@[simp] theorem Lane.goOn_val (l : Lane) (p : Loc) (n : Nat) : (l.goOn p).val n = l.val n := rfl

/-- Lane `L` after every lane has been replaced by its image. -/
@[simp] theorem Wave.mapLanes_lane (w : Wave) (f : Nat → Lane → Lane) {L : Nat} (h : L < 32) : (w.mapLanes f).lane L = f L (w.lane L) := by
  simp [Wave.mapLanes, Wave.lane, List.getD_eq_getElem?_getD, h]

/-- The issuing wave after it has been replaced by its image. -/
theorem State.updWv_wv (s : State) (f : Wave → Wave) (h : s.issue.wave < s.waves.length) : (s.updWv f).wv = f s.wv :=
  updAt_getD_same s.waves s.issue.wave f default h

/-- A wave that is not the one replaced. -/
theorem State.updWv_other (s : State) (f : Wave → Wave) {j : Nat} (h : j ≠ s.issue.wave) : (s.updWv f).waves[j]? = s.waves[j]? := by
  rw [State.updWv_waves, updAt_getElem?, if_neg h]

theorem State.updWave_at (s : State) (i : Nat) (f : Wave → Wave) (h : i < s.waves.length) : (s.updWave i f).waveAt i = f (s.waveAt i) :=
  updAt_getD_same s.waves i f default h

theorem State.updWave_at_other (s : State) (i j : Nat) (f : Wave → Wave) (h : j ≠ i) : (s.updWave i f).waveAt j = s.waveAt j :=
  updAt_getD_other s.waves i j f default h

theorem State.updWg_at (s : State) (i : Nat) (f : Workgroup → Workgroup) (h : i < s.wgs.length) : (s.updWg i f).wgAt i = f (s.wgAt i) :=
  updAt_getD_same s.wgs i f default h

theorem State.updWg_at_other (s : State) (i j : Nat) (f : Workgroup → Workgroup) (h : j ≠ i) : (s.updWg i f).wgAt j = s.wgAt j :=
  updAt_getD_other s.wgs i j f default h

/-- A system register after a write. -/
theorem State.sysSet_get (s : State) (cp c : Nat) (v : Dword) (k e : Nat) :
    (s.sysSet cp c v).sysGet k e = if k * 4096 + e = cp * 4096 + c then v else s.sysGet k e :=
  cget_cset s.sys (cp * 4096 + c) (k * 4096 + e) v

end Sys2Proof.Machine
end

