-- ==== Sys2Proof/Laws/Ops.lean ====
section
/-! SUPPORT. What the shared operations that complete an instruction can do: results, and what they leave as it was. -/
namespace Sys2Proof.Machine
open Sys2Proof Sys2Proof.Safety

/-! ## Values of a lane -/

theorem Lane.setVal_frames_ne {l : Lane} (n : Nat) (v : Val) (h : l.frames ≠ []) : (l.setVal n v).frames ≠ [] := by
  unfold Lane.setVal
  split <;> simp_all

theorem Lane.setVal_tail (l : Lane) (n : Nat) (v : Val) : (l.setVal n v).frames.tail = l.frames.tail := by
  unfold Lane.setVal
  split <;> simp_all

theorem Lane.setVal_rest (l : Lane) (n : Nat) (v : Val) : l.setVal n v = { l with frames := (l.setVal n v).frames } := by
  unfold Lane.setVal
  split <;> rfl

theorem Lane.setVal_same {l : Lane} (n : Nat) (v : Val) (h : l.frames ≠ []) : (l.setVal n v).val n = v := by
  unfold Lane.setVal
  split
  · simp [Lane.val]
  · contradiction

theorem Lane.setVal_other (l : Lane) {n m : Nat} (v : Val) (h : m ≠ n) : (l.setVal n v).val m = l.val m := by
  unfold Lane.setVal
  split
  · rename_i f fs hf
    simp [Lane.val, hf, cget_cset_other f.vals v h]
  · rfl

theorem Lane.setVals_tail (l : Lane) (n : Nat) (vs : List Val) : (l.setVals n vs).frames.tail = l.frames.tail := by
  induction vs generalizing l n with
  | nil => rfl
  | cons v vs ih => rw [Lane.setVals, ih, Lane.setVal_tail]

theorem Lane.setVals_rest (l : Lane) (n : Nat) (vs : List Val) : l.setVals n vs = { l with frames := (l.setVals n vs).frames } := by
  induction vs generalizing l n with
  | nil => rfl
  | cons v vs ih =>
    rw [Lane.setVals, ih (l.setVal n v) (n + 1), Lane.setVal_rest l n v]

/-- A value outside the written numbers. -/
theorem Lane.setVals_other (l : Lane) (n : Nat) (vs : List Val) {m : Nat} (h : m < n ∨ n + vs.length ≤ m) :
    (l.setVals n vs).val m = l.val m := by
  induction vs generalizing l n with
  | nil => rfl
  | cons v vs ih =>
    simp only [List.length_cons] at h
    rw [Lane.setVals, ih _ _ (by omega), Lane.setVal_other l v (by omega)]

/-- A written value. -/
theorem Lane.setVals_at {l : Lane} (n : Nat) (vs : List Val) (hf : l.frames ≠ []) {k : Nat} (h : k < vs.length) :
    (l.setVals n vs).val (n + k) = vs.getD k 0 := by
  induction vs generalizing l n k with
  | nil => simp at h
  | cons v vs ih =>
    cases k with
    | zero => rw [Lane.setVals, Lane.setVals_other _ _ _ (by omega)]; simpa using Lane.setVal_same n v hf
    | succ k =>
      rw [Lane.setVals, show n + (k + 1) = n + 1 + k by omega, ih (n + 1) (Lane.setVal_frames_ne n v hf) (by simpa using h)]
      simp

/-! ## Native registers -/

/-- Only native registers of `D`, in lanes of the mask, and landings have changed between two copies of a wave. -/
structure RegsOnly (m : Mask) (D : Nat → Prop) (w v : Wave) : Prop where
  rest : v = { w with lanes := v.lanes, q := v.q, landings := v.landings }
  off : ∀ L, L < 32 → inMask m L = false → v.lane L = w.lane L
  on : ∀ L, L < 32 → v.lane L = { w.lane L with g := (v.lane L).g, s := (v.lane L).s }
  regs : ∀ L, L < 32 → ∀ r, ¬D r → v.regRead r L = w.regRead r L

theorem RegsOnly.refl (m : Mask) (D : Nat → Prop) (w : Wave) : RegsOnly m D w w :=
  ⟨rfl, fun _ _ _ => rfl, fun _ _ => rfl, fun _ _ _ _ => rfl⟩

theorem RegsOnly.trans {m : Mask} {D : Nat → Prop} {a b c : Wave} (h : RegsOnly m D a b) (k : RegsOnly m D b c) : RegsOnly m D a c where
  rest := by
    have := k.rest
    rw [h.rest] at this
    exact this
  off L hL hm := (k.off L hL hm).trans (h.off L hL hm)
  on L hL := by
    have := k.on L hL
    rw [h.on L hL] at this
    exact this
  regs L hL r hr := (k.regs L hL r hr).trans (h.regs L hL r hr)

theorem RegsOnly.mono {m : Mask} {D E : Nat → Prop} {a b : Wave} (h : RegsOnly m D a b) (hDE : ∀ r, D r → E r) : RegsOnly m E a b :=
  ⟨h.rest, h.off, h.on, fun L hL r hr => h.regs L hL r fun hd => hr (hDE r hd)⟩

theorem inMask_maskOf (p : Nat → Bool) {L : Nat} (h : L < 32) : inMask (maskOf p) L = p L := by
  have key : ∀ (n : Nat) (hn : n ≤ 32),
      ((List.range n).foldl (fun x L => if p L then x + 2 ^ L else x) 0) < 2 ^ n ∧
      ∀ L < n, ((List.range n).foldl (fun x L => if p L then x + 2 ^ L else x) 0).testBit L = p L := by
    intro n
    induction n with
    | zero => intro _; simp
    | succ n ih =>
      intro hn
      obtain ⟨hlt, hb⟩ := ih (by omega)
      rw [List.range_succ, List.foldl_append]
      simp only [List.foldl_cons, List.foldl_nil]
      set x := (List.range n).foldl (fun x L => if p L then x + 2 ^ L else x) 0
      by_cases hp : p n
      · rw [if_pos hp]
        refine ⟨by rw [pow_succ]; omega, fun L hL => ?_⟩
        rw [Nat.add_comm]
        by_cases hLn : L = n
        · subst hLn
          rw [Nat.testBit_two_pow_add_eq, Nat.testBit_lt_two_pow hlt, hp]
          rfl
        · rw [Nat.testBit_two_pow_add_gt (by omega), hb L (by omega)]
      · rw [if_neg hp]
        refine ⟨by rw [pow_succ]; omega, fun L hL => ?_⟩
        by_cases hLn : L = n
        · subst hLn
          simp [hp, Nat.testBit_lt_two_pow hlt]
        · exact hb L (by omega)
  obtain ⟨_, hb⟩ := key 32 (le_refl _)
  unfold inMask maskOf
  rw [BitVec.getLsbD_ofNat]
  simp [hb L h, h]

/-- A write of one register. -/
theorem Wave.regWrite_only (w : Wave) (m : Mask) (n : Nat) (v : Nat → Dword) : RegsOnly m (· = n) w (w.regWrite m n v) := by
  unfold Wave.regWrite
  by_cases hv : isVec n
  · rw [if_pos hv]
    refine ⟨rfl, fun L hL hm => ?_, fun L hL => ?_, fun L hL r hr => ?_⟩
    · simp [hL, hm]
    · rw [Wave.mapLanes_lane _ _ hL]; split <;> rfl
    · unfold Wave.regRead
      rw [Wave.mapLanes_lane _ _ hL]
      split
      · split
        · simp [cget_cset_other _ _ hr]
        · rfl
      · split
        · split <;> rfl
        · rfl
  · rw [if_neg hv]
    by_cases hs : isScal n
    · rw [if_pos hs]
      refine ⟨rfl, fun L hL hm => ?_, fun L hL => ?_, fun L hL r hr => ?_⟩
      · simp [hL, hm]
      · rw [Wave.mapLanes_lane _ _ hL]; split <;> rfl
      · unfold Wave.regRead
        rw [Wave.mapLanes_lane _ _ hL]
        split
        · split <;> rfl
        · split
          · rename_i h1
            split
            · simp only [isScal, Bool.and_eq_true, decide_eq_true_eq] at hs h1
              rw [cget_cset_other _ _ (by omega)]
            · rfl
          · rfl
    · rw [if_neg hs]
      by_cases hp : isPred n
      · rw [if_pos hp]
        refine ⟨rfl, fun L hL hm => rfl, fun L hL => rfl, fun L hL r hr => ?_⟩
        unfold Wave.regRead
        split
        · rfl
        · split
          · rfl
          · split
            · rename_i h1
              simp only [isPred, Bool.and_eq_true, decide_eq_true_eq] at hp h1
              simp only
              rw [cget_cset_other _ _ (by omega)]
            · rfl
      · rw [if_neg hp]; exact RegsOnly.refl _ _ _

theorem foldl_regWrite_only (m : Mask) (b : Nat) (v : Nat → Nat → Dword) (is : List Nat) (w : Wave) (hb : ∀ i ∈ is, i < n) :
    RegsOnly m (fun r => b ≤ r ∧ r < b + n) w (is.foldl (fun w i => w.regWrite m (b + i) (v i)) w) := by
  induction is generalizing w with
  | nil => exact RegsOnly.refl _ _ _
  | cons i is ih =>
    refine RegsOnly.trans ((Wave.regWrite_only w m (b + i) (v i)).mono ?_) (ih _ fun j hj => hb j (List.mem_cons_of_mem _ hj))
    rintro r rfl
    have := hb i (List.mem_cons_self ..)
    omega

/-- Results in registers change those registers only. -/
theorem Wave.putRegs_only (w : Wave) (m : Mask) (ds : List (Nat × Nat)) (res : Nat → List Val) :
    RegsOnly m (fun r => ∃ d ∈ ds, d.1 ≤ r ∧ r < d.1 + max 1 d.2) w (w.putRegs m ds res) := by
  induction ds generalizing w res with
  | nil => exact RegsOnly.refl _ _ _
  | cons d ds ih =>
    unfold Wave.putRegs
    refine RegsOnly.trans (b := if isVec d.1 then (List.range d.2).foldl (fun w i => w.regWrite m (d.1 + i) fun L =>
        dw (((res L).headD 0).toNat / 2 ^ (32 * i))) w else w.regWrite m d.1 fun L => dw ((res L).headD 0).toNat) ?_ ?_
    · split
      · refine (foldl_regWrite_only (n := max 1 d.2) m d.1 (fun i L => dw (((res L).headD 0).toNat / 2 ^ (32 * i))) (List.range d.2) w
          fun i hi => by rw [List.mem_range] at hi; omega).mono ?_
        intro r hr
        exact ⟨d, List.mem_cons_self .., hr⟩
      · refine (Wave.regWrite_only w m d.1 _).mono ?_
        rintro r rfl
        exact ⟨d, List.mem_cons_self .., le_refl _, by omega⟩
    · refine (ih _ _).mono ?_
      rintro r ⟨e, he, hr⟩
      exact ⟨e, List.mem_cons_of_mem _ he, hr⟩

/-- Each word of a result belongs to a register of its run. -/
theorem regWords_in {d : Nat × Nat} {v : Val} {e : Nat × Dword} (h : e ∈ regWords d v) : d.1 ≤ e.1 ∧ e.1 < d.1 + max 1 d.2 := by
  unfold regWords at h
  split at h
  · simp only [List.mem_map, List.mem_range] at h
    obtain ⟨i, hi, rfl⟩ := h
    exact ⟨by simp, by simp only; omega⟩
  · simp only [List.mem_singleton] at h
    subst h
    exact ⟨le_refl _, by simp only; omega⟩

theorem Wave.regWrite_landings (w : Wave) (m : Mask) (n : Nat) (v : Nat → Dword) : (w.regWrite m n v).landings = w.landings := by
  unfold Wave.regWrite
  split
  · rfl
  · split
    · rfl
    · split <;> rfl

theorem Wave.putRegs_landings (w : Wave) (m : Mask) (ds : List (Nat × Nat)) (res : Nat → List Val) :
    (w.putRegs m ds res).landings = w.landings := by
  induction ds generalizing w res with
  | nil => rfl
  | cons d ds ih =>
    unfold Wave.putRegs
    rw [ih]
    split
    · exact List.foldlRecOn (motive := fun v => Wave.landings v = w.landings) _ _ rfl fun v hv i _ => by rw [Wave.regWrite_landings, hv]
    · exact Wave.regWrite_landings _ _ _ _

/-- Results on the way to their registers: they have landed in these registers only, or they are a landing for these registers only. -/
theorem Wave.deliver_only (w : Wave) (s : State) (res : Nat → List Val) :
    RegsOnly s.active (fun r => ∃ d ∈ s.issue.dsts, d.1 ≤ r ∧ r < d.1 + max 1 d.2) w (w.deliver s res) ∧
    ∃ xs, (w.deliver s res).landings = w.landings ++ xs ∧ ∀ x ∈ xs, ∀ e ∈ x.data, On s e.2.1 ∧
      ∃ d ∈ s.issue.dsts, d.1 ≤ e.1 ∧ e.1 < d.1 + max 1 d.2 := by
  unfold Wave.deliver
  split
  · exact ⟨Wave.putRegs_only w s.active s.issue.dsts res, [], by simp [Wave.putRegs_landings], by simp⟩
  · refine ⟨⟨rfl, fun _ _ _ => rfl, fun _ _ => rfl, fun _ _ _ _ => rfl⟩, [s.landing res], rfl, ?_⟩
    intro x hx e he
    simp only [List.mem_singleton] at hx
    subst hx
    simp only [State.landing, List.mem_flatMap, List.mem_map] at he
    obtain ⟨L, hL, p, hp, a, ha, rfl⟩ := he
    have hin := List.of_mem_zip hp
    refine ⟨?_, p.1, hin.1, regWords_in ha⟩
    unfold State.activeLanes lanesOf at hL
    rw [List.mem_filter, List.mem_range] at hL
    exact hL

/-! ## Completing -/

/-- The issuing wave after an instruction completes. -/
theorem State.finish_wv (s : State) (res : Nat → List Val) (h : s.issue.wave < s.waves.length) :
    (s.finish res).wv = ((s.wv.mapLanes fun L l =>
      if inMask s.active L then (l.setVals s.issue.loc.vnum (res L)).goOn s.after else l).deliver s res).issued :=
  State.updWv_wv s _ h

theorem Wave.issued_lane (w : Wave) (L : Nat) : w.issued.lane L = w.lane L := rfl
theorem Wave.issued_regRead (w : Wave) (r L : Nat) : w.issued.regRead r L = w.regRead r L := rfl

/-- The results of a completed instruction. -/
theorem State.finish_result (s : State) (res : Nat → List Val) (h : Issuing s) {L k : Nat} (hL : On s L) (hk : k < (res L).length) :
    result s (s.finish res) L k = (res L).getD k 0 := by
  have hw : (s.finish res).waveAt s.issue.wave = (s.finish res).wv := rfl
  unfold result valIn
  rw [hw, State.finish_wv s res h.1, Wave.issued_lane, (Wave.deliver_only _ _ _).1.on L hL.1, Wave.mapLanes_lane _ _ hL.1]
  have hm : inMask s.active L = true := hL.2
  rw [if_pos hm]
  exact Lane.setVals_at s.issue.loc.vnum (res L) (h.2 L hL) hk

/-- The floating-point flags of a completed instruction are as they were, those that land next included. -/
theorem State.finish_fpf (s : State) (res : Nat → List Val) (h : s.issue.wave < s.waves.length) :
    (s.finish res).wv.fpf = s.wv.fpf ∧ (s.finish res).wv.fpAt = s.wv.fpAt ∧ (s.finish res).wv.fpNew = s.wv.fpNew := by
  rw [State.finish_wv s res h, Wave.issued_fpf, Wave.issued_fpAt, Wave.issued_fpNew, (Wave.deliver_only _ _ _).1.rest]
  exact ⟨rfl, rfl, rfl⟩

theorem State.finish_rsidx (s : State) (res : Nat → List Val) (h : s.issue.wave < s.waves.length) {L : Nat} (hL : L < 32) :
    ((s.finish res).wv.lane L).rsidx = (s.wv.lane L).rsidx := by
  rw [State.finish_wv s res h, Wave.issued_lane, (Wave.deliver_only _ _ _).1.on L hL, Wave.mapLanes_lane _ _ hL]
  show (if inMask s.active L then ((s.wv.lane L).setVals s.issue.loc.vnum (res L)).goOn s.after else s.wv.lane L).rsidx = _
  split
  · rw [Lane.setVals_rest]; rfl
  · rfl

/-- The frame of a completed instruction with `k` results a lane. -/
theorem State.finish_only (s : State) (res : Nat → List Val) (k : Nat) (h : Issuing s) (hk : ∀ L, On s L → (res L).length ≤ k) :
    ResultsOnly s (s.finish res) k := by
  have hwv := State.finish_wv s res h.1
  obtain ⟨hp, hlands⟩ := Wave.deliver_only (s.wv.mapLanes fun L l =>
      if inMask s.active L then (l.setVals s.issue.loc.vnum (res L)).goOn s.after else l) s res
  have hlane : ∀ L, L < 32 → (s.finish res).wv.lane L =
      { (if inMask s.active L then ((s.wv.lane L).setVals s.issue.loc.vnum (res L)).goOn s.after else s.wv.lane L) with
        g := ((s.finish res).wv.lane L).g, s := ((s.finish res).wv.lane L).s } := by
    intro L hL
    have := hp.on L hL
    rw [Wave.mapLanes_lane _ _ hL] at this
    rw [hwv, Wave.issued_lane]
    exact this
  refine ⟨rfl, fun j hj => State.updWv_other s _ hj, ?_, ?_, ?_, ?_, ?_, ?_, ?_⟩
  · unfold WaveOn
    rw [hwv, Wave.issued, hp.rest]
    rfl
  · intro L hL
    have hm : inMask s.active L = false := hL.2
    have := hp.off L hL.1 hL.2
    rw [Wave.mapLanes_lane _ _ hL.1, hm] at this
    rw [hwv, Wave.issued_lane]
    simpa using this
  · intro L hL
    have hm : inMask s.active L = true := hL.2
    have := hlane L hL.1
    rw [if_pos hm, Lane.setVals_rest] at this
    unfold LaneOn
    rw [this]
    rfl
  · intro L hL n hn
    have hm : inMask s.active L = true := hL.2
    have hlen := hk L hL
    show ((s.finish res).wv.lane L).val n = (s.wv.lane L).val n
    rw [hlane L hL.1, if_pos hm]
    exact Lane.setVals_other (s.wv.lane L) s.issue.loc.vnum (res L) (by omega)
  · intro L hL
    have hm : inMask s.active L = true := hL.2
    rw [hlane L hL.1, if_pos hm]
    exact Lane.setVals_tail _ _ _
  · rw [hwv]
    exact hlands
  · intro L hL r hr
    rw [hwv, Wave.issued_regRead, hp.regs L hL r (by
      rintro ⟨d, hd, hlo, hhi⟩
      have := hr d hd
      omega)]
    unfold Wave.regRead
    rw [Wave.mapLanes_lane _ _ hL]
    split
    · split
      · rw [Lane.setVals_rest]; rfl
      · rfl
    · split
      · split
        · rw [Lane.setVals_rest]; rfl
        · rfl
      · rfl

/-- An instruction that completes with one result a lane. -/
theorem gives_put {i : Instr} {s : State} {f : Nat → Val} {P : Nat → Val → Prop} (hi : exec i s = .next (s.put f)) (h : Issuing s)
    (hP : ∀ L, On s L → P L (f L)) : Gives i s P :=
  ⟨s.put f, hi, State.finish_only s _ 1 h fun _ _ => le_refl _,
    ⟨(State.finish_fpf s _ h.1).1, (State.finish_fpf s _ h.1).2.1, (State.finish_fpf s _ h.1).2.2, fun _ hL => State.finish_rsidx s _ h.1 hL.1⟩,
    fun L hL => by
      have := State.finish_result s (fun L => [f L]) h hL (k := 0) (by simp)
      simp only [List.getD_cons_zero] at this
      unfold State.put
      rw [this]
      exact hP L hL⟩

theorem gives2_finish {i : Instr} {s : State} {f : Nat → List Val} {P : Nat → Val → Val → Prop} (hi : exec i s = .next (s.finish f))
    (h : Issuing s) (hf : ∀ L, (f L).length = 2) (hP : ∀ L, On s L → P L ((f L).getD 0 0) ((f L).getD 1 0)) : Gives2 i s P :=
  ⟨s.finish f, hi, State.finish_only s _ 2 h fun L _ => by rw [hf L],
    ⟨(State.finish_fpf s _ h.1).1, (State.finish_fpf s _ h.1).2.1, (State.finish_fpf s _ h.1).2.2, fun _ hL => State.finish_rsidx s _ h.1 hL.1⟩,
    fun L hL => by
      rw [State.finish_result s f h hL (k := 0) (by rw [hf]; omega), State.finish_result s f h hL (k := 1) (by rw [hf]; omega)]
      exact hP L hL⟩

/-- An instruction that completes with no result. -/
theorem passes_done {i : Instr} {s : State} (hi : exec i s = .next s.done) (h : Issuing s) : Passes i s :=
  ⟨s.done, hi, State.finish_only s _ 0 h fun _ _ => le_refl _,
    ⟨(State.finish_fpf s _ h.1).1, (State.finish_fpf s _ h.1).2.1, (State.finish_fpf s _ h.1).2.2, fun _ hL => State.finish_rsidx s _ h.1 hL.1⟩⟩

end Sys2Proof.Machine
end

