-- ==== Sys2Proof/Laws/Int.lean ====
section
/-! SUPPORT. Elements of results, and the integers that element bits stand for. -/
namespace Sys2Proof.Machine
open Sys2Proof Sys2Proof.Safety

/-! ## Elements of a value -/

theorem Elem.width_pos (e : Elem) : 0 < e.width := by cases e <;> decide

theorem Ty.elems_fit (ty : Ty) : (Ty.elem ty).width * Ty.lanes ty ≤ 256 := by
  cases ty with
  | num sh e => cases sh <;> cases e <;> decide
  | _ => decide

theorem ofElems_lt (w : Nat) (xs : List Nat) : ofElems w xs < 2 ^ (w * xs.length) := by
  induction xs with
  | nil => simp [ofElems]
  | cons x xs ih =>
    simp only [ofElems, List.length_cons, Nat.mul_add, Nat.mul_one, Nat.pow_add]
    have hx : x % 2 ^ w < 2 ^ w := Nat.mod_lt _ (by positivity)
    nlinarith [Nat.one_le_two_pow (n := w)]

theorem ofElems_div (w : Nat) (xs : List Nat) (j : Nat) : ofElems w xs / 2 ^ (j * w) % 2 ^ w = xs.getD j 0 % 2 ^ w := by
  induction xs generalizing j with
  | nil => simp [ofElems]
  | cons x xs ih =>
    cases j with
    | zero => simp [ofElems, Nat.add_mod]
    | succ j =>
      simp only [ofElems, List.getD_cons_succ]
      rw [Nat.add_mul, Nat.one_mul, Nat.add_comm (j * w) w, Nat.pow_add, ← Nat.div_div_eq_div_mul, Nat.add_mul_div_left _ _ (by positivity),
        Nat.div_eq_of_lt (Nat.mod_lt _ (by positivity)), Nat.zero_add, ih]

/-- The number of a value built from elements. -/
theorem perElem_toNat (ty : Ty) (f : Nat → Nat) :
    (perElem ty f).toNat = ofElems (Ty.elem ty).width ((List.range (Ty.lanes ty)).map f) := by
  unfold perElem
  rw [BitVec.toNat_ofNat, Nat.mod_eq_of_lt]
  refine lt_of_lt_of_le (ofElems_lt _ _) (Nat.pow_le_pow_right (by omega) ?_)
  simpa using Ty.elems_fit ty

theorem perElem_lt (ty : Ty) (f : Nat → Nat) : (perElem ty f).toNat < 2 ^ ((Ty.elem ty).width * Ty.lanes ty) := by
  rw [perElem_toNat]
  simpa using ofElems_lt (Ty.elem ty).width ((List.range (Ty.lanes ty)).map f)

/-- An element of a value built from elements. -/
theorem elemOf_perElem (ty : Ty) (f : Nat → Nat) {j : Nat} (h : j < Ty.lanes ty) : elemOf ty (perElem ty f) j = f j % 2 ^ (Ty.elem ty).width := by
  unfold elemOf elemAt
  rw [perElem_toNat, ofElems_div]
  simp [List.getD_eq_getElem?_getD, h]

theorem elemAt_lt (v : Val) (w j : Nat) : elemAt v w j < 2 ^ w := Nat.mod_lt _ (by positivity)
theorem State.el_lt (s : State) (ty : Ty) (o : Opnd) (L j : Nat) : s.el ty o L j < 2 ^ (Ty.elem ty).width := elemAt_lt _ _ _

/-- An instruction whose result is given element by element. -/
theorem byElement_put {i : Instr} {s : State} {ty : Ty} {f : Nat → Nat → Nat} {P : Nat → Nat → Nat → Prop}
    (hi : exec i s = .next (s.put fun L => perElem ty (f L))) (h : Issuing s)
    (hP : ∀ L j, On s L → j < Ty.lanes ty → P L j (f L j % 2 ^ (Ty.elem ty).width)) : ByElement i s ty P :=
  gives_put hi h fun L hL => ⟨perElem_lt ty (f L), fun j hj => by
    rw [elemOf_perElem ty (f L) hj]
    exact ⟨Nat.mod_lt _ (by positivity), hP L j hL hj⟩⟩

/-! ## The integers of element bits (R161) -/

theorem wrapI_lt (w : Nat) (x : Int) : wrapI w x < 2 ^ w := by
  unfold wrapI
  have h : (0 : Int) < 2 ^ w := by positivity
  have h1 := Int.emod_lt_of_pos x h
  have h2 := Int.emod_nonneg x h.ne'
  zify
  rw [Int.toNat_of_nonneg h2]
  exact h1

theorem wrapI_cast (w : Nat) (x : Int) : ((wrapI w x : Nat) : Int) = x % 2 ^ w := by
  unfold wrapI
  exact Int.toNat_of_nonneg (Int.emod_nonneg x (by positivity))

@[simp] theorem wrapI_mod (w : Nat) (x : Int) : wrapI w x % 2 ^ w = wrapI w x := Nat.mod_eq_of_lt (wrapI_lt w x)

/-- The bits of an integer stand for it modulo 2^w. -/
theorem wrapI_modEq (w : Nat) (x : Int) : ((wrapI w x : Nat) : Int) ≡ x [ZMOD 2 ^ w] := by
  rw [wrapI_cast]
  exact Int.mod_modEq x _

theorem eRange (e : Elem) : eMax e - eMin e = 2 ^ e.width - 1 := by cases e <;> decide

/-- An element stands for an integer within its limits. -/
theorem toI_bounds (e : Elem) {a : Nat} (h : a < 2 ^ e.width) : eMin e ≤ toI e a ∧ toI e a ≤ eMax e := by
  unfold toI eMin eMax
  cases e <;> simp [Elem.signed, Elem.width] at h ⊢ <;> (try split) <;> omega

/-- An integer within the limits of an element is what its bits stand for. -/
theorem toI_wrapI (e : Elem) {x : Int} (h1 : eMin e ≤ x) (h2 : x ≤ eMax e) : toI e (wrapI e.width x) = x := by
  have hc := wrapI_cast e.width x
  have hl := wrapI_lt e.width x
  generalize wrapI e.width x = n at hc hl
  unfold toI
  cases e <;> simp [Elem.signed, Elem.width, eMin, eMax] at h1 h2 hc hl ⊢ <;> (try split) <;> omega

/-- The bits of what an element stands for. -/
theorem wrapI_toI (e : Elem) {a : Nat} (h : a < 2 ^ e.width) : wrapI e.width (toI e a) = a := by
  have hc := wrapI_cast e.width (toI e a)
  have hl := wrapI_lt e.width (toI e a)
  unfold toI at hc ⊢
  generalize wrapI e.width (if e.signed = true ∧ 2 ^ (e.width - 1) ≤ a then (a : Int) - 2 ^ e.width else a) = n at hc hl ⊢
  cases e <;> simp [Elem.signed, Elem.width] at h hc hl ⊢ <;> (try split at hc) <;> omega

theorem toI_modEq (e : Elem) (a : Nat) : toI e a ≡ a [ZMOD 2 ^ e.width] := by
  unfold toI
  split
  · simp [Int.ModEq]
  · rfl

end Sys2Proof.Machine
end

