-- ==== Sys2Proof/Laws/PerInstr.lean ====
section
/-! SUPPORT. What holds of every instruction as syntax, one lemma a constructor: a portable instruction encodes with an opcode that the
table of opcodes lists (02_daxdex_form.md R67). -/
namespace Sys2Proof.Laws.Row
open Sys2Proof

/-- The raw form of a portable instruction carries a listed opcode that fits its field of ten bits. -/
def Statement (i : Instr) : Prop := ∀ r, toRaw i = some r → (rowOf r.opc).isSome = true ∧ r.opc < 1024

theorem of_raw {i : Instr} {r : Raw} (o : Nat) (h : toRaw i = some r) (e : r.opc = o) (hr : (rowOf o).isSome = true ∧ o < 1024) :
    Statement i := by
  intro q hq; rw [h] at hq; cases hq; rw [e]; exact hr

theorem of_none {i : Instr} (h : toRaw i = none) : Statement i := by
  intro q hq; rw [h] at hq; cases hq

theorem br : ∀ x0, Statement (.br x0) := fun _ => of_raw 0x001 rfl rfl (by decide)
theorem brc : ∀ x0 x1 x2, Statement (.brc x0 x1 x2) := fun _ _ _ => of_raw 0x002 rfl rfl (by decide)
theorem brsw : ∀ x0 x1 x2 x3, Statement (.brsw x0 x1 x2 x3) := fun _ _ _ _ => of_raw 0x003 rfl rfl (by decide)
theorem call : ∀ x0 x1, Statement (.call x0 x1) := fun _ _ => of_raw 0x004 rfl rfl (by decide)
theorem callx : ∀ x0 x1 x2, Statement (.callx x0 x1 x2) := fun _ _ _ => of_raw 0x005 rfl rfl (by decide)
theorem calll : ∀ x0 x1, Statement (.calll x0 x1) := fun _ _ => of_raw 0x006 rfl rfl (by decide)
theorem tcall : ∀ x0 x1, Statement (.tcall x0 x1) := fun _ _ => of_raw 0x007 rfl rfl (by decide)
theorem tcallx : ∀ x0 x1 x2, Statement (.tcallx x0 x1 x2) := fun _ _ _ => of_raw 0x008 rfl rfl (by decide)
theorem ret : ∀ x0, Statement (.ret x0) := fun _ => of_raw 0x009 rfl rfl (by decide)
theorem rjenrol : ∀ x0, Statement (.rjenrol x0) := fun _ => of_raw 0x00C rfl rfl (by decide)
theorem rjwait : ∀ x0, Statement (.rjwait x0) := fun _ => of_raw 0x00D rfl rfl (by decide)
theorem rjstrike : ∀ x0, Statement (.rjstrike x0) := fun _ => of_raw 0x00E rfl rfl (by decide)
theorem rjmask : ∀ x0, Statement (.rjmask x0) := fun _ => of_raw 0x00F rfl rfl (by decide)
theorem lpbeg : ∀ x0, Statement (.lpbeg x0) := fun _ => of_raw 0x010 rfl rfl (by decide)
theorem lpend : ∀ x0, Statement (.lpend x0) := fun _ => of_raw 0x011 rfl rfl (by decide)
theorem lpidx : ∀ x0 x1, Statement (.lpidx x0 x1) := fun _ _ => of_raw 0x012 rfl rfl (by decide)
theorem fnaddr : ∀ x0, Statement (.fnaddr x0) := fun _ => of_raw 0x013 rfl rfl (by decide)
theorem lnkaddr : ∀ x0, Statement (.lnkaddr x0) := fun _ => of_raw 0x014 rfl rfl (by decide)
theorem add : ∀ x0 x1 x2, Statement (.add x0 x1 x2) := fun _ _ _ => of_raw 0x040 rfl rfl (by decide)
theorem sub : ∀ x0 x1 x2, Statement (.sub x0 x1 x2) := fun _ _ _ => of_raw 0x041 rfl rfl (by decide)
theorem mul : ∀ x0 x1 x2, Statement (.mul x0 x1 x2) := fun _ _ _ => of_raw 0x042 rfl rfl (by decide)
theorem mulhi : ∀ x0 x1 x2, Statement (.mulhi x0 x1 x2) := fun _ _ _ => of_raw 0x043 rfl rfl (by decide)
theorem mad : ∀ x0 x1 x2 x3, Statement (.mad x0 x1 x2 x3) := fun _ _ _ _ => of_raw 0x044 rfl rfl (by decide)
theorem div : ∀ x0 x1 x2, Statement (.div x0 x1 x2) := fun _ _ _ => of_raw 0x045 rfl rfl (by decide)
theorem rem : ∀ x0 x1 x2, Statement (.rem x0 x1 x2) := fun _ _ _ => of_raw 0x046 rfl rfl (by decide)
theorem neg : ∀ x0 x1, Statement (.neg x0 x1) := fun _ _ => of_raw 0x047 rfl rfl (by decide)
theorem abs : ∀ x0 x1, Statement (.abs x0 x1) := fun _ _ => of_raw 0x048 rfl rfl (by decide)
theorem min : ∀ x0 x1 x2, Statement (.min x0 x1 x2) := fun _ _ _ => of_raw 0x049 rfl rfl (by decide)
theorem max : ∀ x0 x1 x2, Statement (.max x0 x1 x2) := fun _ _ _ => of_raw 0x04A rfl rfl (by decide)
theorem addsat : ∀ x0 x1 x2, Statement (.addsat x0 x1 x2) := fun _ _ _ => of_raw 0x04B rfl rfl (by decide)
theorem subsat : ∀ x0 x1 x2, Statement (.subsat x0 x1 x2) := fun _ _ _ => of_raw 0x04C rfl rfl (by decide)
theorem addc : ∀ x0 x1 x2 x3, Statement (.addc x0 x1 x2 x3) := fun _ _ _ _ => of_raw 0x04D rfl rfl (by decide)
theorem subb : ∀ x0 x1 x2 x3, Statement (.subb x0 x1 x2 x3) := fun _ _ _ _ => of_raw 0x04E rfl rfl (by decide)
theorem and : ∀ x0 x1 x2, Statement (.and x0 x1 x2) := fun _ _ _ => of_raw 0x04F rfl rfl (by decide)
theorem or : ∀ x0 x1 x2, Statement (.or x0 x1 x2) := fun _ _ _ => of_raw 0x050 rfl rfl (by decide)
theorem xor : ∀ x0 x1 x2, Statement (.xor x0 x1 x2) := fun _ _ _ => of_raw 0x051 rfl rfl (by decide)
theorem not : ∀ x0 x1, Statement (.not x0 x1) := fun _ _ => of_raw 0x052 rfl rfl (by decide)
theorem andn : ∀ x0 x1 x2, Statement (.andn x0 x1 x2) := fun _ _ _ => of_raw 0x053 rfl rfl (by decide)
theorem shl : ∀ x0 x1 x2, Statement (.shl x0 x1 x2) := fun _ _ _ => of_raw 0x054 rfl rfl (by decide)
theorem shr : ∀ x0 x1 x2, Statement (.shr x0 x1 x2) := fun _ _ _ => of_raw 0x055 rfl rfl (by decide)
theorem sra : ∀ x0 x1 x2, Statement (.sra x0 x1 x2) := fun _ _ _ => of_raw 0x056 rfl rfl (by decide)
theorem rotl : ∀ x0 x1 x2, Statement (.rotl x0 x1 x2) := fun _ _ _ => of_raw 0x057 rfl rfl (by decide)
theorem rotr : ∀ x0 x1 x2, Statement (.rotr x0 x1 x2) := fun _ _ _ => of_raw 0x058 rfl rfl (by decide)
theorem clz : ∀ x0 x1, Statement (.clz x0 x1) := fun _ _ => of_raw 0x059 rfl rfl (by decide)
theorem ctz : ∀ x0 x1, Statement (.ctz x0 x1) := fun _ _ => of_raw 0x05A rfl rfl (by decide)
theorem popc : ∀ x0 x1, Statement (.popc x0 x1) := fun _ _ => of_raw 0x05B rfl rfl (by decide)
theorem brev : ∀ x0 x1, Statement (.brev x0 x1) := fun _ _ => of_raw 0x05C rfl rfl (by decide)
theorem bswap : ∀ x0 x1, Statement (.bswap x0 x1) := fun _ _ => of_raw 0x067 rfl rfl (by decide)
theorem bfx : ∀ x0 x1 x2 x3, Statement (.bfx x0 x1 x2 x3) := fun _ _ _ _ => of_raw 0x05D rfl rfl (by decide)
theorem bfi : ∀ x0 x1 x2 x3 x4, Statement (.bfi x0 x1 x2 x3 x4) := fun _ _ _ _ _ => of_raw 0x05E rfl rfl (by decide)
theorem cmp : ∀ x0 x1 x2 x3, Statement (.cmp x0 x1 x2 x3) := fun _ _ _ _ => of_raw 0x05F rfl rfl (by decide)
theorem sel : ∀ x0 x1 x2 x3, Statement (.sel x0 x1 x2 x3) := fun _ _ _ _ => of_raw 0x060 rfl rfl (by decide)
theorem zext : ∀ x0 x1, Statement (.zext x0 x1) := fun _ _ => of_raw 0x061 rfl rfl (by decide)
theorem sext : ∀ x0 x1, Statement (.sext x0 x1) := fun _ _ => of_raw 0x062 rfl rfl (by decide)
theorem trunc : ∀ x0 x1, Statement (.trunc x0 x1) := fun _ _ => of_raw 0x063 rfl rfl (by decide)
theorem lea : ∀ x0 x1 x2 x3, Statement (.lea x0 x1 x2 x3) := fun _ _ _ _ => of_raw 0x064 rfl rfl (by decide)
theorem const : ∀ x0 x1, Statement (.const x0 x1) := fun _ _ => of_raw 0x065 rfl rfl (by decide)
theorem sreg : ∀ x0 x1, Statement (.sreg x0 x1) := fun _ _ => of_raw 0x066 rfl rfl (by decide)
theorem fadd : ∀ x0 x1 x2 x3, Statement (.fadd x0 x1 x2 x3) := fun _ _ _ _ => of_raw 0x0C0 rfl rfl (by decide)
theorem fsub : ∀ x0 x1 x2 x3, Statement (.fsub x0 x1 x2 x3) := fun _ _ _ _ => of_raw 0x0C1 rfl rfl (by decide)
theorem fmul : ∀ x0 x1 x2 x3, Statement (.fmul x0 x1 x2 x3) := fun _ _ _ _ => of_raw 0x0C2 rfl rfl (by decide)
theorem fma : ∀ x0 x1 x2 x3 x4, Statement (.fma x0 x1 x2 x3 x4) := fun _ _ _ _ _ => of_raw 0x0C3 rfl rfl (by decide)
theorem fdiv : ∀ x0 x1 x2 x3, Statement (.fdiv x0 x1 x2 x3) := fun _ _ _ _ => of_raw 0x0C4 rfl rfl (by decide)
theorem fsqrt : ∀ x0 x1 x2, Statement (.fsqrt x0 x1 x2) := fun _ _ _ => of_raw 0x0C5 rfl rfl (by decide)
theorem frsqrt : ∀ x0 x1 x2, Statement (.frsqrt x0 x1 x2) := fun _ _ _ => of_raw 0x0C6 rfl rfl (by decide)
theorem frcp : ∀ x0 x1 x2, Statement (.frcp x0 x1 x2) := fun _ _ _ => of_raw 0x0C7 rfl rfl (by decide)
theorem fmin : ∀ x0 x1 x2 x3, Statement (.fmin x0 x1 x2 x3) := fun _ _ _ _ => of_raw 0x0C8 rfl rfl (by decide)
theorem fmax : ∀ x0 x1 x2 x3, Statement (.fmax x0 x1 x2 x3) := fun _ _ _ _ => of_raw 0x0C9 rfl rfl (by decide)
theorem fabs : ∀ x0 x1, Statement (.fabs x0 x1) := fun _ _ => of_raw 0x0CA rfl rfl (by decide)
theorem fneg : ∀ x0 x1, Statement (.fneg x0 x1) := fun _ _ => of_raw 0x0CB rfl rfl (by decide)
theorem fcpsgn : ∀ x0 x1 x2, Statement (.fcpsgn x0 x1 x2) := fun _ _ _ => of_raw 0x0CC rfl rfl (by decide)
theorem fcmp : ∀ x0 x1 x2 x3 x4, Statement (.fcmp x0 x1 x2 x3 x4) := fun _ _ _ _ _ => of_raw 0x0CD rfl rfl (by decide)
theorem fclass : ∀ x0 x1 x2, Statement (.fclass x0 x1 x2) := fun _ _ _ => of_raw 0x0CE rfl rfl (by decide)
theorem frint : ∀ x0 x1 x2 x3, Statement (.frint x0 x1 x2 x3) := fun _ _ _ _ => of_raw 0x0CF rfl rfl (by decide)
theorem fscale : ∀ x0 x1 x2 x3, Statement (.fscale x0 x1 x2 x3) := fun _ _ _ _ => of_raw 0x0D0 rfl rfl (by decide)
theorem fexp2 : ∀ x0 x1 x2, Statement (.fexp2 x0 x1 x2) := fun _ _ _ => of_raw 0x0D1 rfl rfl (by decide)
theorem flog2 : ∀ x0 x1 x2, Statement (.flog2 x0 x1 x2) := fun _ _ _ => of_raw 0x0D2 rfl rfl (by decide)
theorem fsin : ∀ x0 x1 x2, Statement (.fsin x0 x1 x2) := fun _ _ _ => of_raw 0x0D3 rfl rfl (by decide)
theorem fcos : ∀ x0 x1 x2, Statement (.fcos x0 x1 x2) := fun _ _ _ => of_raw 0x0D4 rfl rfl (by decide)
theorem fsincos : ∀ x0 x1 x2, Statement (.fsincos x0 x1 x2) := fun _ _ _ => of_raw 0x0D5 rfl rfl (by decide)
theorem ftanh : ∀ x0 x1 x2, Statement (.ftanh x0 x1 x2) := fun _ _ _ => of_raw 0x0D6 rfl rfl (by decide)
theorem fsigm : ∀ x0 x1 x2, Statement (.fsigm x0 x1 x2) := fun _ _ _ => of_raw 0x0D7 rfl rfl (by decide)
theorem fcvt : ∀ x0 x1 x2, Statement (.fcvt x0 x1 x2) := fun _ _ _ => of_raw 0x0D8 rfl rfl (by decide)
theorem ftoi : ∀ x0 x1 x2 x3, Statement (.ftoi x0 x1 x2 x3) := fun _ _ _ _ => of_raw 0x0D9 rfl rfl (by decide)
theorem itof : ∀ x0 x1 x2 x3, Statement (.itof x0 x1 x2 x3) := fun _ _ _ _ => of_raw 0x0DA rfl rfl (by decide)
theorem fpack2 : ∀ x0 x1 x2 x3, Statement (.fpack2 x0 x1 x2 x3) := fun _ _ _ _ => of_raw 0x0DB rfl rfl (by decide)
theorem funpack2 : ∀ x0 x1, Statement (.funpack2 x0 x1) := fun _ _ => of_raw 0x0DC rfl rfl (by decide)
theorem mxq : ∀ x0 x1 x2 x3, Statement (.mxq x0 x1 x2 x3) := fun _ _ _ _ => of_raw 0x0DD rfl rfl (by decide)
theorem mxdq : ∀ x0 x1 x2 x3 x4 x5, Statement (.mxdq x0 x1 x2 x3 x4 x5) := fun _ _ _ _ _ _ => of_raw 0x0DE rfl rfl (by decide)
theorem fsflag : ∀ x0, Statement (.fsflag x0) := fun _ => of_raw 0x0DF rfl rfl (by decide)
theorem lswap : ∀ x0 x1 x2, Statement (.lswap x0 x1 x2) := fun _ _ _ => of_raw 0x140 rfl rfl (by decide)
theorem lshfl : ∀ x0 x1 x2, Statement (.lshfl x0 x1 x2) := fun _ _ _ => of_raw 0x141 rfl rfl (by decide)
theorem lbcast : ∀ x0 x1 x2, Statement (.lbcast x0 x1 x2) := fun _ _ _ => of_raw 0x142 rfl rfl (by decide)
theorem lrot : ∀ x0 x1 x2, Statement (.lrot x0 x1 x2) := fun _ _ _ => of_raw 0x143 rfl rfl (by decide)
theorem lvote : ∀ x0, Statement (.lvote x0) := fun _ => of_raw 0x144 rfl rfl (by decide)
theorem lany : ∀ x0, Statement (.lany x0) := fun _ => of_raw 0x145 rfl rfl (by decide)
theorem lall : ∀ x0, Statement (.lall x0) := fun _ => of_raw 0x146 rfl rfl (by decide)
theorem lred : ∀ x0 x1 x2, Statement (.lred x0 x1 x2) := fun _ _ _ => of_raw 0x147 rfl rfl (by decide)
theorem lscan : ∀ x0 x1 x2 x3, Statement (.lscan x0 x1 x2 x3) := fun _ _ _ _ => of_raw 0x148 rfl rfl (by decide)
theorem lfirst : ∀ x0, Statement (.lfirst x0) := fun _ => of_raw 0x149 rfl rfl (by decide)
theorem lmatch : ∀ x0, Statement (.lmatch x0) := fun _ => of_raw 0x14A rfl rfl (by decide)
theorem rng : ∀ x0 x1 x2, Statement (.rng x0 x1 x2) := fun _ _ _ => of_raw 0x14B rfl rfl (by decide)
theorem spmax : ∀ x0 x1 x2, Statement (.spmax x0 x1 x2) := fun _ _ _ => of_raw 0x14C rfl rfl (by decide)
theorem spsoftmax : ∀ x0 x1 x2 x3 x4 x5, Statement (.spsoftmax x0 x1 x2 x3 x4 x5) := fun _ _ _ _ _ _ => of_raw 0x14D rfl rfl (by decide)
theorem sptopk : ∀ x0 x1 x2 x3 x4, Statement (.sptopk x0 x1 x2 x3 x4) := fun _ _ _ _ _ => of_raw 0x14E rfl rfl (by decide)
theorem spsample : ∀ x0 x1 x2 x3 x4, Statement (.spsample x0 x1 x2 x3 x4) := fun _ _ _ _ _ => of_raw 0x14F rfl rfl (by decide)
theorem spargmax : ∀ x0 x1 x2, Statement (.spargmax x0 x1 x2) := fun _ _ _ => of_raw 0x150 rfl rfl (by decide)
theorem spsum : ∀ x0 x1 x2, Statement (.spsum x0 x1 x2) := fun _ _ _ => of_raw 0x151 rfl rfl (by decide)
theorem ld : ∀ x0 x1 x2, Statement (.ld x0 x1 x2) := fun _ _ _ => of_raw 0x180 rfl rfl (by decide)
theorem st : ∀ x0 x1 x2 x3, Statement (.st x0 x1 x2 x3) := fun _ _ _ _ => of_raw 0x181 rfl rfl (by decide)
theorem ldv : ∀ x0 x1 x2, Statement (.ldv x0 x1 x2) := fun _ _ _ => of_raw 0x182 rfl rfl (by decide)
theorem stv : ∀ x0 x1 x2 x3, Statement (.stv x0 x1 x2 x3) := fun _ _ _ _ => of_raw 0x183 rfl rfl (by decide)
theorem ldblk : ∀ x0 x1 x2 x3, Statement (.ldblk x0 x1 x2 x3) := fun _ _ _ _ => of_raw 0x184 rfl rfl (by decide)
theorem stblk : ∀ x0 x1 x2 x3, Statement (.stblk x0 x1 x2 x3) := fun _ _ _ _ => of_raw 0x185 rfl rfl (by decide)
theorem prefetch : ∀ x0 x1, Statement (.prefetch x0 x1) := fun _ _ => of_raw 0x186 rfl rfl (by decide)
theorem wbline : ∀ x0, Statement (.wbline x0) := fun _ => of_raw 0x187 rfl rfl (by decide)
theorem invline : ∀ x0 x1, Statement (.invline x0 x1) := fun _ _ => of_raw 0x188 rfl rfl (by decide)
theorem zline : ∀ x0 x1, Statement (.zline x0 x1) := fun _ _ => of_raw 0x189 rfl rfl (by decide)
theorem spq : ∀ x0 x1, Statement (.spq x0 x1) := fun _ _ => of_raw 0x18A rfl rfl (by decide)
theorem pvbase : ∀ x0, Statement (.pvbase x0) := fun _ => of_raw 0x18B rfl rfl (by decide)
theorem fence : ∀ x0 x1, Statement (.fence x0 x1) := fun _ _ => of_raw 0x1C0 rfl rfl (by decide)
theorem barinit : ∀ x0 x1 x2 x3, Statement (.barinit x0 x1 x2 x3) := fun _ _ _ _ => of_raw 0x1C2 rfl rfl (by decide)
theorem bararr : ∀ x0 x1 x2 x3, Statement (.bararr x0 x1 x2 x3) := fun _ _ _ _ => of_raw 0x1C3 rfl rfl (by decide)
theorem barwait : ∀ x0 x1 x2 x3, Statement (.barwait x0 x1 x2 x3) := fun _ _ _ _ => of_raw 0x1C4 rfl rfl (by decide)
theorem barsync : ∀ x0 x1 x2, Statement (.barsync x0 x1 x2) := fun _ _ _ => of_raw 0x1C5 rfl rfl (by decide)
theorem barexp : ∀ x0 x1 x2 x3, Statement (.barexp x0 x1 x2 x3) := fun _ _ _ _ => of_raw 0x1C6 rfl rfl (by decide)
theorem bartest : ∀ x0 x1 x2 x3, Statement (.bartest x0 x1 x2 x3) := fun _ _ _ _ => of_raw 0x1C7 rfl rfl (by decide)
theorem waitval : ∀ x0 x1 x2 x3 x4, Statement (.waitval x0 x1 x2 x3 x4) := fun _ _ _ _ _ => of_raw 0x1C8 rfl rfl (by decide)
theorem sleep : ∀ x0, Statement (.sleep x0) := fun _ => of_raw 0x1C9 rfl rfl (by decide)
theorem wake : ∀ x0, Statement (.wake x0) := fun _ => of_raw 0x1CA rfl rfl (by decide)
theorem atomadd : ∀ x0 x1 x2 x3, Statement (.atomadd x0 x1 x2 x3) := fun _ _ _ _ => of_raw 0x200 rfl rfl (by decide)
theorem atomfadd : ∀ x0 x1 x2 x3, Statement (.atomfadd x0 x1 x2 x3) := fun _ _ _ _ => of_raw 0x201 rfl rfl (by decide)
theorem atomand : ∀ x0 x1 x2 x3, Statement (.atomand x0 x1 x2 x3) := fun _ _ _ _ => of_raw 0x202 rfl rfl (by decide)
theorem atomor : ∀ x0 x1 x2 x3, Statement (.atomor x0 x1 x2 x3) := fun _ _ _ _ => of_raw 0x203 rfl rfl (by decide)
theorem atomxor : ∀ x0 x1 x2 x3, Statement (.atomxor x0 x1 x2 x3) := fun _ _ _ _ => of_raw 0x204 rfl rfl (by decide)
theorem atommin : ∀ x0 x1 x2 x3, Statement (.atommin x0 x1 x2 x3) := fun _ _ _ _ => of_raw 0x205 rfl rfl (by decide)
theorem atommax : ∀ x0 x1 x2 x3, Statement (.atommax x0 x1 x2 x3) := fun _ _ _ _ => of_raw 0x206 rfl rfl (by decide)
theorem atomfmin : ∀ x0 x1 x2 x3, Statement (.atomfmin x0 x1 x2 x3) := fun _ _ _ _ => of_raw 0x207 rfl rfl (by decide)
theorem atomfmax : ∀ x0 x1 x2 x3, Statement (.atomfmax x0 x1 x2 x3) := fun _ _ _ _ => of_raw 0x208 rfl rfl (by decide)
theorem atominc : ∀ x0 x1 x2 x3, Statement (.atominc x0 x1 x2 x3) := fun _ _ _ _ => of_raw 0x209 rfl rfl (by decide)
theorem atomdec : ∀ x0 x1 x2 x3, Statement (.atomdec x0 x1 x2 x3) := fun _ _ _ _ => of_raw 0x20A rfl rfl (by decide)
theorem atomxchg : ∀ x0 x1 x2 x3, Statement (.atomxchg x0 x1 x2 x3) := fun _ _ _ _ => of_raw 0x20B rfl rfl (by decide)
theorem atomcas : ∀ x0 x1 x2 x3 x4, Statement (.atomcas x0 x1 x2 x3 x4) := fun _ _ _ _ _ => of_raw 0x20C rfl rfl (by decide)
theorem atomcas2 : ∀ x0 x1 x2 x3 x4, Statement (.atomcas2 x0 x1 x2 x3 x4) := fun _ _ _ _ _ => of_raw 0x20D rfl rfl (by decide)
theorem red : ∀ x0 x1 x2 x3 x4, Statement (.red x0 x1 x2 x3 x4) := fun _ _ _ _ _ => of_raw 0x20E rfl rfl (by decide)
theorem redf : ∀ x0 x1 x2 x3 x4, Statement (.redf x0 x1 x2 x3 x4) := fun _ _ _ _ _ => of_raw 0x20F rfl rfl (by decide)
theorem mma : ∀ x0 x1 x2 x3 x4 x5 x6 x7, Statement (.mma x0 x1 x2 x3 x4 x5 x6 x7) := fun _ _ _ _ _ _ _ _ => of_raw 0x241 rfl rfl (by decide)
theorem mmamx : ∀ x0 x1 x2 x3 x4 x5, Statement (.mmamx x0 x1 x2 x3 x4 x5) := fun _ _ _ _ _ _ => of_raw 0x242 rfl rfl (by decide)
theorem mld : ∀ x0 x1 x2 x3, Statement (.mld x0 x1 x2 x3) := fun _ _ _ _ => of_raw 0x243 rfl rfl (by decide)
theorem mst : ∀ x0 x1 x2 x3 x4 x5, Statement (.mst x0 x1 x2 x3 x4 x5) := fun _ _ _ _ _ _ => of_raw 0x244 rfl rfl (by decide)
theorem mwait : ∀ x0, Statement (.mwait x0) := fun _ => of_raw 0x245 rfl rfl (by decide)
theorem mdesc : ∀ x0 x1 x2 x3 x4 x5, Statement (.mdesc x0 x1 x2 x3 x4 x5) := fun _ _ _ _ _ _ => of_raw 0x246 rfl rfl (by decide)
theorem mtrans : ∀ x0, Statement (.mtrans x0) := fun _ => of_raw 0x247 rfl rfl (by decide)
theorem mquery : ∀ x0, Statement (.mquery x0) := fun _ => of_raw 0x248 rfl rfl (by decide)
theorem engbind : ∀ x0 x1 x2 x3 x4, Statement (.engbind x0 x1 x2 x3 x4) := fun _ _ _ _ _ => of_raw 0x280 rfl rfl (by decide)
theorem engunbind : ∀ x0, Statement (.engunbind x0) := fun _ => of_raw 0x281 rfl rfl (by decide)
theorem cmpwait : ∀ x0 x1, Statement (.cmpwait x0 x1) := fun _ _ => of_raw 0x282 rfl rfl (by decide)
theorem cmpnext : ∀ x0 x1, Statement (.cmpnext x0 x1) := fun _ _ => of_raw 0x283 rfl rfl (by decide)
theorem engstat : ∀ x0 x1, Statement (.engstat x0 x1) := fun _ _ => of_raw 0x284 rfl rfl (by decide)
theorem caput : ∀ x0 x1 x2, Statement (.caput x0 x1 x2) := fun _ _ _ => of_raw 0x2A0 rfl rfl (by decide)
theorem caget : ∀ x0 x1, Statement (.caget x0 x1) := fun _ _ => of_raw 0x2A1 rfl rfl (by decide)
theorem caref : ∀ x0 x1 x2, Statement (.caref x0 x1 x2) := fun _ _ _ => of_raw 0x2A2 rfl rfl (by decide)
theorem cadrop : ∀ x0 x1 x2, Statement (.cadrop x0 x1 x2) := fun _ _ _ => of_raw 0x2A3 rfl rfl (by decide)
theorem caswap : ∀ x0 x1 x2 x3, Statement (.caswap x0 x1 x2 x3) := fun _ _ _ _ => of_raw 0x2A4 rfl rfl (by decide)
theorem cawalk : ∀ x0 x1 x2, Statement (.cawalk x0 x1 x2) := fun _ _ _ => of_raw 0x2A5 rfl rfl (by decide)
theorem castat : ∀ x0 x1 x2, Statement (.castat x0 x1 x2) := fun _ _ _ => of_raw 0x2A6 rfl rfl (by decide)
theorem canode : ∀ x0 x1 x2 x3 x4 x5 x6 x7 x8, Statement (.canode x0 x1 x2 x3 x4 x5 x6 x7 x8) := fun _ _ _ _ _ _ _ _ _ => of_raw 0x2A7 rfl rfl (by decide)
theorem tasknew : ∀ x0, Statement (.tasknew x0) := fun _ => of_raw 0x2C0 rfl rfl (by decide)
theorem taskdep : ∀ x0 x1, Statement (.taskdep x0 x1) := fun _ _ => of_raw 0x2C1 rfl rfl (by decide)
theorem taskarm : ∀ x0 x1, Statement (.taskarm x0 x1) := fun _ _ => of_raw 0x2C2 rfl rfl (by decide)
theorem gangid : ∀ x0, Statement (.gangid x0) := fun _ => of_raw 0x2C4 rfl rfl (by decide)
theorem prio : ∀ x0 x1, Statement (.prio x0 x1) := fun _ _ => of_raw 0x2C5 rfl rfl (by decide)
theorem estim : ∀ x0, Statement (.estim x0) := fun _ => of_raw 0x2C6 rfl rfl (by decide)
theorem dcount : ∀ x0, Statement (.dcount x0) := fun _ => of_raw 0x2E1 rfl rfl (by decide)
theorem dseq : ∀ x0 x1 x2 x3, Statement (.dseq x0 x1 x2 x3) := fun _ _ _ _ => of_raw 0x2E3 rfl rfl (by decide)
theorem trap : ∀ x0, Statement (.trap x0) := fun _ => of_raw 0x2F0 rfl rfl (by decide)
theorem brk : ∀ x0, Statement (.brk x0) := fun _ => of_raw 0x2F1 rfl rfl (by decide)
theorem assert : ∀ x0 x1, Statement (.assert x0 x1) := fun _ _ => of_raw 0x2F2 rfl rfl (by decide)
theorem sysrd : ∀ x0, Statement (.sysrd x0) := fun _ => of_raw 0x2F3 rfl rfl (by decide)
theorem syswr : ∀ x0 x1, Statement (.syswr x0 x1) := fun _ _ => of_raw 0x2F4 rfl rfl (by decide)
theorem contset : ∀ x0 x1, Statement (.contset x0 x1) := fun _ _ => of_raw 0x2F5 rfl rfl (by decide)
theorem contsig : ∀ x0, Statement (.contsig x0) := fun _ => of_raw 0x2F7 rfl rfl (by decide)
theorem ckpt : ∀ x0 x1, Statement (.ckpt x0 x1) := fun _ _ => of_raw 0x2F8 rfl rfl (by decide)
theorem tlbinv : ∀ x0 x1, Statement (.tlbinv x0 x1) := fun _ _ => of_raw 0x2F9 rfl rfl (by decide)
theorem tcinv : ∀ x0 x1, Statement (.tcinv x0 x1) := fun _ _ => of_raw 0x2FA rfl rfl (by decide)
theorem evtsig : ∀ x0, Statement (.evtsig x0) := fun _ => of_raw 0x2FB rfl rfl (by decide)
theorem spanComplete : ∀ x0, Statement (.spanComplete x0) := fun _ => of_none rfl
theorem blockCopyLineDone : ∀ x0 x1, Statement (.blockCopyLineDone x0 x1) := fun _ _ => of_none rfl
theorem barrierWaitRelease : ∀ x0, Statement (.barrierWaitRelease x0) := fun _ => of_none rfl
theorem waitvalReread : ∀ x0, Statement (.waitvalReread x0) := fun _ => of_none rfl
theorem sleepTimeout : ∀ x0, Statement (.sleepTimeout x0) := fun _ => of_none rfl
theorem reductionRoundComplete : ∀ x0 x1, Statement (.reductionRoundComplete x0 x1) := fun _ _ => of_none rfl
theorem reductionRoundTimeout : ∀ x0 x1, Statement (.reductionRoundTimeout x0 x1) := fun _ _ => of_none rfl
theorem quernAccept : ∀ x0 x1 x2 x3, Statement (.quernAccept x0 x1 x2 x3) := fun _ _ _ _ => of_none rfl
theorem quernOpComplete : ∀ x0 x1 x2, Statement (.quernOpComplete x0 x1 x2) := fun _ _ _ => of_none rfl
theorem notifyFetch : ∀ x0, Statement (.notifyFetch x0) := fun _ => of_none rfl
theorem commandBegin : ∀ x0, Statement (.commandBegin x0) := fun _ => of_none rfl
theorem copy : ∀ x0, Statement (.copy x0) := fun _ => of_none rfl
theorem copyNd : ∀ x0, Statement (.copyNd x0) := fun _ => of_none rfl
theorem gather : ∀ x0, Statement (.gather x0) := fun _ => of_none rfl
theorem scatter : ∀ x0, Statement (.scatter x0) := fun _ => of_none rfl
theorem engineFill : ∀ x0, Statement (.engineFill x0) := fun _ => of_none rfl
theorem rcopy : ∀ x0, Statement (.rcopy x0) := fun _ => of_none rfl
theorem caout : ∀ x0, Statement (.caout x0) := fun _ => of_none rfl
theorem commandComplete : ∀ x0, Statement (.commandComplete x0) := fun _ => of_none rfl
theorem vaultPartApply : ∀ x0 x1 x2, Statement (.vaultPartApply x0 x1 x2) := fun _ _ _ => of_none rfl
theorem sequenceGapTimeout : ∀ x0 x1 x2, Statement (.sequenceGapTimeout x0 x1 x2) := fun _ _ _ => of_none rfl
theorem backgroundDrop : ∀ x0, Statement (.backgroundDrop x0) := fun _ => of_none rfl
theorem backgroundDropRetry : ∀ x0, Statement (.backgroundDropRetry x0) := fun _ => of_none rfl
theorem regionInitDone : ∀ x0, Statement (.regionInitDone x0) := fun _ => of_none rfl
theorem workgroupAdmit : ∀ x0, Statement (.workgroupAdmit x0) := fun _ => of_none rfl
theorem placementStalled : ∀ x0, Statement (.placementStalled x0) := fun _ => of_none rfl
theorem preemptDecide : ∀ x0 x1, Statement (.preemptDecide x0 x1) := fun _ _ => of_none rfl
theorem gangFold : ∀ x0, Statement (.gangFold x0) := fun _ => of_none rfl
theorem landing : ∀ x0, Statement (.landing x0) := fun _ => of_none rfl
theorem starvationPrimary : ∀ x0 x1, Statement (.starvationPrimary x0 x1) := fun _ _ => of_none rfl
theorem groupOfferRotate : ∀ x0, Statement (.groupOfferRotate x0) := fun _ => of_none rfl
theorem throttlePrimary : ∀ x0 x1, Statement (.throttlePrimary x0 x1) := fun _ _ => of_none rfl
theorem translationMiss : ∀ x0, Statement (.translationMiss x0) := fun _ => of_none rfl
theorem translationComplete : ∀ x0 x1, Statement (.translationComplete x0 x1) := fun _ _ => of_none rfl
theorem waveMigrate : ∀ x0, Statement (.waveMigrate x0) := fun _ => of_none rfl
theorem waveUnparkPresence : ∀ x0, Statement (.waveUnparkPresence x0) := fun _ => of_none rfl
theorem remoteWriteCheck : ∀ x0, Statement (.remoteWriteCheck x0) := fun _ => of_none rfl
theorem negativeAckArrival : ∀ x0, Statement (.negativeAckArrival x0) := fun _ => of_none rfl
theorem rdcInvalidation : ∀ x0 x1, Statement (.rdcInvalidation x0 x1) := fun _ _ => of_none rfl
theorem homeWritePerform : ∀ x0, Statement (.homeWritePerform x0) := fun _ => of_none rfl
theorem rdcFillArrival : ∀ x0 x1, Statement (.rdcFillArrival x0 x1) := fun _ _ => of_none rfl
theorem fabricRead : ∀ x0, Statement (.fabricRead x0) := fun _ => of_none rfl
theorem fabricReadData : ∀ x0, Statement (.fabricReadData x0) := fun _ => of_none rfl
theorem fabricWrite : ∀ x0, Statement (.fabricWrite x0) := fun _ => of_none rfl
theorem fabricAtomic : ∀ x0, Statement (.fabricAtomic x0) := fun _ => of_none rfl
theorem fabricAtomicData : ∀ x0, Statement (.fabricAtomicData x0) := fun _ => of_none rfl
theorem fabricWriteAck : ∀ x0, Statement (.fabricWriteAck x0) := fun _ => of_none rfl
theorem fabricNegativeAck : ∀ x0, Statement (.fabricNegativeAck x0) := fun _ => of_none rfl
theorem fabricContribution : ∀ x0, Statement (.fabricContribution x0) := fun _ => of_none rfl
theorem flitReplayTimeout : ∀ x0, Statement (.flitReplayTimeout x0) := fun _ => of_none rfl
theorem noticeRingDrain : ∀ x0, Statement (.noticeRingDrain x0) := fun _ => of_none rfl
theorem cutReport : ∀ x0, Statement (.cutReport x0) := fun _ => of_none rfl
theorem cutStop : ∀ x0, Statement (.cutStop x0) := fun _ => of_none rfl
theorem contextSave : ∀ x0, Statement (.contextSave x0) := fun _ => of_none rfl
theorem contextRestore : ∀ x0, Statement (.contextRestore x0) := fun _ => of_none rfl
theorem copyPendingWrite : ∀ x0, Statement (.copyPendingWrite x0) := fun _ => of_none rfl
theorem moduleLeave : ∀ x0, Statement (.moduleLeave x0) := fun _ => of_none rfl
theorem emptyTurn : ∀ x0, Statement (.emptyTurn x0) := fun _ => of_none rfl
theorem yieldHoldEnd : ∀ x0, Statement (.yieldHoldEnd x0) := fun _ => of_none rfl
theorem regionEnable : ∀ x0 x1, Statement (.regionEnable x0 x1) := fun _ _ => of_none rfl
theorem regionDisable : ∀ x0 x1, Statement (.regionDisable x0 x1) := fun _ _ => of_none rfl
theorem vaultTempSample : ∀ x0 x1, Statement (.vaultTempSample x0 x1) := fun _ _ => of_none rfl
theorem clusterGate : ∀ x0 x1, Statement (.clusterGate x0 x1) := fun _ _ => of_none rfl
theorem mov : ∀ x0 x1 x2 x3, Statement (.mov x0 x1 x2 x3) := fun _ _ _ _ => of_none rfl
theorem spill : ∀ x0 x1 x2, Statement (.spill x0 x1 x2) := fun _ _ _ => of_none rfl
theorem fill : ∀ x0 x1 x2 x3, Statement (.fill x0 x1 x2 x3) := fun _ _ _ _ => of_none rfl
theorem fmtset : ∀ x0 x1, Statement (.fmtset x0 x1) := fun _ _ => of_none rfl
theorem kmov : ∀ x0 x1, Statement (.kmov x0 x1) := fun _ _ => of_none rfl
theorem qmov : ∀ x0 x1, Statement (.qmov x0 x1) := fun _ _ => of_none rfl
theorem pageWalk : ∀ x0 x1 x2 x3, Statement (.pageWalk x0 x1 x2 x3) := fun _ _ _ _ => of_none rfl
theorem fabricInboundAccess : ∀ x0 x1 x2 x3 x4, Statement (.fabricInboundAccess x0 x1 x2 x3 x4) := fun _ _ _ _ _ => of_none rfl
theorem dataFlit : ∀ x0 x1, Statement (.dataFlit x0 x1) := fun _ _ => of_none rfl
theorem flitAcknowledge : ∀ x0 x1, Statement (.flitAcknowledge x0 x1) := fun _ _ => of_none rfl
theorem flitNegativeAck : ∀ x0 x1, Statement (.flitNegativeAck x0 x1) := fun _ _ => of_none rfl
theorem epochRetired : ∀ x0 x1, Statement (.epochRetired x0 x1) := fun _ _ => of_none rfl
theorem idleFlit : ∀ x0, Statement (.idleFlit x0) := fun _ => of_none rfl
theorem keyRollover : ∀ x0, Statement (.keyRollover x0) := fun _ => of_none rfl
theorem wctlResume : ∀ x0, Statement (.wctlResume x0) := fun _ => of_none rfl
theorem wctlSignal : ∀ x0, Statement (.wctlSignal x0) := fun _ => of_none rfl
theorem wctlAbort : ∀ x0, Statement (.wctlAbort x0) := fun _ => of_none rfl
theorem powerWindow : ∀ x0 x1 x2 x3, Statement (.powerWindow x0 x1 x2 x3) := fun _ _ _ _ => of_none rfl
theorem droopDetect : ∀ x0, Statement (.droopDetect x0) := fun _ => of_none rfl
theorem correctedError : ∀ x0 x1, Statement (.correctedError x0 x1) := fun _ _ => of_none rfl
theorem scrubRead : ∀ x0 x1, Statement (.scrubRead x0 x1) := fun _ _ => of_none rfl
theorem vaultFailure : ∀ x0 x1, Statement (.vaultFailure x0 x1) := fun _ _ => of_none rfl
theorem finish : ∀ x0, Statement (.finish x0) := fun _ => of_none rfl
theorem keyUpdate : ∀ x0, Statement (.keyUpdate x0) := fun _ => of_none rfl
theorem heartbeat : ∀ x0, Statement (.heartbeat x0) := fun _ => of_none rfl
theorem endSession : ∀ x0, Statement (.endSession x0) := fun _ => of_none rfl
theorem provisionRegionKey : ∀ x0 x1, Statement (.provisionRegionKey x0 x1) := fun _ _ => of_none rfl
theorem editModuleKeyList : ∀ x0 x1 x2, Statement (.editModuleKeyList x0 x1 x2) := fun _ _ _ => of_none rfl
theorem editCheckpointKeyList : ∀ x0 x1 x2, Statement (.editCheckpointKeyList x0 x1 x2) := fun _ _ _ => of_none rfl
theorem rekey : ∀ x0 x1, Statement (.rekey x0 x1) := fun _ _ => of_none rfl
theorem ideKm : ∀ x0 x1, Statement (.ideKm x0 x1) := fun _ _ => of_none rfl
theorem hostWrite : ∀ x0 x1, Statement (.hostWrite x0 x1) := fun _ _ => of_none rfl
theorem hostRead : ∀ x0 x1, Statement (.hostRead x0 x1) := fun _ _ => of_none rfl
theorem loadRequest : ∀ x0, Statement (.loadRequest x0) := fun _ => of_none rfl
theorem plimWrite : ∀ x0, Statement (.plimWrite x0) := fun _ => of_none rfl
theorem fgcWrite : ∀ x0 x1 x2, Statement (.fgcWrite x0 x1 x2) := fun _ _ _ => of_none rfl
theorem rdwcWrite : ∀ x0 x1, Statement (.rdwcWrite x0 x1) := fun _ _ => of_none rfl
theorem nrlostRead : ∀ x0, Statement (.nrlostRead x0) := fun _ => of_none rfl
theorem tflostRead : ∀ x0, Statement (.tflostRead x0) := fun _ => of_none rfl
theorem tmisscntRead : ∀ x0, Statement (.tmisscntRead x0) := fun _ => of_none rfl
theorem retrcntRead : ∀ x0, Statement (.retrcntRead x0) := fun _ => of_none rfl
theorem sysregWrite : ∀ x0 x1 x2, Statement (.sysregWrite x0 x1 x2) := fun _ _ _ => of_none rfl
theorem exit : Statement .exit := of_raw 0x00A rfl rfl (by decide)
theorem unreach : Statement .unreach := of_raw 0x00B rfl rfl (by decide)
theorem yield : Statement .yield := of_raw 0x015 rfl rfl (by decide)
theorem drain : Statement .drain := of_raw 0x1C1 rfl rfl (by decide)
theorem opfence : Statement .opfence := of_raw 0x1CB rfl rfl (by decide)
theorem mzero : Statement .mzero := of_raw 0x240 rfl rfl (by decide)
theorem taskid : Statement .taskid := of_raw 0x2C3 rfl rfl (by decide)
theorem dmerge : Statement .dmerge := of_raw 0x2E0 rfl rfl (by decide)
theorem dmode : Statement .dmode := of_raw 0x2E2 rfl rfl (by decide)
theorem contret : Statement .contret := of_raw 0x2F6 rfl rfl (by decide)
theorem halt : Statement .halt := of_raw 0x2FC rfl rfl (by decide)
theorem nop : Statement .nop := of_none rfl
theorem land : Statement .land := of_none rfl
theorem cutRequest : Statement .cutRequest := of_none rfl
theorem cutRelease : Statement .cutRelease := of_none rfl
theorem cutTimeout : Statement .cutTimeout := of_none rfl
theorem ckptCapture : Statement .ckptCapture := of_none rfl
theorem ckptRestore : Statement .ckptRestore := of_none rfl
theorem packageReset : Statement .packageReset := of_none rfl
theorem firmwareUpdate : Statement .firmwareUpdate := of_none rfl
theorem getVersion : Statement .getVersion := of_none rfl
theorem getCapabilities : Statement .getCapabilities := of_none rfl
theorem negotiateAlgorithms : Statement .negotiateAlgorithms := of_none rfl
theorem getDigests : Statement .getDigests := of_none rfl
theorem getCertificate : Statement .getCertificate := of_none rfl
theorem challenge : Statement .challenge := of_none rfl
theorem getMeasurements : Statement .getMeasurements := of_none rfl
theorem keyExchange : Statement .keyExchange := of_none rfl
theorem unloadRequest : Statement .unloadRequest := of_none rfl
theorem loaderServe : Statement .loaderServe := of_none rfl
theorem lazyResolve : Statement .lazyResolve := of_none rfl
theorem taskPortCreate : Statement .taskPortCreate := of_none rfl
theorem taskPortCreateArm : Statement .taskPortCreateArm := of_none rfl
theorem haltResume : Statement .haltResume := of_none rfl
theorem emptyBundle : Statement .emptyBundle := of_none rfl
theorem powerLoss : Statement .powerLoss := of_none rfl

end Sys2Proof.Laws.Row
end

