-- ==== Sys2Proof/Tests/Slice0.lean ====
section
/-! SUPPORT. Tests: ill-formed instructions are refused, words of the encoding tables decode to what they stand for, single steps of small
states against the manual's worked examples, and states that meet the hypotheses of the statements. -/
set_option Elab.async false
namespace Sys2Proof.Tests
open Sys2Proof.Machine Sys2Proof.Safety

def n32 : Ty := .num .s1 .n32
def n64 : Ty := .num .s1 .n64
def i32 : Ty := .num .s1 .i32
def i64 : Ty := .num .s1 .i64
def f32 : Ty := .num .s1 .f32
def f16 : Ty := .num .s1 .f16
def e4m3 : Ty := .num .s1 .e4m3
def v2f16 : Ty := .num .s2 .f16
def v2n64 : Ty := .num .s2 .n64
def fm : FMod := { rnd := .rup, sat := true, ftzi := false, ftzo := false }
def fz : FMod := { rnd := .rne, sat := true, ftzi := false, ftzo := true }
def mm (o : Sys2Proof.Ord) (scope : BitVec 3) (e : Evict) (sp : Space) (r : Bool) : MMod :=
  { ord := o, scope := scope, evict := e, space := sp, reassoc := r }

/-- The words decode to the instruction, the instruction is well formed, and its words are these. -/
def readsAs (p : List Nat × Instr) : Bool :=
  let ws := p.1.map (BitVec.ofNat 32)
  (match decode false (fun _ => 1) ws with | .ok (i, r) => i == p.2 && r.isEmpty | .error _ => false) && p.2.portableWf && encode p.2 == ws

/-! ## Ill-formed instructions -/

/-- What the loader's check of R71 answers for words. -/
def rejects (user : Bool) (ws : List Nat) (why : Reject) : Bool :=
  match decode user (fun _ => 1) (ws.map (BitVec.ofNat 32)) with
  | .ok _ => false
  | .error e => e == why
theorem test_rejects : [
    rejects false [0] .opcodeZero, rejects false [0x0FDF0000] .opcodeReserved, rejects false [0xF05F0000] .opcodeNative,
    rejects false [0x101E2000, 1, 2] .typeReserved, rejects false [0x100B2000, 1, 2] .typeNotAllowed,
    rejects false [0x10071000, 1] .operandCount, rejects false [0x10072000, 1, 0x80000001, 0] .operandKind,
    rejects false [0x10052000, 1, 0x400000C8 + 0x100] .immediateRange, rejects false [0x17C7200A, 1, 2] .modCode,
    rejects false [0x10072001, 1, 2] .modUnused, rejects true [0xBF1F0000] .systemOnly, rejects false [0x10072000, 1] .overrun].all id = true := by
  decide
/-- Each check of well-formedness refuses a term that breaks it: an operand out of its form, a literal above its size, an immediate out of
range, a modifier with an unlisted code, a barrier scope that its space does not allow. -/
theorem test_wf_portable : [
    Instr.add f32 (.val 1) (.val 2), .add n32 (.val 1) (.lit .l32 (2 ^ 40)), .add (.num .s1 .n8) (.val 1) (.imm 300),
    .lswap n32 (.val 1) 40, .barsync 3 .spad (.val 1), .sptopk n32 (.val 1) (.val 2) (.val 3) (.val 4), .rjenrol 8,
    .mma .bf16 .e4m3 true false (.val 1) (.val 2) (.val 3) (.imm 32), .sysrd 4, .exit].map Instr.wf
    = [false, false, false, false, false, false, false, false, false, true] := by decide
/-- The checks of native-only operations (R96-R101). -/
theorem test_wf_native : [
    Instr.mov 1022 1 false none, .mov 900 1 false none, .mov 5 1023 false none, .mov 5 1 false (some 7), .mov 5 1 true none,
    .mov 5 770 true none, .spill 900 0 false, .fill 900 0 false 3, .fmtset 871 0, .fmtset 872 0, .kmov 855 856, .kmov 856 857,
    .qmov 5 6, .qmov 832 6].map Instr.wf
    = [false, false, false, false, false, true, false, false, false, true, false, true, false, true] := by decide
/-- The numbers that events carry. -/
theorem test_wf_events : [
    Instr.quernAccept 8 0 0 0, .starvationPrimary 0 80, .powerWindow 8 0 0 0, .workgroupAdmit 8, .translationComplete 8 0, .vaultPartApply 0 32 0,
    .vaultTempSample 0 [1], .clusterGate 0 20, .vaultFailure 0 32, .pageWalk 0 64 0 false, .fabricInboundAccess 8 0 false 0 0, .fabricRead 16,
    .noticeRingDrain 64, .fgcWrite 0 16 0, .rdwcWrite 8 0, .regionEnable 16 0, .sysregWrite 73 0 0, .provisionRegionKey 0 63, .fabricRead 15].map Instr.wf
    = [false, false, false, false, false, false, false, false, false, false, false, false, false, false, false, false, false, false, true] := by decide

/-! ## Words of the encoding tables (heads as the chapters print them, operand words after R58) -/

theorem test_decode_int_1 : ([
  ([0x10072000, 0x1, 0x2], .add n32 (.val 1) (.val 2)), ([0x10472000, 0x1, 0x2], .sub n32 (.val 1) (.val 2)),
  ([0x10872000, 0x1, 0x2], .mul n32 (.val 1) (.val 2)), ([0x10C72000, 0x1, 0x2], .mulhi n32 (.val 1) (.val 2)),
  ([0x11472000, 0x1, 0x2], .div n32 (.val 1) (.val 2)), ([0x11872000, 0x1, 0x2], .rem n32 (.val 1) (.val 2)),
  ([0x12472000, 0x1, 0x2], .min n32 (.val 1) (.val 2)), ([0x12872000, 0x1, 0x2], .max n32 (.val 1) (.val 2)),
  ([0x12C72000, 0x1, 0x2], .addsat n32 (.val 1) (.val 2)), ([0x13072000, 0x1, 0x2], .subsat n32 (.val 1) (.val 2)),
  ([0x13C72000, 0x1, 0x2], .and n32 (.val 1) (.val 2)), ([0x14072000, 0x1, 0x2], .or n32 (.val 1) (.val 2)),
  ([0x14472000, 0x1, 0x2], .xor n32 (.val 1) (.val 2)), ([0x14C72000, 0x1, 0x2], .andn n32 (.val 1) (.val 2)),
  ([0x15072000, 0x1, 0x2], .shl n32 (.val 1) (.val 2)), ([0x15472000, 0x1, 0x2], .shr n32 (.val 1) (.val 2)),
  ([0x15872000, 0x1, 0x2], .sra n32 (.val 1) (.val 2)), ([0x15C72000, 0x1, 0x2], .rotl n32 (.val 1) (.val 2)),
  ([0x16072000, 0x1, 0x2], .rotr n32 (.val 1) (.val 2)), ([0x11C71000, 0x3], .neg n32 (.val 3)), ([0x14871000, 0x3], .not n32 (.val 3))] : List (List Nat × Instr)).all readsAs = true := by decide +kernel

theorem test_decode_int_2 : ([
  ([0x16471000, 0x3], .clz n32 (.val 3)), ([0x16871000, 0x3], .ctz n32 (.val 3)), ([0x16C71000, 0x3], .popc n32 (.val 3)),
  ([0x17071000, 0x3], .brev n32 (.val 3)), ([0x19C71000, 0x3], .bswap n32 (.val 3)), ([0x12031000, 0x3], .abs i32 (.val 3)),
  ([0x11073000, 0x1, 0x2, 0x3], .mad n32 (.val 1) (.val 2) (.val 3)),
  ([0x13473000, 0x1, 0x2, 0x40000000], .addc n32 (.val 1) (.val 2) (.imm 0)),
  ([0x13873000, 0x1, 0x2, 0x40000001], .subb n32 (.val 1) (.val 2) (.imm 1)),
  ([0x17473000, 0x1, 0x40000004, 0x2], .bfx n32 (.val 1) (.imm 4) (.val 2)),
  ([0x17874000, 0x1, 0x2, 0x40000004, 0x3], .bfi n32 (.val 1) (.val 2) (.imm 4) (.val 3)),
  ([0x17C72009, 0x1, 0x2], .cmp n32 .geu (.val 1) (.val 2)), ([0x18073000, 0x1, 0x2, 0x3], .sel n32 (.val 1) (.val 2) (.val 3)),
  ([0x18481000, 0x1], .zext n64 (.val 1)), ([0x18881000, 0x1], .sext n64 (.val 1)), ([0x18C71000, 0x1], .trunc n32 (.val 1)),
  ([0x19093003, 0x1, 0x2, 0x40000010], .lea 3 (.val 1) (.val 2) (.imm 16)), ([0x19471000, 0x40000009], .const n32 (.imm 9)),
  ([0x19871000, 0x4000000E], .sreg n32 14)] : List (List Nat × Instr)).all readsAs = true := by decide +kernel

theorem test_decode_control : ([
  ([0x005F1000, 0x80000002, 0x3], .br { blk := 2, args := [.val 3] }),
  ([0x009F3000, 0x1, 0x80000002, 0x3, 0x80000002, 0x40000004], .brc (.val 1) { blk := 2, args := [.val 3] } { blk := 2, args := [.imm 4] }),
  ([0x00C73000, 0x1, 0x80000002, 0x3, 0x80000002, 0x4], .brsw n32 (.val 1) { blk := 2, args := [.val 3] } [{ blk := 2, args := [.val 4] }]),
  ([0x011F2000, 0x40000005, 0x1], .call 5 [.val 1]), ([0x015F3000, 0x40000002, 0x1, 0x3], .callx 2 (.val 1) [.val 3]),
  ([0x019F2000, 0x40000006, 0x1], .calll 6 [.val 1]), ([0x01DF2000, 0x40000005, 0x1], .tcall 5 [.val 1]),
  ([0x021F3000, 0x40000002, 0x1, 0x3], .tcallx 2 (.val 1) [.val 3]), ([0x025F2000, 0x1, 0x2], .ret [.val 1, .val 2]), ([0x029F0000], .exit),
  ([0x02DF0000], .unreach), ([0x031F1000, 0x40000003], .rjenrol 3), ([0x035F1000, 0x40000003], .rjwait 3),
  ([0x039F1000, 0x40000003], .rjstrike 3), ([0x03C71000, 0x40000003], .rjmask 3), ([0x041F1000, 0x40000003], .lpbeg 3),
  ([0x045F1000, 0x40000003], .lpend 3), ([0x04871000, 0x40000002], .lpidx n32 2), ([0x04C91000, 0x40000002], .fnaddr 2),
  ([0x05091000, 0x40000002], .lnkaddr 2), ([0x055F0000], .yield)] : List (List Nat × Instr)).all readsAs = true := by decide +kernel

theorem test_decode_float_1 : ([
  ([0x300B200A, 0x1, 0x2], .fadd f32 fm (.val 1) (.val 2)), ([0x304B200A, 0x1, 0x2], .fsub f32 fm (.val 1) (.val 2)),
  ([0x308B200A, 0x1, 0x2], .fmul f32 fm (.val 1) (.val 2)), ([0x310B200A, 0x1, 0x2], .fdiv f32 fm (.val 1) (.val 2)),
  ([0x30CB300A, 0x1, 0x2, 0x3], .fma f32 fm (.val 1) (.val 2) (.val 3)), ([0x314B100A, 0x1], .fsqrt f32 fm (.val 1)),
  ([0x31CB100A, 0x1], .frcp f32 fm (.val 1)), ([0x318B1028, 0x1], .frsqrt f32 fz (.val 1)), ([0x344B1028, 0x1], .fexp2 f32 fz (.val 1)),
  ([0x348B1028, 0x1], .flog2 f32 fz (.val 1)), ([0x34CB1028, 0x1], .fsin f32 fz (.val 1)), ([0x350B1028, 0x1], .fcos f32 fz (.val 1)),
  ([0x354B1028, 0x1], .fsincos f32 fz (.val 1)), ([0x358B1028, 0x1], .ftanh f32 fz (.val 1)), ([0x35CB1028, 0x1], .fsigm f32 fz (.val 1)),
  ([0x320B2010, 0x1, 0x2], .fmin f32 true (.val 1) (.val 2)), ([0x324B2010, 0x1, 0x2], .fmax f32 true (.val 1) (.val 2)),
  ([0x328E1000, 0x1], .fabs e4m3 (.val 1)), ([0x32CE1000, 0x1], .fneg e4m3 (.val 1)),
  ([0x330E2000, 0x1, 0x2], .fcpsgn e4m3 (.val 1) (.val 2)), ([0x334B2090, 0x1, 0x2], .fcmp f32 true .lt (.val 1) (.val 2))] : List (List Nat × Instr)).all readsAs = true := by decide +kernel

theorem test_decode_float_2 : ([
  ([0x338B1010, 0x1], .fclass f32 true (.val 1)), ([0x33CB1011, 0x1], .frint f32 .rtz true (.val 1)),
  ([0x340B200A, 0x1, 0x2], .fscale f32 fm (.val 1) (.val 2)), ([0x360C100A, 0x1], .fcvt f16 fm (.val 1)),
  ([0x36471011, 0x1], .ftoi n32 .rtz true (.val 1)), ([0x368B1009, 0x1], .itof f32 .rtz true (.val 1)),
  ([0x36EC200A, 0x1, 0x2], .fpack2 v2f16 fm (.val 1) (.val 2)), ([0x370B1010, 0x1], .funpack2 true (.val 1)),
  ([0x37511011, 0x1], .mxq .mxi8 .rtz true (.val 1)), ([0x378B2029, 0x1, 0x2], .mxdq f32 .rtz true true (.val 1) (.val 2)),
  ([0x37C71000, 0x4000001F], .fsflag (.imm 31))] : List (List Nat × Instr)).all readsAs = true := by decide +kernel

theorem test_decode_lanes : ([
  ([0x50072000, 0x1, 0x40000005], .lswap n32 (.val 1) 5), ([0x50472000, 0x1, 0x2], .lshfl n32 (.val 1) (.val 2)),
  ([0x50872000, 0x1, 0x40000003], .lbcast n32 (.val 1) (.imm 3)), ([0x50C72000, 0x1, 0x4000001F], .lrot n32 (.val 1) (.imm 31)),
  ([0x51071000, 0x1], .lvote (.val 1)), ([0x51401000, 0x1], .lany (.val 1)), ([0x51801000, 0x1], .lall (.val 1)),
  ([0x51C71000, 0x1], .lred n32 .add (.val 1)), ([0x52071010, 0x1], .lscan n32 .add true (.val 1)), ([0x52471000, 0x1], .lfirst (.val 1)),
  ([0x52871000, 0x1], .lmatch (.val 1)), ([0x52C72000, 0x1, 0x2], .rng n32 (.val 1) (.val 2)),
  ([0x530B2000, 0x1, 0x2], .spmax f32 (.val 1) (.val 2)), ([0x540B2000, 0x1, 0x2], .spargmax f32 (.val 1) (.val 2)),
  ([0x544B2000, 0x1, 0x2], .spsum f32 (.val 1) (.val 2)),
  ([0x534B4001, 0x1, 0x2, 0x3, 0x4], .spsoftmax f32 .obf16 (.val 1) (.val 2) (.val 3) (.val 4)),
  ([0x538B4000, 0x1, 0x2, 0x3, 0x4], .sptopk f32 (.val 1) (.val 2) (.val 3) (.val 4)),
  ([0x53CB4000, 0x1, 0x2, 0x3, 0x4], .spsample f32 (.val 1) (.val 2) (.val 3) (.val 4))] : List (List Nat × Instr)).all readsAs = true := by decide +kernel

theorem test_decode_memory : ([
  ([0x600B1051, 0x1], .ld f32 (mm .acquire 4 .sticky .global false) (.val 1)),
  ([0x604421BE, 0x1, 0x2], .st i64 (mm .release 7 .lastuse .spad false) (.val 1) (.val 2)),
  ([0x60871600, 0x1], .ldv n32 (mm .relaxed 0 .dflt .mconst false) (.val 1)),
  ([0x60C7243B, 0x1, 0x2], .stv n32 (mm .seqCst 6 .stream .regb false) (.val 1) (.val 2)),
  ([0x611F3320, 0x1, 0x2, 0x40000080], .ldblk (mm .relaxed 0 .stream .ca false) (.val 1) (.val 2) (.imm 128)),
  ([0x615F3016, 0x1, 0x2, 0x3], .stblk (mm .release 5 .dflt .global false) (.val 1) (.val 2) (.val 3)),
  ([0x619F1060, 0x1], .prefetch (mm .relaxed 0 .bypass .global false) (.val 1)), ([0x61DF1200, 0x1], .wbline (.val 1)),
  ([0x621F1300, 0x1], .invline .ca (.val 1)), ([0x625F118E, 0x1], .zline (mm .release 3 .unstick .spad false) (.val 1)),
  ([0x62872000, 0x1, 0x2], .spq (.val 1) (.val 2)), ([0x62C91000, 0x1], .pvbase (.val 1))] : List (List Nat × Instr)).all readsAs = true := by decide +kernel

theorem test_decode_ordering : ([
  ([0x701F001B], .fence .seqCst 6), ([0x705F0000], .drain), ([0x72DF0000], .opfence),
  ([0x709F2108, 0x1, 0x2], .barinit 2 .spad (.val 1) (.val 2)), ([0x70C72108, 0x1, 0x2], .bararr 2 .spad (.val 1) (.val 2)),
  ([0x711F2108, 0x1, 0x2], .barwait 2 .spad (.val 1) (.val 2)), ([0x719F2108, 0x1, 0x2], .barexp 2 .spad (.val 1) (.val 2)),
  ([0x71C02014, 0x1, 0x2], .bartest 5 .global (.val 1) (.val 2)), ([0x715F1108, 0x1], .barsync 2 .spad (.val 1)),
  ([0x72083015, 0x1, 0x2, 0x40000004], .waitval n64 (mm .acquire 5 .dflt .global false) (.val 1) (.val 2) 4),
  ([0x725F1000, 0x40000064], .sleep (.imm 100)), ([0x729F1000, 0x1], .wake (.val 1))] : List (List Nat × Instr)).all readsAs = true := by decide +kernel

theorem test_decode_atomics : ([
  ([0x80072017, 0x1, 0x2], .atomadd n32 (mm .seqCst 5 .dflt .global false) (.val 1) (.val 2)),
  ([0x80872017, 0x1, 0x2], .atomand n32 (mm .seqCst 5 .dflt .global false) (.val 1) (.val 2)),
  ([0x80C72017, 0x1, 0x2], .atomor n32 (mm .seqCst 5 .dflt .global false) (.val 1) (.val 2)),
  ([0x81072017, 0x1, 0x2], .atomxor n32 (mm .seqCst 5 .dflt .global false) (.val 1) (.val 2)),
  ([0x81472017, 0x1, 0x2], .atommin n32 (mm .seqCst 5 .dflt .global false) (.val 1) (.val 2)),
  ([0x81872017, 0x1, 0x2], .atommax n32 (mm .seqCst 5 .dflt .global false) (.val 1) (.val 2)),
  ([0x82472017, 0x1, 0x2], .atominc n32 (mm .seqCst 5 .dflt .global false) (.val 1) (.val 2)),
  ([0x82872017, 0x1, 0x2], .atomdec n32 (mm .seqCst 5 .dflt .global false) (.val 1) (.val 2)),
  ([0x82C72017, 0x1, 0x2], .atomxchg n32 (mm .seqCst 5 .dflt .global false) (.val 1) (.val 2)),
  ([0x804B2914, 0x1, 0x2], .atomfadd f32 (mm .relaxed 5 .dflt .spad true) (.val 1) (.val 2)),
  ([0x81CB2114, 0x1, 0x2], .atomfmin f32 (mm .relaxed 5 .dflt .spad false) (.val 1) (.val 2)),
  ([0x820B2114, 0x1, 0x2], .atomfmax f32 (mm .relaxed 5 .dflt .spad false) (.val 1) (.val 2)),
  ([0x83073015, 0x1, 0x2, 0x3], .atomcas n32 (mm .acquire 5 .dflt .global false) (.val 1) (.val 2) (.val 3)),
  ([0x83683015, 0x1, 0x2, 0x3], .atomcas2 v2n64 (mm .acquire 5 .dflt .global false) (.val 1) (.val 2) (.val 3)),
  ([0x83873018, 0x40000000, 0x1, 0x2], .red n32 (mm .relaxed 6 .dflt .global false) 0 (.val 1) (.val 2)),
  ([0x83CB3018, 0x40000000, 0x1, 0x2], .redf f32 (mm .relaxed 6 .dflt .global false) 0 (.val 1) (.val 2))] : List (List Nat × Instr)).all readsAs = true := by decide +kernel

theorem test_decode_matrix : ([
  ([0x90140000], .mzero), ([0x905443FE, 0x1, 0x2, 0x3, 0x40000020], .mma .e4m3 .e5m2 true true (.val 1) (.val 2) (.val 3) (.imm 32)),
  ([0x90944021, 0x1, 0x2, 0x3, 0x40000020], .mmamx .mxi8 .mxi6 (.val 1) (.val 2) (.val 3) (.imm 32)),
  ([0x90D43015, 0x1, 0x2, 0x40000001], .mld (mm .acquire 5 .dflt .global false) (.val 1) (.val 2) 1),
  ([0x91145116, 0x1, 0x2, 0x3, 0x40000008, 0x4], .mst (mm .release 5 .dflt .spad false) (.val 1) (.val 2) (.val 3) 8 (.val 4)),
  ([0x915F1000, 0x1], .mwait (.val 1)), ([0x91D41000, 0x1], .mtrans (.val 1)), ([0x92071000, 0x40000001], .mquery 1),
  ([0x91A86000, 0x1, 0x2, 0x3, 0x40000001, 0x4, 0x5], .mdesc (.val 1) (.val 2) (.val 3) (.imm 1) (.val 4) (.val 5))] : List (List Nat × Instr)).all readsAs = true := by decide +kernel

theorem test_decode_engines : ([
  ([0xA0075000, 0x1, 0x2, 0x3, 0x4, 0x5], .engbind (.val 1) (.val 2) (.val 3) (.val 4) (.val 5)), ([0xA05F1000, 0x1], .engunbind (.val 1)),
  ([0xA0872000, 0x1, 0x2], .cmpwait (.val 1) (.val 2)), ([0xA0C72000, 0x1, 0x40000001], .cmpnext (.val 1) (.imm 1)),
  ([0xA1072000, 0x1, 0x40000002], .engstat (.val 1) 2)] : List (List Nat × Instr)).all readsAs = true := by decide +kernel

theorem test_decode_content : ([
  ([0xA8152001, 0x1, 0x2], .caput true (.val 1) (.val 2)), ([0xA8492000, 0x1, 0x2], .caget (.val 1) (.val 2)),
  ([0xA89F3000, 0x1, 0x2, 0x40000001], .caref (.val 1) (.val 2) (.imm 1)), ([0xA8DF3000, 0x1, 0x2, 0x3], .cadrop (.val 1) (.val 2) (.val 3)),
  ([0xA9154000, 0x1, 0x2, 0x3, 0x4], .caswap (.val 1) (.val 2) (.val 3) (.val 4)),
  ([0xA9553000, 0x1, 0x2, 0x3], .cawalk (.val 1) (.val 2) (.val 3)), ([0xA9873000, 0x1, 0x2, 0x40000001], .castat (.val 1) (.val 2) 1),
  ([0xA9D59000, 0x1, 0x2, 0x3, 0x4, 0x5, 0x6, 0x7, 0x8, 0x9], .canode (.val 1) (.val 2) (.val 3) (.val 4) (.val 5) (.val 6) (.val 7) (.val 8) (.val 9))] : List (List Nat × Instr)).all readsAs = true := by decide +kernel

theorem test_decode_tasks : ([
  ([0xB0081000, 0x1], .tasknew (.val 1)), ([0xB05F2000, 0x1, 0x2], .taskdep (.val 1) (.val 2)),
  ([0xB09F2000, 0x1, 0x40000002], .taskarm (.val 1) (.imm 2)), ([0xB0C80000], .taskid), ([0xB1071000, 0x40000002], .gangid 2),
  ([0xB1471001, 0x1], .prio true (.val 1)), ([0xB19F1000, 0x1], .estim (.val 1)), ([0xB81F0000], .dmerge),
  ([0xB8471000, 0x40000001], .dcount 1), ([0xB8870000], .dmode), ([0xB8C73001, 0x1, 0x2, 0x3], .dseq true (.val 1) (.val 2) (.val 3))] : List (List Nat × Instr)).all readsAs = true := by decide +kernel

theorem test_decode_system : ([
  ([0xBC1F1000, 0x1], .trap (.val 1)), ([0xBC5F1000, 0x40000007], .brk 7), ([0xBC9F2000, 0x1, 0x40000003], .assert (.val 1) (.imm 3)),
  ([0xBCC81000, 0x40000010], .sysrd 16), ([0xBD1F2000, 0x40000010, 0x1], .syswr 16 (.val 1)),
  ([0xBD5F2000, 0x1, 0x2], .contset (.val 1) (.val 2)), ([0xBD9F0000], .contret), ([0xBDDF1000, 0x1], .contsig (.val 1)),
  ([0xBE072000, 0x40000000, 0x1], .ckpt 0 (.val 1)), ([0xBE5F2000, 0x40000000, 0x1], .tlbinv 0 (.val 1)),
  ([0xBE9F2000, 0x1, 0x2], .tcinv (.val 1) (.val 2)), ([0xBEDF1000, 0x1], .evtsig (.val 1)), ([0xBF1F0000], .halt)] : List (List Nat × Instr)).all readsAs = true := by decide +kernel
/-! ## Single steps: the placed instruction runs as the first one after reset, against the manual's worked examples -/

def wordsNat (ws : List Nat) : Nat := natOfWords (ws.map (BitVec.ofNat 32))
/-- The state after one step with these words placed. -/
def after (ws : List Nat) : State :=
  match step (State.reset.withFetchWord (32 * ws.length) (wordsNat ws)) with
  | .next t => t
  | _ => State.reset
/-- The result of the placed instruction in a lane, and the flags of its wave. -/
def resultIn (L : Nat) (ws : List Nat) : Nat := (((after ws).waveAt 0).lane L).val 0 |>.toNat
def flags (ws : List Nat) : Nat := ((after ws).waveAt 0).fpf.toNat
/-- The cause of the fault that the placed instruction takes. -/
def causeOf (ws : List Nat) : Option Nat := ((after ws).waveAt 0).frec.map FaultRec.cause

/-- add, and the table of R163: div.i32 and rem.i32 of (7, −2), (−7, 2), (5, 0), (MIN, −1), and div.n32 by 0. -/
theorem test_step_div : [
    resultIn 0 [0x10072000, 0x40000005, 0x40000007], resultIn 0 [0x11432000, 0x40000007, 0x7FFFFFFE], resultIn 0 [0x11832000, 0x40000007, 0x7FFFFFFE],
    resultIn 0 [0x11432000, 0x7FFFFFF9, 0x40000002], resultIn 0 [0x11832000, 0x7FFFFFF9, 0x40000002], resultIn 0 [0x11432000, 0x40000005, 0x40000000],
    resultIn 0 [0x11832000, 0x40000005, 0x40000000], resultIn 0 [0x11432000, 0xC0000000, 0x80000000, 0x7FFFFFFF],
    resultIn 0 [0x11832000, 0xC0000000, 0x80000000, 0x7FFFFFFF], resultIn 0 [0x11472000, 0xC0000000, 0xFFFFFFFF, 0x40000000]]
    = [12, 0xFFFFFFFD, 1, 0xFFFFFFFD, 0xFFFFFFFF, 0xFFFFFFFF, 5, 0x80000000, 0, 0xFFFFFFFF] := by decide +kernel
/-- R166 to R168: shifts by the width, counts of 0, an empty and a signed bit field. -/
theorem test_step_bits : [
    resultIn 0 [0x15072000, 0x40000001, 0x40000020], resultIn 0 [0x15832000, 0x7FFFFFFF, 0x40000028], resultIn 0 [0x16471000, 0x40000000],
    resultIn 0 [0x17433000, 0x40000080, 0x40000004, 0x40000004], resultIn 0 [0x17433000, 0x40000080, 0x40000004, 0x40000000],
    resultIn 0 [0x17874000, 0x40000000, 0x4000000F, 0x4000001E, 0x40000004]]
    = [0, 0xFFFFFFFF, 32, 0xFFFFFFF8, 0, 0xC0000000] := by decide +kernel
/-- R172, R173, R174: lea scales and sign-extends, a wide constant, and the lane's number. -/
theorem test_step_address : [
    resultIn 0 [0x194A1000, 0xD0000000, 0, 0x3FF00000], resultIn 5 [0x19871000, 0x40000000], resultIn 0 [0x19871000, 0x4000000E]]
    = [0x3FF0000000000000, 5, 0xFFFFFFFF] := by decide +kernel
/-- R193, R187: 1 + 2 = 3 exactly; 1 / 0 is infinity with DZ; 1 / 3 rounds to nearest with NX; infinity − infinity is the NaN of R179 with NV. -/
theorem test_step_float : [
    resultIn 0 [0x300B2000, 0xC0000000, 0x3F800000, 0xC0000000, 0x40000000], resultIn 0 [0x310B2000, 0xC0000000, 0x3F800000, 0xC0000000, 0],
    flags [0x310B2000, 0xC0000000, 0x3F800000, 0xC0000000, 0], resultIn 0 [0x310B2000, 0xC0000000, 0x3F800000, 0xC0000000, 0x40400000],
    flags [0x310B2000, 0xC0000000, 0x3F800000, 0xC0000000, 0x40400000], resultIn 0 [0x304B2000, 0xC0000000, 0x7F800000, 0xC0000000, 0x7F800000],
    flags [0x304B2000, 0xC0000000, 0x7F800000, 0xC0000000, 0x7F800000]]
    = [0x40400000, 0x7F800000, 2, 0x3EAAAAAB, 16, 0x7FC00000, 1] := by decide +kernel
/-- R222: the words of seed 0, stream 0, thread 0, call 0 (07_lanes_spans.md). -/
theorem test_step_rng : resultIn 0 [0x52F72000, 0x40000000, 0x40000000] = 0x9B00DBD8BC57AC4CE169C58D6627E8D5 := by decide +kernel
/-- R440, R145: trap and unreach take their faults, and the wave stops; R141: a bad descriptor is 0x21. -/
theorem test_step_faults : [causeOf [0xBC1F1000, 0x40000009], causeOf [0x02DF0000]] = [some 0x60, some 0x62] := by decide +kernel

/-- R32: MXINT6 against MXINT4 takes 6 slices and two multiply-accumulates a cycle; the formats of the table against themselves. -/
theorem test_cell_slices : (Machine.cellSlices .mxi6 .mxi4, Machine.cellMacs .mxi6 .mxi4) = (6, 2) ∧
    [Ty.num .s1 .bf16, .mxi8, .mxi6, .mxi4, .num .s1 .e4m3, .num .s1 .e5m2].map (fun t => Machine.cellSlices t t) = [16, 16, 9, 4, 4, 4] := by decide +kernel

/-! ## States that meet the hypotheses of the statements -/

/-- A claim about every lane that issues, from one about the 32 lanes. -/
theorem on_of {s : State} {P : Nat → Prop} (h : ∀ L, L < 32 → inMask s.issue.mask L = true → P L) : ∀ L, On s L → P L :=
  fun L h' => h L h'.1 h'.2
theorem issuing_of {s : State} (h : s.issue.wave < s.waves.length)
    (g : ∀ L, L < 32 → inMask s.issue.mask L = true → (s.wv.lane L).frames ≠ []) : Issuing s := ⟨h, on_of g⟩

def entry64 (s : State) (key v : Nat) : State := { s with mem := writeBytes s.mem key (bytesOfNat 8 v) }
def leaf (home dpa flags : Nat) : Nat := flags + home * 2 ^ 13 + dpa / 256 * 2 ^ 24
/-- Pages of context 0 from virtual address 0x10000 on: page 1 readable and writable at home, page 2 on die 1, page 3 of class 01, and from 2^42 the
words of threads. -/
def mapped (s : State) : State :=
  let s := s.ctxSet 0 0x010 (dw (0x100000 / 256 * 2 ^ 24 + 1))
  let s := [(0x100000, 0x101000), (0x101000, 0x102000), (0x102000, 0x103000), (0x103000, 0x104000), (0x101040, 0x110000), (0x110000, 0x111000),
    (0x111000, 0x112000)].foldl (fun s e => entry64 s e.1 (e.2 / 256 * 2 ^ 24 + 1)) s
  [(0x104008, leaf 0 0x200000 0x1F), (0x104010, leaf 1 0x210000 0x1F), (0x104018, leaf 0 0x220000 0x37), (0x112000, leaf 0 0x280000 0x1F)].foldl
    (fun s e => entry64 s e.1 e.2) s
/-- The one wave of a machine that runs a task issues an instruction whose first result is value 8; value n of lane L is `f L n`. -/
def issues (mask : Mask) (f : Nat → Nat → Nat) : State :=
  let s := mapped (State.reset.withFetchWord 32 0)
  let p : Loc := { handle := 1, func := 0, block := 0, index := 0, off := 0, vnum := 8, bun := 0, bud := 8 }
  let here := { p with vnum := 0 }
  let s := { s with agenda := [], issue := { s.issue with wave := 0, mask := mask, loc := p, here := here,
                                                          next := { p with vnum := 9, index := 1, off := 12, bun := 1 }, gos := [], dsts := [], srcs := [],
                                                          yt := none, land := 0, entries := 0, stamped := false } }
  let s := s.updWave 0 fun w => { w with pbase := dw (2 ^ 42), lanes := w.lanes.mapIdx fun L l =>
    { l with pc := here, frames := l.frames.map fun fr => { fr with vals := (List.range 8).map fun n => (n, BitVec.ofNat 256 (f L n)) } } }
  (s.updWg 0 fun g => { g with spadB := 8192, spad := (List.range 64).map fun i => (i, BitVec.ofNat 8 (i + 1)) }).updTask s.wg.task
    fun t => { t with launch := { t.launch with pwords := 100 } }
/-- Values 0 to 2 are MIN, -1 and 0 of 32 bits, value 3 an address at home, value 4 one on die 1, value 5 one in scratchpad, value 6 a page that is not
mapped. -/
def w0 : State := issues 0x80000001 fun L n => [0x80000000, 0xFFFFFFFF, 0, 0x10000 + 8 * L, 0x20000 + 8 * L, 64 + 8 * L, 0x90000, 1].getD n 0
/-- The same for lane 0 alone, and in a task under merged determinism with room in the shadow pools. -/
def w1 : State := { w0 with issue := { w0.issue with mask := 1 } }
def w2 : State := ((List.range 8).foldl (fun s d => s.dieSet d 0x039 (dw 200000)) w0).updTask w0.wg.task fun t =>
  { t with launch := { t.launch with flags := 2 } }

def gm : MMod := mm .relaxed 0 .dflt .global false
def sm : MMod := mm .relaxed 0 .dflt .spad false
def pm : MMod := mm .relaxed 0 .dflt .priv false

theorem w0_issuing : Issuing w0 := issuing_of (by decide +kernel) (by decide +kernel)
theorem w1_issuing : Issuing w1 := issuing_of (by decide +kernel) (by decide +kernel)
theorem w2_issuing : Issuing w2 := issuing_of (by decide +kernel) (by decide +kernel)

/-! ### Registers -/

theorem meets_IntegerArithmetic : Issuing w0 := w0_issuing
/-- A zero divisor, and MIN by -1. -/
theorem meets_CarriesAndDivision : Issuing w0 ∧ w0.el i32 (.val 2) 0 0 = 0 ∧ Elem.signed (Ty.elem i32) = true ∧
    toI .i32 (w0.el i32 (.val 0) 0 0) = eMin .i32 ∧ toI .i32 (w0.el i32 (.val 1) 0 0) = -1 :=
  ⟨w0_issuing, by decide +kernel, by decide +kernel, by decide +kernel, by decide +kernel⟩
/-- A count above the width. -/
theorem meets_LogicAndShifts : Issuing w0 ∧ (Ty.elem i32).width ≤ w0.el i32 (.val 1) 0 0 := ⟨w0_issuing, by decide +kernel⟩
/-- A zero input, and an offset above the width. -/
theorem meets_BitCountsOrdersAndFields : Issuing w0 ∧ w0.el i32 (.val 2) 0 0 = 0 ∧ (Ty.elem i32).width < (w0.opnd tyN32 (.val 1) 0).toNat :=
  ⟨w0_issuing, by decide +kernel, by decide +kernel⟩
/-- A source as wide as the result; equal operands. -/
theorem meets_CompareSelectConvert : Issuing w0 ∧ (Ty.elem (w0.opndTy [] (.val 0))).width ≤ Ty.width n64 ∧ w0.el i32 (.val 0) 0 0 = w0.el i32 (.val 0) 0 0 :=
  ⟨w0_issuing, by decide +kernel, rfl⟩
theorem meets_AddressesAndConstants : Issuing w0 ∧ ∃ m, w0.moduleOf w0.issue.loc.handle = some m :=
  ⟨w0_issuing, Option.isSome_iff_exists.1 (by decide +kernel)⟩
/-- A subnormal, the greatest exponent with a fraction, infinity and a NaN, and E4M3's only NaN. -/
theorem meets_FormatCodes : isS .f32 ∧ isS .e4m3 ∧ ∀ c ∈ [1, 0x7F7FFFFF, 0x7F800000, 0x7F800001], c < 2 ^ Elem.width .f32 ∧ 0x7F < 2 ^ Elem.width .e4m3 :=
  ⟨.inl (.inr (.inl rfl)), .inr (.inl rfl), by decide +kernel⟩
theorem meets_Rounding : isS .bf16 ∧ (3 : Nat) ≠ 0 ∧ 2 ^ 32 - 1 < 2 ^ 32 := ⟨.inl (.inr (.inr (.inr rfl))), by decide, by decide⟩
theorem meets_FloatArithmeticAndRoots : Issuing w0 ∧ isF (Ty.elem f16) ∧ fz.rnd = .rne := ⟨w0_issuing, .inr (.inr (.inl rfl)), rfl⟩
theorem meets_FloatSelectionAndConversions : Issuing w0 ∧ isS (Ty.elem e4m3) ∧ isF (Ty.elem f32) := ⟨w0_issuing, .inr (.inl rfl), .inr (.inl rfl)⟩
theorem meets_Transcendentals : Issuing w0 ∧ Ty.elem f32 = .f32 := ⟨w0_issuing, rfl⟩
/-- A source in f32, and a result in bf16. -/
theorem meets_BlocksAndFlags : Issuing w0 ∧ Ty.elem (w0.opndTy mxSrcTys (.lit .l32 0)) = .f32 ∧ Ty.num .s1 .bf16 = .num .s1 .bf16 :=
  ⟨w0_issuing, by decide +kernel, rfl⟩

/-! ### Lanes and spans -/

/-- Lanes 0 and 31 issue; lane 0 is the lowest. -/
theorem meets_LaneExchangeAndVotes : Issuing w0 ∧ On w0 0 ∧ On w0 31 ∧ ∀ L, On w0 L → 0 ≤ L :=
  ⟨w0_issuing, ⟨by decide, by decide +kernel⟩, ⟨by decide, by decide +kernel⟩, fun _ _ => Nat.zero_le _⟩
/-- The tree and the accumulator of a sum, by recursion over lane 0 alone. -/
theorem meets_LaneReductionsAndRandomNumbers : Issuing w1 ∧ ∃ (T : Nat → Nat → Nat) (A : Nat → Nat),
    let f := fun x y => (LaneOp.apply .i32 x y .add).1
    (∀ i, On w1 i → T 0 i = w1.el i32 (.val 0) i 0) ∧ (∀ i, ¬On w1 i → T 0 i = LaneOp.ident .i32 .add) ∧
    (∀ k i, T (k + 1) i = f (T k (2 * i)) (T k (2 * i + 1))) ∧
    A 0 = LaneOp.ident .i32 .add ∧ (∀ L, On w1 L → A (L + 1) = f (A L) (w1.el i32 (.val 0) L 0)) ∧ ∀ L, ¬On w1 L → A (L + 1) = A L := by
  classical
  refine ⟨w1_issuing, fun k => Nat.rec (fun i => if On w1 i then w1.el i32 (.val 0) i 0 else LaneOp.ident .i32 .add)
    (fun _ T i => (LaneOp.apply .i32 (T (2 * i)) (T (2 * i + 1)) .add).1) k,
    fun L => Nat.rec (LaneOp.ident .i32 .add) (fun L a => if On w1 L then (LaneOp.apply .i32 a (w1.el i32 (.val 0) L 0) .add).1 else a) L,
    ?_, ?_, fun _ _ => rfl, rfl, ?_, ?_⟩ <;> intro i h <;> simp [h]
/-- A span of eight f32 elements in scratchpad, with its softmax apart from it, and its greatest two; one element more than the allocation holds. -/
theorem meets_Spans : Issuing w0 ∧ (∃ L, On w0 L) ∧ w0.wv.wg < w0.wgs.length ∧ w0.absentOf [(64, 32)] = [] ∧ 64 % 4 = 0 ∧ 64 + 8 * 4 ≤ w0.wg.spadB ∧
    w0.spanBusy = false ∧ 128 + 8 * 4 ≤ w0.wg.spadB ∧ 64 + 32 ≤ 128 ∧ w0.wg.spadB < 64 + 2033 * 4 :=
  ⟨w0_issuing, ⟨0, by decide, by decide +kernel⟩, by decide +kernel, by decide +kernel, by decide, by decide +kernel, by decide +kernel,
    by decide +kernel, by decide, by decide +kernel⟩
/-- The states in which a span instruction finishes: sptopk, and one with a landing that waits for it. -/
def spanEnding (k : SpanKind) (len : Nat) : Machine.State :=
  { w0 with spans := [{ die := 0, unit := 0, wave := w0.wv.token, kind := k, base := 64, ty := f32, n := 8, out := 128, outLen := len, clash := false
                        seen := [w0.wg.read 64 32, w0.wg.read 64 32] }] }.updWv fun v =>
    { v with landings := [{ due := 9, back := spanBack, entries := 1, data := [] }] }
theorem meets_Spans_completion :
    (∀ e ∈ [(SpanKind.topk 2, 16), (.max, 0)], (spanEnding e.1 e.2).spans.length = 1 ∧ ∀ o ∈ (spanEnding e.1 e.2).spans,
      o.wave = ((spanEnding e.1 e.2).waveAt w0.issue.wave).token ∧ o.seen.length = 2 ∧ o.outLen = e.2 ∧ o.clash = false) ∧
    ((spanEnding .max 0).waveAt w0.issue.wave).landings.map Landing.back = [spanBack] ∧ ∀ k, SpanKind.max ≠ .topk k := by
  refine ⟨?_, ?_, ?_⟩ <;> first | decide +kernel | (intro k h; cases h)

/-! ### Control and memory -/

/-- Block 0 as the target, and a selector out of range. -/
theorem meets_Branches : Issuing w0 ∧ ¬(toI .i32 (w0.el i32 (.val 0) 0 0) < 0 ∧ toI .i32 (w0.el i32 (.val 0) 0 0) = 0) ∧
    w0.issue.gos.getD 0 none = none := ⟨w0_issuing, by decide +kernel, by decide +kernel⟩
/-- A lane that runs a called function, whose linkage words name the bundle behind the call; and one in the entry function. -/
def wCalled : State := w0.updWave 0 fun w => { w with lanes := w.lanes.mapIdx fun _ l =>
  { l with frames := { l.frames.headD default with ret := some w0.issue.next } :: l.frames, fb := 200 } }
theorem meets_CallsReturnsAndExits : Issuing w0 ∧ (∃ L, On w0 L) ∧ w0.crosses w0.issue.loc.handle = false ∧
    (w0.freshImage w0.wv.die (w0.transKey w0.wv w0.issue.loc.handle 0)).isSome = true ∧
    (∀ L, On w0 L → w0.callOver w0.wv (w0.wv.lane L) w0.issue.loc.handle 0 false = false ∧ (w0.linkPlaces L).toOption.isSome = true) ∧
    (∀ L, On w0 L → (w0.wv.lane L).inCont = false ∧ (w0.wv.lane L).inEntry = true) ∧ w0.settled = true ∧ w0.engineQuiet = true ∧ w0.wv.pend = none ∧
    (∀ L, On wCalled L → (wCalled.wv.lane L).inCont = false ∧ (wCalled.wv.lane L).inEntry = false) ∧ w0.wv.live = true :=
  ⟨w0_issuing, ⟨0, by decide, by decide +kernel⟩, by decide +kernel, by decide +kernel, on_of (by decide +kernel), on_of (by decide +kernel),
    by decide +kernel, by decide +kernel, by decide +kernel, on_of (by decide +kernel), by decide +kernel⟩
/-- Rejoin mask 7 with the issuing lanes enrolled, and with none; a spatial level and a temporal one. -/
def wRejoin : State := w0.updWave 0 fun w => { w with enr := updAt w.enr 7 fun _ => 0x80000003, hold := 5 }
theorem meets_RejoinMasksAndLoops : Issuing wRejoin ∧ wRejoin.issue.dsts = [] ∧ wRejoin.wv.enr.length = 8 ∧ wRejoin.wv.prk.length = 8 ∧
    wRejoin.issue.mask &&& ~~~wRejoin.wv.enr.getD 7 0 = 0 ∧ wRejoin.issue.mask &&& ~~~wRejoin.wv.enr.getD 0 0 ≠ 0 ∧ wRejoin.wv.idx.length = 6 ∧
    wRejoin.wv.trip.length = 6 ∧ (wRejoin.loopLevel 5).kind = 0 ∧ 0 < wRejoin.waves.length ∧ (wRejoin.waveAt 0).hold ≠ 0 :=
  ⟨issuing_of (by decide +kernel) (by decide +kernel), by decide +kernel, by decide +kernel, by decide +kernel, by decide +kernel, by decide +kernel,
    by decide +kernel, by decide +kernel, by decide +kernel, by decide +kernel, by decide +kernel⟩

/-- The access of a load of value `n`'s addresses, and that of a store. -/
def ldOf (s : State) (m : MMod) (n : BitVec 30) : Access := accessAt m true false 4 fun L => (s.opnd (addrTy m.space) (.val n) L).toNat
def stOf (s : State) (m : MMod) (n : BitVec 30) : Access := accessAt m false true 4 fun L => (s.opnd (addrTy m.space) (.val n) L).toNat
/-- What `Goes` asks, as tests on the 32 lanes. -/
theorem goes_of {s : State} {x : Access} (h : ∀ L, L < 32 → inMask s.issue.mask L = true → (s.placeOf x L).toOption.isSome = true)
    (g : s.absentOf (padRanges x.n (s.activeLanes.map (s.placeAt x))) = [] ∧ s.mustWait x.m x.wr x.n (s.activeLanes.map (s.placeAt x)) = false ∧
      (x.wr = true → s.padHeld (padRanges x.n (s.activeLanes.map (s.placeAt x))) = false) ∧ s.ckpt.on = false) : Goes s x where
  places := on_of fun L a b => by
    have := h L a b
    cases hp : s.placeOf x L with
    | ok p => exact ⟨p, rfl⟩
    | error e => simp [hp, Except.toOption] at this
  present := g.1
  free := g.2.1
  unheld := g.2.2.1
  calm := g.2.2.2
/-- A place is a readable page of the package. -/
def atHome (die : Nat) (u : State) : Place → Bool
  | .phys _ p => !eFab p.leaf && p.home == die && !u.uncorr p.key
  | _ => false
theorem meets_Loads : Issuing w0 ∧ Goes w0 (ldOf w0 gm 3) ∧ Goes w0 (ldOf w0 sm 5) ∧ w0.issue.land = 0 ∧
    (∀ L, On w0 L → w0.wg.padBad (64 + 8 * L) 4 = false) ∧ ∀ L, On w0 L → ((touched w0 (ldOf w0 gm 3)).placeAt (ldOf w0 gm 3) L).isFab = false ∧
      (touched w0 (ldOf w0 gm 3)).placeBad gm 4 ((touched w0 (ldOf w0 gm 3)).placeAt (ldOf w0 gm 3) L) = false :=
  ⟨w0_issuing, goes_of (by decide +kernel) (by decide +kernel), goes_of (by decide +kernel) (by decide +kernel), by decide +kernel,
    on_of (by decide +kernel), on_of (by decide +kernel)⟩
/-- Stores at home, to scratchpad, to the words of a thread and into the write set of a merged task. -/
theorem meets_Stores : Issuing w0 ∧ w0.merged = false ∧ Goes w0 (stOf w0 gm 3) ∧
    (∀ L, On w0 L → atHome w0.wv.die (touched w0 (stOf w0 gm 3)) ((touched w0 (stOf w0 gm 3)).placeAt (stOf w0 gm 3) L) = true) ∧
    Goes w0 (stOf w0 sm 5) ∧ (∀ L, On w0 L → w0.wg.padSplit (64 + 8 * L) 4 = false) ∧ Goes w1 (stOf w1 pm 7) ∧
    Issuing w2 ∧ w2.merged = true ∧ w2.wv.wg < w2.wgs.length ∧ (∀ d, d < 8 → w2.poolUsed d + 32 ≤ w2.poolLines d) ∧ Goes w2 (stOf w2 gm 3) :=
  ⟨w0_issuing, by decide +kernel, goes_of (by decide +kernel) (by decide +kernel), on_of (by decide +kernel),
    goes_of (by decide +kernel) (by decide +kernel), on_of (by decide +kernel), goes_of (by decide +kernel) (by decide +kernel), w2_issuing,
    by decide +kernel, by decide +kernel, by decide +kernel, goes_of (by decide +kernel) (by decide +kernel)⟩
/-- Every lane of an access to a page that is not mapped has the same cause, and lane 0 is the lowest. -/
theorem meets_AccessFaults : Issuing w0 ∧ On w0 0 ∧ (∀ L, On w0 L → (match w0.placeOf (ldOf w0 gm 6) L with | .error c => c.code | .ok _ => 0) = 0x20) ∧
    ∀ L, On w0 L → 0 ≤ L := ⟨w0_issuing, ⟨by decide, by decide +kernel⟩, on_of (by decide +kernel), fun _ _ => Nat.zero_le _⟩
/-- A copy of one line that passes every check, and its line on its way. -/
def wCopy : State := match exec (.ldblk gm (.imm 128) (.imm 0x10000) (.imm 128)) w0 with
  | .next t => t
  | _ => w0
theorem meets_BlockCopiesLinesAndQueries : Issuing w0 ∧ w0.wv.wg < w0.wgs.length ∧ w0.wg.absentIn 128 128 = [] ∧ 128 % 128 = 0 ∧ 128 ≤ 65536 ∧
    128 + 128 ≤ w0.wg.spadB ∧ w0.rangeCause (w0.accOf w0.wv .global true false) 0x10000 128 = none ∧
    (w0.copies.filter fun c => c.core == w0.gcore).length < 4 ∧ w0.acqPending = false ∧
    (wCopy.copies.map fun c => (c.lines, c.undef, c.toSpad, wCopy.waveOf c.wave)) = [([0], [], true, some 0)] ∧ wCopy.ckpt.on = false ∧
    Goes w0 (lineAccess { wordMod with space := .global } fun L => (w0.opnd (addrTy .global) (.val 3) L).toNat) ∧ (8 : Nat) ≠ 0 ∧ 64 + 8 ≤ w0.wg.spadB :=
  ⟨w0_issuing, by decide +kernel, by decide +kernel, by decide, by decide, by decide +kernel, by decide +kernel, by decide +kernel, by decide +kernel,
    by decide +kernel, by decide +kernel, goes_of (by decide +kernel) (by decide +kernel), by decide, by decide +kernel⟩
/-- One line that stands under the page's key ID and the next, which does not. -/
theorem meets_KeyIds : 0 < 256 ∧ let p : Phys := { home := 0, dpa := 0x200000, leaf := dw (leaf 0 0x200000 0x1F), lg := 16, ekey := 0 }
    let s : State := { w0 with keyids := [(0x200080 / 128, 3)] }
    eFab p.leaf = false ∧ (cget (zeros 6) s.keyids (p.key / 128)).toNat = eKeyid p.leaf ∧ (cget (zeros 6) s.keyids (p.key / 128 + 1)).toNat ≠ eKeyid p.leaf :=
  ⟨by decide, by decide +kernel, by decide +kernel, by decide +kernel⟩

/-! ### Atomics, reductions, ordering -/

theorem ok_of {ε α} {e : Except ε α} (h : e.toOption.isSome = true) : ∃ p, e = .ok p := by
  cases e with
  | ok p => exact ⟨p, rfl⟩
  | error e => simp [Except.toOption] at h
theorem atomGoes_of {s : State} {x : AtomOp} {o : Option Nat} (h : ∀ L, L < 32 → inMask s.issue.mask L = true → (s.atomLoc x o L).toOption.isSome = true)
    (g : s.absentOf (padRanges (atomBytes x.ty) (s.activeLanes.map (s.atomPlace x o))) = [] ∧
      s.mustWait x.m true (atomBytes x.ty) (s.activeLanes.map (s.atomPlace x o)) = false ∧
      s.padHeld (padRanges (atomBytes x.ty) (s.activeLanes.map (s.atomPlace x o))) = false ∧ s.ckpt.on = false) : AtomGoes s x o where
  places := on_of fun L a b => ok_of (h L a b)
  present := g.1
  free := g.2.1
  unheld := g.2.2.1
  calm := g.2.2.2
/-- Whatever the locations hold, some values stand in the sequence of R295. -/
theorem sequence_exists (s : State) (x : AtomOp) (key : Nat → Nat) (old : Nat → Val) : ∃ V, Sequence s x key old V := by
  classical
  refine ⟨fun k L => Nat.rec (old k) (fun L v => if On s L ∧ key L = k then atomF x.opc x.ty v (x.v L) (x.v2 L) else v) L, fun _ => rfl, ?_, ?_⟩ <;>
    intro k L h <;> simp_all
/-- The place of an atomic is at home, in the package and readable. -/
def homeKey (die key : Nat) (u : State) : Place → Bool
  | .phys _ p => !eFab p.leaf && eTfdn p.leaf == 0 && p.home == die && u.remoteCause p == 0 && p.key == key
  | _ => false
def atOf (s : State) (m : MMod) (a : BitVec 30) : AtomOp := s.atomOp 0x200 i32 m (.val a) (.val 1)
def rdOf (s : State) (m : MMod) (a : BitVec 30) : AtomOp := s.atomOp (redOpc 0) i32 m (.val a) (.val 1)

theorem meets_AtomicFunctions : 1 < Ty.lanes v2f16 ∧ isF (Ty.elem v2f16) ∧ ¬(fDecode .f16 0x8000).isNaN :=
  ⟨by decide, .inr (.inr (.inl rfl)), by decide +kernel⟩
/-- At home, under merged determinism, and in scratchpad; and one of scope 3 under merged determinism. -/
theorem meets_Atomics : Issuing w0 ∧ w0.merged = false ∧ AtomGoes w0 (atOf w0 gm 3) none ∧
    Lands (atomTouched w0 (atOf w0 gm 3) none) 4 ((atomTouched w0 (atOf w0 gm 3) none).activeLanes.map ((atomTouched w0 (atOf w0 gm 3) none).atomPlace (atOf w0 gm 3) none)) ∧
    (∀ L, On w0 L → 4 ∣ 0x200000 + 8 * L ∧ homeKey 0 (0x200000 + 8 * L) (atomTouched w0 (atOf w0 gm 3) none)
      ((atomTouched w0 (atOf w0 gm 3) none).atomPlace (atOf w0 gm 3) none L) = true) ∧
    (∃ V, Sequence w0 (atOf w0 gm 3) (fun L => 0x200000 + 8 * L)
      (fun k => valOfBytes (readBytes (atomTouched w0 (atOf w0 gm 3) none).mem k 4)) V) ∧
    Issuing w2 ∧ w2.merged = true ∧ gm.space = .global ∧ w2.wv.wg < w2.wgs.length ∧ (∀ d, d < 8 → w2.poolUsed d + 32 ≤ w2.poolLines d) ∧
    AtomGoes w2 (atOf w2 gm 3) none ∧ (∀ L, On w2 L → homeKey 0 (0x200000 + 8 * L) (atomTouched w2 (atOf w2 gm 3) none)
      ((atomTouched w2 (atOf w2 gm 3) none).atomPlace (atOf w2 gm 3) none L) = true) ∧
    AtomGoes w0 (atOf w0 sm 5) none ∧ w0.wv.wg < w0.wgs.length ∧ (∀ L, On w0 L → 4 ∣ (atOf w0 sm 5).addr L ∧ w0.wg.padBad ((atOf w0 sm 5).addr L) 4 = false) ∧
    3 ≤ (mm .relaxed 3 .dflt .global false).scope.toNat :=
  ⟨w0_issuing, by decide +kernel, atomGoes_of (by decide +kernel) (by decide +kernel), .inl (by decide +kernel), on_of (by decide +kernel),
    sequence_exists _ _ _ _, w2_issuing, by decide +kernel, rfl, by decide +kernel, by decide +kernel, atomGoes_of (by decide +kernel) (by decide +kernel),
    on_of (by decide +kernel), atomGoes_of (by decide +kernel) (by decide +kernel), by decide +kernel, on_of (by decide +kernel), by decide⟩
/-- A window whose page is mapped and whose one location both lanes name, under either determinism. -/
def inWindow (s : State) : State :=
  let s : State := { s with windows := [(0, dw (1 * 2 ^ 16 + 12), dw (2 ^ 63 + 2 ^ 61 + 2 ^ 16 + Ty.code i32 * 64))] }
  s.updWave 0 fun w => { w with lanes := w.lanes.map fun l => l.setVal 3 0x10010 }
def gw : MMod := mm .relaxed 7 .dflt .global false
def winOf (s : State) (L : Nat) : Option Nat := ((atomTouched s (rdOf s gw 3) (some 0)).atomWindow (rdOf s gw 3) L).map Prod.fst
theorem meets_Reductions : Issuing w0 ∧ AtomGoes w0 (rdOf w0 gm 3) (some 0) ∧
    (∀ L, On w0 L → winOf w0 L = none ∧ homeKey w0.wv.die (0x200000 + 8 * L) (atomTouched w0 (rdOf w0 gm 3) (some 0))
      ((atomTouched w0 (rdOf w0 gm 3) (some 0)).atomPlace (rdOf w0 gm 3) (some 0) L) = true) ∧
    AtomGoes w0 (rdOf w0 sm 5) (some 0) ∧ AtomGoes w2 (rdOf w2 gm 3) (some 0) ∧
    Issuing (inWindow w0) ∧ AtomGoes (inWindow w0) (rdOf (inWindow w0) gw 3) (some 0) ∧ (∃ L, On (inWindow w0) L) ∧
    (∀ L, On (inWindow w0) L → winOf (inWindow w0) L = some 0 ∧ (rdOf (inWindow w0) gw 3).addr L = 0x10010) ∧ 0 < (inWindow w0).contrib.length ∧
    Issuing (inWindow w2) ∧ AtomGoes (inWindow w2) (rdOf (inWindow w2) gw 3) (some 0) ∧ (∀ L, On (inWindow w2) L → winOf (inWindow w2) L = some 0 ∧ 0 ≤ L) :=
  ⟨w0_issuing, atomGoes_of (by decide +kernel) (by decide +kernel), on_of (by decide +kernel), atomGoes_of (by decide +kernel) (by decide +kernel),
    atomGoes_of (by decide +kernel) (by decide +kernel), issuing_of (by decide +kernel) (by decide +kernel),
    atomGoes_of (by decide +kernel) (by decide +kernel), ⟨0, by decide, by decide +kernel⟩, on_of (by decide +kernel), by decide +kernel,
    issuing_of (by decide +kernel) (by decide +kernel), atomGoes_of (by decide +kernel) (by decide +kernel), on_of (by decide +kernel)⟩
/-- One lane's store, and its reduction, to a page of die 1. -/
theorem meets_RemoteStoresAndReductions : Issuing w1 ∧ On w1 0 ∧ (∀ M, On w1 M → M = 0) ∧ w1.merged = false ∧ Goes w1 (stOf w1 gm 4) ∧
    homeKey 1 (0x210000 + 2 ^ 38) (touched w1 (stOf w1 gm 4)) ((touched w1 (stOf w1 gm 4)).placeAt (stOf w1 gm 4) 0) = true ∧ 1 ≠ w1.wv.die ∧
    AtomGoes w1 (rdOf w1 gm 4) (some 0) ∧ (atomTouched w1 (rdOf w1 gm 4) (some 0)).atomWindow (rdOf w1 gm 4) 0 = none ∧
    homeKey 1 (0x210000 + 2 ^ 38) (atomTouched w1 (rdOf w1 gm 4) (some 0)) ((atomTouched w1 (rdOf w1 gm 4) (some 0)).atomPlace (rdOf w1 gm 4) (some 0) 0) = true :=
  ⟨w1_issuing, ⟨by decide, by decide +kernel⟩, on_of (by decide +kernel), by decide +kernel, goes_of (by decide +kernel) (by decide +kernel),
    by decide +kernel, by decide +kernel, atomGoes_of (by decide +kernel) (by decide +kernel), by decide +kernel, by decide +kernel⟩
/-- A round of a window of two members (mem = 3) that has a part of each, and one (mem = 7) that lacks one. -/
def wRound (mem : Nat) : State :=
  { w0 with cycle := 5000, windows := [(0, dw (1 * 2 ^ 16 + 12), dw (2 ^ 63 + 2 ^ 61 + mem * 2 ^ 48 + 1 * 2 ^ 16 + Ty.code i32 * 64))],
            heard := [(0, 0, (100, [])), (0, 3, (100, []))], rounds := [{ window := 0, off := 16, first := 10, parts := [⟨0, 3, 77, some 0, none, 10⟩, ⟨3, 5, 99, none, none, 12⟩] }] }
/-- A complete round, and one that is due and lacks a member. -/
theorem meets_ReductionRounds :
    let w := (wRound 2).windows.headD default
    let r := (wRound 2).rounds.headD default
    let s1 := ({ wRound 2 with rounds := [] } : State).homeRmw 0x200010 (winOpc w.2.2) (winTy w.2.2) [(176, 0)]
    (wRound 2).windowSlot 0 = some w ∧ (wRound 2).oldestRound 0 16 = some r ∧ (wRound 2).roundFull w r = true ∧
    (wRound 3).roundFull ((wRound 3).windows.headD default) r = false ∧ bits w.2.2 16 16 ≠ 0 ∧ r.first + bits w.2.2 16 16 * 1024 ≤ (wRound 3).cycle ∧
    r.parts ≠ [] ∧ (wRound 2).ckpt.on = false ∧ (winTy w.2.2).bytes = 4 ∧
    ((wRound 2).roundPlace r (winBase w.2.1 + 16)).map (fun p => (p.key, eFab p.leaf)) = some (0x200010, false) ∧
    (s1.roundPlace r (winBase w.2.1 + winSize w.2.1 - 8)).map (fun p => (p.key, eFab p.leaf)) = some (0x200FF8, false) ∧
    (∀ l ∈ [0x200010 / 128, 0x200FF8 / 128], (cget (zeros 6) (wRound 2).keyids l).toNat = eKeyid (dw (leaf 0 0x200000 0x1F))) ∧
    (wRound 2).frameSt 0x200010 ≠ 3 ∧ (wRound 2).frameSt 0x200FF8 ≠ 3 ∧ (wRound 2).heldOn 0x200010 4 = false ∧ (wRound 2).heldOn 0x200FF8 8 = false := by
  decide +kernel

/-- A wave all of whose accesses have performed, and one with a block copy on its way. -/
theorem meets_FencesAndDrains : Issuing w0 ∧ w0.settled = true ∧ w0.quiet = true ∧ w0.copiesRead = true ∧ w0.wv.pend = none ∧ Issuing wCopy ∧
    wCopy.settled = false ∧ wCopy.quiet = false ∧ wCopy.copiesRead = false ∧
    ((w0.updWave 0 fun w => { w with pend := some default }).deliverPend).isSome = true :=
  ⟨w0_issuing, by decide +kernel, by decide +kernel, by decide +kernel, by decide +kernel, issuing_of (by decide +kernel) (by decide +kernel),
    by decide +kernel, by decide +kernel, by decide +kernel, by decide +kernel⟩
/-- A second wave of the workgroup whose lane 0 sleeps, and whose time has come. -/
def wSleep : State := { w0 with waves := w0.waves ++ w0.waves.map fun w =>
  { w with slot := 1, num := 1, lanes := w.lanes.mapIdx fun L l => if L = 0 then { l with st := .parked, wait := .sleep (some 0) } else l } }
theorem meets_SleepAndWake : Issuing wSleep ∧ wSleep.settled = true ∧ 1 < wSleep.waves.length ∧ (wSleep.waveAt 1).wg = wSleep.wv.wg ∧
    (wSleep.waveAt 1).live = true ∧ (wSleep.waveAt 1).num = 1 ∧
    ((wSleep.waveAt 1).lane 0).st = .parked ∧ ((wSleep.waveAt 1).lane 0).wait = .sleep (some 0) ∧ 0 ≤ wSleep.sleepNow 1 ∧
    (w0.updWave 0 fun w => { w with wkp := true }).wv.wkp = true :=
  ⟨issuing_of (by decide +kernel) (by decide +kernel), by decide +kernel⟩
/-- A barrier in scratchpad that expects two arrivals and holds one; the same with one expected byte open, and full. -/
def wBar (b : Barrier) : State := w0.updWg 0 fun g => g.write 256 b.bytes
def b1 : Barrier := { phase := 7, arr := 1, expa := 2, doneb := 0, expb := 0 }
theorem meets_Barriers : Issuing (wBar b1) ∧ (wBar b1).wv.wg < (wBar b1).wgs.length ∧ (wBar b1).ckpt.on = false ∧
    (∀ wr ord, ord ∈ [Sys2Proof.Ord.release, .relaxed] → (wBar b1).laneLoc .spad (!wr) wr (wBar b1).lowLane 256 16 16 = .ok (.spad 256) ∧
      (wBar b1).mustWait { Machine.barMod 0 .spad with ord := ord } true 16 [.spad 256] = false) ∧
    (wBar b1).absentOf (padRanges 16 [.spad 256]) = [] ∧ (wBar b1).padHeld (padRanges 16 [.spad 256]) = false ∧
    (wBar b1).wg.padBad 256 16 = false ∧ Barrier.ofBytes (((wBar b1).touchPlace ((wBar b1).accOf (wBar b1).wv .spad true true) (.spad 256)).atomRead 16 (.spad 256)) = b1 ∧
    (wBar b1).placeBad (Machine.barMod 0 .spad) 16 (.spad 256) = false ∧
    b1.arr + 1 ≤ b1.expa ∧ b1.expa < b1.arr + 2 ∧ b1.arr + 1 = b1.expa ∧ b1.expb < { b1 with doneb := 1 }.doneb ∧ b1.phase = 7 ∧ 2 ^ 32 ≤ { b1 with expb := 1 }.expb + 0xFFFFFFFF :=
  ⟨issuing_of (by decide +kernel) (by decide +kernel), by decide +kernel⟩
/-- Wave 0 waits on the barrier's earlier phase. -/
def wBarWait : State := (wBar b1).updWave 0 fun w => { w with lanes := w.lanes.map fun l => { l with st := .parked, wait := .barrier 0 .spad 256 6 } }
theorem meets_BarrierRelease : 0 < wBarWait.waves.length ∧
    ((wBarWait.asWave 0 0 (wBarWait.wv.lane 0).pc).laneLoc .spad true false 0 256 16 16) = .ok (.spad 256) ∧
    (wBarWait.asWave 0 0 (wBarWait.wv.lane 0).pc).barPhase (.spad 256) ≠ 6 := by decide +kernel
/-- The word 1 in both lanes' location of scratchpad: the condition holds for the operand 1 and not for 0. -/
def wWait : State := (issues 0x80000001 fun L n => [1, 0, 0, 0, 0, 64 + 8 * L, 0, 0].getD n 0).updWg 0 fun g =>
  (g.write 64 (bytesOfNat 4 1)).write (64 + 8 * 31) (bytesOfNat 4 1)
theorem meets_ValueWaits : Issuing wWait ∧ Goes wWait (ldOf wWait sm 5) ∧ (∃ L, On wWait L) ∧
    (∀ L, On wWait L → (wWait.wv.lane L).pc = wWait.issue.here ∧
      (touched wWait (ldOf wWait sm 5)).laneLoc .spad true false L ((ldOf wWait sm 5).addr L) 4 4 = .ok (.spad (64 + 8 * L)) ∧
      (touched wWait (ldOf wWait sm 5)).placeBad sm 4 (.spad (64 + 8 * L)) = false ∧ (ldOf wWait sm 5).addr L < 2 ^ 64 ∧
      valOfBytes (((touched wWait (ldOf wWait sm 5)).met 4 (.spad (64 + 8 * L))).atomRead 4 (.spad (64 + 8 * L))) = 1 ∧
      iCmp .eq .i32 1 (wWait.el i32 (.val 0) L 0) = true ∧ iCmp .eq .i32 1 (wWait.el i32 (.val 1) L 0) = false) ∧
    ∀ L, L < 32 → (wWait.wv.lane L).st ≠ .parked :=
  ⟨issuing_of (by decide +kernel) (by decide +kernel), goes_of (by decide +kernel) (by decide +kernel), ⟨0, by decide, by decide +kernel⟩,
    on_of (by decide +kernel), by decide +kernel⟩
/-- Lane 0 waits for the word at 64 to be 1. -/
def wReread : State := wWait.updWave 0 fun w => { w with lanes := w.lanes.mapIdx fun L l =>
  if L = 0 then { l with st := .parked, wait := .waitval i32 sm 64 1 0 8 [] false } else l }
theorem meets_ValueWaitsReread :
    let l := wReread.wv.lane 0
    let view := wReread.asWave 0 0 l.pc
    0 < wReread.waves.length ∧ wReread.wv.lanes.length = 32 ∧ l.st = .parked ∧ l.wait = .waitval i32 sm 64 1 0 8 [] false ∧ l.frames.isEmpty = false ∧
    (∀ M, M < 32 → M ≠ 0 → (wReread.wv.lane M).st ≠ .parked) ∧ sm.ord = .relaxed ∧ view.laneLoc .spad true false 0 64 4 4 = .ok (.spad 64) ∧
    (Place.spad 64).isFab = false ∧ view.placeBad sm 4 (.spad 64) = false ∧
    waitCond i32 0 (valOfBytes ((view.met 4 (.spad 64)).atomRead 4 (.spad 64))) 1 = true := by decide +kernel

/-! ### Querns and engines -/

/-- Values 6 and 7 are the descriptors of two panels of 128 elements of 8 bits a row, at 0 and at 8192; the core holds the quern's window. -/
def descOf (base rp tp rot sb srp : Nat) : Nat := base / 16 * 2 ^ 44 + rp / 16 * 2 ^ 30 + tp / 16 * 2 ^ 10 + rot * 2 ^ 7 + (sb / 16 * 2 ^ 44 + srp * 2 ^ 30) * 2 ^ 64
def wMat : State := ({ issues 0x80000001 fun L n => [1, 2, 0, 0x10000, 9, 32, descOf 0 128 32 0 0 4, descOf 8192 128 32 0 16 4].getD n L with spans := [] } : State).updWg 0 fun g => { g with spadB := 65536 }
theorem meets_MatrixIssue : Issuing wMat ∧
    let va := wMat.uni tyV2n64 (.val 6)
    let vb := wMat.uni tyV2n64 (.val 7)
    wMat.windowOpen 0 = true ∧ wMat.queuedOps 0 0 0 wMat.wv.core < 8 ∧ wMat.wv.opfence = false ∧ (wMat.slots.filter fun e => e.1 == wMat.gcore).length ≤ 13 ∧
    wMat.uniNat tyN32 (.imm 128) = 128 ∧ tileTN wMat.wv.die = 128 ∧ elemAt va 64 0 % 2 ^ 7 = 0 ∧ elemAt vb 64 0 % 2 ^ 7 = 0 ∧ elemAt va 64 1 % 2 ^ 30 = 0 ∧
    elemAt vb 64 1 % 2 ^ 30 = 0 ∧
    (∀ p ∈ (Desc.ofVal va).pieces 8 64 4 ++ (Desc.ofVal vb).pieces 8 128 4, p + 16 ≤ wMat.wg.spadB) ∧
    (∀ p ∈ (Desc.ofVal va).scales 64 4 ++ (Desc.ofVal vb).scales 128 4, p < wMat.wg.spadB) ∧ wMat.wg.absent = [] ∧
    wMat.tileCauses .spad false 64 512 4 = [] ∧ wMat.absentOf (wMat.tilePads .spad 64 512 4) = [] ∧ wMat.tileCauses .global true 0x10000 512 4 = [] ∧
    wMat.ordered = false ∧ wMat.quiet = true := ⟨issuing_of (by decide +kernel) (by decide +kernel), by decide +kernel⟩
/-- The state after an instruction. -/
def afterI (i : Instr) (s : State) : State :=
  match exec i s with
  | .next t => t
  | _ => s
/-- One operation of each kind, the oldest of its quern. -/
def quernsOf : List Instr := [.mzero, .mtrans (.val 4), .mma .e4m3 .e4m3 false false (.val 4) (.val 6) (.val 7) (.imm 128),
  .mma .e4m3 .e4m3 true false (.val 4) (.val 4) (.val 7) (.imm 128), .mmamx .mxi8 .mxi8 (.val 4) (.val 6) (.val 7) (.imm 128), .mld sm (.imm 64) (.imm 512) 0, .mst sm (.imm 64) (.imm 512) (.val 4) 0 (.imm 0)]
theorem meets_MatrixResults : ∀ i ∈ quernsOf, 0 < (afterI i wMat).waves.length ∧ ((afterI i wMat).wgAt ((afterI i wMat).waveAt 0).wg).badPad = [] ∧
    ((afterI i wMat).quern.find? fun o => o.die == 0 && o.cluster == 0 && o.quern == 0 && decide (o.stage < 2)).any (fun o =>
      decide (o.instr = i) && (afterI i wMat).waveOf o.wave == some 0 && !o.taint && o.undef.isEmpty && o.stage == 0) = true ∧
    ((afterI i wMat).waveAt 0).faulted = false ∧ tileTN 0 * 4 ≤ 512 := by decide +kernel
/-- Fields at their bounds, one lane with a rotation of a pitch that is no multiple of 128, and one with a field too wide; a tile that is busy and one that is
not; an offer. -/
theorem meets_MatrixQueries : Issuing wMat ∧ (wMat.opnd tyN32 (.imm 0x0FFFFF0) 0).toNat % 16 = 0 ∧ (wMat.opnd tyN32 (.imm 0x0FFFFF0) 0).toNat < 2 ^ 24 ∧
    (wMat.opnd tyN32 (.imm 0x3FFF0) 0).toNat < 2 ^ 18 ∧ (wMat.opnd tyN32 (.imm 0x1000000) 0).toNat % 16 = 0 ∧ ¬(wMat.opnd tyN32 (.imm 0x1000000) 0).toNat < 2 ^ 24 ∧
    (wMat.opnd tyN32 (.imm 48) 0).toNat % 128 ≠ 0 ∧ On wMat 0 ∧ wMat.tileBusy wMat.wv.token (wMat.tileOpnd (.val 4)) = false ∧
    (let s := afterI (.mtrans (.val 4)) wMat
     s.tileBusy s.wv.token (s.tileOpnd (.val 4)) = true) ∧
    wMat.wv.pend = none ∧ wMat.wv.live = true ∧ wMat.windowOpen 0 = true :=
  ⟨issuing_of (by decide +kernel) (by decide +kernel), by decide +kernel, by decide +kernel, by decide +kernel, by decide +kernel, by decide +kernel,
    by decide +kernel, ⟨by decide, by decide +kernel⟩, by decide +kernel, by decide +kernel, by decide +kernel, by decide +kernel, by decide +kernel⟩

/-- A binding whose control block stands at 1024, its commands at 2048 and its records at 3072, with one command published. -/
def wBound : State := { afterI (.engbind (.imm 1024) (.imm 2048) (.imm 8) (.imm 3072) (.imm 4)) w0 with issue := w0.issue }
def published (bs : List Byte) : State := wBound.updWg 0 fun g => (g.write 2048 bs).write 1024 (bytesOfNat 4 (bs.length / 32))
def cmdHead (kind nent ssp dsp : Nat) : List Byte := bytesOfNat 8 (kind + nent * 256 + ssp * 2 ^ 16 + dsp * 2 ^ 20 + 2 * 2 ^ 27)
/-- A copy of 100 bytes from 0 to 4096 in scratchpad, a fill of 80, and a command of a kind that none is. -/
def cCopy : List Byte := cmdHead 1 1 1 1 ++ bytesOfNat 8 0 ++ bytesOfNat 8 4096 ++ bytesOfNat 8 100
def cFill : List Byte := cmdHead 5 1 0 1 ++ bytesOfNat 8 4112 ++ bytesOfNat 8 0x1122334455667788 ++ bytesOfNat 8 80
def cBad : List Byte := cmdHead 9 1 0 1 ++ bytesOfNat 24 0
theorem meets_EngineInstructions : Issuing w0 ∧ w0.wv.wg < w0.wgs.length ∧ w0.wg.st = .resident ∧
    w0.bindCause 1024 2048 8 3072 4 = none ∧ w0.wg.absentIn 1024 64 = [] ∧ w0.settled = true ∧ w0.bindings = [] ∧ 1025 % 64 ≠ 0 ∧
    Issuing wBound ∧ (wBound.bindOf wBound.wv.wg 0).any (fun b => b.st == 1 && !b.halted && b.wg == wBound.wv.wg && b.handle == 0 && b.ctail == 0 &&
      (wBound.cmdsOf b).isEmpty && (wBound.wg.absentIn b.ctl 64).isEmpty) = true ∧ wBound.settled = true ∧ (0 - 1 : BitVec 32).toInt < 0 ∧
    0 < (BitVec.ofNat 32 (natOfBytes ((published cCopy).wg.read 1024 4)) - 0).toInt :=
  ⟨w0_issuing, by decide +kernel, by decide +kernel, by decide +kernel, by decide +kernel, by decide +kernel, by decide +kernel, by decide,
    issuing_of (by decide +kernel) (by decide +kernel), by decide +kernel, by decide +kernel, by decide, by decide +kernel⟩
def wFetched (bs : List Byte) : State := afterI (.notifyFetch 0) (published bs)
def wBegun (bs : List Byte) : State := afterI (.commandBegin 0) (wFetched bs)
/-- A published command that can be fetched, and a NOTIFY too far on; a fetched one, good and bad, whose turn has come; and a finished one. -/
theorem meets_EngineRings :
    let s := published cCopy
    let b := s.bindAt 0
    0 < s.bindings.length ∧ b.wg < s.wgs.length ∧ (s.wgAt b.wg).st = .resident ∧ s.halted = false ∧ s.heldWg b.wg = false ∧ b.halted = false ∧ b.st = 1 ∧
    s.bindOf b.wg b.handle = some b ∧ (s.cmdsOf b) = [] ∧ (BitVec.ofNat 32 (natOfBytes (s.wg.read b.ctl 4)) - b.head).toNat ≤ b.ncmd ∧
    natAt (s.wg.read b.cbase 32) 1 1 = 1 ∧
    (let u := wBound.updWg 0 fun g => g.write 1024 (bytesOfNat 4 9)
     ¬(BitVec.ofNat 32 (natOfBytes (u.wg.read b.ctl 4)) - b.head).toNat ≤ b.ncmd) ∧
    (∀ bs ∈ [cCopy, cBad], (wFetched bs).mayBegin ((wFetched bs).bindAt 0) = true ∧ (wFetched bs).leatTurn ((wFetched bs).bindAt 0) = true ∧
      (((wFetched bs).cmdsOf ((wFetched bs).bindAt 0)).find? fun c => !c.begun).any (fun c => ((wFetched bs).cmdCheck c).isNone == decide (bs = cCopy)) = true) ∧
    (let u := afterI (.engineFill 0) (wBegun cFill)
     (∀ x ∈ u.bindings, x.st ≠ 2 ∧ x.st ≠ 3) ∧ ((u.begunOf (u.bindAt 0)).any fun c => c.finished && !c.bar && c.held.isNone) = true ∧ u.msgs = [] ∧ u.stagingFull = false) := by
  decide +kernel
/-- The commands of the statement, begun, from and to scratchpad, apart from each other. -/
def entries2 : List Byte := bytesOfNat 8 0 ++ bytesOfNat 8 4096 ++ bytesOfNat 4 16 ++ bytesOfNat 4 2 ++ (bytesOfNat 4 3 ++ bytesOfNat 4 32 ++ bytesOfNat 4 16 ++ bytesOfNat 4 0) ++
  (bytesOfNat 4 2 ++ bytesOfNat 4 112 ++ bytesOfNat 4 32 ++ bytesOfNat 4 0)
def indexed (k : Nat) : List Byte := cmdHead k 2 1 1 ++ bytesOfNat 8 0 ++ bytesOfNat 8 4096 ++ bytesOfNat 4 8 ++ bytesOfNat 4 2 ++ bytesOfNat 8 7008 ++ bytesOfNat 4 16 ++ bytesOfNat 20 0
theorem meets_EngineCommands : ∀ bs ∈ [cCopy, cmdHead 2 2 1 1 ++ entries2, indexed 3, indexed 4, cFill], ((wBegun bs).cmds.head?).any (fun c =>
    c.begun && !c.finished && (((wBegun bs).cmds.find? fun x => x.id == c.id) == some c) && ((wBegun bs).cmdCheck c).isNone && c.dsp == 1 &&
    (!c.reads || c.ssp == 1) && decide (c.wg < (wBegun bs).wgs.length) && ((wBegun bs).wgAt c.wg).st == .resident && !(wBegun bs).stagingFull &&
    !(wBegun bs).heldWg c.wg && ((wBegun bs).wgAt c.wg).badPad.isEmpty && c.kind == natAt bs 0 1 && !((wBegun bs).cmdRuns c).isEmpty &&
    ((wBegun bs).cmdRuns c).all fun r => (List.range r.n).all fun i => !c.overlap ((wBegun bs).cmdRuns c) (r.dst + i)) = true := by decide +kernel
/-- A reducing copy of 16 words to a page at home; its part that a vault expects; and one that waits. -/
def cReduce (seq : Nat) : List Byte := cmdHead 6 2 1 0 ++ bytesOfNat 8 0 ++ bytesOfNat 8 0x10000 ++ bytesOfNat 4 64 ++ bytesOfNat 4 seq ++ bytesOfNat 4 0 ++ bytesOfNat 1 0 ++
  bytesOfNat 1 (Ty.code i32) ++ bytesOfNat 26 0
def wParts (seq : Nat) : State := afterI (.rcopy 0) (wBegun (cReduce seq))
theorem meets_ReducingCopies :
    (let s := wBegun (cReduce 0)
     let c := s.cmds.headD default
     let t := c.ety.getD tyN32
     let u := (List.range (c.len / t.bytes)).foldl (fun u i => u.rcTouch c (c.src + i * t.bytes) (c.dst + i * t.bytes)) s
     s.cmds.find? (fun x => x.id == c.id) = some c ∧ c.begun = true ∧ c.finished = false ∧ c.kind = 6 ∧ s.parts = [] ∧
     s.fabReady c.owner default (s.cmdAsks c (cmdPieces (s.cmdRuns c))) = true ∧ u.cmdHomes c = [0] ∧ (u.seqRegion 0 (c.f 32 4)).failed = false ∧
     (u.rcElems c t (c.len / t.bytes) 0).2 = none ∧ (u.rcElems c t (c.len / t.bytes) 0).1 ≠ []) ∧
    (let s := wParts 0
     ∃ v, v < 32 ∧ (s.seqRegion 0 0).exp.length = 32 ∧ s.ckpt.on = false ∧
       (s.parts.find? fun p => p.die == 0 && p.region == 0 && p.vault == v && p.seq == (s.seqRegion 0 0).exp.getD v 0).any (fun p =>
         decide (p.elems ≠ []) && (s.cmds.all fun c => c.id != p.cmd || !s.wgMerged c.wg) && p.elems.all fun e =>
           !e.undef && s.frameSt e.key != 3 && !s.heldOn e.key p.ty.bytes && (cget (zeros 6) s.keyids (e.key / 128)).toNat == e.keyid &&
           (e.key + p.ty.bytes - 1) / 128 == e.key / 128 && p.elems.all fun f => e == f || e.key + p.ty.bytes ≤ f.key || f.key + p.ty.bytes ≤ e.key) = true) ∧
    (let s := { wParts 1 with cycle := 2 ^ 25 }
     ∃ p ∈ s.parts, p.die = 0 ∧ p.region = 0 ∧ p.vault = 0 ∧ p.seq ≠ (s.seqRegion 0 0).exp.getD 0 0 ∧ p.since + 2 ^ 24 ≤ s.cycle) := by
  refine ⟨by decide +kernel, ⟨0, by decide +kernel⟩, by decide +kernel⟩

/-! ### Content-addressed regions and tasks -/

/-- A region of context 0 at 0x100000, whose first slots hold a leaf (name 0x102, count 3, immortal in wCaMax) and a node of level 1 with two zero lines
(name 0x202); value 6 is its base, 7 the leaf's name, 4 the node's, 2 an address in scratchpad. -/
def nodeHdr : Nat := 200 * 2 ^ 80 + 2 * 2 ^ 40 + Ty.code i32 * 2 ^ 26 + 1 * 2 ^ 22 + 2 * 2 ^ 19
def wCa : State :=
  let s := { issues 0x80000001 fun L n => [0x10000, 1, 128 * (L % 2), 1, 0x202, 1, 0x100000, 0x102].getD n L with
    ca := [{ slot := 0, base := 0x100000, logn := 11, keyslot := 5, ctx := 0, drops := [], retryAt := 0 }] }
  let s := (s.sysSet 0 0x070 (dw (2 ^ 63 + 2))).sysSet 0 0x060 (dw (16 * 2 ^ 16 + 11))
  let s := (List.range 6).foldl (fun s i => entry64 s (0x104000 + 8 * (16 + i)) (leaf 0 (0x300000 + 0x10000 * i) 0x3F)) s
  let at_ := fun va => va - 0x100000 + 0x300000
  let r := s.ca.headD default
  [(r.bucketVa 0x102, bytesOfNat 4 1), (r.bucketVa 0x202, bytesOfNat 4 2),
    (r.entryVa 0, CaEnt.bytes { slot := 0, name := 0x102, count := 3, next := 0, live := true, node := false }),
    (r.entryVa 1, CaEnt.bytes { slot := 1, name := 0x202, count := 1, next := 0, live := true, node := true }),
    (r.lineVa 0, [1, 2, 3]), (r.lineVa 1, bytesOfNat 16 nodeHdr ++ bytesOfNat 16 1 ++ bytesOfNat 16 1)].foldl
    (fun s e => { s with mem := writeBytes s.mem (at_ e.1) e.2 }) s
theorem some_of {α} {o : Option α} {f : α → Bool} (h : o.any f = true) : ∃ r, o = some r ∧ f r = true := by
  cases o with
  | none => simp at h
  | some r => exact ⟨r, rfl, h⟩
theorem wCa_region : ∀ L, L < 32 → inMask wCa.issue.mask L = true → (wCa.caReg (.val 6) L).any (fun r => !wCa.caBusy r) = true := by decide +kernel
theorem wCa_ready : CaReady wCa (.val 6) :=
  ⟨on_of fun L a b => let ⟨r, hr, hb⟩ := some_of (wCa_region L a b); ⟨r, hr, by simpa using hb⟩, by decide +kernel, by decide +kernel⟩
theorem chain_const {s : State} {R : Nat → State → State → Val → Prop} {res : Nat → Val} (h : ∀ L, On s L → R L s s (res L)) : LaneChain s R (fun _ => s) res :=
  ⟨rfl, h, fun _ _ => rfl⟩
def caReg (L : Nat) : CaRegion := (wCa.caReg (.val 6) L).getD default
/-- A transaction of two lanes that name the leaf, and whose conditions hold; a line in scratchpad and a root at home that can be reached; a base that is no
region's, and a region that is busy. -/
theorem meets_ContentInstructions : Issuing wCa ∧ CaReady wCa (.val 6) ∧ wCa.merged = false ∧ (∃ L, On wCa L) ∧
    (∃ res, LaneChain wCa (fun L v w d => w = v ∧ ((wCa.nameOpnd (.val 7) L = 1 ∧ d = BitVec.ofNat 256 ((caReg L).base.toNat + 0xF80)) ∨
      (wCa.nameOpnd (.val 7) L ≠ 1 ∧ ∃ e, v.caNeed (caReg L) (wCa.nameOpnd (.val 7) L) = .ok e ∧ d = BitVec.ofNat 256 ((caReg L).lineVa e.slot)))) (fun _ => wCa) res) ∧
    (∀ L, On wCa L → wCa.caReg (.val 0) L = none ∧ (1 ≤ wCa.caK (.val 1) L ∧ wCa.caK (.val 1) L ≤ 2 ^ 31) ∧
      (wCa.placeOf (wCa.caputAccess true (.val 2)) L).toOption.isSome = true ∧
      wCa.placeBad (caMod .spad) 128 (wCa.placeAt (wCa.caputAccess true (.val 2)) L) = false) ∧
    wCa.absentOf (padRanges 128 (wCa.activeLanes.map (wCa.placeAt (wCa.caputAccess true (.val 2))))) = [] ∧
    (∀ L, On wCa L → homeKey 0 0x200000 wCa (wCa.atomPlace (wCa.rootOp (.val 0)) none L) = true) ∧
    (let s := wCa.sysSet 0 0x070 (dw (2 ^ 63 + 2 ^ 62))
     s.caBusy ((s.caReg (.val 6) 0).getD default) = true) :=
  ⟨issuing_of (by decide +kernel) (by decide +kernel), wCa_ready, by decide +kernel, ⟨0, by decide, by decide +kernel⟩,
    ⟨fun L => BitVec.ofNat 256 ((caReg L).lineVa 0), chain_const (on_of fun L a b => ⟨rfl, .inr ((by decide +kernel : ∀ L, L < 32 → inMask wCa.issue.mask L = true →
      wCa.nameOpnd (.val 7) L ≠ 1 ∧ ((wCa.caNeed (caReg L) (wCa.nameOpnd (.val 7) L)).toOption.any fun e => e.slot == 0) = true) L a b |>.imp id fun h =>
        let ⟨e, he, hs⟩ := some_of h
        ⟨e, by cases hn : wCa.caNeed (caReg L) (wCa.nameOpnd (.val 7) L) <;> simp_all [Except.toOption], by simp_all⟩)⟩)⟩,
    on_of (by decide +kernel), by decide +kernel, on_of (by decide +kernel), by decide +kernel⟩
/-- A leaf and a node of the region, offsets on either side of its end, a free of the leaf, and the causes of names that are not there. -/
theorem meets_ContentLines : (∀ b ∈ List.replicate 128 (0 : Byte), b = 0) ∧ (∃ b ∈ List.replicate 128 (1 : Byte), b ≠ 0) ∧
    (let r := caReg 0
     let some_ := fun {α : Type} (x : Except CaErr α) (f : α → Bool) => x.toOption.any f = true
     some_ (wCa.caBucket r 0x102) (fun es => es.length == 1) ∧
     some_ (wCa.caNeed r 0x102) (fun e => !e.node && (wCa.freeLine r e).toOption.isSome && e.count < 4 && decide (e.count ≠ 0xFFFFFFFF)) ∧
     some_ (wCa.caNeed r 0x202) (fun e => e.node && ((wCa.caRead r (r.lineVa e.slot) 128).toOption.any fun line =>
       (wCa.caRead r (r.lineVa e.slot) 16).toOption == some (line.take 16) &&
       let h := CaHdr.ofNat (natAt line 0 16)
       let kids := (lineChildren line).take h.fanout
       h.level == 1 && h.fanout == 2 && (wCa.caShapes r kids).toOption == some [(128, 1, 0), (128, 1, 0)] && kids == [1, 1] && h.total == 200)) ∧
     (wCa.caFind r 0x302).toOption = some none ∧ (wCa.caLeaf r 0x202 200).toOption.isNone = true ∧ 199 < 200 ∧ wCa.caKept r = []) ∧
    CaReady wCa (.val 6) ∧ ({ wCa with issue := { wCa.issue with mask := 1 } } : State).activeLanes = [0] :=
  ⟨by decide +kernel, by decide +kernel, by decide +kernel, wCa_ready, by decide +kernel⟩
/-- A slot that can be enabled, one refused (LOGN 10), one with a queued drop now and later, and one that is busy. -/
theorem meets_ContentRegions :
    let on := dw (2 ^ 63 + 5 * 2 ^ 40)
    let free := { (w0.sysSet 0 0x063 (dw (2 ^ 32 + 11))) with trust := { w0.trust with regionKeys := [5] } }
    let less := w0.sysSet 0 0x063 (dw (2 ^ 32 + 10))
    let r := wCa.ca.headD default
    let drops := { wCa with ca := [{ r with drops := [0x102] }] }
    on.getLsbD 63 = true ∧ (free.sysGet 0 0x073).getLsbD 63 = false ∧ 11 ≤ (free.sysGet 0 0x063).toNat % 32 ∧ free.trust.regionKeys.contains (on.toNat / 2 ^ 40 % 256) = true ∧
    (less.sysGet 0 0x063).toNat % 32 < 11 ∧ wCa.caSlot 0 = some r ∧ wCa.stagingFull = false ∧ (wCa.sysGet 0 0x070).getLsbD 62 = false ∧ r.slot = 0 ∧ r.drops = [] ∧
    r.retryAt = 0 ∧ ((drops.caFind (drops.caEngine { r with drops := [0x102] }) 0x102).toOption.any Option.isSome) = true ∧
    ((wCa.caPage (wCa.caEngine r) (0x100000 + 4096)).toOption.any fun p => wCa.frameSt p.key != 3) = true ∧
    ((wCa.sysSet 0 0x070 (dw (2 ^ 63 + 2 ^ 62))).sysGet 0 0x070).getLsbD 62 = true := by decide +kernel

/-- A launch record of the one function, and a task of it that is held with `n` to come. -/
def launchOf (grid flags prio deps spad : Nat) : Launch :=
  { handle := 1, fidx := 0, grid := grid, nwave := 1, gang := 1, budget := 8, pwords := 0, flags := BitVec.ofNat 16 flags, spad := spad,
    prio := BitVec.ofNat 32 prio, estim := 1000, seed := 0, args := 0, arglen := 0, deps := BitVec.ofNat 32 deps, nreg := 0, nsucc := 0,
    regions := [0, 0, 0, 0], succs := [0, 0, 0, 0] }
def heldTask (e n : Nat) : Task := { w0.task with
  entry := e, seq := 8 + e, launch := launchOf 2 0 7 n 0, st := .held, count := BitVec.ofNat 32 n, succs := [], admitted := [], ended := 0,
   prio := 7, pceil := 7, estim := 1000, drainOn := [], aborted := none, handler := false, fired := 0, stallSent := false, sinceAdmit := 0 }
def wTask : State :=
  let s := issues 0x80000001 fun L n => [0x10000, (heldTask 1 2).handle.toNat, (heldTask 2 0).handle.toNat, 0x10001, 2, 3, 1, 0].getD n L
  let s := (List.range 8).foldl (fun s d => (s.dieSet d 0x03A (dw 0x40000000)).dieSet d 0x03B (dw 0x100000000)) s
  { s with tasks := s.tasks ++ [heldTask 1 2, heldTask 2 0], mem := writeBytes s.mem 0x200000 (launchOf 1 0 9 1 0).bytes, tkrec := (launchOf 1 0 9 1 0).bytes }
/-- A record that is well formed and one that is not (no workgroup); tasks that are held, armed with more to come, made ready, and not there. -/
theorem meets_TaskInstructions : Issuing wTask ∧ wTask.settled = true ∧ wTask.uniNat tyA64 (.val 0) % 128 = 0 ∧ wTask.uniNat tyA64 (.val 3) % 128 ≠ 0 ∧
    ((wTask.xlate (wTask.accOf wTask.wv .global true false) 0x10000).toOption.any fun p => !eFab p.leaf && !wTask.uncorr p.key &&
      let bs := ((wTask.l1Acquire wTask.gcore).touch (wTask.accOf wTask.wv .global true false) 0x10000 p).globalRead 6 p.key 128 .global
      wTask.launchOk bs && wTask.launchOk wTask.tkrec && !wTask.launchOk (launchOf 0 0 0 0 0).bytes) = true ∧ wTask.ckpt.on = false ∧
    (∀ k, k < 3 → ∃ x ∈ wTask.tasks, x.die = 0 ∧ x.entry = k) ∧ (∀ x ∈ wTask.tasks, x.entry ≠ 3) ∧
    wTask.openTask (heldTask 1 2).handle = true ∧ wTask.openTask 0 = false ∧ wTask.taskOf 0 = none ∧
    wTask.taskOf (heldTask 1 2).handle = some (heldTask 1 2) ∧ wTask.taskOf (heldTask 2 0).handle = some (heldTask 2 0) ∧
    (heldTask 1 2).st ≠ .done ∧ (heldTask 1 2).succs.length < 64 ∧ (heldTask 1 2).handle ≠ (heldTask 2 0).handle ∧
    (1 : Word).toNat < (heldTask 1 2).count.toNat ∧ (heldTask 1 2).count.toNat < (3 : Word).toNat ∧
    (∀ c ∈ wTask.pageCounts (heldTask 2 0).ctx (heldTask 2 0).launch, c = 0) ∧ (heldTask 2 0).die = 0 ∧ wTask.dieOrder 0 0 ≠ [] ∧
    1 ≤ wTask.task.launch.gang ∧ (wTask.dieAt 0).ok = true ∧ (Launch.ofBytes wTask.tkrec).deps ≠ 0 :=
  ⟨issuing_of (by decide +kernel) (by decide +kernel), by decide +kernel⟩
/-- A ready task that can be admitted. -/
def wReady (flags spad : Nat) : State := { wTask with tasks := wTask.tasks ++ [{ heldTask 4 0 with launch := launchOf 1 flags 9 0 spad, st := .ready, prio := 9 }] }
/-- A core that every workgroup of one task of PRIO 1 fills, as all of die 0 do. -/
def wFull (flags : Nat) : State :=
  let low := { heldTask 5 0 with launch := launchOf 80 flags 1 0 (512 * 1024), st := .running, prio := 1, admitted := List.range 80 }
  let s := wReady 0 (512 * 1024)
  { s with tasks := [low, (wReady 0 (512 * 1024)).tasks.getLastD default], waves := (List.range 80).map fun i => { w0.wv with core := i, wg := i, wbp := none },
           wgs := (List.range 80).map fun i => { w0.wg with core := i, num := i, task := low.handle, spadB := 512 * 1024, scoreStart := i } }
/-- A gang that the scan admits, one whose time to stall has come, and an idle cluster. -/
theorem meets_Placement :
    (((wReady 0 0).admissible 0).any fun x => !(wReady 0 0).gangSaved x.1 x.2.1 && ((wReady 0 0).admitRun x.1 x.2.1 0 x.2.2 true true).isSome) = true ∧
    (wTask.admissible 0 = none ∧ wTask.scanLacks 0 = none) ∧ (wTask.dieAt 0).bands.getD 0 0 ≤ 3 ∧ 0 < wTask.dies.length ∧
    (let s := { (wReady 0 0).dieSet 0 0x030 1 with cycle := 65537 }
     let x := s.tasks.getLastD default
     s.tasks[3]? = some x ∧ x.st = .ready ∧ x.stallSent = false ∧ (s.waitingGang x 0).isSome = true ∧ s.dieGet 0 0x030 ≠ 0 ∧
     x.sinceAdmit + (s.dieGet 0 0x030).toNat * 65536 < s.cycle) ∧
    (∀ g ∈ wTask.wgsOn 0, g.core / 4 ≠ 7) ∧ (wTask.dieAt 0).idle.getD 7 0 + (wTask.dieGet 0 0x034).toNat ≤ wTask.cycle + 2 ^ 40 := by decide +kernel
/-- A task that starves on a full die beside a victim that may drain, be saved or be killed. -/
theorem meets_Preemption :
    let s := wFull 0x1C0
    let x := s.tasks.getD 1 default
    let v := s.tasks.headD default
    s.tasks[1]? = some x ∧ (∀ y ∈ s.tasks, y.aborted = none ∧ y.drainOn = []) ∧ (∀ y ∈ s.wgs, y.st ≠ .saving ∧ y.st ≠ .killing) ∧
    (s.dieAt 0).preemptAt ≠ s.cycle + 1 ∧ s.starvedGang x 0 = some 0 ∧ s.victimRun x 0 0 = some 0 ∧ victimTask (s.runPrios x 0 0) = some v ∧
    v.launch.flags.getLsbD 6 = true ∧ v.launch.flags.getLsbD 7 = true ∧ v.launch.flags.getLsbD 8 = true ∧
    ¬x.prio.toNat < v.prio.toNat + (s.dieGet 0 0x031).toNat ∧ (∀ i ∈ (s.runPrios x 0 0).map Prod.snd, (s.gangOf i).all fun y => y.plan.isEmpty) := by decide +kernel

/-! ### Determinism, faults, system -/

/-- A merged task of one gang whose lanes wait at a dmerge, with one byte in the write set; and the same with a second workgroup whose byte differs. -/
def wMerge : State :=
  let s := { w2 with gangs := [{ (default : Gang) with task := w2.wg.task, num := w2.wg.gangNum w2.task }] }
  (s.updWave 0 fun w => { w with lanes := w.lanes.map fun l => { l with st := .parked, wait := .dmerge } }).updWg 0 fun g => { g with wset := [(0x200000, 0x107)] }
def wClash : State :=
  let s := wMerge.updTask w2.wg.task fun t => { t with launch := { t.launch with gang := 2, grid := 2 } }
  { s with wgs := s.wgs ++ s.wgs.map fun g => { g with num := 1, wset := [(0x200000, 0x109)] } }
theorem meets_Determinism : Issuing w0 ∧ ¬(w0.dmode = 2 ∨ w0.dmode = 3) ∧ Issuing w2 ∧ w2.dmode = 2 ∧ w2.settled = true ∧ w0.settled = true ∧
    (let v := wMerge.waveAt 0
     let x := wMerge.taskOfWg v.wg
     let g := (wMerge.wgAt v.wg).gangNum x
     0 < wMerge.waves.length ∧ wMerge.gangMembers x.handle g x.launch.gang = [0] ∧ 2 ≤ x.launch.dmode ∧ v.live = true ∧ v.faulted = false ∧
     (∀ l ∈ v.lanes, l.st = .parked ∧ l.wait = .dmerge) ∧ v.lanes ≠ [] ∧ wMerge.waves.length = 1 ∧
     (wMerge.gangs.find? fun y => y.task == x.handle && y.num == g).any (fun y => y.gset.isEmpty) = true ∧
     (cget (zeros 15) (wMerge.wgAt 0).wset 0x200000).getLsbD 8 = true) ∧
    (let v := wClash.waveAt 0
     let x := wClash.taskOfWg v.wg
     wClash.gangMembers x.handle ((wClash.wgAt v.wg).gangNum x) x.launch.gang = [0, 1] ∧
     (cget (zeros 15) (wClash.wgAt 0).wset 0x200000).getLsbD 8 = true ∧ (cget (zeros 15) (wClash.wgAt 1).wset 0x200000).getLsbD 8 = true ∧
     (cget (zeros 15) (wClash.wgAt 0).wset 0x200000).toNat % 256 ≠ (cget (zeros 15) (wClash.wgAt 1).wset 0x200000).toNat % 256 ∧ (wClash.wgAt 0).num ≤ (wClash.wgAt 1).num) :=
  ⟨w0_issuing, by decide +kernel, w2_issuing, by decide +kernel, by decide +kernel, by decide +kernel, by decide +kernel, by decide +kernel⟩

/-- A module whose function 1 has the signature of a continuation and whose descriptor stands at 0x10040, which is CONTFN; the wave has met a page fault. -/
def wCont : State :=
  let s : State := { w0 with
    modules := w0.modules.map fun m => { m with
      descBase := 0x10040, sigs := [contSig, contSig]
      funcs := m.funcs ++ m.funcs.map fun f => { f with sig := contSig, blocks := f.blocks.map fun b => { b with args := contSig.params, argBase := 0 } } }
    images := w0.images ++ w0.images.map fun i => { i with key := { i.key with func := 1 }, framew := 8, unit := 1 }
    mem := writeBytes w0.mem 0x200040 (bytesOfNat 4 descMagic ++ bytesOfNat 2 1 ++ bytesOfNat 2 1 ++ List.replicate 8 0) }
  s.updWave 0 fun w => { w with contfn := 0x10040, contarg := 77 }
def wAsked : State := wCont.fault (cause 0x20) wCont.issue.mask 0 0x90000
def wInCont : State := { wAsked.contStep 0 with issue := wAsked.issue }
def ringed (head : Nat) : State := ((w0.ctxSet 0 0x011 0x10000).ctxSet 0 0x012 4).ctxSet 0 0x013 (dw head)
theorem meets_TakingAFault : Issuing w0 ∧ w0.wv.contfn = 0 ∧ (∀ L, On w0 L → (w0.wv.lane L).st = .running) ∧
    Issuing wCont ∧ (cause 0x20).code = 0x20 ∧ wCont.wv.contfn ≠ 0 ∧ wCont.wv.incont = false ∧ wCont.wv.contAsk = none ∧ wCont.dmode % 2 = 0 ∧
    (let s := w0.fault (cause 0x23) w0.issue.mask 0 5
     0 < s.waves.length ∧ (s.waveAt 0).unsaved = true ∧ s.waveQuiet 0 = true) ∧
    (let v := wAsked.waveAt 0
     v.contAsk.any (fun x => x.1 == wCont.issue.mask) = true ∧ v.xfail = none ∧
     (wAsked.calleeAt v contSig v.contfn.toNat 2).toOption.any (fun c => decide (c = .func 1 1)) = true ∧
     (wAsked.freshImage v.die (wAsked.transKey v 1 1)).isSome = true ∧
     ∀ L, L < 32 → inMask wCont.issue.mask L = true → wAsked.callOver v (v.lane L) 1 1 false = false ∧ (v.lane L).frames.isEmpty = false ∧
       (wAsked.linkPlaces L).toOption.isSome = true) ∧
    w0.ringSize 0 = 0 ∧ (ringed 3).ringSize 0 ≠ 0 ∧ ((ringed 3).ctxGet 0 0x013 - (ringed 3).ctxGet 0 0x014).toNat ≠ (ringed 3).ringSize 0 ∧
    (ringed 3).ctxGet 0 0x016 = 0 ∧ ((ringed ((ringed 3).ringSize 0)).ctxGet 0 0x013 - 0).toNat = (ringed 3).ringSize 0 ∧
    ((ringed 3).devWalk 0 (((ringed 3).ctxGet 0 0x011).toNat + 64 * 3)).toOption.any (fun p => (ringed 3).frameSt (physKey p.home p.dpa) != 3) = true :=
  ⟨w0_issuing, by decide +kernel, on_of (by decide +kernel), issuing_of (by decide +kernel) (by decide +kernel), rfl, by decide +kernel, by decide +kernel,
    by decide +kernel, by decide +kernel, by decide +kernel, by decide +kernel, by decide +kernel, by decide +kernel, by decide +kernel, by decide +kernel,
    by decide +kernel, by decide +kernel⟩
/-- No breakpoint and one, an assertion that holds in both lanes and one that fails; a module and an image of it; a descriptor for ckpt. -/
theorem meets_SystemInstructions : Issuing w0 ∧ (w0.ctxGet w0.ctx 0x01B).getLsbD 0 = false ∧ ((w0.ctxSet 0 0x01B 1).ctxGet 0 0x01B).getLsbD 0 = true ∧
    (∀ L, On w0 L → ((w0.opnd tyB1 (.val 7) L).toNat % 2 = 1 ∧ (w0.opnd tyB1 (.val 2) L).toNat % 2 = 0)) ∧
    w0.settled = true ∧ w0.quiet = true ∧ w0.wv.tlbAfter = none ∧ w0.usesBefore w0.nextId = false ∧ w0.wv.pend = none ∧ w0.cut.st = 0 ∧ w0.ckpt.active = false ∧
    0x10000 % 64 = 0 ∧ 0x10001 % 64 ≠ 0 ∧ (w0.moduleOf 1).isSome = true ∧ w0.moduleOf 2 = none ∧ w0.images ≠ [] ∧ (w0.dieAt 0).ok = true ∧
    (let s := { w0 with mem := writeBytes w0.mem 0x200000 (bytesOfNat 8 0x10000 ++ bytesOfNat 8 (1024 * 2 ^ 20) ++ bytesOfNat 48 0) }
     (s.ctxRead s.ctx 0x10000 64).any (fun bs => natAt bs 0 8 % 65536 == 0 && natAt bs 8 8 % 65536 == 0 && decide (516 * 2 ^ 20 ≤ natAt bs 8 8) &&
       decide (natAt bs 24 1 ≤ 3) && natAt bs 25 39 == 0) = true) :=
  ⟨w0_issuing, by decide +kernel, by decide +kernel, on_of (by decide +kernel), by decide +kernel⟩
/-- The wave in its continuation, with CSIG set and not; and WSEL naming it, faulted and not. -/
theorem meets_ContinuationsAndResumption : Issuing w0 ∧ w0.wv.incont = false ∧ Issuing wInCont ∧ wInCont.wv.incont = true ∧ wInCont.wv.csig = false ∧
    (∀ L, On wInCont L → wInCont.wv.cmask.getLsbD L = true ∧ (((wInCont.wv.lane L).frames.head?).any fun f => f.cont) = true) ∧
    (∀ L, L < 32 → wInCont.wv.cmask.getLsbD L = true → inMask wInCont.issue.mask L = true) ∧ wInCont.wv.cmask ≠ 0 ∧
    (wInCont.updWave 0 fun w => { w with csig := true }).wv.csig = true ∧ w0.waveOf 0xFFFF = none ∧ w0.waveOf w0.wv.token = some 0 ∧ w0.settled = true ∧
    w0.wselWave 0 = none ∧
    (let s := ((w0.fault (cause 0x23) w0.issue.mask 0 5).ctxSet 0 0x019 w0.wv.token)
     s.wselWave 0 = some 0 ∧ (s.waveAt 0).faulted = true ∧ (s.waveAt 0).unsaved = true ∧ (s.finishFault 0 |>.waveAt 0).unsaved = false ∧
     (s.waveAt 0).wbp = none ∧ (s.wgAt (s.waveAt 0).wg).st = .resident) :=
  ⟨w0_issuing, by decide +kernel, issuing_of (by decide +kernel) (by decide +kernel), by decide +kernel, by decide +kernel, on_of (by decide +kernel),
    by decide +kernel⟩
/-- A grant below the reservation and one past it, a window of 64 KB and one of the size 2^15; a waiting record and a ring with room. -/
theorem meets_SystemRegisters : Issuing w0 ∧ w0.quiet = true ∧ w0.cut.st = 0 ∧ sysCodeListed 0x010 = true ∧ sysMask 0x010 ≠ 0 ∧ (72 : Nat) = sysCopy 71 63 0x010 ∧
    (w0.dieAt 0).ok = true ∧
    (dw (2 ^ 63)).getLsbD 63 = true ∧ (w0.dieGet 0 0x0B0).getLsbD 63 = false ∧
    ¬Config.reservation < ((w0.dieGet 0 0x0A0).toNat / 2 ^ 16 % 2 ^ 22 + (dw (2 ^ 63)).toNat % 2 ^ 22 + 1) * 65536 ∧
    Config.reservation < ((w0.dieGet 0 0x0A0).toNat / 2 ^ 16 % 2 ^ 22 + (dw (2 ^ 63 + 2 ^ 22 - 1)).toNat % 2 ^ 22 + 1) * 65536 ∧
    (let b := dw (2 ^ 16 + 16)
     16 ≤ b.toNat % 64 ∧ winBase b % 2 ^ (b.toNat % 64) = 0 ∧ winPair (dw (2 ^ 63 + 2 * 2 ^ 48 + Ty.code i32 * 64)) = true ∧ w0.windows = [] ∧
     (dw (2 ^ 16 + 15)).toNat % 64 < 16) ∧
    (let s := { ringed 3 with notices := [(0, default)] }
     s.notices.find? (fun q => q.1 == 0) = some (0, default) ∧ s.ringSize 0 ≠ 0 ∧ (s.ctxGet 0 0x013 - s.ctxGet 0 0x014).toNat ≠ s.ringSize 0 ∧ s.ctxGet 0 0x016 = 0) :=
  ⟨w0_issuing, by decide +kernel⟩

/-! ### Cuts, native operations, issue -/

def cutting (st : Nat) : State := { w0 with cut := { w0.cut with st := st } }
/-- A wave at a quiet bundle whose cut has not been reported, one that reaches KCUT, a cut that is held, and one whose limit has passed. -/
theorem meets_Cuts :
    (let s := cutting 1
     0 < s.waves.length ∧ s.cutCovers 0 = true ∧ (s.waveAt 0).faulted = false ∧ ((s.waveAt 0).lanes.any fun l => l.st == .running) = true ∧
     (s.waveAt 0).cutAt = none ∧ (s.quietAt 0).isSome = true ∧ s.waves.length = 1) ∧
    (let s := cutting 2
     (s.waveAt 0).cutStop = false ∧ (s.quietAt 0).any (fun c => decide (s.cut.kcut ≤ c)) = true ∧ s.waveQuiet 0 = true ∧ (s.waveAt 0).late = [] ∧
     (s.waveAt 0).pend = none ∧ (s.waveAt 0).unsaved = false) ∧
    (cutting 3).cut.st = 3 ∧
    (let s := { (cutting 1).sysSet 0 0x029 1 with cycle := 65536 }
     (s.sysGet 0 0x029).toNat % 2 ^ 16 * 65536 ≠ 0 ∧ s.cut.since + (s.sysGet 0 0x029).toNat % 2 ^ 16 * 65536 ≤ s.cycle) := by decide +kernel
/-- A workgroup that is being saved and is still, and one that waits for admission; a waiting write of a frame that is pending a copy; a capture in each of its
phases, and a restore whose manifest cannot be read. -/
def wHeld : State := { w0 with held := [{ (default : HeldWrite) with id := 3, key := 0x200010, bytes := [1, 2] }] }
def capture (phase st : Nat) : State := { cutting st with ckpt := { w0.ckpt with active := true, mode := 0, phase := phase } }
theorem meets_CheckpointsAndContexts :
    (let s := w0.updWg 0 fun g => { g with st := .saving }
     0 < s.wgs.length ∧ (s.wgAt 0).st = .saving ∧ s.gangStill 0 = true ∧ s.stagingFull = false) ∧
    (let s := { (wReady 0 0) with wgs := [{ w0.wg with st := .saved, task := ((wReady 0 0).tasks.getLastD default).handle, num := 0 }], waves := [] }
     (s.admissible 0).any (fun x => x.1.handle == (s.wgAt 0).task && (s.wgAt 0).gangNum x.1 == x.2.1 && decide (1 ≤ x.1.launch.gang)) = true ∧ (s.wgAt 0).st = .saved ∧
     ∀ e, e < 8 → e ≠ 0 → s.admissible e = none) ∧
    (wHeld.held.find? fun h => h.id == 3).isSome = true ∧ wHeld.hostQ = [] ∧ wHeld.copyPending (frameOf 0x200010) = false ∧ wHeld.frameSt 0x200010 ≠ 3 ∧
    0x200010 % 65536 + 2 ≤ 65536 ∧ (cget (zeros 6) wHeld.keyids (0x200010 / 128)).toNat = 0 ∧
    (capture 0 3).ckpt.active = true ∧ (capture 0 3).ckpt.mode = 0 ∧ (capture 0 3).ckpt.phase = 0 ∧ (capture 0 3).cut.st = 3 ∧ (capture 0 3).ckpt.base = 0 ∧
    (capture 1 3).ckpt.phase = 1 ∧ (capture 2 0).ckpt.phase = 2 ∧ (capture 2 0).ckpt.entries.length < recShard ∧
    (let s := { w0 with ckpt := { w0.ckpt with active := true, mode := 2, desc := 0x90000 } }
     s.ckpt.active = true ∧ s.ckpt.mode = 2 ∧ (s.manifestStatus (s.readManifest s.ckpt.ctx s.ckpt.desc.toNat)).isSome = true) := by decide +kernel
/-- Lanes whose frame words are mapped; registers of each class, two tiles, and words past the last. -/
def wWords : State := w1
theorem meets_NativeOperations : wWords.issue.wave < wWords.waves.length ∧ (∃ L, On wWords L) ∧ cwf (zeros 32) wWords.wv.tiles = true ∧
    wWords.tileBusy wWords.wv.token 0 = false ∧ wWords.tileBusy wWords.wv.token 1 = false ∧ (∀ e ∈ wWords.wv.tilePend, e.1 ≠ 1) ∧
    (∀ L, On wWords L → (wWords.framePlace 770 4 false true L).toOption.any (fun ws =>
      ws.length == 2 && !wWords.placeBad wordMod 4 (.words ws) && (ws.all fun a => a.2.key % 4 == 0) &&
      decide (((ws.getD 0 default).2.key) + 4 ≤ (ws.getD 1 default).2.key)) = true) ∧ wWords.ckpt.on = false ∧ wWords.l1 = [] ∧
    (∀ L, On (wWords.updWave 0 fun w => { w with lanes := w.lanes.map fun l => { l with fb := 16383 } }) L →
      16383 < (wWords.updWave 0 fun w => { w with lanes := w.lanes.map fun l => { l with fb := 16383 } }).frameWord 1 false L + 1 - 1) ∧
    wWords.wv.landings = [] ∧ wWords.wv.late = [] :=
  ⟨by decide +kernel, ⟨0, by decide, by decide +kernel⟩, by decide +kernel, by decide +kernel, by decide +kernel, by decide +kernel, on_of (by decide +kernel),
    by decide +kernel, by decide +kernel, on_of (by decide +kernel), by decide +kernel, by decide +kernel⟩
/-- A ready wave that has starved, one that is throttled, a group not offered for 64 issues; a wave without an image, a request that can end either way, and a wave that
stands at a migration point. -/
def wGone : State := { w0 with images := [] }
def wAsks : State := afterI (.translationMiss 0) wGone
theorem meets_IssueAndTranslation :
    (let s := w0.updWave 0 fun w => { w with starve := 64 }
     0 ∈ s.readyOn 0 0 ∧ 64 ≤ (s.waveAt 0).starve ∧ s.isOrdered 0 = false) ∧
    (w0.ranked 0).isEmpty = false ∧ w0.orderedGang 0 = none ∧ (∀ g ∈ w0.offers 0, w0.hasImage 0 g.1 = true) ∧ (w0.waveAt 0).evicted = false ∧
    wGone.mayIssue 0 = true ∧ (wGone.waveAt 0).xfail = none ∧ ((wGone.offers 0).find? fun g => !wGone.hasImage 0 g.1).isSome = true ∧ wGone.transReqs = [] ∧
    ((wAsks.transReqs.filter fun r => r.die == 0)[0]?).any (fun r => ((wAsks.moduleOf r.handle).isSome && (wAsks.funcOf r.handle r.key.func).isSome) &&
      (({ wAsks with transReqs := [] } : State).freeUnits 0 1).isSome) = true ∧
    (w0.migrationPoint 0).isNone = true := by decide +kernel

/-! ### Memory events, links, power, host -/

/-- One write on its way to die 1, whose line die 2 shares; denied where the frame is withdrawn; and one to another device. -/
def wMsg (st : MsgSt) (invs : List Nat) : State := { w0 with
  msgs := [{ (default : Msg) with id := 4, st := st, wave := w0.wv.token, home := 1, dpa := 0x210010, va := 0x20010, fx := .bytes [1, 2, 3, 4], invs := invs, cause := 0x27 }]
  shr := [(physKey 1 0x210010 / 128, 4)] }
theorem meets_MemoryEvents : w0.ckpt.on = false ∧ (w0.walk 0 0x10000).toOption.any (fun p => w0.frameSt p.ekey != 3) = true ∧ inLoaderWindow 0x10000 = false ∧
    (w0.walk 0 0x90000).toOption = none ∧ (w0.msgAt 4).isNone = true ∧
    (let s := wMsg .sent []
     (s.msgAt 4).any (fun m => m.st == .sent && m.tfdn.isNone && !s.frameDenies m.user (physKey m.home m.dpa) && !s.uncorr (physKey m.home m.dpa)) = true ∧
     (cget (zeros 8) s.shr (lineOf (physKey 1 0x210010))).getLsbD 2 = true) ∧
    (let s := wMsg .accepted [2]
     (s.msgAt 4).any (fun m => m.invs == [2]) = true) ∧
    (let s := wMsg .accepted []
     (s.msgAt 4).any (fun m => s.frameSt (physKey m.home m.dpa) != 3 && !s.heldOn (physKey m.home m.dpa) m.len && decide (m.fx = .bytes [1, 2, 3, 4])) = true ∧ s.msgs.length = 1) ∧
    (let s := wMsg .denied []
     (s.msgAt 4).any (fun m => m.cmd.isNone && s.waveOf m.wave == some 0) = true ∧ (s.waveAt 0).pend = none) ∧
    (({ w0 with rdcFills := [(2, 77, true)] } : State).rdcFills.find? fun f => f.1 == 2 && f.2.1 == 77) = some (2, 77, true) ∧
    ¬(∃ g ∈ w0.grants, g.1 = 0) ∧ (w0.dieAt 0).ok = true ∧ (w0.dieAt 0).withdrawn = false ∧ 0x200000 < Config.dieBytes := by decide +kernel
/-- A port with a message of each kind at its head, on a line that a grant covers; a request that waits for its number; flits of its replay buffer. -/
def linked (op : Nat) : State :=
  let s := { w0 with grants := [(0, 0, dw (0x200000), dw (2 ^ 63 + 2 ^ 62 + 2 ^ 61))] }
  s.updPort 0 fun x => { x with inbox := [{ (default : FabMsg) with op := op, ddie := 0, sfdn := 3, addr := 0x200010, etype := Ty.code i32, data := List.replicate 144 1 }],
                                replay := [{ (default : Flit) with kind := 1, seq := 5 }], failed := false, rxKeys := [0] }
theorem meets_FabricLinks : 0 < (linked 1).ports.length ∧ (linked 1).ckpt.on = false ∧ ((linked 1).portAt 0).inbox.length = 1 ∧
    (∀ op ∈ [1, 3, 4], ((linked op).portAt 0).inbox.map FabMsg.op = [op]) ∧ ((linked 1).dieAt 0).ok = true ∧ ((linked 1).dieAt 0).withdrawn = false ∧ 0x200000 < Config.dieBytes ∧
    (linked 1).inboundCause 0 3 false 0x200000 128 = 0 ∧ (linked 3).inboundCause 0 3 true 0x200000 128 = 0 ∧ (linked 4).inboundCause 0 3 true 0x200010 4 = 0 ∧
    ((linked 1).portAt 0).failed = false ∧ ((linked 1).portAt 0).resends < 16 ∧ ((linked 1).portAt 0).rollover = 0 ∧ ((linked 1).portAt 0).rxKeys.length < 2 ∧
    (w0.portAt 0).inbox = [] := by decide +kernel
/-- A window boundary, legal ratios, a line met three times before, a vault that has not failed, a session of the owner. -/
theorem meets_PowerAndTrust : 0 < w0.dies.length ∧ w0.cycle % 1024 = 0 ∧ (∀ k, k < 6 → 1 ≤ 0x888888 / 16 ^ k % 16 ∧ 0x888888 / 16 ^ k % 16 ≤ 8) ∧
    (let s := w0.setDie 0 fun d => { d with track := [(0, 0x200000, 3, 0)] }
     ((s.dieAt 0).track.find? fun e => e.1 == 0 && e.2.1 == 0x200000) = some (0, 0x200000, 3, 0) ∧ s.cycle - 0 < 2 ^ 24 ∧
     (s.dieAt 0).errHead - (s.dieAt 0).errTail ≠ 256) ∧ ¬5 ∈ (w0.dieAt 0).badVaults ∧ (w0.dieAt 0).ok = true ∧
    (let s := { w0 with trust := { w0.trust with sessions := [{ (default : Session) with id := 2, established := true, mutualAuth := true }] } }
     (s.trust.sessions.find? fun x => x.id == 2).any (fun x => x.established && x.mutualAuth) = true ∧ s.trust.sessions.length < 4) := by decide +kernel
/-- Registers of the management window, a page that a context maps, and requests of each kind at the head of the loader's queue. -/
theorem meets_HostAndLoader : (w0.dieAt 0).ok = true ∧ w0.held = [] ∧ w0.hostQ = [] ∧ w0.tkrec.length = 128 ∧ w0.ckpt.on = false ∧
    (w0.devPlace w0.hwctx 0x10000 true).toOption.isSome = true ∧ (w0.devPlace w0.hwctx 0x10000 false).toOption.isSome = true ∧
    (w0.devPlace w0.hwctx 0x90000 true).toOption.isNone = true ∧ 0x10000 % 65536 + 8 ≤ 65536 ∧ wHeld.held ≠ [] ∧
    (w0.moduleOf 1).any (fun m => m.loads != 0) = true ∧ w0.moduleOf 9 = none ∧ (63 : Nat) < 64 ∧
    (({ w0 with loads := [] } : State).loadImage 0 0x10000 64).any (fun img => img.length == 64 && natAt img 0 4 != 0x58445844) = true ∧
    (({ w0 with loads := [] } : State).loadImage 0 0x90000 64).isNone = true ∧ w0.waveOf 0xFFFF = none ∧
    (let s : State := { w0 with tasks := [], wgs := [], waves := [], modules := w0.modules.map fun m => { m with loads := 0 } }
     (s.moduleOf 1).any (fun m => m.loads == 0 && !s.taskRefers m && !s.linkRefers m) = true) := by decide +kernel
/-- The lazy entry that a lane waits for. -/
def wResolve : State :=
  let s := w0.updWave 0 fun w => { w with lanes := w.lanes.mapIdx fun L l => if L = 0 then { l with st := .parked, wait := .resolve 1 0 } else l }
  { s with modules := s.modules.map fun m => { m with links := [{ sym := [], from_ := none, sig := some contSig, lazy := true }] }
           loads := [.resolve s.wv.token 1 0] }
theorem meets_LazyResolution : wResolve.loads = [.resolve wResolve.wv.token 1 0] ∧ wResolve.waveOf wResolve.wv.token = some 0 ∧
    (wResolve.moduleOf 1).any (fun m => (m.links[0]?).isSome) = true ∧ (wResolve.wv.lane 0).wait = .resolve 1 0 := by decide +kernel

/-! ### The machine -/

def wFetch : State := State.reset.withFetchWord 32 0xB0C80000
theorem meets_StepKeepsMemoryCanonical : State.canonical wFetch ∧ (match step wFetch with | .next _ => true | _ => false) = true :=
  ⟨by unfold State.canonical; decide +kernel, by decide +kernel⟩
theorem meets_ProgramsLeaveThePackage : toRaw (.taskid) ≠ none ∧ (match exec .taskid w0 with | .next _ => true | _ => false) = true :=
  ⟨by decide, by decide +kernel⟩
/-- A branch with one argument, to a block that takes one. -/
theorem meets_DecodeAndEncodeAgree : Instr.portableWf (.br { blk := 1, args := [.val 3] }) = true ∧ (toRaw (.br { blk := 1, args := [.val 3] })).isSome = true ∧
    (toRaw (.br { blk := 1, args := [.val 3] })).any (fun r => r.ops.all fun o => match o with | .blk b => b.args.length == 1 | _ => true) = true := by decide +kernel
/-- A legal bundle of the one wave of a machine that is about to issue, and the word of its instruction. -/
def wStep : State := { State.reset.withFetchWord 32 0xB0C80000 with agenda := [] }
theorem meets_StepRunsDecoded : wStep.power = true ∧ wStep.agenda = [] ∧ wStep.overfull = none ∧ wStep.spans = [] ∧ wStep.gangs.find? wStep.frameReady = none ∧
    wStep.candidates.map Prod.fst = [0] ∧ toRaw (.droopDetect 0) = none ∧ Instr.isNative (.droopDetect 0) = false ∧ (toRaw .taskid).isSome = true ∧
    (wStep.candidates.head?).any (fun c =>
      let l := c.2.1
      let u := wStep.beforeBundle c.1 c.2
      !u.2 && ((u.1.locImage (u.1.waveAt c.1) l).any fun (x : TransImage) => x.code.isEmpty && (x.plan[l.bun]?).any fun b =>
        u.1.bundleLegal c.1 c.2.2 x default && !u.1.stampBad c.1 c.2.2 x default && (u.1.bufferFull c.1 c.2 b).isNone && b.bare.isEmpty && b.only.isNone && b.ops.length == 1 &&
        (u.1.waveAt c.1).lanes.length == 32)) = true := by decide +kernel

end Sys2Proof.Tests
end

section
/-! The state after reset (01_machine.md R13, R18, 18_power_package_trust.md R474, R478): what each of its dies holds. -/
namespace Sys2Proof.Machine
open Sys2Proof Sys2Proof.Safety

/-- Every die of the package leaves reset alike, and so does the stand-in for a die that the package has not. -/
theorem reset_dieAt (d : Nat) : State.reset.dieAt d = DieSt.reset := by
  show (List.replicate 8 DieSt.reset).getD d DieSt.reset = DieSt.reset
  simp only [List.getD_eq_getElem?_getD, List.getElem?_replicate]
  split <;> rfl

theorem reset_ftOf (d core : Nat) : State.reset.ftOf d core = (0, 0x888888) := by
  rw [State.ftOf, reset_dieAt]
  rfl

theorem reset_ftReg (d core : Nat) : State.reset.ftReg d core = 0x888888000000 := by
  rw [State.ftReg, reset_ftOf]
  decide

theorem reset_dieId {d : Nat} (h : d < 8) : (State.reset.dieGet d 0x000).toNat = 2 ^ 16 + (if d < 6 then 1 else 2) * 2 ^ 8 + d := by
  interval_cases d <;> decide

theorem reset_frameVal (f : Nat) : State.reset.frameVal f = 0 := by
  rw [State.frameVal, reset_dieAt]
  rfl

/-- Settles O54: the fields of the reset state, with those of its dies through `reset_dieAt`. -/
theorem resetState : Obligations.ResetState := by
  refine ⟨rfl, rfl, rfl, rfl, rfl, rfl, rfl, rfl, rfl, fun d hd => ?_, rfl, by decide, by decide, by decide, reset_frameVal, fun _ => rfl⟩
  rw [reset_dieAt]
  exact ⟨rfl, rfl, rfl, reset_dieId hd, fun core _ => reset_ftReg d core⟩

end Sys2Proof.Machine
end

section
/-! Lengths of what the algorithms of the manual give (18_power_package_trust.md R482): digests, round keys, decrypted lines. -/
namespace Sys2Proof.Machine
open Sys2Proof Sys2Proof.Safety

/-! ## Digests -/

theorem bigBytes_length (n v : Nat) : (bigBytes n v).length = n := by
  rw [bigBytes, List.length_reverse, bytesOfNat_length]

theorem shaRound_length {v : List Nat} (kw : Nat) (h : v.length = 8) : (shaRound v kw).length = 8 := by
  unfold shaRound
  split
  · rfl
  · exact h

theorem shaRounds_length (ks ws : List Nat) {v : List Nat} (h : v.length = 8) : (shaRounds ks ws v).length = 8 := by
  induction ks generalizing ws v with
  | nil => exact h
  | cons k ks ih => exact ih _ (shaRound_length _ h)

theorem shaBlock_length {h : List Nat} (block : List Byte) (hl : h.length = 8) : (shaBlock h block).length = 8 := by
  rw [shaBlock, List.length_zipWith, List.length_reverse, shaRounds_length _ _ (by rw [List.length_reverse, hl]), hl, Nat.min_self]

theorem shaInit_length : shaInit.length = 8 := by decide +kernel

theorem length_flatMap_const {α β : Type} (f : α → List β) {n : Nat} (hf : ∀ a, (f a).length = n) (l : List α) :
    (l.flatMap f).length = l.length * n := by
  rw [List.length_flatMap, List.map_congr_left (g := fun _ => n) fun a _ => hf a, List.map_const', List.sum_replicate, smul_eq_mul]

theorem sha512_length (msg : List Byte) : (sha512 msg).length = 64 := by
  unfold sha512
  rw [length_flatMap_const _ (bigBytes_length 8),
    List.foldlRecOn (motive := fun h => List.length h = 8) _ _ shaInit_length fun _ hl b _ => shaBlock_length b hl]

theorem hmac512_length (key msg : List Byte) : (hmac512 key msg).length = 64 := sha512_length _

/-! ## Round keys -/

theorem chunks_length_of_mem {n k : Nat} {bs c : List Nat} (h : n * k ≤ bs.length) (hc : c ∈ chunks n k bs) : c.length = n := by
  induction k generalizing bs with
  | zero => simp [chunks] at hc
  | succ k ih =>
    rw [Nat.mul_succ] at h
    rw [chunks, List.mem_cons] at hc
    rcases hc with rfl | hc
    · rw [List.length_take]; omega
    · exact ih (by rw [List.length_drop]; omega) hc

theorem chunks_length (n k : Nat) (bs : List Nat) : (chunks n k bs).length = k := by
  induction k generalizing bs with
  | zero => rfl
  | succ k ih => rw [chunks, List.length_cons, ih]

theorem getD_length_of_forall {ws : List (List Nat)} {n i : Nat} (h : ∀ w ∈ ws, w.length = n) (hi : i < ws.length) :
    (ws.getD i []).length = n := by
  rw [List.getD_eq_getElem _ _ hi]
  exact h _ (List.getElem_mem hi)

/-- What the key expansion makes of word `i - 1` before it meets word `i - 8`. -/
def aesMix (i : Nat) (t : List Nat) : List Nat :=
  if i % 8 = 0 then
    let r := (t.drop 1 ++ t.take 1).map sbox
    (r.headD 0 ^^^ 2 ^ (i / 8 - 1)) :: r.tail
  else if i % 8 = 4 then t.map sbox else t

theorem aesWords_succ (n i : Nat) (ws : List (List Nat)) :
    aesWords (n + 1) i ws = aesWords n (i + 1) (ws ++ [List.zipWith (· ^^^ ·) (ws.getD (i - 8) []) (aesMix i (ws.getD (i - 1) []))]) := rfl

theorem aesMix_length (i : Nat) {t : List Nat} (h : t.length = 4) : (aesMix i t).length = 4 := by
  unfold aesMix
  split
  · simp [h]
  · split <;> simp [h]

/-- The key expansion appends words of 4 bytes: each is made of the word before it and of the eighth before it. -/
theorem aesWords_shape {n i : Nat} {ws : List (List Nat)} (hi : 8 ≤ i) (hl : ws.length = i) (hw : ∀ w ∈ ws, w.length = 4) :
    (aesWords n i ws).length = i + n ∧ ∀ w ∈ aesWords n i ws, w.length = 4 := by
  induction n generalizing i ws with
  | zero => exact ⟨hl, hw⟩
  | succ n ih =>
    have hmix := aesMix_length i (getD_length_of_forall hw (i := i - 1) (by omega))
    have h8 := getD_length_of_forall hw (i := i - 8) (by omega)
    have hnew : (List.zipWith (· ^^^ ·) (ws.getD (i - 8) []) (aesMix i (ws.getD (i - 1) []))).length = 4 := by
      rw [List.length_zipWith, hmix, h8, Nat.min_self]
    rw [aesWords_succ, ← Nat.add_assoc, Nat.add_right_comm]
    refine ih (by omega) (by rw [List.length_append, hl, List.length_singleton]) fun w hmem => ?_
    rw [List.mem_append, List.mem_singleton] at hmem
    obtain hmem | rfl := hmem
    · exact hw w hmem
    · exact hnew

theorem aesKeys_length_of_mem {key k : List Nat} (h : key.length = 32) (hk : k ∈ aesKeys key) : k.length = 16 := by
  obtain ⟨hlen, hw⟩ := aesWords_shape (n := 52) (i := 8) (ws := chunks 4 8 key) (le_refl _) (chunks_length _ _ _)
    fun w hm => chunks_length_of_mem (by omega) hm
  have hflat : (aesWords 52 8 (chunks 4 8 key)).flatten.length = 16 * 15 := by
    rw [List.length_flatten, List.map_congr_left (g := fun _ => 4) hw, List.map_const', List.sum_replicate, hlen]
    rfl
  exact chunks_length_of_mem hflat.ge hk

/-! ## Blocks and lines -/

theorem aesDecRounds_length {st : List Nat} {ks : List (List Nat)} (hst : st.length = 16) (hk : ∀ k ∈ ks, k.length = 16) :
    (aesDecRounds st ks).length = 16 := by
  induction ks generalizing st with
  | nil => exact hst
  | cons k ks ih =>
    cases ks with
    | nil => simp [aesDecRounds, addKey, hst, hk k]
    | cons k' ks => exact ih (by simp [shiftRowsInv]) fun x hx => hk x (List.mem_cons_of_mem _ hx)

theorem aesDec_length {keys : List (List Nat)} (hk : ∀ k ∈ keys, k.length = 16) (st : List Nat) : (aesDec keys st).length = 16 :=
  aesDecRounds_length (by simp [shiftRowsInv]) fun k h => hk k (List.mem_reverse.1 (List.mem_of_mem_tail h))

theorem xtsBlocks_length {f : List Nat → List Nat} (hf : ∀ st, (f st).length = 16) (n t : Nat) (bs : List Nat) :
    (xtsBlocks f n t bs).length = 16 * n := by
  induction n generalizing t bs with
  | zero => rfl
  | succ n ih =>
    rw [xtsBlocks, List.length_append, ih, addKey, List.length_zipWith, hf, List.length_map, bytesOfNat_length]
    omega

/-- A stored line of any length decrypts to a line of 128 bytes. -/
theorem xtsDec_length {key : List Byte} (h : key.length = 64) (unit : Nat) (line : List Byte) :
    (xtsDec (xtsKeys key) unit line).length = 128 := by
  rw [xtsDec, bytesOf, List.length_map, xtsBlocks_length]
  exact aesDec_length fun k => aesKeys_length_of_mem (by simp [natsOf, h])

end Sys2Proof.Machine
end

section
/-! Lines that an access meets under the key ID of its page (01_machine.md R22, 08_memory.md R235, 18_power_package_trust.md R482). -/
namespace Sys2Proof.Machine
open Sys2Proof Sys2Proof.Safety

/-! ## Runs of bytes -/

theorem readBytes_length (m : Cells 8) (k n : Nat) : (readBytes m k n).length = n := by
  induction n generalizing k with
  | zero => rfl
  | succ n ih => rw [readBytes, List.length_cons, ih]

theorem readBytes_congr {m m' : Cells 8} {k n : Nat} (h : ∀ a, inRun k n a → cget memDflt m a = cget memDflt m' a) :
    readBytes m k n = readBytes m' k n := by
  induction n generalizing k with
  | zero => rfl
  | succ n ih =>
    rw [readBytes, readBytes, h k ⟨le_refl _, by omega⟩, ih fun a ha => h a ⟨by have := ha.1; omega, by have := ha.2; omega⟩]

/-- A write of one line leaves the bytes of every other line. -/
theorem readBytes_writeBytes_line (m : Cells 8) {l j : Nat} {bs : List Byte} (hb : bs.length = 128) (h : l ≠ j) :
    readBytes (writeBytes m (128 * j) bs) (128 * l) 128 = readBytes m (128 * l) 128 :=
  readBytes_congr fun a ha => cget_writeBytes_other m _ bs (by obtain ⟨h1, h2⟩ := ha; omega)

/-! ## One line -/

theorem State.memKey_length (s : State) (k : Nat) : (s.memKey k).length = 64 := hmac512_length _ _

theorem State.lineUnder_length (s : State) (l k : Nat) : (s.lineUnder l k).length = 128 := by
  unfold State.lineUnder
  dsimp only
  split
  · exact readBytes_length _ _ _
  · exact xtsDec_length (s.memKey_length k) _ _

theorem State.lineUnder_same {s : State} {l k : Nat} (h : (cget (zeros 6) s.keyids l).toNat = k) :
    s.lineUnder l k = readBytes s.mem (128 * l) 128 := by
  rw [State.lineUnder, if_pos h, Nat.mul_comm]

theorem State.lineUnder_other {s : State} {l k : Nat} (h : (cget (zeros 6) s.keyids l).toNat ≠ k) :
    s.lineUnder l k = xtsDec (xtsKeys (s.memKey k)) (128 * l)
      (xtsEnc (xtsKeys (s.memKey (cget (zeros 6) s.keyids l).toNat)) (128 * l) (readBytes s.mem (128 * l) 128)) := by
  rw [State.lineUnder, if_neg h, Nat.mul_comm]

/-- Line `l` reads the same in two states, and stands there under the same key ID. -/
def SameLine (s t : State) (l : Nat) : Prop :=
  readBytes t.mem (128 * l) 128 = readBytes s.mem (128 * l) 128 ∧ cget (zeros 6) t.keyids l = cget (zeros 6) s.keyids l

theorem SameLine.lineUnder {s t : State} {l : Nat} (h : SameLine s t l) (ht : t.trust = s.trust) (k : Nat) :
    t.lineUnder l k = s.lineUnder l k := by
  obtain ⟨hb, hk⟩ := h
  rw [Nat.mul_comm] at hb
  simp only [State.lineUnder, State.memKey, hb, hk, ht]

theorem lineOf_line (l : Nat) : lineOf (l * 128) = l := Nat.mul_div_cancel l (by omega)

theorem State.viewAs_same {s : State} {l k : Nat} (h : (cget (zeros 6) s.keyids l).toNat = k) : s.viewAs (l * 128) k = s := by
  rw [State.viewAs, lineOf_line, if_pos h]

theorem State.viewAs_other {s : State} {l k : Nat} (h : (cget (zeros 6) s.keyids l).toNat ≠ k) : s.viewAs (l * 128) k =
    { s with keyids := cset (zeros 6) s.keyids l (BitVec.ofNat 6 k), mem := writeBytes s.mem (128 * l) (s.lineUnder l k) } := by
  rw [State.viewAs, lineOf_line, if_neg h, Nat.mul_comm]

/-! ## Consecutive lines -/

/-- `t` is `s` after lines `a` to `a + n - 1` have been met under key ID `k`. -/
structure Met (s t : State) (a n k : Nat) : Prop where
  rest : t = { s with mem := t.mem, keyids := t.keyids }
  off : ∀ l, ¬(a ≤ l ∧ l < a + n) → SameLine s t l
  on : ∀ l, a ≤ l → l < a + n → readBytes t.mem (128 * l) 128 = s.lineUnder l k ∧ (cget (zeros 6) t.keyids l).toNat = k
  wf : Memory.wf s.mem → Memory.wf t.mem
  none : (∀ l, a ≤ l → l < a + n → (cget (zeros 6) s.keyids l).toNat = k) → t = s

theorem Met.refl (s : State) (a k : Nat) : Met s s a 0 k :=
  ⟨rfl, fun _ _ => ⟨rfl, rfl⟩, fun _ _ _ => by omega, id, fun _ => rfl⟩

/-- One line is met. -/
theorem State.viewAs_met (s : State) (l : Nat) {k : Nat} (hk : k < 64) : Met s (s.viewAs (l * 128) k) l 1 k := by
  by_cases hs : (cget (zeros 6) s.keyids l).toNat = k
  · rw [State.viewAs_same hs]
    refine ⟨rfl, fun _ _ => ⟨rfl, rfl⟩, fun j h1 h2 => ?_, id, fun _ => rfl⟩
    obtain rfl : l = j := by omega
    exact ⟨(State.lineUnder_same hs).symm, hs⟩
  · rw [State.viewAs_other hs]
    have hlen := s.lineUnder_length l k
    refine ⟨rfl, fun j hj => ?_, fun j h1 h2 => ?_, writeBytes_cwf, fun hall => absurd (hall l (le_refl l) (by omega)) hs⟩
    · exact ⟨readBytes_writeBytes_line _ hlen (by omega), cget_cset_other _ _ (by omega)⟩
    · obtain rfl : l = j := by omega
      have hread := readBytes_writeBytes s.mem (128 * l) (s.lineUnder l k)
      rw [hlen] at hread
      exact ⟨hread, by rw [cget_cset_same, BitVec.toNat_ofNat, Nat.mod_eq_of_lt hk]⟩

/-- One more line is met. -/
theorem Met.succ {s t u : State} {a n k : Nat} (h : Met s t a n k) (g : Met t u (a + n) 1 k) : Met s u a (n + 1) k := by
  have hnew : SameLine s t (a + n) := h.off (a + n) (by omega)
  have htrust : t.trust = s.trust := by rw [h.rest]
  refine ⟨by rw [g.rest, h.rest], fun l hl => ?_, fun l h1 h2 => ?_, fun hw => g.wf (h.wf hw), fun hall => ?_⟩
  · obtain ⟨hb, hkey⟩ := h.off l (by omega)
    obtain ⟨gb, gkey⟩ := g.off l (by omega)
    exact ⟨gb.trans hb, gkey.trans hkey⟩
  · by_cases hlt : l < a + n
    · obtain ⟨hb, hkey⟩ := h.on l h1 hlt
      obtain ⟨gb, gkey⟩ := g.off l (by omega)
      exact ⟨gb.trans hb, by rw [gkey, hkey]⟩
    · obtain rfl : a + n = l := by omega
      obtain ⟨gb, gkey⟩ := g.on (a + n) (le_refl _) (by omega)
      exact ⟨gb.trans (hnew.lineUnder htrust k), gkey⟩
  · obtain rfl := h.none fun l h1 h2 => hall l h1 (by omega)
    exact g.none fun l h1 h2 => hall l (by omega) (by omega)

theorem foldl_viewAs_met (s : State) (a n : Nat) {k : Nat} (hk : k < 64) :
    Met s ((List.range n).foldl (fun s j => s.viewAs ((a + j) * 128) k) s) a n k := by
  induction n with
  | zero => exact Met.refl s a k
  | succ n ih =>
    rw [List.range_succ, List.foldl_append]
    exact ih.succ (State.viewAs_met _ _ hk)

/-- An access of `n` bytes from a key on meets their lines. -/
theorem State.meetKey_met (s : State) (key n : Nat) {k : Nat} (hk : k < 64) :
    Met s (s.meetKey key n k) (key / 128) ((key + n - 1) / 128 + 1 - key / 128) k := by
  unfold State.meetKey
  split
  · rename_i h
    obtain ⟨rfl, hnil⟩ := h
    have hzero : ∀ l, (cget (zeros 6) s.keyids l).toNat = 0 := fun l => by rw [hnil]; rfl
    exact ⟨rfl, fun _ _ => ⟨rfl, rfl⟩, fun l _ _ => ⟨(State.lineUnder_same (hzero l)).symm, hzero l⟩, id, fun _ => rfl⟩
  · exact foldl_viewAs_met s _ _ hk

theorem eKeyid_lt (e : Dword) : eKeyid e < 64 := Nat.mod_lt _ (by decide)

/-- The key ID of a frame of another device is ignored (R242). -/
theorem State.meet_fabric {s : State} {p : Phys} (n : Nat) (h : eFab p.leaf = true) : s.meet p n = s := if_pos h

/-- An access at a place of this device meets its lines under the key ID of the page. -/
theorem State.meet_met {s : State} {p : Phys} (n : Nat) (h : eFab p.leaf = false) :
    Met s (s.meet p n) (p.key / 128) ((p.key + n - 1) / 128 + 1 - p.key / 128) (eKeyid p.leaf) := by
  rw [State.meet, h, if_neg Bool.false_ne_true]
  exact s.meetKey_met _ _ (eKeyid_lt _)

/-- Settles O23: a page of another device is met as it stands; on this device the lines of the access are met one after another (`Met`). -/
theorem keyIds : Obligations.KeyIds := by
  intro s p n hn
  dsimp only
  cases hf : eFab p.leaf with
  | true =>
    rw [State.meet_fabric n hf]
    exact ⟨fun _ => rfl, .inl hf, rfl, fun _ _ => ⟨rfl, rfl⟩, fun _ _ _ => rfl, fun _ hl => absurd hl.1 Bool.noConfusion,
      congrArg (fun t : State => readBytes t.mem p.key n) (State.meet_fabric n hf), id⟩
  | false =>
    have hm := s.meet_met n hf
    refine ⟨fun hs => ?_, .inr fun l h1 h2 => (hm.on l h1 (by omega)).2, hm.rest, fun l hl => ?_, fun l hl ho => ?_, fun l hl ho => ?_, rfl, hm.wf⟩
    · have hall := hs.resolve_left (by simp [hf])
      exact hm.none fun l h1 h2 => hall l h1 (by omega)
    · exact hm.off l fun h => hl ⟨rfl, h.1, by omega⟩
    · obtain ⟨-, h1, h2⟩ := hl
      rw [(hm.on l h1 (by omega)).1, State.lineUnder_same ho]
    · obtain ⟨-, h1, h2⟩ := hl
      rw [(hm.on l h1 (by omega)).1, State.lineUnder_other ho]
      rfl

end Sys2Proof.Machine
end

section
/-! A lazy import whose linkage entry lies in a retired frame (04_control.md R148, 01_machine.md R36, 08_memory.md R241). -/
namespace Sys2Proof.Machine
open Sys2Proof Sys2Proof.Safety

/-- Lanes that run again, and a request that has left the queue, leave the linkage entries as they were. -/
theorem State.wakeResolve_linkEntry (s : State) (wi h e k i : Nat) : (s.wakeResolve wi h e).linkEntry k i = s.linkEntry k i := rfl
theorem State.linkEntry_loads (s : State) (q : List LoadReq) (k i : Nat) : ({ s with loads := q } : State).linkEntry k i = s.linkEntry k i := rfl

/-- A retired frame takes no write. -/
theorem State.homeWrite_retired {s : State} {k : Nat} (h : s.frameSt k = 3) (bs : List Byte) : s.homeWrite k bs = s := if_pos h

/-- While every line stands under key ID 0, a lazy import that is found but whose linkage entry lies in a retired frame binds nothing: the lanes run
again, and nothing else has changed. -/
theorem State.serveResolve_retired {s : State} {wi h e a : Nat} {m : Module} {l : LinkInfo} (hm : s.moduleOf h = some m) (hl : m.links[e]? = some l)
    (hstub : s.linkEntry h e = m.stubVa e) (himp : s.findImport l = some (.ok a)) (hkeys : s.keyids = []) (hret : s.frameSt (m.linkKey e) = 3) :
    s.serveResolve wi h e = s.wakeResolve wi h e := by
  have hmeet : s.meetKey (m.linkKey e) 8 0 = s := if_pos ⟨rfl, hkeys⟩
  simp only [State.serveResolve, hm, hl, hstub, himp, ne_eq, not_true_eq_false, if_false]
  show ((s.meetKey (m.linkKey e) 8 0).homeWrite (m.linkKey e) (bytesOfNat 8 a)).wakeResolve wi h e = _
  rw [hmeet, State.homeWrite_retired hret]

def lazyImport : LinkInfo := { sym := [], from_ := none, sig := none, lazy := true }

/-- A module with one lazy import and one exported data section, which is what the import finds. -/
def lazyImporter : Module :=
  { (default : Module) with
    handle := 1, loads := 1, descBase := 0x10000000000, linkBase := 0x10000010000, links := [lazyImport]
    datas := [{ name := [], writable := false, exported := true, addr := 0x10000020000, size := 8 }] }

/-- The frame of its linkage table is retired, and the lanes of one wave wait for the entry, which holds the address of its stub. -/
def retiredLink : State :=
  { State.reset with
    modules := [lazyImporter], loads := [.resolve 0 1 0]
    mem := writeBytes [] (lazyImporter.linkKey 0) (bytesOfNat 8 (lazyImporter.stubVa 0))
    frames := [(frameOf (lazyImporter.linkKey 0), 3)]
    waves := [{ (default : Wave) with
      live := true, lanes := List.replicate 32 { (default : Lane) with st := .parked, wait := .resolve 1 0 } }] }

theorem retiredLink_holds_stub : retiredLink.linkEntry 1 0 = lazyImporter.stubVa 0 := by decide +kernel

/-- What the loader makes of the request: the queue is empty, the lanes run, and the entry is as it was. -/
theorem lazyResolve_retiredLink : exec .lazyResolve retiredLink = .next (({ retiredLink with loads := [] } : State).wakeResolve 0 1 0) :=
  congrArg Host.Outcome.next <| State.serveResolve_retired (s := { retiredLink with loads := [] }) (wi := 0) (h := 1) (e := 0) (m := lazyImporter)
    (l := lazyImport) (a := 0x10000020000) rfl rfl ((State.linkEntry_loads _ _ _ _).trans retiredLink_holds_stub) rfl rfl (by decide +kernel)

/-- Refutes O53: nothing in it keeps the frame of a linkage entry from being retired (state 3 of the frame table, R241). The write of the resolved
address is then dropped, and the entry still holds its stub when the lanes run again. -/
theorem not_hostAndLoader : ¬ Obligations.HostAndLoader := by
  intro h
  obtain ⟨-, -, -, -, -, -, hserve, -⟩ := h retiredLink
  obtain ⟨-, -, hresolve⟩ := hserve [] rfl rfl
  obtain ⟨-, hlane⟩ := hresolve 0 1 0 rfl
  obtain ⟨-, hfound, -⟩ := hlane 0 lazyImporter lazyImport 0x10000020000 rfl rfl rfl ⟨0, by decide, rfl⟩
  obtain ⟨t, ht, -, hbound, -⟩ := hfound retiredLink_holds_stub rfl
  rw [lazyResolve_retiredLink] at ht
  cases ht
  rw [State.wakeResolve_linkEntry, State.linkEntry_loads, retiredLink_holds_stub] at hbound
  exact absurd hbound (by decide)

end Sys2Proof.Machine
end

section
/-! Dies, power windows and droop (01_machine.md R18, 18_power_package_trust.md R467, R472-R475). -/
namespace Sys2Proof.Machine
open Sys2Proof Sys2Proof.Safety

/-! ## One die -/

theorem State.setDie_dieAt (s : State) {d : Nat} (f : DieSt → DieSt) (h : d < s.dies.length) : (s.setDie d f).dieAt d = f (s.dieAt d) :=
  updAt_getD_same s.dies d f _ h

theorem State.setDie_dieAt_other (s : State) {d e : Nat} (f : DieSt → DieSt) (h : e ≠ d) : (s.setDie d f).dieAt e = s.dieAt e :=
  updAt_getD_other s.dies d e f _ h

@[simp] theorem State.setDie_dies_length (s : State) (d : Nat) (f : DieSt → DieSt) : (s.setDie d f).dies.length = s.dies.length :=
  updAt_length s.dies d f

/-! ## FTCORE (R467, R472, R474) -/

theorem State.ftReg_toNat (s : State) (d core : Nat) :
    (s.ftReg d core).toNat = (s.ftOf d core).1.toNat * 2 ^ 48 + (s.ftOf d core).2.toNat * 2 ^ 24 := by
  have h1 := (s.ftOf d core).1.isLt
  have h2 := (s.ftOf d core).2.isLt
  rw [State.ftReg, dw, BitVec.toNat_ofNat, Nat.mod_eq_of_lt (by omega)]

theorem State.ftReg_mask (s : State) (d core : Nat) : bits (s.ftReg d core) 48 6 = (s.ftOf d core).1.toNat := by
  have h1 := (s.ftOf d core).1.isLt
  have h2 := (s.ftOf d core).2.isLt
  rw [bits, s.ftReg_toNat]
  omega

/-- Numerator `k` of a core's slice ratios. -/
def nibble (r : BitVec 24) (k : Nat) : Nat := r.toNat / 16 ^ k % 16

theorem nibble_eq (r : BitVec 24) (k : Nat) : nibble r k = (r.extractLsb' (4 * k) 4).toNat := by
  rw [BitVec.extractLsb'_toNat, Nat.shiftRight_eq_div_pow, Nat.pow_mul]
  rfl

theorem State.ftReg_ratio (s : State) (d core : Nat) {k : Nat} (hk : k < 6) :
    bits (s.ftReg d core) (24 + 4 * k) 4 = nibble (s.ftOf d core).2 k := by
  have h2 := (s.ftOf d core).2.isLt
  rw [bits, s.ftReg_toNat, nibble]
  interval_cases k <;> omega

theorem nibble_hotRatio (r : BitVec 24) {k : Nat} (hk : k < 6) : nibble (hotRatio r) k = if k = 1 ∨ k = 2 ∨ k = 4 then 1 else nibble r k := by
  have hone : (1 : Nat) = (1#4).toNat := rfl
  rw [nibble_eq, nibble_eq, hone, ← apply_ite BitVec.toNat]
  congr 1
  refine BitVec.eq_of_getLsbD_eq fun i hi => ?_
  interval_cases k <;> interval_cases i <;> simp [hotRatio]

/-- The ratios of a core that is hot where `P` holds. -/
theorem nibble_hotRatio_if {b : Bool} {P : Prop} [Decidable P] (h : b = true ↔ P) (r : BitVec 24) {k : Nat} (hk : k < 6) :
    nibble (if b = true then hotRatio r else r) k = if (k = 1 ∨ k = 2 ∨ k = 4) ∧ P then 1 else nibble r k := by
  by_cases hP : P
  · rw [if_pos (h.2 hP), nibble_hotRatio r hk]
    simp only [hP, and_true]
  · rw [if_neg (mt h.1 hP), if_neg fun hk => hP hk.2]

theorem ratioOk_iff (r : BitVec 24) : ratioOk r = true ↔ ∀ k, k < 6 → 1 ≤ nibble r k ∧ nibble r k ≤ 8 := by
  simp [ratioOk, nibble]

theorem State.hotCore_iff (s : State) (d core : Nat) :
    s.hotCore d core = true ↔ ∃ v, v < 32 ∧ 5 * v / 8 = core / 4 ∧ (s.dieAt d).bands.getD v 0 = 3 := by
  simp [State.hotCore, nearVault]

theorem lookup_filter_same {β : Type} (l : List (Nat × β)) (a : Nat) : (l.filter fun e => e.1 != a).lookup a = none := by
  rw [List.lookup_eq_none_iff]
  intro e he
  rw [bne_comm]
  exact (List.mem_filter.1 he).2

theorem lookup_filter_other {β : Type} (l : List (Nat × β)) {a c : Nat} (h : c ≠ a) : (l.filter fun e => e.1 != a).lookup c = l.lookup c := by
  induction l with
  | nil => rfl
  | cons e l ih =>
    by_cases hk : e.1 = a
    · rw [List.filter_cons_of_neg (by simp [hk]), ih, List.lookup_cons, hk, beq_false_of_ne h]
    · rw [List.filter_cons_of_pos (by simp [hk]), List.lookup_cons, List.lookup_cons, ih]

/-- The table of a die after the fantail has set a core's mask and ratios. -/
def ftPut (l : List (Nat × BitVec 6 × BitVec 24)) (core : Nat) (mask : BitVec 6) (r : BitVec 24) : List (Nat × BitVec 6 × BitVec 24) :=
  let rest := l.filter fun e => e.1 != core
  if mask = 0 ∧ r = 0x888888 then rest else (core, mask, r) :: rest

theorem ftPut_lookup_same (l : List (Nat × BitVec 6 × BitVec 24)) (core : Nat) (mask : BitVec 6) (r : BitVec 24) :
    ((ftPut l core mask r).lookup core).getD (0, 0x888888) = (mask, r) := by
  unfold ftPut
  dsimp only
  split
  · rename_i h
    rw [lookup_filter_same, h.1, h.2]
    rfl
  · rw [List.lookup_cons_self]
    rfl

theorem ftPut_lookup_other (l : List (Nat × BitVec 6 × BitVec 24)) {core c : Nat} (mask : BitVec 6) (r : BitVec 24) (h : c ≠ core) :
    (ftPut l core mask r).lookup c = l.lookup c := by
  unfold ftPut
  dsimp only
  split
  · exact lookup_filter_other l h
  · rw [List.lookup_cons, beq_false_of_ne h]
    exact lookup_filter_other l h

theorem State.ftOf_put (s : State) {d : Nat} (core : Nat) (mask : BitVec 6) (r : BitVec 24) (h : d < s.dies.length) :
    (s.setDie d fun x => { x with ftcore := ftPut x.ftcore core mask r }).ftOf d core = (mask, r) := by
  rw [State.ftOf, s.setDie_dieAt _ h]
  exact ftPut_lookup_same _ core mask r

theorem State.ftOf_put_other (s : State) {d core e c : Nat} (mask : BitVec 6) (r : BitVec 24) (h : d < s.dies.length) (hne : (e, c) ≠ (d, core)) :
    (s.setDie d fun x => { x with ftcore := ftPut x.ftcore core mask r }).ftOf e c = s.ftOf e c := by
  unfold State.ftOf
  by_cases he : e = d
  · subst he
    rw [s.setDie_dieAt _ h]
    exact congrArg (Option.getD · _) (ftPut_lookup_other _ mask r fun hc => hne (by rw [hc]))
  · rw [s.setDie_dieAt_other _ he]

/-- R467, R472: between two window boundaries nothing is set; -/
theorem execPowerWindow_between {s : State} (h : s.cycle % 1024 ≠ 0) (d core : Nat) (mask : BitVec 6) (ratio : BitVec 24) :
    exec (.powerWindow d core mask ratio) s = .next s :=
  congrArg Host.Outcome.next (if_pos (.inl h))

/-- at a boundary the mask is set, and the ratios, those of a hot core with S1, S2 and S4 at 1. -/
theorem execPowerWindow_boundary {s : State} {d core : Nat} (hc : s.cycle % 1024 = 0) (hd : d < 8) (hcore : core < 80) (mask : BitVec 6)
    {ratio : BitVec 24} (hr : ratioOk ratio = true) : exec (.powerWindow d core mask ratio) s =
      .next (s.setDie d fun x => { x with ftcore := ftPut x.ftcore core mask (if s.hotCore d core then hotRatio ratio else ratio) }) := by
  refine congrArg Host.Outcome.next (if_neg ?_)
  rw [hr]
  simp only [hc, Bool.true_eq_false, ne_eq, not_true_eq_false, false_or, not_or]
  omega

theorem execPowerWindow_sets {s : State} {d core : Nat} (hc : s.cycle % 1024 = 0) (hd : d < 8) (hlen : d < s.dies.length) (hcore : core < 80)
    (mask : BitVec 6) {ratio : BitVec 24} (hr : ∀ k, k < 6 → 1 ≤ nibble ratio k ∧ nibble ratio k ≤ 8) :
    ∃ t, exec (.powerWindow d core mask ratio) s = .next t ∧ t = { s with dies := t.dies } ∧ bits (t.ftReg d core) 48 6 = mask.toNat ∧
      (∀ k, k < 6 → bits (t.ftReg d core) (24 + 4 * k) 4 =
        if (k = 1 ∨ k = 2 ∨ k = 4) ∧ ∃ v : Nat, v < 32 ∧ 5 * v / 8 = core / 4 ∧ (s.dieAt d).bands.getD v 0 = 3 then 1 else nibble ratio k) ∧
      ∀ e c, (e, c) ≠ (d, core) → t.ftReg e c = s.ftReg e c := by
  refine ⟨_, execPowerWindow_boundary hc hd hcore mask ((ratioOk_iff ratio).2 hr), rfl, ?_, fun k hk => ?_, fun e c hne => ?_⟩
  · rw [State.ftReg_mask, s.ftOf_put _ _ _ hlen]
  · rw [State.ftReg_ratio _ _ _ hk, s.ftOf_put _ _ _ hlen]
    exact nibble_hotRatio_if (s.hotCore_iff d core) ratio hk
  · rw [State.ftReg, State.ftReg, s.ftOf_put_other _ _ hlen hne]

theorem execDroopDetect_counts {s : State} {d : Nat} (h : d < s.dies.length) : ∃ t, exec (.droopDetect d) s = .next t ∧ t = { s with dies := t.dies } ∧
      t.dieAt d = { s.dieAt d with droopcnt := (s.dieAt d).droopcnt + 1 } ∧ ∀ e, e ≠ d → t.dieAt e = s.dieAt e :=
  ⟨_, rfl, rfl, s.setDie_dieAt _ h, fun _ he => s.setDie_dieAt_other _ he⟩

end Sys2Proof.Machine
end

section
/-! Corrected errors, lasting faults and the failure of a vault (18_power_package_trust.md R476, R477, 01_machine.md R36). -/
namespace Sys2Proof.Machine
open Sys2Proof Sys2Proof.Safety

/-! ## Corrected errors (R476) -/

section
variable {es : List (Nat × Nat × Nat × Nat)} {u a t : Nat} {e : Nat × Nat × Nat × Nat}

theorem trackError_recent (h : es.find? (fun e => e.1 == u && e.2.1 == a) = some e) (hr : t - e.2.2.2 < 2 ^ 24) :
    trackError es u a t = (es.map fun x => if x == e then (u, a, e.2.2.1 + 1, e.2.2.2) else x, e.2.2.1 + 1, false) := by
  simp only [trackError, h, if_pos hr]

theorem trackError_stale (h : es.find? (fun e => e.1 == u && e.2.1 == a) = some e) (hr : 2 ^ 24 ≤ t - e.2.2.2) :
    trackError es u a t = (es.map fun x => if x == e then (u, a, 1, t) else x, 1, false) := by
  simp only [trackError, h, if_neg (Nat.not_lt.2 hr)]

theorem trackError_new (h : es.find? (fun e => e.1 == u && e.2.1 == a) = none) (hr : (es.filter fun e => e.1 == u).length < 64) :
    trackError es u a t = (es ++ [(u, a, 1, t)], 1, false) := by
  simp only [trackError, h, if_pos hr]

theorem mem_map_replace {e' : Nat × Nat × Nat × Nat} (h : e ∈ es) : e' ∈ es.map fun x => if x == e then e' else x :=
  List.mem_map.2 ⟨e, h, if_pos (beq_self_eq_true e)⟩
end

/-- The state once its die has tracked the error. -/
def State.tracked (s : State) (u a : Nat) : State :=
  s.setDie (u % 8) fun x =>
    { x with
      track := (trackError (s.dieAt (u % 8)).track u a s.cycle).1
      errLost := if (trackError (s.dieAt (u % 8)).track u a s.cycle).2.2 then x.errLost + 1 else x.errLost }

theorem State.tracked_dieAt {s : State} {u : Nat} (hu : u % 8 < s.dies.length) (a : Nat) : ∃ n, (s.tracked u a).dieAt (u % 8) =
    { s.dieAt (u % 8) with track := (trackError (s.dieAt (u % 8)).track u a s.cycle).1, errLost := n } :=
  ⟨_, s.setDie_dieAt _ hu⟩

theorem State.tracked_dies_length (s : State) (u a : Nat) : (s.tracked u a).dies.length = s.dies.length := s.setDie_dies_length _ _

/-! ## Lasting faults (R477) -/

/-- A die after an entry for its error log. -/
def DieSt.logged (x : DieSt) (u addr : Nat) : DieSt :=
  if x.errHead - x.errTail = 256 then { x with errDrop := x.errDrop + 1 }
  else { x with errLog := (x.errHead % 256, dw addr, u) :: x.errLog.filter (fun e => e.1 != x.errHead % 256), errHead := x.errHead + 1 }

theorem DieSt.logged_full {x : DieSt} (h : x.errHead - x.errTail = 256) (u addr : Nat) : x.logged u addr = { x with errDrop := x.errDrop + 1 } := if_pos h
theorem DieSt.logged_room {x : DieSt} (h : x.errHead - x.errTail ≠ 256) (u addr : Nat) : x.logged u addr =
    { x with errLog := (x.errHead % 256, dw addr, u) :: x.errLog.filter (fun e => e.1 != x.errHead % 256), errHead := x.errHead + 1 } := if_neg h
theorem DieSt.logged_track (x : DieSt) (u addr : Nat) : (x.logged u addr).track = x.track := by
  unfold DieSt.logged
  split <;> rfl

theorem State.logError_dieAt {s : State} {u : Nat} (hu : u % 8 < s.dies.length) (a : Nat) :
    (s.logError u a).dieAt (u % 8) = (s.dieAt (u % 8)).logged u a := s.setDie_dieAt _ hu

theorem State.logError_dies_length (s : State) (u a : Nat) : (s.logError u a).dies.length = s.dies.length := s.setDie_dies_length _ _

theorem State.lastingFault_millpond (s : State) {u : Nat} (h : u / 8 % 8 = 0) (a : Nat) : s.lastingFault u a =
    { s.logError u a with frames := cset (zeros 2) (s.logError u a).frames (u % 8 * 2 ^ 22 + a / 65536) 3 } := by
  simp only [State.lastingFault, errUnit, h]

theorem State.lastingFault_spad (s : State) {u : Nat} (h : u / 8 % 8 = 5) (a : Nat) : s.lastingFault u a =
    (s.logError u a).setDie (u % 8) fun x => { x with goneClusters := (u / 64 :: x.goneClusters).eraseDups } := by
  simp only [State.lastingFault, errUnit, h]

theorem State.lastingFault_core (s : State) {u : Nat} (h : u / 8 % 8 = 6 ∨ u / 8 % 8 = 7) (a : Nat) : s.lastingFault u a =
    (s.logError u a).setDie (u % 8) fun x => { x with goneCores := (u / 64 :: x.goneCores).eraseDups } := by
  obtain h | h := h <;> simp only [State.lastingFault, errUnit, h]

theorem State.lastingFault_cache (s : State) {u : Nat} (h : 1 ≤ u / 8 % 8 ∧ u / 8 % 8 ≤ 4) (a : Nat) : s.lastingFault u a = s.logError u a := by
  obtain h | h | h | h : u / 8 % 8 = 1 ∨ u / 8 % 8 = 2 ∨ u / 8 % 8 = 3 ∨ u / 8 % 8 = 4 := by omega
  all_goals simp only [State.lastingFault, errUnit, h]

/-- A lasting fault is logged, and changes of its die beside the log only which units are withdrawn. -/
theorem State.lastingFault_dieAt {s : State} {u : Nat} (hu : u % 8 < s.dies.length) (a : Nat) :
    ∃ gc go, (s.lastingFault u a).dieAt (u % 8) = { (s.dieAt (u % 8)).logged u a with goneClusters := gc, goneCores := go } := by
  have hlog := State.logError_dieAt hu a
  have hlen : u % 8 < (s.logError u a).dies.length := by rwa [State.logError_dies_length]
  obtain h | h | h | h : u / 8 % 8 = 0 ∨ (1 ≤ u / 8 % 8 ∧ u / 8 % 8 ≤ 4) ∨ u / 8 % 8 = 5 ∨ (u / 8 % 8 = 6 ∨ u / 8 % 8 = 7) := by omega
  · rw [s.lastingFault_millpond h]
    exact ⟨_, _, hlog⟩
  · rw [s.lastingFault_cache h]
    exact ⟨_, _, hlog⟩
  · rw [s.lastingFault_spad h, State.setDie_dieAt _ _ hlen, hlog]
    exact ⟨_, _, rfl⟩
  · rw [s.lastingFault_core h, State.setDie_dieAt _ _ hlen, hlog]
    exact ⟨_, _, rfl⟩

theorem State.lastingFault_mem_waves (s : State) (u a : Nat) : (s.lastingFault u a).mem = s.mem ∧ (s.lastingFault u a).waves = s.waves := by
  unfold State.lastingFault
  dsimp only
  split <;> exact ⟨rfl, rfl⟩

theorem State.lastingFault_track {s : State} {u : Nat} (hu : u % 8 < s.dies.length) (a : Nat) :
    ((s.lastingFault u a).dieAt (u % 8)).track = (s.dieAt (u % 8)).track := by
  obtain ⟨gc, go, h⟩ := State.lastingFault_dieAt hu a
  rw [h]
  exact DieSt.logged_track _ _ _

theorem State.lastingFault_room {s : State} {u : Nat} (hu : u % 8 < s.dies.length) (a : Nat)
    (h : (s.dieAt (u % 8)).errHead - (s.dieAt (u % 8)).errTail ≠ 256) :
    ((s.lastingFault u a).dieAt (u % 8)).errHead = (s.dieAt (u % 8)).errHead + 1 ∧
      ((s.dieAt (u % 8)).errHead % 256, dw a, u) ∈ ((s.lastingFault u a).dieAt (u % 8)).errLog := by
  obtain ⟨gc, go, hdie⟩ := State.lastingFault_dieAt hu a
  rw [hdie, DieSt.logged_room h]
  exact ⟨rfl, List.mem_cons_self⟩

theorem State.lastingFault_full {s : State} {u : Nat} (hu : u % 8 < s.dies.length) (a : Nat)
    (h : (s.dieAt (u % 8)).errHead - (s.dieAt (u % 8)).errTail = 256) :
    ((s.lastingFault u a).dieAt (u % 8)).errDrop = (s.dieAt (u % 8)).errDrop + 1 ∧
      ((s.lastingFault u a).dieAt (u % 8)).errLog = (s.dieAt (u % 8)).errLog := by
  obtain ⟨gc, go, hdie⟩ := State.lastingFault_dieAt hu a
  rw [hdie, DieSt.logged_full h]
  exact ⟨rfl, rfl⟩

theorem mem_eraseDups_cons {α : Type} [BEq α] [LawfulBEq α] (a : α) (l : List α) : a ∈ (a :: l).eraseDups := by
  rw [List.mem_eraseDups]
  exact List.mem_cons_self

/-- The unit that has failed is withdrawn (R36). -/
theorem State.lastingFault_withdraws {s : State} {u : Nat} (hu : u % 8 < s.dies.length) (a : Nat) :
    (u / 8 % 8 = 0 → cget (zeros 2) (s.lastingFault u a).frames (u % 8 * 2 ^ 22 + a / 65536) = 3) ∧
    (u / 8 % 8 = 5 → u / 64 ∈ ((s.lastingFault u a).dieAt (u % 8)).goneClusters) ∧
    (u / 8 % 8 = 6 ∨ u / 8 % 8 = 7 → u / 64 ∈ ((s.lastingFault u a).dieAt (u % 8)).goneCores) := by
  have hlen : u % 8 < (s.logError u a).dies.length := by rwa [State.logError_dies_length]
  refine ⟨fun h => ?_, fun h => ?_, fun h => ?_⟩
  · rw [s.lastingFault_millpond h]
    exact cget_cset_same _ _ _
  · rw [s.lastingFault_spad h, State.setDie_dieAt _ _ hlen]
    exact mem_eraseDups_cons _ _
  · rw [s.lastingFault_core h, State.setDie_dieAt _ _ hlen]
    exact mem_eraseDups_cons _ _

/-- A corrected error whose line has not met its fourth is tracked; -/
theorem execCorrectedError_tracks {s : State} {u addr n : Nat} (h : (trackError (s.dieAt (u % 8)).track u (addr / 128 * 128) s.cycle).2.1 = n)
    (hn : n ≠ 4) : exec (.correctedError u addr) s = .next (s.tracked u (addr / 128 * 128)) :=
  congrArg Host.Outcome.next (if_neg (h ▸ hn))

/-- the fourth is a lasting fault. -/
theorem execCorrectedError_lasts {s : State} {u addr : Nat} (h : (trackError (s.dieAt (u % 8)).track u (addr / 128 * 128) s.cycle).2.1 = 4) :
    exec (.correctedError u addr) s = .next ((s.tracked u (addr / 128 * 128)).lastingFault u (addr / 128 * 128)) :=
  congrArg Host.Outcome.next (if_pos h)

/-! ## What a corrected error counts (R476) -/

/-- The entry of an error's line, if the die tracks it. -/
def State.trackEnt (s : State) (u a : Nat) : Option (Nat × Nat × Nat × Nat) := (s.dieAt (u % 8)).track.find? fun e => e.1 == u && e.2.1 == a

theorem execCorrectedError_counts {s : State} {unit : Nat} (hu : unit % 8 < s.dies.length) (addr : Nat) :
    let d := unit % 8
    let a := addr / 128 * 128
    let old := s.trackEnt unit a
    ∃ t, exec (.correctedError unit addr) s = .next t ∧ t.mem = s.mem ∧ t.waves = s.waves ∧
      (∀ e, old = some e → s.cycle - e.2.2.2 < 2 ^ 24 → (unit, a, e.2.2.1 + 1, e.2.2.2) ∈ (t.dieAt d).track) ∧
      (∀ e, old = some e → 2 ^ 24 ≤ s.cycle - e.2.2.2 → (unit, a, 1, s.cycle) ∈ (t.dieAt d).track ∧ (t.dieAt d).errHead = (s.dieAt d).errHead) ∧
      (old = none → ((s.dieAt d).track.filter fun e => e.1 == unit).length < 64 → (t.dieAt d).track = (s.dieAt d).track ++ [(unit, a, 1, s.cycle)]) ∧
      (∀ e, old = some e → s.cycle - e.2.2.2 < 2 ^ 24 → e.2.2.1 + 1 ≠ 4 → t = { s with dies := t.dies } ∧ (t.dieAt d).errHead = (s.dieAt d).errHead) ∧
      ∀ e, old = some e → s.cycle - e.2.2.2 < 2 ^ 24 → e.2.2.1 + 1 = 4 →
        ((s.dieAt d).errHead - (s.dieAt d).errTail ≠ 256 → (t.dieAt d).errHead = (s.dieAt d).errHead + 1 ∧
          ((s.dieAt d).errHead % 256, dw a, unit) ∈ (t.dieAt d).errLog) ∧
        ((s.dieAt d).errHead - (s.dieAt d).errTail = 256 → (t.dieAt d).errDrop = (s.dieAt d).errDrop + 1 ∧ (t.dieAt d).errLog = (s.dieAt d).errLog) ∧
        (unit / 8 % 8 = 0 → cget (zeros 2) t.frames (d * 2 ^ 22 + a / 65536) = 3) ∧ (unit / 8 % 8 = 5 → unit / 64 ∈ (t.dieAt d).goneClusters) ∧
        (unit / 8 % 8 = 6 ∨ unit / 8 % 8 = 7 → unit / 64 ∈ (t.dieAt d).goneCores) := by
  intro d a old
  obtain ⟨lost, hdie⟩ := State.tracked_dieAt hu a
  have hrecent : ∀ e, old = some e → s.cycle - e.2.2.2 < 2 ^ 24 → (trackError (s.dieAt d).track unit a s.cycle).2.1 = e.2.2.1 + 1 ∧
      (unit, a, e.2.2.1 + 1, e.2.2.2) ∈ (trackError (s.dieAt d).track unit a s.cycle).1 := fun e he hr => by
    rw [trackError_recent he hr]
    exact ⟨rfl, mem_map_replace (List.mem_of_find?_eq_some he)⟩
  have hstale : ∀ e, old = some e → 2 ^ 24 ≤ s.cycle - e.2.2.2 → (trackError (s.dieAt d).track unit a s.cycle).2.1 = 1 ∧
      (unit, a, 1, s.cycle) ∈ (trackError (s.dieAt d).track unit a s.cycle).1 := fun e he hr => by
    rw [trackError_stale he hr]
    exact ⟨rfl, mem_map_replace (List.mem_of_find?_eq_some he)⟩
  have hnew : old = none → ((s.dieAt d).track.filter fun e => e.1 == unit).length < 64 →
      trackError (s.dieAt d).track unit a s.cycle = ((s.dieAt d).track ++ [(unit, a, 1, s.cycle)], 1, false) := trackError_new
  by_cases h4 : (trackError (s.dieAt d).track unit a s.cycle).2.1 = 4
  · have hlen : d < (s.tracked unit a).dies.length := by rwa [State.tracked_dies_length]
    have hroom := State.lastingFault_room hlen a
    have hfull := State.lastingFault_full hlen a
    have htrack := State.lastingFault_track hlen a
    obtain ⟨hmem, hwaves⟩ := (s.tracked unit a).lastingFault_mem_waves unit a
    rw [hdie] at hroom hfull htrack
    refine ⟨_, execCorrectedError_lasts h4, hmem, hwaves, fun e he hr => ?_, fun e he hr => ?_, fun he hr => ?_, fun e he hr hne => ?_,
      fun e he hr _ => ⟨hroom, hfull, State.lastingFault_withdraws hlen a⟩⟩
    · rw [htrack]
      exact (hrecent e he hr).2
    · have := (hstale e he hr).1
      omega
    · rw [hnew he hr] at h4
      exact absurd (show 1 = 4 from h4) (by decide)
    · exact absurd ((hrecent e he hr).1.symm.trans h4) hne
  · refine ⟨_, execCorrectedError_tracks rfl h4, rfl, rfl, fun e he hr => ?_, fun e he hr => ?_, fun he hr => ?_, fun e he hr hne => ⟨rfl, ?_⟩,
      fun e he hr h => absurd ((hrecent e he hr).1.trans h) h4⟩
    · rw [hdie]
      exact (hrecent e he hr).2
    · rw [hdie]
      exact ⟨(hstale e he hr).2, rfl⟩
    · rw [hdie]
      exact congrArg Prod.fst (hnew he hr)
    · rw [hdie]

/-! ## Failure of a vault (R36, R477) -/

theorem frameOf_physKey {d dpa : Nat} (h : dpa < 2 ^ 38) : frameOf (physKey d dpa) / 2 ^ 22 = d := by
  unfold frameOf keyDie keyDpa physKey
  omega

theorem keyDie_physKey {d dpa : Nat} (h : dpa < 2 ^ 38) : keyDie (physKey d dpa) = d := by
  unfold keyDie physKey
  omega

theorem keyDpa_physKey {d dpa : Nat} (h : dpa < 2 ^ 38) : keyDpa (physKey d dpa) = dpa := by
  unfold keyDpa physKey
  omega

/-- A die with a failed vault has every frame retired, and every byte of that vault in error. -/
theorem State.badVault_frames {s : State} {d v dpa : Nat} (hv : v ∈ (s.dieAt d).badVaults) (h : dpa < 2 ^ 38) (user : Bool) :
    s.frameSt (physKey d dpa) = 3 ∧ s.frameDenies user (physKey d dpa) = true ∧ (vaultOf dpa = v → s.uncorr (physKey d dpa) = true) := by
  have hst : s.frameSt (physKey d dpa) = 3 := by
    have hne : (s.dieAt (frameOf (physKey d dpa) / 2 ^ 22)).badVaults.isEmpty = false := by
      rw [frameOf_physKey h, List.isEmpty_eq_false_iff]
      exact List.ne_nil_of_mem hv
    rw [State.frameSt, State.frameVal, hne]
    rfl
  refine ⟨hst, by rw [State.frameDenies, hst]; rfl, fun hd => ?_⟩
  rw [State.uncorr, keyDie_physKey h, keyDpa_physKey h, hd, List.contains_iff_mem.2 hv, Bool.or_true]

/-- The state after the failure of a vault. -/
def State.vaultLost (s : State) (d v : Nat) : State :=
  { (s.logError (d + 64 * v) 0).setDie d fun x => { x with badVaults := v :: x.badVaults, withdrawn := true } with
    images := s.images.filter fun i => i.die != d }

theorem execVaultFailure_withdraws {s : State} {d v : Nat} (hd : d < 8) (hlen : d < s.dies.length) (hv : v < 32) (hnew : v ∉ (s.dieAt d).badVaults) :
    ∃ t, exec (.vaultFailure d v) s = .next t ∧ t.mem = s.mem ∧ t.waves = s.waves ∧ t.wgs = s.wgs ∧ (t.dieAt d).withdrawn = true ∧
      v ∈ (t.dieAt d).badVaults ∧
      (∀ dpa user, dpa < 2 ^ 38 → t.frameSt (physKey d dpa) = 3 ∧ t.frameDenies user (physKey d dpa) = true ∧
        (vaultOf dpa = v → t.uncorr (physKey d dpa) = true)) ∧
      ∀ i, i ∈ t.images ↔ i ∈ s.images ∧ i.die ≠ d := by
  have hexec : exec (.vaultFailure d v) s = .next (s.vaultLost d v) :=
    congrArg Host.Outcome.next (if_neg (by simp only [List.contains_iff_mem, hnew, or_false]; omega))
  have hdie : (s.vaultLost d v).dieAt d = (fun x : DieSt => { x with badVaults := v :: x.badVaults, withdrawn := true }) ((s.logError (d + 64 * v) 0).dieAt d) :=
    State.setDie_dieAt _ _ (by rwa [State.logError_dies_length])
  have hmem : v ∈ ((s.vaultLost d v).dieAt d).badVaults := by
    rw [hdie]
    exact List.mem_cons_self
  refine ⟨_, hexec, rfl, rfl, rfl, by rw [hdie], hmem, fun dpa user h => State.badVault_frames hmem h user, fun i => ?_⟩
  simp [State.vaultLost]

end Sys2Proof.Machine
end

section
/-! Package reset, firmware, sessions and keys (18_power_package_trust.md R467, R478-R482). -/
namespace Sys2Proof.Machine
open Sys2Proof Sys2Proof.Safety

/-! ## Package reset (R18, R478, R482) -/

theorem range_map_getD {α : Type} (f : Nat → α) (x : α) {n d : Nat} (h : d < n) : ((List.range n).map f).getD d x = f d := by
  simp [List.getD_eq_getElem?_getD, h]

/-- A die is released again where the firmware, die 0 and its own measurement let it pass. -/
theorem execPackageReset_resets (s : State) : ∃ t, exec .packageReset s = .next t ∧ t.waves = [] ∧ t.tasks = [] ∧ t.modules = [] ∧
    t.sys = [] ∧ t.power = true ∧
    t.mem = (if s.trust.pendingKss.isSome then [] else s.mem) ∧ t.keyids = (if s.trust.pendingKss.isSome then [] else s.keyids) ∧
    t.trust.kss = s.trust.pendingKss.getD s.trust.kss ∧ t.trust.firmware = s.trust.pendingFirmware.getD s.trust.firmware ∧
    t.trust.regionKeys = s.trust.regionKeys ∧ t.trust.moduleKeys = s.trust.moduleKeys ∧ t.trust.ckptKeys = s.trust.ckptKeys ∧
    t.trust.sessions = [] ∧ t.trust.pendingKss = none ∧ t.trust.pendingFirmware = none ∧
    ∀ d, d < 8 → ((t.dieAt d).ok = true ↔ Config.firmwareVerifies t.trust.firmware = true ∧ Config.dieVerifies t.trust.firmware 0 = true ∧
      Config.dieVerifies t.trust.firmware d = true) := by
  refine ⟨_, rfl, rfl, rfl, rfl, rfl, rfl, rfl, rfl, rfl, rfl, rfl, rfl, rfl, rfl, rfl, rfl, fun d hd => ?_⟩
  rw [State.dieAt, range_map_getD _ _ hd]
  simp only [Bool.and_eq_true, and_assoc]

/-! ## Sessions and vendor requests (R481, R482) -/

/-- Session `n` is open, and its requester has proved the owner certificate. -/
def State.owned (s : State) (n : Nat) : Bool := (s.sessionOf n).any fun x => x.established && x.mutualAuth

/-- In a session of the owner a vendor request edits the trust die; -/
theorem State.vendor_owned {s : State} {n : Nat} (h : s.owned n = true) (f : TrustSt → TrustSt) :
    ∃ r, s.vendor n f = { s with trust := { f s.trust with response := r } } := ⟨_, if_pos h⟩

/-- in any other it gets a response and nothing else. -/
theorem State.vendor_refused {s : State} {n : Nat} (h : s.owned n = false) (f : TrustSt → TrustSt) :
    ∃ r, s.vendor n f = { s with trust := { s.trust with response := r } } := ⟨_, if_neg (ne_true_of_eq_false h)⟩

theorem mem_editKeys_remove (ks : List Val) (key k : Val) : k ∈ editKeys ks false key ↔ k ∈ ks ∧ k ≠ key := by
  simp [editKeys]

theorem mem_editKeys_add {ks : List Val} (h : ks.length < 32) (key k : Val) : k ∈ editKeys ks true key ↔ k ∈ ks ∨ k = key := by
  by_cases hin : key ∈ ks
  · simp only [editKeys, if_true, List.contains_iff_mem, hin, true_or]
    exact ⟨.inl, fun hk => hk.elim id fun e => e ▸ hin⟩
  · have hlen : ¬32 ≤ ks.length := by omega
    simp [editKeys, hin, hlen]

theorem editKeys_length {ks : List Val} (h : ks.length ≤ 32) (add : Bool) (key : Val) : (editKeys ks add key).length ≤ 32 := by
  unfold editKeys
  split
  · split
    · exact h
    · rw [List.length_append, List.length_singleton]
      omega
  · exact (List.length_filter_le _ _).trans h

theorem mem_append_new {xs : List Nat} {a k : Nat} : k ∈ (if xs.contains a then xs else xs ++ [a]) ↔ k ∈ xs ∨ k = a := by
  split
  · rename_i h
    exact ⟨.inl, fun hk => hk.elim id fun e => e ▸ List.contains_iff_mem.1 h⟩
  · rw [List.mem_append, List.mem_singleton]

/-- What each vendor request asks of the trust die. -/
def vendorEdit : Instr → TrustSt → TrustSt
  | .provisionRegionKey _ slot, t => { t with regionKeys := if t.regionKeys.contains slot then t.regionKeys else t.regionKeys ++ [slot] }
  | .editModuleKeyList _ add key, t => { t with moduleKeys := editKeys t.moduleKeys add key }
  | .editCheckpointKeyList _ add key, t => { t with ckptKeys := editKeys t.ckptKeys add key }
  | .rekey _ kss, t => { t with pendingKss := some kss }
  | .ideKm _ stream, t => if stream < 4 ∧ t.ide.contains stream = false then { t with ide := t.ide ++ [stream] } else t
  | _, t => t

/-- The vendor requests of session `n`. -/
inductive VendorOf (n : Nat) : Instr → Prop
  | region (slot : Nat) : VendorOf n (.provisionRegionKey n slot)
  | modules (add : Bool) (key : Val) : VendorOf n (.editModuleKeyList n add key)
  | ckpts (add : Bool) (key : Val) : VendorOf n (.editCheckpointKeyList n add key)
  | rekey (kss : BitVec 512) : VendorOf n (.rekey n kss)
  | ide (stream : Nat) : VendorOf n (.ideKm n stream)

theorem VendorOf.exec {n : Nat} {i : Instr} (h : VendorOf n i) (s : State) : Machine.exec i s = .next (s.vendor n (vendorEdit i)) := by
  cases h <;> rfl

theorem VendorOf.kss {n : Nat} {i : Instr} (h : VendorOf n i) (t : TrustSt) : (vendorEdit i t).kss = t.kss := by
  cases h
  case ide stream =>
    simp only [vendorEdit]
    split <;> rfl
  all_goals rfl

theorem mem_ide_vendorEdit (t : TrustSt) (n stream k : Nat) : k ∈ (vendorEdit (.ideKm n stream) t).ide ↔
    k ∈ t.ide ∨ (k = stream ∧ stream < 4) := by
  unfold vendorEdit
  by_cases h4 : stream < 4
  · by_cases hin : stream ∈ t.ide
    · simp only [List.contains_iff_mem.2 hin, Bool.true_eq_false, and_false, if_false, h4, and_true]
      exact ⟨.inl, fun hk => hk.elim id fun e => e ▸ hin⟩
    · simp [h4, hin]
  · simp [h4]

/-- The two edits of a key list, and its bound of 32 keys. -/
theorem editKeys_edits (ks : List Val) (add : Bool) (key : Val) :
    (add = false → ∀ k, k ∈ editKeys ks add key ↔ k ∈ ks ∧ k ≠ key) ∧
    (add = true → ks.length < 32 → ∀ k, k ∈ editKeys ks add key ↔ k ∈ ks ∨ k = key) ∧
    (ks.length ≤ 32 → (editKeys ks add key).length ≤ 32) := by
  refine ⟨?_, ?_, fun h => editKeys_length h add key⟩
  · rintro rfl k
    exact mem_editKeys_remove ks key k
  · rintro rfl h k
    exact mem_editKeys_add h key k

/-- A vendor request in a session (R481): the trust die as the session lets it be edited. -/
theorem VendorOf.step {n : Nat} {i : Instr} (h : VendorOf n i) (s : State) : ∃ t, Machine.exec i s = .next t ∧ t = { s with trust := t.trust } ∧
    (s.owned n = false → t.trust = { s.trust with response := t.trust.response }) ∧ t.trust.kss = s.trust.kss ∧
    (s.owned n = true → t.trust = { vendorEdit i s.trust with response := t.trust.response }) := by
  refine ⟨_, h.exec s, ?_⟩
  cases ho : s.owned n with
  | true =>
    obtain ⟨r, hr⟩ := State.vendor_owned ho (vendorEdit i)
    rw [hr]
    exact ⟨rfl, nofun, h.kss s.trust, fun _ => rfl⟩
  | false =>
    obtain ⟨r, hr⟩ := State.vendor_refused ho (vendorEdit i)
    rw [hr]
    exact ⟨rfl, fun _ => rfl, rfl, nofun⟩

theorem execKeyExchange_opens (s : State) : ∃ t x, exec .keyExchange s = .next t ∧ t = { s with trust := t.trust, freeCnt := t.freeCnt } ∧
    x.established = false ∧ t.trust.sessions = if s.trust.sessions.length < 4 then s.trust.sessions ++ [x] else s.trust.sessions := by
  by_cases h : s.trust.sessions.length < 4
  · refine ⟨_, { id := s.trust.nextSession, established := false, mutualAuth := false, key := s.takeFree.1 },
      congrArg Host.Outcome.next (if_pos h), rfl, rfl, ?_⟩
    rw [if_pos h]
    rfl
  · refine ⟨_, { (default : Session) with established := false }, congrArg Host.Outcome.next (if_neg h), rfl, rfl, ?_⟩
    rw [if_neg h]
    rfl

theorem execFinish_establishes (s : State) (n : Nat) : ∃ t, exec (.finish n) s = .next t ∧ t = { s with trust := t.trust, freeCnt := t.freeCnt } ∧
    (s.sessionOf n = none → t.trust.sessions = s.trust.sessions) ∧ ∀ y ∈ t.trust.sessions, y.id = n → y.established = true := by
  cases hx : s.sessionOf n with
  | none =>
    refine ⟨_, congrArg Host.Outcome.next (if_neg (by simp [hx])), rfl, fun _ => rfl, fun y hy hid => ?_⟩
    exact absurd (beq_iff_eq.2 hid) (List.find?_eq_none.1 hx y hy)
  | some x =>
    refine ⟨_, congrArg Host.Outcome.next (if_pos (by simp [hx])), rfl, nofun, fun y hy hid => ?_⟩
    obtain ⟨z, -, rfl⟩ := List.mem_map.1 hy
    by_cases hz : (z.id == n) = true
    · rw [if_pos hz]
    · rw [if_neg hz] at hid
      exact absurd (beq_iff_eq.2 hid) hz

/-- A change of sessions that keeps their numbers. -/
theorem State.updSession_ids (s : State) (n : Nat) {f : Session → Session} (hf : ∀ x, (f x).id = x.id) :
    (s.updSession n f).trust.sessions.map Session.id = s.trust.sessions.map Session.id := by
  rw [State.updSession, List.map_map]
  refine List.map_congr_left fun x _ => ?_
  rw [Function.comp_apply]
  split
  · exact hf x
  · rfl

theorem execKeyUpdate_rekeys (s : State) (n : Nat) : ∃ t, exec (.keyUpdate n) s = .next t ∧ t = { s with trust := t.trust, freeCnt := t.freeCnt } ∧
    t.trust.sessions.map Session.id = s.trust.sessions.map Session.id ∧ (¬s.sessionOpen n = true → t.trust.sessions = s.trust.sessions) := by
  by_cases h : s.sessionOpen n = true
  · exact ⟨_, congrArg Host.Outcome.next (if_pos h), rfl, State.updSession_ids s.takeFree.2 n fun _ => rfl, fun hn => absurd h hn⟩
  · exact ⟨_, congrArg Host.Outcome.next (if_neg h), rfl, rfl, fun _ => rfl⟩

theorem execHeartbeat_replies (s : State) (n : Nat) : ∃ r, exec (.heartbeat n) s = .next { s with trust := { s.trust with response := r } } := by
  by_cases h : s.sessionOpen n = true
  · exact ⟨_, congrArg Host.Outcome.next (if_pos h)⟩
  · exact ⟨_, congrArg Host.Outcome.next (if_neg h)⟩

theorem execEndSession_closes (s : State) (n : Nat) : ∃ r, exec (.endSession n) s = .next { s with trust :=
    { s.trust with
      response := r
      sessions := if s.sessionOpen n = true then s.trust.sessions.filter (fun y => y.id != n) else s.trust.sessions } } := by
  by_cases h : s.sessionOpen n = true
  · simp only [if_pos h]
    exact ⟨_, congrArg Host.Outcome.next (if_pos h)⟩
  · simp only [if_neg h]
    exact ⟨_, congrArg Host.Outcome.next (if_neg h)⟩

/-! ## Firmware, replies and measurements (R467, R478, R479) -/

/-- A package whose die 0 failed its measurement takes no image (R467). -/
theorem execFirmwareUpdate_deaf {s : State} (h : (s.dieAt 0).ok = false) : exec .firmwareUpdate s = .next s :=
  congrArg Host.Outcome.next (if_neg (by simp [h]))

/-- R478: a verified image waits for the package reset. -/
theorem execFirmwareUpdate_stages {s : State} (h : (s.dieAt 0).ok = true) :
    let dg := BitVec.ofNat 512 (natOfBytes (sha512 s.stagedImage))
    ∃ t, exec .firmwareUpdate s = .next t ∧ t = { s with trust := t.trust } ∧
      t.trust = { s.trust with pendingFirmware := if Config.firmwareVerifies dg = true then some dg else s.trust.pendingFirmware } := by
  intro dg
  by_cases hv : Config.firmwareVerifies dg = true
  · rw [if_pos hv]
    exact ⟨_, congrArg Host.Outcome.next (if_pos (by rw [h, hv]; rfl)), rfl, rfl⟩
  · rw [if_neg hv]
    exact ⟨_, congrArg Host.Outcome.next (if_neg (by rw [h, Bool.true_and]; exact hv)), rfl, rfl⟩

/-- A response changes nothing else. -/
theorem State.reply_only (s : State) (name : String) (body : List Byte) :
    ∃ r, Host.Outcome.next (ρ := Refusal) (φ := Fault) (s.reply name body) = .next { s with trust := { s.trust with response := r } } :=
  ⟨_, rfl⟩

theorem execSpdm_replies (s : State) :
    ∀ i ∈ [Instr.getVersion, .getCapabilities, .negotiateAlgorithms, .getDigests, .getCertificate, .challenge], ∃ r,
      exec i s = .next { s with trust := { s.trust with response := r } } := by
  intro i hi
  simp only [List.mem_cons, List.not_mem_nil, or_false] at hi
  obtain rfl | rfl | rfl | rfl | rfl | rfl := hi
  all_goals exact s.reply_only _ _

/-- There are thirteen blocks (R479). -/
theorem State.measurements_length (s : State) : s.measurements.length = 13 := by
  simp [State.measurements]

/-- Block 1 is the digest of the running firmware (R479). -/
theorem State.measurements_firmware (s : State) : s.measurements[1]? = some (bytesOfNat 64 s.trust.firmware.toNat) := by
  simp [State.measurements]

/-- Block 2 + d of the measurements is that of die d (R479). -/
theorem State.measurements_die (s : State) {d : Nat} (hd : d < 8) (h : (s.dieAt d).ok = false) :
    s.measurements[2 + d]? = some (List.replicate 64 0xFF) := by
  rw [State.measurements, List.getElem?_append_left (by simp; omega), List.getElem?_append_right (by simp),
    List.getElem?_map, List.length_cons, List.length_singleton, Nat.add_sub_cancel_left, List.getElem?_range hd,
    Option.map_some, h]
  rfl

/-- Block 10 is the digest of the module keys (R479). -/
theorem State.measurements_moduleKeys (s : State) :
    s.measurements[10]? = some (sha512 (s.trust.moduleKeys.flatMap fun k => bytesOfNat 32 k.toNat)) := by
  simp [State.measurements]

/-- Block 11 is the digest of the checkpoint keys (R479). -/
theorem State.measurements_ckptKeys (s : State) :
    s.measurements[11]? = some (sha512 (s.trust.ckptKeys.flatMap fun k => bytesOfNat 32 k.toNat)) := by
  simp [State.measurements]

/-- The measurements are answered block after block (R479). -/
theorem execGetMeasurements_replies (s : State) : exec .getMeasurements s =
    .next { s with trust := { s.trust with response := Config.spdmReply "GET_MEASUREMENTS" s.measurements.flatten } } := by
  rw [exec, execGetMeasurements, State.reply]

/-- Settles O52: each part is the lemma above of its instruction; the vendor requests are cut by kind (`VendorOf`). -/
theorem powerAndTrust : Obligations.PowerAndTrust := by
  intro s
  refine ⟨fun d core mask ratio hd hlen hcore => ⟨fun hc => execPowerWindow_between hc d core mask ratio,
      fun hc hr => execPowerWindow_sets hc hd hlen hcore mask hr⟩,
    fun d h => execDroopDetect_counts h, fun unit addr hu => execCorrectedError_counts hu addr, fun _ _ => rfl,
    fun d v hd hlen hv hnew => execVaultFailure_withdraws hd hlen hv hnew, execPackageReset_resets s, ⟨_, rfl, rfl, rfl, rfl, rfl⟩,
    ⟨execFirmwareUpdate_deaf, execFirmwareUpdate_stages⟩, execSpdm_replies s,
    ⟨s.measurements, s.measurements_length, execGetMeasurements_replies s, s.measurements_firmware, fun d hd h => s.measurements_die hd h,
      s.measurements_moduleKeys, s.measurements_ckptKeys⟩, execKeyExchange_opens s, fun n => ?_⟩
  refine ⟨execFinish_establishes s n, execKeyUpdate_rekeys s n, execHeartbeat_replies s n, execEndSession_closes s n, ?_⟩
  intro slot add key kss stream edited i hi
  have hvendor : VendorOf n i := by
    revert i
    simp only [List.forall_mem_cons]
    exact ⟨.region slot, .modules add key, .ckpts add key, .rekey kss, .ide stream, fun _ h => absurd h List.not_mem_nil⟩
  obtain ⟨t, ht, hrest, hno, hkss, hyes⟩ := hvendor.step s
  refine ⟨t, ht, hrest, fun ho => hno (Bool.eq_false_of_not_eq_true ho), hkss, ?_, ?_, ?_, ?_, ?_⟩
  · rintro ho rfl k
    rw [hyes ho]
    exact mem_append_new
  · rintro ho rfl
    rw [hyes ho]
    exact ⟨editKeys_edits _ add key, rfl⟩
  · rintro ho rfl
    rw [hyes ho]
    exact ⟨editKeys_edits _ add key, rfl⟩
  · rintro ho rfl
    rw [hyes ho]
    rfl
  · rintro ho rfl k
    rw [hyes ho]
    exact mem_ide_vendorEdit s.trust n stream k

end Sys2Proof.Machine
end

section
/-! Encoding and decoding (02_daxdex_form.md R56-R58, R61, R65, R71): the words of an instruction and back. -/
namespace Sys2Proof
open Sys2Proof.Machine

/-! ## Numbers and words -/

@[simp] theorem length_wordsOfNat (n v : Nat) : (wordsOfNat n v).length = n := by
  induction n generalizing v with
  | zero => rfl
  | succ n ih => simp [wordsOfNat, ih]

theorem natOfWords_wordsOfNat (n v : Nat) (h : v < 2 ^ (32 * n)) : natOfWords (wordsOfNat n v) = v := by
  induction n generalizing v with
  | zero => simp_all [wordsOfNat, natOfWords]
  | succ n ih =>
    have hv : v / 2 ^ 32 < 2 ^ (32 * n) := Nat.div_lt_of_lt_mul (by rwa [← Nat.pow_add, Nat.add_comm])
    simp only [wordsOfNat, natOfWords, BitVec.toNat_ofNat, ih _ hv]
    exact Nat.mod_add_div v _

theorem natOfWords_lt (ws : List Word) : natOfWords ws < 2 ^ (32 * ws.length) := by
  induction ws with
  | nil => simp [natOfWords]
  | cons w ws ih =>
    have hw := w.isLt
    rw [natOfWords, List.length_cons, Nat.mul_succ, Nat.pow_add]
    omega

theorem wordsOfNat_natOfWords (ws : List Word) : wordsOfNat ws.length (natOfWords ws) = ws := by
  induction ws with
  | nil => rfl
  | cons w ws ih =>
    have hw := w.isLt
    have hq : (w.toNat + 2 ^ 32 * natOfWords ws) / 2 ^ 32 = natOfWords ws := by omega
    have hm : BitVec.ofNat 32 (w.toNat + 2 ^ 32 * natOfWords ws) = w := by
      apply BitVec.eq_of_toNat_eq
      simp only [BitVec.toNat_ofNat]
      omega
    rw [List.length_cons, natOfWords, wordsOfNat, hq, ih, hm]

/-- A word is put together again from the number it is. -/
theorem ofNat_eq_of_toNat_eq {k n : Nat} {w : BitVec k} (h : w.toNat = n) : BitVec.ofNat k n = w := by
  rw [← h, BitVec.ofNat_toNat, BitVec.setWidth_eq]

/-! ## Operands -/

@[simp] theorem LitSize.ofCode_code (sz : LitSize) : LitSize.ofCode sz.code = sz := by cases sz <;> rfl

theorem LitSize.code_ofCode {c : Nat} (h : c < 4) : (LitSize.ofCode c).code = c := by
  interval_cases c <;> rfl

theorem LitSize.code_lt (sz : LitSize) : sz.code < 4 := by cases sz <;> decide

theorem LitSize.words_le (sz : LitSize) : sz.words ≤ 8 := by cases sz <;> decide

theorem parseOpnd_words (o : Opnd) (ws : List Word) (h : o.fits = true) : parseOpnd (o.words ++ ws) = .ok (o, ws) := by
  cases o with
  | val n =>
    have hn : n.toNat % 2 ^ 32 = n.toNat := Nat.mod_eq_of_lt (by omega)
    have h0 : n.toNat / 2 ^ 30 = 0 := Nat.div_eq_of_lt n.isLt
    have hv : BitVec.ofNat 30 n.toNat = n := ofNat_eq_of_toNat_eq rfl
    simp only [Opnd.words, List.singleton_append, parseOpnd, BitVec.toNat_ofNat, hn, if_pos h0, hv]
  | imm v =>
    have hn : (2 ^ 30 + v.toNat) % 2 ^ 32 = 2 ^ 30 + v.toNat := Nat.mod_eq_of_lt (by omega)
    have h1 : (2 ^ 30 + v.toNat) / 2 ^ 30 = 1 := by omega
    have hv : BitVec.ofNat 30 (2 ^ 30 + v.toNat) = v := BitVec.eq_of_toNat_eq (by simp only [BitVec.toNat_ofNat]; omega)
    simp only [Opnd.words, List.singleton_append, parseOpnd, BitVec.toNat_ofNat, hn, h1, hv, Nat.one_ne_zero, if_false, if_true]
  | lit sz v =>
    have hc := sz.code_lt
    have hv : v.toNat < 2 ^ (32 * sz.words) := of_decide_eq_true h
    have hn : (3 * 2 ^ 30 + sz.code * 2 ^ 28) % 2 ^ 32 = 3 * 2 ^ 30 + sz.code * 2 ^ 28 := Nat.mod_eq_of_lt (by omega)
    have h3 : (3 * 2 ^ 30 + sz.code * 2 ^ 28) / 2 ^ 30 = 3 := by omega
    have hz : (3 * 2 ^ 30 + sz.code * 2 ^ 28) % 2 ^ 28 = 0 := by omega
    have hs : (3 * 2 ^ 30 + sz.code * 2 ^ 28) / 2 ^ 28 % 4 = sz.code := by omega
    have hl := length_wordsOfNat sz.words v.toNat
    have hlen : ¬ (wordsOfNat sz.words v.toNat ++ ws).length < sz.words := by simp
    have hval : BitVec.ofNat 256 (natOfWords ((wordsOfNat sz.words v.toNat ++ ws).take sz.words)) = v := by
      rw [List.take_left' hl, natOfWords_wordsOfNat _ _ hv, BitVec.ofNat_toNat, BitVec.setWidth_eq]
    simp only [Opnd.words, List.cons_append, parseOpnd, BitVec.toNat_ofNat, hn, h3, hz, hs, LitSize.ofCode_code, if_neg hlen,
      List.drop_left' hl, hval]
    rfl

theorem words_of_parseOpnd {ws ws' : List Word} {o : Opnd} (h : parseOpnd ws = .ok (o, ws')) : ws = o.words ++ ws' ∧ o.fits = true := by
  cases ws with
  | nil => cases h
  | cons w ws =>
    have hw := w.isLt
    simp only [parseOpnd] at h
    split at h
    next h0 =>
      cases h
      refine ⟨?_, rfl⟩
      have hn : w.toNat % 2 ^ 30 = w.toNat := by omega
      rw [Opnd.words, BitVec.toNat_ofNat, hn, ofNat_eq_of_toNat_eq (w := w) rfl, List.singleton_append]
    next h0 =>
    split at h
    next h1 =>
      cases h
      refine ⟨?_, rfl⟩
      rw [Opnd.words, BitVec.toNat_ofNat, ofNat_eq_of_toNat_eq (w := w) (by omega), List.singleton_append]
    next h1 =>
    split at h
    · cases h
    next h2 =>
    split at h
    · cases h
    next hz =>
    have hc : w.toNat / 2 ^ 28 % 4 < 4 := Nat.mod_lt _ (by decide)
    have hcode := LitSize.code_ofCode hc
    generalize LitSize.ofCode (w.toNat / 2 ^ 28 % 4) = sz at h hcode
    split at h
    · cases h
    next hlen =>
      cases h
      have hl : (ws.take sz.words).length = sz.words := List.length_take_of_le (by omega)
      have hlt : natOfWords (ws.take sz.words) < 2 ^ (32 * sz.words) := by
        have := natOfWords_lt (ws.take sz.words)
        rwa [hl] at this
      have hle : 2 ^ (32 * sz.words) ≤ 2 ^ 256 := Nat.pow_le_pow_right (by decide) (by have := sz.words_le; omega)
      have hv : (BitVec.ofNat 256 (natOfWords (ws.take sz.words))).toNat = natOfWords (ws.take sz.words) := by
        rw [BitVec.toNat_ofNat, Nat.mod_eq_of_lt (by omega)]
      have hwords := wordsOfNat_natOfWords (ws.take sz.words)
      rw [hl] at hwords
      refine ⟨?_, by simpa only [Opnd.fits, hv, decide_eq_true_eq] using hlt⟩
      rw [Opnd.words, hv, hwords, ofNat_eq_of_toNat_eq (w := w) (by rw [hcode]; omega), List.cons_append, List.take_append_drop]

theorem parseArgs_words (as : List Opnd) (ws : List Word) (h : as.all Opnd.fits = true) :
    parseArgs as.length (opndsWords as ++ ws) = .ok (as, ws) := by
  induction as with
  | nil => rfl
  | cons a as ih =>
    rw [List.all_cons, Bool.and_eq_true] at h
    simp only [List.length_cons, opndsWords, List.append_assoc, parseArgs, parseOpnd_words a _ h.1, ih h.2]

theorem words_of_parseArgs {n : Nat} {ws ws' : List Word} {as : List Opnd} (h : parseArgs n ws = .ok (as, ws')) :
    ws = opndsWords as ++ ws' ∧ as.all Opnd.fits = true := by
  induction n generalizing ws as with
  | zero =>
    cases h
    exact ⟨rfl, rfl⟩
  | succ n ih =>
    simp only [parseArgs] at h
    split at h
    · cases h
    next o ws1 ho =>
    split at h
    · cases h
    next os ws2 hos =>
    cases h
    obtain ⟨rfl, hf⟩ := words_of_parseOpnd ho
    obtain ⟨rfl, hfs⟩ := ih hos
    exact ⟨by rw [opndsWords, List.append_assoc], by rw [List.all_cons, hf, hfs]; rfl⟩

/-- The words of a value, an immediate or a literal are no block operand (R58). -/
theorem parseRawOp_of_parseOpnd {argc : Nat → Nat} {ws ws' : List Word} {o : Opnd} (h : parseOpnd ws = .ok (o, ws')) :
    parseRawOp argc ws = .ok (.op o, ws') := by
  cases ws with
  | nil => cases h
  | cons w ws =>
    have hk : ¬ w.toNat / 2 ^ 30 = 2 := by
      intro h2
      simp only [parseOpnd, h2] at h
      cases h
    simp only [parseRawOp, if_neg hk, h]

/-- A block operand has as many arguments as its block takes (R61). -/
def RawOp.arityOk (argc : Nat → Nat) : RawOp → Prop
  | .op _ => True
  | .blk t => t.args.length = argc t.blk.toNat

theorem parseRawOp_words {argc : Nat → Nat} (o : RawOp) (ws : List Word) (hf : o.fits = true) (ha : o.arityOk argc) :
    parseRawOp argc (o.words ++ ws) = .ok (o, ws) := by
  cases o with
  | op o => exact parseRawOp_of_parseOpnd (parseOpnd_words o ws hf)
  | blk t =>
    have hn : (2 ^ 31 + t.blk.toNat) % 2 ^ 32 = 2 ^ 31 + t.blk.toNat := Nat.mod_eq_of_lt (by omega)
    have h2 : (2 ^ 31 + t.blk.toNat) / 2 ^ 30 = 2 := by omega
    have hm : (2 ^ 31 + t.blk.toNat) % 2 ^ 30 = t.blk.toNat := by omega
    have hb : BitVec.ofNat 30 (2 ^ 31 + t.blk.toNat) = t.blk := BitVec.eq_of_toNat_eq (by rw [BitVec.toNat_ofNat, hm])
    have hargs : parseArgs (argc t.blk.toNat) (opndsWords t.args ++ ws) = .ok (t.args, ws) := by
      rw [← show t.args.length = argc t.blk.toNat from ha]
      exact parseArgs_words t.args ws hf
    simp only [RawOp.words, List.cons_append, parseRawOp, BitVec.toNat_ofNat, hn, if_pos h2, hm, hb, hargs]

theorem words_of_parseRawOp {argc : Nat → Nat} {ws ws' : List Word} {o : RawOp} (h : parseRawOp argc ws = .ok (o, ws')) :
    ws = o.words ++ ws' ∧ o.fits = true := by
  cases ws with
  | nil => cases h
  | cons w ws =>
    have hw := w.isLt
    simp only [parseRawOp] at h
    split at h
    next h2 =>
      split at h
      · cases h
      next as ws1 has =>
      cases h
      obtain ⟨rfl, hf⟩ := words_of_parseArgs has
      refine ⟨?_, hf⟩
      rw [RawOp.words, BitVec.toNat_ofNat, ofNat_eq_of_toNat_eq (w := w) (by omega), List.cons_append]
    next =>
      split at h
      · cases h
      next o ws1 ho =>
      cases h
      exact words_of_parseOpnd ho

theorem parseOps_words {argc : Nat → Nat} (ops : List RawOp) (ws : List Word) (hf : ops.all RawOp.fits = true)
    (ha : ∀ o ∈ ops, o.arityOk argc) : parseOps argc ops.length (rawOpsWords ops ++ ws) = (ops, .ok ws) := by
  induction ops with
  | nil => rfl
  | cons o os ih =>
    rw [List.all_cons, Bool.and_eq_true] at hf
    rw [List.forall_mem_cons] at ha
    simp only [List.length_cons, rawOpsWords, List.append_assoc, parseOps, parseRawOp_words o _ hf.1 ha.1, ih hf.2 ha.2]

theorem words_of_parseOps {argc : Nat → Nat} {n : Nat} {ws ws' : List Word} {ops : List RawOp} (h : parseOps argc n ws = (ops, .ok ws')) :
    ws = rawOpsWords ops ++ ws' ∧ ops.all RawOp.fits = true ∧ ops.length = n := by
  induction n generalizing ws ops with
  | zero =>
    cases h
    exact ⟨rfl, rfl, rfl⟩
  | succ n ih =>
    simp only [parseOps] at h
    split at h
    · cases h
    next o ws1 ho =>
    obtain ⟨rfl, hf⟩ := words_of_parseRawOp ho
    generalize hp : parseOps argc n ws1 = p at h
    obtain ⟨os, rest⟩ := p
    cases h
    obtain ⟨rfl, hfs, hlen⟩ := ih hp
    exact ⟨by rw [rawOpsWords, List.append_assoc], by rw [List.all_cons, hf, hfs]; rfl, by rw [List.length_cons, hlen]⟩

/-! ## The head word -/

@[simp] theorem Elem.ofCode_code (e : Elem) : Elem.ofCode e.code = e := by cases e <;> rfl

theorem Elem.code_ofCode {c : Nat} (h : c < 16) : (Elem.ofCode c).code = c := by
  interval_cases c <;> rfl

theorem Elem.code_lt (e : Elem) : e.code < 16 := by cases e <;> decide

theorem Ty.code_lt (t : Ty) : t.code < 64 := by
  cases t with
  | num sh e =>
    have he := e.code_lt
    cases sh <;> simp only [Ty.code] <;> omega
  | _ => decide

@[simp] theorem Ty.ofCode_code (t : Ty) : Ty.ofCode t.code = some t := by
  cases t with
  | num sh e => cases sh <;> cases e <;> rfl
  | _ => rfl

theorem Ty.code_of_ofCode {c : Nat} {t : Ty} (h : Ty.ofCode c = some t) : t.code = c := by
  unfold Ty.ofCode at h
  split at h
  next hc =>
    cases h
    exact Elem.code_ofCode hc
  next =>
  split at h
  next =>
    split at h <;> cases h <;> rfl
  next =>
  split at h
  next =>
    cases h
    rw [Ty.code, Elem.code_ofCode (by omega)]
    omega
  next =>
  split at h
  next =>
    cases h
    rw [Ty.code, Elem.code_ofCode (by omega)]
    omega
  next => cases h

/-! ## The check -/

theorem firstSome_eq_none {l : List (Option Reject)} : firstSome l = none ↔ ∀ o ∈ l, o = none := by
  induction l with
  | nil => simp [firstSome]
  | cons o l ih => cases o <;> simp [firstSome, ih]

/-- An instruction passes the check when its opcode has a row and it passes every check of the row. -/
theorem checkRaw_eq_none {user : Bool} {r : Raw} {n : Nat} {stop : Option Reject} : checkRaw user r n stop = none ↔
    ∃ rw, rowOf r.opc = some rw ∧ rw.tyOk r.ty = true ∧ rw.arity.countOk (rw.pos r.ty r.mod).length n = true ∧
      checkOps rw r.ty r.mod r.ops = none ∧ checkOperandRules r = none ∧ stop = none ∧ checkModFrom rw.mods r.mod 12 0 = none ∧
      rw.extra r.ty r.mod r.ops = none ∧ checkLevel user rw r = none := by
  unfold checkRaw
  cases rowOf r.opc with
  | none => simp [ite_eq_iff]
  | some rw => simp [ite_eq_iff, firstSome_eq_none]

theorem checkRaw_false_of_user {user : Bool} {r : Raw} {n : Nat} (h : checkRaw user r n none = none) : checkRaw false r n none = none := by
  obtain ⟨rw, hrow, hty, hcount, hops, hrules, hstop, hmod, hextra, -⟩ := checkRaw_eq_none.mp h
  exact checkRaw_eq_none.mpr ⟨rw, hrow, hty, hcount, hops, hrules, hstop, hmod, hextra, by simp [checkLevel]⟩

/-! ## The raw form and its words -/

/-- The four fields of a head word (R56). -/
theorem head_fields {opc ty nop mod : Nat} (hopc : opc < 1024) (hty : ty < 64) (hnop : nop < 16) (hmod : mod < 4096) {w : Word}
    (hw : w = BitVec.ofNat 32 (opc * 2 ^ 22 + ty * 2 ^ 16 + nop * 2 ^ 12 + mod)) :
    w.toNat / 2 ^ 22 = opc ∧ w.toNat / 2 ^ 16 % 64 = ty ∧ w.toNat / 2 ^ 12 % 16 = nop ∧ w.toNat % 2 ^ 12 = mod := by
  have hv : w.toNat = opc * 2 ^ 22 + ty * 2 ^ 16 + nop * 2 ^ 12 + mod := by
    rw [hw, BitVec.toNat_ofNat, Nat.mod_eq_of_lt (by omega)]
  omega

theorem decodeRaw_words {user : Bool} {argc : Nat → Nat} {r : Raw} (rest : List Word) (hf : r.fits = true)
    (hc : checkRaw user r r.ops.length none = none) (ha : ∀ o ∈ r.ops, o.arityOk argc) :
    decodeRaw user argc (r.words ++ rest) = .ok (r, rest) := by
  obtain ⟨rw, hrow, -⟩ := checkRaw_eq_none.mp hc
  simp only [Raw.fits, Bool.and_eq_true, decide_eq_true_eq] at hf
  obtain ⟨⟨⟨hopc, hmod⟩, hlen⟩, hops⟩ := hf
  have hparse := parseOps_words r.ops rest hops ha
  let nop := if r.ops.length < 15 then r.ops.length else 15
  have hnop : nop < 16 := by
    simp only [nop]
    split <;> omega
  obtain ⟨w, hw, hwords⟩ : ∃ w, w = BitVec.ofNat 32 (r.opc * 2 ^ 22 + r.ty.code * 2 ^ 16 + nop * 2 ^ 12 + r.mod) ∧
      r.words = w :: ((if r.ops.length < 15 then [] else [BitVec.ofNat 32 r.ops.length]) ++ rawOpsWords r.ops) := ⟨_, rfl, rfl⟩
  obtain ⟨h1, h2, h3, h4⟩ := head_fields hopc r.ty.code_lt hnop hmod hw
  rw [hwords]
  by_cases hn : r.ops.length < 15
  · simp only [nop, if_pos hn] at h3
    simp only [if_pos hn, List.cons_append, List.nil_append, decodeRaw, h1, h2, h3, h4, hrow, Ty.ofCode_code, hparse, hc]
  · simp only [nop, if_neg hn] at h3
    have hcount : (BitVec.ofNat 32 r.ops.length).toNat = r.ops.length := by
      rw [BitVec.toNat_ofNat, Nat.mod_eq_of_lt (by omega)]
    have hrange : ¬ (r.ops.length < 15 ∨ 65535 < r.ops.length) := by omega
    simp only [if_neg hn, List.cons_append, List.nil_append, decodeRaw, h1, h2, h3, h4, hrow, Ty.ofCode_code, hcount,
      if_neg hrange, Nat.lt_irrefl, if_false, hparse, hc]

theorem words_of_decodeRaw {user : Bool} {argc : Nat → Nat} {ws rest : List Word} {r : Raw} (h : decodeRaw user argc ws = .ok (r, rest)) :
    ws = r.words ++ rest ∧ r.fits = true ∧ checkRaw user r r.ops.length none = none := by
  cases ws with
  | nil => cases h
  | cons w ws =>
    have hw := w.isLt
    simp only [decodeRaw] at h
    split at h
    · cases h
    split at h
    · cases h
    next ty hty =>
    have hcode := Ty.code_of_ofCode hty
    split at h
    · cases h
    next count ws2 hext =>
    generalize hp : parseOps argc count ws2 = p at h
    obtain ⟨ops, stop⟩ := p
    split at h
    · cases h
    next rest' hstop =>
    obtain rfl : stop = .ok rest' := hstop
    split at h
    · cases h
    next hc =>
    cases h
    obtain ⟨rfl, hops, hlen⟩ := words_of_parseOps hp
    rw [← hlen] at hc
    have hcount : ops.length ≤ 65535 ∧ w :: ws = Raw.words ⟨w.toNat / 2 ^ 22, ty, w.toNat % 2 ^ 12, ops⟩ ++ rest := by
      split at hext
      next hn =>
        cases hext
        rw [← hlen] at hn
        refine ⟨by omega, ?_⟩
        rw [Raw.words, if_pos hn, if_pos hn, ofNat_eq_of_toNat_eq (w := w) (by simp only [hcode]; omega)]
        rfl
      next hn =>
      split at hext
      · cases hext
      next c ws3 =>
      split at hext
      · cases hext
      next hrange =>
      cases hext
      have hl : ¬ ops.length < 15 := by omega
      refine ⟨by omega, ?_⟩
      rw [Raw.words, if_neg hl, if_neg hl, ofNat_eq_of_toNat_eq (w := w) (by simp only [hcode]; omega), ofNat_eq_of_toNat_eq hlen.symm]
      rfl
    refine ⟨hcount.2, ?_, hc⟩
    have hopc : w.toNat / 2 ^ 22 < 1024 := by omega
    have hmod : w.toNat % 2 ^ 12 < 4096 := by omega
    simp only [Raw.fits, hopc, hmod, hcount.1, hops, decide_true, Bool.and_self]

/-! ## What a passed check of the modifier says of its fields -/

theorem field_lt (m lo w : Nat) : field m lo w < 2 ^ w := Nat.mod_lt _ (Nat.two_pow_pos w)

theorem field_zero_of_bits {m lo w : Nat} (h : ∀ j, j < w → field m (lo + j) 1 = 0) : field m lo w = 0 := by
  induction w with
  | zero => simp [field, Nat.mod_one]
  | succ w ih =>
    have hw := h w w.lt_succ_self
    have hlow := ih fun j hj => h j (Nat.lt_succ_of_lt hj)
    simp only [field, pow_add, ← Nat.div_div_eq_div_mul, pow_one] at hw hlow ⊢
    rw [Nat.mod_mul, hlow, hw, Nat.mul_zero]

/-- Bit `c` of the modifier belongs to a field that begins below it. -/
def covered (fs : List MField) (c : Nat) : Bool := fs.any fun f => f.lo ≤ c && c < f.lo + f.w

theorem checkModFrom_succ {fs : List MField} {m k b : Nat} : checkModFrom fs m (k + 1) b = none ↔
    (∀ f, fs.find? (fun f => f.lo == b) = some f → f.ok (field m f.lo f.w) = true) ∧
      (fs.find? (fun f => f.lo == b) = none → covered fs b = false → field m b 1 = 0) ∧ checkModFrom fs m k (b + 1) = none := by
  have hbit : field m b 1 = 0 ∨ field m b 1 = 1 := by
    have := field_lt m b 1
    omega
  rw [checkModFrom, covered]
  cases fs.find? (fun f => f.lo == b) with
  | some f => cases hok : f.ok (field m f.lo f.w) <;> simp [hok]
  | none => rcases hbit with hbit | hbit <;> simp [hbit, ite_eq_iff]

theorem field_of_checkModFrom {fs : List MField} {m k b c : Nat} (h : checkModFrom fs m k b = none) (hb : b ≤ c) (hk : c < b + k) :
    (∀ f, fs.find? (fun f => f.lo == c) = some f → f.ok (field m f.lo f.w) = true) ∧
      (fs.find? (fun f => f.lo == c) = none → covered fs c = false → field m c 1 = 0) := by
  induction k generalizing b with
  | zero => omega
  | succ k ih =>
    obtain ⟨hfield, hfree, hrest⟩ := checkModFrom_succ.mp h
    rcases Nat.eq_or_lt_of_le hb with rfl | hlt
    · exact ⟨hfield, hfree⟩
    · exact ih hrest hlt (by omega)

/-- The fields `fs` leave to the bits from `lo` on only codes of which `p` holds: they have one field there, whose codes are such, or none. -/
def onlyCodes (fs : List MField) (lo w : Nat) (p : Nat → Bool) : Bool :=
  match fs.find? (fun f => f.lo == lo) with
  | some f => f.w == w && (List.range (2 ^ w)).all fun c => !f.ok c || p c
  | none => p 0 && (List.range w).all fun j => (fs.find? fun f => f.lo == lo + j).isNone && !covered fs (lo + j)

theorem field_codes {fs : List MField} {m lo w : Nat} {p : Nat → Bool} (h : checkModFrom fs m 12 0 = none)
    (hbits : lo + w ≤ 12 ∧ lo < 12 ∧ onlyCodes fs lo w p = true) : p (field m lo w) = true := by
  obtain ⟨hend, hlo, hp⟩ := hbits
  unfold onlyCodes at hp
  cases hf : fs.find? (fun f => f.lo == lo) with
  | some f =>
    simp only [hf, Bool.and_eq_true, beq_iff_eq, List.all_eq_true, List.mem_range] at hp
    obtain ⟨rfl, hcodes⟩ := hp
    obtain rfl : f.lo = lo := by simpa using List.find?_some hf
    have hok := (field_of_checkModFrom h (Nat.zero_le _) (by omega)).1 f hf
    simpa [hok] using hcodes _ (field_lt m f.lo f.w)
  | none =>
    simp only [hf, Bool.and_eq_true, List.all_eq_true, List.mem_range, Option.isNone_iff_eq_none, Bool.not_eq_true'] at hp
    obtain ⟨hzero, hfree⟩ := hp
    have hclear : ∀ j, j < w → field m (lo + j) 1 = 0 := fun j hj =>
      (field_of_checkModFrom h (Nat.zero_le _) (by omega)).2 (hfree j hj).1 (hfree j hj).2
    rwa [field_zero_of_bits hclear]

theorem field_le {fs : List MField} {m lo w n : Nat} (h : checkModFrom fs m 12 0 = none)
    (hbits : lo + w ≤ 12 ∧ lo < 12 ∧ onlyCodes fs lo w (upTo n) = true) : field m lo w ≤ n :=
  of_decide_eq_true (field_codes h hbits)

theorem field_eq {fs : List MField} {m lo w n : Nat} (h : checkModFrom fs m 12 0 = none)
    (hbits : lo + w ≤ 12 ∧ lo < 12 ∧ onlyCodes fs lo w (· == n) = true) : field m lo w = n :=
  eq_of_beq (field_codes h hbits)

/-- A field of the codes of an MX format (R315). -/
theorem field_mx {fs : List MField} {m lo w : Nat} (h : checkModFrom fs m 12 0 = none)
    (hbits : lo + w ≤ 12 ∧ lo < 12 ∧ onlyCodes fs lo w (fun c => 1 ≤ c && c ≤ 3) = true) : 1 ≤ field m lo w ∧ field m lo w ≤ 3 := by
  simpa using field_codes h hbits

/-! ## Codes of the modifier's fields -/

theorem bitOf_field (m lo : Nat) : bitOf (field m lo 1 == 1) = field m lo 1 := by
  have h := field_lt m lo 1
  generalize field m lo 1 = c at h
  interval_cases c <;> rfl

theorem Rnd.code_ofCode {c : Nat} (h : c ≤ 5) : (Rnd.ofCode c).code = c := by interval_cases c <;> rfl
theorem Ord.code_ofCode {c : Nat} (h : c < 4) : (Ord.ofCode c).code = c := by interval_cases c <;> rfl
theorem Evict.code_ofCode {c : Nat} (h : c ≤ 5) : (Evict.ofCode c).code = c := by interval_cases c <;> rfl
theorem Space.code_ofCode {c : Nat} (h : c ≤ 6) : (Space.ofCode c).code = c := by interval_cases c <;> rfl
theorem Cmp.code_ofCode {c : Nat} (h : c ≤ 9) : (Cmp.ofCode c).code = c := by interval_cases c <;> rfl
theorem FCmp.code_ofCode {c : Nat} (h : c ≤ 7) : (FCmp.ofCode c).code = c := by interval_cases c <;> rfl
theorem LaneOp.code_ofCode {c : Nat} (h : c ≤ 8) : (LaneOp.ofCode c).code = c := by interval_cases c <;> rfl
theorem OutFmt.code_ofCode {c : Nat} (h : c ≤ 2) : (OutFmt.ofCode c).code = c := by interval_cases c <;> rfl
theorem mxCode_mxOfCode {c : Nat} (h : 1 ≤ c ∧ c ≤ 3) : mxCode (mxOfCode c) = c := by
  obtain ⟨h1, h3⟩ := h
  interval_cases c <;> rfl

theorem toNat_ofNat_field (m lo w : Nat) : (BitVec.ofNat w (field m lo w)).toNat = field m lo w := by
  rw [BitVec.toNat_ofNat, Nat.mod_eq_of_lt (field_lt m lo w)]

theorem MMod.ofCode_code (m : MMod) : MMod.ofCode m.code = m := by
  obtain ⟨ord, scope, evict, space, reassoc⟩ := m
  have hord : ord.code < 4 ∧ Ord.ofCode ord.code = ord := by cases ord <;> decide
  have hevict : evict.code < 8 ∧ Evict.ofCode evict.code = evict := by cases evict <;> decide
  have hspace : space.code < 8 ∧ Space.ofCode space.code = space := by cases space <;> decide
  have hre : bitOf reassoc < 2 ∧ (bitOf reassoc == 1) = reassoc := by cases reassoc <;> decide
  have hcode : (MMod.mk ord scope evict space reassoc).code =
      ord.code + 4 * scope.toNat + 32 * evict.code + 256 * space.code + 2048 * bitOf reassoc := rfl
  generalize (MMod.mk ord scope evict space reassoc).code = c at hcode ⊢
  have h1 : field c 0 2 = ord.code := by
    unfold field
    omega
  have h2 : field c 2 3 = scope.toNat := by
    unfold field
    omega
  have h3 : field c 5 3 = evict.code := by
    unfold field
    omega
  have h4 : field c 8 3 = space.code := by
    unfold field
    omega
  have h5 : field c 11 1 = bitOf reassoc := by
    unfold field
    omega
  simp only [MMod.ofCode, h1, h2, h3, h4, h5, hord.2, hevict.2, hspace.2, hre.2, ofNat_eq_of_toNat_eq (w := scope) rfl]

section Modifiers
variable {m : Nat} (hlt : m < 4096)
include hlt

theorem mod_zero (h : field m 0 12 ≤ 0) : 0 = m := by
  simp only [field] at h
  omega

theorem mod_cmp (h : field m 0 4 ≤ 9 ∧ field m 4 8 ≤ 0) : (Cmp.ofCode (field m 0 4)).code = m := by
  rw [Cmp.code_ofCode h.1]
  simp only [field] at h ⊢
  omega

theorem mod_lea (h : field m 3 9 ≤ 0) : (BitVec.ofNat 3 (field m 0 3)).toNat = m := by
  rw [toNat_ofNat_field]
  simp only [field] at h ⊢
  omega

theorem FMod.code_ofCode (h : field m 0 3 ≤ 5 ∧ field m 6 6 ≤ 0) : (FMod.ofCode m).code = m := by
  simp only [FMod.code, FMod.ofCode, Rnd.code_ofCode h.1, bitOf_field]
  simp only [field] at h ⊢
  omega

theorem mod_ftzi (h : field m 0 4 ≤ 0 ∧ field m 5 7 ≤ 0) : 16 * bitOf (field m 4 1 == 1) = m := by
  rw [bitOf_field]
  simp only [field] at h ⊢
  omega

theorem mod_fcmp (h : field m 0 4 ≤ 0 ∧ field m 5 1 ≤ 0 ∧ field m 6 4 ≤ 7 ∧ field m 10 2 ≤ 0) :
    16 * bitOf (field m 4 1 == 1) + 64 * (FCmp.ofCode (field m 6 4)).code = m := by
  obtain ⟨hlow, hbit5, hcode, hhigh⟩ := h
  rw [bitOf_field, FCmp.code_ofCode hcode]
  simp only [field] at hlow hbit5 hhigh ⊢
  omega

theorem mod_rnd_ftzi (h : field m 0 3 ≤ 5 ∧ field m 3 1 ≤ 0 ∧ field m 5 7 ≤ 0) :
    (Rnd.ofCode (field m 0 3)).code + 16 * bitOf (field m 4 1 == 1) = m := by
  rw [bitOf_field, Rnd.code_ofCode h.1]
  simp only [field] at h ⊢
  omega

theorem mod_rnd_sat (h : field m 0 3 ≤ 5 ∧ field m 4 8 ≤ 0) :
    (Rnd.ofCode (field m 0 3)).code + 8 * bitOf (field m 3 1 == 1) = m := by
  rw [bitOf_field, Rnd.code_ofCode h.1]
  simp only [field] at h ⊢
  omega

theorem mod_rnd_sat_ftzo (h : field m 0 3 ≤ 5 ∧ field m 4 1 ≤ 0 ∧ field m 6 6 ≤ 0) :
    (Rnd.ofCode (field m 0 3)).code + 8 * bitOf (field m 3 1 == 1) + 32 * bitOf (field m 5 1 == 1) = m := by
  rw [bitOf_field, bitOf_field, Rnd.code_ofCode h.1]
  simp only [field] at h ⊢
  omega

theorem mod_lred (h : field m 0 4 ≤ 8 ∧ field m 4 8 ≤ 0) : (LaneOp.ofCode (field m 0 4)).code = m := by
  rw [LaneOp.code_ofCode h.1]
  simp only [field] at h ⊢
  omega

theorem mod_lscan (h : field m 0 4 ≤ 8 ∧ field m 5 7 ≤ 0) : (LaneOp.ofCode (field m 0 4)).code + 16 * bitOf (field m 4 1 == 1) = m := by
  rw [bitOf_field, LaneOp.code_ofCode h.1]
  simp only [field] at h ⊢
  omega

theorem mod_spsoftmax (h : field m 0 2 ≤ 2 ∧ field m 2 10 ≤ 0) : (OutFmt.ofCode (field m 0 2)).code = m := by
  rw [OutFmt.code_ofCode h.1]
  simp only [field] at h ⊢
  omega

theorem MMod.code_ofCode (h : field m 5 3 ≤ 5 ∧ field m 8 3 ≤ 6) : (MMod.ofCode m).code = m := by
  simp only [MMod.code, MMod.ofCode, Ord.code_ofCode (field_lt m 0 2), toNat_ofNat_field, Evict.code_ofCode h.1, Space.code_ofCode h.2, bitOf_field]
  simp only [field]
  omega

theorem mod_wbline (h : field m 0 2 ≤ 0 ∧ field m 2 6 ≤ 0 ∧ field m 8 3 = 2 ∧ field m 11 1 ≤ 0) : 256 * Space.priv.code = m := by
  simp only [field, Space.code] at h ⊢
  omega

theorem mod_space (h : field m 0 2 ≤ 0 ∧ field m 2 6 ≤ 0 ∧ field m 8 3 ≤ 6 ∧ field m 11 1 ≤ 0) :
    256 * (Space.ofCode (field m 8 3)).code = m := by
  obtain ⟨hord, hmid, hspace, hhigh⟩ := h
  rw [Space.code_ofCode hspace]
  simp only [field] at hord hmid hhigh ⊢
  omega

theorem mod_fence (h : field m 5 7 ≤ 0) : (Ord.ofCode (field m 0 2)).code + 4 * (BitVec.ofNat 3 (field m 2 3)).toNat = m := by
  rw [Ord.code_ofCode (field_lt m 0 2), toNat_ofNat_field]
  simp only [field] at h ⊢
  omega

theorem mod_bar (h : field m 0 2 ≤ 0 ∧ field m 5 3 ≤ 0 ∧ field m 8 3 ≤ 1 ∧ field m 11 1 ≤ 0) :
    barMod (BitVec.ofNat 3 (field m 2 3)) (Space.ofCode (field m 8 3)) = m := by
  rw [barMod, toNat_ofNat_field, Space.code_ofCode (by omega)]
  simp only [field] at h ⊢
  omega

theorem mod_mma (h : field m 10 2 ≤ 0) : (Elem.ofCode (field m 0 4)).code + 16 * (Elem.ofCode (field m 4 4)).code +
    256 * bitOf (field m 8 1 == 1) + 512 * bitOf (field m 9 1 == 1) = m := by
  rw [Elem.code_ofCode (field_lt m 0 4), Elem.code_ofCode (field_lt m 4 4), bitOf_field, bitOf_field]
  simp only [field] at h ⊢
  omega

theorem mod_mmamx (h : (1 ≤ field m 0 4 ∧ field m 0 4 ≤ 3) ∧ (1 ≤ field m 4 4 ∧ field m 4 4 ≤ 3) ∧ field m 8 4 ≤ 0) :
    mxCode (mxOfCode (field m 0 4)) + 16 * mxCode (mxOfCode (field m 4 4)) = m := by
  obtain ⟨ha, hb, hhigh⟩ := h
  rw [mxCode_mxOfCode ha, mxCode_mxOfCode hb]
  simp only [field] at hhigh ⊢
  omega

theorem mod_bit0 (h : field m 1 11 ≤ 0) : bitOf (field m 0 1 == 1) = m := by
  rw [bitOf_field]
  simp only [field] at h ⊢
  omega

end Modifiers

/-! ## An instruction's raw form is the one it was read from -/

/-- The row of the opcode takes the TYPE. -/
def tyTaken (opc : Nat) (t : Ty) : Bool := (rowOf opc).any (·.tyOk t)

/-- The modifier fields of the row of the opcode. -/
def modFields (opc : Nat) : List MField := (rowOf opc).elim [] Row.mods

theorem ty_of_tyEq {t u : Ty} (h : tyEq u t = true) : u = t := (eq_of_beq h).symm

theorem raw_congr {opc m n : Nat} {t u : Ty} {ops : List RawOp} (ht : t = u) (hm : m = n) :
    some (Raw.mk opc t m ops) = some ⟨opc, u, n, ops⟩ := by rw [ht, hm]

theorem map_op_of_opndsOf {ops : List RawOp} {as : List Opnd} (h : opndsOf ops = some as) : as.map .op = ops := by
  induction ops generalizing as with
  | nil =>
    cases h
    rfl
  | cons o os ih =>
    cases o with
    | blk t => cases h
    | op a =>
      obtain ⟨bs, hbs, rfl⟩ := Option.map_eq_some_iff.mp h
      rw [List.map_cons, ih hbs]

theorem map_blk_of_targetsOf {ops : List RawOp} {ts : List Target} (h : targetsOf ops = some ts) : ts.map .blk = ops := by
  induction ops generalizing ts with
  | nil =>
    cases h
    rfl
  | cons o os ih =>
    cases o with
    | op a => cases h
    | blk t =>
      obtain ⟨us, hus, rfl⟩ := Option.map_eq_some_iff.mp h
      rw [List.map_cons, ih hus]

section Classes
variable {opc mod : Nat} {ty : Ty} {ops : List RawOp} {i : Instr} (hlt : mod < 4096) (hty : tyTaken opc ty = true)
  (hmod : checkModFrom (modFields opc) mod 12 0 = none)
include hlt hty hmod

theorem toRaw_of_ofRawControl (h : ofRawControl ⟨opc, ty, mod, ops⟩ = some i) : toRaw i = some ⟨opc, ty, mod, ops⟩ := by
  unfold ofRawControl nul immOp idxArgs idxAddrArgs at h
  simp only at h
  split at h
  case h_3 => -- brsw
    split at h
    · obtain ⟨ts, hts, rfl⟩ := Option.map_eq_some_iff.mp h
      rw [← map_blk_of_targetsOf hts]
      exact raw_congr rfl (mod_zero hlt (field_le hmod (by decide)))
    · cases h
  case h_18 => -- lpidx
    split at h <;> cases h
    exact raw_congr rfl (mod_zero hlt (field_le hmod (by decide)))
  case h_9 => -- ret
    obtain ⟨as, has, rfl⟩ := Option.map_eq_some_iff.mp h
    rw [← map_op_of_opndsOf has]
    exact raw_congr (ty_of_tyEq hty) (mod_zero hlt (field_le hmod (by decide)))
  case h_4 | h_5 | h_6 | h_7 | h_8 => -- call, callx, calll, tcall, tcallx
    split at h
    · obtain ⟨as, has, rfl⟩ := Option.map_eq_some_iff.mp h
      rw [← map_op_of_opndsOf has]
      exact raw_congr (ty_of_tyEq hty) (mod_zero hlt (field_le hmod (by decide)))
    · cases h
  any_goals split at h
  all_goals cases h
  all_goals exact raw_congr (ty_of_tyEq hty) (mod_zero hlt (field_le hmod (by decide)))

theorem toRaw_of_ofRawInt (h : ofRawInt ⟨opc, ty, mod, ops⟩ = some i) : toRaw i = some ⟨opc, ty, mod, ops⟩ := by
  unfold ofRawInt un bin ter quad immOp at h
  simp only at h
  split at h
  case h_32 => -- cmp
    split at h <;> cases h
    exact raw_congr rfl (mod_cmp hlt ⟨field_le hmod (by decide), field_le hmod (by decide)⟩)
  case h_37 => -- lea
    split at h <;> cases h
    exact raw_congr (ty_of_tyEq hty) (mod_lea hlt (field_le hmod (by decide)))
  any_goals split at h
  all_goals cases h
  all_goals exact raw_congr rfl (mod_zero hlt (field_le hmod (by decide)))

theorem toRaw_of_ofRawFloat (h : ofRawFloat ⟨opc, ty, mod, ops⟩ = some i) : toRaw i = some ⟨opc, ty, mod, ops⟩ := by
  unfold ofRawFloat un bin ter at h
  simp only at h
  split at h
  case h_9 | h_10 | h_15 => -- fmin, fmax, fclass
    split at h <;> cases h
    exact raw_congr rfl (mod_ftzi hlt ⟨field_le hmod (by decide), field_le hmod (by decide)⟩)
  case h_11 | h_12 | h_13 => -- fabs, fneg, fcpsgn
    split at h <;> cases h
    exact raw_congr rfl (mod_zero hlt (field_le hmod (by decide)))
  case h_14 => -- fcmp
    split at h <;> cases h
    exact raw_congr rfl (mod_fcmp hlt
      ⟨field_le hmod (by decide), field_le hmod (by decide), field_le hmod (by decide), field_le hmod (by decide)⟩)
  case h_16 | h_26 | h_30 => -- frint, ftoi, mxq
    split at h <;> cases h
    exact raw_congr rfl (mod_rnd_ftzi hlt ⟨field_le hmod (by decide), field_le hmod (by decide), field_le hmod (by decide)⟩)
  case h_27 => -- itof
    split at h <;> cases h
    exact raw_congr rfl (mod_rnd_sat hlt ⟨field_le hmod (by decide), field_le hmod (by decide)⟩)
  case h_29 => -- funpack2
    split at h <;> cases h
    exact raw_congr (ty_of_tyEq hty) (mod_ftzi hlt ⟨field_le hmod (by decide), field_le hmod (by decide)⟩)
  case h_31 => -- mxdq
    split at h <;> cases h
    exact raw_congr rfl (mod_rnd_sat_ftzo hlt ⟨field_le hmod (by decide), field_le hmod (by decide), field_le hmod (by decide)⟩)
  case h_32 => -- fsflag
    split at h <;> cases h
    exact raw_congr (ty_of_tyEq hty) (mod_zero hlt (field_le hmod (by decide)))
  any_goals split at h
  all_goals cases h
  all_goals exact raw_congr rfl (FMod.code_ofCode hlt ⟨field_le hmod (by decide), field_le hmod (by decide)⟩)

theorem toRaw_of_ofRawLane (h : ofRawLane ⟨opc, ty, mod, ops⟩ = some i) : toRaw i = some ⟨opc, ty, mod, ops⟩ := by
  unfold ofRawLane un bin quad at h
  simp only at h
  split at h
  case h_5 | h_6 | h_7 | h_10 | h_11 => -- lvote, lany, lall, lfirst, lmatch
    split at h <;> cases h
    exact raw_congr (ty_of_tyEq hty) (mod_zero hlt (field_le hmod (by decide)))
  case h_8 => -- lred
    split at h <;> cases h
    exact raw_congr rfl (mod_lred hlt ⟨field_le hmod (by decide), field_le hmod (by decide)⟩)
  case h_9 => -- lscan
    split at h <;> cases h
    exact raw_congr rfl (mod_lscan hlt ⟨field_le hmod (by decide), field_le hmod (by decide)⟩)
  case h_14 => -- spsoftmax
    split at h <;> cases h
    exact raw_congr rfl (mod_spsoftmax hlt ⟨field_le hmod (by decide), field_le hmod (by decide)⟩)
  any_goals split at h
  all_goals cases h
  all_goals exact raw_congr rfl (mod_zero hlt (field_le hmod (by decide)))

theorem toRaw_of_ofRawMem (h : ofRawMem ⟨opc, ty, mod, ops⟩ = some i) : toRaw i = some ⟨opc, ty, mod, ops⟩ := by
  unfold ofRawMem un bin ter at h
  simp only at h
  split at h
  case h_1 | h_2 | h_3 | h_4 => -- ld, st, ldv, stv
    split at h <;> cases h
    exact raw_congr rfl (MMod.code_ofCode hlt ⟨field_le hmod (by decide), field_le hmod (by decide)⟩)
  case h_8 => -- wbline
    split at h <;> cases h
    exact raw_congr (ty_of_tyEq hty) (mod_wbline hlt
      ⟨field_le hmod (by decide), field_le hmod (by decide), field_eq hmod (by decide), field_le hmod (by decide)⟩)
  case h_9 => -- invline
    split at h <;> cases h
    exact raw_congr (ty_of_tyEq hty) (mod_space hlt
      ⟨field_le hmod (by decide), field_le hmod (by decide), field_le hmod (by decide), field_le hmod (by decide)⟩)
  case h_11 | h_12 => -- spq, pvbase
    split at h <;> cases h
    exact raw_congr (ty_of_tyEq hty) (mod_zero hlt (field_le hmod (by decide)))
  any_goals split at h
  all_goals cases h
  all_goals exact raw_congr (ty_of_tyEq hty) (MMod.code_ofCode hlt ⟨field_le hmod (by decide), field_le hmod (by decide)⟩)

theorem toRaw_of_ofRawOrd (h : ofRawOrd ⟨opc, ty, mod, ops⟩ = some i) : toRaw i = some ⟨opc, ty, mod, ops⟩ := by
  unfold ofRawOrd un bin nul at h
  simp only at h
  split at h
  case h_1 => -- fence
    split at h <;> cases h
    exact raw_congr (ty_of_tyEq hty) (mod_fence hlt (field_le hmod (by decide)))
  case h_9 => -- waitval
    split at h <;> cases h
    exact raw_congr rfl (MMod.code_ofCode hlt ⟨field_le hmod (by decide), field_le hmod (by decide)⟩)
  case h_2 | h_10 | h_11 | h_12 => -- drain, sleep, wake, opfence
    split at h <;> cases h
    exact raw_congr (ty_of_tyEq hty) (mod_zero hlt (field_le hmod (by decide)))
  any_goals split at h
  all_goals cases h
  all_goals exact raw_congr (ty_of_tyEq hty) (mod_bar hlt
    ⟨field_le hmod (by decide), field_le hmod (by decide), field_le hmod (by decide), field_le hmod (by decide)⟩)

theorem toRaw_of_ofRawAtom (h : ofRawAtom ⟨opc, ty, mod, ops⟩ = some i) : toRaw i = some ⟨opc, ty, mod, ops⟩ := by
  unfold ofRawAtom bin ter at h
  simp only at h
  split at h
  any_goals split at h
  all_goals cases h
  all_goals exact raw_congr rfl (MMod.code_ofCode hlt ⟨field_le hmod (by decide), field_le hmod (by decide)⟩)

theorem toRaw_of_ofRawMatrix (h : ofRawMatrix ⟨opc, ty, mod, ops⟩ = some i) : toRaw i = some ⟨opc, ty, mod, ops⟩ := by
  unfold ofRawMatrix un quad nul immOp at h
  simp only at h
  split at h
  case h_2 => -- mma
    split at h <;> cases h
    exact raw_congr (ty_of_tyEq hty) (mod_mma hlt (field_le hmod (by decide)))
  case h_3 => -- mmamx
    split at h <;> cases h
    exact raw_congr (ty_of_tyEq hty) (mod_mmamx hlt ⟨field_mx hmod (by decide), field_mx hmod (by decide), field_le hmod (by decide)⟩)
  case h_4 | h_5 => -- mld, mst
    split at h <;> cases h
    exact raw_congr (ty_of_tyEq hty) (MMod.code_ofCode hlt ⟨field_le hmod (by decide), field_le hmod (by decide)⟩)
  any_goals split at h
  all_goals cases h
  all_goals exact raw_congr (ty_of_tyEq hty) (mod_zero hlt (field_le hmod (by decide)))

theorem toRaw_of_ofRawRest (h : ofRawRest ⟨opc, ty, mod, ops⟩ = some i) : toRaw i = some ⟨opc, ty, mod, ops⟩ := by
  unfold ofRawRest un bin ter quad nul immOp at h
  simp only at h
  split at h
  case h_6 | h_19 | h_24 => -- caput, prio, dseq
    split at h <;> cases h
    exact raw_congr (ty_of_tyEq hty) (mod_bit0 hlt (field_le hmod (by decide)))
  any_goals split at h
  all_goals cases h
  all_goals exact raw_congr (ty_of_tyEq hty) (mod_zero hlt (field_le hmod (by decide)))

theorem toRaw_of_ofRaw (h : ofRaw ⟨opc, ty, mod, ops⟩ = some i) : toRaw i = some ⟨opc, ty, mod, ops⟩ := by
  unfold ofRaw at h
  split at h
  · exact toRaw_of_ofRawControl hlt hty hmod h
  split at h
  · exact toRaw_of_ofRawInt hlt hty hmod h
  split at h
  · exact toRaw_of_ofRawFloat hlt hty hmod h
  split at h
  · exact toRaw_of_ofRawLane hlt hty hmod h
  split at h
  · exact toRaw_of_ofRawMem hlt hty hmod h
  split at h
  · exact toRaw_of_ofRawOrd hlt hty hmod h
  split at h
  · exact toRaw_of_ofRawAtom hlt hty hmod h
  split at h
  · exact toRaw_of_ofRawMatrix hlt hty hmod h
  · exact toRaw_of_ofRawRest hlt hty hmod h

end Classes

/-! ## Decoding and encoding -/

theorem toRaw_of_check {user : Bool} {r : Raw} {i : Instr} (hf : r.fits = true) (hc : checkRaw user r r.ops.length none = none)
    (h : ofRaw r = some i) : toRaw i = some r := by
  obtain ⟨rw, hrow, hty, -, -, -, -, hmod, -⟩ := checkRaw_eq_none.mp hc
  simp only [Raw.fits, Bool.and_eq_true, decide_eq_true_eq] at hf
  obtain ⟨⟨⟨-, hlt⟩, -⟩, -⟩ := hf
  refine toRaw_of_ofRaw hlt ?_ ?_ h
  · rwa [tyTaken, hrow]
  · rwa [modFields, hrow]

theorem portableWf_iff {i : Instr} {r : Raw} (hr : toRaw i = some r) :
    i.portableWf = true ↔ r.fits = true ∧ checkRaw false r r.ops.length none = none ∧ ofRaw r = some i := by
  simp [Instr.portableWf, hr, and_assoc]

theorem encode_of_toRaw {i : Instr} {r : Raw} (hr : toRaw i = some r) : encode i = r.words := by
  rw [encode, hr]

theorem decode_encode {i : Instr} {r : Raw} {argc : Nat → Nat} (rest : List Word) (hwf : i.portableWf = true) (hr : toRaw i = some r)
    (ha : ∀ o ∈ r.ops, o.arityOk argc) : decode false argc (encode i ++ rest) = .ok (i, rest) := by
  obtain ⟨hf, hc, hi⟩ := (portableWf_iff hr).mp hwf
  simp only [decode, encode_of_toRaw hr, decodeRaw_words rest hf hc ha, hi]

theorem encode_of_decode {user : Bool} {argc : Nat → Nat} {ws rest : List Word} {i : Instr} (h : decode user argc ws = .ok (i, rest)) :
    i.portableWf = true ∧ ws = encode i ++ rest := by
  unfold decode at h
  split at h
  · cases h
  next r rest' hraw =>
  split at h
  next i' hi =>
    cases h
    obtain ⟨hws, hf, hc⟩ := words_of_decodeRaw hraw
    have hr := toRaw_of_check hf hc hi
    exact ⟨(portableWf_iff hr).mpr ⟨hf, checkRaw_false_of_user hc, hi⟩, by rw [encode_of_toRaw hr, hws]⟩
  next => cases h

/-- Settles O58: the raw form stands between the words and the instruction, and both steps can be undone (`decodeRaw_words` and
`words_of_decodeRaw`; `portableWf_iff` and `toRaw_of_check`). -/
theorem decodeAndEncodeAgree : Obligations.DecodeAndEncodeAgree := by
  unfold Obligations.DecodeAndEncodeAgree
  refine ⟨fun i r argc rest hwf hr hargs => decode_encode rest hwf hr fun o ho => ?_, fun user argc ws rest i h => encode_of_decode h⟩
  cases o with
  | op o => trivial
  | blk t => exact hargs t ho

/-! ## Words of the tables -/

/-- A block operand goes to block 1 and has one argument. -/
def RawOp.toBlockOne : RawOp → Bool
  | .op _ => true
  | .blk t => t.blk == 1 && t.args.length == 1

theorem RawOp.arityOk_of_toBlockOne {o : RawOp} {argc : Nat → Nat} (h : o.toBlockOne = true) (h1 : argc 1 = 1) : o.arityOk argc := by
  cases o with
  | op o => trivial
  | blk t =>
    simp only [RawOp.toBlockOne, Bool.and_eq_true, beq_iff_eq] at h
    simp [RawOp.arityOk, h.1, h.2, h1]

/-- Words that are a well-formed instruction's decode to it. -/
theorem decode_of_words {ws : List Word} {i : Instr} {r : Raw} (hr : toRaw i = some r) (hf : r.fits = true)
    (hc : checkRaw false r r.ops.length none = none) (hi : ofRaw r = some i) (hws : encode i = ws) (hone : r.ops.all RawOp.toBlockOne = true) :
    (∀ argc : Nat → Nat, argc 1 = 1 → decode false argc ws = .ok (i, [])) ∧ encode i = ws := by
  refine ⟨fun argc h1 => ?_, hws⟩
  have hwf := (portableWf_iff hr).mpr ⟨hf, hc, hi⟩
  have harity : ∀ o ∈ r.ops, o.arityOk argc := fun o ho => RawOp.arityOk_of_toBlockOne (List.all_eq_true.mp hone o ho) h1
  have h := decode_encode [] hwf hr harity
  rwa [List.append_nil, hws] at h

theorem decode_of_no_row {user : Bool} {argc : Nat → Nat} {w : Word} {rest : List Word} (h : rowOf (w.toNat / 2 ^ 22) = none) :
    decode user argc (w :: rest) =
      .error (if w.toNat / 2 ^ 22 = 0 then .opcodeZero else if 0x3C0 ≤ w.toNat / 2 ^ 22 then .opcodeNative else .opcodeReserved) := by
  simp only [decode, decodeRaw, h]

/-- Settles O59: the words are those that the instructions encode to, so they decode to them by `decode_encode`; the three
opcodes that are refused have no row. -/
theorem wordsOfTheTables : Obligations.WordsOfTheTables := by
  unfold Obligations.WordsOfTheTables
  refine ⟨?_, ?_, ?_, ?_, ?_, ?_, ?_, ?_, ?_, ?_, ?_, ?_, ?_, ?_, ?_, ?_, fun user argc rest => ⟨?_, ?_, ?_⟩⟩
  case refine_17 | refine_18 | refine_19 => exact decode_of_no_row (by decide)
  all_goals refine decode_of_words rfl (by decide) (by decide) ?_ (by decide) (by decide)
  all_goals simp [ofRaw, ofRawControl, ofRawInt, ofRawMem, ofRawOrd, ofRawMatrix, ofRawRest, un, bin, ter, nul, immOp, opndsOf,
    MMod.ofCode_code]

end Sys2Proof
end

section
/-! What the operations of instructions leave as it was: the package outside the programs (02_daxdex_form.md R45, 04_control.md R133, R135,
05_integer.md R175, 17_checkpoint.md R463, 18_power_package_trust.md R478-R485). -/
namespace Sys2Proof.Machine
open Sys2Proof Sys2Proof.Safety

/-! ## Outside the programs -/

/-- What no instruction of a program reaches (R45, R133, R135, R175, R463, R478-R485). -/
structure Outside where
  power : Bool
  cycle : Nat
  trust : TrustSt
  modules : List Module
  plim : Dword
  hwctx : Nat
  tkrec : List Byte
  tkctx : Nat
  tkres : Dword
  statesel : Dword
  hostData : List Byte
  agenda : List Move
  badLines : List Nat

def State.outside (s : State) : Outside :=
  { power := s.power, cycle := s.cycle, trust := s.trust, modules := s.modules, plim := s.plim, hwctx := s.hwctx, tkrec := s.tkrec,
    tkctx := s.tkctx, tkres := s.tkres, statesel := s.statesel, hostData := s.hostData, agenda := s.agenda, badLines := s.badLines }

/-- Every other field may change. (The proof is kept from `dsimp`, which would leave it to the kernel to find by evaluating both states.) -/
@[simp] theorem State.outside_with (s : State)
    (halted issue issued slices waves wgs gangs tasks loads sys mem l1 shr rdc rdcFills hints keyids frames tlb msgs nextId copies held
    hostQ bindings cmds leatLast quern slots spans rounds heard contrib windows grants seqs parts ca images transReqs notices msix dies
    cut ckpt opnum snaps ports fabReqs freeCnt) :
    State.outside { s with
      halted := halted, issue := issue, issued := issued, slices := slices, waves := waves, wgs := wgs, gangs := gangs, tasks := tasks,
      loads := loads, sys := sys, mem := mem, l1 := l1, shr := shr, rdc := rdc, rdcFills := rdcFills, hints := hints, keyids := keyids,
      frames := frames, tlb := tlb, msgs := msgs, nextId := nextId, copies := copies, held := held, hostQ := hostQ,
      bindings := bindings, cmds := cmds, leatLast := leatLast, quern := quern, slots := slots, spans := spans, rounds := rounds,
      heard := heard, contrib := contrib, windows := windows, grants := grants, seqs := seqs, parts := parts, ca := ca,
      images := images, transReqs := transReqs, notices := notices, msix := msix, dies := dies, cut := cut, ckpt := ckpt,
      opnum := opnum, snaps := snaps, ports := ports, fabReqs := fabReqs, freeCnt := freeCnt } =
      s.outside := (rfl)

@[simp] theorem State.outside_ite (c : Prop) [Decidable c] (a b : State) :
    (if c then a else b).outside = if c then a.outside else b.outside := apply_ite State.outside c a b

@[simp] theorem outside_foldl {α : Type} {f : State → α → State} (l : List α) (s : State) (h : ∀ s x, (f s x).outside = s.outside) :
    (l.foldl f s).outside = s.outside :=
  List.foldlRecOn (motive := fun t : State => t.outside = s.outside) l f rfl fun t ht x _ => (h t x).trans ht

theorem bind_eq_ok {ε α β : Type} {x : Except ε α} {f : α → Except ε β} {b : β} :
    x >>= f = .ok b ↔ ∃ a, x = .ok a ∧ f a = .ok b := by
  cases x <;> simp [bind, Except.bind]

theorem map_eq_ok {ε α β : Type} {x : Except ε α} {f : α → β} {b : β} : x.map f = .ok b ↔ ∃ a, x = .ok a ∧ f a = b := by
  cases x <;> simp [Except.map]

theorem foldlM_outside {ε α : Type} {f : State → α → Except ε State} (hf : ∀ s x t, f s x = .ok t → t.outside = s.outside)
    {l : List α} {s t : State} (h : l.foldlM f s = .ok t) : t.outside = s.outside := by
  induction l generalizing s with
  | nil =>
    cases h
    rfl
  | cons x xs ih =>
    rw [List.foldlM_cons] at h
    obtain ⟨u, hu, h⟩ := bind_eq_ok.mp h
    exact (ih h).trans (hf _ _ _ hu)

theorem State.getD_outside {o : Option State} {s : State} (h : ∀ t, o = some t → t.outside = s.outside) :
    (o.getD s).outside = s.outside := by
  cases o with
  | none => rfl
  | some t => exact h t rfl

/-! ### Registers and memory -/

@[simp] theorem State.sysSet_outside (s : State) (cp c : Nat) (v : Dword) : (s.sysSet cp c v).outside = s.outside := by
  simp [State.sysSet]

@[simp] theorem State.ctxSet_outside (s : State) (ctx c : Nat) (v : Dword) : (s.ctxSet ctx c v).outside = s.outside := by
  simp [State.ctxSet]

@[simp] theorem State.dieSet_outside (s : State) (d c : Nat) (v : Dword) : (s.dieSet d c v).outside = s.outside := by
  simp [State.dieSet]

@[simp] theorem State.setDie_outside (s : State) (d : Nat) (f : DieSt → DieSt) : (s.setDie d f).outside = s.outside := by
  simp [State.setDie]

@[simp] theorem State.viewAs_outside (s : State) (key k : Nat) : (s.viewAs key k).outside = s.outside := by
  simp [State.viewAs]

@[simp] theorem State.meetKey_outside (s : State) (k n i : Nat) : (s.meetKey k n i).outside = s.outside := by
  simp [State.meetKey]

@[simp] theorem State.meet_outside (s : State) (p : Phys) (n : Nat) : (s.meet p n).outside = s.outside := by
  simp [State.meet]

@[simp] theorem State.invalidateSharers_outside (s : State) (line : Nat) : (s.invalidateSharers line).outside = s.outside := by
  simp [State.invalidateSharers]

@[simp] theorem State.pokeBytes_outside (s : State) (k : Nat) (bs : List Byte) : (s.pokeBytes k bs).outside = s.outside := by
  simp [State.pokeBytes]

@[simp] theorem State.invalidateFrame_outside (s : State) (k : Nat) : (s.invalidateFrame k).outside = s.outside := by
  simp [State.invalidateFrame]

@[simp] theorem State.stagingTouch_outside (s : State) (p : Phys) : (s.stagingTouch p).outside = s.outside := by
  simp [State.stagingTouch]

/-- The definition takes its place as a function: unfolded in place, its walk would be evaluated when the kernel compares the two. -/
@[simp] theorem State.stageFrame_outside (s : State) (frame slot : Nat) : (s.stageFrame frame slot).outside = s.outside := by
  generalize h : State.stageFrame = f
  delta State.stageFrame at h
  subst h
  beta_reduce
  split
  · exact State.outside_with ..
  · next p _ =>
    exact (State.outside_with ..).trans
      ((State.stagingTouch_outside _ p).trans ((State.outside_with ..).trans (State.invalidateFrame_outside ..)))

@[simp] theorem State.homePut_outside (s : State) (core : Option Nat) (k : Nat) (bs : List Byte) :
    (s.homePut core k bs).outside = s.outside := by
  unfold State.homePut
  (repeat' split) <;> simp

@[simp] theorem State.homeWriteBy_outside (s : State) (core : Option Nat) (k : Nat) (bs : List Byte) :
    (s.homeWriteBy core k bs).outside = s.outside := by
  simp [State.homeWriteBy]

@[simp] theorem State.homeWrite_outside (s : State) (k : Nat) (bs : List Byte) : (s.homeWrite k bs).outside = s.outside := by
  simp [State.homeWrite]

@[simp] theorem State.markLeaf_outside (s : State) (p : Phys) (wr : Bool) : (s.markLeaf p wr).outside = s.outside := by
  simp [State.markLeaf]

@[simp] theorem State.hint_outside (s : State) (cache line : Nat) (e : Evict) : (s.hint cache line e).outside = s.outside := by
  unfold State.hint
  split <;> simp

@[simp] theorem State.rdcRead_outside (s : State) (die k : Nat) (evict : Evict) : (s.rdcRead die k evict).outside = s.outside := by
  simp [State.rdcRead]

@[simp] theorem State.walkReads_outside (s : State) (die ctx va : Nat) : (s.walkReads die ctx va).outside = s.outside := by
  simp [State.walkReads]

@[simp] theorem State.touch_outside (s : State) (a : Acc) (va : Nat) (p : Phys) : (s.touch a va p).outside = s.outside := by
  unfold State.touch
  rw [State.meet_outside]
  split <;> simp

@[simp] theorem State.l1Drop_outside (s : State) (core line sp : Nat) : (s.l1Drop core line sp).outside = s.outside := by
  simp [State.l1Drop]

@[simp] theorem State.l1Acquire_outside (s : State) (core : Nat) : (s.l1Acquire core).outside = s.outside := by
  simp [State.l1Acquire]

@[simp] theorem State.l1Update_outside (s : State) (core k : Nat) (bs : List Byte) : (s.l1Update core k bs).outside = s.outside := by
  simp [State.l1Update]

@[simp] theorem State.l1Note_outside (s : State) (e : Evict) (core line sp : Nat) : (s.l1Note e core line sp).outside = s.outside := by
  unfold State.l1Note
  (repeat' split) <;> simp

@[simp] theorem State.logDenial_outside (s : State) (home addr : Nat) (tok : Dword) (map src c fdn : Nat) :
    (s.logDenial home addr tok map src c fdn).outside = s.outside := by
  simp [State.logDenial]

/-! ### Tasks and notices -/

@[simp] theorem State.updTask_outside (s : State) (h : Dword) (f : Task → Task) : (s.updTask h f).outside = s.outside := by
  simp [State.updTask]

@[simp] theorem State.dropTask_outside (s : State) (h : Dword) : (s.dropTask h).outside = s.outside := by
  simp [State.dropTask]

@[simp] theorem State.ctxWrite_outside (s : State) (ctx va : Nat) (bs : List Byte) : (s.ctxWrite ctx va bs).outside = s.outside := by
  unfold State.ctxWrite
  split <;> simp

@[simp] theorem State.ctxCopyOut_outside (s : State) (ctx va n : Nat) (cells : Cells 8) :
    (s.ctxCopyOut ctx va n cells).outside = s.outside :=
  outside_foldl _ _ fun s p => by
    split
    · split <;> simp
    · rfl

@[simp] theorem State.tfWrite_outside (s : State) (ctx : Nat) (r : FaultRec) : (s.tfWrite ctx r).outside = s.outside := by
  simp [State.tfWrite]

@[simp] theorem State.taskFaultEnd_outside (s : State) (h : Dword) (r : FaultRec) : (s.taskFaultEnd h r).outside = s.outside := by
  unfold State.taskFaultEnd
  split <;> simp

@[simp] theorem State.fire_outside (s : State) (h : Dword) : (s.fire h).outside = s.outside := by
  unfold State.fire
  split <;> simp

@[simp] theorem State.settle_outside (s : State) (h : Dword) : (s.settle h).outside = s.outside := by
  unfold State.settle
  split <;> simp

@[simp] theorem State.signal_outside (s : State) (h : Dword) : (s.signal h).outside = s.outside := by
  simp [State.signal]

@[simp] theorem State.taskDone_outside (s : State) (h : Dword) : (s.taskDone h).outside = s.outside := by
  unfold State.taskDone
  split <;> simp

@[simp] theorem State.addEdge_outside (s : State) (pred succ : Dword) : (s.addEdge pred succ).outside = s.outside := by
  simp [State.addEdge]

theorem State.newTask_outside {s : State} {die ctx : Nat} {prio : Word} {handler : Bool} {bs : List Byte} {r : Dword × State}
    (h : s.newTask die ctx prio handler bs = some r) : r.2.outside = s.outside := by
  unfold State.newTask at h
  split at h
  · cases h
  · cases h
    exact (outside_foldl _ _ fun t x => State.addEdge_outside ..).trans ((State.outside_with ..).trans (State.setDie_outside ..))

@[simp] theorem State.arm_outside (s : State) (h : Dword) (n : Word) : (s.arm h n).outside = s.outside := by
  simp [State.arm]

@[simp] theorem State.makeHandler_outside (s : State) (ctx : Nat) : (s.makeHandler ctx).outside = s.outside := by
  unfold State.makeHandler
  rw [State.outside_ite]
  split
  · rfl
  · split
    · rfl
    · rw [State.outside_ite]
      split
      · rfl
      · split
        · next hn => simp [State.newTask_outside hn]
        · simp

@[simp] theorem State.ringPush_outside (s : State) (ctx : Nat) (r : FaultRec) : (s.ringPush ctx r).outside = s.outside := by
  simp [State.ringPush]

@[simp] theorem State.notice_outside (s : State) (ctx : Nat) (r : FaultRec) : (s.notice ctx r).outside = s.outside := by
  simp [State.notice]

/-! ### Requests to other devices -/

@[simp] theorem State.sendFab_outside (s : State) (port : Nat) (m : FabMsg) : (s.sendFab port m).outside = s.outside := by
  simp [State.sendFab]

@[simp] theorem State.fabAsk_outside (s : State) (die : Nat) (owner : Dword) (l : Loc) (a : FabAsk) :
    (s.fabAsk die owner l a).outside = s.outside := by
  simp [State.fabAsk]

@[simp] theorem State.fabAskAll_outside (s : State) (die : Nat) (owner : Dword) (l : Loc) (as : List FabAsk) :
    (s.fabAskAll die owner l as).outside = s.outside := by
  simp [State.fabAskAll]

@[simp] theorem State.fabDrop_outside (s : State) (owner : Dword) (l : Loc) : (s.fabDrop owner l).outside = s.outside := by
  simp [State.fabDrop]

/-! ### Waves, completion and faults -/

@[simp] theorem State.updWave_outside (s : State) (wi : Nat) (f : Wave → Wave) : (s.updWave wi f).outside = s.outside := by
  simp [State.updWave]

@[simp] theorem State.updWv_outside (s : State) (f : Wave → Wave) : (s.updWv f).outside = s.outside := by
  simp [State.updWv]

@[simp] theorem State.updWg_outside (s : State) (i : Nat) (f : Workgroup → Workgroup) : (s.updWg i f).outside = s.outside := by
  simp [State.updWg]

@[simp] theorem State.updGang_outside (s : State) (task : Dword) (num : Nat) (f : Gang → Gang) :
    (s.updGang task num f).outside = s.outside := by
  simp [State.updGang]

@[simp] theorem State.joinTrans_outside (s : State) (w : Wave) (h : Nat) (k : TransKey) : (s.joinTrans w h k).outside = s.outside := by
  simp [State.joinTrans]

@[simp] theorem State.requestTrans_outside (s : State) (wi h : Nat) (k : TransKey) : (s.requestTrans wi h k).outside = s.outside := by
  simp [State.requestTrans]

@[simp] theorem State.finish_outside (s : State) (res : Nat → List Val) : (s.finish res).outside = s.outside := by
  simp [State.finish]

@[simp] theorem State.put_outside (s : State) (f : Nat → Val) : (s.put f).outside = s.outside := by
  simp [State.put]

@[simp] theorem State.done_outside (s : State) : s.done.outside = s.outside := by
  simp [State.done]

@[simp] theorem State.park_outside (s : State) (m : Mask) (w : Nat → Wait) : (s.park m w).outside = s.outside := by
  simp [State.park]

@[simp] theorem State.stall_outside (s : State) : s.stall.outside = s.outside := by
  simp [State.stall]

@[simp] theorem State.branch_outside (s : State) (pick : Nat → Nat × Target) : (s.branch pick).outside = s.outside := by
  simp [State.branch]

@[simp] theorem State.saveLine_outside (s : State) (i n : Nat) : (s.saveLine i n).outside = s.outside := by
  unfold State.saveLine
  dsimp only
  split <;> simp

@[simp] theorem State.blockPut_outside (s : State) (wi off : Nat) (bs : List Byte) : (s.blockPut wi off bs).outside = s.outside := by
  unfold State.blockPut
  dsimp only
  split <;> simp

@[simp] theorem State.takeFault_outside (s : State) (wi : Nat) (group : Mask) (rpc : Loc) (r : FaultRec) :
    (s.takeFault wi group rpc r).outside = s.outside := by
  simp [State.takeFault]

@[simp] theorem State.faultAt_outside (s : State) (wi : Nat) (group : Mask) (loc : Loc) (c : Cause) (prim sec : Mask) (addr : Dword) :
    (s.faultAt wi group loc c prim sec addr).outside = s.outside := by
  simp [State.faultAt]

@[simp] theorem State.fault_outside (s : State) (c : Cause) (prim sec : Mask) (addr : Nat) :
    (s.fault c prim sec addr).outside = s.outside := by
  simp [State.fault]

@[simp] theorem State.faultAll_outside (s : State) (c : Cause) : (s.faultAll c).outside = s.outside := by
  simp [State.faultAll]

@[simp] theorem State.lateFaultAt_outside (s : State) (die : Nat) (c : Cause) (prim sec : Mask) (addr : Nat) :
    (s.lateFaultAt die c prim sec addr).outside = s.outside := by
  simp [State.lateFaultAt]

@[simp] theorem State.lateFault_outside (s : State) (c : Cause) (prim sec : Mask) (addr : Nat) :
    (s.lateFault c prim sec addr).outside = s.outside := by
  simp [State.lateFault]

@[simp] theorem State.pendArrives_outside (s : State) (i : Nat) (p : PendFault) : (s.pendArrives i p).outside = s.outside := by
  simp [State.pendArrives]

theorem State.deliverPend_outside {s t : State} (h : s.deliverPend = some t) : t.outside = s.outside := by
  unfold State.deliverPend at h
  split at h <;> cases h
  rfl

@[simp] theorem State.resumeWave_outside (s : State) (wi : Nat) : (s.resumeWave wi).outside = s.outside := by
  simp [State.resumeWave]

/-! ### Places -/

theorem State.laneFault_outside {s t : State} {c : Nat → Option Cause} {addr : Nat → Nat} (h : s.laneFault c addr = some t) :
    t.outside = s.outside := by
  unfold State.laneFault at h
  split at h <;> cases h
  exact State.fault_outside ..

@[simp] theorem State.walked_outside (s : State) (a : Acc) (vas : List Nat) : (s.walked a vas).outside = s.outside :=
  outside_foldl _ _ fun s va => by split <;> simp

theorem State.walkedFault_outside {s t : State} {a : Acc} {vas : List Nat} {c : Nat → Option Cause} {addr : Nat → Nat}
    (h : s.walkedFault a vas c addr = some t) : t.outside = s.outside := by
  obtain ⟨_, -, rfl⟩ := Option.map_eq_some_iff.mp h
  cases hl : (s.walked a vas).laneFault c addr with
  | none => rfl
  | some u => exact (State.laneFault_outside hl).trans (State.walked_outside ..)

@[simp] theorem State.touchPlace_outside (s : State) (a : Acc) (pl : Place) : (s.touchPlace a pl).outside = s.outside := by
  cases pl <;> simp [State.touchPlace]

@[simp] theorem State.met_outside (s : State) (n : Nat) (pl : Place) : (s.met n pl).outside = s.outside := by
  cases pl <;> simp [State.met]

/-! ### Reading and writing -/

@[simp] theorem State.parkPresence_outside (s : State) (ls : List Nat) : (s.parkPresence ls).outside = s.outside := by
  simp [State.parkPresence]

theorem State.captureBy_outside {s t : State} {wi kid k : Nat} {bs : List Byte} (h : s.captureBy wi kid k bs = some t) :
    t.outside = s.outside := by
  unfold State.captureBy at h
  dsimp only at h
  obtain ⟨-, h⟩ := Option.ite_none_left_eq_some.mp h
  cases h
  simp

@[simp] theorem State.ownHome_outside (s : State) (owner : Dword) (core va kid k : Nat) (bs : List Byte) :
    (s.ownHome owner core va kid k bs).outside = s.outside := by
  unfold State.ownHome
  split <;> simp

@[simp] theorem State.l1WriteBack_outside (s : State) (l : L1Line) : (s.l1WriteBack l).outside = s.outside := by
  simp [State.l1WriteBack]

@[simp] theorem State.l1Put_outside (s : State) (l : L1Line) : (s.l1Put l).outside = s.outside := by
  simp [State.l1Put]

@[simp] theorem State.wordFill_outside (s : State) (core : Nat) (w : Nat × Phys) (e : Evict) :
    (s.wordFill core w e).outside = s.outside := by
  unfold State.wordFill
  dsimp only
  split <;> simp

@[simp] theorem State.wordWrite_outside (s : State) (core : Nat) (w : Nat × Phys) (e : Evict) (bs : List Byte) :
    (s.wordWrite core w e bs).outside = s.outside := by
  simp [State.wordWrite]

@[simp] theorem State.wordsNote_outside (s : State) (e : Evict) (ws : List (Nat × Phys)) : (s.wordsNote e ws).outside = s.outside := by
  simp [State.wordsNote]

@[simp] theorem State.l1Read_outside (s : State) (m : MMod) (va : Nat) (p : Phys) : (s.l1Read m va p).outside = s.outside := by
  unfold State.l1Read
  rw [State.l1Note_outside]
  split <;> simp

@[simp] theorem State.afterRead_outside (s : State) (m : MMod) (pl : Place) : (s.afterRead m pl).outside = s.outside := by
  cases pl <;> simp [State.afterRead]

@[simp] theorem State.asyncFaultAt_outside (s : State) (die c addr : Nat) (tile : Option Nat) :
    (s.asyncFaultAt die c addr tile).outside = s.outside := by
  simp [State.asyncFaultAt]

@[simp] theorem State.asyncFault_outside (s : State) (c addr : Nat) (tile : Option Nat) :
    (s.asyncFault c addr tile).outside = s.outside := by
  simp [State.asyncFault]

@[simp] theorem State.logCause_outside (s : State) (va : Nat) (p : Phys) (c : Nat) : (s.logCause va p c).outside = s.outside := by
  simp [State.logCause]

@[simp] theorem State.turnAway_outside (s : State) (va : Nat) (p : Phys) (c : Nat) : (s.turnAway va p c).outside = s.outside := by
  simp [State.turnAway]

@[simp] theorem State.sendWrite_outside (s : State) (m : MMod) (va : Nat) (p : Phys) (fx : WriteFx) (tile : Option Nat) :
    (s.sendWrite m va p fx tile).outside = s.outside := by
  simp [State.sendWrite]

@[simp] theorem State.capture_outside (s : State) (p : Phys) (bs : List Byte) : (s.capture p bs).outside = s.outside := by
  unfold State.capture
  split
  · next h => exact State.captureBy_outside h
  · simp

@[simp] theorem State.globalWrite_outside (s : State) (m : MMod) (va : Nat) (p : Phys) (bs : List Byte) :
    (s.globalWrite m va p bs).outside = s.outside := by
  simp [State.globalWrite]

@[simp] theorem State.wordsWrite_outside (s : State) (e : Evict) (bs : List Byte) (ws : List (Nat × Phys)) :
    (s.wordsWrite e bs ws).outside = s.outside := by
  induction ws generalizing s bs with
  | nil => rfl
  | cons w ws ih => exact (ih ..).trans (State.wordWrite_outside ..)

@[simp] theorem State.placeWrite_outside (s : State) (m : MMod) (addr : Nat) (bs : List Byte) (pl : Place) :
    (s.placeWrite m addr bs pl).outside = s.outside := by
  cases pl with
  | spad off => simp [State.placeWrite]
  | phys va p => exact State.globalWrite_outside ..
  | words ws =>
    unfold State.placeWrite
    dsimp only
    split <;> simp

@[simp] theorem State.acquire_outside (s : State) (ord : Ord) (scope : Nat) (sp : Space) :
    (s.acquire ord scope sp).outside = s.outside := by
  simp [State.acquire]

@[simp] theorem State.asWave_outside (s : State) (wi : Nat) (m : Mask) (l : Loc) : (s.asWave wi m l).outside = s.outside := by
  simp [State.asWave]

@[simp] theorem State.skipFree_outside (s : State) : s.skipFree.outside = s.outside := by
  simp [State.skipFree]

@[simp] theorem State.takeFreeBytes_outside (s : State) (n : Nat) : (s.takeFreeBytes n).2.outside = s.outside := rfl

/-! ### Accesses -/

@[simp] theorem State.finishFp_outside (s : State) (words : Nat) (res : Nat → List Val × Nat) :
    (s.finishFp words res).outside = s.outside := by
  simp [State.finishFp]

theorem State.accessFault_outside {s t : State} {a : Access} (h : s.accessFault a = some t) : t.outside = s.outside :=
  State.walkedFault_outside h

@[simp] theorem State.withEntries_outside (s : State) (n : Nat) {eff : State → State} (h : ∀ t, (eff t).outside = t.outside) :
    (s.withEntries n eff).outside = s.outside := by
  simp [State.withEntries, h]

@[simp] theorem State.access_outside (s : State) (a : Access) {eff : State → State} (h : ∀ t, (eff t).outside = t.outside) :
    (s.access a eff).outside = s.outside := by
  unfold State.access
  dsimp only
  split
  · simp
  · split
    · next hf => exact State.accessFault_outside hf
    · simp [h]

@[simp] theorem State.loadEff_outside (s : State) (a : Access) : (s.loadEff a).outside = s.outside := by
  simp [State.loadEff]

@[simp] theorem State.storeEff_outside (s : State) (a : Access) (lanes : List Nat) (v : Nat → List Byte) :
    (s.storeEff a lanes v).outside = s.outside := by
  simp [State.storeEff]

@[simp] theorem State.blkIssue_outside (s : State) (m : MMod) (off va len : Nat) (toSpad : Bool) :
    (s.blkIssue m off va len toSpad).outside = s.outside := by
  unfold State.blkIssue
  dsimp only
  split
  · simp
  · split <;> simp

@[simp] theorem State.putFp_outside (s : State) (ty : Ty) (r : Rnd) (f : Nat → Nat → Nat → Nat × Nat) :
    (s.putFp ty r f).outside = s.outside := by
  simp [State.putFp]

/-! ### Atomics and reductions -/

@[simp] theorem State.reassocVals_outside (s : State) (on : Bool) (opc : Nat) (ty : Ty) (vs : List Val) :
    (s.reassocVals on opc ty vs).2.outside = s.outside := by
  unfold State.reassocVals
  split <;> rfl

@[simp] theorem State.homeRmw_outside (s : State) (k opc : Nat) (ty : Ty) (vs : List (Val × Val)) :
    (s.homeRmw k opc ty vs).outside = s.outside := by
  simp [State.homeRmw]

@[simp] theorem State.hear_outside (s : State) (win fdn num : Nat) : (s.hear win fdn num).outside = s.outside := by
  simp [State.hear]

@[simp] theorem State.contribute_outside (s : State) (w : Nat × Dword × Dword) (va die ctx : Nat) (wave : Option Dword) (v : Val) :
    (s.contribute w va die ctx wave v).outside = s.outside := by
  unfold State.contribute
  dsimp only
  split <;> simp

@[simp] theorem State.atomWrite_outside (s : State) (bs : List Byte) (pl : Place) : (s.atomWrite bs pl).outside = s.outside := by
  cases pl <;> simp [State.atomWrite]

@[simp] theorem State.atomIssue_outside (s : State) (a : AtomOp) (op : Option Nat) {eff : State → State}
    (h : ∀ t, (eff t).outside = t.outside) : (s.atomIssue a op eff).outside = s.outside := by
  unfold State.atomIssue
  dsimp only
  split
  · simp
  · split
    · next hf => exact State.walkedFault_outside hf
    · simp [h]

@[simp] theorem State.atomGroup_outside (s : State) (a : AtomOp) (ls : List Nat) : (s.atomGroup a ls).1.outside = s.outside := by
  unfold State.atomGroup
  dsimp only
  split
  · split <;> rfl
  · refine iteInduction (motive := fun r : State × List (Nat × Val × Nat) => r.1.outside = s.outside) (fun _ => ?_) fun _ => ?_
    · dsimp only
      split <;> simp
    · simp

@[simp] theorem State.atomEff_outside (s : State) (a : AtomOp) : (s.atomEff a).outside = s.outside := by
  refine State.withEntries_outside _ _ fun s => ?_
  dsimp only
  have groups : ∀ gs : List (List Nat), (gs.foldl (fun (acc : State × List (Nat × Val × Nat)) g =>
      ((acc.1.atomGroup a g).1, acc.2 ++ (acc.1.atomGroup a g).2)) (s, [])).1.outside = s.outside := fun gs =>
    List.foldlRecOn (motive := fun x : State × List (Nat × Val × Nat) => x.1.outside = s.outside) gs _ rfl
      fun x hx g _ => (State.atomGroup_outside ..).trans hx
  split
  · simp
  · split <;> simp [groups]

@[simp] theorem State.atomic_outside (s : State) (a : AtomOp) : (s.atomic a).outside = s.outside := by
  simp [State.atomic]

@[simp] theorem State.holdReds_outside (s : State) (rs : List Reduction) : (s.holdReds rs).outside = s.outside := by
  simp [State.holdReds]

@[simp] theorem State.redGroup_outside (s : State) (a : AtomOp) (op : Nat) (ls : List Nat) : (s.redGroup a op ls).outside = s.outside := by
  unfold State.redGroup
  dsimp only
  split
  · split
    · split <;> simp
    · simp
  · simp
  · simp

@[simp] theorem State.redContribute_outside (s : State) (a : AtomOp) (op : Nat) (w : Nat × Dword × Dword) (ls : List Nat) :
    (s.redContribute a op w ls).outside = s.outside := by
  unfold State.redContribute
  dsimp only
  rw [State.contribute_outside, State.reassocVals_outside]
  split <;> simp

@[simp] theorem State.meetRed_outside (s : State) (a : AtomOp) (op L : Nat) : (s.meetRed a op L).outside = s.outside := by
  unfold State.meetRed
  split <;> simp

@[simp] theorem State.redEff_outside (s : State) (a : AtomOp) (op : Nat) : (s.redEff a op).outside = s.outside := by
  unfold State.redEff
  dsimp only
  split
  · simp
  · split
    · simp
    · simp only [State.done_outside, State.acquire_outside, State.fabDrop_outside]
      rw [outside_foldl _ _ fun t g => by split <;> simp]
      simp

/-! ### Fences, barriers and waits -/

@[simp] theorem State.deliverOr_outside {s t : State} (h : t.outside = s.outside) : (s.deliverOr t).outside = s.outside := by
  unfold State.deliverOr
  split
  · next hd => exact State.deliverPend_outside hd
  · exact h

@[simp] theorem State.fenceEff_outside (s : State) (ord : Ord) (scope : Nat) : (s.fenceEff ord scope).outside = s.outside := by
  simp [State.fenceEff]

@[simp] theorem State.barIssue_outside (s : State) (scope : BitVec 3) (space : Space) (wr : Bool) (a : Nat) (ord : Ord)
    {eff : State → Place → State} (h : ∀ t pl, (eff t pl).outside = t.outside) :
    (s.barIssue scope space wr a ord eff).outside = s.outside := by
  unfold State.barIssue
  dsimp only
  split
  · exact State.getD_outside fun _ => State.walkedFault_outside
  · simp [h]

@[simp] theorem State.phaseAdvanced_outside (s : State) (key : Nat) : (s.phaseAdvanced key).outside = s.outside := by
  simp [State.phaseAdvanced]

theorem State.barUpdate_outside {s : State} {pl : Place} {arrives : Bool} {f : Barrier → Except Nat Barrier} {r : Nat × State}
    (h : s.barUpdate pl arrives f = .ok r) : r.2.outside = s.outside := by
  obtain ⟨-, h⟩ | ⟨-, h⟩ := ite_eq_iff.mp h
  · cases h
  · dsimp only at h
    split at h <;> cases h
    simp

@[simp] theorem State.barFail_outside (s : State) (c : Cause) (a : Nat) (pl : Place) (nres : Nat) :
    (s.barFail c a pl nres).outside = s.outside := by
  unfold State.barFail
  (repeat' split) <;> simp

@[simp] theorem State.barPark_outside (s : State) (scope : BitVec 3) (space : Space) (a tok : Nat) (pl : Place) :
    (s.barPark scope space a tok pl).outside = s.outside := by
  simp [State.barPark]

@[simp] theorem State.waitSeen_outside (s : State) (ls : List (Nat × Lane)) : (s.waitSeen ls).outside = s.outside :=
  outside_foldl _ _ fun s p => by
    split
    · split <;> simp
    · rfl

@[simp] theorem State.waitGroup_outside (s : State) (w : Nat) (loc : Loc) : (s.waitGroup w loc).outside = s.outside := by
  unfold State.waitGroup
  rw [State.outside_with]
  split <;> simp

/-! ### Merges and the ends of tasks, workgroups and threads -/

@[simp] theorem State.sendMerge_outside (s : State) (t : Task) (die fdn key : Nat) (va : Dword) (fx : WriteFx) :
    (s.sendMerge t die fdn key va fx).outside = s.outside := by
  simp [State.sendMerge]

@[simp] theorem State.applyRed_outside (s : State) (t : Task) (die : Nat) (r : Reduction) : (s.applyRed t die r).outside = s.outside := by
  unfold State.applyRed
  (repeat' split) <;> simp

@[simp] theorem State.mergeByte_outside (s : State) (t : Task) (die : Nat) (e : Nat × BitVec 47) :
    (s.mergeByte t die e).outside = s.outside := by
  simp [State.mergeByte]

@[simp] theorem State.mergeTask_outside (s : State) (t : Task) : (s.mergeTask t).outside = s.outside :=
  outside_foldl _ _ fun s g => by simp

@[simp] theorem State.dropTaskState_outside (s : State) (h : Dword) : (s.dropTaskState h).outside = s.outside := by
  simp [State.dropTaskState]

@[simp] theorem State.signalMerged_outside (s : State) (h : Dword) : (s.signalMerged h).outside = s.outside := by
  simp [State.signalMerged]

@[simp] theorem State.endTask_outside (s : State) (h : Dword) : (s.endTask h).outside = s.outside := by
  unfold State.endTask
  (repeat' split) <;> simp

@[simp] theorem State.uncharge_outside (s : State) (wi : Nat) : (s.uncharge wi).outside = s.outside := by
  simp [State.uncharge]

@[simp] theorem State.dropOwnLines_outside (s : State) (wi : Nat) : (s.dropOwnLines wi).outside = s.outside := by
  simp [State.dropOwnLines]

@[simp] theorem State.freeWaves_outside (s : State) (wi : Nat) : (s.freeWaves wi).outside = s.outside := by
  simp [State.freeWaves]

@[simp] theorem State.leaveCluster_outside (s : State) (wi : Nat) : (s.leaveCluster wi).outside = s.outside := by
  simp [State.leaveCluster]

@[simp] theorem State.endWg_outside (s : State) (wi : Nat) : (s.endWg wi).outside = s.outside := by
  unfold State.endWg
  dsimp only
  split <;> simp

@[simp] theorem State.contTest_outside (s : State) (i : Nat) : (s.contTest i).outside = s.outside := by
  simp [State.contTest]

@[simp] theorem State.exitThreads_outside (s : State) : s.exitThreads.outside = s.outside := by
  unfold State.exitThreads
  dsimp only
  split
  · rfl
  · split
    · next h => exact State.deliverPend_outside h
    · simp

/-! ### Calls -/

@[simp] theorem State.askResolve_outside (s : State) (m : Mask) (stub : Nat → Nat × Nat) : (s.askResolve m stub).outside = s.outside := by
  simp [State.askResolve]

@[simp] theorem State.wordsPut_outside (s : State) (ws : List (Nat × Phys)) (bs : List Byte) :
    (s.wordsPut ws bs).outside = s.outside := by
  simp [State.wordsPut]

@[simp] theorem State.callWith_outside (s : State) (tys : List Ty) (args : List Opnd) (tail : Bool) (addr : Nat → Nat)
    (callee : Nat → Except Cause Callee) : (s.callWith tys args tail addr callee).outside = s.outside := by
  unfold State.callWith
  dsimp only
  split
  · next h => exact State.laneFault_outside h
  · split
    · simp
    · split
      · simp
      · split
        · next h => exact State.laneFault_outside h
        · simp only [State.outside_ite, State.askResolve_outside, State.updWv_outside, ite_self]
          exact outside_foldl _ _ fun t L => by split <;> simp

@[simp] theorem State.callDesc_outside (s : State) (tys : List Ty) (args : List Opnd) (tail : Bool) (sig : SigInfo) (a : Nat → Nat) :
    (s.callDesc tys args tail sig a).outside = s.outside := by
  simp [State.callDesc]

@[simp] theorem State.contReturn_outside (s : State) : s.contReturn.outside = s.outside := by
  simp [State.contReturn]

/-! ### Content-addressed regions -/

@[simp] theorem State.setLines_outside (s : State) (r : CaRegion) (n : Nat) : (s.setLines r n).outside = s.outside := by
  simp [State.setLines]

theorem State.caWrite_outside {s t : State} {r : CaRegion} {va : Nat} {bs : List Byte} (h : s.caWrite r va bs = .ok t) :
    t.outside = s.outside := by
  unfold State.caWrite at h
  obtain ⟨p, -, rfl⟩ := map_eq_ok.mp h
  simp

theorem State.caPlaceLine_outside {s t : State} {r : CaRegion} {slot : Nat} {line : List Byte}
    (h : s.caPlaceLine r slot line = .ok t) : t.outside = s.outside := by
  unfold State.caPlaceLine at h
  obtain ⟨p, -, h⟩ := bind_eq_ok.mp h
  obtain ⟨u, hu, h⟩ := bind_eq_ok.mp h
  cases h
  exact (State.outside_with ..).trans (State.caWrite_outside hu)

theorem State.putEnt_outside {s t : State} {r : CaRegion} {e : CaEnt} (h : s.putEnt r e = .ok t) : t.outside = s.outside :=
  State.caWrite_outside h

theorem State.countUp_outside {s t : State} {r : CaRegion} {e : CaEnt} {k : Nat} (h : s.countUp r e k = .ok t) :
    t.outside = s.outside := by
  unfold State.countUp at h
  split at h
  · cases h
    rfl
  · exact State.putEnt_outside h

@[simp] theorem State.queueDrops_outside (s : State) (r : CaRegion) (names : List Nat) : (s.queueDrops r names).outside = s.outside := by
  simp [State.queueDrops]

theorem State.freeLine_outside {s t : State} {r : CaRegion} {e : CaEnt} (h : s.freeLine r e = .ok t) : t.outside = s.outside := by
  unfold State.freeLine at h
  obtain ⟨chain, -, h⟩ := bind_eq_ok.mp h
  have unlinked : ∃ u : State, u.outside = s.outside ∧ (do
      let line ← s.caRead r (r.lineVa e.slot) 128
      let v ← u.putEnt r { e with count := 0, live := false }
      let w := v.setLines r (s.caLines r - 1)
      pure (if e.node then w.queueDrops r ((lineChildren line).filter fun c => c != 0 && c != zeroName) else w)) = .ok t := by
    generalize (chain.find? fun x => x.next == e.slot + 1 && x.slot != e.slot) = prev at h
    cases prev with
    | some p =>
      obtain ⟨u, hu, h⟩ := bind_eq_ok.mp h
      exact ⟨u, State.putEnt_outside hu, h⟩
    | none =>
      obtain ⟨u, hu, h⟩ := bind_eq_ok.mp h
      exact ⟨u, State.caWrite_outside hu, h⟩
  obtain ⟨u, hu, h⟩ := unlinked
  obtain ⟨line, -, h⟩ := bind_eq_ok.mp h
  obtain ⟨v, hv, h⟩ := bind_eq_ok.mp h
  cases h
  simp [State.putEnt_outside hv, hu]

theorem State.countDown_outside {s t : State} {r : CaRegion} {e : CaEnt} {k : Nat} (h : s.countDown r e k = .ok t) :
    t.outside = s.outside := by
  unfold State.countDown at h
  split at h
  · cases h
    rfl
  · split at h
    · cases h
    · split at h
      · exact State.freeLine_outside h
      · exact State.putEnt_outside h

/-- As for `stageFrame`; and the hash becomes a variable before it is evaluated. -/
theorem State.lookupAlloc_outside {s : State} {r : CaRegion} {line : List Byte} {node : Bool} {o : Nat × Bool × State}
    (h : s.lookupAlloc r line node = .ok o) : o.2.2.outside = s.outside := by
  generalize hf : State.lookupAlloc = f at h
  delta State.lookupAlloc at hf
  subst hf
  beta_reduce at h
  generalize s.lineHash r line = hash at h
  split at h
  · cases h
    rfl
  · obtain ⟨es, -, h⟩ := bind_eq_ok.mp h
    obtain ⟨same, -, h⟩ := bind_eq_ok.mp h
    cases same with
    | some e =>
      obtain ⟨t, ht, h⟩ := bind_eq_ok.mp h
      cases h
      exact State.countUp_outside ht
    | none =>
      generalize (List.range 256).find? (fun i => !(hash == 0 && decide (i ≤ 1)) &&
        !(es.filter fun e => e.live && e.name / 256 == hash).any fun e => e.name == hash * 256 + i) = slot at h
      cases slot with
      | none => cases h
      | some i =>
        obtain ⟨free, -, h⟩ := bind_eq_ok.mp h
        cases free with
        | none => cases h
        | some k =>
          obtain ⟨head, -, h⟩ := bind_eq_ok.mp h
          obtain ⟨s1, h1, h⟩ := bind_eq_ok.mp h
          obtain ⟨s2, h2, h⟩ := bind_eq_ok.mp h
          obtain ⟨s3, h3, h⟩ := bind_eq_ok.mp h
          cases h
          calc (s3.setLines r (s.caLines r + 1)).outside
            _ = s3.outside := State.setLines_outside ..
            _ = s2.outside := State.caWrite_outside h3
            _ = s1.outside := State.putEnt_outside h2
            _ = s.outside := State.caPlaceLine_outside h1

theorem caLanes_outside {f : State → Nat → Except CaErr (Val × State)} (hf : ∀ s L r, f s L = .ok r → r.2.outside = s.outside)
    (s : State) (ls : List Nat) : (caLanes f s ls).1.outside = s.outside := by
  induction ls generalizing s with
  | nil => rfl
  | cons L ls ih =>
    unfold caLanes
    split
    · next h => exact (ih _).trans (hf _ _ _ h)
    · exact ih s

theorem State.caTransact_outside (s : State) (nres : Nat) {f : State → Nat → Except CaErr (Val × State)}
    (hf : ∀ s L r, f s L = .ok r → r.2.outside = s.outside) : (s.caTransact nres f).outside = s.outside := by
  unfold State.caTransact
  dsimp only
  split
  · simp [caLanes_outside hf]
  · simp

theorem State.caIssue_outside (s : State) (rb : Opnd) (more : Nat → Option Cause) (addr : Nat → Nat) {eff : State → State}
    (h : ∀ t, (eff t).outside = t.outside) : (s.caIssue rb more addr eff).outside = s.outside := by
  unfold State.caIssue
  dsimp only
  split
  · next hf => exact State.laneFault_outside hf
  · simp [h]

theorem State.caIn_outside {s : State} {rb : Opnd} {L : Nat} {f : CaRegion → Except CaErr (Val × State)} {o : Val × State}
    (hf : ∀ r, f r = .ok o → o.2.outside = s.outside) (h : s.caIn rb L f = .ok o) : o.2.outside = s.outside := by
  unfold State.caIn at h
  split at h
  · exact hf _ h
  · cases h

theorem State.nameUp_outside {s t : State} {r : CaRegion} {n : Nat} (h : s.nameUp r n = .ok t) : t.outside = s.outside := by
  unfold State.nameUp at h
  split at h
  · cases h
    rfl
  · obtain ⟨e, -, h⟩ := bind_eq_ok.mp h
    exact State.countUp_outside h

theorem State.nameDown_outside {s t : State} {r : CaRegion} {n : Nat} (h : s.nameDown r n = .ok t) : t.outside = s.outside := by
  unfold State.nameDown at h
  split at h
  · cases h
    rfl
  · obtain ⟨e, -, h⟩ := bind_eq_ok.mp h
    exact State.countDown_outside h

theorem State.swapRoot_outside {s : State} {r : CaRegion} {va : Nat} {p : Phys} {got : Nat × Nat} {expect new : Nat} {o : Val × State}
    (h : s.swapRoot r va p got expect new = .ok o) : o.2.outside = s.outside := by
  unfold State.swapRoot at h
  dsimp only at h
  split at h
  · cases h
  · next s1 h1 =>
    obtain ⟨_, -, h1⟩ := bind_eq_ok.mp h1
    rw [← State.nameUp_outside h1]
    obtain ⟨-, h⟩ | ⟨-, h⟩ := ite_eq_iff.mp h
    · cases h
    · obtain ⟨-, h⟩ | ⟨-, h⟩ := ite_eq_iff.mp h
      · obtain ⟨t, ht, ho⟩ := map_eq_ok.mp h
        rw [← ho, State.nameDown_outside ht]
        simp
      · obtain ⟨t, ht, ho⟩ := map_eq_ok.mp h
        rw [← ho, State.nameDown_outside ht, State.meet_outside]

theorem State.buildNode_outside {s : State} {r : CaRegion} {hdr : Nat} {cs : List Nat} {o : Val × State}
    (h : s.buildNode r hdr cs = .ok o) : o.2.outside = s.outside := by
  unfold State.buildNode at h
  dsimp only at h
  split at h
  · cases h
  · obtain ⟨shapes, -, h⟩ := bind_eq_ok.mp h
    split at h
    · cases h
    · obtain ⟨x, hx, h⟩ := bind_eq_ok.mp h
      rw [← State.lookupAlloc_outside hx]
      split at h
      · obtain ⟨t, ht, h⟩ := bind_eq_ok.mp h
        cases h
        exact foldlM_outside (fun _ _ _ => State.nameUp_outside) ht
      · cases h
        rfl

@[simp] theorem State.caEnable_outside (s : State) (n ctx : Nat) (v : Dword) : (s.caEnable n ctx v).outside = s.outside := by
  simp [State.caEnable]

@[simp] theorem State.caDisable_outside (s : State) (n : Nat) (v : Dword) : (s.caDisable n v).outside = s.outside := by
  simp [State.caDisable]

/-! ### Spans -/

@[simp] theorem State.spanWrite_outside (s : State) (wg off : Nat) (bs : List Byte) (clash : Bool) :
    (s.spanWrite wg off bs clash).outside = s.outside := by
  cases clash <;> simp [State.spanWrite]

@[simp] theorem State.spanIssue_outside (s : State) (o : SpanOp) : (s.spanIssue o).outside = s.outside := by
  unfold State.spanIssue
  split <;> simp

@[simp] theorem State.spanRun_outside (s : State) (sp : Span) (kind : SpanKind) (dst : Option (Nat × Nat × Nat)) (clash : Bool) :
    (s.spanRun sp kind dst clash).outside = s.outside := by
  unfold State.spanRun
  split <;> simp

/-! ### Engines -/

@[simp] theorem State.padWrite_outside (s : State) (wi off : Nat) (bs : List Byte) : (s.padWrite wi off bs).outside = s.outside := by
  unfold State.padWrite
  simp only [State.outside_ite, State.updWg_outside, ite_self]
  split
  · split <;> simp
  · rfl

@[simp] theorem State.updBind_outside (s : State) (wg h : Nat) (f : Binding → Binding) : (s.updBind wg h f).outside = s.outside := by
  simp [State.updBind]

@[simp] theorem State.setBindSt_outside (s : State) (b : Binding) (v : Nat) : (s.setBindSt b v).outside = s.outside := by
  simp [State.setBindSt]

@[simp] theorem State.unbind_outside (s : State) (b : Binding) : (s.unbind b).outside = s.outside := by
  simp [State.unbind]

@[simp] theorem State.cmdUpd_outside (s : State) (id : Nat) (f : Command → Command) : (s.cmdUpd id f).outside = s.outside := by
  simp [State.cmdUpd]

@[simp] theorem State.setSeq_outside (s : State) (x : SeqRegion) : (s.setSeq x).outside = s.outside := by
  simp [State.setSeq]

@[simp] theorem State.partFails_outside (s : State) (p : SeqPart) : (s.partFails p).outside = s.outside := by
  simp [State.partFails]

@[simp] theorem State.partsDone_outside (s : State) (id : Nat) : (s.partsDone id).outside = s.outside := by
  simp [State.partsDone]

@[simp] theorem State.caoutEnd_outside (s : State) (c : Command) : (s.caoutEnd c).outside = s.outside := by
  unfold State.caoutEnd
  split
  · rfl
  · split
    · rfl
    · split
      · next h => exact State.nameDown_outside h
      · rfl

@[simp] theorem State.withBind_outside (s : State) (o : Opnd) {f : Binding → State} (h : ∀ b, (f b).outside = s.outside) :
    (s.withBind o f).outside = s.outside := by
  unfold State.withBind
  split
  · exact h _
  · simp

/-! ### Gangs and contexts -/

@[simp] theorem State.gangWaits_outside (s : State) (wi : Nat) : (s.gangWaits wi).outside = s.outside := by
  simp [State.gangWaits]

@[simp] theorem State.loadBlock_outside (s : State) (i : Nat) : (s.loadBlock i).outside = s.outside := by
  unfold State.loadBlock
  dsimp only
  split
  · split <;> rfl
  · rfl

@[simp] theorem State.dropCommands_outside (s : State) (wi : Nat) : (s.dropCommands wi).outside = s.outside := by
  simp [State.dropCommands]

@[simp] theorem State.killWg_outside (s : State) (wi : Nat) (restart : Bool) : (s.killWg wi restart).outside = s.outside := by
  simp [State.killWg]

@[simp] theorem State.killGang_outside (s : State) (wi : Nat) (restart : Bool) : (s.killGang wi restart).outside = s.outside := by
  simp [State.killGang]

@[simp] theorem State.stopGang_outside (s : State) (wi : Nat) (st : WgSt) : (s.stopGang wi st).outside = s.outside := by
  simp [State.stopGang]

@[simp] theorem State.finishKills_outside (s : State) : s.finishKills.outside = s.outside := by
  unfold State.finishKills
  dsimp only
  rw [outside_foldl _ _ fun s t => ?_]
  · simp
  · split
    · rfl
    · split <;> simp

/-! ### Table transactions -/

@[simp] theorem State.tableTx_outside (s : State) {eff : State → State} (h : ∀ t, (eff t).outside = t.outside) :
    (s.tableTx eff).outside = s.outside := by
  simp [State.tableTx, h]

@[simp] theorem State.tableFault_outside (s : State) (tag : Nat) : (s.tableFault tag).outside = s.outside := by
  simp [State.tableFault]

@[simp] theorem State.seqInit_outside (s : State) (d r : Nat) : (s.seqInit d r).outside = s.outside := by
  simp [State.seqInit]

/-! ### System registers, cuts and checkpoints -/

@[simp] theorem State.sysClear_outside (s : State) (d ctx c : Nat) : (s.sysClear d ctx c).outside = s.outside := by
  simp [State.sysClear]

@[simp] theorem State.fgcSet_outside (s : State) (d n : Nat) (v : Dword) : (s.fgcSet d n v).outside = s.outside := by
  simp [State.fgcSet]

@[simp] theorem State.rdwcSet_outside (s : State) (n : Nat) (v : Dword) : (s.rdwcSet n v).outside = s.outside := by
  simp [State.rdwcSet]

@[simp] theorem State.blockMap_outside (s : State) (i off n : Nat) (f : Nat → Nat) : (s.blockMap i off n f).outside = s.outside := by
  unfold State.blockMap
  dsimp only
  split <;> simp

@[simp] theorem State.signalWave_outside (s : State) (i : Nat) : (s.signalWave i).outside = s.outside := by
  simp [State.signalWave]

@[simp] theorem State.wctlResume_outside (s : State) (i : Nat) : (s.wctlResume i).outside = s.outside := by
  simp [State.wctlResume]

@[simp] theorem State.endSaved_outside (s : State) (wi : Nat) : (s.endSaved wi).outside = s.outside := by
  simp [State.endSaved]

@[simp] theorem State.abortTask_outside (s : State) (h : Dword) (r : FaultRec) : (s.abortTask h r).outside = s.outside := by
  simp [State.abortTask]

@[simp] theorem State.wctl_outside (s : State) (ctx act : Nat) : (s.wctl ctx act).outside = s.outside := by
  unfold State.wctl
  split <;> simp

@[simp] theorem State.cutFree_outside (s : State) : s.cutFree.outside = s.outside := by
  simp [State.cutFree]

@[simp] theorem State.cutAsk_outside (s : State) (task : Dword) (ctx : Nat) : (s.cutAsk task ctx).outside = s.outside := by
  simp [State.cutAsk]

@[simp] theorem State.ckptEnd_outside (s : State) (status : Nat) : (s.ckptEnd status).outside = s.outside := by
  simp [State.ckptEnd]

@[simp] theorem State.cutLetGo_outside (s : State) : s.cutLetGo.outside = s.outside := by
  simp [State.cutLetGo]

@[simp] theorem State.queueLoad_outside (s : State) (v : Dword) (ctx : Nat) : (s.queueLoad v ctx).outside = s.outside := by
  simp [State.queueLoad]

@[simp] theorem State.sysWrite_outside (s : State) (d ctx actx c : Nat) (v : Dword) : (s.sysWrite d ctx actx c v).outside = s.outside := by
  simp [State.sysWrite]

@[simp] theorem State.ckptBegin_outside (s : State) (h : Dword) : (s.ckptBegin h).outside = s.outside := by
  unfold State.ckptBegin
  dsimp only
  split
  · split <;> simp
  · simp

/-! ### Querns -/

@[simp] theorem State.evictTile_outside (s : State) (tok : Dword) (t : Nat) : (s.evictTile tok t).outside = s.outside := by
  unfold State.evictTile
  split <;> simp

theorem State.takeSlotsOf_outside {s t : State} {core : Nat} {tok : Dword} {all ts : List Nat}
    (h : s.takeSlotsOf core tok all ts = some t) : t.outside = s.outside := by
  induction ts generalizing s with
  | nil =>
    cases h
    rfl
  | cons x xs ih =>
    unfold State.takeSlotsOf at h
    dsimp only at h
    split at h
    · exact (ih h).trans (State.outside_with ..)
    · split at h
      · exact (ih h).trans ((State.evictTile_outside ..).trans (State.outside_with ..))
      · cases h

theorem State.takeSlots_outside {s t : State} {core : Nat} {tok : Dword} {ts : List Nat} (h : s.takeSlots core tok ts = some t) :
    t.outside = s.outside :=
  State.takeSlotsOf_outside h

@[simp] theorem State.toQuern_outside (s : State) (i : Instr) (dst : Nat) (srcs : List Nat) (vals : List Val) (nres : Nat) :
    (s.toQuern i dst srcs vals nres).outside = s.outside := by
  unfold State.toQuern
  split
  · rfl
  · split
    · simp
    · split
      · rfl
      · next h => simp [State.takeSlots_outside h]

@[simp] theorem State.mmaIssue_outside (s : State) (i : Instr) (fa fb : Ty) (afrag mx : Bool) (c a b k : Opnd) :
    (s.mmaIssue i fa fb afrag mx c a b k).outside = s.outside := by
  unfold State.mmaIssue
  dsimp only
  refine iteInduction (motive := fun t : State => t.outside = s.outside) (fun _ => ?_) fun _ => ?_
  · simp
  · split <;> simp

end Sys2Proof.Machine
end

section
/-! What no instruction of a program changes: the package outside the programs. -/
namespace Sys2Proof.Machine
open Sys2Proof Sys2Proof.Safety

/-! ## What an instruction answers -/

/-- An outcome whose next state, if it has one, has the surroundings of `s`. -/
def Kept (s : State) : Outcome → Prop
  | .next t => t.outside = s.outside
  | _ => True

theorem kept_next {s t : State} (h : t.outside = s.outside) : Kept s (.next t) := h

theorem kept_execPrefetch (m : MMod) (a : Opnd) (s : State) : Kept s (execPrefetch m a s) :=
  kept_next ((State.done_outside _).trans (outside_foldl _ _ fun t L => by
    split
    · simp
    · rfl))

theorem kept_execWbline (w : Opnd) (s : State) : Kept s (execWbline w s) :=
  kept_next (State.access_outside _ _ fun t => (State.done_outside _).trans (outside_foldl _ _ fun u L => by
    split
    · exact outside_foldl _ _ fun u w => by split <;> simp
    · rfl))

theorem kept_execInvline (space : Space) (a : Opnd) (s : State) : Kept s (execInvline space a s) :=
  kept_next (State.access_outside _ _ fun t => (State.done_outside _).trans (outside_foldl _ _ fun u L => by split <;> simp))

theorem kept_execWaitval (ty : Ty) (m : MMod) (a v : Opnd) (cond : BitVec 30) (s : State) : Kept s (execWaitval ty m a v cond s) :=
  kept_next (State.access_outside _ _ fun _ => (State.outside_with ..).trans ((State.waitGroup_outside ..).trans (State.park_outside ..)))

theorem kept_execBarinit (scope : BitVec 3) (space : Space) (base expa : Opnd) (s : State) :
    Kept s (execBarinit scope space base expa s) :=
  kept_next (State.barIssue_outside _ _ _ _ _ _ fun t pl => by
    split
    · simp
    · next h => exact (State.done_outside _).trans (State.barUpdate_outside h))

theorem kept_execBararr (scope : BitVec 3) (space : Space) (base cnt : Opnd) (s : State) :
    Kept s (execBararr scope space base cnt s) :=
  kept_next (State.barIssue_outside _ _ _ _ _ _ fun t pl => by
    split
    · simp
    · next h => exact (State.put_outside ..).trans (State.barUpdate_outside h))

theorem kept_execBarexp (scope : BitVec 3) (space : Space) (base bytes : Opnd) (s : State) :
    Kept s (execBarexp scope space base bytes s) :=
  kept_next (State.barIssue_outside _ _ _ _ _ _ fun t pl => by
    split
    · simp
    · next h => exact (State.done_outside _).trans (State.barUpdate_outside h))

theorem kept_execBarsync (scope : BitVec 3) (space : Space) (base : Opnd) (s : State) : Kept s (execBarsync scope space base s) :=
  kept_next (State.barIssue_outside _ _ _ _ _ _ fun t pl => by
    split
    · simp
    · next h => exact (State.barPark_outside ..).trans (State.barUpdate_outside h))

theorem kept_execBarwait (scope : BitVec 3) (space : Space) (base tok : Opnd) (s : State) :
    Kept s (execBarwait scope space base tok s) :=
  kept_next (State.barIssue_outside _ _ _ _ _ _ fun t pl => by simp)

theorem kept_execBartest (scope : BitVec 3) (space : Space) (base tok : Opnd) (s : State) :
    Kept s (execBartest scope space base tok s) :=
  kept_next (State.barIssue_outside _ _ _ _ _ _ fun t pl => by simp)

theorem kept_execRet (vs : List Opnd) (s : State) : Kept s (execRet vs s) := kept_next (by simp)

theorem kept_execCaput (spadSrc : Bool) (rb src : Opnd) (s : State) : Kept s (execCaput spadSrc rb src s) := by
  refine kept_next (State.caIssue_outside _ _ _ _ fun t => ?_)
  dsimp only
  split
  · simp
  · split
    · simp
    · rw [State.fabDrop_outside, State.caTransact_outside _ _ fun v L r h => ?_, outside_foldl _ _ fun u p => State.touchPlace_outside ..]
      split at h
      · cases h
      · refine State.caIn_outside (fun q hq => ?_) h
        obtain ⟨o, ho, rfl⟩ := map_eq_ok.mp hq
        exact State.lookupAlloc_outside ho

theorem kept_execCaget (rb x : Opnd) (s : State) : Kept s (execCaget rb x s) :=
  kept_next (State.caIssue_outside _ _ _ _ fun t => State.caTransact_outside _ _ fun v L o h =>
    State.caIn_outside (fun r hr => by
      obtain ⟨-, hr⟩ | ⟨-, hr⟩ := ite_eq_iff.mp hr
      · rw [← Except.ok.inj hr]
      · obtain ⟨e, -, rfl⟩ := map_eq_ok.mp hr
        rfl) h)

/-- One lane of caref and cadrop: the zero line is not counted, and the count of another line moves by `f`. -/
theorem count_outside {v : State} {o : Val × State} {c : Prop} [Decidable c] {x : Except CaErr CaEnt} {f : CaEnt → Except CaErr State}
    (hf : ∀ e u, f e = .ok u → u.outside = v.outside)
    (h : (if c then .ok (0, v) else do
      let e ← x
      let u ← f e
      return (0, u)) = .ok o) : o.2.outside = v.outside := by
  obtain ⟨-, h⟩ | ⟨-, h⟩ := ite_eq_iff.mp h
  · cases h
    rfl
  · obtain ⟨e, -, h⟩ := bind_eq_ok.mp h
    obtain ⟨u, hu, h⟩ := bind_eq_ok.mp h
    cases h
    exact hf e u hu

theorem kept_execCaref (rb x k : Opnd) (s : State) : Kept s (execCaref rb x k s) :=
  kept_next (State.caIssue_outside _ _ _ _ fun _ => State.caTransact_outside _ _ fun _ _ _ h =>
    State.caIn_outside (fun _ hr => count_outside (fun _ _ => State.countUp_outside) hr) h)

theorem kept_execCadrop (rb x k : Opnd) (s : State) : Kept s (execCadrop rb x k s) :=
  kept_next (State.caIssue_outside _ _ _ _ fun _ => State.caTransact_outside _ _ fun _ _ _ h =>
    State.caIn_outside (fun _ hr => count_outside (fun _ _ => State.countDown_outside) hr) h)

theorem kept_execCaswap (rb slot expect new : Opnd) (s : State) : Kept s (execCaswap rb slot expect new s) := by
  refine kept_next ?_
  rw [State.outside_ite]
  split
  · simp
  · refine State.caIssue_outside _ _ _ _ fun t => ?_
    dsimp only
    split
    · simp
    · refine (outside_foldl _ _ fun o L => ?_).trans ((State.fabDrop_outside ..).trans
        ((State.caTransact_outside _ _ fun v L r h => State.caIn_outside (fun q hq => ?_) h).trans
          (outside_foldl _ _ fun u L => State.touchPlace_outside ..)))
      · split <;> simp
      · split at hq
        · exact State.swapRoot_outside hq
        · cases hq
          rfl

theorem kept_execCawalk (rb root off : Opnd) (s : State) : Kept s (execCawalk rb root off s) :=
  kept_next (State.caIssue_outside _ _ _ _ fun t => State.caTransact_outside _ _ fun v L o h =>
    State.caIn_outside (fun r hr => by
      obtain ⟨n, -, rfl⟩ := map_eq_ok.mp hr
      rfl) h)

theorem kept_execCastat (rb x : Opnd) (code : BitVec 30) (s : State) : Kept s (execCastat rb x code s) :=
  kept_next (State.caIssue_outside _ _ _ _ fun t => (State.skipFree_outside _).trans
    (State.caTransact_outside _ _ fun v L o h => State.caIn_outside (fun r hr => by
      cases hr
      rfl) h))

theorem kept_execCanode (rb hdr c0 c1 c2 c3 c4 c5 c6 : Opnd) (s : State) : Kept s (execCanode rb hdr c0 c1 c2 c3 c4 c5 c6 s) :=
  kept_next (State.caIssue_outside _ _ _ _ fun _ => State.caTransact_outside _ _ fun _ _ _ h =>
    State.caIn_outside (fun _ hr => State.buildNode_outside hr) h)

theorem kept_execEngbind (ctl cbase ncmd crbase ncpl : Opnd) (s : State) : Kept s (execEngbind ctl cbase ncmd crbase ncpl s) := by
  refine kept_next ?_
  split
  · simp
  · dsimp only
    split
    · simp
    · split <;> simp

theorem kept_execEngunbind (h : Opnd) (s : State) : Kept s (execEngunbind h s) :=
  kept_next (State.withBind_outside _ _ fun b => by simp)

theorem kept_execCmpwait (h target : Opnd) (s : State) : Kept s (execCmpwait h target s) :=
  kept_next (State.withBind_outside _ _ fun b => by simp)

theorem kept_execCmpnext (h done : Opnd) (s : State) : Kept s (execCmpnext h done s) :=
  kept_next (State.withBind_outside _ _ fun b => by simp)

theorem kept_execEngstat (h : Opnd) (code : BitVec 30) (s : State) : Kept s (execEngstat h code s) :=
  kept_next (State.withBind_outside _ _ fun _ => State.put_outside ..)

theorem kept_execTasknew (rec : Opnd) (s : State) : Kept s (execTasknew rec s) := by
  refine kept_next ?_
  rw [State.outside_ite]
  split
  · simp
  · split
    · simp
    · refine State.tableTx_outside _ fun t => ?_
      refine iteInduction (motive := fun u : State => u.outside = t.outside) (fun _ => by simp) fun _ => ?_
      refine iteInduction (motive := fun u : State => u.outside = t.outside) (fun _ => by simp) fun _ => ?_
      refine iteInduction (motive := fun u : State => u.outside = t.outside) (fun _ => by simp) fun _ => ?_
      dsimp only
      split
      · simp
      · next h => simp [State.newTask_outside h]

theorem kept_execTaskdep (pred succ : Opnd) (s : State) : Kept s (execTaskdep pred succ s) :=
  kept_next (State.tableTx_outside _ fun t => by
    split
    · simp
    · split <;> simp)

theorem kept_execTaskarm (x n : Opnd) (s : State) : Kept s (execTaskarm x n s) :=
  kept_next (State.tableTx_outside _ fun t => by split <;> simp)

theorem kept_execContsig (tok : Opnd) (s : State) : Kept s (execContsig tok s) := by
  refine kept_next ?_
  rw [State.outside_ite]
  split
  · rfl
  · split <;> simp

theorem kept_execCkpt (mode : BitVec 30) (desc : Opnd) (s : State) : Kept s (execCkpt mode desc s) := by
  refine kept_next ?_
  rw [State.outside_ite]
  split
  · rfl
  · split
    · next h => exact State.deliverPend_outside h
    · simp

theorem kept_execTlbinv (kind : BitVec 30) (va : Opnd) (s : State) : Kept s (execTlbinv kind va s) := by
  refine kept_next ?_
  split <;> simp

theorem kept_execTcinv (h f : Opnd) (s : State) : Kept s (execTcinv h f s) := by
  refine kept_next ?_
  split <;> simp

theorem kept_execMld (m : MMod) (addr pitch : Opnd) (fmt : BitVec 30) (s : State) : Kept s (execMld m addr pitch fmt s) := by
  refine kept_next ?_
  rw [State.outside_ite]
  split
  · simp
  · split <;> simp

theorem kept_execMst (m : MMod) (addr pitch t : Opnd) (fmt : BitVec 30) (amax : Opnd) (s : State) :
    Kept s (execMst m addr pitch t fmt amax s) := by
  refine kept_next ?_
  rw [State.outside_ite]
  split
  · simp
  · split <;> simp

theorem kept_execMdesc (base rpitch tpitch rot sbase srpitch : Opnd) (s : State) :
    Kept s (execMdesc base rpitch tpitch rot sbase srpitch s) := by
  refine kept_next ?_
  split
  · next h => exact State.laneFault_outside h
  · simp

theorem kept_exec {i : Instr} (s : State) (hi : toRaw i ≠ none) : Kept s (exec i s) := by
  cases i
  case add | sub | mul | mulhi | mad | div | rem | neg | abs | min | max | addsat | subsat | and | or | xor | not | andn | shl | shr
    | sra | rotl | rotr | clz | ctz | popc | brev | bswap | bfx | bfi | cmp | sel | zext | sext | trunc | lea | const | sreg | fabs
    | fneg | fcpsgn | fclass | fnaddr | lnkaddr | rjmask | lpidx | lswap | lshfl | lbcast | lrot | lvote | lany | lall | lfirst
    | lmatch | rng | pvbase | taskid | gangid | dcount | dmode | mquery => exact kept_next (State.put_outside ..)
  case addc | subb => exact kept_next (State.finish_outside ..)
  case fadd | fsub | fmul | fma | fdiv | fsqrt | frsqrt | frcp | fmin | fmax | frint | fscale | fcvt | ftoi | itof | fpack2 | mxdq
    | fexp2 | flog2 | fsin | fcos | ftanh | fsigm => exact kept_next (State.putFp_outside ..)
  case fcmp | funpack2 | mxq | fsincos | lred | lscan => exact kept_next (State.finishFp_outside ..)
  case atomadd | atomfadd | atomand | atomor | atomxor | atommin | atommax | atomfmin | atomfmax | atominc | atomdec | atomxchg
    | atomcas | atomcas2 => exact kept_next (State.atomic_outside ..)
  case red | redf => exact kept_next (State.atomIssue_outside _ _ _ fun t => State.redEff_outside ..)
  case spmax | spargmax | spsum | spsoftmax | sptopk | spsample => exact kept_next (State.spanRun_outside ..)
  case br | brc | brsw => exact kept_next (State.branch_outside ..)
  case call | tcall => exact kept_next (State.callWith_outside ..)
  case callx | tcallx => exact kept_next (State.callDesc_outside ..)
  case ld | ldv => exact kept_next (State.access_outside _ _ fun t => State.loadEff_outside ..)
  case st | stv | zline => exact kept_next (State.access_outside _ _ fun t => State.storeEff_outside ..)
  case ldblk | stblk => exact kept_next (State.blkIssue_outside ..)
  case unreach | trap => exact kept_next (State.faultAll_outside ..)
  case mma | mmamx => exact kept_next (State.mmaIssue_outside ..)
  case mzero | mtrans => exact kept_next (State.toQuern_outside ..)
  case exit => exact kept_next (State.exitThreads_outside ..)
  case fence => exact kept_next (State.fenceEff_outside ..)
  case contret => exact kept_next (State.contReturn_outside ..)
  case spq | drain | sleep | wake | opfence | calll | rjenrol | rjstrike | rjwait | lpbeg | lpend | yield | fsflag | prio | estim
    | dmerge | dseq | sysrd | syswr | brk | assert | contset | evtsig | halt | mwait => exact kept_next (by simp)
  case prefetch => exact kept_execPrefetch ..
  case wbline => exact kept_execWbline ..
  case invline => exact kept_execInvline ..
  case waitval => exact kept_execWaitval ..
  case barinit => exact kept_execBarinit ..
  case bararr => exact kept_execBararr ..
  case barexp => exact kept_execBarexp ..
  case barwait => exact kept_execBarwait ..
  case barsync => exact kept_execBarsync ..
  case bartest => exact kept_execBartest ..
  case ret => exact kept_execRet ..
  case caput => exact kept_execCaput ..
  case caget => exact kept_execCaget ..
  case caref => exact kept_execCaref ..
  case cadrop => exact kept_execCadrop ..
  case caswap => exact kept_execCaswap ..
  case cawalk => exact kept_execCawalk ..
  case castat => exact kept_execCastat ..
  case canode => exact kept_execCanode ..
  case engbind => exact kept_execEngbind ..
  case engunbind => exact kept_execEngunbind ..
  case cmpwait => exact kept_execCmpwait ..
  case cmpnext => exact kept_execCmpnext ..
  case engstat => exact kept_execEngstat ..
  case tasknew => exact kept_execTasknew ..
  case taskdep => exact kept_execTaskdep ..
  case taskarm => exact kept_execTaskarm ..
  case contsig => exact kept_execContsig ..
  case ckpt => exact kept_execCkpt ..
  case tlbinv => exact kept_execTlbinv ..
  case tcinv => exact kept_execTcinv ..
  case mld => exact kept_execMld ..
  case mst => exact kept_execMst ..
  case mdesc => exact kept_execMdesc ..
  all_goals exact absurd rfl hi

/-- Settles O57: each instruction changes the state through operations that leave what lies outside the programs as it is. -/
theorem programsLeaveThePackage : Obligations.ProgramsLeaveThePackage := by
  intro i s t hi h
  have hk : Kept s (.next t) := h ▸ kept_exec s hi
  simpa [Kept, State.outside] using hk

end Sys2Proof.Machine
end

section
/-! What a step does, and what the operations of a bundle run (04_control.md R133, R135, 03_tvedah_native.md R85, R89-R91, R94). -/
namespace Sys2Proof.Machine
open Sys2Proof Sys2Proof.Safety

/-- An outcome with its next state, if it has one, replaced by its image. -/
def onNext (f : State → State) : Outcome → Outcome
  | .next s => .next (f s)
  | .fault r => .fault r
  | .refused r => .refused r

@[simp] theorem onNext_next (f : State → State) (s : State) : onNext f (.next s) = .next (f s) := rfl
@[simp] theorem onNext_fault (f : State → State) (r : Fault) : onNext f (.fault r) = .fault r := rfl
@[simp] theorem onNext_refused (f : State → State) (r : Refusal) : onNext f (.refused r) = .refused r := rfl

/-! ## Updates that change nothing -/

theorem updAt_fixed {α : Type} (l : List α) (i : Nat) (f : α → α) (d : α) (h : f (l.getD i d) = l.getD i d) : updAt l i f = l := by
  refine List.ext_getElem? fun j => ?_
  rw [updAt_getElem?]
  by_cases hj : j = i
  · subst hj
    rw [if_pos rfl]
    cases hl : l[j]? with
    | none => rfl
    | some a => simpa [List.getD_eq_getElem?_getD, hl] using h
  · rw [if_neg hj]

theorem State.updWv_fixed {s : State} {f : Wave → Wave} (h : f s.wv = s.wv) : s.updWv f = s := by
  show ({ s with waves := updAt s.waves s.issue.wave f } : State) = s
  rw [updAt_fixed s.waves s.issue.wave f default h]

theorem Wave.mapLanes_fixed {w : Wave} {f : Nat → Lane → Lane} (hl : w.lanes.length = 32) (h : ∀ L, L < 32 → f L (w.lane L) = w.lane L) :
    w.mapLanes f = w := by
  have hlanes : ((List.range 32).map fun L => f L (w.lane L)) = w.lanes := by
    refine List.ext_getElem (by simp [hl]) fun L h1 h2 => ?_
    have hL : L < 32 := hl ▸ h2
    simpa [Wave.lane, h2] using h L hL
  exact congrArg (fun ls => { w with lanes := ls }) hlanes

/-- Before its first operation a bundle stands as it is. -/
theorem State.asBefore_self {u : State} (h : u.wv.lanes.length = 32) : u.asBefore none u = u :=
  State.updWv_fixed <| congrArg (fun w : Wave => { w with retired := u.wv.retired, sincePhase := u.wv.sincePhase }) <|
    Wave.mapLanes_fixed (f := fun L l => if inMask u.active L then { l with bpos := (u.wv.lane L).bpos } else l) h fun _ _ => ite_self _

/-! ## The operations of a bundle (R89-R91, R94, R175, R420) -/

/-- What the location of an instruction holds, by the decoding of its module's bytes. -/
theorem State.fetch_of_decode {s : State} {p : Loc} {m : Module} {f : FuncInfo} {i : Instr} {rest : List Word} (hm : s.moduleOf p.handle = some m)
    (hf : s.funcOf p.handle p.func = some f) (hd : decode m.user f.argc (wordsOfBytes (m.image.drop p.off)) = .ok (i, rest)) :
    ∃ n, s.fetch p = .ok (i, n) := by
  unfold decode at hd
  split at hd
  · cases hd
  · next r rest' hr =>
    split at hd
    · next i' hi =>
      cases hd
      exact ⟨p.off + 4 * r.words.length, by simp [State.fetch, hm, hf, Module.rawAt, hr, hi, Except.map]⟩
    · cases hd

/-- Where the operations of a bundle have all issued, each is run over what the one before it left, and the count of bundles since the last barrier
phase is that of the operation that has set it. -/
theorem State.runOps_chain {u : State} {x : TransImage} {b : Bundle} (v : Nat → State) (ph : Nat → Option Nat) (os : List BundleOp) (n : Nat)
    (h : ∀ k o, os[k]? = some o → (u.asBefore (ph (n + k)) (v (n + k))).runOp x b o = .next (v (n + k + 1)) ∧
      (v (n + k + 1)).wv.retired ≠ u.wv.retired ∧ ph (n + k + 1) = phaseNow u.wv (v (n + k + 1)).wv (ph (n + k))) :
    u.runOps x b (ph n) os (v n) = .next (match ph (n + os.length) with
      | some c => (v (n + os.length)).updWv fun w => { w with sincePhase := c }
      | none => v (n + os.length)) := by
  induction os generalizing n with
  | nil => rfl
  | cons o os ih =>
    obtain ⟨hrun, hissued, hph⟩ := h 0 o rfl
    have hrest := ih (n + 1) fun k o' ho' => by
      have := h (k + 1) o' ho'
      rwa [show n + (k + 1) = n + 1 + k by omega] at this
    simp only [Nat.add_zero] at hrun hissued hph
    simp only [State.runOps, hrun, if_neg hissued, ← hph, hrest, List.length_cons, show n + 1 + os.length = n + (os.length + 1) by omega]

/-- Neither RETIRED nor anything else of a wave but the count changes where that count is set. -/
theorem State.updWv_sincePhase_retired (s : State) (n : Nat) : (s.updWv fun w => { w with sincePhase := n }).wv.retired = s.wv.retired := by
  by_cases h : s.issue.wave < s.waves.length
  · rw [State.updWv_wv _ _ h]
  · have hout : updAt s.waves s.issue.wave (fun w => { w with sincePhase := n }) = s.waves :=
      List.ext_getElem? fun j => by
        rw [updAt_getElem?]
        split
        · next hj => rw [List.getElem?_eq_none (by omega)]; rfl
        · rfl
    exact congrArg (fun ws : List Wave => (ws.getD s.issue.wave default).retired) hout

/-- A bundle of one operation is what that operation does. -/
theorem State.runOps_single {u : State} {x : TransImage} {b : Bundle} {o : BundleOp} (hl : u.wv.lanes.length = 32) :
    u.runOps x b none [o] u = u.runOp x b o := by
  simp only [State.runOps, State.asBefore_self hl]
  cases hz : u.runOp x b o with
  | fault f => rfl
  | refused r => rfl
  | next z =>
    show (if z.wv.retired = u.wv.retired then _ else Host.Outcome.next (match phaseNow u.wv z.wv none with
      | some n => z.updWv fun w => { w with sincePhase := n }
      | none => z)) = _
    split
    · rfl
    · by_cases hp : z.wv.sincePhase = u.wv.sincePhase + 1
      · rw [show phaseNow u.wv z.wv none = none from if_pos hp]
      · rw [show phaseNow u.wv z.wv none = some z.wv.sincePhase from if_neg hp]
        exact congrArg Host.Outcome.next (State.updWv_fixed rfl)

/-- An operation that stands for a portable instruction runs the instruction that its place holds, with the types of its format register (R94). -/
theorem State.runOp_own {u : State} {x : TransImage} {b : Bundle} {o : BundleOp} {k n : Nat} {i : Instr} (ho : o.own = some k) (hb : b.only = none)
    (hf : u.fetch (x.place u.issue.here.handle u.issue.here.bud b.block k u.issue.here.bun) = .ok (i, n)) :
    u.runOp x b o =
      let q := match o.fsel with
        | some f => u.retype f i
        | none => (i, none)
      State.ownEffect { u with issue := { u.issue with
        loc := x.place u.issue.here.handle u.issue.here.bud b.block k u.issue.here.bun, dsts := o.dsts, srcs := o.srcs, yt := q.2, land := o.land } }
        q.1 := by
  simp only [State.runOp, ho, hf, hb, Option.bind_none] <;> rfl

/-- No span instruction of the wave holds back an access of these scratchpad bytes. -/
theorem spanFree_iff {y : State} {rs : List (Nat × Nat)} : (!y.spans.isEmpty && y.spanHolds rs) = false ↔ y.spans = [] ∨ y.spanHolds rs = false := by
  cases y.spans <;> simp

/-- A portable instruction that its wave's span instructions let pass does what its meaning says (R230, R326). -/
theorem State.ownEffect_next {y v : State} {i : Instr} (hpad : y.spans = [] ∨ y.spanHolds (y.padUse i) = false) (hv : exec i y = .next v)
    (hsent : y.spans = [] ∨ y.spanHolds (y.padSent v) = false) :
    y.ownEffect i = .next (y.spansSee (some y.wv.token) (if v.wv.retired = y.wv.retired then v else y.notePubs (y.meetPending i v))) := by
  simp only [State.ownEffect, spanFree_iff.mpr hpad, hv, spanFree_iff.mpr hsent, Bool.false_eq_true, if_false]

theorem State.ownEffect_fault {y : State} {i : Instr} {f : Fault} (hpad : y.spans = [] ∨ y.spanHolds (y.padUse i) = false) (hv : exec i y = .fault f) :
    y.ownEffect i = .fault f := by
  simp only [State.ownEffect, spanFree_iff.mpr hpad, hv, Bool.false_eq_true, if_false]

theorem State.ownEffect_refused {y : State} {i : Instr} {r : Refusal} (hpad : y.spans = [] ∨ y.spanHolds (y.padUse i) = false)
    (hv : exec i y = .refused r) : y.ownEffect i = .refused r := by
  simp only [State.ownEffect, spanFree_iff.mpr hpad, hv, Bool.false_eq_true, if_false]

/-! ## The bundle of a group (R85, R399) -/

/-- A bundle with operations, and no constant without one, is what its operations make of the state, with its lanes settled once it has issued. -/
theorem State.runBundle_ops {s u : State} {w : Nat} {m : Mask} {l : Loc} {x : TransImage} {b : Bundle} (hu : { s with issue := issueOf w m l x b } = u)
    (hb : b.bare = []) (ho : b.ops ≠ []) :
    s.runBundle w m l x b = onNext (fun z => if z.wv.retired = u.wv.retired then z else u.settleBundle b z) (u.runOps x b none b.ops u) := by
  simp only [State.runBundle, hu, hb, List.foldl_nil, List.isEmpty_eq_false_iff.mpr ho, Bool.false_eq_true, if_false]
  cases u.runOps x b none b.ops u <;> rfl

section Bundle
variable {s t₀ t : State} {w : Nat} {l : Loc} {m : Mask} {x : TransImage} {b : Bundle} {bits : BundleBits}

theorem State.issueGroup_illegal (hbefore : s.beforeBundle w (l, m) = (t₀, false)) (hx : t₀.locImage (t₀.waveAt w) l = some x)
    (hb : x.plan[l.bun]? = some b) (hbits : (if x.code.isEmpty then default else t₀.bundleBits x b) = bits) (hlegal : t₀.bundleLegal w m x bits = false) :
    s.issueGroup w (l, m) = .next (t₀.illegalBundle w (l, m) x bits) := by
  simp only [State.issueGroup, hbefore, hx, hb, hbits, hlegal, Bool.not_false, if_true]

theorem State.issueGroup_stamp (hbefore : s.beforeBundle w (l, m) = (t₀, false)) (hx : t₀.locImage (t₀.waveAt w) l = some x)
    (hb : x.plan[l.bun]? = some b) (hbits : (if x.code.isEmpty then default else t₀.bundleBits x b) = bits) (hlegal : t₀.bundleLegal w m x bits = true)
    (hstamp : t₀.stampBad w m x bits = true) : s.issueGroup w (l, m) = .next (t₀.faultAt w m l (causeT 0x31 0) m 0 0) := by
  simp only [State.issueGroup, hbefore, hx, hb, hbits, hlegal, hstamp, Bool.not_true, Bool.false_eq_true, if_true, if_false]

theorem State.issueGroup_runs (hbefore : s.beforeBundle w (l, m) = (t₀, false)) (hx : t₀.locImage (t₀.waveAt w) l = some x)
    (hb : x.plan[l.bun]? = some b) (hbits : (if x.code.isEmpty then default else t₀.bundleBits x b) = bits) (hlegal : t₀.bundleLegal w m x bits = true)
    (hstamp : t₀.stampBad w m x bits = false) (hroom : t₀.bufferFull w (l, m) b = none) (hfill : t₀.fillFor w b = .ok t) :
    s.issueGroup w (l, m) = onNext (t.afterIssue w (l, m) b) (t.runBundle w m l x b) := by
  simp only [State.issueGroup, hbefore, hx, hb, hbits, hlegal, hstamp, hroom, hfill, Bool.not_true, Bool.false_eq_true, if_false]
  cases t.runBundle w m l x b <;> rfl

end Bundle

/-! ## One step (R133, R135, R463) -/

theorem step_move {s : State} {m : Move} {ms : List Move} (hp : s.power = true) (ha : s.agenda = m :: ms) :
    step s = ({ s with agenda := ms } : State).doMove m := by
  simp only [step, State.stepOf, hp, ha, if_true]

theorem step_own {s : State} (hp : s.power = true) (ha : s.agenda = []) : step s = s.ownStep := by
  simp only [step, State.stepOf, hp, ha, if_true]

theorem step_unpowered {s : State} (hp : s.power = false) : step s = s.powerStep := by
  simp only [step, State.stepOf, hp, Bool.false_eq_true, if_false]

/-- What only a bundle may do is no move of the surroundings (R2). -/
theorem State.doMove_bundleOnly {s : State} {i : Instr} (h : toRaw i ≠ none ∨ i.isNative = true ∨ i = .emptyBundle) : s.doMove (.event i) = .next s := by
  refine if_pos ?_
  rw [Bool.or_eq_true, Bool.or_eq_true, beq_iff_eq, Option.isSome_iff_ne_none, or_assoc]
  exact h

theorem State.doMove_event {s : State} {i : Instr} (hr : toRaw i = none) (hn : i.isNative = false) (he : i ≠ .emptyBundle) :
    s.doMove (.event i) = onNext (s.spansSee none) (exec i s) := by
  have hcan : ((toRaw i).isSome || i.isNative || i == .emptyBundle) = false := by simp [hr, hn, he]
  simp only [State.doMove, hcan, Bool.false_eq_true, if_false]
  cases exec i s <;> rfl

/-- Nothing is due where no due event has an effect. -/
theorem State.eventFirst_idle {s : State} {is : List Instr} (h : ∀ i ∈ is, exec i s = .next s) : s.eventFirst is = none := by
  induction is with
  | nil => rfl
  | cons i is ih =>
    simp only [State.eventFirst, h i List.mem_cons_self, if_true]
    exact ih fun j hj => h j (List.mem_cons_of_mem i hj)

/-- An attempt that has issued keeps its own place in the packet; one that only asks takes none. -/
theorem State.faultTurn_none {s u : State} {w : Nat} {g : Loc × Mask} (h : (u.waveAt w).retired ≠ (s.waveAt w).retired ∨ s.took u w = false) :
    s.faultTurn w g u = u :=
  if_neg fun hc => h.elim (fun hr => hr hc.1) fun ht => Bool.noConfusion (ht.symm.trans hc.2)

section OwnStep
variable {s : State}

theorem State.ownStep_frame {g : Gang} (ho : s.overfull = none) (hd : ∀ i ∈ s.due, exec i s = .next s) (hg : s.gangs.find? s.frameReady = some g) :
    s.ownStep = .next (s.beginFrame g) := by
  simp only [State.ownStep, ho, State.eventFirst_idle hd, hg]

theorem State.ownStep_packet {o : Outcome} (ho : s.overfull = none) (hd : ∀ i ∈ s.due, exec i s = .next s)
    (hg : s.gangs.find? s.frameReady = none) (hi : s.issueFirst s.candidates = some o) : s.ownStep = o := by
  simp only [State.ownStep, ho, State.eventFirst_idle hd, hg, hi]

theorem State.ownStep_tick (ho : s.overfull = none) (hd : ∀ i ∈ s.due, exec i s = .next s) (hg : s.gangs.find? s.frameReady = none)
    (hc : s.candidates = []) : s.ownStep = .next s.tick := by
  simp only [State.ownStep, ho, State.eventFirst_idle hd, hg, hc, State.issueFirst]

/-- The first candidate whose bundle is not frozen issues: alone, or with its secondary. -/
theorem State.issueFirst_alone {c : Nat × Loc × Mask} {cs : List (Nat × Loc × Mask)} {u : State} (hu : s.issueTurn c.1 c.2 = .next u)
    (hne : { u with issue := s.issue } ≠ s) (h : s.took u c.1 = false ∨ s.secondary c cs = none) : s.issueFirst (c :: cs) = some (.next u) := by
  simp only [State.issueFirst, hu, if_neg hne]
  rcases h with ht | hs
  · rw [if_neg (Bool.eq_false_iff.mp ht)]
  · simp only [hs, ite_self]

theorem State.issueFirst_packet {c x : Nat × Loc × Mask} {cs : List (Nat × Loc × Mask)} {u : State} (hu : s.issueTurn c.1 c.2 = .next u)
    (hne : { u with issue := s.issue } ≠ s) (ht : s.took u c.1 = true) (hs : s.secondary c cs = some x) :
    s.issueFirst (c :: cs) = some (s.packet c x u) := by
  simp only [State.issueFirst, hu, if_neg hne, if_pos ht, hs]

end OwnStep

/-- Settles O60, clause by clause: what a step does first, the packet, and the operations of a bundle. -/
theorem stepRunsDecoded : Obligations.StepRunsDecoded := by
  intro s ms s'
  refine ⟨fun i hp ha hr hn he => ?event, fun i hp ha h => (step_move hp ha).trans (State.doMove_bundleOnly h),
    fun u h => if_pos (by rw [h]; rfl), fun l hp ha ho => ?evict, fun w L c hp ha hc => ?issue, fun hp ha ho hd => ?own,
    fun w g u hu h => ?turn, fun hp ha => ?dark, fun hp ha => ?reset, fun w l m t₀ t x b hbefore hx hb => ?bundle⟩
  case event =>
    rw [step_move hp ha, State.doMove_event hr hn he]
    cases exec i s' <;> rfl
  case evict => rw [step_own hp ha, State.ownStep, ho]
  case issue => rw [step_move hp ha, State.doMove, hc]
  case own =>
    rw [step_own hp ha]
    refine ⟨fun g hg => State.ownStep_frame ho hd hg, fun hg => ⟨State.ownStep_tick ho hd hg, fun c cs u hc hu hne => ⟨fun h => ?_, fun x ht hx => ?_⟩⟩⟩
    · exact State.ownStep_packet ho hd hg (hc ▸ State.issueFirst_alone hu hne h)
    · exact State.ownStep_packet ho hd hg (hc ▸ State.issueFirst_packet hu hne ht hx)
  case turn =>
    rw [State.issueTurn, hu]
    exact congrArg Host.Outcome.next (State.faultTurn_none h)
  case dark => rw [step_unpowered hp, State.powerStep, ha]
  case reset => rw [step_unpowered hp, State.powerStep, ha]
  case bundle =>
    intro bits
    have hbits : (if x.code.isEmpty then default else t₀.bundleBits x b) = bits := by simp [bits]
    refine ⟨State.issueGroup_illegal hbefore hx hb hbits, State.issueGroup_stamp hbefore hx hb hbits, ?_⟩
    intro hlegal hstamp hroom hfill hbare hlen hw at_ u issued
    have hruns := State.issueGroup_runs hbefore hx hb hbits hlegal hstamp hroom hfill
    have hu : { t with issue := issueOf w m l x b } = u := rfl
    have hul : u.wv.lanes.length = 32 := hlen
    constructor
    case left =>
      intro v ph hv hph hops hchain last
      have hall := State.runOps_chain (u := u) (x := x) (b := b) v ph b.ops 0 fun k o ho => by simpa using hchain k o ho
      rw [hv, hph, Nat.zero_add] at hall
      have hend : (v b.ops.length).wv.retired ≠ u.wv.retired := by
        obtain ⟨n, hn⟩ := Nat.exists_eq_succ_of_ne_zero (List.length_eq_zero_iff.not.mpr hops)
        rw [hn]
        exact (hchain n _ (List.getElem?_eq_getElem (by omega))).2.1
      have hlast : last.wv.retired ≠ u.wv.retired := by
        show (match ph b.ops.length with
          | some n => (v b.ops.length).updWv fun w => { w with sincePhase := n }
          | none => v b.ops.length).wv.retired ≠ u.wv.retired
        split
        · rwa [State.updWv_sincePhase_retired]
        · exact hend
      rw [hruns, State.runBundle_ops hu hbare hops, show u.runOps x b none b.ops u = .next last from hall, onNext_next, if_neg hlast, onNext_next]
    case right =>
      intro k o mo f i rest hops hown honly p hmo hf hd q y hpad
      obtain ⟨n, hfetch⟩ := State.fetch_of_decode (s := u) hmo hf hd
      have hgroup : s.issueGroup w (l, m) = onNext (t.afterIssue w (l, m) b) (onNext
          (fun z => if z.wv.retired = u.wv.retired then z else u.settleBundle b z) (y.ownEffect q.1)) := by
        rw [hruns, State.runBundle_ops hu hbare (by rw [hops]; exact List.cons_ne_nil _ _), hops, State.runOps_single hul, State.runOp_own hown honly hfetch] <;> rfl
      rw [hgroup]
      refine ⟨fun v hv hsent => ?_, fun f hv => ?_, fun r hv => ?_⟩
      · rw [State.ownEffect_next hpad hv hsent]; rfl
      · rw [State.ownEffect_fault hpad hv]; rfl
      · rw [State.ownEffect_refused hpad hv]; rfl

end Sys2Proof.Machine
end

section
/-! A wave with more lanes than 0 to 31 (04_control.md R145). -/
namespace Sys2Proof.Machine
open Sys2Proof Sys2Proof.Safety

/-- A wave that holds 33 lanes, one more than lanes 0 to 31: these issue, and lane 32 runs beside them. A command of its workgroup is not done. -/
def extraLane : State :=
  { State.reset with
    waves := [{ (default : Wave) with live := true, lanes := List.replicate 33 { (default : Lane) with frames := [default] } }]
    cmds := [default]
    issue := { (default : Issue) with mask := BitVec.allOnes 32 } }

theorem extraLane_on {L : Nat} (h : L < 32) : inMask extraLane.issue.mask L = true :=
  (BitVec.getLsbD_allOnes ..).trans (decide_eq_true h)

theorem extraLane_lane {L : Nat} (h : L < 32) : extraLane.wv.lane L = { (default : Lane) with frames := [default] } := by
  interval_cases L <;> rfl

theorem extraLane_issuing : Issuing extraLane :=
  ⟨by decide, fun L hL => by simp [extraLane_lane hL.1]⟩

/-- Lane 32 has not exited and is in no mask, so that `exit` does not see the end of its workgroup coming: it issues. -/
theorem extraLane_exits : extraLane.exitThreads.wv.retired = 1 := by decide +kernel

/-- Refutes O17: a state may hold a wave with more than 32 lanes. The statement takes the last lane of a workgroup to end when lanes 0 to 31 have
exited or issue, the model looks at every lane that the wave holds. With a 33rd lane, `exit` goes on where the statement has it wait for a command
of the workgroup. -/
theorem not_callsReturnsAndExits : ¬ Obligations.CallsReturnsAndExits := by
  rintro ⟨-, hexit⟩
  have hon : ∀ L, ¬Off extraLane L := fun L hL => Bool.noConfusion ((extraLane_on hL.1).symm.trans hL.2)
  obtain ⟨-, -, -, hwaits, -⟩ := hexit extraLane [] extraLane_issuing fun L hL => by rw [extraLane_lane hL.1]; rfl
  have hlast : ∀ j, j < extraLane.waves.length → j ≠ extraLane.issue.wave → (extraLane.waveAt j).wg = extraLane.wv.wg →
      (extraLane.waveAt j).live = true → (extraLane.waveAt j).allExited = true := fun j hj hne => absurd (Nat.lt_one_iff.mp hj) hne
  have hstays : exec .exit extraLane = .next extraLane :=
    hwaits rfl (.inr (.inr ⟨⟨fun L hL => absurd hL (hon L), hlast⟩, rfl⟩))
  have hsame : extraLane.exitThreads = extraLane := Host.Outcome.next.inj hstays
  have := extraLane_exits
  rw [hsame] at this
  exact absurd this (by decide)

end Sys2Proof.Machine
end

section
/-! A retranslation whose report makes a handler task (03_tvedah_native.md R129, R131, 16_traps_preemption.md R425, R426). -/
namespace Sys2Proof.Machine
open Sys2Proof Sys2Proof.Safety

/-! ## A handler task takes the handle of a task that is gone -/

/-- The record of a handler task that runs in ordered mode. -/
def orderedHandler : Launch :=
  { (default : Launch) with handle := 1, grid := 1, nwave := 1, gang := 1, budget := 8, flags := 1, deps := 1 }

/-- A module of one function; the loader has placed its descriptor table at the start of its window. -/
def handlerModule : Module :=
  { (default : Module) with handle := 1, loads := 1, funcs := [default], descBase := dw Config.loaderVa }

/-- Where every lane of the wave stands: before the first bundle of the function, in its translation at budget 16. -/
def oldPlace : Loc := { (default : Loc) with handle := 1, bud := 16 }

/-- The translation of the function at a budget, for a task that is not ordered. -/
def oneBundleImage (budget : Nat) : TransImage :=
  { (default : TransImage) with
    key := { modkey := 0, func := 0, cls := 1, gen := 1, budget := budget, dmode := 0 }, plan := [{ (default : Bundle) with first := true }] }

/-- A wave whose workgroup is to run at budget 8, with both translations in the cache. The task of the workgroup is not in the dependency table, and
its handle is the one that the next task of die 0 gets. Context 0 has a notice ring and names the record of a handler task; retranslations are
reported. -/
def goneTask : State :=
  { State.reset with
    waves := [{ (default : Wave) with live := true, lanes := List.replicate 32 { (default : Lane) with pc := oldPlace }, budget := 16 }]
    wgs := [{ (default : Workgroup) with st := .resident, task := dw (2 ^ 19), budget := 8 }]
    modules := [handlerModule]
    images := [oneBundleImage 16, oneBundleImage 8]
    sys := [(0x1020, 2), (0x9010, 1), (0x9012, 4), (0x9016, dw Config.loaderVa)]
    mem := writeBytes [] (physKey 0 Config.loaderDpa) orderedHandler.bytes }

/-- The report of the retranslation makes the handler task, whose mode is then that of the wave's translations: the translation in which the group
stands is none of them, and the group does not move. -/
theorem goneTask_stays : ∃ t, exec (.waveMigrate 0) goneTask = .next t ∧ ((t.waveAt 0).lane 0).pc.bud = 16 :=
  ⟨_, rfl, by decide +kernel⟩

theorem goneTask_migrationPoint : goneTask.migrationPoint 0 = some oldPlace := by decide +kernel

theorem goneTask_freshImage : goneTask.freshImage 0 { goneTask.locKey (goneTask.waveAt 0) oldPlace with budget := 8 } = some (oneBundleImage 8) := by
  decide +kernel

/-- Refutes O49: a resident workgroup may name a task that is not in the dependency table (the end of a task frees its entry, R379). The event that
reports the retranslation (R129, R426) can make a handler task (R425) under that very handle; the wave then counts as one of the handler's, with
its determinism mode, under which the translation that it runs in is not found, and its group does not go on in the new one. -/
theorem not_issueAndTranslation : ¬ Obligations.IssueAndTranslation := by
  intro h
  obtain ⟨-, -, -, -, -, -, -, -, -, -, -, -, -, hmigrate⟩ := h goneTask 0 0 0 0
  obtain ⟨t, ht, -, -, hlanes⟩ := hmigrate oldPlace (oneBundleImage 8) (by decide) (by decide) rfl rfl goneTask_migrationPoint
    (fun _ he => absurd he List.not_mem_nil) rfl goneTask_freshImage
  obtain ⟨u, hu, hstays⟩ := goneTask_stays
  obtain rfl : t = u := Host.Outcome.next.inj (ht.symm.trans hu)
  obtain ⟨hmoved, -⟩ := hlanes 0 (by decide)
  obtain ⟨hbud, -⟩ := hmoved rfl rfl
  exact absurd (hstays.symm.trans hbud) (by decide)

end Sys2Proof.Machine
end

section
/-! What the walker and the lines of own words leave as it was, and the words that a store of a lane writes (08_memory.md R237, R244, R247, R252). -/
namespace Sys2Proof.Machine
open Sys2Proof Sys2Proof.Safety

/-! ## What stands beside memory -/

/-- What the walker's updates (R237) and the writes at a home leave as it was, that a program's operations read or that statements speak of. -/
structure BesideMem where
  waves : List Wave
  wgs : List Workgroup
  issue : Issue
  cycle : Nat
  msgs : List Msg
  badLines : List Nat
  dies : List DieSt
  l1 : List L1Line

def State.besideMem (s : State) : BesideMem :=
  { waves := s.waves, wgs := s.wgs, issue := s.issue, cycle := s.cycle, msgs := s.msgs, badLines := s.badLines, dies := s.dies, l1 := s.l1 }

@[simp] theorem State.besideMem_with (s : State) (mem keyids tlb shr rdc rdcFills hints held nextId ckpt) :
    State.besideMem { s with
      mem := mem, keyids := keyids, tlb := tlb, shr := shr, rdc := rdc, rdcFills := rdcFills, hints := hints, held := held, nextId := nextId,
      ckpt := ckpt } = s.besideMem := (rfl)

@[simp] theorem State.besideMem_ite (c : Prop) [Decidable c] (a b : State) :
    (if c then a else b).besideMem = if c then a.besideMem else b.besideMem := apply_ite State.besideMem c a b

@[simp] theorem besideMem_foldl {α : Type} {f : State → α → State} (l : List α) (s : State) (h : ∀ s x, (f s x).besideMem = s.besideMem) :
    (l.foldl f s).besideMem = s.besideMem :=
  List.foldlRecOn (motive := fun t : State => t.besideMem = s.besideMem) l f rfl fun t ht x _ => (h t x).trans ht

@[simp] theorem State.viewAs_besideMem (s : State) (key k : Nat) : (s.viewAs key k).besideMem = s.besideMem := by
  simp [State.viewAs]

@[simp] theorem State.meet_besideMem (s : State) (p : Phys) (n : Nat) : (s.meet p n).besideMem = s.besideMem := by
  simp [State.meet, State.meetKey]

@[simp] theorem State.pokeBytes_besideMem (s : State) (k : Nat) (bs : List Byte) : (s.pokeBytes k bs).besideMem = s.besideMem := by
  simp [State.pokeBytes, State.invalidateSharers]

@[simp] theorem State.stagingTouch_besideMem (s : State) (p : Phys) : (s.stagingTouch p).besideMem = s.besideMem := by
  simp [State.stagingTouch]

/-- The definition takes its place as a function, as in `State.stageFrame_outside`. -/
@[simp] theorem State.stageFrame_besideMem (s : State) (frame slot : Nat) : (s.stageFrame frame slot).besideMem = s.besideMem := by
  generalize h : State.stageFrame = f
  delta State.stageFrame at h
  subst h
  beta_reduce
  split
  · exact State.besideMem_with ..
  · next p _ =>
    exact (State.besideMem_with ..).trans
      ((State.stagingTouch_besideMem _ p).trans ((State.besideMem_with ..).trans (State.besideMem_with ..)))

@[simp] theorem State.homeWrite_besideMem (s : State) (k : Nat) (bs : List Byte) : (s.homeWrite k bs).besideMem = s.besideMem := by
  unfold State.homeWrite State.homeWriteBy State.homePut
  (repeat' split) <;> simp

@[simp] theorem State.hint_besideMem (s : State) (cache line : Nat) (e : Evict) : (s.hint cache line e).besideMem = s.besideMem := by
  unfold State.hint
  split <;> simp

@[simp] theorem State.rdcRead_besideMem (s : State) (die k : Nat) (evict : Evict) : (s.rdcRead die k evict).besideMem = s.besideMem := by
  simp [State.rdcRead]

@[simp] theorem State.walkReads_besideMem (s : State) (die ctx va : Nat) : (s.walkReads die ctx va).besideMem = s.besideMem := by
  simp [State.walkReads]

@[simp] theorem State.touch_besideMem (s : State) (a : Acc) (va : Nat) (p : Phys) : (s.touch a va p).besideMem = s.besideMem := by
  unfold State.touch
  rw [State.meet_besideMem]
  split <;> simp

@[simp] theorem State.touchPlace_besideMem (s : State) (a : Acc) (pl : Place) : (s.touchPlace a pl).besideMem = s.besideMem := by
  cases pl <;> simp [State.touchPlace]

/-! ## Lines of own words (R244, R252) -/

/-- Nothing beside memory has changed but the L1. -/
def L1Only (s u : State) : Prop := u.besideMem = { s.besideMem with l1 := u.l1 }

theorem L1Only.refl (s : State) : L1Only s s := rfl

theorem l1_of_besideMem {s u : State} (h : u.besideMem = s.besideMem) : u.l1 = s.l1 := congrArg BesideMem.l1 h

theorem L1Only.of_besideMem {s u : State} (h : u.besideMem = s.besideMem) : L1Only s u := by
  rw [L1Only, h, l1_of_besideMem h]
  rfl

theorem L1Only.trans {s t u : State} (h : L1Only s t) (k : L1Only t u) : L1Only s u :=
  Eq.trans k (congrArg (fun b : BesideMem => { b with l1 := u.l1 }) h)

theorem L1Only.waves {s u : State} (h : L1Only s u) : u.waves = s.waves := congrArg BesideMem.waves h
theorem L1Only.wgs {s u : State} (h : L1Only s u) : u.wgs = s.wgs := congrArg BesideMem.wgs h
theorem L1Only.issue {s u : State} (h : L1Only s u) : u.issue = s.issue := congrArg BesideMem.issue h
theorem L1Only.cycle {s u : State} (h : L1Only s u) : u.cycle = s.cycle := congrArg BesideMem.cycle h
theorem L1Only.msgs {s u : State} (h : L1Only s u) : u.msgs = s.msgs := congrArg BesideMem.msgs h

theorem L1Only.wv {s u : State} (h : L1Only s u) : u.wv = s.wv := by
  rw [State.wv, State.waveAt, h.waves, h.issue]; rfl

theorem L1Only.gcore {s u : State} (h : L1Only s u) : u.gcore = s.gcore := by rw [State.gcore, h.wv]; rfl

theorem L1Only.uncorr {s u : State} (h : L1Only s u) (k : Nat) : u.uncorr k = s.uncorr k := by
  have hb : u.badLines = s.badLines := congrArg BesideMem.badLines h
  have hd : u.dies = s.dies := congrArg BesideMem.dies h
  rw [State.uncorr, State.uncorr, hb, State.dieAt, State.dieAt, hd]

theorem L1Only.foldl {α : Type} {f : State → α → State} (l : List α) (s : State) (h : ∀ t x, L1Only t (f t x)) : L1Only s (l.foldl f s) :=
  List.foldlRecOn (motive := L1Only s) l f (.refl s) fun t ht x _ => ht.trans (h t x)

theorem State.touchPlace_l1Only (s : State) (a : Acc) (pl : Place) : L1Only s (s.touchPlace a pl) := .of_besideMem (by simp)

theorem State.l1Note_l1Only (s : State) (e : Evict) (core line sp : Nat) : L1Only s (s.l1Note e core line sp) := by
  unfold State.l1Note
  (repeat' split) <;> rfl

theorem State.wordsNote_l1Only (s : State) (e : Evict) (ws : List (Nat × Phys)) : L1Only s (s.wordsNote e ws) :=
  .foldl ws s fun t _ => t.l1Note_l1Only ..

theorem State.l1Put_l1Only (s : State) (l : L1Line) : L1Only s (s.l1Put l) := rfl

theorem State.with_l1_l1Only (s : State) (ls : List L1Line) : L1Only s { s with l1 := ls } := rfl

/-- The line that a word brings into the L1 where it finds none. -/
def State.ownLineFor (s : State) (core : Nat) (w : Nat × Phys) : L1Line :=
  { core := core, line := lineOf w.2.key, sp := 2, dirty := false, sticky := false, owner := s.wv.token, va := dw (w.1 / 128 * 128)
    keyid := eKeyid w.2.leaf, data := s.fillBytes core (lineOf w.2.key) }

theorem State.wordFill_present {s : State} {core : Nat} {w : Nat × Phys} {l : L1Line} (h : s.l1Find core (lineOf w.2.key) 2 = some l) (e : Evict) :
    s.wordFill core w e = s := by
  unfold State.wordFill
  dsimp only
  rw [h]

theorem State.wordFill_absent {s : State} {core : Nat} {w : Nat × Phys} (h : s.l1Find core (lineOf w.2.key) 2 = none) (e : Evict) :
    s.wordFill core w e = if e == .bypass then s else (s.rdcRead (core / 80) w.2.key e).l1Put (s.ownLineFor core w) := by
  unfold State.wordFill State.ownLineFor
  dsimp only
  rw [h]

theorem State.wordFill_l1Only (s : State) (core : Nat) (w : Nat × Phys) (e : Evict) : L1Only s (s.wordFill core w e) := by
  cases h : s.l1Find core (lineOf w.2.key) 2 with
  | some l => rw [State.wordFill_present h]; exact .refl s
  | none =>
    rw [State.wordFill_absent h]
    split
    · exact .refl s
    · exact (L1Only.of_besideMem (State.rdcRead_besideMem s _ _ _)).trans (State.l1Put_l1Only _ _)

theorem State.afterRead_words_l1Only (s : State) (m : MMod) (ws : List (Nat × Phys)) : L1Only s (s.afterRead m (.words ws)) :=
  (L1Only.foldl ws s fun t _ => t.wordFill_l1Only ..).trans (State.wordsNote_l1Only ..)

/-! ### The line that serves a word -/

theorem find?_erase_of_not {α : Type} [DecidableEq α] {p : α → Bool} {a : α} (h : p a = false) (l : List α) : (l.erase a).find? p = l.find? p := by
  induction l with
  | nil => rfl
  | cons b l ih =>
    rw [List.erase_cons]
    split
    · next hb => rw [List.find?_cons, eq_of_beq hb, h]
    · rw [List.find?_cons, List.find?_cons, ih]

theorem State.l1Find_of_l1 {s t : State} (h : s.l1 = t.l1) (core line sp : Nat) : s.l1Find core line sp = t.l1Find core line sp := by
  rw [State.l1Find, State.l1Find, h]

/-- The hint of an ordinary access changes the order of the lines only. -/
theorem State.l1Note_dflt_find (s : State) (core line sp core' line' sp' : Nat) :
    (s.l1Note .dflt core line sp).l1Find core' line' sp' = s.l1Find core' line' sp' := by
  unfold State.l1Note
  cases hl : s.l1Find core line sp with
  | none => rfl
  | some l =>
    show List.find? _ (l :: s.l1.erase l) = List.find? _ s.l1
    rw [List.find?_cons]
    split
    · next hm =>
      have hkey : (l.core == core && l.line == line && l.sp == sp) = true := List.find?_some (p := fun x : L1Line => x.core == core && x.line == line && x.sp == sp) hl
      simp only [Bool.and_eq_true, beq_iff_eq] at hm hkey
      obtain ⟨⟨rfl, rfl⟩, rfl⟩ := hkey
      obtain ⟨⟨rfl, rfl⟩, rfl⟩ := hm
      exact hl.symm
    · next hm => exact find?_erase_of_not (p := fun x : L1Line => x.core == core' && x.line == line' && x.sp == sp') hm _

theorem State.l1Put_find (s : State) (l : L1Line) (core line sp : Nat) :
    (s.l1Put l).l1Find core line sp = if l.core = core ∧ l.line = line ∧ l.sp = sp then some l else s.l1Find core line sp := by
  show List.find? _ (l :: s.l1.filter fun x => !(x.core == l.core && x.line == l.line && x.sp == l.sp)) = _
  rw [List.find?_cons]
  split
  · next hm =>
    simp only [Bool.and_eq_true, beq_iff_eq, and_assoc] at hm
    rw [if_pos hm]
  · next hm =>
    simp only [Bool.and_eq_false_iff, beq_eq_false_iff_ne, ne_eq] at hm
    rw [if_neg fun h => hm.elim (fun h' => h'.elim (· h.1) (· h.2.1)) (· h.2.2), List.find?_filter]
    refine congrArg (fun q => List.find? q s.l1) (funext fun x => ?_)
    by_cases hx : (x.core == core && x.line == line && x.sp == sp) = true
    · have hne : ¬((x.core == l.core && x.line == l.line && x.sp == l.sp) = true) := fun hl => by
        simp only [Bool.and_eq_true, beq_iff_eq] at hx hl
        omega
      simp [hx, hne]
    · simp [hx]

theorem State.wordFill_find (s : State) (core : Nat) (w : Nat × Phys) (line : Nat) :
    (s.wordFill core w .dflt).l1Find core line 2 =
      if line = lineOf w.2.key then some ((s.l1Find core line 2).getD (s.ownLineFor core w)) else s.l1Find core line 2 := by
  cases h : s.l1Find core (lineOf w.2.key) 2 with
  | some l =>
    rw [State.wordFill_present h]
    split
    · next hl => rw [hl, h, Option.getD_some]
    · rfl
  | none =>
    have hr := l1_of_besideMem (State.rdcRead_besideMem s (core / 80) w.2.key .dflt)
    rw [State.wordFill_absent h, if_neg (by decide), State.l1Put_find, State.l1Find_of_l1 hr]
    by_cases hl : line = lineOf w.2.key
    · rw [if_pos ⟨rfl, hl.symm, rfl⟩, if_pos hl, hl, h, Option.getD_none]
    · rw [if_neg fun hc => hl hc.2.1.symm, if_neg hl]

/-- A line with the bytes of a word written over it. -/
def L1Line.putWord (l : L1Line) (k : Nat) (bs : List Byte) : L1Line := { l with data := spliceBytes l.data (k % 128) bs, dirty := true }

/-- A write of an own word goes into the line, which it brings in where it finds none (R244, R252). -/
theorem State.wordWrite_dflt (s : State) (core : Nat) (w : Nat × Phys) (bs : List Byte) :
    s.wordWrite core w .dflt bs = { s.wordFill core w .dflt with
      l1 := (s.wordFill core w .dflt).l1.map fun l =>
        if l.core == core && l.line == lineOf w.2.key && l.sp == 2 then l.putWord w.2.key bs else l } := by
  have hfind := s.wordFill_find core w (lineOf w.2.key)
  rw [if_pos rfl] at hfind
  simp only [State.wordWrite, hfind, Option.isNone_some, Bool.false_eq_true, if_false]
  rfl

theorem State.wordWrite_l1Only (s : State) (core : Nat) (w : Nat × Phys) (bs : List Byte) : L1Only s (s.wordWrite core w .dflt bs) := by
  rw [State.wordWrite_dflt]
  exact (s.wordFill_l1Only core w .dflt).trans (State.with_l1_l1Only _ _)

/-- An update of lines that keeps what they are found by. -/
theorem State.l1Find_map (s : State) {f : L1Line → L1Line} (hf : ∀ l, (f l).core = l.core ∧ (f l).line = l.line ∧ (f l).sp = l.sp) (core line sp : Nat) :
    ({ s with l1 := s.l1.map f } : State).l1Find core line sp = (s.l1Find core line sp).map f := by
  show List.find? _ (s.l1.map f) = _
  rw [List.find?_map]
  refine congrArg (fun q => (List.find? q s.l1).map f) (funext fun l => ?_)
  obtain ⟨hc, hl, hs⟩ := hf l
  simp only [Function.comp, hc, hl, hs]

theorem State.l1Find_key {s : State} {core line sp : Nat} {l : L1Line} (h : s.l1Find core line sp = some l) : l.core = core ∧ l.line = line ∧ l.sp = sp := by
  have := List.find?_some (p := fun x : L1Line => x.core == core && x.line == line && x.sp == sp) h
  simpa [and_assoc] using this

theorem State.wordWrite_find (s : State) (core : Nat) (w : Nat × Phys) (bs : List Byte) (line : Nat) :
    (s.wordWrite core w .dflt bs).l1Find core line 2 =
      if line = lineOf w.2.key then some (((s.l1Find core line 2).getD (s.ownLineFor core w)).putWord w.2.key bs) else s.l1Find core line 2 := by
  rw [State.wordWrite_dflt, State.l1Find_map _ fun l => by split <;> exact ⟨rfl, rfl, rfl⟩]
  have hfind := s.wordFill_find core w line
  cases hu : (s.wordFill core w .dflt).l1Find core line 2 with
  | none =>
    rw [hu] at hfind
    by_cases hl : line = lineOf w.2.key
    · rw [if_pos hl] at hfind
      cases hfind
    · rw [if_neg hl] at hfind ⊢
      exact hfind
  | some l =>
    obtain ⟨hcore, hline, hsp⟩ := State.l1Find_key hu
    rw [hu] at hfind
    by_cases hl : line = lineOf w.2.key
    · rw [if_pos hl] at hfind ⊢
      rw [Option.map_some, if_pos (by simp [hcore, hline, hsp, hl]), Option.some_inj.mp hfind]
    · rw [if_neg hl] at hfind ⊢
      rw [Option.map_some, if_neg (by simp [hline, hl])]
      exact hfind

/-! ### A word that the L1 holds -/

/-- Every line of the L1 has 128 bytes. -/
def State.FullLines (s : State) : Prop := ∀ l ∈ s.l1, l.data.length = 128

/-- The L1 of a core holds the own word at a key, with these bytes. -/
def State.HoldsWord (s : State) (core k : Nat) (bs : List Byte) : Prop :=
  ∃ l, s.l1Find core (lineOf k) 2 = some l ∧ (l.data.drop (k % 128)).take 4 = bs

theorem State.HoldsWord.read {s : State} {core k : Nat} {bs : List Byte} (h : s.HoldsWord core k bs) : s.wordRead core k = bs := by
  obtain ⟨l, hl, hbs⟩ := h
  rw [State.wordRead, hl]
  exact hbs

theorem State.HoldsWord.of_find {s t : State} {core k : Nat} {bs : List Byte} (hf : t.l1Find core (lineOf k) 2 = s.l1Find core (lineOf k) 2)
    (h : s.HoldsWord core k bs) : t.HoldsWord core k bs := by
  rwa [State.HoldsWord, hf]

theorem State.FullLines.find {s : State} (h : s.FullLines) {core line sp : Nat} {l : L1Line} (hl : s.l1Find core line sp = some l) :
    l.data.length = 128 := h l (List.mem_of_find?_eq_some hl)

theorem overlay_length (line : Nat) (data : List Byte) (k : Nat) (bs : List Byte) : (overlay line data k bs).length = data.length := by
  simp [overlay]

theorem State.fillBytes_length (s : State) (core line : Nat) : (s.fillBytes core line).length = 128 := by
  unfold State.fillBytes
  refine List.foldlRecOn (motive := fun d : List Byte => d.length = 128) s.msgs _ ?_ fun d hd m _ => ?_
  · refine List.foldlRecOn (motive := fun d : List Byte => d.length = 128) s.held _ (readBytes_length ..) fun d hd h _ => ?_
    split
    · rw [overlay_length, hd]
    · exact hd
  · split
    · rw [overlay_length, hd]
    · exact hd

theorem spliceBytes_length {d bs : List Byte} {off : Nat} (h : off + bs.length ≤ d.length) : (spliceBytes d off bs).length = d.length := by
  simp only [spliceBytes, List.length_append, List.length_take, List.length_drop]
  omega

/-- The bytes of a run in a line with a write over it: those written, or those that stood there where the runs lie apart. -/
theorem spliceBytes_same {d bs : List Byte} {off : Nat} (h : off + bs.length ≤ d.length) :
    ((spliceBytes d off bs).drop off).take bs.length = bs := by
  have ht : (d.take off).length = off := by rw [List.length_take]; omega
  rw [spliceBytes, List.append_assoc, List.drop_left' ht, List.take_left' rfl]

theorem spliceBytes_apart {d bs : List Byte} {off i n : Nat} (h : off + bs.length ≤ d.length) (hi : i + n ≤ off ∨ off + bs.length ≤ i) :
    ((spliceBytes d off bs).drop i).take n = (d.drop i).take n := by
  refine List.ext_getElem? fun j => ?_
  simp only [List.getElem?_take, List.getElem?_drop]
  split
  · next hj =>
    have ht : (d.take off).length = off := by rw [List.length_take]; omega
    rw [spliceBytes, List.append_assoc]
    rcases hi with hi | hi
    · rw [List.getElem?_append_left (by omega), List.getElem?_take, if_pos (by omega)]
    · rw [List.getElem?_append_right (by omega), List.getElem?_append_right (by omega), List.getElem?_drop]
      congr 1
      omega
  · rfl

theorem State.wordFill_full {s : State} (h : s.FullLines) (core : Nat) (w : Nat × Phys) : (s.wordFill core w .dflt).FullLines := by
  cases hl : s.l1Find core (lineOf w.2.key) 2 with
  | some l => rwa [State.wordFill_present hl]
  | none =>
    have hr := l1_of_besideMem (State.rdcRead_besideMem s (core / 80) w.2.key .dflt)
    rw [State.wordFill_absent hl, if_neg (by decide)]
    intro l hm
    rcases List.mem_cons.mp hm with rfl | hm
    · exact s.fillBytes_length core _
    · exact h l (hr ▸ (List.mem_filter.mp hm).1)

/-- Two words that lie apart. -/
def Apart (a b : Nat) : Prop := a + 4 ≤ b ∨ b + 4 ≤ a

theorem Apart.symm {a b : Nat} (h : Apart a b) : Apart b a := Or.symm h

section Word
variable {s : State} {core : Nat} {w : Nat × Phys} {bs : List Byte}

/-- The line in which a write finds its word has room for it. -/
theorem State.FullLines.serves (h : s.FullLines) (core : Nat) (w : Nat × Phys) :
    ((s.l1Find core (lineOf w.2.key) 2).getD (s.ownLineFor core w)).data.length = 128 := by
  cases hl : s.l1Find core (lineOf w.2.key) 2 with
  | some l => exact h.find hl
  | none => exact s.fillBytes_length core _

theorem State.wordWrite_full (h : s.FullLines) (hw : w.2.key % 4 = 0) (hb : bs.length = 4) : (s.wordWrite core w .dflt bs).FullLines := by
  rw [State.wordWrite_dflt]
  intro l hm
  obtain ⟨x, hx, rfl⟩ := List.mem_map.mp hm
  have hfull := State.wordFill_full h core w x hx
  split
  · exact (spliceBytes_length (by omega)).trans hfull
  · exact hfull

theorem State.wordWrite_finds {line : Nat} (h : (s.l1Find core line 2).isSome = true) : ((s.wordWrite core w .dflt bs).l1Find core line 2).isSome = true := by
  rw [State.wordWrite_find]
  split
  · rfl
  · exact h

theorem State.wordWrite_holds (h : s.FullLines) (hw : w.2.key % 4 = 0) (hb : bs.length = 4) :
    (s.wordWrite core w .dflt bs).HoldsWord core w.2.key bs := by
  have hserves := h.serves core w
  refine ⟨_, by rw [State.wordWrite_find, if_pos rfl], ?_⟩
  show ((spliceBytes _ _ bs).drop _).take 4 = bs
  rw [← hb]
  exact spliceBytes_same (by omega)

theorem State.wordWrite_keeps (h : s.FullLines) (hw : w.2.key % 4 = 0) (hb : bs.length = 4) {k : Nat} {v : List Byte} (hk : k % 4 = 0)
    (hne : Apart k w.2.key) (hv : s.HoldsWord core k v) : (s.wordWrite core w .dflt bs).HoldsWord core k v := by
  by_cases hl : lineOf k = lineOf w.2.key
  · obtain ⟨l, hf, hbs⟩ := hv
    have hlen := h.find hf
    refine ⟨_, by rw [State.wordWrite_find, if_pos hl, hf, Option.getD_some], ?_⟩
    rw [← hbs]
    unfold lineOf at hl
    unfold Apart at hne
    exact spliceBytes_apart (by omega) (by omega)
  · exact hv.of_find (by rw [State.wordWrite_find, if_neg hl])

end Word

/-! ### A store of consecutive words -/

/-- The L1 of a core holds the words of a place, with these bytes. -/
def State.HoldsWords (s : State) (core : Nat) : List (Nat × Phys) → List Byte → Prop
  | [], bs => bs = []
  | w :: ws, bs => s.HoldsWord core w.2.key (bs.take 4) ∧ s.HoldsWords core ws (bs.drop 4)

theorem State.HoldsWords.read {s : State} {core : Nat} {ws : List (Nat × Phys)} {bs : List Byte} (h : s.HoldsWords core ws bs) :
    (ws.flatMap fun w => s.wordRead core w.2.key) = bs := by
  induction ws generalizing bs with
  | nil => exact (Eq.symm h)
  | cons w ws ih =>
    obtain ⟨hw, hws⟩ := h
    rw [List.flatMap_cons, hw.read, ih hws, List.take_append_drop]

theorem State.HoldsWords.mono {s u : State} {core : Nat} {ws : List (Nat × Phys)} {bs : List Byte}
    (hu : ∀ w ∈ ws, ∀ v, s.HoldsWord core w.2.key v → u.HoldsWord core w.2.key v) (h : s.HoldsWords core ws bs) : u.HoldsWords core ws bs := by
  induction ws generalizing bs with
  | nil => exact h
  | cons w ws ih =>
    obtain ⟨hw, hws⟩ := h
    exact ⟨hu w List.mem_cons_self _ hw, ih (fun x hx => hu x (List.mem_cons_of_mem w hx)) hws⟩

/-- What a store of bytes to own words makes of a state: only the L1 has changed beside memory; it holds the words, and keeps every line that it held
and every word that lies apart. -/
structure Stores (s u : State) (core : Nat) (ws : List (Nat × Phys)) (bs : List Byte) : Prop where
  rest : L1Only s u
  full : s.FullLines → u.FullLines
  finds : ∀ line, (s.l1Find core line 2).isSome = true → (u.l1Find core line 2).isSome = true
  holds : s.FullLines → u.HoldsWords core ws bs
  keeps : s.FullLines → ∀ k v, k % 4 = 0 → (∀ w ∈ ws, Apart k w.2.key) → s.HoldsWord core k v → u.HoldsWord core k v

/-- The same lines are found, so the same words are held. -/
theorem Stores.of_l1 {r s u t : State} {core : Nat} {ws : List (Nat × Phys)} {bs : List Byte} (h : Stores s u core ws bs) (hr : L1Only r s)
    (hl : s.l1 = r.l1) (ht : L1Only u t) (hfull : u.FullLines → t.FullLines) (hf : ∀ line, t.l1Find core line 2 = u.l1Find core line 2) :
    Stores r t core ws bs := by
  have hrs : ∀ line, s.l1Find core line 2 = r.l1Find core line 2 := fun line => State.l1Find_of_l1 hl core line 2
  have hfr : r.FullLines → s.FullLines := fun h => by rwa [State.FullLines, hl]
  refine ⟨(hr.trans h.rest).trans ht, fun hf => hfull (h.full (hfr hf)), fun line hs => ?_, fun hr => ?_, fun hr k v hk ha hv => ?_⟩
  · rw [hf]
    exact h.finds line (by rwa [hrs])
  · exact (h.holds (hfr hr)).mono fun w _ v hv => hv.of_find (hf _)
  · exact (h.keeps (hfr hr) k v hk ha (hv.of_find (hrs _))).of_find (hf _)

/-- The words of a place lie apart, each on its own. -/
structure OwnWords (ws : List (Nat × Phys)) : Prop where
  apart : ws.Pairwise fun a b => Apart a.2.key b.2.key
  aligned : ∀ w ∈ ws, w.2.key % 4 = 0

theorem State.wordsWrite_stores {s : State} {core : Nat} (hc : s.gcore = core) {ws : List (Nat × Phys)} (hws : OwnWords ws) {bs : List Byte}
    (hb : bs.length = 4 * ws.length) : Stores s (s.wordsWrite .dflt bs ws) core ws bs := by
  induction ws generalizing s bs with
  | nil =>
    have hnil : bs = [] := List.length_eq_zero_iff.mp hb
    exact ⟨.refl s, id, fun _ => id, fun _ => hnil, fun _ _ _ _ _ => id⟩
  | cons w ws ih =>
    obtain ⟨hfirst, htail⟩ := List.pairwise_cons.mp hws.apart
    have hw : w.2.key % 4 = 0 := hws.aligned w List.mem_cons_self
    have hal : ∀ x ∈ ws, x.2.key % 4 = 0 := fun x hx => hws.aligned x (List.mem_cons_of_mem w hx)
    rw [List.length_cons] at hb
    have h4 : (bs.take 4).length = 4 := by rw [List.length_take]; omega
    have hone : L1Only s (s.wordWrite core w .dflt (bs.take 4)) := s.wordWrite_l1Only core w _
    have hrest := ih (s := s.wordWrite core w .dflt (bs.take 4)) (hone.gcore.trans hc) ⟨htail, hal⟩ (bs := bs.drop 4) (by rw [List.length_drop]; omega)
    rw [State.wordsWrite, hc]
    refine ⟨hone.trans hrest.rest, fun h => hrest.full (State.wordWrite_full h hw h4), fun line h => hrest.finds line (State.wordWrite_finds h),
      fun h => ?_, fun h k v hk ha hv => ?_⟩
    · have hfull := State.wordWrite_full (core := core) h hw h4
      exact ⟨hrest.keeps hfull _ _ hw hfirst (State.wordWrite_holds h hw h4), hrest.holds hfull⟩
    · exact hrest.keeps (State.wordWrite_full h hw h4) k v hk (fun x hx => ha x (List.mem_cons_of_mem w hx))
        (State.wordWrite_keeps h hw h4 hk (ha w List.mem_cons_self) hv)

theorem State.wordsNote_find (s : State) (ws : List (Nat × Phys)) (core line sp : Nat) :
    (s.wordsNote .dflt ws).l1Find core line sp = s.l1Find core line sp :=
  List.foldlRecOn (motive := fun t : State => t.l1Find core line sp = s.l1Find core line sp) ws _ rfl fun _ ht _ _ =>
    (State.l1Note_dflt_find ..).trans ht

theorem State.l1Note_dflt_full {s : State} (h : s.FullLines) (core line sp : Nat) : (s.l1Note .dflt core line sp).FullLines := by
  unfold State.l1Note
  cases hl : s.l1Find core line sp with
  | none => exact h
  | some l =>
    intro x hx
    rcases List.mem_cons.mp hx with rfl | hx
    · exact h.find hl
    · exact h x (List.mem_of_mem_erase hx)

theorem State.wordsNote_full {s : State} (h : s.FullLines) (ws : List (Nat × Phys)) : (s.wordsNote .dflt ws).FullLines :=
  List.foldlRecOn (motive := State.FullLines) ws _ h fun _ ht _ _ => State.l1Note_dflt_full ht _ _ _

/-- None of the words stands in error at its home, unless the L1 of the issuing wave's core holds it. -/
def State.GoodWords (s : State) (ws : List (Nat × Phys)) : Prop := s.placeBad wordMod 4 (.words ws) = false

theorem State.GoodWords.badWords {s : State} {ws : List (Nat × Phys)} (h : s.GoodWords ws) : s.badWords ws = [] := by
  rw [State.GoodWords] at h
  simpa [State.placeBad] using h

/-- Where the L1 has lost no line, good words stay good. -/
theorem State.GoodWords.mono {s u : State} {ws : List (Nat × Phys)} (h : s.GoodWords ws) (hu : L1Only s u)
    (hf : ∀ line, (s.l1Find s.gcore line 2).isSome = true → (u.l1Find s.gcore line 2).isSome = true) : u.GoodWords ws := by
  have hs := List.filter_eq_nil_iff.mp h.badWords
  have hnil : u.badWords ws = [] := List.filter_eq_nil_iff.mpr fun w hw hbad => hs w hw <| by
    rw [Bool.and_eq_true, hu.uncorr, hu.gcore] at hbad
    rw [Bool.and_eq_true]
    refine ⟨hbad.1, ?_⟩
    by_contra hn
    rw [Bool.not_eq_true, Option.isNone_eq_false_iff] at hn
    exact absurd (hf _ hn) (by simp [Option.isNone_iff_eq_none.mp hbad.2])
  rw [State.GoodWords, State.placeBad, hnil]
  rfl

/-- A store to good own words of a lane, with the walker's updates before it (R237, R252). -/
theorem State.storeWords_stores {s : State} {core : Nat} (hc : s.gcore = core) {ws : List (Nat × Phys)} (hws : OwnWords ws) (hgood : s.GoodWords ws)
    {bs : List Byte} (hb : bs.length = 4 * ws.length) (a : Acc) (addr : Nat) :
    Stores s ((s.touchPlace a (.words ws)).placeWrite wordMod addr bs (.words ws)) core ws bs := by
  have ht := s.touchPlace_l1Only a (.words ws)
  have hl := l1_of_besideMem (State.touchPlace_besideMem s a (.words ws))
  have hbad := (hgood.mono ht fun line h => by rwa [State.l1Find_of_l1 hl]).badWords
  have hwrite : (s.touchPlace a (.words ws)).placeWrite wordMod addr bs (.words ws) =
      ((s.touchPlace a (.words ws)).wordsWrite .dflt bs ws).wordsNote .dflt ws := by
    simp only [State.placeWrite, hbad]
    rfl
  rw [hwrite]
  exact (State.wordsWrite_stores (ht.gcore.trans hc) hws hb).of_l1 ht hl (State.wordsNote_l1Only ..) (fun h => State.wordsNote_full h ws)
    fun line => State.wordsNote_find ..

end Sys2Proof.Machine
end

section
/-! What the native-only operations change of their wave: registers, tiles and stored frame words (03_tvedah_native.md R86-R89, R97, R98, R101). -/
namespace Sys2Proof.Machine
open Sys2Proof Sys2Proof.Safety

/-! ## What a native-only operation makes of its wave -/

/-- The wave of a native-only operation that has issued for the lanes of a mask. -/
def Wave.native (m : Mask) (w : Wave) : Wave := (w.mapLanes fun L l => if inMask m L then { l with bpos := l.bpos + 1 } else l).issued

theorem State.nativeDone_eq (s : State) : s.nativeDone = s.updWv (Wave.native s.active) := rfl

/-- The bundle has counted, and of the wave's lanes those of the mask have moved on by one bundle, with their registers perhaps written. -/
structure NativeWave (m : Mask) (w v : Wave) : Prop where
  retired : v.retired = w.retired + 1
  sincePhase : v.sincePhase = w.sincePhase + 1
  frec : v.frec = w.frec
  late : v.late = w.late
  fpf : v.fpf = w.fpf
  off : ∀ L, L < 32 → inMask m L = false → v.lane L = w.lane L
  on : ∀ L, L < 32 → inMask m L = true → ∃ g r f, v.lane L = { w.lane L with g := g, s := r, fm := f, bpos := (w.lane L).bpos + 1 }

theorem Wave.native_lane (m : Mask) (w : Wave) {L : Nat} (h : L < 32) :
    (w.native m).lane L = if inMask m L then { w.lane L with bpos := (w.lane L).bpos + 1 } else w.lane L := by
  rw [Wave.native, Wave.issued_lane, Wave.mapLanes_lane _ _ h]

theorem Wave.native_regRead (m : Mask) (w : Wave) (r : Nat) {L : Nat} (h : L < 32) : (w.native m).regRead r L = w.regRead r L := by
  have hl := w.native_lane m h
  unfold Wave.regRead
  rw [hl]
  by_cases hm : inMask m L = true
  · rw [if_pos hm]; rfl
  · rw [if_neg hm]; rfl

/-- A change of a native operation's wave that leaves the counts and faults as they were, and of the lanes all but the registers of the mask's. -/
theorem NativeWave.of_native {m : Mask} {w v : Wave} (hret : v.retired = (w.native m).retired) (hph : v.sincePhase = (w.native m).sincePhase)
    (hfr : v.frec = (w.native m).frec) (hlate : v.late = (w.native m).late) (hfpf : v.fpf = (w.native m).fpf)
    (hoff : ∀ L, L < 32 → inMask m L = false → v.lane L = (w.native m).lane L)
    (hon : ∀ L, L < 32 → ∃ g r, v.lane L = { (w.native m).lane L with g := g, s := r }) : NativeWave m w v where
  retired := hret
  sincePhase := hph
  frec := hfr
  late := hlate
  fpf := hfpf
  off := fun L hL hm => by rw [hoff L hL hm, Wave.native_lane m w hL, hm]; rfl
  on := fun L hL hm => by
    obtain ⟨g, r, h⟩ := hon L hL
    rw [h, Wave.native_lane m w hL, hm]
    exact ⟨g, r, _, rfl⟩

/-- Other fields of the wave may change too. -/
theorem NativeWave.of_lanes {m : Mask} {w v : Wave} (hret : v.retired = (w.native m).retired) (hph : v.sincePhase = (w.native m).sincePhase)
    (hfr : v.frec = (w.native m).frec) (hlate : v.late = (w.native m).late) (hfpf : v.fpf = (w.native m).fpf)
    (hl : v.lanes = (w.native m).lanes) : NativeWave m w v :=
  have hlane : ∀ L, v.lane L = (w.native m).lane L := fun L => by rw [Wave.lane, hl]; rfl
  .of_native hret hph hfr hlate hfpf (fun L _ _ => hlane L) fun L _ => ⟨_, _, hlane L⟩

theorem NativeWave.refl (m : Mask) (w : Wave) : NativeWave m w (w.native m) := .of_lanes rfl rfl rfl rfl rfl rfl

theorem NativeWave.of_regsOnly {m : Mask} {w v : Wave} {D : Nat → Prop} (h : RegsOnly m D (w.native m) v) : NativeWave m w v :=
  .of_native (by rw [h.rest]) (by rw [h.rest]) (by rw [h.rest]) (by rw [h.rest]) (by rw [h.rest]) h.off fun L hL => ⟨_, _, h.on L hL⟩

/-- A native-only operation has issued: it counts as one bundle, and nothing has changed of the other waves and of the lanes but registers and their
place in the block. -/
def NativeOn (s t : State) : Prop :=
  (∀ j, j ≠ s.issue.wave → t.waves[j]? = s.waves[j]?) ∧ t.wv.retired = s.wv.retired + 1 ∧ t.wv.sincePhase = s.wv.sincePhase + 1 ∧
  t.wv.frec = s.wv.frec ∧ t.wv.late = s.wv.late ∧ t.wv.fpf = s.wv.fpf ∧
  ∀ L, (Off s L → t.wv.lane L = s.wv.lane L) ∧ (On s L → ∃ g r m, t.wv.lane L =
    { s.wv.lane L with g := g, s := r, fm := m, bpos := (s.wv.lane L).bpos + 1 })

theorem NativeWave.nativeOn {s t : State} (hothers : ∀ j, j ≠ s.issue.wave → t.waves[j]? = s.waves[j]?) (h : NativeWave s.issue.mask s.wv t.wv) :
    NativeOn s t :=
  ⟨hothers, h.retired, h.sincePhase, h.frec, h.late, h.fpf, fun L => ⟨fun hL => h.off L hL.1 hL.2, fun hL => h.on L hL.1 hL.2⟩⟩

section Done
variable {s u : State} (hw : u.waves = s.waves) (hi : u.issue = s.issue)
include hw hi

theorem wv_of_waves : u.wv = s.wv := by rw [State.wv, State.waveAt, hw, hi]; rfl

theorem State.nativeDone_wv (hs : s.issue.wave < s.waves.length) : u.nativeDone.wv = s.wv.native s.issue.mask := by
  rw [State.nativeDone_eq, State.updWv_wv _ _ (by rw [hi, hw]; exact hs), wv_of_waves hw hi, State.active, hi]

theorem State.nativeDone_updWv_wv (hs : s.issue.wave < s.waves.length) (f : Wave → Wave) : (u.nativeDone.updWv f).wv = f (s.wv.native s.issue.mask) := by
  have hlen : u.nativeDone.issue.wave < u.nativeDone.waves.length := by
    rw [State.nativeDone_eq, State.updWv_issue, State.updWv_waves, updAt_length, hi, hw]
    exact hs
  rw [State.updWv_wv _ _ hlen, State.nativeDone_wv hw hi hs]

theorem State.nativeDone_others : ∀ j, j ≠ s.issue.wave → u.nativeDone.waves[j]? = s.waves[j]? := fun j hj => by
  rw [State.nativeDone_eq, State.updWv_other _ _ (by rwa [hi]), hw]

theorem State.nativeDone_updWv_others (f : Wave → Wave) : ∀ j, j ≠ s.issue.wave → (u.nativeDone.updWv f).waves[j]? = s.waves[j]? := fun j hj => by
  rw [State.updWv_other _ _ (by rw [State.nativeDone_eq, State.updWv_issue, hi]; exact hj), State.nativeDone_others hw hi j hj]

theorem State.nativeDone_on (hs : s.issue.wave < s.waves.length) : NativeOn s u.nativeDone :=
  NativeWave.nativeOn (State.nativeDone_others hw hi) (by rw [State.nativeDone_wv hw hi hs]; exact .refl ..)

theorem State.nativeDone_updWv_on (hs : s.issue.wave < s.waves.length) {f : Wave → Wave} (h : NativeWave s.issue.mask s.wv (f (s.wv.native s.issue.mask))) :
    NativeOn s (u.nativeDone.updWv f) :=
  NativeWave.nativeOn (State.nativeDone_updWv_others hw hi f) (by rwa [State.nativeDone_updWv_wv hw hi hs])

end Done

/-- The native registers of the lanes are as they were, but register `d` of the lanes that issue. -/
def KeepsRegs (s t : State) (d : Nat) : Prop := ∀ r L, L < 32 → r ≠ d ∨ Off s L → t.wv.regRead r L = s.wv.regRead r L

theorem State.nativeDone_keepsRegs {s : State} (hs : s.issue.wave < s.waves.length) (d : Nat) : KeepsRegs s s.nativeDone d := fun r L hL _ => by
  rw [State.nativeDone_wv rfl rfl hs, Wave.native_regRead _ _ _ hL]

/-! ## Moves of registers (R97, R101) -/

theorem Wave.regRead_congr {w v : Wave} {L : Nat} (hl : v.lane L = w.lane L) (hq : v.q = w.q) (r : Nat) : v.regRead r L = w.regRead r L := by
  rw [Wave.regRead, Wave.regRead, hl, hq]

theorem isScal_not_isVec {n : Nat} (h : 768 ≤ n) : isVec n = false := decide_eq_false (by omega)

/-- A lane that writes no copy of a predicate keeps it; the lanes that write one hold whether their bits were other than zero. -/
theorem Wave.regWrite_regRead_off (w : Wave) (m : Mask) (n : Nat) (v : Nat → Dword) (r : Nat) {L : Nat} (hL : L < 32) (hm : inMask m L = false) :
    (w.regWrite m n v).regRead r L = w.regRead r L := by
  have hlane := (w.regWrite_only m n v).off L hL hm
  by_cases hr : r = n
  · subst hr
    unfold Wave.regRead
    rw [hlane]
    by_cases hp : isPred r = true
    · have h1 : isVec r = false := decide_eq_false (by simp [isPred] at hp; omega)
      have h2 : isScal r = false := by simp [isPred] at hp; simp [isScal]; omega
      simp [Wave.regWrite, h1, h2, hp, inMask_maskOf _ hL, hm]
    · simp [hp]
  · exact (w.regWrite_only m n v).regs L hL r hr

theorem Wave.regWrite_regRead_on (w : Wave) {m : Mask} (n : Nat) (v : Nat → Dword) {L : Nat} (hL : L < 32) (hm : inMask m L = true) :
    (w.regWrite m n v).regRead n L =
      if isVec n then ((v L).setWidth 32).setWidth 64 else if isScal n then v L else if isPred n then dw (bitOf (v L != 0)) else 0 := by
  unfold Wave.regRead Wave.regWrite
  split
  · simp [Wave.mapLanes_lane _ _ hL, hm]
  · split
    · simp [Wave.mapLanes_lane _ _ hL, hm]
    · split
      · simp [inMask_maskOf _ hL, hm]
      · rfl

/-- What a write of a register in the lanes of a native-only operation leaves. -/
theorem State.regMove_keepsRegs {s : State} (hs : s.issue.wave < s.waves.length) (d : Nat) (v : Nat → Dword) :
    KeepsRegs s (s.nativeDone.updWv fun w => w.regWrite s.active d v) d := fun r L hL h => by
  rw [State.nativeDone_updWv_wv rfl rfl hs, ← Wave.native_regRead s.issue.mask s.wv r hL]
  rcases h with hr | hoff
  · exact ((s.wv.native s.issue.mask).regWrite_only s.active d v).regs L hL r hr
  · exact Wave.regWrite_regRead_off _ _ _ _ _ hL hoff.2

theorem State.regMove_on {s : State} (hs : s.issue.wave < s.waves.length) (d : Nat) (v : Nat → Dword) :
    NativeOn s (s.nativeDone.updWv fun w => w.regWrite s.active d v) :=
  State.nativeDone_updWv_on rfl rfl hs (.of_regsOnly (Wave.regWrite_only ..))

theorem State.regMove_reads {s : State} (hs : s.issue.wave < s.waves.length) (d : Nat) (v : Nat → Dword) {L : Nat} (hL : On s L) :
    (s.nativeDone.updWv fun w => w.regWrite s.active d v).wv.regRead d L =
      if isVec d then ((v L).setWidth 32).setWidth 64 else if isScal d then v L else if isPred d then dw (bitOf (v L != 0)) else 0 := by
  rw [State.nativeDone_updWv_wv rfl rfl hs]
  exact Wave.regWrite_regRead_on _ _ _ hL.1 hL.2

theorem isVec_iff {n : Nat} : isVec n = true ↔ n < 768 := decide_eq_true_iff
theorem isScal_iff {n : Nat} : isScal n = true ↔ 768 ≤ n ∧ n < 832 := by simp [isScal]
theorem isPred_iff {n : Nat} : isPred n = true ↔ 832 ≤ n ∧ n < 848 := by simp [isPred]

theorem dw_bitOf_ne_zero (x : Dword) : dw (bitOf (x != 0)) = if x = 0 then 0 else 1 := by
  by_cases h : x = 0
  · subst h; rfl
  · rw [if_neg h, bne_iff_ne.mpr h]; rfl

theorem dw_toNat_of_lt {n : Nat} (h : n < 2 ^ 64) : (dw n).toNat = n := by rw [dw, BitVec.toNat_ofNat, Nat.mod_eq_of_lt h]

/-- The bits that a mov reads in a lane (R97). -/
def movSource (s : State) (sa : BitVec 10) (lit : Option Word) (L : Nat) : Dword :=
  match lit with
  | some k => k.setWidth 64
  | none => s.reg sa.toNat L

theorem execMov_eq (dst sa : BitVec 10) (hi : Bool) (lit : Option Word) (s : State) : execMov dst sa hi lit s =
    .next (s.nativeDone.updWv fun w => w.regWrite s.active dst.toNat fun L =>
      if isVec dst.toNat && hi then dw ((movSource s sa lit L).toNat / 2 ^ 32) else movSource s sa lit L) := by
  cases lit <;> rfl

theorem execMov_moves {s : State} (hs : s.issue.wave < s.waves.length) (dst sa : BitVec 10) (hi : Bool) (lit : Option Word) :
    ∃ t, exec (.mov dst sa hi lit) s = .next t ∧ (t = { s with waves := t.waves } ∧ NativeOn s t) ∧ KeepsRegs s t dst.toNat ∧ ∀ L, On s L →
      (dst.toNat < 768 → (t.wv.regRead dst.toNat L).toNat =
        (if hi = true then (movSource s sa lit L).toNat / 2 ^ 32 else (movSource s sa lit L).toNat) % 2 ^ 32) ∧
      (768 ≤ dst.toNat → dst.toNat < 832 → (t.wv.regRead dst.toNat L).toNat = (movSource s sa lit L).toNat) ∧
      (832 ≤ dst.toNat → dst.toNat < 848 → (t.wv.regRead dst.toNat L).toNat = if (movSource s sa lit L).toNat = 0 then 0 else 1) := by
  refine ⟨_, execMov_eq .., ⟨rfl, State.regMove_on hs ..⟩, State.regMove_keepsRegs hs _ _, fun L hL => ?_⟩
  rw [State.regMove_reads hs _ _ hL]
  refine ⟨fun hv => ?_, fun h1 h2 => ?_, fun h1 h2 => ?_⟩
  · have hlt : (movSource s sa lit L).toNat / 2 ^ 32 < 2 ^ 64 := lt_of_le_of_lt (Nat.div_le_self _ _) (BitVec.isLt _)
    rw [if_pos (isVec_iff.mpr hv), isVec_iff.mpr hv, BitVec.toNat_setWidth_of_le (by omega), BitVec.toNat_setWidth]
    cases hi
    · rfl
    · exact congrArg (· % 2 ^ 32) (dw_toNat_of_lt hlt)
  · have hv : isVec dst.toNat = false := decide_eq_false (by omega)
    simp only [hv, isScal_iff.mpr ⟨h1, h2⟩, Bool.false_and, Bool.false_eq_true, if_false, if_true]
  · have hv : isVec dst.toNat = false := decide_eq_false (by omega)
    have hsc : isScal dst.toNat = false := Bool.eq_false_iff.mpr fun h => by have := isScal_iff.mp h; omega
    simp only [hv, hsc, isPred_iff.mpr ⟨h1, h2⟩, Bool.false_and, Bool.false_eq_true, if_false, if_true]
    have hz : movSource s sa lit L = 0 ↔ (movSource s sa lit L).toNat = 0 := ⟨congrArg BitVec.toNat, fun h => BitVec.eq_of_toNat_eq h⟩
    simp only [dw_bitOf_ne_zero, hz]
    split <;> rfl

theorem execQmov_moves {s : State} (hs : s.issue.wave < s.waves.length) {dst : BitVec 10} (sa : BitVec 10) (h1 : 832 ≤ dst.toNat) (h2 : dst.toNat < 848) :
    ∃ t, exec (.qmov dst sa) s = .next t ∧ (t = { s with waves := t.waves } ∧ NativeOn s t) ∧ KeepsRegs s t dst.toNat ∧
      ∀ L, On s L → (t.wv.regRead dst.toNat L = 0 ↔ s.reg sa.toNat L = 0) := by
  refine ⟨_, rfl, ⟨rfl, State.regMove_on hs ..⟩, State.regMove_keepsRegs hs _ _, fun L hL => ?_⟩
  have hv : isVec dst.toNat = false := decide_eq_false (by omega)
  have hsc : isScal dst.toNat = false := Bool.eq_false_iff.mpr fun h => by have := isScal_iff.mp h; omega
  rw [State.regMove_reads hs _ _ hL]
  simp only [hv, hsc, isPred_iff.mpr ⟨h1, h2⟩, Bool.false_eq_true, if_false, if_true]
  rw [dw_bitOf_ne_zero]
  split
  · next hz => exact iff_of_true rfl hz
  · next hz => exact iff_of_false (by decide) hz

/-! ## Tiles (R101, R306) -/

section Cells
variable {w : Nat} {d : Nat → BitVec w}

theorem cget_unlisted {m : Cells w} {k : Nat} (h : ∀ e ∈ m, e.1 ≠ k) : cget d m k = d k := by
  induction m with
  | nil => rfl
  | cons e m ih =>
    obtain ⟨hne, htail⟩ := List.forall_mem_cons.mp h
    rw [cget, if_neg hne.symm, ih htail]

theorem cget_append_left {a b : Cells w} {k : Nat} (h : ∀ e ∈ b, e.1 ≠ k) : cget d (a ++ b) k = cget d a k := by
  induction a with
  | nil => exact cget_unlisted h
  | cons e a ih => rw [List.cons_append, cget, cget, ih]

theorem cget_append_right {a b : Cells w} {k : Nat} (h : ∀ e ∈ a, e.1 ≠ k) : cget d (a ++ b) k = cget d b k := by
  induction a with
  | nil => rfl
  | cons e a ih =>
    obtain ⟨hne, htail⟩ := List.forall_mem_cons.mp h
    rw [List.cons_append, cget, if_neg hne.symm, ih htail]

/-- A table cut down to some keys reads as before at one of them. -/
theorem cget_filter_key {m : Cells w} {p : Nat → Bool} {k : Nat} (h : p k = true) : cget d (m.filter fun e => p e.1) k = cget d m k := by
  induction m with
  | nil => rfl
  | cons e m ih =>
    rw [List.filter_cons, cget]
    split
    · rw [cget, ih]
    · next he => rw [if_neg fun hk : k = e.1 => he (hk ▸ h), ih]

theorem cwfFrom_le {m : Cells w} {lo : Nat} (h : cwfFrom d lo m = true) {e : Nat × BitVec w} (he : e ∈ m) : lo ≤ e.1 := by
  induction m generalizing lo with
  | nil => cases he
  | cons x m ih =>
    simp only [cwfFrom, Bool.and_eq_true, decide_eq_true_eq] at h
    obtain ⟨⟨hlo, -⟩, htail⟩ := h
    rcases List.mem_cons.mp he with rfl | hm
    · exact hlo
    · exact hlo.trans ((Nat.le_succ _).trans (ih htail hm))

theorem cget_of_mem {m : Cells w} {lo : Nat} (h : cwfFrom d lo m = true) {e : Nat × BitVec w} (he : e ∈ m) : cget d m e.1 = e.2 := by
  induction m generalizing lo with
  | nil => cases he
  | cons x m ih =>
    obtain ⟨k, v⟩ := x
    simp only [cwfFrom, Bool.and_eq_true, decide_eq_true_eq] at h
    rw [cget]
    rcases List.mem_cons.mp he with rfl | hm
    · exact if_pos rfl
    · have hlt : k < e.1 := cwfFrom_le h.2 hm
      rw [if_neg (by omega), ih h.2 hm]

theorem foldl_cset_unlisted {es : List (Nat × BitVec w)} (m : Cells w) {k : Nat} (h : ∀ e ∈ es, e.1 ≠ k) :
    cget d (es.foldl (fun acc e => cset d acc e.1 e.2) m) k = cget d m k := by
  induction es generalizing m with
  | nil => rfl
  | cons e es ih =>
    obtain ⟨hne, htail⟩ := List.forall_mem_cons.mp h
    rw [List.foldl_cons, ih _ htail, cget_cset_other _ _ hne.symm]

theorem foldl_cset_listed {es : List (Nat × BitVec w)} (m : Cells w) {k : Nat} {v : BitVec w} (hall : ∀ e ∈ es, e.1 = k → e.2 = v)
    (hex : ∃ e ∈ es, e.1 = k) : cget d (es.foldl (fun acc e => cset d acc e.1 e.2) m) k = v := by
  induction es generalizing m with
  | nil => obtain ⟨e, he, -⟩ := hex; cases he
  | cons e es ih =>
    obtain ⟨hv, htail⟩ := List.forall_mem_cons.mp hall
    rw [List.foldl_cons]
    by_cases hrest : ∃ x ∈ es, x.1 = k
    · exact ih _ htail hrest
    · have hout : ∀ x ∈ es, x.1 ≠ k := fun x hx hk => hrest ⟨x, hx, hk⟩
      obtain ⟨x, hx, hk⟩ := hex
      rcases List.mem_cons.mp hx with rfl | hx
      · rw [foldl_cset_unlisted _ hout, hk, cget_cset_same, hv hk]
      · exact absurd hk (hout x hx)

theorem mem_sliceRange {m : Cells w} {lo hi at_ : Nat} {e : Nat × BitVec w} : e ∈ sliceRange m lo hi at_ ↔
    ∃ x ∈ m, lo ≤ x.1 ∧ x.1 < hi ∧ e = (x.1 - lo + at_, x.2) := by
  simp only [sliceRange, List.mem_map, List.mem_filter, Bool.and_eq_true, decide_eq_true_eq, and_assoc, eq_comm (a := e)]

/-- Outside the range a copy changes nothing. -/
theorem cget_copyRange_off {src m : Cells w} {lo n at_ k : Nat} (h : ¬(at_ ≤ k ∧ k < at_ + n)) : cget d (copyRange d src lo n m at_) k = cget d m k := by
  have hout : ∀ e ∈ sliceRange src lo (lo + n) at_, e.1 ≠ k := fun e he => by
    obtain ⟨x, -, h1, h2, rfl⟩ := mem_sliceRange.mp he
    dsimp only
    omega
  rw [copyRange, foldl_cset_unlisted _ hout]
  exact cget_filter_key (p := fun a => decide (a < at_) || decide (at_ + n ≤ a)) (by simp; omega)

/-- In the range it holds what the source holds at the matching key. -/
theorem cget_copyRange_on {src m : Cells w} (hsrc : cwf d src = true) {lo n at_ k : Nat} (h1 : at_ ≤ k) (h2 : k < at_ + n)
    (hd : d k = d (lo + (k - at_))) : cget d (copyRange d src lo n m at_) k = cget d src (lo + (k - at_)) := by
  by_cases hex : ∃ e ∈ sliceRange src lo (lo + n) at_, e.1 = k
  · refine foldl_cset_listed _ (fun e he hk => ?_) hex
    obtain ⟨x, hx, hlo, hhi, rfl⟩ := mem_sliceRange.mp he
    rw [← cget_of_mem hsrc hx]
    congr 1
    dsimp only at hk
    omega
  · have hout : ∀ e ∈ sliceRange src lo (lo + n) at_, e.1 ≠ k := fun e he hk => hex ⟨e, he, hk⟩
    have hsrc' : ∀ e ∈ src, e.1 ≠ lo + (k - at_) := fun e he hk =>
      hex ⟨_, mem_sliceRange.mpr ⟨e, he, by omega, by omega, rfl⟩, by dsimp only; omega⟩
    have hclear : ∀ e ∈ clearRange m at_ (at_ + n), e.1 ≠ k := fun e he hk => by
      have := (List.mem_filter.mp he).2
      simp only [Bool.or_eq_true, decide_eq_true_eq] at this
      omega
    rw [copyRange, foldl_cset_unlisted _ hout, cget_unlisted hclear, cget_unlisted hsrc', hd]

end Cells

/-- A tile that is set leaves the others as they were. -/
theorem Wave.setTile_other (w : Wave) (t : Nat) (f : Nat → Nat → Nat) {k : Nat} (h : ¬(t * 8192 ≤ k ∧ k < t * 8192 + 8192)) :
    cget (zeros 32) (w.setTile t f).tiles k = cget (zeros 32) w.tiles k := by
  have hsize : tileTM w.die * tileTN w.die ≤ 8192 := by
    unfold tileTM tileTN
    split <;> decide
  have hcells : ∀ e ∈ ((List.range (tileTM w.die * tileTN w.die)).filterMap fun n =>
      let v : Word := w32 (f (n / tileTN w.die) (n % tileTN w.die))
      if v = 0 then none else some (t * 8192 + n, v)), e.1 ≠ k := fun e he => by
    obtain ⟨n, hn, hv⟩ := List.mem_filterMap.mp he
    have hn := List.mem_range.mp hn
    dsimp only at hv
    split at hv
    · cases hv
    · cases hv
      dsimp only
      omega
  show cget (zeros 32) ((w.tiles.filter fun e => decide (e.1 < t * 8192)) ++ _ ++ w.tiles.filter fun e => decide (t * 8192 + 8192 ≤ e.1)) k = _
  by_cases hk : k < t * 8192
  · have hafter : ∀ e ∈ w.tiles.filter fun e => decide (t * 8192 + 8192 ≤ e.1), e.1 ≠ k := fun e he => by
      have := of_decide_eq_true (List.mem_filter.mp he).2
      omega
    rw [cget_append_left hafter, cget_append_left hcells]
    exact cget_filter_key (p := fun a => decide (a < t * 8192)) (decide_eq_true hk)
  · have hbefore : ∀ e ∈ w.tiles.filter fun e => decide (e.1 < t * 8192), e.1 ≠ k := fun e he => by
      have := of_decide_eq_true (List.mem_filter.mp he).2
      omega
    rw [cget_append_right fun e he => (List.mem_append.mp he).elim (hbefore e) (hcells e)]
    exact cget_filter_key (p := fun a => decide (t * 8192 + 8192 ≤ a)) (decide_eq_true (by omega))

/-! ## kmov (R101, R308) -/

/-- The wave of a kmov from tile `a` to tile `d` at a cycle. -/
def Wave.kmov (w : Wave) (cycle a d : Nat) : Wave :=
  { w.copyTiles [(a, d)] with tilePend := (w.tilePend.filter fun e => e.1 != d && decide (cycle < e.2)) ++ [(d, cycle + kmovLat w.die)] }

theorem Wave.kmov_tiles (w : Wave) (cycle a d : Nat) : (w.kmov cycle a d).tiles = copyRange (zeros 32) w.tiles (a * 8192) 8192 w.tiles (d * 8192) := rfl

theorem Wave.kmov_pend (w : Wave) (cycle a d : Nat) : (d, cycle + kmovLat w.die) ∈ (w.kmov cycle a d).tilePend :=
  List.mem_append_right _ List.mem_cons_self

theorem execKmov_waits {s : State} {dst sa : BitVec 10}
    (h : s.tileBusy s.wv.token (dst.toNat - 856) = true ∨ s.tileBusy s.wv.token (sa.toNat - 856) = true) : execKmov dst sa s = .next s :=
  congrArg Host.Outcome.next (if_pos (by rwa [Bool.or_eq_true]))

section Kmov
variable {s : State} {dst sa : BitVec 10}
  (hfree : ¬(s.tileBusy s.wv.token (dst.toNat - 856) = true ∨ s.tileBusy s.wv.token (sa.toNat - 856) = true))
include hfree

theorem execKmov_copies (hlanded : ∀ e ∈ s.wv.tilePend, e.1 = sa.toNat - 856 → e.2 ≤ s.cycle) :
    execKmov dst sa s = .next (s.nativeDone.updWv fun w => w.kmov s.cycle (sa.toNat - 856) (dst.toNat - 856)) := by
  have hany : ¬(s.wv.tilePend.any fun e => e.1 == sa.toNat - 856 && decide (s.cycle < e.2)) = true := fun h => by
    obtain ⟨e, he, hc⟩ := List.any_eq_true.mp h
    rw [Bool.and_eq_true, beq_iff_eq, decide_eq_true_iff] at hc
    exact absurd (hlanded e he hc.1) (by omega)
  refine congrArg Host.Outcome.next ((if_neg (by rwa [Bool.or_eq_true])).trans ?_)
  exact if_neg hany

theorem execKmov_frees (hpend : ¬∀ e ∈ s.wv.tilePend, e.1 = sa.toNat - 856 → e.2 ≤ s.cycle) : execKmov dst sa s =
    .next ((s.nativeDone.updWv fun w => w.kmov s.cycle (sa.toNat - 856) (dst.toNat - 856)).freeTile (dst.toNat - 856)) := by
  have hany : (s.wv.tilePend.any fun e => e.1 == sa.toNat - 856 && decide (s.cycle < e.2)) = true := by
    push Not at hpend
    obtain ⟨e, he, h1, h2⟩ := hpend
    exact List.any_eq_true.mpr ⟨e, he, by simp [h1, h2]⟩
  refine congrArg Host.Outcome.next ((if_neg (by rwa [Bool.or_eq_true])).trans ?_)
  exact if_pos hany

end Kmov

theorem NativeWave.kmov (m : Mask) (w : Wave) (cycle a d : Nat) : NativeWave m w ((w.native m).kmov cycle a d) := .of_lanes rfl rfl rfl rfl rfl rfl

/-- Only the wave's tiles, and the count of free values, change where a tile becomes undefined. -/
theorem State.freeTile_wv {s : State} (hs : s.issue.wave < s.waves.length) (d : Nat) : ∃ f, (s.freeTile d).wv = s.wv.setTile d f :=
  ⟨_, State.updWv_wv s _ hs⟩

theorem State.freeTile_others (s : State) (d : Nat) {j : Nat} (hj : j ≠ s.issue.wave) : (s.freeTile d).waves[j]? = s.waves[j]? :=
  State.updWv_other s (fun w => w.setTile d _) hj

/-- What a kmov whose tiles no matrix operation names comes to: its destination holds the source's tile, or is undefined while the source's own copy is
on its way; the other tiles stay. -/
theorem execKmov_issues {s : State} (hs : s.issue.wave < s.waves.length) {dst sa : BitVec 10}
    (hfree : ¬(s.tileBusy s.wv.token (dst.toNat - 856) = true ∨ s.tileBusy s.wv.token (sa.toNat - 856) = true)) :
    ∃ t, execKmov dst sa s = .next t ∧ NativeOn s t ∧ (dst.toNat - 856, s.cycle + kmovLat s.wv.die) ∈ t.wv.tilePend ∧
      (∀ k, ¬((dst.toNat - 856) * 8192 ≤ k ∧ k < (dst.toNat - 856) * 8192 + 8192) → cget (zeros 32) t.wv.tiles k = cget (zeros 32) s.wv.tiles k) ∧
      ((∀ e ∈ s.wv.tilePend, e.1 = sa.toNat - 856 → e.2 ≤ s.cycle) → t = { s with waves := t.waves } ∧
        t.wv.tiles = copyRange (zeros 32) s.wv.tiles ((sa.toNat - 856) * 8192) 8192 s.wv.tiles ((dst.toNat - 856) * 8192)) := by
  set d := dst.toNat - 856
  set a := sa.toNat - 856
  set u := s.nativeDone.updWv fun w => w.kmov s.cycle a d with hu
  have hwv : u.wv = (s.wv.native s.issue.mask).kmov s.cycle a d := State.nativeDone_updWv_wv rfl rfl hs _
  have htiles : u.wv.tiles = copyRange (zeros 32) s.wv.tiles (a * 8192) 8192 s.wv.tiles (d * 8192) := by rw [hwv]; rfl
  have hpend : (d, s.cycle + kmovLat s.wv.die) ∈ u.wv.tilePend := by rw [hwv]; exact Wave.kmov_pend _ _ _ _
  have hother : ∀ k, ¬(d * 8192 ≤ k ∧ k < d * 8192 + 8192) → cget (zeros 32) u.wv.tiles k = cget (zeros 32) s.wv.tiles k := fun k hk => by
    rw [htiles, cget_copyRange_off hk]
  have hon : NativeOn s u := State.nativeDone_updWv_on rfl rfl hs (.kmov ..)
  by_cases hlanded : ∀ e ∈ s.wv.tilePend, e.1 = a → e.2 ≤ s.cycle
  · exact ⟨u, execKmov_copies hfree hlanded, hon, hpend, hother, fun _ => ⟨rfl, htiles⟩⟩
  · have hlen : u.issue.wave < u.waves.length := by
      rw [hu, State.updWv_waves, updAt_length, State.nativeDone_eq, State.updWv_waves, updAt_length]
      exact hs
    obtain ⟨f, hf⟩ := State.freeTile_wv hlen d
    refine ⟨u.freeTile d, execKmov_frees hfree hlanded, NativeWave.nativeOn (fun j hj => ?_) ?_, ?_, fun k hk => ?_, fun h => absurd h hlanded⟩
    · rw [State.freeTile_others u d hj]
      exact State.nativeDone_updWv_others rfl rfl _ j hj
    · rw [hf, hwv]
      exact .of_lanes rfl rfl rfl rfl rfl rfl
    · rw [hf]
      exact hpend
    · rw [hf, Wave.setTile_other _ _ _ hk, hother k hk]

/-! ## Causes over the lanes (R239) -/

theorem mem_activeLanes {s : State} {L : Nat} : L ∈ s.activeLanes ↔ On s L := by
  rw [State.activeLanes, lanesOf, List.mem_filter, List.mem_range]
  exact Iff.rfl

theorem State.activeLanes_nodup (s : State) : s.activeLanes.Nodup := List.nodup_range.filter _

theorem mask_ext {m n : Mask} (h : ∀ L, L < 32 → inMask m L = inMask n L) : m = n := BitVec.eq_of_getLsbD_eq h

theorem State.laneFault_none {s : State} {c : Nat → Option Cause} (h : ∀ L, On s L → c L = none) (addr : Nat → Nat) : s.laneFault c addr = none := by
  have htop : topCause s.activeLanes c = none := by
    rw [topCause, List.filterMap_eq_nil_iff.mpr fun L hL => h L (mem_activeLanes.mp hL)]
    rfl
  rw [State.laneFault, htop]

theorem topCause_const {ls : List Nat} {c : Nat → Option Cause} {x : Cause} (hne : ls ≠ []) (h : ∀ L ∈ ls, c L = some x) : topCause ls c = some x := by
  obtain ⟨L, ls, rfl⟩ := List.exists_cons_of_ne_nil hne
  obtain ⟨hL, hls⟩ := List.forall_mem_cons.mp h
  rw [topCause, List.filterMap_cons_some hL, List.foldl_cons]
  refine List.foldlRecOn (motive := fun b => b = some x) _ _ rfl fun b hb y hy => ?_
  obtain ⟨M, hM, hy⟩ := List.mem_filterMap.mp hy
  rw [hls M hM] at hy
  cases hy
  rw [hb]
  exact if_neg (lt_irrefl _)

/-- Where every lane has the same cause, all of them are the primary mask. -/
theorem State.laneFault_all {s : State} {c : Nat → Option Cause} {x : Cause} (hne : ∃ L, On s L) (h : ∀ L, On s L → c L = some x) (addr : Nat → Nat) :
    s.laneFault c addr = some (s.fault x s.issue.mask 0 (addr s.lowLane)) := by
  obtain ⟨L₀, hL₀⟩ := hne
  have htop : topCause s.activeLanes c = some x :=
    topCause_const (List.ne_nil_of_mem (mem_activeLanes.mpr hL₀)) fun L hL => h L (mem_activeLanes.mp hL)
  have hprim : (maskOf fun L => inMask s.active L && (c L).any fun y => y.code == x.code) = s.issue.mask := mask_ext fun L hL => by
    rw [inMask_maskOf _ hL]
    cases hm : inMask s.issue.mask L with
    | false => exact (congrArg (· && _) hm)
    | true => rw [h L ⟨hL, hm⟩]; simp [State.active, hm]
  have hsec : (maskOf fun L => inMask s.active L && (c L).any fun y => y.code != x.code) = 0 := mask_ext fun L hL => by
    rw [inMask_maskOf _ hL, show inMask 0 L = false from BitVec.getLsbD_zero]
    cases hm : inMask s.issue.mask L with
    | false => exact (congrArg (· && _) hm)
    | true => rw [h L ⟨hL, hm⟩]; simp
  rw [State.laneFault, htop]
  dsimp only
  rw [hprim, hsec]
  rfl

/-! ## Frame words (R88, R98) -/

theorem State.wordPlaces_length {s : State} {a : Acc} {L w k : Nat} {ws : List (Nat × Phys)} (h : s.wordPlaces a L w k = .ok ws) : ws.length = k := by
  induction k generalizing w ws with
  | zero => cases h; rfl
  | succ k ih =>
    rw [State.wordPlaces] at h
    split at h
    · cases h
    · split at h
      · cases h
      · next ps hps => cases h; rw [List.length_cons, ih hps]

section FrameWords
variable {s : State} {r imm : Nat} {callee wr : Bool}

theorem State.framePlace_length {L : Nat} {ws : List (Nat × Phys)} (h : s.framePlace r imm callee wr L = .ok ws) : ws.length = frameCount r := by
  rw [State.framePlace] at h
  split at h
  · cases h
  · exact State.wordPlaces_length h

theorem State.framePhys_of_place {L : Nat} {ws : List (Nat × Phys)} (h : s.framePlace r imm callee wr L = .ok ws) : s.framePhys r imm callee wr L = ws := by
  rw [State.framePhys, h]

theorem State.frameFault_none (h : ∀ L, On s L → ∃ ws, s.framePlace r imm callee wr L = .ok ws) : s.frameFault r imm callee wr = none := by
  have hnone : ∀ addr, s.laneFault (fun L => errOf (s.framePlace r imm callee wr L)) addr = none := State.laneFault_none fun L hL => by
    obtain ⟨ws, hws⟩ := h L hL
    rw [hws]; rfl
  rw [State.frameFault, State.walkedFault, hnone]
  rfl

/-- Past word 16,383 of every lane (R98) there is nothing to walk to, and the cause is 0x25. -/
theorem State.frameFault_past (hne : ∃ L, On s L) (h : ∀ L, On s L → 16383 < s.frameWord imm callee L + frameCount r - 1) :
    s.frameFault r imm callee wr = some (s.fault (cause 0x25) s.issue.mask 0 (s.frameWord imm callee s.lowLane)) := by
  have hcause : ∀ L, On s L → errOf (s.framePlace r imm callee wr L) = some (cause 0x25) := fun L hL => by
    rw [State.framePlace]
    rw [if_pos (h L hL)]
    rfl
  have hwalks : ∀ L ∈ s.activeLanes, (if 16383 < s.frameWord imm callee L + frameCount r - 1 then ([] : List Nat)
      else (List.range (frameCount r)).map fun i => s.wv.wordVa (s.frameWord imm callee L + i) L) = [] := fun L hL => if_pos (h L (mem_activeLanes.mp hL))
  rw [State.frameFault]
  dsimp only
  rw [List.flatMap_eq_nil_iff.mpr hwalks, State.walkedFault, State.laneFault_all hne hcause]
  show some ((s.laneFault _ _).getD s) = _
  rw [State.laneFault_all hne hcause, Option.getD_some]

end FrameWords

/-! ### Stores of several lanes -/

section Lanes
variable (a : Acc) (addr : Nat → Nat) (bytes : Nat → List Byte) (pl : Nat → List (Nat × Phys))

/-- Lane `L` stores its bytes to its words. -/
def State.storeLane (t : State) (L : Nat) : State := (t.touchPlace a (.words (pl L))).placeWrite wordMod (addr L) (bytes L) (.words (pl L))

variable {a addr bytes pl}

theorem State.storeLanes {s : State} {core : Nat} (hc : s.gcore = core) (hfull : s.FullLines) {Ls : List Nat} (hnd : Ls.Nodup)
    (hown : ∀ L ∈ Ls, OwnWords (pl L)) (hgood : ∀ L ∈ Ls, s.GoodWords (pl L)) (hlen : ∀ L ∈ Ls, (bytes L).length = 4 * (pl L).length)
    (hapart : ∀ L ∈ Ls, ∀ M ∈ Ls, L ≠ M → ∀ x ∈ pl L, ∀ y ∈ pl M, Apart x.2.key y.2.key) :
    let u := Ls.foldl (State.storeLane a addr bytes pl) s
    L1Only s u ∧ (∀ L ∈ Ls, u.HoldsWords core (pl L) (bytes L)) ∧
      ∀ k v, k % 4 = 0 → (∀ L ∈ Ls, ∀ w ∈ pl L, Apart k w.2.key) → s.HoldsWord core k v → u.HoldsWord core k v := by
  induction Ls generalizing s with
  | nil => exact ⟨.refl s, fun _ h => absurd h List.not_mem_nil, fun _ _ _ _ => id⟩
  | cons L Ls ih =>
    obtain ⟨hL, hnd⟩ := List.nodup_cons.mp hnd
    have htail : ∀ {P : Nat → Prop}, (∀ M ∈ L :: Ls, P M) → ∀ M ∈ Ls, P M := fun h M hM => h M (List.mem_cons_of_mem L hM)
    have hone : Stores s (s.storeLane a addr bytes pl L) core (pl L) (bytes L) :=
      State.storeWords_stores hc (hown L List.mem_cons_self) (hgood L List.mem_cons_self) (hlen L List.mem_cons_self) a (addr L)
    obtain ⟨hrest, hholds, hkeeps⟩ := ih (s := s.storeLane a addr bytes pl L) (hone.rest.gcore.trans hc) (hone.full hfull) hnd (htail hown)
      (fun M hM => (htail hgood M hM).mono hone.rest (hc ▸ hone.finds)) (htail hlen)
      fun M hM N hN => hapart M (List.mem_cons_of_mem L hM) N (List.mem_cons_of_mem L hN)
    refine ⟨hone.rest.trans hrest, fun M hM => ?_, fun k v hk ha hv => ?_⟩
    · rcases List.mem_cons.mp hM with rfl | hM
      · refine (hone.holds hfull).mono fun w hw v => hkeeps _ v ((hown M List.mem_cons_self).aligned w hw) fun N hN x hx => ?_
        exact hapart M List.mem_cons_self N (List.mem_cons_of_mem M hN) (fun h => hL (h ▸ hN)) w hw x hx
      · exact hholds M hM
    · exact hkeeps k v hk (htail ha) (hone.keeps hfull k v hk (ha L List.mem_cons_self) hv)

end Lanes

/-! ### Spills -/

theorem execSpill_faults {s : State} {sa imm : BitVec 10} {callee : Bool} {t : State} (h : s.frameFault sa.toNat imm.toNat callee true = some t) :
    exec (.spill sa imm callee) s = .next t := by
  show execSpill sa imm callee s = _
  rw [execSpill, h]

theorem execSpill_stores {s : State} {sa imm : BitVec 10} {callee : Bool} (h : s.frameFault sa.toNat imm.toNat callee true = none) :
    exec (.spill sa imm callee) s = .next (s.activeLanes.foldl (State.storeLane (s.accOf s.wv .priv false true) (s.frameWord imm.toNat callee)
      (fun L => bytesOfNat (4 * frameCount sa.toNat) (s.reg sa.toNat L).toNat) (s.framePhys sa.toNat imm.toNat callee true)) s).nativeDone := by
  show execSpill sa imm callee s = _
  rw [execSpill, h]
  rfl

theorem execSpill_holds {s : State} (hs : s.issue.wave < s.waves.length) {sa imm : BitVec 10} {callee : Bool} {ws : Nat → List (Nat × Phys)}
    (hplace : ∀ L, On s L → s.framePlace sa.toNat imm.toNat callee true L = .ok (ws L)) (hgood : ∀ L, On s L → s.GoodWords (ws L))
    (hown : ∀ L, On s L → OwnWords (ws L)) (hapart : ∀ L M, On s L → On s M → L ≠ M → ∀ x ∈ ws L, ∀ y ∈ ws M, Apart x.2.key y.2.key)
    (hfull : s.FullLines) :
    ∃ t, exec (.spill sa imm callee) s = .next t ∧ NativeOn s t ∧ t.wgs = s.wgs ∧ t.msgs = s.msgs ∧ ∀ L, On s L →
      ((ws L).flatMap fun a => t.wordRead s.gcore a.2.key) = bytesOfNat (4 * (ws L).length) (s.reg sa.toNat L).toNat := by
  have hphys : ∀ L, On s L → s.framePhys sa.toNat imm.toNat callee true L = ws L := fun L hL => State.framePhys_of_place (hplace L hL)
  have hcount : ∀ L, On s L → (ws L).length = frameCount sa.toNat := fun L hL => State.framePlace_length (hplace L hL)
  have hon : ∀ {L}, L ∈ s.activeLanes → On s L := mem_activeLanes.mp
  obtain ⟨hrest, hholds, -⟩ := State.storeLanes (a := s.accOf s.wv .priv false true) (addr := s.frameWord imm.toNat callee)
    (bytes := fun L => bytesOfNat (4 * frameCount sa.toNat) (s.reg sa.toNat L).toNat) (pl := s.framePhys sa.toNat imm.toNat callee true) rfl hfull
    s.activeLanes_nodup (fun L hL => by rw [hphys L (hon hL)]; exact hown L (hon hL)) (fun L hL => by rw [hphys L (hon hL)]; exact hgood L (hon hL))
    (fun L hL => by rw [hphys L (hon hL), hcount L (hon hL), bytesOfNat_length])
    fun L hL M hM hne => by rw [hphys L (hon hL), hphys M (hon hM)]; exact hapart L M (hon hL) (hon hM) hne
  refine ⟨_, execSpill_stores (State.frameFault_none fun L hL => ⟨_, hplace L hL⟩), State.nativeDone_on hrest.waves hrest.issue hs, hrest.wgs, hrest.msgs,
    fun L hL => ?_⟩
  have hread := (hholds L (mem_activeLanes.mpr hL)).read
  rw [hphys L hL] at hread
  rw [hcount L hL]
  exact hread

end Sys2Proof.Machine
end

section
/-! Fills, landings and the native-only operations together (03_tvedah_native.md R90, R95, R98-R100). -/
namespace Sys2Proof.Machine
open Sys2Proof Sys2Proof.Safety

/-! ### Fills -/

/-- The words that the lanes that issue name have been walked to, and then brought into the core's lines. -/
def State.fillWalked (s : State) (ws : Nat → List (Nat × Phys)) : State :=
  s.activeLanes.foldl (fun u L => u.touchPlace (s.accOf s.wv .priv true false) (.words (ws L))) s
def State.fillRead (s : State) (ws : Nat → List (Nat × Phys)) : State :=
  s.activeLanes.foldl (fun t L => t.afterRead wordMod (.words (ws L))) (s.fillWalked ws)
/-- The lanes that issue and have a word in error. -/
def State.fillBad (s : State) (ws : Nat → List (Nat × Phys)) : Mask := maskOf fun L => inMask s.active L && s.placeBad wordMod 4 (.words (ws L))
def State.fillData (s : State) (r : Nat) (ws : Nat → List (Nat × Phys)) : List (Nat × Nat × Dword) :=
  s.activeLanes.map fun L => (r, L, dw (natOfBytes ((ws L).flatMap fun w => (s.fillWalked ws).wordRead s.gcore w.2.key)))
/-- The late fault of a fill with words in error (R90, R240). -/
def State.fillFault (s : State) (bad : Mask) (addr land : Nat) : LateFault :=
  { due := s.cycle + land, cause := 0x80, tag := (cause 0x80).tag, prim := bad, sec := 0, addr := dw addr, loc := s.issue.loc, die := s.wv.die }

theorem State.fillRead_l1Only (s : State) (ws : Nat → List (Nat × Phys)) : L1Only s (s.fillRead ws) :=
  .trans (.foldl _ _ fun _ _ => State.touchPlace_l1Only ..) (.foldl _ _ fun _ _ => State.afterRead_words_l1Only ..)

theorem inMask_fillBad {s : State} {ws : Nat → List (Nat × Phys)} {L : Nat} (hL : L < 32) :
    inMask (s.fillBad ws) L = true ↔ On s L ∧ s.placeBad wordMod 4 (.words (ws L)) = true := by
  rw [State.fillBad, inMask_maskOf _ hL, Bool.and_eq_true]
  exact ⟨fun ⟨h, k⟩ => ⟨⟨hL, h⟩, k⟩, fun ⟨⟨_, h⟩, k⟩ => ⟨h, k⟩⟩

theorem State.fillBad_eq_zero {s : State} {ws : Nat → List (Nat × Phys)} :
    s.fillBad ws = 0 ↔ ∀ L, ¬(On s L ∧ s.placeBad wordMod 4 (.words (ws L)) = true) := by
  refine ⟨fun h L hL => ?_, fun h => mask_ext fun L hL => ?_⟩
  · have := (inMask_fillBad hL.1.1).mpr hL
    rw [h] at this
    exact absurd this (by rw [inMask, show (0 : Mask).getLsbD L = false from BitVec.getLsbD_zero]; decide)
  · rw [show inMask 0 L = false from BitVec.getLsbD_zero]
    exact Bool.eq_false_iff.mpr fun hm => h L ((inMask_fillBad hL).mp hm)

theorem execFill_reads {s : State} {dst imm cyc : BitVec 10} {callee : Bool} {ws : Nat → List (Nat × Phys)}
    (h : ∀ L, On s L → s.framePlace dst.toNat imm.toNat callee false L = .ok (ws L)) :
    exec (.fill dst imm callee cyc) s = .next (let t := (s.fillRead ws).nativeDone
      if s.fillBad ws ≠ 0 then
        { ({ t with issue := { t.issue with land := cyc.toNat } } : State).lateFault (cause 0x80) (s.fillBad ws) 0
            (s.frameWord imm.toNat callee ((lanesOf (s.fillBad ws)).headD 0)) with issue := t.issue }
      else t.updWv fun w => { w with landings := w.landings ++ [s.landsAt cyc.toNat dst.toNat (s.fillData dst.toNat ws)] }) := by
  have hphys : ∀ L, On s L → s.framePhys dst.toNat imm.toNat callee false L = ws L := fun L hL => State.framePhys_of_place (h L hL)
  have hwalked : s.fillWalked (s.framePhys dst.toNat imm.toNat callee false) = s.fillWalked ws :=
    List.foldl_ext _ _ _ fun u L hL => by rw [hphys L (mem_activeLanes.mp hL)]
  have hread : s.fillRead (s.framePhys dst.toNat imm.toNat callee false) = s.fillRead ws := by
    rw [State.fillRead, hwalked]
    exact List.foldl_ext _ _ _ fun u L hL => by rw [hphys L (mem_activeLanes.mp hL)]
  have hdata : s.fillData dst.toNat (s.framePhys dst.toNat imm.toNat callee false) = s.fillData dst.toNat ws := by
    rw [State.fillData, hwalked]
    exact List.map_congr_left fun L hL => by rw [hphys L (mem_activeLanes.mp hL)]
  have hbad : s.fillBad (s.framePhys dst.toNat imm.toNat callee false) = s.fillBad ws := mask_ext fun L hL => by
    rw [State.fillBad, State.fillBad, inMask_maskOf _ hL, inMask_maskOf _ hL]
    cases hm : inMask s.active L with
    | false => rfl
    | true => rw [hphys L ⟨hL, hm⟩]
  rw [← hread, ← hdata, ← hbad]
  show execFill dst imm callee cyc s = _
  rw [execFill, State.frameFault_none fun L hL => ⟨_, h L hL⟩]
  rfl

theorem execFill_lands {s : State} (hs : s.issue.wave < s.waves.length) {dst imm cyc : BitVec 10} {callee : Bool} {ws : Nat → List (Nat × Phys)}
    (h : ∀ L, On s L → s.framePlace dst.toNat imm.toNat callee false L = .ok (ws L))
    (hgood : ∀ L, ¬(On s L ∧ s.placeBad wordMod 4 (.words (ws L)) = true)) :
    ∃ t e, exec (.fill dst imm callee cyc) s = .next t ∧ NativeOn s t ∧ t.wgs = s.wgs ∧ t.wv.landings = s.wv.landings ++ [e] ∧
      e.due = s.cycle + cyc.toNat ∧ e.data = s.fillData dst.toNat ws := by
  have hrest := s.fillRead_l1Only ws
  refine ⟨_, s.landsAt cyc.toNat dst.toNat (s.fillData dst.toNat ws), (execFill_reads h).trans
    (congrArg Host.Outcome.next (if_neg (not_not.mpr (State.fillBad_eq_zero.mpr hgood)))), ?_, hrest.wgs, ?_, rfl, rfl⟩
  · exact State.nativeDone_updWv_on hrest.waves hrest.issue hs (.of_lanes rfl rfl rfl rfl rfl rfl)
  · rw [State.nativeDone_updWv_wv hrest.waves hrest.issue hs]
    rfl

theorem execFill_faults {s : State} (hs : s.issue.wave < s.waves.length) {dst imm cyc : BitVec 10} {callee : Bool} {ws : Nat → List (Nat × Phys)}
    (h : ∀ L, On s L → s.framePlace dst.toNat imm.toNat callee false L = .ok (ws L))
    (hbad : ∃ L, On s L ∧ s.placeBad wordMod 4 (.words (ws L)) = true) :
    ∃ t f, exec (.fill dst imm callee cyc) s = .next t ∧ t.wgs = s.wgs ∧ t.wv.landings = s.wv.landings ∧ t.wv.late = s.wv.late ++ [f] ∧
      f.cause = 0x80 ∧ f.due = s.cycle + cyc.toNat ∧
      ∀ L, L < 32 → (f.prim.getLsbD L = true ↔ On s L ∧ s.placeBad wordMod 4 (.words (ws L)) = true) := by
  have hrest := s.fillRead_l1Only ws
  have hne : s.fillBad ws ≠ 0 := fun hz => by
    obtain ⟨L, hL⟩ := hbad
    exact State.fillBad_eq_zero.mp hz L hL
  set f := s.fillFault (s.fillBad ws) (s.frameWord imm.toNat callee ((lanesOf (s.fillBad ws)).headD 0)) cyc.toNat with hf
  have hdone := State.nativeDone_wv hrest.waves hrest.issue hs
  have hexec : exec (.fill dst imm callee cyc) s = .next ((s.fillRead ws).nativeDone.updWv fun w => { w with late := w.late ++ [f] }) := by
    have hcycle : (s.fillRead ws).nativeDone.cycle = s.cycle := hrest.cycle
    have hloc : (s.fillRead ws).nativeDone.issue.loc = s.issue.loc := congrArg (·.loc) hrest.issue
    have hdie : (s.fillRead ws).nativeDone.wv.die = s.wv.die := by rw [hdone]; rfl
    rw [hf, State.fillFault, ← hcycle, ← hloc, ← hdie]
    exact (execFill_reads h).trans (congrArg Host.Outcome.next ((if_pos hne).trans rfl))
  refine ⟨_, f, hexec, hrest.wgs, ?_, ?_, rfl, rfl, fun L hL => inMask_fillBad hL⟩
  all_goals
    rw [State.nativeDone_updWv_wv hrest.waves hrest.issue hs]
    rfl

/-! ## Landings (R90, R95, R99) -/

theorem execLand_waits {s : State} (h : s.wv.landings ≠ [] ∨ ∃ f ∈ s.wv.late, s.cycle < f.due) : exec .land s = .next s := by
  have hcond : ¬(s.wv.landings.isEmpty && s.wv.late.all fun f => decide (f.due ≤ s.cycle)) = true := fun hc => by
    obtain ⟨he, hl⟩ := (Bool.and_eq_true _ _).mp hc
    rcases h with h | ⟨f, hf, hd⟩
    · exact h (List.isEmpty_iff.mp he)
    · have := of_decide_eq_true (List.all_eq_true.mp hl f hf)
      omega
  exact congrArg Host.Outcome.next (if_neg hcond)

theorem execLand_issues {s : State} (h : s.wv.landings = []) (hl : ∀ f ∈ s.wv.late, f.due ≤ s.cycle) : exec .land s = .next s.nativeDone := by
  refine congrArg Host.Outcome.next (if_pos ?_)
  rw [h, Bool.and_eq_true]
  exact ⟨rfl, List.all_eq_true.mpr fun f hf => decide_eq_true (hl f hf)⟩

theorem State.nativeDone_waves {s : State} (hs : s.issue.wave < s.waves.length) :
    (s.nativeDone = { s with waves := s.nativeDone.waves } ∧ NativeOn s s.nativeDone) ∧ KeepsRegs s s.nativeDone 1024 :=
  ⟨⟨rfl, State.nativeDone_on rfl rfl hs⟩, State.nativeDone_keepsRegs hs 1024⟩

theorem execFmtset_pends {s : State} (hs : s.issue.wave < s.waves.length) (dst : BitVec 10) (lit : Word) :
    ∃ t, exec (.fmtset dst lit) s = .next t ∧ (t = { s with waves := t.waves } ∧ NativeOn s t) ∧ KeepsRegs s t 1024 ∧
      t.wv.fmPend = s.wv.fmPend ++ [{ due := s.cycle + 5, reg := dst.toNat - 872, mask := s.issue.mask, v := lit &&& 0xFFF000 }] := by
  refine ⟨_, rfl, ⟨rfl, State.nativeDone_updWv_on rfl rfl hs (.of_lanes rfl rfl rfl rfl rfl rfl)⟩, fun r L hL _ => ?_, ?_⟩
  all_goals rw [State.nativeDone_updWv_wv rfl rfl hs]
  · rw [← Wave.native_regRead s.issue.mask s.wv r hL]
    exact Wave.regRead_congr rfl rfl r
  · rfl

/-- What lands of one register of one lane. -/
theorem Wave.regWrite_lane_read (w : Wave) (v : Dword) {r L : Nat} (hL : L < 32) (hr : r < 832) :
    (w.regWrite (maskOf (· == L)) r fun _ => v).regRead r L = if r < 768 then (v.setWidth 32).setWidth 64 else v := by
  rw [Wave.regWrite_regRead_on _ _ _ hL (by rw [inMask_maskOf _ hL]; exact beq_self_eq_true L)]
  by_cases hv : r < 768
  · rw [if_pos (isVec_iff.mpr hv), if_pos hv]
  · rw [if_neg (fun h => hv (isVec_iff.mp h)), if_neg hv, if_pos (isScal_iff.mpr ⟨by omega, hr⟩)]

theorem Wave.regWrite_lane_keeps (w : Wave) (v : Dword) {r L n M : Nat} (hL : L < 32) (hne : (n, M) ≠ (r, L)) :
    (w.regWrite (maskOf (· == M)) n fun _ => v).regRead r L = w.regRead r L := by
  by_cases hr : r = n
  · have hM : L ≠ M := fun h => hne (by rw [hr, h])
    exact Wave.regWrite_regRead_off _ _ _ _ _ hL (by rw [inMask_maskOf _ hL]; exact beq_eq_false_iff_ne.mpr hM)
  · exact (w.regWrite_only _ n _).regs L hL r hr

def Wave.landData (w : Wave) (data : List (Nat × Nat × Dword)) : Wave := data.foldl (fun w e => w.regWrite (maskOf (· == e.2.1)) e.1 fun _ => e.2.2) w

theorem Wave.land_eq (w : Wave) (x : Landing) : w.land x = w.landData x.data := rfl

theorem Wave.landData_keeps (w : Wave) {data : List (Nat × Nat × Dword)} {r L : Nat} (hL : L < 32) (h : (r, L) ∉ data.map fun x => (x.1, x.2.1)) :
    (w.landData data).regRead r L = w.regRead r L := by
  induction data generalizing w with
  | nil => rfl
  | cons e data ih =>
    rw [List.map_cons, List.mem_cons, not_or] at h
    exact (ih _ h.2).trans (w.regWrite_lane_keeps _ hL (Ne.symm h.1))

theorem Wave.landData_reads (w : Wave) {data : List (Nat × Nat × Dword)} {r L : Nat} {v : Dword} (hL : L < 32) (hr : r < 832) (h : (r, L, v) ∈ data)
    (hnd : (data.map fun x => (x.1, x.2.1)).Nodup) : (w.landData data).regRead r L = if r < 768 then (v.setWidth 32).setWidth 64 else v := by
  induction data generalizing w with
  | nil => cases h
  | cons e data ih =>
    obtain ⟨he, hnd⟩ := List.nodup_cons.mp hnd
    rcases List.mem_cons.mp h with rfl | h
    · exact (Wave.landData_keeps _ hL he).trans (w.regWrite_lane_read v hL hr)
    · exact ih _ h hnd

theorem Wave.setFm_regRead (w : Wave) (x : FmPend) (r : Nat) {L : Nat} (hL : L < 32) : (w.setFm x).regRead r L = w.regRead r L := by
  rw [Wave.setFm, Wave.regRead, Wave.regRead, Wave.mapLanes_lane _ _ hL]
  cases inMask x.mask L <;> rfl

theorem Wave.setFms_regRead (w : Wave) (xs : List FmPend) (r : Nat) {L : Nat} (hL : L < 32) : (xs.foldl Wave.setFm w).regRead r L = w.regRead r L :=
  List.foldlRecOn xs _ (motive := fun v : Wave => v.regRead r L = w.regRead r L) rfl fun (v : Wave) hv x _ => (v.setFm_regRead x r hL).trans hv

theorem Landing.landed_iff (x : Landing) (c : Nat) : x.landed c = true ↔ x.due ≤ c ∧ (x.back ≤ x.due ∨ x.back < c) := by
  rw [Landing.landed, Bool.and_eq_true, decide_eq_true_iff, decide_eq_true_iff]

theorem Wave.mem_landDue_landings {w : Wave} {c : Nat} {e : Landing} :
    e ∈ (w.landDue c).landings ↔ e ∈ w.landings ∧ ¬(e.due ≤ c ∧ (e.back ≤ e.due ∨ e.back < c)) := by
  rw [← Landing.landed_iff]
  show e ∈ w.landings.filter (fun x => !x.landed c) ↔ _
  rw [List.mem_filter, Bool.not_eq_true, Bool.not_eq_true']

theorem Wave.mem_landDue_fmPend {w : Wave} {c : Nat} {e : FmPend} : e ∈ (w.landDue c).fmPend ↔ e ∈ w.fmPend ∧ c < e.due := by
  show e ∈ w.fmPend.filter (fun x => c < x.due) ↔ _
  rw [List.mem_filter, decide_eq_true_iff]

/-- A landing that is due alone brings its data to its registers. -/
theorem Wave.landDue_reads {w : Wave} {c : Nat} {e : Landing} (halone : ∀ x ∈ w.landings, x = e ∨ c < x.due) (hone : w.landings.count e = 1)
    (he : e.landed c = true) {r L : Nat} {v : Dword} (hL : L < 32) (hr : r < 832) (hv : (r, L, v) ∈ e.data)
    (hnd : (e.data.map fun x => (x.1, x.2.1)).Nodup) : (w.landDue c).regRead r L = if r < 768 then (v.setWidth 32).setWidth 64 else v := by
  have hdue : w.landings.filter (fun x => x.landed c) = [e] := by
    rw [List.filter_congr (q := (· == e)) fun x hx => ?_, List.filter_beq, hone]
    · rfl
    · rcases halone x hx with rfl | hlt
      · rw [he, beq_self_eq_true]
      · have hx : ¬x.landed c = true := fun h => by have := ((x.landed_iff c).mp h).1; omega
        rw [Bool.eq_false_iff.mpr hx, beq_eq_false_iff_ne.mpr fun h : x = e => hx (by rw [h, he])]
  have hregs : (w.landDue c).regRead r L = (((w.landings.filter fun x => x.landed c).foldl Wave.land w).regRead r L) :=
    (Wave.regRead_congr rfl rfl r).trans (Wave.setFms_regRead _ (w.fmPend.filter fun x => x.due ≤ c) r hL)
  rw [hregs, hdue]
  exact w.landData_reads hL hr hv hnd

theorem execLanding_lands {s : State} (hs : s.issue.wave < s.waves.length) :
    ∃ t, exec (.landing s.issue.wave) s = .next t ∧ t = { s with waves := t.waves } ∧ t.wv = s.wv.landDue s.cycle :=
  ⟨_, rfl, rfl, State.updWv_wv s (fun v => v.landDue s.cycle) hs⟩

/-! ## The operations together -/

theorem movSource_toNat (s : State) (sa : BitVec 10) (lit : Option Word) (L : Nat) :
    (movSource s sa lit L).toNat = match lit with | some k => k.toNat | none => (s.reg sa.toNat L).toNat := by
  cases lit with
  | none => rfl
  | some k => exact BitVec.toNat_setWidth_of_le (by omega)

theorem zeros_eq_zeros (n a b : Nat) : zeros n a = zeros n b := rfl

theorem frameCount_eq (r : Nat) : frameCount r = if 768 ≤ r ∧ r < 832 then 2 else 1 := by
  rw [frameCount]
  exact if_congr isScal_iff rfl rfl

/-- Settles O48: each native-only operation is the change of its registers, tiles, frame words or landings, over the wave whose bundle has counted. -/
theorem nativeOperations : Obligations.NativeOperations := by
  intro s dst sa imm cyc hi callee lit word hs goesOn waves keepsRegs d x where_ past
  have hpast : ∀ r L, past r L → 16383 < s.frameWord imm.toNat callee L + frameCount r - 1 := fun r L h => by rw [frameCount_eq]; exact h
  have hx : ∀ L, (movSource s sa lit L).toNat = x L := movSource_toNat s sa lit
  refine ⟨?nop, ?mov, fun h1 h2 => execQmov_moves hs sa h1 h2, ?kmov, fun hne h => ?past, fun ws hws hapart hpair hal _ hfull => ?spill,
    fun ws hws => ⟨execFill_lands hs hws, execFill_faults hs hws⟩, execLand_waits, fun h hl => ?land, execFmtset_pends hs dst word, ?landing⟩
  case nop =>
    intro i hi
    have hexec : exec i s = .next s.nativeDone := by
      simp only [List.mem_cons, List.not_mem_nil, or_false] at hi
      rcases hi with rfl | rfl <;> rfl
    exact ⟨_, hexec, State.nativeDone_waves hs⟩
  case mov =>
    obtain ⟨t, hexec, hon, hkeeps, hreads⟩ := execMov_moves hs dst sa hi lit
    simp only [hx] at hreads
    exact ⟨t, hexec, hon, hkeeps, hreads⟩
  case kmov =>
    intro hd _ _ _ hwf
    have hend : (d - 855) * 8192 = (d - 856) * 8192 + 8192 := by omega
    refine ⟨execKmov_waits, fun hfree => ?_⟩
    obtain ⟨t, hexec, hon, hpend, hother, hcopies⟩ := execKmov_issues hs hfree
    rw [hend]
    refine ⟨t, hexec, hon, hpend, hother, fun hlanded => ?_⟩
    obtain ⟨hwaves, htiles⟩ := hcopies hlanded
    refine ⟨⟨hwaves, hon⟩, fun k h1 h2 => ?_⟩
    rw [htiles]
    exact cget_copyRange_on hwf h1 h2 (zeros_eq_zeros ..)
  case past =>
    have hfault := State.frameFault_past (wr := true) hne fun L hL => hpast sa.toNat L (h L hL)
    exact execSpill_faults hfault
  case spill =>
    exact execSpill_holds hs (fun L hL => (hws L hL).1) (fun L hL => (hws L hL).2)
      (fun L hL => ⟨List.pairwise_map.mp (hpair L hL), fun w hw => hal L w hL hw⟩)
      (fun L M hL hM hne a ha b hb => hapart L M a b hL hM ha hb hne) hfull
  case land => exact ⟨_, execLand_issues h hl, State.nativeDone_waves hs⟩
  case landing =>
    obtain ⟨t, hexec, hwaves, hwv⟩ := execLanding_lands hs
    refine ⟨t, hexec, hwaves, fun e => ?_, fun e => ?_, fun e r L v halone hone hdue hback hL hr hv hnd => ?_⟩
    all_goals rw [hwv]
    · exact Wave.mem_landDue_landings
    · exact Wave.mem_landDue_fmPend
    · exact Wave.landDue_reads halone hone ((e.landed_iff _).mpr ⟨hdue, hback⟩) hL hr hv hnd

end Sys2Proof.Machine
end

section
/-! Branches: the way a lane takes, and entry into a block with its arguments (04_control.md R140, 02_daxdex_form.md R55, 03_tvedah_native.md R113,
R114). -/
namespace Sys2Proof.Machine
open Sys2Proof Sys2Proof.Safety

/-! ## Entry into a block (R55) -/

theorem Lane.enterBlock_rest (l : Lane) (p : Loc) (base : Nat) (vs : List Val) :
    l.enterBlock p base vs = { l with frames := (l.enterBlock p base vs).frames, pc := p, bpos := 0 } := by
  rw [Lane.enterBlock, Lane.setVals_rest]

theorem Lane.enterBlock_tail (l : Lane) (p : Loc) (base : Nat) (vs : List Val) : (l.enterBlock p base vs).frames.tail = l.frames.tail :=
  Lane.setVals_tail l base vs

theorem Lane.enterBlock_val_at {l : Lane} (p : Loc) (base : Nat) (vs : List Val) (hf : l.frames ≠ []) {j : Nat} (h : j < vs.length) :
    (l.enterBlock p base vs).val (base + j) = vs.getD j 0 := Lane.setVals_at base vs hf h

theorem Lane.enterBlock_val_other (l : Lane) (p : Loc) (base : Nat) (vs : List Val) {n : Nat} (h : n < base ∨ base + vs.length ≤ n) :
    (l.enterBlock p base vs).val n = l.val n := Lane.setVals_other l base vs h

@[simp] theorem Lane.targetArgs_length (l : Lane) (tys : List Ty) (args : List Opnd) :
    (l.targetArgs tys args).length = min tys.length args.length := by
  simp [Lane.targetArgs]

/-- Each argument is read in the lane as it stands before the entry. -/
theorem Lane.targetArgs_getD (l : Lane) {tys : List Ty} {args : List Opnd} {j : Nat} (ht : j < tys.length) (ha : j < args.length) :
    (l.targetArgs tys args).getD j 0 = l.opnd (tys.getD j .none) (args.getD j (.imm 0)) := by
  simp [Lane.targetArgs, List.getD_eq_getElem?_getD, ht, ha]

/-- The first bundle of a block, whatever the function's table says of it. -/
theorem State.blockLoc_place (s : State) (bud h f b n : Nat) : (s.blockLoc bud h f b n).handle = h ∧ (s.blockLoc bud h f b n).func = f ∧
    (s.blockLoc bud h f b n).block = b ∧ (s.blockLoc bud h f b n).index = 0 ∧ (s.blockLoc bud h f b n).bud = bud := by
  unfold State.blockLoc
  split <;> exact ⟨rfl, rfl, rfl, rfl, rfl⟩

/-! ## The exit of a lane (R113, R114) -/

theorem State.takeExit_way {s : State} {n : Nat} {p : Loc × Nat} (h : s.issue.gos.getD n none = some p) (g : Target) (l : Lane) :
    s.takeExit n g l = { l with pc := p.1, bpos := p.2 } := by
  rw [State.takeExit, h]

theorem State.takeExit_target {s : State} {n : Nat} (h : s.issue.gos.getD n none = none) (g : Target) (l : Lane) :
    s.takeExit n g l = s.takeTarget g l := by
  rw [State.takeExit, h]

/-! ## The wave that branches -/

/-- The issuing wave after a branch. -/
theorem State.branch_wv {s : State} (hs : s.issue.wave < s.waves.length) (pick : Nat → Nat × Target) : (s.branch pick).wv =
    (s.wv.mapLanes fun L l => if inMask s.active L then s.takeExit (pick L).1 (pick L).2 l else l).issued :=
  State.updWv_wv s _ hs

theorem State.branch_waveOn {s : State} (hs : s.issue.wave < s.waves.length) (pick : Nat → Nat × Target) :
    WaveOn s.wv (s.branch pick).wv := by
  rw [WaveOn, State.branch_wv hs]
  rfl

theorem State.branch_off {s : State} (hs : s.issue.wave < s.waves.length) (pick : Nat → Nat × Target) {L : Nat} (hL : Off s L) :
    (s.branch pick).wv.lane L = s.wv.lane L := by
  have hm : ¬inMask s.active L = true := Bool.eq_false_iff.mp hL.2
  rw [State.branch_wv hs, Wave.issued_lane, Wave.mapLanes_lane _ _ hL.1, if_neg hm]

theorem State.branch_on {s : State} (hs : s.issue.wave < s.waves.length) (pick : Nat → Nat × Target) {L : Nat} (hL : On s L) :
    (s.branch pick).wv.lane L = s.takeExit (pick L).1 (pick L).2 (s.wv.lane L) := by
  have hm : inMask s.active L = true := hL.2
  rw [State.branch_wv hs, Wave.issued_lane, Wave.mapLanes_lane _ _ hL.1, if_pos hm]

/-- Settles O16: the three branches are one operation with different picks, and a lane that takes an exit enters its target or the bundle that leads
there. -/
theorem branches : Obligations.Branches := by
  intro s ty c a b cases hiss here entered branches sel
  have hentered : ∀ (l : Lane) (n : Nat) (g : Target), l.frames ≠ [] → entered l (s.takeExit n g l) n g := by
    intro l n g hl
    dsimp only [entered]
    split
    next p hgo => exact State.takeExit_way hgo g l
    next hgo =>
      rw [State.takeExit_target hgo, State.takeTarget]
      obtain ⟨hhandle, hfunc, hblock, hindex, hbud⟩ := s.blockLoc_place here.bud here.handle here.func g.blk.toNat
        (((s.locImage s.wv here).bind fun i => i.starts[g.blk.toNat]?).getD 0)
      refine ⟨Lane.enterBlock_rest .., Lane.enterBlock_tail .., hhandle, hfunc, hblock, hindex, hbud, fun j ht ha => ?_, fun v hv => ?_⟩
      · rw [Lane.enterBlock_val_at _ _ _ hl ((l.targetArgs_length _ _).symm ▸ lt_min ht ha), l.targetArgs_getD ht ha]
      · exact Lane.enterBlock_val_other _ _ _ _ (by rwa [Lane.targetArgs_length])
  have hbranches : ∀ (i : Instr) (pick : Nat → Nat × Target), exec i s = .next (s.branch pick) → branches i pick := fun i pick hexec =>
    ⟨_, hexec, rfl, fun j hj => State.updWv_other s _ hj, State.branch_waveOn hiss.1 pick, fun L hL => State.branch_off hiss.1 pick hL,
      fun L hL => by
        rw [State.branch_on hiss.1 pick hL]
        exact hentered _ _ _ (hiss.2 L hL)⟩
  exact ⟨hbranches _ _ rfl, hbranches _ _ rfl, hbranches _ _ rfl⟩

end Sys2Proof.Machine
end

section
/-! Rejoin masks and their release, loop registers, and yield (04_control.md R149, R150, R153, R154, R157). -/
namespace Sys2Proof.Machine
open Sys2Proof Sys2Proof.Safety

/-! ## Updates in a row -/

theorem updAt_updAt {α : Type} (l : List α) (i : Nat) (f g : α → α) : updAt (updAt l i f) i g = updAt l i fun a => g (f a) := by
  refine List.ext_getElem? fun j => ?_
  rw [updAt_getElem?, updAt_getElem?, updAt_getElem?]
  by_cases hj : j = i
  · rw [if_pos hj, if_pos hj, if_pos hj, Option.map_map]
    rfl
  · rw [if_neg hj, if_neg hj, if_neg hj]

theorem updAt_getD {α : Type} (l : List α) (i j : Nat) (f : α → α) (d : α) (h : i < l.length) :
    (updAt l i f).getD j d = if j = i then f (l.getD j d) else l.getD j d := by
  split
  next hj => rw [hj, updAt_getD_same l i f d h]
  next hj => exact updAt_getD_other l i j f d hj

theorem State.updWv_updWv (s : State) (f g : Wave → Wave) : (s.updWv f).updWv g = s.updWv fun w => g (f w) :=
  congrArg (fun ws => ({ s with waves := ws } : State)) (updAt_updAt s.waves s.issue.wave f g)

/-! ## The release test (R150) -/

/-- Every lane that is enrolled in mask `j` has parked on it, and there is one. -/
def Wave.Complete (w : Wave) (j : Nat) : Prop := w.enr.getD j 0 ≠ 0 ∧ w.enr.getD j 0 &&& ~~~w.prk.getD j 0 = 0
/-- Lane `L` is parked and one of the first `n` masks frees it. -/
def Wave.Freed (w : Wave) (n L : Nat) : Prop :=
  (w.lane L).st = .parked ∧ ∃ j, j < n ∧ w.Complete j ∧ inMask (w.prk.getD j 0) L = true

/-- The lanes of a mask that are parked go on. -/
def Wave.resumeLanes (w : Wave) (p : Mask) : Wave := w.mapLanes fun L l => if inMask p L && l.st == .parked then l.resume else l
/-- The release test of one mask. -/
def Wave.releaseMask (w : Wave) (k : Nat) : Wave :=
  let e := w.enr.getD k 0
  let p := w.prk.getD k 0
  if e ≠ 0 ∧ e &&& ~~~p = 0 then
    { w.resumeLanes p with enr := updAt w.enr k fun _ => 0, prk := updAt w.prk k fun _ => 0 }
  else w

theorem Wave.resumeLanes_lane (w : Wave) (p : Mask) {L : Nat} (hL : L < 32) :
    (w.resumeLanes p).lane L = if inMask p L && (w.lane L).st == .parked then (w.lane L).resume else w.lane L := Wave.mapLanes_lane w _ hL

theorem Wave.rejoinTest_eq (w : Wave) : w.rejoinTest = (List.range 8).foldl Wave.releaseMask w := rfl

theorem Wave.releaseMask_of_not {w : Wave} {k : Nat} (h : ¬w.Complete k) : w.releaseMask k = w := if_neg h

theorem Wave.releaseMask_of_complete {w : Wave} {k : Nat} (h : w.Complete k) : w.releaseMask k =
    { w.resumeLanes (w.prk.getD k 0) with enr := updAt w.enr k fun _ => 0, prk := updAt w.prk k fun _ => 0 } := if_pos h

theorem Wave.releaseMask_masks_other (w : Wave) {j k : Nat} (h : j ≠ k) :
    (w.releaseMask k).enr.getD j 0 = w.enr.getD j 0 ∧ (w.releaseMask k).prk.getD j 0 = w.prk.getD j 0 := by
  by_cases hk : w.Complete k
  · rw [Wave.releaseMask_of_complete hk]
    exact ⟨updAt_getD_other _ _ _ _ _ h, updAt_getD_other _ _ _ _ _ h⟩
  · rw [Wave.releaseMask_of_not hk]
    exact ⟨rfl, rfl⟩

theorem updAt_zero_getD (l : List Mask) (k : Nat) : (updAt l k fun _ => 0).getD k 0 = 0 := by
  rw [List.getD_eq_getElem?_getD, updAt_getElem?, if_pos rfl]
  cases l[k]? <;> rfl

theorem Wave.releaseMask_masks_same {w : Wave} {k : Nat} (h : w.Complete k) :
    (w.releaseMask k).enr.getD k 0 = 0 ∧ (w.releaseMask k).prk.getD k 0 = 0 := by
  rw [Wave.releaseMask_of_complete h]
  exact ⟨updAt_zero_getD _ _, updAt_zero_getD _ _⟩

theorem Wave.releaseMask_lane_freed {w : Wave} {k L : Nat} (hL : L < 32) (hk : w.Complete k) (hp : inMask (w.prk.getD k 0) L = true)
    (hst : (w.lane L).st = .parked) : (w.releaseMask k).lane L = (w.lane L).resume := by
  have hc : (inMask (w.prk.getD k 0) L && (w.lane L).st == .parked) = true := by rw [hp, hst]; rfl
  rw [Wave.releaseMask_of_complete hk]
  exact (w.resumeLanes_lane _ hL).trans (if_pos hc)

theorem Wave.releaseMask_lane_kept {w : Wave} {k L : Nat} (hL : L < 32)
    (h : ¬((w.lane L).st = .parked ∧ w.Complete k ∧ inMask (w.prk.getD k 0) L = true)) : (w.releaseMask k).lane L = w.lane L := by
  by_cases hk : w.Complete k
  · have hc : ¬(inMask (w.prk.getD k 0) L && (w.lane L).st == .parked) = true := fun hc => by
      rw [Bool.and_eq_true, beq_iff_eq] at hc
      exact h ⟨hc.2, hk, hc.1⟩
    rw [Wave.releaseMask_of_complete hk]
    exact (w.resumeLanes_lane _ hL).trans (if_neg hc)
  · rw [Wave.releaseMask_of_not hk]

/-- What the tests of the first `n` masks have made of a wave: the complete ones among them are empty, and the lanes that these freed go on. -/
structure Wave.Released (n : Nat) (w v : Wave) : Prop where
  out : ∀ j, j < n → w.Complete j → v.enr.getD j 0 = 0 ∧ v.prk.getD j 0 = 0
  kept : ∀ j, ¬(j < n ∧ w.Complete j) → v.enr.getD j 0 = w.enr.getD j 0 ∧ v.prk.getD j 0 = w.prk.getD j 0
  freed : ∀ L, L < 32 → w.Freed n L → v.lane L = (w.lane L).resume
  stay : ∀ L, L < 32 → ¬w.Freed n L → v.lane L = w.lane L

theorem Wave.Freed.mono {w : Wave} {m n L : Nat} (h : w.Freed m L) (hmn : m ≤ n) : w.Freed n L :=
  ⟨h.1, h.2.imp fun _ hj => ⟨hj.1.trans_le hmn, hj.2⟩⟩

/-- The test of one more mask: it finds this mask as the wave had it, and a lane that an earlier mask freed is no longer parked. -/
theorem Wave.Released.succ {n : Nat} {w v : Wave} (h : Wave.Released n w v) : Wave.Released (n + 1) w (v.releaseMask n) := by
  obtain ⟨henr, hprk⟩ := h.kept n fun hn => Nat.lt_irrefl n hn.1
  have hcomplete : v.Complete n ↔ w.Complete n := by rw [Wave.Complete, Wave.Complete, henr, hprk]
  refine ⟨fun j hj hc => ?_, fun j hj => ?_, fun L hL hf => ?_, fun L hL hf => ?_⟩
  · by_cases hjn : j = n
    · subst hjn
      exact Wave.releaseMask_masks_same (hcomplete.mpr hc)
    · obtain ⟨he, hp⟩ := v.releaseMask_masks_other hjn
      rw [he, hp]
      exact h.out j (by omega) hc
  · by_cases hjn : j = n
    · subst hjn
      rw [Wave.releaseMask_of_not fun hc => hj ⟨Nat.lt_succ_self j, hcomplete.mp hc⟩]
      exact ⟨henr, hprk⟩
    · obtain ⟨he, hp⟩ := v.releaseMask_masks_other hjn
      rw [he, hp]
      exact h.kept j fun hc => hj ⟨by omega, hc.2⟩
  · by_cases hn : w.Freed n L
    · have hv := h.freed L hL hn
      rw [Wave.releaseMask_lane_kept hL fun hc => ?_, hv]
      rw [hv] at hc
      exact LaneSt.noConfusion hc.1
    · have hv := h.stay L hL hn
      obtain ⟨hst, j, hj, hc, hp⟩ := hf
      have hjn : j = n := by
        by_contra hne
        exact hn ⟨hst, j, by omega, hc, hp⟩
      subst hjn
      rw [Wave.releaseMask_lane_freed hL (hcomplete.mpr hc) (by rwa [hprk]) (by rwa [hv]), hv]
  · have hv := h.stay L hL fun hn => hf (hn.mono n.le_succ)
    rw [Wave.releaseMask_lane_kept hL fun hc => ?_, hv]
    rw [hv, hcomplete, hprk] at hc
    exact hf ⟨hc.1, n, Nat.lt_succ_self n, hc.2⟩

theorem Wave.foldl_releaseMask (w : Wave) (n : Nat) : Wave.Released n w ((List.range n).foldl Wave.releaseMask w) := by
  induction n with
  | zero =>
    refine ⟨fun j hj => absurd hj (Nat.not_lt_zero j), fun _ _ => ⟨rfl, rfl⟩, fun L _ hf => ?_, fun _ _ _ => rfl⟩
    obtain ⟨-, j, hj, -⟩ := hf
    exact absurd hj (Nat.not_lt_zero j)
  | succ n ih =>
    rw [List.range_succ, List.foldl_append]
    exact ih.succ

/-- The release test of all eight masks. -/
theorem Wave.rejoinTest_released (w : Wave) : Wave.Released 8 w w.rejoinTest := by
  rw [Wave.rejoinTest_eq]
  exact w.foldl_releaseMask 8

/-! ## An instruction without results -/

/-- It leaves the wave's rejoin masks, its loop registers and its hold as they were. -/
theorem State.done_control {s : State} (h : Issuing s) : s.done.wv.enr = s.wv.enr ∧ s.done.wv.prk = s.wv.prk ∧ s.done.wv.idx = s.wv.idx ∧
    s.done.wv.trip = s.wv.trip ∧ s.done.wv.hold = s.wv.hold ∧ s.done.wv.passTurn = s.wv.passTurn ∧ s.done.wv.starve = 0 := by
  have hwave : WaveOn s.wv s.done.wv := (State.finish_only s (fun _ => []) 0 h fun _ _ => le_refl _).wave
  rw [WaveOn] at hwave
  rw [hwave]
  exact ⟨rfl, rfl, rfl, rfl, rfl, rfl, rfl⟩

/-- Where no register is named, no lane has one written. -/
theorem Wave.deliver_lane_of_no_dsts (w : Wave) {s : State} (h : s.issue.dsts = []) (res : Nat → List Val) (L : Nat) :
    (w.deliver s res).lane L = w.lane L := by
  rw [Wave.deliver, h]
  split <;> rfl

theorem State.done_lane {s : State} (h : Issuing s) (hd : s.issue.dsts = []) {L : Nat} (hL : L < 32) :
    s.done.wv.lane L = if inMask s.issue.mask L then (s.wv.lane L).goOn s.issue.next else s.wv.lane L := by
  rw [State.done, State.finish_wv s _ h.1, Wave.issued_lane, Wave.deliver_lane_of_no_dsts _ hd, Wave.mapLanes_lane _ _ hL]
  rfl

theorem State.done_updWv_wv {s : State} (hs : s.issue.wave < s.waves.length) (f : Wave → Wave) : (s.done.updWv f).wv = f s.done.wv :=
  State.updWv_wv s.done f ((updAt_length ..).symm ▸ hs)

/-- A change of the wave besides its place and counts, which `restore` takes back. -/
theorem State.done_updWv_only {s : State} (h : Issuing s) {f restore : Wave → Wave} (hr : restore (f s.done.wv) = s.done.wv) :
    ResultsOnly s ((s.done.updWv f).updWv restore) 0 := by
  rw [State.updWv_updWv, State.updWv_fixed hr]
  exact State.finish_only s _ 0 h fun _ _ => le_refl _

/-- The issuing wave after lanes of it have parked. -/
theorem State.park_wv {s : State} (hs : s.issue.wave < s.waves.length) (m : Mask) (x : Nat → Wait) : (s.park m x).wv =
    (s.wv.mapLanes fun L l => if inMask m L then { l with st := .parked, wait := x L, after := s.after } else l).issued :=
  State.updWv_wv s _ hs

theorem State.park_masks {s : State} (hs : s.issue.wave < s.waves.length) (m : Mask) (x : Nat → Wait) :
    (s.park m x).wv.enr = s.wv.enr ∧ (s.park m x).wv.prk = s.wv.prk := by
  rw [State.park_wv hs]
  exact ⟨rfl, rfl⟩

theorem State.park_lane {s : State} (hs : s.issue.wave < s.waves.length) (m : Mask) (x : Nat → Wait) {L : Nat} (hL : L < 32) :
    (s.park m x).wv.lane L = if inMask m L then { s.wv.lane L with st := .parked, wait := x L, after := s.issue.next } else s.wv.lane L := by
  rw [State.park_wv hs, Wave.issued_lane, Wave.mapLanes_lane _ _ hL]
  rfl

theorem State.updWave_fixed {s : State} {i : Nat} {f : Wave → Wave} (h : f (s.waveAt i) = s.waveAt i) : s.updWave i f = s :=
  congrArg (fun ws => ({ s with waves := ws } : State)) (updAt_fixed s.waves i f default h)

/-! ## Loop registers (R153, R154) -/

theorem execLpbeg_spatial {s : State} {k : BitVec 30} (h : (s.loopLevel k.toNat).kind ≠ 0) : exec (.lpbeg k) s = .next s.done :=
  congrArg Host.Outcome.next (if_pos h)
theorem execLpend_spatial {s : State} {k : BitVec 30} (h : (s.loopLevel k.toNat).kind ≠ 0) : exec (.lpend k) s = .next s.done :=
  congrArg Host.Outcome.next (if_pos h)
theorem execLpbeg_temporal {s : State} {k : BitVec 30} (h : (s.loopLevel k.toNat).kind = 0) : exec (.lpbeg k) s = .next (s.done.updWv fun w =>
    { w with idx := updAt w.idx k.toNat fun _ => 0, trip := updAt w.trip k.toNat fun _ => w32 (s.tripVal (s.loopLevel k.toNat)) }) :=
  congrArg Host.Outcome.next (if_neg (not_not.mpr h))
theorem execLpend_temporal {s : State} {k : BitVec 30} (h : (s.loopLevel k.toNat).kind = 0) :
    exec (.lpend k) s = .next (s.done.updWv fun w => { w with idx := updAt w.idx k.toNat (· + 1) }) :=
  congrArg Host.Outcome.next (if_neg (not_not.mpr h))

theorem execLpidx_test (s : State) (k : BitVec 30) : exec (.lpidx tyB1 k) s = .next (s.put fun _ =>
    valOfBool ((s.loopLevel k.toNat).kind != 0 || decide ((s.wv.idx.getD k.toNat 0).toNat < (s.wv.trip.getD k.toNat 0).toNat))) :=
  congrArg (fun f => Host.Outcome.next (s.put f)) (funext fun _ => if_pos rfl)
theorem execLpidx_coord {s : State} {k : BitVec 30} (h : (s.loopLevel k.toNat).kind ≠ 0) :
    exec (.lpidx tyN32 k) s = .next (s.put fun _ => BitVec.ofNat 256 (s.loopCoord k.toNat)) :=
  congrArg (fun f => Host.Outcome.next (s.put f)) (funext fun _ => (if_neg (by decide)).trans (if_pos h))
theorem execLpidx_index {s : State} {k : BitVec 30} (h : (s.loopLevel k.toNat).kind = 0) :
    exec (.lpidx tyN32 k) s = .next (s.put fun _ => (s.wv.idx.getD k.toNat 0).setWidth 256) :=
  congrArg (fun f => Host.Outcome.next (s.put f)) (funext fun _ => (if_neg (by decide)).trans (if_neg (not_not.mpr h)))

theorem valOfBool_eq_one (b : Bool) : valOfBool b = 1 ↔ b = true := by cases b <;> decide
theorem valOfBool_le_one (b : Bool) : (valOfBool b).toNat ≤ 1 := by cases b <;> decide

/-- A temporal level goes on while its index is below its trip count. -/
theorem lpidx_tests {s : State} {k : BitVec 30} (hs : Issuing s) (h : (s.loopLevel k.toNat).kind = 0) : Gives (.lpidx tyB1 k) s fun _ d =>
    (d = 1 ↔ (s.wv.idx.getD k.toNat 0).toNat < (s.wv.trip.getD k.toNat 0).toNat) ∧ d.toNat ≤ 1 := by
  refine gives_put (execLpidx_test s k) hs fun _ _ => ⟨?_, valOfBool_le_one _⟩
  rw [valOfBool_eq_one, h]
  exact decide_eq_true_iff

/-- A spatial level has one turn for each workgroup. -/
theorem lpidx_goes_on {s : State} {k : BitVec 30} (hs : Issuing s) (h : (s.loopLevel k.toNat).kind ≠ 0) : Gives (.lpidx tyB1 k) s fun _ d => d = 1 := by
  refine gives_put (execLpidx_test s k) hs fun _ _ => (valOfBool_eq_one _).mpr ?_
  rw [bne_iff_ne.mpr h, Bool.true_or]

theorem w32_tripVal (s : State) (l : LoopLevel) : w32 (s.tripVal l) = BitVec.ofNat 32 (s.uniNat tyN32 l.trip) := by
  simp [w32, State.tripVal, ← BitVec.toNat_inj]

/-! ## Yield (R157) -/

theorem yield_holds {s : State} (h : Issuing s) : ∃ t, exec .yield s = .next t ∧ t.wv.starve = 0 ∧ t.wv.hold = s.cycle + 6 ∧
    ResultsOnly s (t.updWv fun v => { v with hold := s.wv.hold, passTurn := s.wv.passTurn }) 0 := by
  have hwv := State.done_updWv_wv h.1 fun w => { w with hold := s.cycle + 6, starve := 0, passTurn := s.ordered }
  obtain ⟨-, -, -, -, hhold, hturn, hstarve⟩ := State.done_control h
  refine ⟨_, rfl, congrArg Wave.starve hwv, congrArg Wave.hold hwv, State.done_updWv_only h ?_⟩
  rw [← hhold, ← hturn, ← hstarve]

theorem yieldHoldEnd_waits {s : State} {w : Nat} (h : (s.waveAt w).hold = 0 ∨ s.cycle + 1 < (s.waveAt w).hold) :
    exec (.yieldHoldEnd w) s = .next (s.updWave w id) := by
  have hnot : ¬((s.waveAt w).hold ≠ 0 ∧ (s.waveAt w).hold ≤ s.cycle + 1) := by omega
  rw [State.updWave_fixed (f := id) rfl]
  exact congrArg Host.Outcome.next (State.updWave_fixed (if_neg hnot))

theorem yieldHoldEnd_ends {s : State} {w : Nat} (hw : w < s.waves.length) (hne : (s.waveAt w).hold ≠ 0) (hle : (s.waveAt w).hold ≤ s.cycle + 1) :
    ∃ t, exec (.yieldHoldEnd w) s = .next t ∧ t.waveAt w = { s.waveAt w with hold := 0 } ∧ t = { s with waves := t.waves } :=
  ⟨_, rfl, (State.updWave_at s w _ hw).trans (if_pos ⟨hne, hle⟩), rfl⟩

/-! ## The instructions together -/

/-- Settles O18: enrolling, striking and parking each end in the release test, which `Wave.rejoinTest_released` gives mask by mask and lane by lane;
the loop registers, `lpidx` and `yield` are changes over an instruction that completes. -/
theorem rejoinMasksAndLoops : Obligations.RejoinMasksAndLoops := by
  constructor
  · intro s k hiss hd hk henr hprk a E P at_ on settles
    have hsettles : ∀ (i : Instr) (u : State) (f g : Wave → Wave) (E' P' : Nat → Mask) (own : Nat → Lane), u = s.updWv f →
        exec i s = .next (u.updWv fun w => (g w).rejoinTest) → (∀ j, (g u.wv).enr.getD j 0 = E' j) → (∀ j, (g u.wv).prk.getD j 0 = P' j) →
        (∀ L, L < 32 → (g u.wv).lane L = if inMask a L then own L else s.wv.lane L) → settles i E' P' own := by
      rintro i u f g E' P' own rfl hexec hE hP hlane
      obtain rfl : _ = E' := funext hE
      obtain rfl : _ = P' := funext hP
      have hrel := (g (s.updWv f).wv).rejoinTest_released
      have hwv := State.updWv_wv (s.updWv f) (fun w => (g w).rejoinTest) ((updAt_length ..).symm ▸ hiss.1)
      refine ⟨_, hexec, rfl, fun j hj => (State.updWv_other (s.updWv f) _ hj).trans (State.updWv_other s f hj), ?_⟩
      rw [hwv]
      refine ⟨fun j hj => ⟨hrel.out j hj, fun hc => hrel.kept j fun h => hc h.2⟩, fun L hL => ?_⟩
      rw [← hlane L hL]
      exact ⟨hrel.freed L hL, hrel.stay L hL⟩
    obtain ⟨henr', hprk', -⟩ := State.done_control hiss
    have hmask : ∀ (l : List Mask) (f : Mask → Mask) (j : Nat), l.length = 8 → (updAt l k.toNat f).getD j 0 = at_ j (f (l.getD j 0)) (l.getD j 0) :=
      fun l f j hl => updAt_getD l k.toNat j f 0 (hl ▸ hk)
    have hmasks : ∀ (i : Instr) (f : Mask → Mask),
        exec i s = .next (s.done.updWv fun w => ({ w with enr := updAt w.enr k.toNat f } : Wave).rejoinTest) →
        settles i (fun j => at_ j (f (E j)) (E j)) P on := fun i f hexec =>
      hsettles i s.done _ (fun w => { w with enr := updAt w.enr k.toNat f }) _ _ _ rfl hexec (fun j => henr' ▸ hmask _ _ j henr)
        (fun j => congrArg (·.getD j 0) hprk') fun L hL => State.done_lane hiss hd hL
    refine ⟨hmasks _ (· ||| a) rfl, hmasks _ (· &&& ~~~a) rfl, fun hall => ?wait, fun hsome => congrArg Host.Outcome.next (if_pos hsome)⟩
    case wait =>
      obtain ⟨hparkE, hparkP⟩ := State.park_masks hiss.1 a fun _ => .rejoin k.toNat
      refine hsettles _ (s.park a fun _ => .rejoin k.toNat) _ (fun w => { w with prk := updAt w.prk k.toNat (· ||| a) }) _ _ _ rfl
        (congrArg Host.Outcome.next (if_neg (not_not.mpr hall))) (fun j => ?_) (fun j => ?_) fun L hL => State.park_lane hiss.1 a _ hL
      · exact congrArg (·.getD j 0) hparkE
      · exact hparkP ▸ hmask _ _ j hprk
  · intro s k w hiss hidx htrip lv idx trip sets
    obtain ⟨-, -, hidx', htrip', -⟩ := State.done_control hiss
    have hsets : ∀ (i : Instr) (f : Wave → Wave) (x y : Nat → Word), exec i s = .next (s.done.updWv f) →
        (∀ v, ({ f v with idx := v.idx, trip := v.trip } : Wave) = v) → (∀ j, (f s.done.wv).idx.getD j 0 = x j) →
        (∀ j, (f s.done.wv).trip.getD j 0 = y j) → sets i x y := by
      intro i f x y hexec hf hx hy
      have hrestore : ({ f s.done.wv with idx := s.wv.idx, trip := s.wv.trip } : Wave) = s.done.wv := by
        rw [← hidx', ← htrip', hf]
      refine ⟨_, hexec, State.done_updWv_only hiss hrestore, fun j _ => ?_⟩
      rw [State.done_updWv_wv hiss.1]
      exact ⟨hx j, hy j⟩
    refine ⟨?mask, fun hne => ⟨passes_done (execLpbeg_spatial hne) hiss, passes_done (execLpend_spatial hne) hiss⟩, fun h0 hk => ⟨?begin, ?step⟩,
      fun h0 => ⟨?index, lpidx_tests hiss h0⟩, fun hne => ⟨?coord, lpidx_goes_on hiss hne⟩, yield_holds hiss, yieldHoldEnd_waits, yieldHoldEnd_ends⟩
    case mask => exact gives_put rfl hiss fun _ _ => BitVec.toNat_setWidth_of_le (by omega)
    case begin =>
      refine hsets _ _ _ _ (execLpbeg_temporal h0) (fun _ => rfl) (fun j => ?_) fun j => ?_
      · rw [hidx']; exact updAt_getD _ _ j _ 0 (hidx ▸ hk)
      · rw [htrip', w32_tripVal]; exact updAt_getD _ _ j _ 0 (htrip ▸ hk)
    case step =>
      refine hsets _ _ _ _ (execLpend_temporal h0) (fun _ => rfl) (fun j => ?_) fun j => congrArg (·.getD j 0) htrip'
      rw [hidx']; exact updAt_getD _ _ j _ 0 (hidx ▸ hk)
    case index => exact gives_put (execLpidx_index h0) hiss fun _ _ => BitVec.toNat_setWidth_of_le (by omega)
    case coord => exact gives_put (execLpidx_coord hne) hiss fun _ _ => BitVec.toNat_ofNat ..

end Sys2Proof.Machine
end

section
/-! The arithmetic instructions: results element by element, within the limits of an element (05_integer.md R161, R162). -/
namespace Sys2Proof.Machine
open Sys2Proof Sys2Proof.Safety

/-! ## Element functions over the operands -/

section Elements
variable {i : Instr} {s : State} {ty : Ty} {P : Nat → Nat → Nat → Prop}

/-- An instruction that applies an element function to one operand; the function gives bits of the element. -/
theorem byElement_map1 {a : Opnd} {f : Nat → Elem → Nat → Nat} (hi : exec i s = .next (s.put fun L => map1 ty (f L) (s.opnd ty a L))) (h : Issuing s)
    (hf : ∀ L j, f L (Ty.elem ty) (s.el ty a L j) < 2 ^ (Ty.elem ty).width) (hP : ∀ L j, P L j (f L (Ty.elem ty) (s.el ty a L j))) : ByElement i s ty P :=
  byElement_put (f := fun L j => f L (Ty.elem ty) (s.el ty a L j)) hi h fun L j _ _ => (Nat.mod_eq_of_lt (hf L j)).symm ▸ hP L j

theorem byElement_map2 {a b : Opnd} {f : Nat → Elem → Nat → Nat → Nat}
    (hi : exec i s = .next (s.put fun L => map2 ty (f L) (s.opnd ty a L) (s.opnd ty b L))) (h : Issuing s)
    (hf : ∀ L j, f L (Ty.elem ty) (s.el ty a L j) (s.el ty b L j) < 2 ^ (Ty.elem ty).width)
    (hP : ∀ L j, P L j (f L (Ty.elem ty) (s.el ty a L j) (s.el ty b L j))) : ByElement i s ty P :=
  byElement_put (f := fun L j => f L (Ty.elem ty) (s.el ty a L j) (s.el ty b L j)) hi h fun L j _ _ => (Nat.mod_eq_of_lt (hf L j)).symm ▸ hP L j

theorem byElement_map3 {a b c : Opnd} {f : Elem → Nat → Nat → Nat → Nat}
    (hi : exec i s = .next (s.put fun L => map3 ty f (s.opnd ty a L) (s.opnd ty b L) (s.opnd ty c L))) (h : Issuing s)
    (hf : ∀ L j, f (Ty.elem ty) (s.el ty a L j) (s.el ty b L j) (s.el ty c L j) < 2 ^ (Ty.elem ty).width)
    (hP : ∀ L j, P L j (f (Ty.elem ty) (s.el ty a L j) (s.el ty b L j) (s.el ty c L j))) : ByElement i s ty P :=
  byElement_put (f := fun L j => f (Ty.elem ty) (s.el ty a L j) (s.el ty b L j) (s.el ty c L j)) hi h fun L j _ _ =>
    (Nat.mod_eq_of_lt (hf L j)).symm ▸ hP L j

end Elements

/-! ## The limits of an element -/

theorem Elem.two_pow_width (e : Elem) : (2 : Int) ^ e.width = 2 * 2 ^ (e.width - 1) := by
  rw [← pow_succ', Nat.sub_add_cancel (Elem.width_pos e)]

theorem eLimits_signed {e : Elem} (h : e.signed = true) : eMin e = -2 ^ (e.width - 1) ∧ eMax e = 2 ^ (e.width - 1) - 1 :=
  ⟨if_pos h, if_pos h⟩
theorem eLimits_unsigned {e : Elem} (h : ¬e.signed = true) : eMin e = 0 ∧ eMax e = 2 ^ e.width - 1 := ⟨if_neg h, if_neg h⟩

theorem eMin_nonpos (e : Elem) : eMin e ≤ 0 := by cases e <;> decide
theorem eMax_nonneg (e : Elem) : 0 ≤ eMax e := by cases e <;> decide
theorem eMin_le_eMax (e : Elem) : eMin e ≤ eMax e := (eMin_nonpos e).trans (eMax_nonneg e)

/-- The upper half of a product of two elements lies within the limits. -/
theorem mulhi_bounds {e : Elem} {x y : Int} (hx : eMin e ≤ x ∧ x ≤ eMax e) (hy : eMin e ≤ y ∧ y ≤ eMax e) :
    eMin e ≤ x * y / 2 ^ e.width ∧ x * y / 2 ^ e.width ≤ eMax e := by
  have hpos : (0 : Int) < 2 ^ (e.width - 1) := by positivity
  rw [Int.le_ediv_iff_mul_le (by positivity), ← Int.lt_add_one_iff (b := eMax e), Int.ediv_lt_iff_lt_mul (by positivity), Elem.two_pow_width e]
  by_cases h : e.signed = true
  · obtain ⟨hmin, hmax⟩ := eLimits_signed h
    have hprod : |x * y| ≤ 2 ^ (e.width - 1) * 2 ^ (e.width - 1) := by
      rw [abs_mul]
      exact mul_le_mul (abs_le.mpr ⟨by omega, by omega⟩) (abs_le.mpr ⟨by omega, by omega⟩) (abs_nonneg y) hpos.le
    obtain ⟨h1, h2⟩ := abs_le.mp hprod
    rw [hmin, hmax]
    constructor <;> nlinarith
  · obtain ⟨hmin, hmax⟩ := eLimits_unsigned h
    rw [Elem.two_pow_width e] at hmax
    have hnonneg : 0 ≤ x * y := mul_nonneg (by omega) (by omega)
    have hle : x * y ≤ eMax e * eMax e := mul_le_mul hx.2 hy.2 (by omega) (eMax_nonneg e)
    rw [hmin]
    exact ⟨by omega, by nlinarith⟩

theorem clamp_bounds (e : Elem) (x : Int) : eMin e ≤ max (eMin e) (min (eMax e) x) ∧ max (eMin e) (min (eMax e) x) ≤ eMax e :=
  ⟨le_max_left .., max_le (eMin_le_eMax e) (min_le_left ..)⟩

/-! ## The integers of the results -/

theorem toI_iMulhi {e : Elem} {a b : Nat} (ha : a < 2 ^ e.width) (hb : b < 2 ^ e.width) : toI e (iMulhi e a b) = toI e a * toI e b / 2 ^ e.width :=
  have ⟨h1, h2⟩ := mulhi_bounds (toI_bounds e ha) (toI_bounds e hb)
  toI_wrapI e h1 h2

theorem satI_eq (e : Elem) (x : Int) : satI e x = wrapI e.width (max (eMin e) (min (eMax e) x)) := by
  have hle := eMin_le_eMax e
  unfold satI
  congr 1
  split
  · omega
  · split <;> omega

/-- Saturation clamps to the limits (R10). -/
theorem toI_satI (e : Elem) (x : Int) : toI e (satI e x) = max (eMin e) (min (eMax e) x) := by
  rw [satI_eq, toI_wrapI e (clamp_bounds e x).1 (clamp_bounds e x).2]

theorem satI_lt (e : Elem) (x : Int) : satI e x < 2 ^ e.width := wrapI_lt ..

theorem toI_iMin (e : Elem) (a b : Nat) : toI e (iMin e a b) = min (toI e a) (toI e b) := by
  rw [iMin, apply_ite (toI e), min_def]

theorem toI_iMax (e : Elem) (a b : Nat) : toI e (iMax e a b) = max (toI e a) (toI e b) := by
  rw [iMax, apply_ite (toI e), max_comm, max_def]

theorem ite_lt {p : Prop} [Decidable p] {a b n : Nat} (ha : a < n) (hb : b < n) : (if p then a else b) < n := by
  split <;> assumption

/-! ## The instructions together -/

/-- Settles O1: each instruction is an element function; a wrapped result stands for the exact one modulo 2^w, the others lie within the limits. -/
theorem integerArithmetic : Obligations.IntegerArithmetic := by
  intro s ty a b c h w x v lo hi
  have hlt : ∀ o L j, s.el ty o L j < 2 ^ w := s.el_lt ty
  have wraps : ∀ z : Int, wrapI w z < 2 ^ w := wrapI_lt w
  refine ⟨?add, ?sub, ?mul, ?mad, ?neg, ?mulhi, ?abs, ?min, ?max, ?addsat, ?subsat⟩
  case add => exact byElement_map2 rfl h (fun _ _ => wraps _) fun _ _ => wrapI_modEq ..
  case sub => exact byElement_map2 rfl h (fun _ _ => wraps _) fun _ _ => wrapI_modEq ..
  case mul => exact byElement_map2 rfl h (fun _ _ => wraps _) fun _ _ => wrapI_modEq ..
  case mad => exact byElement_map3 rfl h (fun _ _ => wraps _) fun _ _ => wrapI_modEq ..
  case neg => exact byElement_map1 rfl h (fun _ _ => wraps _) fun _ _ => wrapI_modEq ..
  case mulhi => exact byElement_map2 rfl h (fun _ _ => wraps _) fun _ _ => toI_iMulhi (hlt ..) (hlt ..)
  case abs =>
    refine byElement_map1 rfl h (fun _ _ => ite_lt (wraps _) (hlt ..)) fun L j => ?_
    by_cases hneg : x a L j < 0
    · rw [if_pos hneg, iAbs, if_pos hneg]
      exact wrapI_modEq ..
    · rw [if_neg hneg, iAbs, if_neg hneg]
  case min => exact byElement_map2 rfl h (fun _ _ => ite_lt (hlt ..) (hlt ..)) fun _ _ => toI_iMin ..
  case max => exact byElement_map2 rfl h (fun _ _ => ite_lt (hlt ..) (hlt ..)) fun _ _ => toI_iMax ..
  case addsat => exact byElement_map2 rfl h (fun _ _ => satI_lt ..) fun _ _ => toI_satI ..
  case subsat => exact byElement_map2 rfl h (fun _ _ => satI_lt ..) fun _ _ => toI_satI ..

end Sys2Proof.Machine
end

section
/-! Division and remainder, sums and differences with carry and borrow (05_integer.md R163, R164). -/
namespace Sys2Proof.Machine
open Sys2Proof Sys2Proof.Safety

/-! ## Quotients and remainders within the limits -/

/-- A quotient lies within the limits, but for the smallest element by −1. -/
theorem tdiv_bounds {e : Elem} {x y : Int} (hx : eMin e ≤ x ∧ x ≤ eMax e) (hy : eMin e ≤ y) (hy0 : y ≠ 0)
    (hcorner : ¬(e.signed = true ∧ x = eMin e ∧ y = -1)) : eMin e ≤ x.tdiv y ∧ x.tdiv y ≤ eMax e := by
  by_cases h : e.signed = true
  · obtain ⟨hmin, hmax⟩ := eLimits_signed h
    by_cases h1 : y = -1
    · have hne : x ≠ eMin e := fun hx => hcorner ⟨h, hx, h1⟩
      rw [h1, Int.tdiv_neg, Int.tdiv_one]
      omega
    · have hpos : (0 : Int) < 2 ^ (e.width - 1) := by positivity
      by_cases h2 : y = 1
      · rwa [h2, Int.tdiv_one]
      · have hhalf : (x.tdiv y).natAbs ≤ x.natAbs / 2 := (Int.natAbs_tdiv x y).trans_le (Nat.div_le_div_left (by omega) (by omega))
        omega
  · obtain ⟨hmin, -⟩ := eLimits_unsigned h
    rw [hmin] at hx hy ⊢
    exact ⟨Int.tdiv_nonneg hx.1 hy, (Int.tdiv_le_self y hx.1).trans hx.2⟩

/-- A remainder lies between 0 and the dividend. -/
theorem tmod_bounds {e : Elem} {x : Int} (hx : eMin e ≤ x ∧ x ≤ eMax e) (y : Int) : eMin e ≤ x.tmod y ∧ x.tmod y ≤ eMax e := by
  have hmin := eMin_nonpos e
  have hmax := eMax_nonneg e
  have hle : x.natAbs % y.natAbs ≤ x.natAbs := Nat.mod_le ..
  rw [← Int.natAbs_tmod] at hle
  rcases le_total 0 x with h0 | h0
  · have := Int.tmod_nonneg y h0
    omega
  · have := Int.tmod_nonneg y (Int.neg_nonneg_of_nonpos h0)
    rw [Int.neg_tmod] at this
    omega

theorem toI_zero (e : Elem) : toI e 0 = 0 := by cases e <;> decide

/-! ## The three cases of R163 -/

section Division
variable {e : Elem} {a b : Nat}

theorem divRem_zero (h : b = 0) : divRem e a b = (2 ^ e.width - 1, a) := if_pos h

theorem divRem_corner (h : e.signed = true ∧ toI e a = eMin e ∧ toI e b = -1) : divRem e a b = (a, 0) := by
  have hb : b ≠ 0 := fun hb => by
    rw [hb, toI_zero] at h
    exact absurd h.2.2 (by decide)
  exact (if_neg hb).trans (if_pos h)

theorem divRem_exact (hb : b ≠ 0) (h : ¬(e.signed = true ∧ toI e a = eMin e ∧ toI e b = -1)) :
    divRem e a b = (wrapI e.width ((toI e a).tdiv (toI e b)), wrapI e.width (toI e a - (toI e a).tdiv (toI e b) * toI e b)) :=
  (if_neg hb).trans (if_neg h)

theorem divRem_lt (e : Elem) {a : Nat} (b : Nat) (ha : a < 2 ^ e.width) : (divRem e a b).1 < 2 ^ e.width ∧ (divRem e a b).2 < 2 ^ e.width := by
  by_cases hb : b = 0
  · rw [divRem_zero hb]
    exact ⟨Nat.sub_lt (by positivity) Nat.one_pos, ha⟩
  · by_cases hcorner : e.signed = true ∧ toI e a = eMin e ∧ toI e b = -1
    · rw [divRem_corner hcorner]
      exact ⟨ha, by positivity⟩
    · rw [divRem_exact hb hcorner]
      exact ⟨wrapI_lt .., wrapI_lt ..⟩

theorem toI_ne_zero (hb : b < 2 ^ e.width) (h : b ≠ 0) : toI e b ≠ 0 := fun h0 => h <| by
  rw [← wrapI_toI e hb, h0, ← toI_zero e, wrapI_toI e (by positivity)]

theorem toI_divRem (ha : a < 2 ^ e.width) (hb : b < 2 ^ e.width) (h0 : b ≠ 0) (h : ¬(e.signed = true ∧ toI e a = eMin e ∧ toI e b = -1)) :
    toI e (divRem e a b).1 = (toI e a).tdiv (toI e b) ∧ toI e (divRem e a b).2 = toI e a - (toI e a).tdiv (toI e b) * toI e b := by
  have hrem : toI e a - (toI e a).tdiv (toI e b) * toI e b = (toI e a).tmod (toI e b) := by rw [Int.tmod_def, mul_comm]
  obtain ⟨hq1, hq2⟩ := tdiv_bounds (toI_bounds e ha) (toI_bounds e hb).1 (toI_ne_zero hb h0) h
  obtain ⟨hr1, hr2⟩ := tmod_bounds (toI_bounds e ha) (toI e b)
  rw [divRem_exact h0 h, hrem]
  exact ⟨toI_wrapI e hq1 hq2, toI_wrapI e hr1 hr2⟩

end Division

/-! ## Carry and borrow -/

theorem Elem.width_le (e : Elem) : e.width ≤ 64 := by cases e <;> decide

/-- A number of at most 256 bits is what a value that holds it reads as. -/
theorem toNat_ofNat_of_lt {n w : Nat} (h : n < 2 ^ w) (hw : w ≤ 256) : (BitVec.ofNat 256 n).toNat = n :=
  (BitVec.toNat_ofNat ..).trans (Nat.mod_eq_of_lt (h.trans_le (Nat.pow_le_pow_right (by decide) hw)))

theorem valOfBool_decide (p : Prop) [Decidable p] : (valOfBool (decide p)).toNat = if p then 1 else 0 := by
  by_cases h : p
  · rw [decide_eq_true h, if_pos h]; rfl
  · rw [decide_eq_false h, if_neg h]; rfl

theorem add_with_carry {m x y c : Nat} (hx : x < m) (hy : y < m) (hc : c < 2) :
    (x + y + c) % m + m * (valOfBool (decide (m ≤ x + y + c))).toNat = x + y + c := by
  rw [valOfBool_decide]
  split
  · next h => rw [Nat.mod_eq_sub_mod h, Nat.mod_eq_of_lt (by omega)]; omega
  · next h => rw [Nat.mod_eq_of_lt (by omega)]; omega

theorem sub_with_borrow {w x y c : Nat} (hx : x < 2 ^ w) (hy : y < 2 ^ w) (hc : c < 2) :
    ((wrapI w (x - y - c : Int) : Nat) : Int) = x - y - c + 2 ^ w * (valOfBool (decide ((x - y - c : Int) < 0))).toNat := by
  have hx' : (x : Int) < 2 ^ w := by exact_mod_cast hx
  have hy' : (y : Int) < 2 ^ w := by exact_mod_cast hy
  rw [wrapI_cast, valOfBool_decide]
  split
  · rw [← Int.add_emod_right, Int.emod_eq_of_lt (by omega) (by omega)]
    simp
  · rw [Int.emod_eq_of_lt (by omega) (by omega)]
    simp

/-! ## The instructions together -/

/-- Settles O2: the three cases of a division, each with its quotient and remainder within the limits; the sum and the difference of R164 leave the
range of an element by one carry or borrow. -/
theorem carriesAndDivision : Obligations.CarriesAndDivision := by
  constructor
  · intro s ty a b h e x corner
    refine ⟨?div, ?rem⟩
    case div =>
      refine byElement_map2 rfl h (fun L j => (divRem_lt e _ (s.el_lt ..)).1) fun L j => ⟨fun h0 => ?_, fun hc => ?_, fun h0 hc => ?_⟩
      · exact congrArg Prod.fst (divRem_zero h0)
      · exact congrArg Prod.fst (divRem_corner hc)
      · exact (toI_divRem (s.el_lt ..) (s.el_lt ..) h0 hc).1
    case rem =>
      refine byElement_map2 rfl h (fun L j => (divRem_lt e _ (s.el_lt ..)).2) fun L j => ⟨fun h0 => ?_, fun hc => ?_, fun h0 hc => ?_⟩
      · exact congrArg Prod.snd (divRem_zero h0)
      · exact congrArg Prod.snd (divRem_corner hc)
      · exact (toI_divRem (s.el_lt ..) (s.el_lt ..) h0 hc).2
  · intro s ty a b c h w x cin
    have hw : w ≤ 256 := (Elem.width_le _).trans (by decide)
    refine ⟨gives2_finish rfl h (fun _ => rfl) fun L _ => ?addc, gives2_finish rfl h (fun _ => rfl) fun L _ => ?subb⟩
    case addc =>
      have hd : (x a L + x b L + cin L) % 2 ^ w < 2 ^ w := Nat.mod_lt _ (by positivity)
      have hsum := toNat_ofNat_of_lt hd hw
      exact ⟨hsum.trans_lt hd, valOfBool_le_one _, (congrArg (· + _) hsum).trans (add_with_carry (s.el_lt ..) (s.el_lt ..) (elemAt_lt ..))⟩
    case subb =>
      have hd : wrapI w (x a L - x b L - cin L : Int) < 2 ^ w := wrapI_lt ..
      have hdiff := toNat_ofNat_of_lt hd hw
      exact ⟨hdiff.trans_lt hd, valOfBool_le_one _, (congrArg Nat.cast hdiff).trans (sub_with_borrow (s.el_lt ..) (s.el_lt ..) (elemAt_lt ..))⟩

end Sys2Proof.Machine
end

section
/-! Logic, shifts and rotations, bit by bit (05_integer.md R165, R166). -/
namespace Sys2Proof.Machine
open Sys2Proof Sys2Proof.Safety

/-! ## Bits of integers modulo 2^w -/

/-- The signed reading of bits is that of the bit vector that they are. -/
theorem toS_eq_toInt {m x : Nat} (h : x < 2 ^ m) : toS m x = (BitVec.ofNat m x).toInt := by
  rw [BitVec.toInt_eq_toNat_cond, BitVec.toNat_ofNat, Nat.mod_eq_of_lt h, toS]
  cases m with
  | zero =>
    obtain rfl : x = 0 := Nat.lt_one_iff.mp h
    rfl
  | succ m =>
    rw [Nat.add_sub_cancel]
    rw [pow_succ] at *
    push_cast
    split <;> split <;> omega

theorem wrapI_eq_ofInt (w : Nat) (z : Int) : wrapI w z = (BitVec.ofInt w z).toNat := by
  rw [BitVec.toNat_ofInt, wrapI]
  push_cast
  rfl

theorem ofNat_testBit {m x : Nat} (h : x < 2 ^ m) (k : Nat) : (BitVec.ofNat m x).getLsbD k = x.testBit k := by
  rw [← BitVec.testBit_toNat, BitVec.toNat_ofNat, Nat.mod_eq_of_lt h]

/-- Bits read as signed and shifted right: above them stands the sign. -/
theorem testBit_shift_signed {w x k : Nat} (h : x < 2 ^ w) (n : Nat) (hk : k < w) :
    (wrapI w (toS w x / 2 ^ n)).testBit k = if k + n < w then x.testBit (k + n) else x.testBit (w - 1) := by
  have hshift : wrapI w (toS w x / 2 ^ n) = ((BitVec.ofNat w x).sshiftRight n).toNat := by
    rw [wrapI_eq_ofInt, toS_eq_toInt h, BitVec.sshiftRight, Int.shiftRight_eq_div_pow]
    norm_cast
  rw [hshift, BitVec.testBit_toNat, BitVec.getLsbD_sshiftRight, BitVec.msb_eq_getLsbD_last, ofNat_testBit h, ofNat_testBit h, Nat.add_comm n k]
  simp [hk]

/-- Bits read as signed and taken to another width: above them stands the sign. -/
theorem testBit_extend_signed {w m x k : Nat} (h : x < 2 ^ m) (hk : k < w) :
    (wrapI w (toS m x)).testBit k = if k < m then x.testBit k else x.testBit (m - 1) := by
  have hextend : wrapI w (toS m x) = ((BitVec.ofNat m x).signExtend w).toNat := by rw [wrapI_eq_ofInt, toS_eq_toInt h, BitVec.signExtend]
  rw [hextend, BitVec.testBit_toNat, BitVec.getLsbD_signExtend, BitVec.msb_eq_getLsbD_last, ofNat_testBit h, ofNat_testBit h]
  simp [hk]

/-! ## Bits of the results -/

section Bits
variable {e : Elem} {x k : Nat}

theorem testBit_of_width_le (h : x < 2 ^ e.width) (hk : e.width ≤ k) : x.testBit k = false :=
  Nat.testBit_lt_two_pow (h.trans_le (Nat.pow_le_pow_right (by decide) hk))

theorem iNot_lt (e : Elem) (x : Nat) : iNot e x < 2 ^ e.width := (Nat.sub_le ..).trans_lt (Nat.sub_lt (by positivity) Nat.one_pos)

theorem testBit_iNot (h : x < 2 ^ e.width) (hk : k < e.width) : (iNot e x).testBit k = !x.testBit k := by
  rw [iNot, Nat.sub_sub, Nat.add_comm 1, Nat.testBit_two_pow_sub_succ h, decide_eq_true hk, Bool.true_and]

theorem iShl_lt (e : Elem) (x n : Nat) : iShl e x n < 2 ^ e.width := ite_lt (by positivity) (Nat.mod_lt _ (by positivity))

theorem testBit_iShl (e : Elem) (x n : Nat) (hk : k < e.width) : (iShl e x n).testBit k = (decide (n ≤ k) && x.testBit (k - n)) := by
  unfold iShl
  split
  · rw [Nat.zero_testBit, decide_eq_false (by omega), Bool.false_and]
  · rw [Nat.testBit_mod_two_pow, decide_eq_true hk, Bool.true_and, Nat.testBit_mul_two_pow]

theorem iShr_lt (h : x < 2 ^ e.width) (n : Nat) : iShr e x n < 2 ^ e.width := ite_lt (by positivity) ((Nat.div_le_self ..).trans_lt h)

theorem testBit_iShr (h : x < 2 ^ e.width) (n k : Nat) : (iShr e x n).testBit k = x.testBit (k + n) := by
  unfold iShr
  split
  · rw [Nat.zero_testBit, testBit_of_width_le h (by omega)]
  · rw [Nat.testBit_div_two_pow]

theorem testBit_iSra (h : x < 2 ^ e.width) (n : Nat) (hk : k < e.width) :
    (iSra e x n).testBit k = if k + n < e.width then x.testBit (k + n) else x.testBit (e.width - 1) := by
  rw [iSra, testBit_shift_signed h _ hk]
  rcases le_total n e.width with hn | hn
  · rw [min_eq_left hn]
  · rw [min_eq_right hn, if_neg (by omega), if_neg (by omega)]

theorem iRotl_lt (e : Elem) (x n : Nat) : iRotl e x n < 2 ^ e.width := Nat.mod_lt _ (by positivity)

/-- The bits that leave at the top come in below the others. -/
theorem testBit_iRotl (h : x < 2 ^ e.width) (n : Nat) (hk : k < e.width) :
    (iRotl e x n).testBit k = x.testBit ((k + (e.width - n % e.width)) % e.width) := by
  unfold iRotl
  have hr : n % e.width < e.width := Nat.mod_lt _ (Elem.width_pos e)
  generalize n % e.width = r at hr
  have hlow : x / 2 ^ (e.width - r) < 2 ^ r := by
    rw [Nat.div_lt_iff_lt_mul (by positivity), ← pow_add]
    rwa [Nat.add_sub_cancel' hr.le]
  rw [Nat.testBit_mod_two_pow, decide_eq_true hk, Bool.true_and, Nat.mul_comm, Nat.testBit_two_pow_mul_add _ hlow]
  split
  · rw [Nat.testBit_div_two_pow, Nat.mod_eq_of_lt (by omega)]
  · have hwrap : k + (e.width - r) = k - r + e.width := by omega
    rw [hwrap, Nat.add_mod_right, Nat.mod_eq_of_lt (by omega)]

theorem testBit_iRotr (h : x < 2 ^ e.width) (n : Nat) (hk : k < e.width) : (iRotr e x n).testBit k = x.testBit ((k + n) % e.width) := by
  have hr : n % e.width < e.width := Nat.mod_lt _ (Elem.width_pos e)
  rw [iRotr, testBit_iRotl h _ hk, ← Nat.add_mod_mod k n]
  rcases Nat.eq_zero_or_pos (n % e.width) with h0 | hpos
  · rw [h0, Nat.sub_zero, Nat.mod_self, Nat.sub_zero, Nat.add_mod_right, Nat.add_zero]
  · rw [Nat.mod_eq_of_lt (a := e.width - _) (by omega), Nat.sub_sub_self hr.le]

end Bits

/-! ## The instructions together -/

/-- Settles O3: the bits of each element function. -/
theorem logicAndShifts : Obligations.LogicAndShifts := by
  intro s ty a b h w x y n bits
  have hlt : ∀ o L j, s.el ty o L j < 2 ^ w := s.el_lt ty
  refine ⟨?and, ?or, ?xor, ?not, ?andn, ?shl, ?shr, ?sra, ?rotl, ?rotr⟩
  case and => exact byElement_map2 rfl h (fun _ _ => Nat.and_lt_two_pow _ (hlt ..)) fun _ _ _ _ => Nat.testBit_and ..
  case or => exact byElement_map2 rfl h (fun _ _ => Nat.or_lt_two_pow (hlt ..) (hlt ..)) fun _ _ _ _ => Nat.testBit_or ..
  case xor => exact byElement_map2 rfl h (fun _ _ => Nat.xor_lt_two_pow (hlt ..) (hlt ..)) fun _ _ _ _ => Nat.testBit_xor ..
  case not => exact byElement_map1 rfl h (fun _ _ => iNot_lt ..) fun _ _ _ hk => testBit_iNot (hlt ..) hk
  case andn =>
    refine byElement_map2 rfl h (fun _ _ => Nat.and_lt_two_pow _ (iNot_lt ..)) fun _ _ _ hk => ?_
    rw [iAndn, Nat.testBit_and, testBit_iNot (hlt ..) hk]
  case shl => exact byElement_map2 rfl h (fun _ _ => iShl_lt ..) fun _ _ _ hk => testBit_iShl _ _ _ hk
  case shr => exact byElement_map2 rfl h (fun _ _ => iShr_lt (hlt ..) _) fun _ _ _ _ => testBit_iShr (hlt ..) ..
  case sra => exact byElement_map2 rfl h (fun _ _ => wrapI_lt ..) fun _ _ _ hk => testBit_iSra (hlt ..) _ hk
  case rotl => exact byElement_map2 rfl h (fun _ _ => iRotl_lt ..) fun _ _ _ hk => testBit_iRotl (hlt ..) _ hk
  case rotr => exact byElement_map2 rfl h (fun _ _ => iRotl_lt ..) fun _ _ _ hk => testBit_iRotr (hlt ..) _ hk

end Sys2Proof.Machine
end

section
/-! Bit counts, the order of bits and bytes, and bit fields (05_integer.md R167, R168). -/
namespace Sys2Proof.Machine
open Sys2Proof Sys2Proof.Safety

/-! ## Counts -/

/-- The count of leading zeros, and the place of the highest one where there is one. -/
theorem iClz_counts {e : Elem} {x : Nat} (h : x < 2 ^ e.width) :
    iClz e x ≤ e.width ∧ x < 2 ^ (e.width - iClz e x) ∧ (iClz e x < e.width → 2 ^ (e.width - iClz e x - 1) ≤ x) := by
  unfold iClz
  split
  · next h0 => exact ⟨le_refl _, by rw [h0]; positivity, fun hlt => absurd hlt (lt_irrefl _)⟩
  · next h0 =>
    have hlog := (Nat.log2_lt h0).mpr h
    have hones : e.width - (e.width - 1 - x.log2) = x.log2 + 1 := by omega
    rw [hones]
    exact ⟨by omega, Nat.lt_log2_self, fun _ => Nat.log2_self_le h0⟩

/-- The zeros below the lowest one, and that one where it lies among the bits looked at. -/
theorem lowZeros_counts (n a : Nat) : lowZeros n a ≤ n ∧ 2 ^ lowZeros n a ∣ a ∧ (lowZeros n a < n → a.testBit (lowZeros n a) = true) := by
  induction n generalizing a with
  | zero => exact ⟨le_refl _, one_dvd a, fun h => absurd h (lt_irrefl _)⟩
  | succ n ih =>
    obtain ⟨hle, hdvd, hbit⟩ := ih (a / 2)
    unfold lowZeros
    split
    · next h1 => exact ⟨Nat.zero_le _, one_dvd a, fun _ => by rw [Nat.testBit_zero, h1]; rfl⟩
    · next h1 =>
      have heven : a / 2 * 2 = a := by omega
      refine ⟨by omega, ?_, fun hlt => ?_⟩
      · rw [Nat.add_comm, pow_succ]
        exact (Nat.mul_dvd_mul_right hdvd 2).trans (dvd_of_eq heven)
      · rw [Nat.add_comm, Nat.testBit_succ]
        exact hbit (by omega)

theorem onesIn_eq_countP (n a : Nat) : onesIn n a = (List.range n).countP fun k => a.testBit k := by
  induction n generalizing a with
  | zero => rfl
  | succ n ih =>
    have hrest : (fun k => (a / 2).testBit k) = (fun k => a.testBit k) ∘ Nat.succ := funext fun k => (Nat.testBit_succ a k).symm
    rw [onesIn, ih, hrest, ← List.countP_map, List.range_succ_eq_map, List.countP_cons, Nat.add_comm, Nat.testBit_zero]
    rcases Nat.mod_two_eq_zero_or_one a with h | h <;> rw [h] <;> rfl

theorem onesIn_le (n a : Nat) : onesIn n a ≤ n := by
  rw [onesIn_eq_countP]
  exact List.countP_le_length.trans_eq List.length_range

/-- A count of at most w fits an element. -/
theorem count_lt {n w : Nat} (h : n ≤ w) : n < 2 ^ w := h.trans_lt Nat.lt_two_pow_self
theorem count_eq_mod {n w : Nat} (h : n ≤ w) : n = n % 2 ^ w := (Nat.mod_eq_of_lt (count_lt h)).symm

/-! ## Orders -/

theorem revBits_lt (n a : Nat) : revBits n a < 2 ^ n := by
  induction n generalizing a with
  | zero => exact Nat.one_pos
  | succ n ih =>
    have hrest := ih (a / 2)
    have hbit : a % 2 * 2 ^ n ≤ 1 * 2 ^ n := Nat.mul_le_mul_right _ (by omega)
    rw [revBits, pow_succ]
    omega

theorem testBit_revBits (n a : Nat) {k : Nat} (hk : k < n) : (revBits n a).testBit k = a.testBit (n - 1 - k) := by
  induction n generalizing a with
  | zero => omega
  | succ n ih =>
    rw [revBits, Nat.mul_comm, Nat.testBit_two_pow_mul_add _ (revBits_lt n _)]
    split
    · next hlt => rw [ih _ hlt, ← Nat.testBit_succ, show (n - 1 - k).succ = n + 1 - 1 - k by omega]
    · obtain rfl : k = n := by omega
      rw [Nat.sub_self, Nat.add_sub_cancel, Nat.sub_self, Nat.testBit_zero, Nat.testBit_zero, Nat.mod_mod]

theorem natOfBytes_lt (bs : List Byte) : natOfBytes bs < 2 ^ (8 * bs.length) := by
  induction bs with
  | nil => exact Nat.one_pos
  | cons b bs ih =>
    have hb : b.toNat < 256 := b.isLt
    rw [natOfBytes, List.length_cons, Nat.mul_succ, pow_add]
    omega

theorem natOfBytes_byte (bs : List Byte) (k : Nat) : natOfBytes bs / 2 ^ (8 * k) % 256 = (bs.getD k 0).toNat := by
  induction bs generalizing k with
  | nil => simp [natOfBytes]
  | cons b bs ih =>
    have hb : b.toNat < 256 := b.isLt
    cases k with
    | zero =>
      rw [Nat.mul_zero, pow_zero, Nat.div_one, natOfBytes, Nat.add_mul_mod_self_left, Nat.mod_eq_of_lt hb]
      rfl
    | succ k =>
      have hrest : natOfBytes (b :: bs) / 2 ^ 8 = natOfBytes bs := by rw [natOfBytes]; omega
      rw [Nat.mul_succ, Nat.add_comm, pow_add, ← Nat.div_div_eq_div_mul, hrest, ih]
      rfl

theorem bytesOfNat_byte (n v : Nat) {k : Nat} (hk : k < n) : ((bytesOfNat n v).getD k 0).toNat = v / 2 ^ (8 * k) % 256 := by
  induction n generalizing v k with
  | zero => omega
  | succ n ih =>
    cases k with
    | zero => rw [Nat.mul_zero, pow_zero, Nat.div_one]; rfl
    | succ k =>
      rw [bytesOfNat, List.getD_cons_succ, ih _ (by omega), Nat.mul_succ, Nat.add_comm (8 * k), pow_add, ← Nat.div_div_eq_div_mul]
      rfl

theorem iBswap_lt (e : Elem) (x : Nat) : iBswap e x < 2 ^ e.width := by
  refine (natOfBytes_lt _).trans_le (Nat.pow_le_pow_right (by decide) ?_)
  rw [List.length_reverse, bytesOfNat_length]
  omega

theorem iBswap_byte (e : Elem) (x : Nat) {k : Nat} (hk : k < e.width / 8) :
    iBswap e x / 2 ^ (8 * k) % 256 = x / 2 ^ (8 * (e.width / 8 - 1 - k)) % 256 := by
  have hlen := bytesOfNat_length (e.width / 8) x
  rw [iBswap, natOfBytes_byte, ← bytesOfNat_byte (e.width / 8) x (by omega), List.getD_eq_getElem?_getD, List.getD_eq_getElem?_getD,
    List.getElem?_reverse (by omega), hlen]

/-! ## Fields -/

section Fields
variable {e : Elem} {a k : Nat}

/-- Bits `o` to `o + n - 1` of a number. -/
theorem testBit_field (a o n k : Nat) : (a / 2 ^ o % 2 ^ n).testBit k = (decide (k < n) && a.testBit (o + k)) := by
  rw [Nat.testBit_mod_two_pow, Nat.testBit_div_two_pow, Nat.add_comm o]

theorem field_lt (a o : Nat) {n w : Nat} (h : n ≤ w) : a / 2 ^ o % 2 ^ n < 2 ^ w :=
  (Nat.mod_lt _ (by positivity)).trans_le (Nat.pow_le_pow_right (by decide) h)

theorem iBfx_lt (e : Elem) (a off width : Nat) : iBfx e a off width < 2 ^ e.width := ite_lt (wrapI_lt ..) (field_lt _ _ (by omega))

theorem testBit_iBfx (e : Elem) (a off width : Nat) {o n : Nat} (ho : o = min off e.width) (hn : n = min width (e.width - o)) (hk : k < e.width) :
    (iBfx e a off width).testBit k = if k < n then a.testBit (o + k) else e.signed && decide (0 < n) && a.testBit (o + n - 1) := by
  unfold iBfx
  simp only [← ho, ← hn]
  by_cases hs : e.signed = true ∧ 0 < n
  · obtain ⟨hsigned, hpos⟩ := hs
    rw [if_pos ⟨hsigned, hpos⟩, testBit_extend_signed (field_lt _ _ (le_refl n)) hk, testBit_field, testBit_field, hsigned, decide_eq_true hpos,
      decide_eq_true (by omega : n - 1 < n), Nat.add_sub_assoc hpos]
    split
    · next hlt => rw [decide_eq_true hlt, Bool.true_and]
    · rfl
  · have hext : (e.signed && decide (0 < n)) = false := Bool.eq_false_iff.mpr fun h => hs (by simpa using h)
    rw [if_neg hs, testBit_field, hext, Bool.false_and]
    split
    · next hlt => rw [decide_eq_true hlt, Bool.true_and]
    · next hlt => rw [decide_eq_false hlt, Bool.false_and]

/-- A number with its field of `n` bits from `o` replaced: the bits above, the new field, and the bits below. -/
theorem replaceField_eq (a ins o n : Nat) :
    a - a / 2 ^ o % 2 ^ n * 2 ^ o + ins % 2 ^ n * 2 ^ o = 2 ^ o * (2 ^ n * (a / 2 ^ o / 2 ^ n) + ins % 2 ^ n) + a % 2 ^ o := by
  have hlow := Nat.div_add_mod a (2 ^ o)
  have hfield := Nat.div_add_mod (a / 2 ^ o) (2 ^ n)
  have hsub : a - a / 2 ^ o % 2 ^ n * 2 ^ o = 2 ^ o * (2 ^ n * (a / 2 ^ o / 2 ^ n)) + a % 2 ^ o := by
    refine Nat.sub_eq_of_eq_add ?_
    calc a = 2 ^ o * (2 ^ n * (a / 2 ^ o / 2 ^ n) + a / 2 ^ o % 2 ^ n) + a % 2 ^ o := by rw [hfield, hlow]
      _ = _ := by ring
  rw [hsub]
  ring

theorem testBit_iBfi (e : Elem) (a ins off width k : Nat) {o n : Nat} (ho : o = min off e.width) (hn : n = min width (e.width - o)) :
    (iBfi e a ins off width).testBit k = if o ≤ k ∧ k < o + n then ins.testBit (k - o) else a.testBit k := by
  unfold iBfi
  simp only [← ho, ← hn]
  rw [replaceField_eq, Nat.testBit_two_pow_mul_add _ (Nat.mod_lt _ (by positivity))]
  by_cases hlow : k < o
  · rw [if_pos hlow, if_neg (by omega), Nat.testBit_mod_two_pow, decide_eq_true hlow, Bool.true_and]
  · rw [if_neg hlow, Nat.testBit_two_pow_mul_add _ (Nat.mod_lt _ (by positivity))]
    by_cases hin : k - o < n
    · rw [if_pos hin, if_pos (by omega), Nat.testBit_mod_two_pow, decide_eq_true hin, Bool.true_and]
    · rw [if_neg hin, if_neg (by omega), Nat.testBit_div_two_pow, Nat.testBit_div_two_pow]
      congr 1
      omega

theorem iBfi_lt (ha : a < 2 ^ e.width) (ins off width : Nat) : iBfi e a ins off width < 2 ^ e.width := by
  refine Nat.lt_pow_two_of_testBit _ fun k hk => ?_
  rw [testBit_iBfi e a ins off width k rfl rfl, if_neg (by omega), testBit_of_width_le ha hk]

end Fields

/-! ## The instructions together -/

/-- Settles O4: each count and order by its recursion over the bits or bytes, and each field by the bits that it takes from its operands. -/
theorem bitCountsOrdersAndFields : Obligations.BitCountsOrdersAndFields := by
  constructor
  · intro s ty a h w x
    have hlt : ∀ L j, x L j < 2 ^ w := s.el_lt ty a
    refine ⟨?clz, ?ctz, ?popc, ?brev, ?bswap⟩
    case clz =>
      have hle : ∀ L j, iClz (Ty.elem ty) (x L j) ≤ w := fun L j => (iClz_counts (hlt L j)).1
      exact byElement_map1 rfl h (fun _ _ => count_lt (hle ..)) fun _ _ => ⟨_, count_eq_mod (hle ..), iClz_counts (hlt ..)⟩
    case ctz =>
      have hle : ∀ L j, lowZeros w (x L j) ≤ w := fun L j => (lowZeros_counts w (x L j)).1
      exact byElement_map1 rfl h (fun _ _ => count_lt (hle ..)) fun _ _ => ⟨_, count_eq_mod (hle ..), lowZeros_counts ..⟩
    case popc =>
      refine byElement_map1 rfl h (fun _ _ => count_lt (onesIn_le ..)) fun L j => ?_
      rw [← onesIn_eq_countP]
      exact count_eq_mod (onesIn_le ..)
    case brev => exact byElement_map1 rfl h (fun _ _ => revBits_lt ..) fun _ _ _ hk => testBit_revBits _ _ hk
    case bswap => exact byElement_map1 rfl h (fun _ _ => iBswap_lt ..) fun _ _ _ hk => iBswap_byte _ _ hk
  · intro s ty a ins off width h w o n x
    refine ⟨?bfx, ?bfi⟩
    case bfx => exact byElement_map1 rfl h (fun _ _ => iBfx_lt ..) fun _ _ _ hk => testBit_iBfx _ _ _ _ rfl rfl hk
    case bfi => exact byElement_map2 rfl h (fun _ _ => iBfi_lt (s.el_lt ..) ..) fun _ _ _ _ => testBit_iBfi _ _ _ _ _ _ rfl rfl

end Sys2Proof.Machine
end

section
/-! Compare, select, conversions of width, addresses, constants and special registers (05_integer.md R169-R175, 04_control.md R146). -/
namespace Sys2Proof.Machine
open Sys2Proof Sys2Proof.Safety

/-! ## Compare (R169) -/

/-- What a compare code asks of two elements: unsigned codes read the bits, the others the integers that they stand for. -/
def Cmp.Holds (code : Cmp) (e : Elem) (a b : Nat) : Prop :=
  match code with
  | .eq => a = b
  | .ne => a ≠ b
  | .lt => toI e a < toI e b
  | .le => toI e a ≤ toI e b
  | .gt => toI e b < toI e a
  | .ge => toI e b ≤ toI e a
  | .ltu => a < b
  | .leu => a ≤ b
  | .gtu => b < a
  | .geu => b ≤ a

theorem iCmp_iff (code : Cmp) (e : Elem) (a b : Nat) : iCmp code e a b = true ↔ Cmp.Holds code e a b := by
  cases code with
  | eq => exact beq_iff_eq
  | ne => exact bne_iff_ne
  | _ => exact decide_eq_true_iff

theorem valOfBool_of_iff {b : Bool} {p : Prop} (h : b = true ↔ p) : (p → valOfBool b = 1) ∧ (¬p → valOfBool b = 0) :=
  ⟨fun hp => congrArg valOfBool (h.mpr hp), fun hp => congrArg valOfBool (Bool.eq_false_iff.mpr fun hb => hp (h.mp hb))⟩

/-! ## Conversions of width (R171) -/

theorem Ty.width_le (ty : Ty) : ty.width ≤ 256 := by
  cases ty with
  | num sh e => cases sh <;> cases e <;> decide
  | _ => decide

theorem zextVal_toNat {ty src : Ty} (a : Val) (h : (Ty.elem src).width ≤ ty.width) : (zextVal ty src a).toNat = elemAt a (Ty.elem src).width 0 := by
  have hlt : elemAt a (Ty.elem src).width 0 < 2 ^ ty.width := (elemAt_lt ..).trans_le (Nat.pow_le_pow_right (by decide) h)
  rw [zextVal, Nat.mod_eq_of_lt hlt, toNat_ofNat_of_lt hlt (Ty.width_le ty)]

theorem sextVal_toNat (ty src : Ty) (a : Val) :
    (sextVal ty src a).toNat = wrapI ty.width (toS (Ty.elem src).width (elemAt a (Ty.elem src).width 0)) :=
  toNat_ofNat_of_lt (wrapI_lt ..) (Ty.width_le ty)

/-- The sign of the source stands above its bits. -/
theorem sextVal_testBit {ty src : Ty} (a : Val) {k : Nat} (hk : k < ty.width) :
    (sextVal ty src a).toNat.testBit k = (elemAt a (Ty.elem src).width 0).testBit (min k ((Ty.elem src).width - 1)) := by
  have hpos := Elem.width_pos (Ty.elem src)
  rw [sextVal_toNat, testBit_extend_signed (elemAt_lt ..) hk]
  split
  · rw [min_eq_left (by omega)]
  · rw [min_eq_right (by omega)]

theorem toNat_ofNat_mod (ty : Ty) (n : Nat) : (BitVec.ofNat 256 (n % 2 ^ ty.width)).toNat = n % 2 ^ ty.width :=
  toNat_ofNat_of_lt (Nat.mod_lt _ (by positivity)) (Ty.width_le ty)

/-- Settles O5: a compare gives the truth value of its code, a select one of its operands, a conversion the bits of the source's element. -/
theorem compareSelectConvert : Obligations.CompareSelectConvert := by
  intro s ty code a b c h e src x holds y
  refine ⟨?cmp, ?sel, ?zext, ?sext, ?trunc⟩
  case cmp => exact gives_put rfl h fun L _ => valOfBool_of_iff (iCmp_iff code e (x a L) (x b L))
  case sel => exact gives_put rfl h fun _ _ => rfl
  case zext => exact fun hle => gives_put rfl h fun _ _ => zextVal_toNat _ hle
  case sext => exact fun _ => gives_put rfl h fun _ _ => ⟨(sextVal_toNat ..).trans_lt (wrapI_lt ..), fun _ hk => sextVal_testBit _ hk⟩
  case trunc => exact gives_put rfl h fun _ _ => toNat_ofNat_mod ..

/-! ## Addresses (R172, R146) -/

theorem toS_modEq (w a : Nat) : toS w a ≡ a [ZMOD 2 ^ w] := by
  unfold toS
  split
  · simp [Int.ModEq]
  · rfl

theorem leaVal_toNat (shift : Nat) (idxTy : Ty) (base idx disp : Val) : (leaVal shift idxTy base idx disp).toNat =
    wrapI 64 (elemAt base 64 0 + toI (Ty.elem idxTy) (elemAt idx (Ty.elem idxTy).width 0) * 2 ^ shift + toS 64 (elemAt disp 64 0)) :=
  toNat_ofNat_of_lt (wrapI_lt ..) (by decide)

/-- An address in a table of the running module. -/
theorem tableAddr_toNat (base : Dword) (n : Nat) : ((base + dw n).setWidth 256).toNat = (base.toNat + n) % 2 ^ 64 := by
  rw [BitVec.toNat_setWidth_of_le (by decide), BitVec.toNat_add, dw, BitVec.toNat_ofNat, Nat.add_mod_mod]

theorem execFnaddr_of_module {s : State} {m : Module} (h : s.moduleOf s.issue.loc.handle = some m) (k : BitVec 30) :
    exec (.fnaddr k) s = .next (s.put fun _ => (m.descBase + dw (16 * k.toNat)).setWidth 256) := by
  show execFnaddr k s = _
  rw [execFnaddr, h]
  rfl

theorem execLnkaddr_of_module {s : State} {m : Module} (h : s.moduleOf s.issue.loc.handle = some m) (k : BitVec 30) :
    exec (.lnkaddr k) s = .next (s.put fun _ => (m.linkBase + dw (8 * k.toNat)).setWidth 256) := by
  show execLnkaddr k s = _
  rw [execLnkaddr, h]
  rfl

/-! ## Special registers (R174, R175) -/

theorem sregVal_lane (s : State) (L : Nat) : s.sregVal 0x00 L = L := rfl
theorem sregVal_retired (s : State) (L : Nat) : s.sregVal 0x09 L = s.wv.retired.toNat := rfl
theorem sregVal_active (s : State) (L : Nat) : s.sregVal 0x0E L = s.issue.mask.toNat := rfl

/-- A special register read at a type gives its low bits. -/
theorem sreg_gives {s : State} (h : Issuing s) (ty : Ty) (code : BitVec 30) :
    Gives (.sreg ty code) s fun L d => d.toNat = s.sregVal code.toNat L % 2 ^ ty.width :=
  gives_put rfl h fun _ _ => toNat_ofNat_mod ..

theorem sreg_gives_of_lt {s : State} (h : Issuing s) {ty : Ty} {code : BitVec 30} {v : Nat → Nat} (hv : ∀ L, s.sregVal code.toNat L = v L)
    (hlt : ∀ L, On s L → v L < 2 ^ ty.width) : Gives (.sreg ty code) s fun L d => d.toNat = v L :=
  gives_put rfl h fun L hL => (toNat_ofNat_mod ..).trans (by rw [hv, Nat.mod_eq_of_lt (hlt L hL)])

/-- Settles O6: an address is its sum modulo 2^64, a constant its operand, and a special register the low bits of its value. -/
theorem addressesAndConstants : Obligations.AddressesAndConstants := by
  intro s ty shift base idx disp v code k h e x
  refine ⟨?lea, ?const, sreg_gives h ty code, ?lane, ?retired, ?active, fun m hm => ⟨?fnaddr, ?lnkaddr⟩⟩
  case lea =>
    refine gives_put rfl h fun L _ => ?_
    rw [leaVal_toNat]
    exact ⟨wrapI_lt .., (wrapI_modEq ..).trans ((toS_modEq ..).add_left _)⟩
  case const => exact gives_put rfl h fun _ _ => rfl
  case lane => exact sreg_gives_of_lt h (sregVal_lane s) fun L hL => hL.1.trans (by decide)
  case retired => exact sreg_gives_of_lt h (sregVal_retired s) fun _ _ => BitVec.isLt _
  case active => exact sreg_gives_of_lt h (sregVal_active s) fun _ _ => BitVec.isLt _
  case fnaddr => exact gives_put (execFnaddr_of_module hm k) h fun _ _ => tableAddr_toNat ..
  case lnkaddr => exact gives_put (execLnkaddr_of_module hm k) h fun _ _ => tableAddr_toNat ..

end Sys2Proof.Machine
end

section
/-! The codes of the floating-point formats and the numbers that they stand for (06_float_formats.md R177-R179). -/
namespace Sys2Proof.Machine
open Sys2Proof Sys2Proof.Safety

/-! ## The layouts -/

section Layout
variable {e : Elem}

theorem width_eq_fields (h : isS e) : e.width = 1 + fExpBits e + fMan e := by
  rcases h with (rfl | rfl | rfl | rfl) | rfl | rfl <;> rfl

theorem isS_of_isF (h : isF e) : isS e := .inl h

theorem two_le_fMan (e : Elem) : 2 ≤ fMan e := by cases e <;> decide

/-- The magnitude codes are the exponent fields above the significand fields. -/
theorem two_pow_magnitude (h : isS e) : 2 ^ (e.width - 1) = 2 ^ fExpBits e * 2 ^ fMan e := by
  rw [width_eq_fields h, ← pow_add, Nat.add_assoc, Nat.add_sub_cancel_left]

/-- Of the codes of a magnitude the finite ones are those below the exponent field of all ones, and in E4M3 all but the last. -/
theorem le_fMaxCode_iff (h : isS e) {g : Nat} (hg : g < 2 ^ (e.width - 1)) :
    g ≤ fMaxCode e ↔ (e = .e4m3 ∧ g ≠ 0x7F) ∨ (e ≠ .e4m3 ∧ g / 2 ^ fMan e ≠ fTop e) := by
  rcases h with (rfl | rfl | rfl | rfl) | rfl | rfl <;> simp [Elem.width, fMaxCode, fInf, fTop, fMan, fExpBits] at hg ⊢ <;> omega

theorem fMaxCode_lt (h : isS e) : fMaxCode e < 2 ^ (e.width - 1) := by
  rcases h with (rfl | rfl | rfl | rfl) | rfl | rfl <;> decide

theorem fInf_lt (h : isS e) : fInf e < 2 ^ (e.width - 1) := by
  rcases h with (rfl | rfl | rfl | rfl) | rfl | rfl <;> decide

theorem two_le_fMaxCode_div (h : isS e) : 2 ≤ fMaxCode e / 2 ^ fMan e := by
  rcases h with (rfl | rfl | rfl | rfl) | rfl | rfl <;> decide

theorem fNaN_lt (h : isS e) : fNaN e < 2 ^ e.width := by
  rcases h with (rfl | rfl | rfl | rfl) | rfl | rfl <;> decide

end Layout

/-! ## Sign and magnitude -/

theorem fNeg_eq_testBit (e : Elem) (c : Nat) : fNeg e c = c.testBit (e.width - 1) := by
  rw [Nat.testBit_eq_decide_div_mod_eq]
  rfl

theorem fMag_lt (e : Elem) (c : Nat) : fMag e c < 2 ^ (e.width - 1) := Nat.mod_lt _ (by positivity)

theorem two_pow_width_eq (e : Elem) : 2 ^ e.width = 2 ^ (e.width - 1) + 2 ^ (e.width - 1) := by
  rw [← Nat.two_mul, ← pow_succ', Nat.sub_add_cancel (Elem.width_pos e)]

section Codes
variable {e : Elem} {g : Nat}

theorem fMag_fSign_add (hg : g < 2 ^ (e.width - 1)) (neg : Bool) : fMag e (fSign e neg + g) = g := by
  cases neg <;> simp [fMag, fSign, Nat.mod_eq_of_lt hg]

theorem fNeg_fSign_add (hg : g < 2 ^ (e.width - 1)) (neg : Bool) : fNeg e (fSign e neg + g) = neg := by
  cases neg <;> simp [fNeg, fSign, Nat.div_eq_of_lt hg, Nat.add_div_left]

theorem fSign_add_lt (hg : g < 2 ^ (e.width - 1)) (neg : Bool) : fSign e neg + g < 2 ^ e.width := by
  have := two_pow_width_eq e
  cases neg <;> simp [fSign] <;> omega

/-- The code of a sign and a magnitude code. -/
theorem codeIs_fSign_add {p : Prop} {neg : Bool} (hp : p ↔ neg = true) (hg : g < 2 ^ (e.width - 1)) : CodeIs e p g (fSign e neg + g) := by
  refine ⟨⟨fSign_add_lt hg neg, ?_⟩, fMag_fSign_add hg neg⟩
  rw [← fNeg_eq_testBit, fNeg_fSign_add hg, hp]

end Codes

/-! ## What a magnitude code stands for -/

/-- The significand and the exponent of a magnitude code (R177). -/
def fSig (e : Elem) (g : Nat) : Nat := if g / 2 ^ fMan e = 0 then g % 2 ^ fMan e else 2 ^ fMan e + g % 2 ^ fMan e
def fExp (e : Elem) (g : Nat) : Int := if g / 2 ^ fMan e = 0 then fSubExp e else fSubExp e + (g / 2 ^ fMan e : Nat) - 1

/-- The magnitude in units of the subnormal spacing. -/
def fUnits (e : Elem) (g : Nat) : Nat := fSig e g * 2 ^ (g / 2 ^ fMan e - 1)

section Decode
variable {e : Elem} {c : Nat}

theorem fMag_mod (h : isS e) (c : Nat) : fMag e c % 2 ^ fMan e = c % 2 ^ fMan e :=
  Nat.mod_mod_of_dvd c (two_pow_magnitude h ▸ Nat.dvd_mul_left ..)

theorem fDecode_of_le (h : isS e) (hc : fMag e c ≤ fMaxCode e) : fDecode e c = .fin (fNeg e c) (fSig e (fMag e c)) (fExp e (fMag e c)) := by
  have hfin := (le_fMaxCode_iff h (fMag_lt e c)).mp hc
  have h1 : ¬(e = .e4m3 ∧ fMag e c = 0x7F) := by tauto
  have h2 : ¬(e ≠ .e4m3 ∧ fMag e c / 2 ^ fMan e = fTop e) := by tauto
  rw [fDecode, if_neg h1, if_neg h2, fSig, fExp, fMag_mod h]
  split <;> rfl

theorem fDecode_of_gt (h : isS e) (hc : fMaxCode e < fMag e c) : fDecode e c =
    if e = .e4m3 then .nan false else if c % 2 ^ fMan e = 0 then .inf (fNeg e c) else .nan (decide (c % 2 ^ fMan e < 2 ^ (fMan e - 1))) := by
  have hspecial := (le_fMaxCode_iff h (fMag_lt e c)).not.mp (Nat.not_le.mpr hc)
  by_cases he : e = .e4m3
  · have h1 : e = .e4m3 ∧ fMag e c = 0x7F := by tauto
    rw [fDecode, if_pos h1, if_pos he]
  · have h2 : e ≠ .e4m3 ∧ fMag e c / 2 ^ fMan e = fTop e := by tauto
    rw [fDecode, if_neg fun h => he h.1, if_pos h2, if_neg he]

/-- The finite codes are those up to the largest finite one. -/
theorem fDecode_fin {n : Bool} {m : Nat} {x : Int} (h : isS e) (hd : fDecode e c = .fin n m x) :
    fMag e c ≤ fMaxCode e ∧ n = fNeg e c ∧ m = fSig e (fMag e c) ∧ x = fExp e (fMag e c) := by
  rcases Nat.lt_or_ge (fMaxCode e) (fMag e c) with hgt | hle
  · rw [fDecode_of_gt h hgt] at hd
    split at hd
    · cases hd
    · split at hd <;> cases hd
  · rw [fDecode_of_le h hle] at hd
    cases hd
    exact ⟨hle, rfl, rfl, rfl⟩

/-- An infinity has the code above the largest finite one. -/
theorem fDecode_inf {n : Bool} (h : isS e) (hd : fDecode e c = .inf n) : fMaxCode e < fMag e c ∧ n = fNeg e c ∧ fMag e c = fInf e ∧ e ≠ .e4m3 := by
  rcases Nat.lt_or_ge (fMaxCode e) (fMag e c) with hgt | hle
  · have hspecial := (le_fMaxCode_iff h (fMag_lt e c)).not.mp (Nat.not_le.mpr hgt)
    rw [fDecode_of_gt h hgt] at hd
    split at hd
    · cases hd
    · next he =>
      split at hd
      · next hm =>
        cases hd
        refine ⟨hgt, rfl, ?_, he⟩
        have hdiv : fMag e c / 2 ^ fMan e = fTop e := by tauto
        have hdm := Nat.div_add_mod (fMag e c) (2 ^ fMan e)
        rw [fMag_mod h, hm, hdiv, Nat.add_zero, Nat.mul_comm] at hdm
        exact hdm.symm
      · cases hd
  · rw [fDecode_of_le h hle] at hd
    cases hd

end Decode

section Units
variable {e : Elem} {g : Nat}

theorem fUnits_subnormal (h : g < 2 ^ fMan e) : fUnits e g = g := by
  have h0 : g / 2 ^ fMan e = 0 := Nat.div_eq_of_lt h
  rw [fUnits, fSig, if_pos h0, h0, Nat.mod_eq_of_lt h, pow_zero, Nat.mul_one]

/-- The units of a code with exponent field `t + 1`. -/
theorem fUnits_normal {r t : Nat} (h : r < 2 ^ fMan e) : fUnits e ((t + 1) * 2 ^ fMan e + r) = (2 ^ fMan e + r) * 2 ^ t := by
  have hdiv : ((t + 1) * 2 ^ fMan e + r) / 2 ^ fMan e = t + 1 := by
    rw [Nat.mul_comm, Nat.mul_add_div (by positivity), Nat.div_eq_of_lt h, Nat.add_zero]
  have hmod : ((t + 1) * 2 ^ fMan e + r) % 2 ^ fMan e = r := by rw [Nat.mul_comm, Nat.mul_add_mod, Nat.mod_eq_of_lt h]
  rw [fUnits, fSig, hdiv, hmod, if_neg (by omega), Nat.add_sub_cancel]

/-- Codes are in the order of their magnitudes. -/
theorem fUnits_strictMono (e : Elem) : StrictMono (fUnits e) := by
  refine strictMono_nat_of_lt_succ fun g => ?_
  have hpos : 0 < 2 ^ fMan e := by positivity
  obtain ⟨hlt, hg⟩ : g % 2 ^ fMan e < 2 ^ fMan e ∧ g / 2 ^ fMan e * 2 ^ fMan e + g % 2 ^ fMan e = g :=
    ⟨Nat.mod_lt _ hpos, Nat.div_add_mod' g _⟩
  generalize g % 2 ^ fMan e = r at hlt hg
  generalize g / 2 ^ fMan e = t at hg
  subst hg
  rcases Nat.lt_or_ge (r + 1) (2 ^ fMan e) with hr | hr
  · cases t with
    | zero =>
      rw [Nat.zero_mul, Nat.zero_add, fUnits_subnormal hlt, fUnits_subnormal hr]
      exact Nat.lt_succ_self r
    | succ t =>
      rw [Nat.add_assoc, fUnits_normal hlt, fUnits_normal hr]
      exact Nat.mul_lt_mul_of_pos_right (by omega) (by positivity)
  · have hnext : t * 2 ^ fMan e + r + 1 = (t + 1) * 2 ^ fMan e + 0 := by rw [Nat.succ_mul]; omega
    rw [hnext, fUnits_normal hpos]
    cases t with
    | zero =>
      rw [Nat.zero_mul, Nat.zero_add, fUnits_subnormal hlt, pow_zero, Nat.mul_one]
      omega
    | succ t =>
      rw [fUnits_normal hlt, pow_succ', ← Nat.mul_assoc]
      exact Nat.mul_lt_mul_of_pos_right (by omega) (by positivity)

theorem fUnits_eq_zero : fUnits e g = 0 ↔ g = 0 := by
  rw [← (fUnits_strictMono e).injective.eq_iff (a := g), fUnits_subnormal (g := 0) (by positivity)]

theorem fSig_eq_zero : fSig e g = 0 ↔ g = 0 := by
  have hpow : 2 ^ (g / 2 ^ fMan e - 1) ≠ 0 := by positivity
  rw [← fUnits_eq_zero (e := e) (g := g), fUnits, Nat.mul_eq_zero, or_iff_left hpow]

theorem fSig_lt (e : Elem) (g : Nat) : fSig e g < 2 * 2 ^ fMan e := by
  have := Nat.mod_lt g (show 0 < 2 ^ fMan e by positivity)
  unfold fSig
  split <;> omega

theorem fSubExp_le_fExp (e : Elem) (g : Nat) : fSubExp e ≤ fExp e g := by
  unfold fExp
  generalize g / 2 ^ fMan e = t
  split <;> omega

variable {K : Type*} [Field K] [CharZero K]

/-- The value of a magnitude code is its units of the subnormal spacing. -/
theorem fSig_mul_zpow (e : Elem) (g : Nat) : (fSig e g : K) * 2 ^ fExp e g = fUnits e g * 2 ^ fSubExp e := by
  unfold fUnits fExp
  generalize fSig e g = m
  generalize g / 2 ^ fMan e = t
  split
  · next h => rw [h]; simp
  · next h =>
    have hx : fSubExp e + (t : Int) - 1 = (t - 1 : Nat) + fSubExp e := by omega
    rw [hx, zpow_add₀ two_ne_zero, zpow_natCast]
    push_cast
    ring

end Units

/-! ## The canonical NaN and the fields of a code (R177-R179) -/

section Fields
variable {e : Elem} {c : Nat}

theorem fMag_div (h : isS e) (c : Nat) : fMag e c / 2 ^ fMan e = c / 2 ^ fMan e % 2 ^ fExpBits e := by
  rw [fMag, two_pow_magnitude h, Nat.mul_comm, Nat.mod_mul_right_div_self]

/-- A significand field without its top bit is in the lower half. -/
theorem not_testBit_top {M n : Nat} (hn : 1 ≤ n) (hM : M < 2 ^ n) : (!M.testBit (n - 1)) = decide (M < 2 ^ (n - 1)) := by
  have h2 : 2 ^ n = 2 * 2 ^ (n - 1) := by rw [← pow_succ', Nat.sub_add_cancel hn]
  by_cases hlt : M < 2 ^ (n - 1)
  · rw [Nat.testBit_lt_two_pow hlt, decide_eq_true hlt]; rfl
  · obtain ⟨r, rfl⟩ := Nat.exists_eq_add_of_le (Nat.not_lt.mp hlt)
    rw [Nat.testBit_two_pow_add_eq, Nat.testBit_lt_two_pow (by omega), decide_eq_false hlt]; rfl

/-- The subnormal codes are finite. -/
theorem le_fMaxCode_of_lt (h : isS e) {g : Nat} (hg : g < 2 ^ fMan e) : g ≤ fMaxCode e := by
  have hmax := Nat.div_mul_le_self (fMaxCode e) (2 ^ fMan e)
  have := Nat.mul_le_mul_right (2 ^ fMan e) (two_le_fMaxCode_div h)
  omega

/-- Settles O7: the branches of the decoder, with the value of a finite code from its fields. -/
theorem formatCodes : Obligations.FormatCodes := by
  intro e c h hc sg E M b sign allOnes
  have hE : fMag e c / 2 ^ fMan e = E := fMag_div h c
  have hM : c % 2 ^ fMan e = M := rfl
  have hMlt : M < 2 ^ fMan e := Nat.mod_lt _ (by positivity)
  have hg : fMag e c = E * 2 ^ fMan e + M := by rw [← hE, ← hM, ← fMag_mod h, Nat.div_add_mod']
  have hsg : fNeg e c = sg := fNeg_eq_testBit e c
  have hle := le_fMaxCode_iff h (fMag_lt e c)
  have htop : allOnes ↔ E = fTop e := Iff.rfl
  have hsub : (2 : Rat) ^ fSubExp e = 2 ^ (1 - b) / 2 ^ fMan e := by
    rw [← zpow_natCast, ← zpow_sub₀ two_ne_zero]
    rfl
  rw [hE] at hle
  have hvalue : fMag e c ≤ fMaxCode e →
      ∃ m x, fDecode e c = .fin sg m x ∧ ratOf (fDecode e c) = sign * (fUnits e (E * 2 ^ fMan e + M) * (2 ^ (1 - b) / 2 ^ fMan e)) := fun hfin => by
    rw [fDecode_of_le h hfin, hsg, ← hg, ← hsub]
    exact ⟨_, _, rfl, by rw [ratOf, mul_assoc, fSig_mul_zpow]⟩
  have hspecial : allOnes → e ≠ .e4m3 → fMaxCode e < fMag e c := fun h1 he =>
    Nat.not_le.mp fun hfin => (hle.mp hfin).elim (fun h4 => he h4.1) fun hne => hne.2 (htop.mp h1)
  clear_value E M allOnes
  refine ⟨width_eq_fields h, fun h0 => ?subnormal, fun h0 hfin => ?normal, fun h1 he h0 => ?inf, fun h1 he h0 => ?nan, fun h1 he h7 => ?nan8,
    by decide, by decide, by decide, by decide, by decide, by decide⟩
  case subnormal =>
    subst h0
    rw [Nat.zero_mul, Nat.zero_add] at hg hvalue
    obtain ⟨m, x, hd, hv⟩ := hvalue (hg ▸ le_fMaxCode_of_lt h hMlt)
    refine ⟨m, x, hd, hv.trans ?_⟩
    rw [fUnits_subnormal hMlt]
    ring
  case normal =>
    obtain ⟨t, rfl⟩ := Nat.exists_eq_succ_of_ne_zero h0
    have hfinite : fMag e c ≤ fMaxCode e := hle.mpr <| by
      by_cases he : e = .e4m3
      · subst he
        have hne : t.succ ≠ 15 ∨ M ≤ 6 := hfin.imp (fun hn h15 => hn (htop.mpr h15)) And.right
        have h8 : (2 : Nat) ^ fMan .e4m3 = 8 := rfl
        rw [h8] at hg hMlt
        exact .inl ⟨rfl, by omega⟩
      · exact .inr ⟨he, fun h1 => hfin.elim (fun hn => hn (htop.mpr h1)) fun h4 => he h4.1⟩
    obtain ⟨m, x, hd, hv⟩ := hvalue hfinite
    refine ⟨m, x, hd, hv.trans ?_⟩
    have hexp : ((t.succ : Nat) : Int) - b = t + (1 - b) := by push_cast; ring
    rw [Nat.succ_eq_add_one, fUnits_normal hMlt, ← Nat.succ_eq_add_one, hexp, zpow_add₀ two_ne_zero, zpow_natCast]
    field_simp
    push_cast
    ring
  case inf => rw [fDecode_of_gt h (hspecial h1 he), if_neg he, hM, if_pos h0, hsg]
  case nan => rw [fDecode_of_gt h (hspecial h1 he), if_neg he, hM, if_neg h0, not_testBit_top (Nat.one_le_of_lt (two_le_fMan e)) hMlt]
  case nan8 =>
    subst he h7
    have h127 : fMag .e4m3 c = 0x7F := hg.trans (by rw [htop.mp h1]; decide)
    rw [fDecode_of_gt h (h127 ▸ (by decide)), if_pos rfl]

end Fields

end Sys2Proof.Machine
end

section
/-! Rounding an exact value to a format (06_float_formats.md R182-R184, R186). -/
namespace Sys2Proof.Machine
open Sys2Proof Sys2Proof.Safety

/-! ## Powers of two -/

theorem zpow_two_pos (x : Int) : (0 : ℝ) < 2 ^ x := zpow_pos two_pos x
theorem zpow_two_le {x y : Int} : (2 : ℝ) ^ x ≤ 2 ^ y ↔ x ≤ y := zpow_le_zpow_iff_right₀ one_lt_two
theorem zpow_two_lt {x y : Int} : (2 : ℝ) ^ x < 2 ^ y ↔ x < y := zpow_lt_zpow_iff_right₀ one_lt_two
theorem zpow_two_add (x y : Int) : (2 : ℝ) ^ (x + y) = 2 ^ x * 2 ^ y := zpow_add₀ two_ne_zero x y
theorem zpow_two_succ (x : Int) : (2 : ℝ) ^ (x + 1) = 2 * 2 ^ x := by rw [zpow_two_add, zpow_one, mul_comm]

/-- A power of two as whole units of a smaller one. -/
theorem natCast_mul_zpow {K : Type*} [Field K] [CharZero K] {x y : Int} (h : y ≤ x) : (2 : K) ^ x = (2 ^ (x - y).toNat : Nat) * 2 ^ y := by
  obtain ⟨n, rfl⟩ := Int.le.dest h
  rw [add_sub_cancel_left, Int.toNat_natCast, add_comm, zpow_add₀ two_ne_zero, zpow_natCast]
  push_cast
  rfl

theorem abs_ratOf (n : Bool) (m : Nat) (x : Int) : |(ratOf (.fin n m x) : ℝ)| = m * 2 ^ x := by
  have hpos : (0 : ℝ) ≤ m * 2 ^ x := by positivity
  cases n <;> simp [ratOf, abs_mul]

theorem ratOf_neg_iff {m : Nat} (hm : m ≠ 0) (n : Bool) (x : Int) : (ratOf (.fin n m x) : ℝ) < 0 ↔ n = true := by
  have hpos : (0 : ℝ) < m * 2 ^ x := by positivity
  cases n <;> simp [ratOf] <;> linarith

/-- The binade of a natural number times a power of two. -/
theorem log2_binade {m : Nat} (hm : m ≠ 0) (x : Int) :
    (2 : ℝ) ^ ((Nat.log2 m : Int) + x) ≤ m * 2 ^ x ∧ (m : ℝ) * 2 ^ x < 2 ^ ((Nat.log2 m : Int) + x + 1) := by
  have h1 : ((2 ^ Nat.log2 m : Nat) : ℝ) ≤ m := Nat.cast_le.mpr (Nat.log2_self_le hm)
  have h2 : (m : ℝ) < (2 ^ (Nat.log2 m + 1) : Nat) := Nat.cast_lt.mpr Nat.lt_log2_self
  have hx := zpow_two_pos x
  rw [add_right_comm, zpow_two_add, zpow_two_add, ← Nat.cast_succ, zpow_natCast, zpow_natCast]
  push_cast at h1 h2
  exact ⟨mul_le_mul_of_nonneg_right h1 hx.le, mul_lt_mul_of_pos_right h2 hx⟩

/-! ## Units of a spacing -/

/-- The truncated magnitude and the discarded fraction. -/
theorem unitsOf_spec (m : Nat) (x q : Int) {k rem d : Nat} (h : unitsOf m x q = (k, rem, d)) :
    rem < d ∧ (m : ℝ) * 2 ^ x = (k + (rem : ℝ) / d) * 2 ^ q := by
  unfold unitsOf at h
  split at h
  · next hle =>
    cases h
    refine ⟨Nat.one_pos, ?_⟩
    rw [natCast_mul_zpow hle]
    push_cast
    ring
  · next hlt =>
    cases h
    have hd : 0 < 2 ^ (q - x).toNat := by positivity
    refine ⟨Nat.mod_lt _ hd, ?_⟩
    rw [natCast_mul_zpow (Int.le_of_not_le hlt)]
    have hdm : ((2 ^ (q - x).toNat * (m / 2 ^ (q - x).toNat) + m % 2 ^ (q - x).toNat : Nat) : ℝ) = m := by rw [Nat.div_add_mod]
    generalize 2 ^ (q - x).toNat = d at hd hdm
    have hd0 : (d : ℝ) ≠ 0 := by positivity
    push_cast at hdm
    field_simp
    linarith

section Up
variable {r : Rnd} {u k rem d : Nat} {n : Bool} {p : Prop}

theorem fraction_bounds (h : rem < d) : (0 : ℝ) ≤ rem / d ∧ (rem : ℝ) / d < 1 :=
  ⟨by positivity, (div_lt_one (Nat.cast_pos.mpr (Nat.zero_lt_of_lt h))).mpr (Nat.cast_lt.mpr h)⟩

theorem fraction_eq_zero (h : rem < d) : (rem : ℝ) / d = 0 ↔ rem = 0 := by
  rw [div_eq_zero_iff, Nat.cast_eq_zero, Nat.cast_eq_zero, or_iff_left (by omega)]

/-- The choice of the model is that of R182. -/
theorem roundUp_iff (h : rem < d) (hn : 0 < rem → (p ↔ n = true)) : roundUp r u n k rem d = true ↔ RoundsUp r u p k ((rem : ℝ) / d) := by
  have hd : (0 : ℝ) < d := Nat.cast_pos.mpr (Nat.zero_lt_of_lt h)
  have hhalf : ((1 : ℝ) / 2 < rem / d ↔ d < 2 * rem) ∧ ((1 : ℝ) / 2 ≤ rem / d ↔ d ≤ 2 * rem) ∧ ((rem : ℝ) / d = 1 / 2 ↔ 2 * rem = d) := by
    rw [lt_div_iff₀ hd, le_div_iff₀ hd, div_eq_iff hd.ne']
    refine ⟨?_, ?_, ?_⟩
    · rw [← Nat.cast_lt (α := ℝ)]; push_cast; constructor <;> intro h <;> linarith
    · rw [← Nat.cast_le (α := ℝ)]; push_cast; constructor <;> intro h <;> linarith
    · rw [← Nat.cast_inj (R := ℝ)]; push_cast; constructor <;> intro h <;> linarith
  have hpos : (0 : ℝ) < rem / d ↔ 0 < rem := by rw [div_pos_iff_of_pos_right hd, Nat.cast_pos]
  obtain ⟨hlt, hle, heq⟩ := hhalf
  cases r with
  | rne => simp only [roundUp, RoundsUp, Bool.or_eq_true, Bool.and_eq_true, decide_eq_true_eq, beq_iff_eq, hlt, heq]
  | rtz => simp [roundUp, RoundsUp]
  | rna => simp only [roundUp, RoundsUp, decide_eq_true_eq, hle]
  | rup =>
    simp only [roundUp, RoundsUp, Bool.and_eq_true, decide_eq_true_eq, hpos]
    exact and_congr_right fun h => by rw [hn h, Bool.not_eq_true', Bool.not_eq_true]
  | rdn =>
    simp only [roundUp, RoundsUp, Bool.and_eq_true, decide_eq_true_eq, hpos]
    exact and_congr_right fun h => (hn h).symm
  | rsto =>
    have hfloor : ⌊(rem : ℝ) / d * 2 ^ 32⌋ = ((rem * 2 ^ 32 / d : Nat) : Int) := by
      rw [div_mul_eq_mul_div, ← Nat.floor_div_eq_div (K := ℝ), Int.natCast_floor_eq_floor (by positivity), Nat.cast_mul, Nat.cast_pow, Nat.cast_ofNat]
    simp only [roundUp, RoundsUp, decide_eq_true_eq, hfloor]
    norm_cast

/-- Rounding a magnitude, given in units of 2^q. -/
theorem roundedTo_units {v : ℝ} {q : Int} (hv : |v| = (k + (rem : ℝ) / d) * 2 ^ q) (h : rem < d) (hn : 0 < rem → (v < 0 ↔ n = true)) :
    RoundedTo r u v q (if roundUp r u n k rem d then k + 1 else k) (rem / d) := by
  refine ⟨k, hv, (fraction_bounds h).1, (fraction_bounds h).2, fun hup => ?_, fun hup => ?_⟩
  · rw [if_pos ((roundUp_iff h hn).mpr hup)]
  · rw [if_neg ((roundUp_iff h hn).not.mpr hup)]

end Up

/-! ## The spacing of a format -/

/-- Exponent of the spacing at the largest finite value, and that value's significand. -/
def fTopExp (e : Elem) : Int := fSubExp e + (fMaxCode e / 2 ^ fMan e : Nat) - 1
def fTopSig (e : Elem) : Nat := 2 ^ fMan e + fMaxCode e % 2 ^ fMan e

section Spacing
variable {e : Elem}

theorem fSubExp_lt_fTopExp (h : isS e) : fSubExp e < fTopExp e := by
  have := two_le_fMaxCode_div h
  unfold fTopExp
  omega

theorem fTopSig_bounds (e : Elem) : 2 ^ fMan e ≤ fTopSig e ∧ fTopSig e < 2 * 2 ^ fMan e := by
  have := Nat.mod_lt (fMaxCode e) (show 0 < 2 ^ fMan e by positivity)
  unfold fTopSig
  omega

theorem fMaxCode_eq (h : isS e) : fMaxCode e = (fTopExp e - fSubExp e).toNat * 2 ^ fMan e + fTopSig e := by
  have h2 := two_le_fMaxCode_div h
  have hdm := Nat.div_add_mod' (fMaxCode e) (2 ^ fMan e)
  unfold fTopExp fTopSig
  generalize fMaxCode e / 2 ^ fMan e = t at *
  obtain ⟨t, rfl⟩ := Nat.exists_eq_add_of_le' h2
  have hexp : (fSubExp e + ((t + 2 : Nat) : Int) - 1 - fSubExp e).toNat = t + 1 := by omega
  rw [hexp]
  linarith

theorem fMaxCode_value (h : isS e) : (ratOf (fDecode e (fMaxCode e)) : ℝ) = fTopSig e * 2 ^ fTopExp e := by
  have hmag : fMag e (fMaxCode e) = fMaxCode e := Nat.mod_eq_of_lt (fMaxCode_lt h)
  have h0 : fMaxCode e / 2 ^ fMan e ≠ 0 := by have := two_le_fMaxCode_div h; omega
  have hneg : fNeg e (fMaxCode e) = false := by
    rw [fNeg, Nat.div_eq_of_lt (fMaxCode_lt h)]
    rfl
  rw [fDecode_of_le h hmag.le, hmag, hneg, ratOf, fSig, fExp, if_neg h0, if_neg h0, fTopSig, fTopExp]
  push_cast
  ring

theorem normal_eq (e : Elem) : (2 : ℝ) ^ (1 - (fBias e : Int)) = (2 ^ fMan e : Nat) * 2 ^ fSubExp e := by
  have hexp : (1 - (fBias e : Int)) = (fMan e : Int) + fSubExp e := by unfold fSubExp; ring
  rw [hexp, zpow_two_add, zpow_natCast]
  push_cast
  rfl

theorem spacingExp_eq (e : Elem) (m : Nat) (x : Int) :
    spacingExp e m x = min (max ((Nat.log2 m : Int) + x - fMan e) (fSubExp e)) (fTopExp e) := rfl

/-- The spacing at a magnitude of a binade (R182). -/
theorem spacingIs_iff {v : ℝ} {q : Int} :
    SpacingIs e v q ↔ ∃ p : Int, (2 : ℝ) ^ p ≤ v ∧ v < 2 ^ (p + 1) ∧ q = min (max (p - fMan e) (fSubExp e)) (fTopExp e) := by
  have htop : fTopExp e = (fMaxCode e / 2 ^ fMan e : Nat) - fBias e - fMan e := by unfold fTopExp fSubExp; ring
  rw [htop]
  rfl

end Spacing

/-! ## A magnitude within its spacing -/

/-- A magnitude `a` as `k` units and a fraction of the spacing 2^q that stands at it, and `y`, the units that it is rounded to. -/
structure Spaced (e : Elem) (a : ℝ) (p q : Int) (k y : Nat) (f : ℝ) : Prop where
  low : (2 : ℝ) ^ p ≤ a
  high : a < 2 ^ (p + 1)
  spacing : q = min (max (p - fMan e) (fSubExp e)) (fTopExp e)
  units : a = (k + f) * 2 ^ q
  fraction : 0 ≤ f ∧ f < 1
  rounded : y = k ∨ y = k + 1

namespace Spaced
variable {e : Elem} {a f : ℝ} {p q : Int} {k y : Nat}

theorem le_of_real_lt {m n : Nat} (h : (m : ℝ) < n + 1) : m ≤ n := Nat.lt_succ_iff.mp (by exact_mod_cast h)

theorem fSubExp_le (h : isS e) (hs : Spaced e a p q k y f) : fSubExp e ≤ q := by
  have := fSubExp_lt_fTopExp h
  rw [hs.spacing]
  omega

theorem le_fTopExp (hs : Spaced e a p q k y f) : q ≤ fTopExp e := hs.spacing ▸ min_le_right ..

/-- Above the subnormal spacing the significand is full. -/
theorem two_pow_le (hs : Spaced e a p q k y f) (hq : fSubExp e < q) : 2 ^ fMan e ≤ k := by
  have hp : (fMan e : Int) + q ≤ p := by have := hs.spacing; omega
  have hlow := (zpow_two_le.mpr hp).trans hs.low
  rw [zpow_two_add, zpow_natCast, hs.units] at hlow
  refine le_of_real_lt ?_
  have := le_of_mul_le_mul_right hlow (zpow_two_pos q)
  push_cast
  linarith [hs.fraction.2]

/-- Below the spacing of the largest finite value the significand fits. -/
theorem units_lt (hs : Spaced e a p q k y f) (hq : q < fTopExp e) : (k : ℝ) + f < 2 * 2 ^ fMan e := by
  have hp : p + 1 ≤ (fMan e : Int) + q + 1 := by have := hs.spacing; omega
  have hhigh := hs.high.trans_le (zpow_two_le.mpr hp)
  rw [zpow_two_succ, zpow_two_add, zpow_natCast, hs.units, ← mul_assoc] at hhigh
  exact lt_of_mul_lt_mul_right hhigh (zpow_two_pos q).le

theorem lt_two_pow (hs : Spaced e a p q k y f) (hq : q < fTopExp e) : k < 2 * 2 ^ fMan e := by
  have := hs.units_lt hq
  have hlt : (k : ℝ) < (2 * 2 ^ fMan e : Nat) := by push_cast; linarith [hs.fraction.1]
  exact_mod_cast hlt

/-- The magnitude code of the rounded value stands for it. -/
theorem fUnits_codeOf {q : Int} {y : Nat} (hfull : fSubExp e < q → 2 ^ fMan e ≤ y) (hy : y ≤ 2 * 2 ^ fMan e) :
    fUnits e (codeOf e y q) = y * 2 ^ (q - fSubExp e).toNat := by
  have hpos : 0 < 2 ^ fMan e := by positivity
  unfold codeOf
  rcases Nat.lt_or_ge y (2 ^ fMan e) with hlt | hge
  · have h0 : (q - fSubExp e).toNat = 0 := by omega
    rw [h0, Nat.zero_mul, Nat.zero_add, fUnits_subnormal hlt, pow_zero, Nat.mul_one]
  · generalize (q - fSubExp e).toNat = t
    obtain ⟨r, rfl⟩ := Nat.exists_eq_add_of_le hge
    rcases Nat.lt_or_ge r (2 ^ fMan e) with hr | hr
    · rw [← Nat.add_assoc, ← Nat.succ_mul, fUnits_normal hr]
    · obtain rfl : r = 2 ^ fMan e := by omega
      have hnext : t * 2 ^ fMan e + (2 ^ fMan e + 2 ^ fMan e) = (t + 1 + 1) * 2 ^ fMan e + 0 := by ring
      rw [hnext, fUnits_normal hpos]
      ring

theorem fUnits_codeOf_value {q : Int} {y : Nat} (hq : fSubExp e ≤ q) (hfull : fSubExp e < q → 2 ^ fMan e ≤ y) (hy : y ≤ 2 * 2 ^ fMan e) :
    (fUnits e (codeOf e y q) : ℝ) * 2 ^ fSubExp e = y * 2 ^ q := by
  rw [fUnits_codeOf hfull hy, natCast_mul_zpow hq]
  push_cast
  ring

theorem rounded_full (hs : Spaced e a p q k y f) (hq : fSubExp e < q) : 2 ^ fMan e ≤ y := by
  have := hs.two_pow_le hq
  have := hs.rounded
  omega

theorem rounded_le (hs : Spaced e a p q k y f) (hq : q < fTopExp e) : y ≤ 2 * 2 ^ fMan e := by
  have := hs.lt_two_pow hq
  have := hs.rounded
  omega

section Rounded
variable (h : isS e) (hs : Spaced e a p q k y f)
include h hs

/-- Below the last binade there is room for a code of the next one. -/
theorem codeOf_add_le (hq : q < fTopExp e) (n : Nat) : codeOf e n q + 2 * 2 ^ fMan e ≤ fMaxCode e + n := by
  have hsub := hs.fSubExp_le h
  have hexp : ((q - fSubExp e).toNat + 1) * 2 ^ fMan e ≤ (fTopExp e - fSubExp e).toNat * 2 ^ fMan e := Nat.mul_le_mul_right _ (by omega)
  have hK := (fTopSig_bounds e).1
  rw [Nat.succ_mul] at hexp
  rw [fMaxCode_eq h, codeOf]
  omega

/-- The rounded value passes the largest finite one where its code does. -/
theorem fMaxCode_lt_codeOf_iff : fMaxCode e < codeOf e y q ↔ (ratOf (fDecode e (fMaxCode e)) : ℝ) < y * 2 ^ q := by
  obtain ⟨hK, -⟩ := fTopSig_bounds e
  rw [fMaxCode_value h]
  rcases hs.le_fTopExp.lt_or_eq with hq | rfl
  · have hy := hs.rounded_le hq
    have hcode := hs.codeOf_add_le h hq y
    have hvalue : (y : ℝ) * 2 ^ q ≤ fTopSig e * 2 ^ fTopExp e := by
      have h1 : (y : ℝ) ≤ 2 * fTopSig e := by exact_mod_cast hy.trans (Nat.mul_le_mul_left 2 hK)
      have h2 : (2 : ℝ) * 2 ^ q ≤ 2 ^ fTopExp e := by rw [← zpow_two_succ]; exact zpow_two_le.mpr hq
      calc (y : ℝ) * 2 ^ q ≤ 2 * fTopSig e * 2 ^ q := mul_le_mul_of_nonneg_right h1 (zpow_two_pos q).le
        _ = fTopSig e * (2 * 2 ^ q) := by ring
        _ ≤ fTopSig e * 2 ^ fTopExp e := mul_le_mul_of_nonneg_left h2 (Nat.cast_nonneg _)
    exact iff_of_false (by omega) (not_lt.mpr hvalue)
  · rw [fMaxCode_eq h, codeOf, mul_lt_mul_iff_left₀ (zpow_two_pos _), Nat.cast_lt, Nat.add_lt_add_iff_left]

/-- Where the rounded value stays finite, it is at least half a unit beyond the largest finite one where R183 says so. -/
theorem near_iff (hfin : codeOf e y q ≤ fMaxCode e) :
    fMaxCode e ≤ codeOf e k q ∧ 1 / 2 ≤ f ↔ (ratOf (fDecode e (fMaxCode e)) : ℝ) + 2 ^ q / 2 ≤ a := by
  have hpos := zpow_two_pos q
  obtain ⟨hK, -⟩ := fTopSig_bounds e
  rw [fMaxCode_value h]
  rcases hs.le_fTopExp.lt_or_eq with hq | rfl
  · have hcode := hs.codeOf_add_le h hq k
    have hk := hs.lt_two_pow hq
    have hvalue : a < fTopSig e * 2 ^ fTopExp e := by
      have h1 : (2 ^ fMan e : ℝ) ≤ fTopSig e := by exact_mod_cast hK
      have h2 : (2 : ℝ) * 2 ^ q ≤ 2 ^ fTopExp e := by rw [← zpow_two_succ]; exact zpow_two_le.mpr hq
      calc a = (k + f) * 2 ^ q := hs.units
        _ < 2 * 2 ^ fMan e * 2 ^ q := mul_lt_mul_of_pos_right (hs.units_lt hq) hpos
        _ = 2 ^ fMan e * (2 * 2 ^ q) := by ring
        _ ≤ fTopSig e * 2 ^ fTopExp e := mul_le_mul h1 h2 (by positivity) (by positivity)
    exact iff_of_false (fun hn => by omega) (by linarith)
  · rw [fMaxCode_eq h, codeOf] at hfin ⊢
    have hk : k ≤ fTopSig e := by
      have := hs.rounded
      omega
    have hsum : (fTopSig e : ℝ) * 2 ^ fTopExp e + 2 ^ fTopExp e / 2 = (fTopSig e + 1 / 2) * 2 ^ fTopExp e := by ring
    rw [hsum, hs.units, mul_le_mul_iff_left₀ hpos, Nat.add_le_add_iff_left]
    constructor
    · rintro ⟨hle, hf⟩
      have : (fTopSig e : ℝ) ≤ k := Nat.cast_le.mpr hle
      linarith
    · intro hle
      have hge : fTopSig e ≤ k := le_of_real_lt (by linarith [hs.fraction.2])
      obtain rfl : k = fTopSig e := le_antisymm hk hge
      exact ⟨le_refl _, by linarith⟩

/-- The rounded value is a nonzero subnormal where its code is. -/
theorem subnormal_iff : 0 < codeOf e y q ∧ codeOf e y q < 2 ^ fMan e ↔ y ≠ 0 ∧ (y : ℝ) * 2 ^ q < 2 ^ (1 - (fBias e : Int)) := by
  have hsub := hs.fSubExp_le h
  rw [normal_eq, codeOf]
  rcases hsub.lt_or_eq with hq | rfl
  · have hy := hs.rounded_full hq
    have hvalue : ((2 ^ fMan e : Nat) : ℝ) * 2 ^ fSubExp e ≤ y * 2 ^ q :=
      mul_le_mul (Nat.cast_le.mpr hy) (zpow_two_le.mpr hq.le) (zpow_two_pos _).le (Nat.cast_nonneg _)
    exact iff_of_false (by omega) fun hn => absurd hn.2 (not_lt.mpr hvalue)
  · rw [Int.sub_self, Int.toNat_zero, Nat.zero_mul, Nat.zero_add, mul_lt_mul_iff_left₀ (zpow_two_pos _), Nat.cast_lt, Nat.pos_iff_ne_zero]

/-- A code up to the largest finite one decodes to the rounded value. -/
theorem decode_codeOf (hfin : codeOf e y q ≤ fMaxCode e) :
    ∃ m x, fDecode e (codeOf e y q) = .fin false m x ∧ (m : ℝ) * 2 ^ x = y * 2 ^ q := by
  have hlt := hfin.trans_lt (fMaxCode_lt h)
  have hmag : fMag e (codeOf e y q) = codeOf e y q := Nat.mod_eq_of_lt hlt
  have hneg : fNeg e (codeOf e y q) = false := by
    rw [fNeg, Nat.div_eq_of_lt hlt]
    rfl
  have hy : y ≤ 2 * 2 ^ fMan e := by
    rcases hs.le_fTopExp.lt_or_eq with hq | rfl
    · exact hs.rounded_le hq
    · have := (fTopSig_bounds e).2
      rw [fMaxCode_eq h, codeOf] at hfin
      omega
  refine ⟨_, _, by rw [fDecode_of_le h (hmag.le.trans hfin), hneg], ?_⟩
  rw [fSig_mul_zpow, hmag, fUnits_codeOf_value (hs.fSubExp_le h) hs.rounded_full hy]

end Rounded

end Spaced

/-! ## The result and its flags -/

theorem overInf_iff {r : Rnd} {n : Bool} {p : Prop} (hn : p ↔ n = true) : overInf r n = true ↔ OverflowsToInf r p := by
  cases r <;> simp [overInf, OverflowsToInf, hn]

theorem infIs_fInfRes {e : Elem} (h : isS e) {n : Bool} {p : Prop} (hn : p ↔ n = true) (sat : Bool) : InfIs e sat p (fInfRes e sat n) := by
  refine codeIs_fSign_add hn ?_
  split
  · exact fMaxCode_lt h
  · split
    · next he => subst he; decide
    · exact fInf_lt h

theorem tiny_iff {e : Elem} {m : Nat} (hm : m ≠ 0) (x : Int) : tiny e m x = true ↔ (m : ℝ) * 2 ^ x < 2 ^ (1 - (fBias e : Int)) := by
  obtain ⟨hlow, hhigh⟩ := log2_binade hm x
  have hexp : (1 - (fBias e : Int)) = fSubExp e + fMan e := by unfold fSubExp; ring
  rw [tiny, decide_eq_true_eq, hexp]
  constructor
  · exact fun hlt => hhigh.trans_le (zpow_two_le.mpr hlt)
  · exact fun hlt => zpow_two_lt.mp (hlow.trans_lt hlt)

section FRound
variable {e : Elem} {fm : FMod} {u m : Nat} {neg : Bool} {x : Int} {k rem d : Nat}

/-- The cases of the model's rounding, by what the magnitude is in units of the spacing. -/
theorem fRound_eq (hu : unitsOf m x (spacingExp e m x) = (k, rem, d)) {c : Nat}
    (hc : codeOf e (if roundUp fm.rnd u neg k rem d then k + 1 else k) (spacingExp e m x) = c) :
    fRound e fm u neg m x =
      if fMaxCode e < c ∨ ((fm.rnd = .rne ∨ fm.rnd = .rna) ∧ fMaxCode e ≤ codeOf e k (spacingExp e m x) ∧ d ≤ 2 * rem) then
        (if overInf fm.rnd neg then fInfRes e fm.sat neg else fSign e neg + fMaxCode e, flOF ||| flNX)
      else
        (fSign e neg + (flushOut e fm.ftzo c (if rem = 0 then 0 else if tiny e m x then flNX ||| flUF else flNX)).1,
          (flushOut e fm.ftzo c (if rem = 0 then 0 else if tiny e m x then flNX ||| flUF else flNX)).2) := by
  subst hc
  rw [fRound, hu]

/-- The magnitude in units of its spacing, and the units that the model rounds to. -/
theorem spaced_unitsOf (hm : m ≠ 0) (hu : unitsOf m x (spacingExp e m x) = (k, rem, d)) (up : Bool) :
    Spaced e (m * 2 ^ x) (Nat.log2 m + x) (spacingExp e m x) k (if up then k + 1 else k) (rem / d) := by
  obtain ⟨hlt, hunits⟩ := unitsOf_spec m x _ hu
  obtain ⟨hlow, hhigh⟩ := log2_binade hm x
  exact ⟨hlow, hhigh, spacingExp_eq e m x, hunits, fraction_bounds hlt, by cases up <;> simp⟩

/-- The exact nonzero value of a sign and a magnitude is rounded as R182 to R186 say. -/
theorem fRound_roundIs (h : isS e) (hm : m ≠ 0) : RoundIs e fm u (ratOf (.fin neg m x) : ℝ) (fRound e fm u neg m x).1 (fRound e fm u neg m x).2 := by
  have hneg := ratOf_neg_iff hm neg x
  have habs := abs_ratOf neg m x
  generalize (ratOf (.fin neg m x) : ℝ) = v at hneg habs
  obtain ⟨⟨k, rem, d⟩, hu⟩ : ∃ w, unitsOf m x (spacingExp e m x) = w := ⟨_, rfl⟩
  obtain ⟨hlt, hunits⟩ := unitsOf_spec m x _ hu
  have hrounded := roundedTo_units (r := fm.rnd) (u := u) (habs.trans hunits) hlt fun _ => hneg
  have hs := spaced_unitsOf hm hu (roundUp fm.rnd u neg k rem d)
  have htiny := tiny_iff (e := e) hm x
  have hzero := fraction_eq_zero hlt
  have hhalf : (1 : ℝ) / 2 ≤ rem / d ↔ d ≤ 2 * rem := by
    have hd : (0 : ℝ) < d := Nat.cast_pos.mpr (Nat.zero_lt_of_lt hlt)
    rw [le_div_iff₀ hd, ← Nat.cast_le (α := ℝ)]
    push_cast
    constructor <;> intro h <;> linarith
  rw [fRound_eq hu rfl]
  rw [← habs] at hs htiny
  generalize (if roundUp fm.rnd u neg k rem d then k + 1 else k) = y at hrounded hs ⊢
  generalize spacingExp e m x = q at hrounded hs ⊢
  have hover : (fMaxCode e < codeOf e y q ∨ ((fm.rnd = .rne ∨ fm.rnd = .rna) ∧ fMaxCode e ≤ codeOf e k q ∧ d ≤ 2 * rem)) ↔
      ((ratOf (fDecode e (fMaxCode e)) : ℝ) < y * 2 ^ q ∨
        ((fm.rnd = .rne ∨ fm.rnd = .rna) ∧ (ratOf (fDecode e (fMaxCode e)) : ℝ) + 2 ^ q / 2 ≤ |v|)) := by
    rw [hs.fMaxCode_lt_codeOf_iff h, ← hhalf]
    by_cases hgt : (ratOf (fDecode e (fMaxCode e)) : ℝ) < y * 2 ^ q
    · simp only [hgt, true_or]
    · rw [hs.near_iff h (Nat.not_lt.mp ((hs.fMaxCode_lt_codeOf_iff h).not.mpr hgt))]
  refine ⟨q, y, rem / d, spacingIs_iff.mpr ⟨_, hs.low, hs.high, hs.spacing⟩, hrounded, ?_⟩
  dsimp only
  rw [← hover, ← hs.subnormal_iff h]
  split
  case isTrue hyes =>
    refine ⟨fun _ => ⟨rfl, fun hinf => ?_, fun hinf => ?_⟩, fun hno => absurd hyes hno, fun hno => absurd hyes hno⟩
    · rw [if_pos ((overInf_iff hneg).mpr hinf)]
      exact infIs_fInfRes h hneg _
    · rw [if_neg ((overInf_iff hneg).not.mpr hinf)]
      exact codeIs_fSign_add hneg (fMaxCode_lt h)
  case isFalse hno =>
    have hfin : codeOf e y q ≤ fMaxCode e := Nat.not_lt.mp fun hlt => hno (.inl hlt)
    have hcode := hfin.trans_lt (fMaxCode_lt h)
    refine ⟨fun hyes => absurd hyes hno, fun _ hsub => ?_, fun _ hsub => ?_⟩
    · rw [flushOut, if_pos hsub]
      refine ⟨codeIs_fSign_add hneg (by positivity), ?_⟩
      by_cases h0 : rem = 0
      · rw [if_pos h0]; rfl
      · rw [if_neg h0]; split <;> rfl
    · rw [flushOut, if_neg hsub]
      obtain ⟨hsign, hmag⟩ := codeIs_fSign_add hneg hcode
      refine ⟨hsign, by dsimp only; rw [hmag]; exact hs.decode_codeOf h hfin, fun h0 => if_pos (hzero.mp h0), fun h0 hlt => ?_, fun h0 hge => ?_⟩
      · rw [if_neg (hzero.not.mp h0), if_pos (htiny.mpr hlt)]
      · rw [if_neg (hzero.not.mp h0), if_neg (htiny.not.mpr (not_lt.mpr hge))]

end FRound

/-- Settles O8: the model's rounding, for every word. -/
theorem rounding : Obligations.Rounding := fun _ _ _ _ _ _ h hm _ => fRound_roundIs h hm

end Sys2Proof.Machine
end

section
/-! What the completion of a floating-point instruction leaves as it was, its flags and its rounding words (06_float_formats.md R185, R187, R188). -/
namespace Sys2Proof.Machine
open Sys2Proof Sys2Proof.Safety

/-! ## Flags -/

theorem testBit_orAll (fs : List Nat) (k : Nat) : (orAll fs).testBit k = true ↔ ∃ f ∈ fs, f.testBit k = true := by
  induction fs with
  | nil => simp [orAll]
  | cons f fs ih => simp [orAll, ih]

theorem testBit_orAll_lanes (s : State) (f : Nat → Nat) (k : Nat) :
    (orAll (s.activeLanes.map f)).testBit k = true ↔ ∃ L, On s L ∧ (f L).testBit k = true := by
  simp [testBit_orAll, mem_activeLanes]

section Wave
variable (w : Wave) (c f : Nat)

theorem Wave.addFlags_rest : w.addFlags c f = { w with fpf := (w.addFlags c f).fpf, fpAt := (w.addFlags c f).fpAt, fpNew := (w.addFlags c f).fpNew } := by
  unfold Wave.addFlags
  split <;> rfl

theorem Wave.addFlags_lane (L : Nat) : (w.addFlags c f).lane L = w.lane L := by
  rw [Wave.addFlags_rest]
  rfl

/-- Flags that do not name one of the five bits change nothing. -/
theorem testBit_of_mod_eq_zero {f k : Nat} (h : f % 32 = 0) (hk : k < 5) : f.testBit k = false := by
  have hbit := Nat.testBit_mod_two_pow f 5 k
  rw [show (2 : Nat) ^ 5 = 32 from rfl, h, Nat.zero_testBit, decide_eq_true hk, Bool.true_and] at hbit
  exact hbit.symm

theorem flagBits_getLsbD {f k : Nat} (hk : k < 5) : (BitVec.ofNat 5 f).getLsbD k = f.testBit k := by
  rw [BitVec.getLsbD_ofNat, decide_eq_true hk, Bool.true_and]

theorem Wave.addFlags_fpf {k : Nat} (hk : k < 5) : (w.addFlags c f).fpf.getLsbD k = (w.fpf.getLsbD k || f.testBit k) := by
  unfold Wave.addFlags
  split
  · next h => rw [testBit_of_mod_eq_zero h hk, Bool.or_false]
  · rw [BitVec.getLsbD_or, flagBits_getLsbD hk]

/-- The flags that land in the next cycle survive a clear in it. -/
theorem Wave.addFlags_survive {k : Nat} (hk : k < 5) : ((w.addFlags c f).clearFlags (c + 1) 31).fpf.getLsbD k =
    (decide (w.fpAt = c + 1) && w.fpNew.getLsbD k || f.testBit k) := by
  have hcleared : ∀ v : Wave, (v.clearFlags (c + 1) 31).fpf.getLsbD k = (decide (v.fpAt = c + 1) && v.fpNew.getLsbD k) := by
    intro v
    by_cases h : v.fpAt = c + 1 <;> simp [Wave.clearFlags, h, hk]
  rw [hcleared]
  unfold Wave.addFlags
  split
  · next h => rw [testBit_of_mod_eq_zero h hk, Bool.or_false]
  · by_cases h : w.fpAt = c + 1
    · rw [if_pos h, BitVec.getLsbD_or, flagBits_getLsbD hk, decide_eq_true rfl, decide_eq_true h]
      rfl
    · have hnew : ((0 : BitVec 5) ||| BitVec.ofNat 5 f).getLsbD k = f.testBit k := by
        rw [BitVec.getLsbD_or, flagBits_getLsbD hk]
        simp
      rw [if_neg h, hnew, decide_eq_true rfl, decide_eq_false h]
      rfl

end Wave

/-! ## Rounding words (R185, R220) -/

/-- The four words of a block are below 2^32. -/
def CtrFits (c : Ctr) : Prop := c.c0 < 2 ^ 32 ∧ c.c1 < 2 ^ 32 ∧ c.c2 < 2 ^ 32 ∧ c.c3 < 2 ^ 32

theorem philoxRound_fits {k0 k1 : Nat} {c : Ctr} (h0 : k0 < 2 ^ 32) (h1 : k1 < 2 ^ 32) (hc : CtrFits c) : CtrFits (philoxRound k0 k1 c) := by
  obtain ⟨hc0, hc1, hc2, hc3⟩ := hc
  have hhigh : ∀ {a b : Nat}, a < 2 ^ 32 → b < 2 ^ 32 → a * b / 2 ^ 32 < 2 ^ 32 := fun ha hb => by
    rw [Nat.div_lt_iff_lt_mul (by positivity)]
    exact Nat.mul_lt_mul'' ha hb
  unfold philoxRound
  dsimp only [CtrFits]
  exact ⟨Nat.xor_lt_two_pow (Nat.xor_lt_two_pow (hhigh hc2 (by norm_num)) hc1) h0, Nat.mod_lt _ (by positivity),
    Nat.xor_lt_two_pow (Nat.xor_lt_two_pow (hhigh hc0 (by norm_num)) hc3) h1, Nat.mod_lt _ (by positivity)⟩

/-- Rounds of any function under any key schedule: the kernel unfolds them without evaluating Philox's constants. -/
def keyedRounds (f : Nat → Nat → Ctr → Ctr) (key0 key1 : Nat → Nat) : Nat → Nat → Nat → Ctr → Ctr
  | 0, _, _, c => c
  | n + 1, k0, k1, c => keyedRounds f key0 key1 n (key0 k0) (key1 k1) (f k0 k1 c)

theorem philoxRounds_eq : philoxRounds = keyedRounds philoxRound (fun k => (k + 0x9E3779B9) % 2 ^ 32) (fun k => (k + 0xBB67AE85) % 2 ^ 32) := by
  delta philoxRounds keyedRounds
  rfl

theorem keyedRounds_fits {f : Nat → Nat → Ctr → Ctr} {key0 key1 : Nat → Nat}
    (hf : ∀ {k0 k1 c}, k0 < 2 ^ 32 → k1 < 2 ^ 32 → CtrFits c → CtrFits (f k0 k1 c)) (hkey0 : ∀ k, key0 k < 2 ^ 32)
    (hkey1 : ∀ k, key1 k < 2 ^ 32) (n : Nat) {k0 k1 : Nat} {c : Ctr} (h0 : k0 < 2 ^ 32) (h1 : k1 < 2 ^ 32) (hc : CtrFits c) :
    CtrFits (keyedRounds f key0 key1 n k0 k1 c) := by
  induction n generalizing k0 k1 c with
  | zero => exact hc
  | succ n ih => exact ih (hkey0 k0) (hkey1 k1) (hf h0 h1 hc)

theorem philox_fits (seed idx thread stream : Nat) : CtrFits (philox seed idx thread stream) := by
  have hlt : ∀ a, a % 2 ^ 32 < 2 ^ 32 := fun a => Nat.mod_lt _ (by positivity)
  rw [philox, philoxRounds_eq]
  exact keyedRounds_fits philoxRound_fits (fun _ => hlt _) (fun _ => hlt _) 10 (hlt _) (hlt _) ⟨hlt _, hlt _, hlt _, hlt _⟩

theorem Ctr.word_lt {c : Ctr} (hc : CtrFits c) (i : Nat) : c.word i < 2 ^ 32 := by
  obtain ⟨h0, h1, h2, h3⟩ := hc
  unfold Ctr.word
  split_ifs <;> assumption

theorem State.roundWord_lt (s : State) (L i : Nat) : s.roundWord L i < 2 ^ 32 := Ctr.word_lt (philox_fits ..) _

/-! ## The frame -/

section Frame
variable {s : State} {f : Wave → Wave} {res : Nat → List Val}

theorem State.finish_updWv_wv (hs : s.issue.wave < s.waves.length) : ((s.finish res).updWv f).wv = f (s.finish res).wv :=
  State.updWv_wv (s.finish res) f ((updAt_length ..).symm ▸ hs)

/-- A change of the flags, and of RSIDX in the lanes that issue, keeps the frame of a completed instruction. -/
theorem State.finish_updWv_only (h : Issuing s) {k : Nat} (hk : ∀ L, On s L → (res L).length ≤ k)
    (hrest : ∀ w, f w = { w with lanes := (f w).lanes, fpf := (f w).fpf, fpAt := (f w).fpAt, fpNew := (f w).fpNew })
    (hlane : ∀ w L, L < 32 → (f w).lane L = { w.lane L with rsidx := ((f w).lane L).rsidx })
    (hoff : ∀ w L, Off s L → (f w).lane L = w.lane L) : ResultsOnly s ((s.finish res).updWv f) k := by
  have ho := State.finish_only s res k h hk
  have hwv := State.finish_updWv_wv (f := f) (res := res) h.1
  have hval : ∀ L n, L < 32 → valIn s ((s.finish res).updWv f) L n = valIn s (s.finish res) L n := by
    intro L n hL
    show (((s.finish res).updWv f).wv.lane L).val n = _
    rw [hwv, hlane _ L hL]
    rfl
  refine ⟨rfl, fun j hj => (State.updWv_other (s.finish res) f hj).trans (ho.waves j hj), ?_, fun L hL => ?_, fun L hL => ?_, fun L hL n hn => ?_,
    fun L hL => ?_, ?_, fun L hL r hr => ?_⟩
  · have hwave := ho.wave
    unfold WaveOn at *
    rw [hwv, hrest, hwave]
  · rw [hwv, hoff _ L hL, ho.off L hL]
  · have hon := ho.on L hL
    unfold LaneOn at *
    rw [hwv, hlane _ L hL.1, hon]
  · rw [hval L n hL.1]
    exact ho.vals L hL n hn
  · rw [hwv, hlane _ L hL.1]
    exact ho.callers L hL
  · have hlands : (f (s.finish res).wv).landings = (s.finish res).wv.landings := by rw [hrest]
    rw [hwv, hlands]
    exact ho.lands
  · refine Eq.trans ?_ (ho.regs L hL r hr)
    have hg : ((f (s.finish res).wv).lane L).g = ((s.finish res).wv.lane L).g := by rw [hlane _ L hL]
    have hscal : ((f (s.finish res).wv).lane L).s = ((s.finish res).wv.lane L).s := by rw [hlane _ L hL]
    have hq : (f (s.finish res).wv).q = (s.finish res).wv.q := by rw [hrest]
    unfold Wave.regRead
    rw [hwv, hg, hscal, hq]

/-- The results stay as they were written. -/
theorem State.finish_updWv_result (h : Issuing s) (hlane : ∀ w L, L < 32 → (f w).lane L = { w.lane L with rsidx := ((f w).lane L).rsidx })
    {L k : Nat} (hL : On s L) (hk : k < (res L).length) : result s ((s.finish res).updWv f) L k = (res L).getD k 0 := by
  refine Eq.trans ?_ (State.finish_result s res h hL hk)
  show (((s.finish res).updWv f).wv.lane L).val _ = _
  rw [State.finish_updWv_wv h.1, hlane _ L hL.1]
  rfl

end Frame

/-! ## Completing -/

/-- The change of the wave besides its results: RSIDX moves on in the lanes that issue, and the flags land. -/
def State.fpLand (s : State) (words : Nat) (fl : Nat → Nat) (w : Wave) : Wave :=
  (w.mapLanes fun L l => if inMask s.active L then { l with rsidx := l.rsidx + dw words } else l).addFlags s.cycle (orAll (s.activeLanes.map fl))

section Complete
variable {i : Instr} {s : State} {words : Nat} {res : Nat → List Val × Nat}

theorem State.fpLand_lane (s : State) (words : Nat) (fl : Nat → Nat) (w : Wave) {L : Nat} (hL : L < 32) : (s.fpLand words fl w).lane L =
    if inMask s.active L then { w.lane L with rsidx := (w.lane L).rsidx + dw words } else w.lane L := by
  rw [State.fpLand, Wave.addFlags_lane, Wave.mapLanes_lane _ _ hL]

theorem State.fpLand_lane_rest (s : State) (words : Nat) (fl : Nat → Nat) (w : Wave) (L : Nat) (hL : L < 32) :
    (s.fpLand words fl w).lane L = { w.lane L with rsidx := ((s.fpLand words fl w).lane L).rsidx } := by
  rw [State.fpLand_lane s words fl w hL]
  split <;> rfl

theorem State.finishFp_only (h : Issuing s) {k : Nat} (hk : ∀ L, (res L).1.length = k) : ResultsOnly s (s.finishFp words res) k := by
  refine State.finish_updWv_only (f := s.fpLand words fun L => (res L).2) h (fun L _ => (hk L).le) (fun w => ?_)
    (fun w L hL => s.fpLand_lane_rest _ _ w L hL) fun w L hL => ?_
  · rw [State.fpLand, Wave.addFlags_rest]
    rfl
  · have hm : ¬inMask s.active L = true := Bool.eq_false_iff.mp hL.2
    rw [State.fpLand_lane _ _ _ _ hL.1, if_neg hm]

theorem State.finishFp_result (h : Issuing s) {L k : Nat} (hL : On s L) (hk : k < (res L).1.length) :
    result s (s.finishFp words res) L k = (res L).1.getD k 0 :=
  State.finish_updWv_result (f := s.fpLand words fun L => (res L).2) h (fun w L hL => s.fpLand_lane_rest _ _ w L hL) hL hk

theorem State.finishFp_flags (h : Issuing s) : FlagsLand s (s.finishFp words res) words fun L => (res L).2 := by
  have hwv : (s.finishFp words res).wv = s.fpLand words (fun L => (res L).2) (s.finish fun L => (res L).1).wv :=
    State.finish_updWv_wv (f := s.fpLand words fun L => (res L).2) h.1
  obtain ⟨hfpf, hat, hnew⟩ := State.finish_fpf s (fun L => (res L).1) h.1
  refine ⟨fun k hk => ?_, fun k hk => ?_, fun L hL => ?_⟩
  · rw [hwv, State.fpLand, Wave.addFlags_fpf _ _ _ hk, Bool.or_eq_true, testBit_orAll_lanes]
    exact or_congr_left (by rw [← hfpf]; rfl)
  · rw [hwv, State.fpLand, Wave.addFlags_survive _ _ _ hk, Bool.or_eq_true, testBit_orAll_lanes, Bool.and_eq_true, decide_eq_true_eq]
    exact or_congr_left (by rw [← hat, ← hnew]; rfl)
  · have hm : inMask s.active L = true := hL.2
    rw [hwv, State.fpLand_lane _ _ _ _ hL.1, if_pos hm, ← State.finish_rsidx s (fun L => (res L).1) h.1 hL.1]

theorem givesFp_finish {P : Nat → Val → Nat → Prop} (hi : exec i s = .next (s.finishFp words res)) (h : Issuing s)
    (hlen : ∀ L, (res L).1.length = 1) (hP : ∀ L, On s L → P L ((res L).1.getD 0 0) (res L).2) : GivesFp i s words P := by
  refine ⟨_, _, hi, State.finishFp_only h hlen, State.finishFp_flags h, fun L hL => ?_⟩
  rw [State.finishFp_result h hL (by rw [hlen]; decide)]
  exact hP L hL

theorem givesFp2_finish {P : Nat → Val → Val → Nat → Prop} (hi : exec i s = .next (s.finishFp words res)) (h : Issuing s)
    (hlen : ∀ L, (res L).1.length = 2) (hP : ∀ L, On s L → P L ((res L).1.getD 0 0) ((res L).1.getD 1 0) (res L).2) : GivesFp2 i s words P := by
  refine ⟨_, _, hi, State.finishFp_only h hlen, State.finishFp_flags h, fun L hL => ?_⟩
  rw [State.finishFp_result h hL (by rw [hlen]; decide), State.finishFp_result h hL (by rw [hlen]; decide)]
  exact hP L hL

/-- The one result of a lane is what its elements make up. -/
theorem State.putFp_result {s : State} {ty : Ty} {r : Rnd} {f : Nat → Nat → Nat → Nat × Nat} {L : Nat} (h : Issuing s) (hL : On s L) :
    result s (s.putFp ty r f) L 0 = (s.fElems ty L (f L)).1 := by
  unfold State.putFp
  rw [State.finishFp_result h hL Nat.one_pos]
  rfl

/-- The elements of a lane's result: they are those of `f`, and so are the flags. -/
theorem State.fElems_val (s : State) (ty : Ty) (L : Nat) (f : Nat → Nat → Nat × Nat) :
    (s.fElems ty L f).1 = perElem ty fun j => (f j (s.roundWord L j)).1 := by
  rw [State.fElems, perElem, List.map_map]
  rfl

theorem State.fElems_flags (s : State) (ty : Ty) (L : Nat) (f : Nat → Nat → Nat × Nat) (k : Nat) :
    (s.fElems ty L f).2.testBit k = true ↔ ∃ j, j < Ty.lanes ty ∧ (f j (s.roundWord L j)).2.testBit k = true := by
  simp [State.fElems, testBit_orAll]

/-- A floating-point instruction whose result is given element by element. -/
theorem byElementFp_putFp {ty : Ty} {r : Rnd} {f : Nat → Nat → Nat → Nat × Nat} {n : Nat} {P : Nat → Nat → Nat → Nat → Prop}
    (hi : exec i s = .next (s.putFp ty r f)) (h : Issuing s) (hn : n = wordsUsed r (Ty.lanes ty))
    (hP : ∀ L j, P L j ((f L j (s.roundWord L j)).1 % 2 ^ (Ty.elem ty).width) (f L j (s.roundWord L j)).2) : ByElementFp i s ty n P := by
  subst hn
  refine givesFp_finish hi h (fun _ => rfl) fun L _ => ?_
  show ((s.fElems ty L (f L)).1.toNat < _) ∧ _
  rw [State.fElems_val]
  refine ⟨perElem_lt .., fun j => (f L j (s.roundWord L j)).2, fun k _ => s.fElems_flags ty L (f L) k, fun j hj => ?_⟩
  show P L j (elemOf ty (s.fElems ty L (f L)).1 j) _
  rw [State.fElems_val, elemOf_perElem _ _ hj]
  exact hP L j

end Complete

end Sys2Proof.Machine
end

section
/-! Rounding of values that are known up to the place that they take between neighbours of a fine grid: quotients, roots, and scalings beyond every
format (06_float_formats.md R182, R193, R194, R199). -/
namespace Sys2Proof.Machine
open Sys2Proof Sys2Proof.Safety

/-! ## Alike on a grid -/

/-- Two magnitudes compare alike with every multiple of 2^g. -/
def GridAlike (g : Int) (a b : ℝ) : Prop := ∀ n : Int, ((n : ℝ) * 2 ^ g ≤ a ↔ (n : ℝ) * 2 ^ g ≤ b) ∧ (a ≤ n * 2 ^ g ↔ b ≤ n * 2 ^ g)

namespace GridAlike
variable {g : Int} {a b : ℝ}

theorem mono {g' : Int} (h : GridAlike g a b) (hg : g ≤ g') : GridAlike g' a b := fun n => by
  have hn : (n : ℝ) * 2 ^ g' = ((n * 2 ^ (g' - g).toNat : Int) : ℝ) * 2 ^ g := by
    rw [natCast_mul_zpow hg]
    push_cast
    ring
  rw [hn]
  exact h _

theorem le_iff (h : GridAlike g a b) {t : ℝ} (n : Int) (ht : t = n * 2 ^ g) : t ≤ a ↔ t ≤ b := ht ▸ (h n).1
theorem lt_iff (h : GridAlike g a b) {t : ℝ} (n : Int) (ht : t = n * 2 ^ g) : a < t ↔ b < t := by
  rw [← not_le, ← not_le, h.le_iff n ht]
theorem gt_iff (h : GridAlike g a b) {t : ℝ} (n : Int) (ht : t = n * 2 ^ g) : t < a ↔ t < b := by
  subst ht
  rw [← not_le, ← not_le, (h n).2]
theorem eq_iff (h : GridAlike g a b) {t : ℝ} (n : Int) (ht : t = n * 2 ^ g) : a = t ↔ b = t := by
  rw [le_antisymm_iff, le_antisymm_iff, h.le_iff n ht, ← not_lt (a := t), ← not_lt (a := t), h.gt_iff n ht]

/-- A power of two that is no finer than the grid. -/
theorem zpow_le_iff {p : Int} (h : GridAlike g a b) (hp : g ≤ p) : (2 : ℝ) ^ p ≤ a ↔ (2 : ℝ) ^ p ≤ b :=
  h.le_iff ((2 ^ (p - g).toNat : Nat) : Int) (by exact_mod_cast natCast_mul_zpow (K := ℝ) hp)

/-- The fractions of equal whole units. -/
theorem fraction {k : Nat} {q : Int} {f f' : ℝ} (h : GridAlike (q - 32) ((k + f') * 2 ^ q) ((k + f) * 2 ^ q)) : GridAlike (-32) f' f := fun n => by
  have hq := zpow_two_pos q
  have hgrid : ((n + k * 2 ^ 32 : Int) : ℝ) * 2 ^ (q - 32) = (k + n * 2 ^ (-32 : Int)) * 2 ^ q := by
    rw [sub_eq_add_neg, zpow_two_add]
    push_cast
    ring
  have hn := h (n + k * 2 ^ 32)
  rw [hgrid, mul_le_mul_iff_left₀ hq, mul_le_mul_iff_left₀ hq, mul_le_mul_iff_left₀ hq, mul_le_mul_iff_left₀ hq, add_le_add_iff_left, add_le_add_iff_left,
    add_le_add_iff_left, add_le_add_iff_left] at hn
  exact hn

/-- Two magnitudes between the same neighbours, where one is the lower neighbour only if the other is. -/
theorem of_between {k : Nat} (ha : (k : ℝ) * 2 ^ g ≤ a) (ha' : a < (k + 1) * 2 ^ g) (hb : (k : ℝ) * 2 ^ g ≤ b) (hb' : b < (k + 1) * 2 ^ g)
    (heq : a = k * 2 ^ g ↔ b = k * 2 ^ g) : GridAlike g a b := fun n => by
  have hg := zpow_two_pos g
  have hsplit : n ≤ k ∨ (k : Int) + 1 ≤ n := by omega
  rcases hsplit with hn | hn
  · have hle : (n : ℝ) * 2 ^ g ≤ k * 2 ^ g := mul_le_mul_of_nonneg_right (by exact_mod_cast hn) hg.le
    refine ⟨iff_of_true (hle.trans ha) (hle.trans hb), fun h => ?_, fun h => ?_⟩
    · exact ((heq.mp (le_antisymm (h.trans hle) ha)).trans (le_antisymm (ha.trans h) hle)).le
    · exact ((heq.mpr (le_antisymm (h.trans hle) hb)).trans (le_antisymm (hb.trans h) hle)).le
  · have hge : ((k : ℝ) + 1) * 2 ^ g ≤ n * 2 ^ g := mul_le_mul_of_nonneg_right (by exact_mod_cast hn) hg.le
    exact ⟨iff_of_false (not_le.mpr (ha'.trans_le hge)) (not_le.mpr (hb'.trans_le hge)), iff_of_true (ha'.le.trans hge) (hb'.le.trans hge)⟩

end GridAlike

/-- The choice to round up is alike for fractions that are alike. -/
theorem roundsUp_congr {r : Rnd} {u k : Nat} {p p' : Prop} {f f' : ℝ} (h : GridAlike (-32) f' f) (hp : p' ↔ p) :
    RoundsUp r u p' k f' ↔ RoundsUp r u p k f := by
  have hhalf : (1 : ℝ) / 2 = ((2 ^ 31 : Int) : ℝ) * 2 ^ (-32 : Int) := by norm_num
  have hzero : (0 : ℝ) = ((0 : Int) : ℝ) * 2 ^ (-32 : Int) := by norm_num
  cases r with
  | rne => exact or_congr (h.gt_iff _ hhalf) (and_congr_left fun _ => h.eq_iff _ hhalf)
  | rtz => exact Iff.rfl
  | rna => exact h.le_iff _ hhalf
  | rup => exact and_congr (h.gt_iff _ hzero) hp.not
  | rdn => exact and_congr (h.gt_iff _ hzero) hp
  | rsto =>
    have hfloor : ⌊f' * 2 ^ 32⌋ = ⌊f * 2 ^ 32⌋ := by
      refine eq_of_forall_le_iff fun n => ?_
      have hn : ∀ f : ℝ, (n : ℝ) ≤ f * 2 ^ 32 ↔ (n : ℝ) * 2 ^ (-32 : Int) ≤ f := fun f => by
        rw [zpow_neg, ← div_eq_mul_inv, div_le_iff₀ (zpow_two_pos 32)]
        norm_cast
      rw [Int.le_floor, Int.le_floor, hn, hn]
      exact (h n).1
    unfold RoundsUp
    rw [hfloor]

/-! ## Spacings -/

section Spacings
variable {e : Elem} {fm : FMod} {u d fl : Nat} {v w : ℝ} {q : Int}

theorem binade_unique {a : ℝ} {p p' : Int} (h1 : (2 : ℝ) ^ p ≤ a) (h2 : a < 2 ^ (p + 1)) (h3 : (2 : ℝ) ^ p' ≤ a) (h4 : a < 2 ^ (p' + 1)) : p = p' := by
  have := zpow_two_lt.mp (h1.trans_lt h4)
  have := zpow_two_lt.mp (h3.trans_lt h2)
  omega

theorem spacingIs_bounds (h : isS e) (hs : SpacingIs e v q) : fSubExp e ≤ q ∧ q ≤ fTopExp e := by
  obtain ⟨p, -, -, hq⟩ := spacingIs_iff.mp hs
  have := fSubExp_lt_fTopExp h
  omega

/-- Above the subnormal spacing a magnitude is normal. -/
theorem normal_le_of_spacingIs (hs : SpacingIs e v q) (hq : fSubExp e < q) : (2 : ℝ) ^ (1 - (fBias e : Int)) ≤ v := by
  obtain ⟨p, hlow, -, hpq⟩ := spacingIs_iff.mp hs
  refine le_trans (zpow_two_le.mpr ?_) hlow
  have hexp : (1 - (fBias e : Int)) = fSubExp e + fMan e := by unfold fSubExp; ring
  omega

/-- A value that stands on the grid as a rounded one does is rounded to the same code with the same flags. -/
theorem roundIs_congr (h : isS e) (hneg : v < 0 ↔ w < 0) (hs : ∀ q, SpacingIs e |w| q → SpacingIs e |v| q ∧ GridAlike (q - 32) |v| |w|)
    (hw : RoundIs e fm u w d fl) : RoundIs e fm u v d fl := by
  obtain ⟨q, y, f, hspacing, ⟨k, hk, hf0, hf1, hup, hdown⟩, hres⟩ := hw
  obtain ⟨hspacing', hgrid⟩ := hs q hspacing
  obtain ⟨hsub, htop⟩ := spacingIs_bounds h hspacing
  obtain ⟨f', hf'⟩ : ∃ f', |v| = (k + f') * 2 ^ q := ⟨|v| / 2 ^ q - k, by field_simp; ring⟩
  have hfr : GridAlike (-32) f' f := GridAlike.fraction (hk ▸ hf' ▸ hgrid)
  have hchoice := roundsUp_congr (r := fm.rnd) (u := u) (k := k) hfr hneg
  have hzero : f' = 0 ↔ f = 0 := hfr.eq_iff 0 (by norm_num)
  have h32 : (2 : ℝ) ^ q = 2 ^ 32 * 2 ^ (q - 32) := by
    rw [← zpow_natCast, ← zpow_two_add]
    norm_num
  have hpast : (ratOf (fDecode e (fMaxCode e)) : ℝ) + 2 ^ q / 2 ≤ |v| ↔ (ratOf (fDecode e (fMaxCode e)) : ℝ) + 2 ^ q / 2 ≤ |w| := by
    refine hgrid.le_iff (fTopSig e * 2 ^ (fTopExp e - q).toNat * 2 ^ 32 + 2 ^ 31) ?_
    rw [fMaxCode_value h, natCast_mul_zpow htop, h32]
    push_cast
    ring
  have hnormal : |v| < (2 : ℝ) ^ (1 - (fBias e : Int)) ↔ |w| < (2 : ℝ) ^ (1 - (fBias e : Int)) := by
    rcases hsub.lt_or_eq with hq | rfl
    · exact iff_of_false (not_lt.mpr (normal_le_of_spacingIs hspacing' hq)) (not_lt.mpr (normal_le_of_spacingIs hspacing hq))
    · refine hgrid.lt_iff (2 ^ fMan e * 2 ^ 32) ?_
      rw [normal_eq, h32]
      push_cast
      ring
  have hnormal' : (2 : ℝ) ^ (1 - (fBias e : Int)) ≤ |v| ↔ (2 : ℝ) ^ (1 - (fBias e : Int)) ≤ |w| := by rw [← not_lt, hnormal, not_lt]
  refine ⟨q, y, f', hspacing', ⟨k, hf', ?_, ?_, fun hu => hup (hchoice.mp hu), fun hu => hdown (hchoice.not.mp hu)⟩, ?_⟩
  · exact (hfr.le_iff 0 (by norm_num)).mpr hf0
  · exact (hfr.lt_iff (2 ^ 32) (by norm_num)).mpr hf1
  · dsimp only at hres ⊢
    rw [hpast, hneg, hnormal, hnormal', hzero, hzero.ne]
    exact hres

/-! ## Beyond every format -/

/-- The result of an overflow (R183). -/
def Overflowed (e : Elem) (fm : FMod) (neg : Prop) (d fl : Nat) : Prop :=
  fl = flOF ||| flNX ∧ (OverflowsToInf fm.rnd neg → InfIs e fm.sat neg d) ∧ (¬OverflowsToInf fm.rnd neg → CodeIs e neg (fMaxCode e) d)

/-- Exponent from which on every magnitude overflows in every mode. -/
def fFarExp (e : Elem) : Int := fTopExp e + fMan e + 1

theorem spacingIs_of_far {a : ℝ} (ha : (2 : ℝ) ^ fFarExp e ≤ a) : SpacingIs e a q ↔ q = fTopExp e := by
  have hbinade : ∀ p : Int, a < 2 ^ (p + 1) → min (max (p - fMan e) (fSubExp e)) (fTopExp e) = fTopExp e := fun p hp => by
    have := zpow_two_lt.mp (ha.trans_lt hp)
    unfold fFarExp at this
    omega
  rw [spacingIs_iff]
  constructor
  · rintro ⟨p, -, hhigh, rfl⟩
    exact hbinade p hhigh
  · rintro rfl
    obtain ⟨p, hlow, hhigh⟩ := exists_mem_Ico_zpow ((zpow_two_pos _).trans_le ha) one_lt_two
    exact ⟨p, hlow, hhigh, (hbinade p hhigh).symm⟩

/-- Far beyond the largest finite value all magnitudes round alike. -/
theorem roundIs_of_far (h : isS e) (hv : (2 : ℝ) ^ fFarExp e ≤ |v|) : RoundIs e fm u v d fl ↔ Overflowed e fm (v < 0) d fl := by
  have hpos := zpow_two_pos (fTopExp e)
  have htop := fMaxCode_value h
  have hunits : (2 : ℝ) ^ fFarExp e = 2 * 2 ^ fMan e * 2 ^ fTopExp e := by
    rw [fFarExp, zpow_two_succ, zpow_two_add, zpow_natCast]
    ring
  have hpast : ∀ {k y : Nat} {f : ℝ}, |v| = (k + f) * 2 ^ fTopExp e → f < 1 → k ≤ y → (ratOf (fDecode e (fMaxCode e)) : ℝ) < y * 2 ^ fTopExp e := by
    intro k y f hk hf hy
    rw [hunits, hk, mul_le_mul_iff_left₀ hpos] at hv
    have h2 : 2 * 2 ^ fMan e ≤ k := Spaced.le_of_real_lt (by push_cast; linarith)
    rw [htop, mul_lt_mul_iff_left₀ hpos, Nat.cast_lt]
    exact (fTopSig_bounds e).2.trans_le (h2.trans hy)
  constructor
  · rintro ⟨q, y, f, hspacing, ⟨k, hk, -, hf1, hup, hdown⟩, hres, -⟩
    obtain rfl := (spacingIs_of_far hv).mp hspacing
    have hy : k ≤ y := by
      by_cases hu : RoundsUp fm.rnd u (v < 0) k f
      · exact (hup hu).symm ▸ k.le_succ
      · exact (hdown hu).ge
    exact hres (.inl (hpast hk hf1 hy))
  · intro hover
    obtain ⟨f, k, hf0, hf1, hk⟩ : ∃ (f : ℝ) (k : Nat), 0 ≤ f ∧ f < 1 ∧ |v| = (k + f) * 2 ^ fTopExp e := by
      refine ⟨|v| / 2 ^ fTopExp e - ⌊|v| / 2 ^ fTopExp e⌋₊, ⌊|v| / 2 ^ fTopExp e⌋₊, ?_, ?_, ?_⟩
      · exact sub_nonneg.mpr (Nat.floor_le (by positivity))
      · exact sub_lt_iff_lt_add'.mpr (Nat.lt_floor_add_one _)
      · field_simp
        ring
    obtain ⟨y, hup, hdown, hy⟩ : ∃ y : Nat, (RoundsUp fm.rnd u (v < 0) k f → y = k + 1) ∧ (¬RoundsUp fm.rnd u (v < 0) k f → y = k) ∧ k ≤ y := by
      by_cases hu : RoundsUp fm.rnd u (v < 0) k f
      · exact ⟨k + 1, fun _ => rfl, fun hn => absurd hu hn, k.le_succ⟩
      · exact ⟨k, fun hy => absurd hy hu, fun _ => rfl, le_refl k⟩
    have hyes := hpast hk hf1 hy
    exact ⟨fTopExp e, y, f, (spacingIs_of_far hv).mpr rfl, ⟨k, hk, hf0, hf1, hup, hdown⟩, fun _ => hover, fun hn => absurd (.inl hyes) hn,
      fun hn => absurd (.inl hyes) hn⟩

end Spacings

end Sys2Proof.Machine
end

section
/-! Quotients and roots, truncated with a bit for what was cut off (06_float_formats.md R193, R194), and scalings (R199). -/
namespace Sys2Proof.Machine
open Sys2Proof Sys2Proof.Safety

/-! ## A truncated magnitude with the cut bit -/

section Jam
variable {e : Elem} {fm : FMod} {u k : Nat} {cut neg : Bool} {g : Int} {v : ℝ}

/-- What the truncated magnitude with its cut bit stands for. -/
theorem jam_value (k : Nat) (cut : Bool) (g : Int) : ((jam k cut g).1 : ℝ) * 2 ^ (jam k cut g).2 = (k + bitOf cut / 2) * 2 ^ g := by
  rw [jam, zpow_sub_one₀ two_ne_zero]
  push_cast
  ring

/-- `a` lies in the unit that begins at `k`, on its border where nothing was cut off. -/
structure Truncated (a : ℝ) (k : Nat) (cut : Bool) (g : Int) : Prop where
  low : (k : ℝ) * 2 ^ g ≤ a
  high : a < (k + 1) * 2 ^ g
  exact : a = k * 2 ^ g ↔ cut = false

theorem Truncated.gridAlike {a : ℝ} (h : Truncated a k cut g) : GridAlike g a ((jam k cut g).1 * 2 ^ (jam k cut g).2) := by
  have hg := zpow_two_pos g
  rw [jam_value]
  refine GridAlike.of_between h.low h.high ?_ ?_ ?_
  · exact mul_le_mul_of_nonneg_right (le_add_of_nonneg_right (by positivity)) hg.le
  · refine mul_lt_mul_of_pos_right ?_ hg
    cases cut
    · simp [bitOf]
    · norm_num [bitOf]
  · rw [h.exact, mul_left_inj' hg.ne']
    cases cut <;> simp [bitOf]

/-- A magnitude is as large as its bits say. -/
theorem Truncated.zpow_le {a : ℝ} {b : Nat} (h : Truncated a k cut g) (hk : 2 ^ b ≤ k) : (2 : ℝ) ^ ((b : Int) + g) ≤ a := by
  have hcast : ((2 ^ b : Nat) : ℝ) ≤ k := Nat.cast_le.mpr hk
  rw [zpow_two_add, zpow_natCast]
  refine le_trans (mul_le_mul_of_nonneg_right ?_ (zpow_two_pos g).le) h.low
  exact_mod_cast hcast

theorem jam_ne_zero (hk : 0 < k) (cut : Bool) (g : Int) : (jam k cut g).1 ≠ 0 := by
  unfold jam
  dsimp only
  omega

/-- A truncated magnitude of enough bits rounds as the exact one does. -/
theorem fRound_jam (h : isS e) (ht : Truncated |v| k cut g) (hk : 2 ^ (fMan e + 33) ≤ k) (hneg : v < 0 ↔ neg = true) :
    RoundIs e fm u v (fRound e fm u neg (jam k cut g).1 (jam k cut g).2).1 (fRound e fm u neg (jam k cut g).1 (jam k cut g).2).2 := by
  have hk0 : 0 < k := lt_of_lt_of_le (by positivity) hk
  have hm := jam_ne_zero hk0 cut g
  have hround := fRound_roundIs (fm := fm) (u := u) (neg := neg) (x := (jam k cut g).2) h hm
  have hgrid := ht.gridAlike
  rw [← abs_ratOf neg] at hgrid
  have hsign : v < 0 ↔ (ratOf (.fin neg (jam k cut g).1 (jam k cut g).2) : ℝ) < 0 := hneg.trans (ratOf_neg_iff hm _ _).symm
  have hlow := (hgrid.zpow_le_iff (by omega)).mp (ht.zpow_le hk)
  obtain ⟨p, hp1, hp2⟩ := exists_mem_Ico_zpow ((zpow_two_pos _).trans_le hlow) (one_lt_two (α := ℝ))
  have hpg : ((fMan e + 33 : Nat) : Int) + g ≤ p := by have := zpow_two_lt.mp (hlow.trans_lt hp2); omega
  rcases lt_or_ge p (fFarExp e) with hnear | hfar
  · refine roundIs_congr h hsign (fun q hq => ?_) hround
    obtain ⟨p', hp1', hp2', hspacing⟩ := spacingIs_iff.mp hq
    obtain rfl := binade_unique hp1 hp2 hp1' hp2'
    refine ⟨spacingIs_iff.mpr ⟨p, (hgrid.zpow_le_iff (by omega)).mpr hp1, ?_, hspacing⟩, hgrid.mono ?_⟩
    · rw [← not_le, hgrid.zpow_le_iff (by omega), not_le]
      exact hp2
    · unfold fFarExp at hnear
      omega
  · have hfar' := (zpow_two_le.mpr hfar).trans hp1
    rw [roundIs_of_far h hfar', ← iff_eq_eq.mp hsign] at hround
    exact (roundIs_of_far h ((zpow_two_le.mpr hfar).trans ((hgrid.zpow_le_iff (by omega)).mpr hp1))).mpr hround

end Jam

/-! ## Quotients -/

theorem fMan_le (e : Elem) : fMan e ≤ 52 := by cases e <;> decide

theorem fSig_lt_two_pow (e : Elem) (g : Nat) : fSig e g < 2 ^ 64 :=
  (fSig_lt e g).trans_le (by rw [← pow_succ']; exact Nat.pow_le_pow_right two_pos (by have := fMan_le e; omega))

section Quotient
variable {e : Elem} {fm : FMod} {u m1 m2 : Nat} {x1 x2 : Int} {neg : Bool} {v : ℝ}

theorem truncated_quotient (hm : m2 ≠ 0) (n : Nat) (g : Int) : Truncated ((n : ℝ) / m2 * 2 ^ g) (n / m2) (n % m2 != 0) g := by
  have hg := zpow_two_pos g
  have hpos : (0 : ℝ) < m2 := Nat.cast_pos.mpr (Nat.pos_of_ne_zero hm)
  refine ⟨mul_le_mul_of_nonneg_right Nat.cast_div_le hg.le, mul_lt_mul_of_pos_right ?_ hg, ?_⟩
  · rw [div_lt_iff₀ hpos]
    exact_mod_cast Nat.lt_mul_of_div_lt (Nat.lt_succ_self _) (Nat.pos_of_ne_zero hm)
  · rw [mul_left_inj' hg.ne', div_eq_iff hpos.ne', bne_eq_false_iff_eq, ← Nat.dvd_iff_mod_eq_zero, Nat.dvd_iff_div_mul_eq, eq_comm]
    norm_cast

/-- A quotient of magnitudes is rounded once. -/
theorem fRound_quotJam (h : isS e) (hm1 : m1 ≠ 0) (hm2 : m2 ≠ 0) (hlt : m2 < 2 ^ 64) (hv : |v| = m1 * 2 ^ x1 / (m2 * 2 ^ x2))
    (hneg : v < 0 ↔ neg = true) : RoundIs e fm u v (fRound e fm u neg (quotJam m1 x1 m2 x2).1 (quotJam m1 x1 m2 x2).2).1
      (fRound e fm u neg (quotJam m1 x1 m2 x2).1 (quotJam m1 x1 m2 x2).2).2 := by
  have hvalue : |v| = ((m1 * 2 ^ 200 : Nat) : ℝ) / m2 * 2 ^ (x1 - x2 - 200) := by
    have h200 : (2 : ℝ) ^ (x1 - x2 - 200) = 2 ^ x1 / 2 ^ x2 / 2 ^ 200 := by
      rw [zpow_sub₀ two_ne_zero, zpow_sub₀ two_ne_zero]
      norm_cast
    rw [hv, h200, Nat.cast_mul, Nat.cast_pow, Nat.cast_ofNat]
    field_simp
  refine fRound_jam h (hvalue ▸ truncated_quotient hm2 (m1 * 2 ^ 200) _) ?_ hneg
  rw [Nat.le_div_iff_mul_le (Nat.pos_of_ne_zero hm2)]
  calc 2 ^ (fMan e + 33) * m2 ≤ 2 ^ 85 * 2 ^ 64 := Nat.mul_le_mul (Nat.pow_le_pow_right two_pos (by have := fMan_le e; omega)) hlt.le
    _ ≤ 1 * 2 ^ 200 := by norm_num
    _ ≤ m1 * 2 ^ 200 := Nat.mul_le_mul_right _ (Nat.pos_of_ne_zero hm1)

end Quotient

/-! ## Square roots -/

/-- The search from the top bit keeps the root between its bounds. -/
theorem isqrtFrom_bounds (n k r : Nat) (h1 : r * r ≤ n) (h2 : n < (r + 2 ^ k) * (r + 2 ^ k)) :
    isqrtFrom n k r * isqrtFrom n k r ≤ n ∧ n < (isqrtFrom n k r + 1) * (isqrtFrom n k r + 1) := by
  induction k generalizing r with
  | zero => exact ⟨h1, h2⟩
  | succ k ih =>
    unfold isqrtFrom
    rw [pow_succ, Nat.mul_two, ← Nat.add_assoc] at h2
    dsimp only
    split
    · next h => exact ih _ h h2
    · next h => exact ih _ h1 (Nat.not_le.mp h)

theorem isqrt_eq_sqrt (n : Nat) : isqrt n = Nat.sqrt n := by
  rw [Nat.eq_sqrt]
  refine isqrtFrom_bounds n _ 0 (Nat.zero_le n) ?_
  rw [Nat.zero_add, ← pow_add]
  exact Nat.lt_log2_self.trans_le (Nat.pow_le_pow_right two_pos (by omega))

section Root
variable {e : Elem} {fm : FMod} {u m : Nat} {x : Int}

/-- The root of a real number that truncates to `n`. -/
theorem truncated_sqrt {t : ℝ} {n : Nat} (hn : (n : ℝ) ≤ t) (hn' : t < n + 1) {cut : Bool} (hcut : t = (Nat.sqrt n * Nat.sqrt n : Nat) ↔ cut = false)
    (g : Int) : Truncated (Real.sqrt t * 2 ^ g) (Nat.sqrt n) cut g := by
  have hg := zpow_two_pos g
  have ht : 0 ≤ t := (Nat.cast_nonneg n).trans hn
  have hlow : ((Nat.sqrt n * Nat.sqrt n : Nat) : ℝ) ≤ n := Nat.cast_le.mpr (Nat.sqrt_le n)
  have hhigh : ((n + 1 : Nat) : ℝ) ≤ ((Nat.sqrt n + 1) * (Nat.sqrt n + 1) : Nat) := Nat.cast_le.mpr (Nat.lt_succ_sqrt n)
  push_cast at hlow hhigh hcut
  refine ⟨mul_le_mul_of_nonneg_right ?_ hg.le, mul_lt_mul_of_pos_right ?_ hg, ?_⟩
  · exact Real.le_sqrt_of_sq_le (by rw [sq]; linarith)
  · rw [Real.sqrt_lt' (by positivity), sq]
    linarith
  · rw [mul_left_inj' hg.ne', Real.sqrt_eq_iff_mul_self_eq ht (Nat.cast_nonneg _), ← hcut, eq_comm]

theorem sqrt_scaled (t : ℝ) (j : Int) : Real.sqrt (t * 2 ^ (2 * j)) = Real.sqrt t * 2 ^ j := by
  rw [mul_comm 2 j, zpow_mul, Real.sqrt_mul' _ (by positivity), show ((2 : ℝ) ^ j) ^ (2 : Int) = (2 ^ j) ^ 2 by norm_cast,
    Real.sqrt_sq (zpow_two_pos j).le]

theorem sqrtJam_truncated (m : Nat) (x : Int) (h : Nat) (hh : h = if x % 2 = 0 then 200 else 201) :
    Truncated (Real.sqrt (m * 2 ^ x)) (isqrt (m * 2 ^ h)) (isqrt (m * 2 ^ h) * isqrt (m * 2 ^ h) != m * 2 ^ h) ((x - h) / 2) := by
  have hx : x = (h : Int) + 2 * ((x - h) / 2) := by split at hh <;> omega
  have hvalue : (m : ℝ) * 2 ^ x = ((m * 2 ^ h : Nat) : ℝ) * 2 ^ (2 * ((x - h) / 2)) := by
    conv_lhs => rw [hx, zpow_two_add, zpow_natCast]
    push_cast
    ring
  rw [hvalue, sqrt_scaled, isqrt_eq_sqrt]
  refine truncated_sqrt (le_refl _) (lt_add_one _) ?_ _
  rw [Nat.cast_inj, bne_eq_false_iff_eq, eq_comm]

/-- A square root is rounded once. -/
theorem fRound_sqrtJam (h : isS e) (hm : m ≠ 0) : RoundIs e fm u (Real.sqrt (m * 2 ^ x)) (fRound e fm u false (sqrtJam m x).1 (sqrtJam m x).2).1
    (fRound e fm u false (sqrtJam m x).1 (sqrtJam m x).2).2 := by
  have hnonneg := Real.sqrt_nonneg ((m : ℝ) * 2 ^ x)
  refine fRound_jam h ((abs_of_nonneg hnonneg).symm ▸ sqrtJam_truncated m x _ rfl) ?_ (iff_of_false (not_lt.mpr hnonneg) Bool.false_ne_true)
  rw [isqrt_eq_sqrt, Nat.le_sqrt, ← pow_add]
  calc 2 ^ (fMan e + 33 + (fMan e + 33)) ≤ 2 ^ (if x % 2 = 0 then 200 else 201) :=
        Nat.pow_le_pow_right two_pos (by have := fMan_le e; split <;> omega)
    _ ≤ m * 2 ^ (if x % 2 = 0 then 200 else 201) := Nat.le_mul_of_pos_left _ (Nat.pos_of_ne_zero hm)

theorem rsqrtJam_truncated (hm : m ≠ 0) (x : Int) {m' r : Nat} {x' : Int} (hm' : m' = if x % 2 = 0 then m else 2 * m)
    (hx' : x' = if x % 2 = 0 then x else x - 1) (hr : r = isqrt (2 ^ 400 / m')) :
    Truncated (1 / Real.sqrt (m * 2 ^ x)) r (r * r * m' != 2 ^ 400) (-200 - x' / 2) := by
  have hpos : 0 < m' := by split at hm' <;> omega
  have hpos' : (0 : ℝ) < m' := Nat.cast_pos.mpr hpos
  have heven : x' = 2 * (x' / 2) := by split at hx' <;> omega
  have hmx : (m : ℝ) * 2 ^ x = m' * 2 ^ (2 * (x' / 2)) := by
    rw [← heven, hm', hx']
    split
    · rfl
    · rw [zpow_sub_one₀ two_ne_zero]
      push_cast
      ring
  have hvalue : (1 / ((m : ℝ) * 2 ^ x)) = ((2 ^ 400 : Nat) : ℝ) / m' * 2 ^ (2 * (-200 - x' / 2)) := by
    have h400 : (2 : ℝ) ^ (2 * (-200 - x' / 2)) = 1 / 2 ^ 400 / 2 ^ (2 * (x' / 2)) := by
      rw [mul_sub, zpow_sub₀ two_ne_zero, show (2 : Int) * -200 = -((400 : Nat) : Int) by norm_num, zpow_neg, zpow_natCast, one_div]
    rw [hmx, h400, Nat.cast_pow, Nat.cast_ofNat]
    field_simp
  rw [← Real.sqrt_one, ← Real.sqrt_div zero_le_one, hvalue, sqrt_scaled, hr, isqrt_eq_sqrt]
  generalize 2 ^ 400 = n
  refine truncated_sqrt Nat.cast_div_le ?_ ?_ _
  · rw [div_lt_iff₀ hpos']
    exact_mod_cast Nat.lt_mul_of_div_lt (Nat.lt_succ_self _) hpos
  · rw [div_eq_iff hpos'.ne', bne_eq_false_iff_eq, eq_comm]
    norm_cast

theorem two_pow_le_sqrt_div {n b w : Nat} (hm : 0 < m) (hlt : m ≤ 2 ^ b) (hw : n + n + b ≤ w) : 2 ^ n ≤ Nat.sqrt (2 ^ w / m) := by
  rw [Nat.le_sqrt, ← pow_add, Nat.le_div_iff_mul_le hm]
  calc 2 ^ (n + n) * m ≤ 2 ^ (n + n) * 2 ^ b := Nat.mul_le_mul_left _ hlt
    _ = 2 ^ (n + n + b) := (pow_add ..).symm
    _ ≤ 2 ^ w := Nat.pow_le_pow_right two_pos hw

theorem rsqrtJam_bits (hm : m ≠ 0) (hlt : m < 2 ^ 64) (x : Int) (e : Elem) :
    2 ^ (fMan e + 33) ≤ isqrt (2 ^ 400 / if x % 2 = 0 then m else 2 * m) := by
  have hm' : 0 < (if x % 2 = 0 then m else 2 * m) ∧ (if x % 2 = 0 then m else 2 * m) ≤ 2 ^ 65 := by split <;> omega
  rw [isqrt_eq_sqrt]
  exact two_pow_le_sqrt_div hm'.1 hm'.2 (by have := fMan_le e; omega)

/-- The reciprocal of a square root, where it is rounded once. -/
theorem fRound_rsqrtJam (h : isS e) (hm : m ≠ 0) (hlt : m < 2 ^ 64) : RoundIs e fm u (1 / Real.sqrt (m * 2 ^ x))
    (fRound e fm u false (rsqrtJam m x).1 (rsqrtJam m x).2).1 (fRound e fm u false (rsqrtJam m x).1 (rsqrtJam m x).2).2 := by
  have hnonneg : 0 ≤ 1 / Real.sqrt ((m : ℝ) * 2 ^ x) := by positivity
  exact fRound_jam h ((abs_of_nonneg hnonneg).symm ▸ rsqrtJam_truncated hm x rfl rfl rfl) (rsqrtJam_bits hm hlt x e)
    (iff_of_false (not_lt.mpr hnonneg) Bool.false_ne_true)

end Root

end Sys2Proof.Machine
end

section
/-! Results within a bound of the exact value (06_float_formats.md R194, R201): what the model's choice among the codes near it can be. -/
namespace Sys2Proof.Machine
open Sys2Proof Sys2Proof.Safety

/-! ## Exact sums -/

/-- The signed sum of two exact values. -/
theorem sumExact_value {K : Type*} [Field K] [CharZero K] (n1 : Bool) (m1 : Nat) (x1 : Int) (n2 : Bool) (m2 : Nat) (x2 : Int) :
    ((sumExact n1 m1 x1 n2 m2 x2).1 : K) * 2 ^ (sumExact n1 m1 x1 n2 m2 x2).2 =
      (if n1 then -1 else 1) * m1 * 2 ^ x1 + (if n2 then -1 else 1) * m2 * 2 ^ x2 := by
  rw [natCast_mul_zpow (min_le_left x1 x2), natCast_mul_zpow (min_le_right x1 x2), sumExact]
  cases n1 <;> cases n2 <;> simp <;> ring

/-- The test of the model is that of the distance. -/
theorem withinHalves_iff (m1 : Nat) (x1 : Int) (m2 : Nat) (x2 : Int) (b2 : Nat) (q : Int) :
    withinHalves m1 x1 m2 x2 b2 q = true ↔ |(m1 : ℝ) * 2 ^ x1 - m2 * 2 ^ x2| ≤ b2 * 2 ^ (q - 1) := by
  have hsum := sumExact_value (K := ℝ) false m1 x1 true m2 x2
  rw [withinHalves]
  generalize sumExact false m1 x1 true m2 x2 = t at hsum ⊢
  have hdist : |(m1 : ℝ) * 2 ^ x1 - m2 * 2 ^ x2| = t.1.natAbs * 2 ^ t.2 := by
    have hval : (m1 : ℝ) * 2 ^ x1 - m2 * 2 ^ x2 = t.1 * 2 ^ t.2 := by
      rw [hsum]
      simp
      ring
    rw [hval, abs_mul, abs_of_pos (zpow_two_pos t.2), Nat.cast_natAbs, Int.cast_abs]
  have hpos := zpow_two_pos (min t.2 (q - 1))
  rw [hdist, natCast_mul_zpow (min_le_left t.2 (q - 1)), natCast_mul_zpow (min_le_right t.2 (q - 1)), ← mul_assoc, ← mul_assoc, mul_le_mul_iff_left₀ hpos,
    decide_eq_true_eq]
  norm_cast

/-! ## Codes near a value -/

section Near
variable {e : Elem} {m : Nat} {x : Int}

/-- A code near a value stands for a value within the bound. -/
theorem mem_codesNear (h : isS e) {b2 lim c : Nat} (hlim : lim ≤ fMaxCode e) (hc : c ∈ codesNear e b2 lim m x) :
    c ≤ fMaxCode e ∧ |(fUnits e c : ℝ) * 2 ^ fSubExp e - m * 2 ^ x| ≤ b2 * 2 ^ (spacingExp e m x - 1) := by
  unfold codesNear at hc
  simp only [List.mem_filter, Bool.and_eq_true, decide_eq_true_eq] at hc
  obtain ⟨-, hle, hnear⟩ := hc
  have hmax := hle.trans hlim
  have hmag : fMag e c = c := Nat.mod_eq_of_lt (hmax.trans_lt (fMaxCode_lt h))
  rw [fDecode_of_le h (hmag.le.trans hmax), hmag] at hnear
  rw [← fSig_mul_zpow]
  exact ⟨hmax, (withinHalves_iff ..).mp hnear⟩

/-- The truncated value is near, where it does not pass the largest finite one. -/
theorem codesNear_ne_nil (h : isS e) (hm : m ≠ 0) {b2 lim : Nat} (hb : 2 ≤ b2)
    (hlim : codeOf e (unitsOf m x (spacingExp e m x)).1 (spacingExp e m x) ≤ lim) (hmax : lim ≤ fMaxCode e) : codesNear e b2 lim m x ≠ [] := by
  obtain ⟨⟨k, rem, d⟩, hu⟩ : ∃ w, unitsOf m x (spacingExp e m x) = w := ⟨_, rfl⟩
  have hs : Spaced e (m * 2 ^ x) (Nat.log2 m + x) (spacingExp e m x) k k (rem / d) := spaced_unitsOf hm hu false
  rw [hu] at hlim
  have hfin := hlim.trans hmax
  obtain ⟨mc, xc, hd, hvalue⟩ := hs.decode_codeOf h hfin
  refine List.ne_nil_of_mem (a := codeOf e k (spacingExp e m x)) ?_
  unfold codesNear
  simp only [List.mem_filter, Bool.and_eq_true, decide_eq_true_eq, List.mem_eraseDups, List.mem_map, List.mem_range, hu]
  refine ⟨⟨3, by decide, Nat.add_sub_cancel ..⟩, hlim, ?_⟩
  rw [hd]
  refine (withinHalves_iff ..).mpr ?_
  have hq := zpow_two_pos (spacingExp e m x)
  have hb' : (2 : ℝ) ≤ b2 := by exact_mod_cast hb
  rw [hvalue, hs.units, zpow_sub_one₀ two_ne_zero, abs_sub_comm]
  have hfr := hs.fraction
  have hdiff : ((k : ℝ) + rem / d) * 2 ^ spacingExp e m x - k * 2 ^ spacingExp e m x = rem / d * 2 ^ spacingExp e m x := by ring
  rw [hdiff, abs_of_nonneg (mul_nonneg hfr.1 hq.le)]
  nlinarith [hfr.2]

theorem flushOut_no_overflow {ftzo : Bool} {c fl : Nat} (hfl : fl &&& flOF = 0) : (flushOut e ftzo c fl).2 &&& flOF = 0 := by
  unfold flushOut
  split
  · show (fl ||| flUF ||| flNX) &&& flOF = 0
    rw [Nat.and_or_distrib_right, Nat.and_or_distrib_right, hfl]
    decide
  · exact hfl

/-- Below the last binade nothing overflows. -/
theorem fRound_no_overflow (h : isS e) (hm : m ≠ 0) (hp : (Nat.log2 m : Int) + x < fTopExp e + fMan e) (fm : FMod) (u : Nat) (neg : Bool) :
    (fRound e fm u neg m x).2 &&& flOF = 0 := by
  obtain ⟨⟨k, rem, d⟩, hu⟩ : ∃ w, unitsOf m x (spacingExp e m x) = w := ⟨_, rfl⟩
  have hs := spaced_unitsOf hm hu (roundUp fm.rnd u neg k rem d)
  have hq : spacingExp e m x < fTopExp e := by
    have := fSubExp_lt_fTopExp h
    rw [spacingExp_eq]
    omega
  have hy := hs.rounded_le hq
  have hk := hs.lt_two_pow hq
  have hcode := hs.codeOf_add_le h hq
  rw [fRound_eq hu rfl]
  generalize (if roundUp fm.rnd u neg k rem d then k + 1 else k) = y at *
  rw [if_neg]
  · refine flushOut_no_overflow ?_
    split
    · decide
    · split <;> decide
  · have := hcode y
    have := hcode k
    omega

/-- The approximate result is within the bound of the exact value, where that is normal and below the last binade. -/
theorem fApprox_near (h : isS e) (hm : m ≠ 0) (hlow : fSubExp e + fMan e < (Nat.log2 m : Int) + x) (hhigh : (Nat.log2 m : Int) + x < fTopExp e + fMan e)
    (fm : FMod) (choice : Nat) :
    ∃ c, (fApprox e fm 2 (fMaxCode e) choice false m x).1 = c ∧ c ≤ fMaxCode e ∧ (2 : ℝ) ^ ((Nat.log2 m : Int) + x - 1) ≤ fUnits e c * 2 ^ fSubExp e ∧
      |(fUnits e c : ℝ) * 2 ^ fSubExp e - m * 2 ^ x| ≤ 2 ^ spacingExp e m x := by
  have hq : spacingExp e m x = (Nat.log2 m : Int) + x - fMan e := by rw [spacingExp_eq]; omega
  obtain ⟨hbinade, -⟩ := log2_binade hm x
  have hno := fRound_no_overflow h hm hhigh { fm with rnd := .rne, ftzo := false } 0 false
  have hnil : codesNear e 2 (min (fMaxCode e) (fMaxCode e)) m x ≠ [] := by
    obtain ⟨⟨k, rem, d⟩, hu⟩ : ∃ w, unitsOf m x (spacingExp e m x) = w := ⟨_, rfl⟩
    have hs : Spaced e (m * 2 ^ x) (Nat.log2 m + x) (spacingExp e m x) k k (rem / d) := spaced_unitsOf hm hu false
    have hcode := hs.codeOf_add_le h (by omega) k
    have hk := hs.lt_two_pow (by omega)
    refine codesNear_ne_nil h hm (le_refl 2) ?_ (min_le_left ..)
    rw [hu, min_self]
    dsimp only
    omega
  have hmem : ∀ dflt, (codesNear e 2 (min (fMaxCode e) (fMaxCode e)) m x).getD
      (choice % max 1 (codesNear e 2 (min (fMaxCode e) (fMaxCode e)) m x).length) dflt ∈ codesNear e 2 (min (fMaxCode e) (fMaxCode e)) m x := by
    intro dflt
    have hlen := List.length_pos_iff.mpr hnil
    rw [max_eq_right hlen, List.getD_eq_getElem _ _ (Nat.mod_lt _ hlen)]
    exact List.getElem_mem _
  rw [fApprox, if_neg (not_not.mpr hno)]
  dsimp only
  generalize hc : List.getD _ _ _ = c
  have hin : c ∈ codesNear e 2 (min (fMaxCode e) (fMaxCode e)) m x := hc ▸ hmem _
  obtain ⟨hmax, hnear⟩ := mem_codesNear h (min_le_left ..) hin
  have hunit : ((2 : Nat) : ℝ) * 2 ^ (spacingExp e m x - 1) = 2 ^ spacingExp e m x := by
    rw [Nat.cast_ofNat, ← zpow_two_succ, sub_add_cancel]
  rw [hunit] at hnear
  have hlarge : (2 : ℝ) ^ ((Nat.log2 m : Int) + x - 1) ≤ fUnits e c * 2 ^ fSubExp e := by
    have hle := (abs_le.mp hnear).1
    have hhalf : (2 : ℝ) ^ spacingExp e m x ≤ 2 ^ ((Nat.log2 m : Int) + x - 1) := zpow_two_le.mpr (by have := two_le_fMan e; omega)
    have htwice : (2 : ℝ) ^ ((Nat.log2 m : Int) + x) = 2 * 2 ^ ((Nat.log2 m : Int) + x - 1) := by rw [← zpow_two_succ, sub_add_cancel]
    linarith
  have hnormal : ¬c < 2 ^ fMan e := fun hlt => by
    have hunits : (fUnits e c : ℝ) < 2 ^ fMan e := by
      rw [fUnits_subnormal hlt]
      exact_mod_cast hlt
    have := mul_lt_mul_of_pos_right hunits (zpow_two_pos (fSubExp e))
    rw [← zpow_natCast, ← zpow_two_add] at this
    have := zpow_two_lt.mp (hlarge.trans_lt this)
    omega
  have hflush : ∀ fl, (flushOut e fm.ftzo c fl).1 = c := fun fl => by
    rw [flushOut, if_neg fun hc => hnormal hc.2.2]
  refine ⟨c, ?_, hmax, hlarge, hnear⟩
  rw [hflush, fSign]
  exact Nat.zero_add c

end Near

/-! ## The reciprocal of a square root within one unit in the last place (R194) -/

/-- The magnitudes of a format. -/
theorem magnitude_bounds {e : Elem} (h : isS e) {g : Nat} (h0 : g ≠ 0) (hg : g ≤ fMaxCode e) :
    (2 : ℝ) ^ fSubExp e ≤ fSig e g * 2 ^ fExp e g ∧ (fSig e g : ℝ) * 2 ^ fExp e g < 2 ^ fFarExp e := by
  rw [fSig_mul_zpow]
  have hpos := zpow_two_pos (fSubExp e)
  constructor
  · have h1 : (1 : ℝ) ≤ fUnits e g := Nat.one_le_cast.mpr (Nat.one_le_iff_ne_zero.mpr (fUnits_eq_zero.not.mpr h0))
    exact le_mul_of_one_le_left hpos.le h1
  · have hle : (fUnits e g : ℝ) ≤ fUnits e (fMaxCode e) := Nat.cast_le.mpr ((fUnits_strictMono e).monotone hg)
    have hK : (fTopSig e : ℝ) < 2 * 2 ^ fMan e := by exact_mod_cast (fTopSig_bounds e).2
    have h0' : fMaxCode e / 2 ^ fMan e ≠ 0 := by have := two_le_fMaxCode_div h; omega
    have htop : (fUnits e (fMaxCode e) : ℝ) * 2 ^ fSubExp e = fTopSig e * 2 ^ fTopExp e := by
      rw [← fSig_mul_zpow, fSig, fExp, if_neg h0', if_neg h0', fTopSig, fTopExp]
    calc (fUnits e g : ℝ) * 2 ^ fSubExp e ≤ fUnits e (fMaxCode e) * 2 ^ fSubExp e := mul_le_mul_of_nonneg_right hle hpos.le
      _ = fTopSig e * 2 ^ fTopExp e := htop
      _ < 2 * 2 ^ fMan e * 2 ^ fTopExp e := mul_lt_mul_of_pos_right hK (zpow_two_pos _)
      _ = 2 ^ fFarExp e := by rw [fFarExp, zpow_two_succ, zpow_two_add, zpow_natCast]; ring

theorem rsqrt_binade {v : ℝ} {a b p : Int} (ha : (2 : ℝ) ^ a ≤ v) (hb : v < 2 ^ b) (hp : (2 : ℝ) ^ p ≤ 1 / Real.sqrt v)
    (hp' : 1 / Real.sqrt v < 2 ^ (p + 1)) : 2 * p ≤ -a ∧ -b < 2 * p + 2 := by
  have hv : 0 < v := (zpow_two_pos a).trans_le ha
  have hsq : (1 / Real.sqrt v) ^ 2 = v⁻¹ := by rw [div_pow, one_pow, Real.sq_sqrt hv.le, one_div]
  have hpow : ∀ n : Int, ((2 : ℝ) ^ n) ^ 2 = 2 ^ (2 * n) := fun n => by rw [mul_comm, zpow_mul]; norm_cast
  have hlow := pow_le_pow_left₀ (zpow_two_pos p).le hp 2
  have hhigh := pow_lt_pow_left₀ hp' (by positivity) two_ne_zero
  rw [hsq, hpow] at hlow hhigh
  have hinv : v⁻¹ ≤ 2 ^ (-a) ∧ 2 ^ (-b) < v⁻¹ := by
    rw [zpow_neg, zpow_neg]
    exact ⟨inv_anti₀ (zpow_two_pos a) ha, inv_strictAnti₀ hv hb⟩
  have h1 := zpow_two_le.mp (hlow.trans hinv.1)
  have h2 := zpow_two_lt.mp (hinv.2.trans hhigh)
  omega

/-- The approximate reciprocal of a square root lies within one unit in the last place. -/
theorem fApprox_rsqrtJam {e : Elem} (he : e = .f32 ∨ e = .f64) {g : Nat} (h0 : g ≠ 0) (hg : g ≤ fMaxCode e) (fm : FMod) (choice : Nat) :
    ∃ d, (fApprox e fm 2 (fMaxCode e) choice false (rsqrtJam (fSig e g) (fExp e g)).1 (rsqrtJam (fSig e g) (fExp e g)).2).1 = d ∧ d ≤ fMaxCode e ∧
      ∃ q, SpacingIs e (1 / Real.sqrt (fSig e g * 2 ^ fExp e g)) q ∧
        |(fUnits e d : ℝ) * 2 ^ fSubExp e - 1 / Real.sqrt (fSig e g * 2 ^ fExp e g)| ≤ 2 ^ q := by
  have h : isS e := he.elim (fun h => .inl (.inr (.inl h))) fun h => .inl (.inl h)
  have hm : fSig e g ≠ 0 := fSig_eq_zero.not.mpr h0
  have hlt := fSig_lt_two_pow e g
  obtain ⟨hv1, hv2⟩ := magnitude_bounds h h0 hg
  obtain ⟨k, cut, j, ht, hk, hjam⟩ : ∃ k cut j, Truncated (1 / Real.sqrt (fSig e g * 2 ^ fExp e g)) k cut j ∧ 2 ^ (fMan e + 33) ≤ k ∧
      rsqrtJam (fSig e g) (fExp e g) = jam k cut j := ⟨_, _, _, rsqrtJam_truncated hm _ rfl rfl rfl, rsqrtJam_bits hm hlt _ e, rfl⟩
  have hbinade := fun p => rsqrt_binade (p := p) hv1 hv2
  have hjam0 := jam_ne_zero (lt_of_lt_of_le (by positivity) hk) cut j
  have hgrid := ht.gridAlike
  have hbits := (hgrid.zpow_le_iff (by omega)).mp (ht.zpow_le hk)
  rw [hjam]
  generalize 1 / Real.sqrt (fSig e g * 2 ^ fExp e g) = v at *
  generalize (jam k cut j).1 = m at *
  generalize (jam k cut j).2 = x at *
  obtain ⟨hp1, hp2⟩ := log2_binade hjam0 x
  have hpj := zpow_two_lt.mp (hbits.trans_lt hp2)
  have hq := spacingExp_eq e m x
  obtain ⟨p, hp⟩ : ∃ p, (Nat.log2 m : Int) + x = p := ⟨_, rfl⟩
  rw [hp] at hp1 hp2 hpj hq
  have hv1' : (2 : ℝ) ^ p ≤ v := (hgrid.zpow_le_iff (by omega)).mpr hp1
  have hv2' : v < (2 : ℝ) ^ (p + 1) := by
    rw [← not_le, hgrid.zpow_le_iff (by omega), not_le]
    exact hp2
  have hrange : fSubExp e + fMan e < p ∧ p < fTopExp e + fMan e := by
    have hb := hbinade p hv1' hv2'
    rcases he with rfl | rfl
    · have h1 : fSubExp .f32 = -149 ∧ fTopExp .f32 = 104 ∧ fMan .f32 = 23 ∧ fFarExp .f32 = 128 := by decide
      omega
    · have h1 : fSubExp .f64 = -1074 ∧ fTopExp .f64 = 971 ∧ fMan .f64 = 52 ∧ fFarExp .f64 = 1024 := by decide
      omega
  obtain ⟨d, hd, hmax, hlarge, hnear⟩ := fApprox_near h hjam0 (hp ▸ hrange.1) (hp ▸ hrange.2) fm choice
  refine ⟨d, hd, hmax, spacingExp e m x, spacingIs_iff.mpr ⟨p, hv1', hv2', hq⟩, ?_⟩
  rw [← fSig_mul_zpow] at hlarge hnear ⊢
  have hxd : p - 1 - fMan e ≤ fExp e d := by
    have hsig : (fSig e d : ℝ) < 2 ^ ((fMan e : Int) + 1) := by
      rw [zpow_two_succ, zpow_natCast]
      exact_mod_cast fSig_lt e d
    have hlt := hlarge.trans_lt (mul_lt_mul_of_pos_right hsig (zpow_two_pos (fExp e d)))
    rw [hp, ← zpow_two_add] at hlt
    have := zpow_two_lt.mp hlt
    omega
  have hxj : j ≤ fExp e d ∧ j ≤ spacingExp e m x := by omega
  obtain ⟨hge, hle⟩ := abs_le.mp hnear
  have hup : v ≤ fSig e d * 2 ^ fExp e d + 2 ^ spacingExp e m x := by
    refine (not_lt.mp ((hgrid.gt_iff (fSig e d * 2 ^ (fExp e d - j).toNat + 2 ^ (spacingExp e m x - j).toNat) ?_).not.mpr (not_lt.mpr ?_)))
    · rw [natCast_mul_zpow hxj.1, natCast_mul_zpow hxj.2]
      push_cast
      ring
    · linarith
  have hdown : fSig e d * 2 ^ fExp e d - 2 ^ spacingExp e m x ≤ v := by
    refine (hgrid.le_iff (fSig e d * 2 ^ (fExp e d - j).toNat - 2 ^ (spacingExp e m x - j).toNat) ?_).mpr ?_
    · rw [natCast_mul_zpow hxj.1, natCast_mul_zpow hxj.2]
      push_cast
      ring
    · linarith
  exact abs_le.mpr ⟨by linarith, by linarith⟩

end Sys2Proof.Machine
end

section
/-! Floating-point arithmetic, roots and reciprocals (06_float_formats.md R193, R194). -/
namespace Sys2Proof.Machine
open Sys2Proof Sys2Proof.Safety

/-! ## Results of an element -/

/-- A code and its flags: the code has the format's width, and `P` holds of both. -/
def Fits (e : Elem) (P : Nat → Nat → Prop) (r : Nat × Nat) : Prop := r.1 < 2 ^ e.width ∧ P r.1 r.2

/-- A floating-point instruction whose elements are codes of the result's format. -/
theorem byElementFp_fits {i : Instr} {s : State} {ty : Ty} {r : Rnd} {f : Nat → Nat → Nat → Nat × Nat} {n : Nat} {P : Nat → Nat → Nat → Nat → Prop}
    (hi : exec i s = .next (s.putFp ty r f)) (h : Issuing s) (hn : n = wordsUsed r (Ty.lanes ty))
    (hP : ∀ L j, Fits (Ty.elem ty) (P L j) (f L j (s.roundWord L j))) : ByElementFp i s ty n P :=
  byElementFp_putFp hi h hn fun L j => (Nat.mod_eq_of_lt (hP L j).1).symm ▸ (hP L j).2

section Results
variable {e : Elem} {fm : FMod} {u : Nat} {p : Prop} {n : Bool}

theorem Fits.mono {P Q : Nat → Nat → Prop} {r : Nat × Nat} (h : Fits e P r) (hPQ : ∀ d fl, P d fl → Q d fl) : Fits e Q r := ⟨h.1, hPQ _ _ h.2⟩

theorem fits_nan (h : isS e) {b : Bool} (hp : p ↔ b = true) : Fits e (NaNIs e p) (nanOf e (nvIf b)) :=
  ⟨fNaN_lt h, rfl, fun h => if_pos (hp.mp h), fun h => if_neg (hp.not.mp h)⟩

theorem fits_nan_invalid (h : isS e) : Fits e (NaNIs e True) (nanOf e flNV) := fits_nan (b := true) h (by simp)

theorem fits_code (hn : p ↔ n = true) {g : Nat} (hg : g < 2 ^ (e.width - 1)) (fl : Nat) :
    Fits e (fun d f => CodeIs e p g d ∧ f = fl) (fSign e n + g, fl) := ⟨fSign_add_lt hg n, codeIs_fSign_add hn hg, rfl⟩

theorem fits_zero (e : Elem) (hn : p ↔ n = true) : Fits e (fun d f => CodeIs e p 0 d ∧ f = 0) (zeroOf e n) := fits_code hn (by positivity) 0

/-- The code 0, which is +0. -/
theorem fits_code_zero (e : Elem) : Fits e (fun d f => d = 0 ∧ f = 0) (zeroOf e false) := ⟨show 0 < 2 ^ e.width by positivity, rfl, rfl⟩

theorem fits_inf (h : isS e) (hn : p ↔ n = true) (sat : Bool) (fl : Nat) : Fits e (fun d f => InfIs e sat p d ∧ f = fl) (fInfRes e sat n, fl) :=
  ⟨(infIs_fInfRes h hn sat).1.1, infIs_fInfRes h hn sat, rfl⟩

/-- A rounded value is a code of the format. -/
theorem fits_of_roundIs {v : ℝ} {r : Nat × Nat} (hr : RoundIs e fm u v r.1 r.2) : Fits e (RoundIs e fm u v) r := by
  refine ⟨?_, hr⟩
  obtain ⟨q, y, f, -, -, hpast, hflush, hkept⟩ := hr
  by_cases hp : (ratOf (fDecode e (fMaxCode e)) : ℝ) < y * 2 ^ q ∨
      ((fm.rnd = .rne ∨ fm.rnd = .rna) ∧ (ratOf (fDecode e (fMaxCode e)) : ℝ) + 2 ^ q / 2 ≤ |v|)
  · obtain ⟨-, hinf, hmax⟩ := hpast hp
    by_cases ho : OverflowsToInf fm.rnd (v < 0)
    · exact (hinf ho).1.1
    · exact (hmax ho).1.1
  · by_cases hf : fm.ftzo = true ∧ y ≠ 0 ∧ (y : ℝ) * 2 ^ q < 2 ^ (1 - (fBias e : Int))
    · exact (hflush hp hf).1.1.1
    · exact (hkept hp hf).1.1

theorem fits_fRound (h : isS e) {m : Nat} (hm : m ≠ 0) (n : Bool) (x : Int) :
    Fits e (RoundIs e fm u (ratOf (.fin n m x) : ℝ)) (fRound e fm u n m x) := fits_of_roundIs (fRound_roundIs h hm)

end Results

/-! ## Sums -/

section Sums
variable {e : Elem} {fm : FMod} {u : Nat}

theorem ratOf_sumExact (n1 : Bool) (m1 : Nat) (x1 : Int) (n2 : Bool) (m2 : Nat) (x2 : Int) :
    ((sumExact n1 m1 x1 n2 m2 x2).1 : ℚ) * 2 ^ (sumExact n1 m1 x1 n2 m2 x2).2 = ratOf (.fin n1 m1 x1) + ratOf (.fin n2 m2 x2) :=
  sumExact_value ..

/-- An integer times a power of two, as a sign and a magnitude. -/
theorem ratOf_int (t x : Int) : ratOf (.fin (decide (t < 0)) t.natAbs x) = t * 2 ^ x := by
  rw [ratOf]
  rcases lt_or_ge t 0 with ht | ht
  · have habs : ((t.natAbs : Nat) : ℚ) = -t := by rw [Nat.cast_natAbs, abs_of_neg ht]; push_cast; ring
    simp [ht, habs]
  · have habs : ((t.natAbs : Nat) : ℚ) = t := by rw [Nat.cast_natAbs, abs_of_nonneg ht]
    simp [not_lt.mpr ht, habs]

theorem fits_fRound_int (h : isS e) {t : Int} (ht : t ≠ 0) (x : Int) {v : ℝ} (hv : v = ((t * 2 ^ x : ℚ) : ℝ)) :
    Fits e (RoundIs e fm u v) (fRound e fm u (decide (t < 0)) t.natAbs x) := by
  rw [hv, ← ratOf_int]
  exact fits_fRound h (Int.natAbs_ne_zero.mpr ht) _ _

/-- The sum of two finite values (R193). -/
theorem fits_fAddFin (h : isS e) (n1 : Bool) (m1 : Nat) (x1 : Int) (n2 : Bool) (m2 : Nat) (x2 : Int) :
    Fits e (SumIs e fm u (.fin n1 m1 x1) (.fin n2 m2 x2)) (fAddFin e fm u n1 m1 x1 n2 m2 x2) := by
  have hsum := ratOf_sumExact n1 m1 x1 n2 m2 x2
  unfold fAddFin
  generalize sumExact n1 m1 x1 n2 m2 x2 = t at hsum
  dsimp only
  split
  · next h0 =>
    have hv : ratOf (.fin n1 m1 x1) + ratOf (.fin n2 m2 x2) = 0 := by rw [← hsum, h0]; simp
    have hzero : ∀ {n : Bool} {p : Prop}, (p ↔ n = true) → Fits e (fun d f => f = 0 ∧ CodeIs e p 0 d) (zeroOf e n) :=
      fun hn => (fits_zero e hn).mono fun _ _ h => h.symm
    split
    · next hsame => exact (hzero Iff.rfl).mono fun d fl hd => ⟨fun hne => absurd hv hne, fun _ => by rw [if_pos hsame]; exact hd⟩
    · next hsame => exact (hzero decide_eq_true_iff.symm).mono fun d fl hd => ⟨fun hne => absurd hv hne, fun _ => by rw [if_neg hsame]; exact hd⟩
  · next h0 =>
    have hne : ratOf (.fin n1 m1 x1) + ratOf (.fin n2 m2 x2) ≠ 0 := by
      rw [← hsum]
      exact mul_ne_zero (Int.cast_ne_zero.mpr h0) (zpow_ne_zero _ two_ne_zero)
    exact (fits_fRound_int h h0 t.2 (by rw [hsum])).mono fun d fl hd => ⟨fun _ => by exact_mod_cast hd, fun hv => absurd hv hne⟩

/-- A sum of two values (R193). -/
theorem fits_fAddV (h : isS e) (a b : FVal) : Fits e (SumIs e fm u a b) (fAddV e fm u a b) := by
  have hnan : a.isNaN = true ∨ b.isNaN = true → Fits e (NaNIs e (a.sig = true ∨ b.sig = true)) (fAddV e fm u a b) := fun hn => by
    have hr : fAddV e fm u a b = nanOf e (nvIf (a.sig || b.sig)) := if_pos hn
    exact hr ▸ fits_nan h (Bool.or_eq_true ..).to_iff.symm
  cases a with
  | nan s => cases b <;> exact hnan (.inl rfl)
  | inf n =>
    cases b with
    | nan s => exact hnan (.inr rfl)
    | inf n' =>
      by_cases hn : n = n'
      · have hr : fAddV e fm u (.inf n) (.inf n') = (fInfRes e fm.sat n, 0) := if_pos hn
        exact hr ▸ (fits_inf h Iff.rfl fm.sat 0).mono fun d fl hd => (if_pos hn).mpr hd
      · have hr : fAddV e fm u (.inf n) (.inf n') = nanOf e flNV := if_neg hn
        exact hr ▸ (fits_nan_invalid h).mono fun d fl hd => (if_neg hn).mpr hd
    | fin n' m x => exact fits_inf h Iff.rfl fm.sat 0
  | fin n m x =>
    cases b with
    | nan s => exact hnan (.inr rfl)
    | inf n' => exact fits_inf h Iff.rfl fm.sat 0
    | fin n' m' x' => exact fits_fAddFin h n m x n' m' x'

end Sums

/-! ## Products and quotients -/

section Products
variable {e : Elem} {fm : FMod} {u : Nat}

theorem ne_iff_bne (n n' : Bool) : n ≠ n' ↔ (n != n') = true := bne_iff_ne.symm

theorem ratOf_fin (n : Bool) (m : Nat) (x : Int) : ratOf (.fin n m x) = (if n then -1 else 1) * m * (2 : ℚ) ^ x := rfl

theorem ratOf_mul (n n' : Bool) (m m' : Nat) (x x' : Int) :
    ratOf (.fin (n != n') (m * m') (x + x')) = ratOf (.fin n m x) * ratOf (.fin n' m' x') := by
  rw [ratOf_fin, ratOf_fin, ratOf_fin, zpow_add₀ two_ne_zero]
  cases n <;> cases n' <;> simp <;> ring

theorem ratOf_ne_zero {m : Nat} (hm : m ≠ 0) (n : Bool) (x : Int) : ratOf (.fin n m x) ≠ 0 := by
  have hx : (2 : ℚ) ^ x ≠ 0 := zpow_ne_zero _ two_ne_zero
  cases n <;> simp [ratOf, hm, hx]

/-- A product of two values (R193). -/
theorem fits_fMul (h : isS e) (a b : Nat) : Fits e (ProductIs e fm u (srcOf e fm.ftzi a) (srcOf e fm.ftzi b)) (fMul e fm u a b) := by
  unfold fMul srcOf
  generalize fDecode e (fFtz e fm.ftzi a) = p
  generalize fDecode e (fFtz e fm.ftzi b) = q
  dsimp only
  cases p with
  | nan s => cases q <;> exact fits_nan h (Bool.or_eq_true ..).to_iff.symm
  | inf n =>
    cases q with
    | nan s => exact fits_nan h (Bool.or_eq_true ..).to_iff.symm
    | inf n' => exact fits_inf h (ne_iff_bne n n') fm.sat 0
    | fin n' m x =>
      cases m with
      | zero => exact fits_nan_invalid h
      | succ m => exact fits_inf h (ne_iff_bne n n') fm.sat 0
  | fin n m x =>
    cases q with
    | nan s => exact fits_nan h (Bool.or_eq_true ..).to_iff.symm
    | inf n' =>
      cases m with
      | zero => exact fits_nan_invalid h
      | succ m => exact fits_inf h (ne_iff_bne n n') fm.sat 0
    | fin n' m' x' =>
      rw [if_neg (by simp [FVal.isNaN]), if_neg (by simp [FVal.isInf]), if_neg (by simp [FVal.isInf])]
      dsimp only
      split
      · next h0 => exact (fits_zero e (ne_iff_bne n n')).mono fun _ _ hd => ⟨fun hne => absurd h0 (not_or.mpr hne), fun _ => hd.symm⟩
      · next h0 =>
        have hround := fits_fRound (fm := fm) (u := u) h (mul_ne_zero (not_or.mp h0).1 (not_or.mp h0).2) (n != n') (x + x')
        rw [ratOf_mul] at hround
        exact hround.mono fun _ _ hd => ⟨fun _ => hd, fun h0' => absurd h0' h0⟩

/-- A source that is finite has a significand of the format. -/
theorem srcOf_fin (h : isS e) {z : Bool} {c : Nat} {n : Bool} {m : Nat} {x : Int} (hs : srcOf e z c = .fin n m x) :
    ∃ g, g ≤ fMaxCode e ∧ m = fSig e g ∧ x = fExp e g := by
  obtain ⟨hle, -, hm, hx⟩ := fDecode_fin h hs
  exact ⟨_, hle, hm, hx⟩

theorem srcOf_fin_lt (h : isS e) {z : Bool} {c : Nat} {n : Bool} {m : Nat} {x : Int} (hs : srcOf e z c = .fin n m x) : m < 2 ^ 64 := by
  obtain ⟨g, -, rfl, -⟩ := srcOf_fin h hs
  exact fSig_lt_two_pow e g

theorem fits_quotJam (h : isS e) {m1 m2 : Nat} (hm1 : m1 ≠ 0) (hm2 : m2 ≠ 0) (hlt : m2 < 2 ^ 64) (n1 n2 : Bool) (x1 x2 : Int) :
    Fits e (RoundIs e fm u ((ratOf (.fin n1 m1 x1) / ratOf (.fin n2 m2 x2) : ℚ) : ℝ))
      (fRound e fm u (n1 != n2) (quotJam m1 x1 m2 x2).1 (quotJam m1 x1 m2 x2).2) := by
  have habs : |((ratOf (.fin n1 m1 x1) / ratOf (.fin n2 m2 x2) : ℚ) : ℝ)| = m1 * 2 ^ x1 / (m2 * 2 ^ x2) := by
    rw [Rat.cast_div, abs_div, abs_ratOf, abs_ratOf]
  have hneg : ((ratOf (.fin n1 m1 x1) / ratOf (.fin n2 m2 x2) : ℚ) : ℝ) < 0 ↔ (n1 != n2) = true := by
    have h1 := ratOf_neg_iff hm1 n1 x1
    have h2 := ratOf_neg_iff hm2 n2 x2
    have hpos : ∀ {n : Bool} {m : Nat} {x : Int}, m ≠ 0 → (0 < (ratOf (.fin n m x) : ℝ) ↔ ¬n = true) := fun hm => by
      rw [← ratOf_neg_iff hm, not_lt]
      exact (Ne.le_iff_lt (Rat.cast_ne_zero.mpr (ratOf_ne_zero hm _ _)).symm).symm
    rw [Rat.cast_div, div_neg_iff, h1, h2, hpos hm1, hpos hm2]
    cases n1 <;> cases n2 <;> decide
  exact fits_of_roundIs (fRound_quotJam h hm1 hm2 hlt habs hneg)

/-- A quotient of two values (R193). -/
theorem fits_fDiv (h : isS e) (a b : Nat) : Fits e (QuotientIs e fm u (srcOf e fm.ftzi a) (srcOf e fm.ftzi b)) (fDiv e fm u a b) := by
  have hlt : ∀ n m x, srcOf e fm.ftzi b = .fin n m x → m < 2 ^ 64 := fun n m x => srcOf_fin_lt h
  unfold fDiv srcOf at *
  generalize fDecode e (fFtz e fm.ftzi a) = p
  generalize fDecode e (fFtz e fm.ftzi b) = q at hlt
  dsimp only
  cases p with
  | nan s => cases q <;> exact fits_nan h (Bool.or_eq_true ..).to_iff.symm
  | inf n =>
    cases q with
    | nan s => exact fits_nan h (Bool.or_eq_true ..).to_iff.symm
    | inf n' => exact fits_nan_invalid h
    | fin n' m' x' => exact fits_inf h (ne_iff_bne n n') fm.sat 0
  | fin n m x =>
    cases q with
    | nan s => exact fits_nan h (Bool.or_eq_true ..).to_iff.symm
    | inf n' =>
      cases m <;> exact (fits_zero e (ne_iff_bne n n')).mono fun _ _ hd => hd.symm
    | fin n' m' x' =>
      cases m with
      | zero =>
        cases m' with
        | zero =>
          exact (fits_nan_invalid h).mono fun _ _ hd =>
            ⟨fun hne => absurd rfl hne.1, fun hne => absurd rfl hne.2, fun hne => absurd rfl hne.1, fun _ => hd⟩
        | succ m' =>
          exact (fits_zero e (ne_iff_bne n n')).mono fun _ _ hd =>
            ⟨fun hne => absurd rfl hne.1, fun _ => hd.symm, fun hne => absurd rfl hne.1, fun h0 => absurd h0.2 (Nat.succ_ne_zero m')⟩
      | succ m =>
        cases m' with
        | zero =>
          exact (fits_inf h (ne_iff_bne n n') fm.sat flDZ).mono fun _ _ hd =>
            ⟨fun hne => absurd rfl hne.2, fun hne => absurd rfl hne.2, fun _ => hd.symm, fun h0 => absurd h0.1 (Nat.succ_ne_zero m)⟩
        | succ m' =>
          have hround := fits_quotJam (fm := fm) (u := u) h m.succ_ne_zero m'.succ_ne_zero (hlt _ _ _ rfl) n n' x x'
          exact hround.mono fun _ _ hd => ⟨fun _ => hd, fun h0 => absurd h0.1 m.succ_ne_zero, fun h0 => absurd h0.2 m'.succ_ne_zero,
            fun h0 => absurd h0.1 m.succ_ne_zero⟩

/-- Where no operand of fma is a NaN and no zero meets an infinity, it is the sum of the exact product and the third operand. -/
theorem fFma_eq_fAddV {a b c : Nat} {p q r : FVal} (hp : fDecode e (fFtz e fm.ftzi a) = p) (hq : fDecode e (fFtz e fm.ftzi b) = q)
    (hr : fDecode e (fFtz e fm.ftzi c) = r) (hz : ¬((p.isInf = true ∧ q.isZero = true) ∨ (p.isZero = true ∧ q.isInf = true)))
    (hn : ¬(p.isNaN = true ∨ q.isNaN = true ∨ r.isNaN = true)) : fFma e fm u a b c = fAddV e fm u (productOf p q) r := by
  rw [fFma, hp, hq, hr, if_neg hz, if_neg hn]
  cases r with
  | nan s => exact absurd (.inr (.inr rfl)) hn
  | inf n3 =>
    cases p with
    | nan s => exact absurd (.inl rfl) hn
    | inf n1 => cases q <;> rfl
    | fin n1 m1 x1 =>
      cases q with
      | nan s => exact absurd (.inr (.inl rfl)) hn
      | _ => rfl
  | fin n3 m3 x3 =>
    cases p with
    | nan s => exact absurd (.inl rfl) hn
    | inf n1 => cases q <;> rfl
    | fin n1 m1 x1 =>
      cases q with
      | nan s => exact absurd (.inr (.inl rfl)) hn
      | _ => rfl

/-- A product and a sum, rounded once (R193). -/
theorem fits_fFma (h : isS e) (a b c : Nat) :
    let p := srcOf e fm.ftzi a
    let q := srcOf e fm.ftzi b
    let r := srcOf e fm.ftzi c
    Fits e (fun d fl => (zeroTimesInf p q → NaNIs e True d fl) ∧
      (¬zeroTimesInf p q → (p.isNaN = true ∨ q.isNaN = true ∨ r.isNaN = true) → NaNIs e (p.sig = true ∨ q.sig = true ∨ r.sig = true) d fl) ∧
      (¬zeroTimesInf p q → ¬(p.isNaN = true ∨ q.isNaN = true ∨ r.isNaN = true) → SumIs e fm u (productOf p q) r d fl)) (fFma e fm u a b c) := by
  intro p q r
  by_cases hz : zeroTimesInf p q
  · have hr : fFma e fm u a b c = nanOf e flNV := if_pos hz.symm
    exact hr ▸ (fits_nan_invalid h).mono fun _ _ hd => ⟨fun _ => hd, fun hn => absurd hz hn, fun hn => absurd hz hn⟩
  · have hz' : ¬((p.isInf = true ∧ q.isZero = true) ∨ (p.isZero = true ∧ q.isInf = true)) := fun hn => hz hn.symm
    by_cases hn : p.isNaN = true ∨ q.isNaN = true ∨ r.isNaN = true
    · have hr : fFma e fm u a b c = nanOf e (nvIf (p.sig || q.sig || r.sig)) := (if_neg hz').trans (if_pos hn)
      have hsig : (p.sig = true ∨ q.sig = true ∨ r.sig = true) ↔ (p.sig || q.sig || r.sig) = true := by rw [Bool.or_eq_true, Bool.or_eq_true, or_assoc]
      exact hr ▸ (fits_nan h hsig).mono fun _ _ hd => ⟨fun hyes => absurd hyes hz, fun _ _ => hd, fun _ hno => absurd hn hno⟩
    · have hr : fFma e fm u a b c = fAddV e fm u (productOf p q) r := fFma_eq_fAddV rfl rfl rfl hz' hn
      exact hr ▸ (fits_fAddV h (productOf p q) r).mono fun _ _ hd => ⟨fun hyes => absurd hyes hz, fun _ hyes => absurd hyes hn, fun _ _ => hd⟩

end Products

/-! ## Roots and reciprocals (R194) -/

/-- The square root of a value, its reciprocal, and the reciprocal of its square root, with their special cases. -/
def SqrtIs (e : Elem) (fm : FMod) (u : Nat) (p : FVal) (d fl : Nat) : Prop :=
  match p with
  | .nan sg => NaNIs e (sg = true) d fl
  | .inf neg => if neg then NaNIs e True d fl else InfIs e fm.sat False d ∧ fl = 0
  | .fin neg k _ =>
    if k = 0 then CodeIs e (neg = true) 0 d ∧ fl = 0
    else if neg then NaNIs e True d fl else RoundIs e fm u (Real.sqrt (ratOf p : ℝ)) d fl

def RcpIs (e : Elem) (fm : FMod) (u : Nat) (p : FVal) (d fl : Nat) : Prop :=
  match p with
  | .nan sg => NaNIs e (sg = true) d fl
  | .inf neg => CodeIs e (neg = true) 0 d ∧ fl = 0
  | .fin neg k _ => if k = 0 then InfIs e fm.sat (neg = true) d ∧ fl = flDZ else RoundIs e fm u (1 / (ratOf p : ℝ)) d fl

def RsqrtIs (e : Elem) (fm : FMod) (p : FVal) (d fl : Nat) : Prop :=
  match p with
  | .nan sg => NaNIs e (sg = true) d fl
  | .inf neg => if neg then NaNIs e True d fl else CodeIs e False 0 d ∧ fl = 0
  | .fin neg k _ =>
    if k = 0 then InfIs e fm.sat (neg = true) d ∧ fl = flDZ
    else if neg then NaNIs e True d fl
    else if e = .f16 ∨ e = .bf16 then RoundIs e fm 0 (1 / Real.sqrt (ratOf p : ℝ)) d fl
    else ∃ q, SpacingIs e (1 / Real.sqrt (ratOf p : ℝ)) q ∧ |(ratOf (fDecode e d) : ℝ) - 1 / Real.sqrt (ratOf p : ℝ)| ≤ (2 : ℝ) ^ q

section Roots
variable {e : Elem} {fm : FMod} {u : Nat}

theorem ratOf_pos (m : Nat) (x : Int) : (ratOf (.fin false m x) : ℝ) = m * 2 ^ x := by
  rw [ratOf_fin]
  push_cast
  simp

theorem fits_fSqrt (h : isS e) (a : Nat) : Fits e (SqrtIs e fm u (srcOf e fm.ftzi a)) (fSqrt e fm u a) := by
  unfold fSqrt srcOf
  generalize fDecode e (fFtz e fm.ftzi a) = p
  cases p with
  | nan sg => exact fits_nan h Iff.rfl
  | inf n =>
    cases n with
    | true => exact fits_nan_invalid h
    | false => exact fits_inf h (by simp) fm.sat 0
  | fin n m x =>
    cases m with
    | zero => exact fits_zero e Iff.rfl
    | succ m =>
      cases n with
      | true => exact fits_nan_invalid h
      | false =>
        have hround := fits_of_roundIs (fRound_sqrtJam (fm := fm) (u := u) (x := x) h m.succ_ne_zero)
        rw [← ratOf_pos] at hround
        exact hround

theorem fits_fRcp (h : isS e) (a : Nat) : Fits e (RcpIs e fm u (srcOf e fm.ftzi a)) (fRcp e fm u a) := by
  have hlt : ∀ n m x, srcOf e fm.ftzi a = .fin n m x → m < 2 ^ 64 := fun n m x => srcOf_fin_lt h
  unfold fRcp srcOf at *
  generalize fDecode e (fFtz e fm.ftzi a) = p at hlt
  cases p with
  | nan sg => exact fits_nan h Iff.rfl
  | inf n => exact fits_zero e Iff.rfl
  | fin n m x =>
    cases m with
    | zero => exact fits_inf h Iff.rfl fm.sat flDZ
    | succ m =>
      have hround := fits_quotJam (fm := fm) (u := u) h one_ne_zero m.succ_ne_zero (hlt _ _ _ rfl) false n 0 x
      have hone : ((ratOf (.fin false 1 0) / ratOf (.fin n m.succ x) : ℚ) : ℝ) = 1 / (ratOf (.fin n m.succ x) : ℝ) := by
        rw [Rat.cast_div, ratOf_pos]
        simp
      rw [hone, Bool.false_bne] at hround
      exact hround

theorem ratOf_fDecode_mag (h : isS e) {c : Nat} (hc : c ≤ fMaxCode e) : (ratOf (fDecode e c) : ℝ) = fUnits e c * 2 ^ fSubExp e := by
  have hlt := hc.trans_lt (fMaxCode_lt h)
  have hmag : fMag e c = c := Nat.mod_eq_of_lt hlt
  have hneg : fNeg e c = false := by
    rw [fNeg, Nat.div_eq_of_lt hlt]
    rfl
  rw [fDecode_of_le h (hmag.le.trans hc), hmag, hneg, ratOf_pos, fSig_mul_zpow]

theorem rsqrtIs_pos {m d fl : Nat} {x : Int} (hm : m ≠ 0) : RsqrtIs e fm (.fin false m x) d fl ↔
    if e = .f16 ∨ e = .bf16 then RoundIs e fm 0 (1 / Real.sqrt (m * 2 ^ x)) d fl
    else ∃ q, SpacingIs e (1 / Real.sqrt (m * 2 ^ x)) q ∧ |(ratOf (fDecode e d) : ℝ) - 1 / Real.sqrt (m * 2 ^ x)| ≤ (2 : ℝ) ^ q := by
  rw [RsqrtIs, if_neg hm, if_neg Bool.false_ne_true, ratOf_pos]

theorem fits_fRsqrt (h : isF e) (a : Nat) : Fits e (RsqrtIs e fm (srcOf e fm.ftzi a)) (fRsqrt e fm a) := by
  have hS := isS_of_isF h
  have hsrc : ∀ n m x, srcOf e fm.ftzi a = .fin n m x → ∃ g, g ≤ fMaxCode e ∧ m = fSig e g ∧ x = fExp e g := fun n m x => srcOf_fin hS
  unfold fRsqrt srcOf at *
  generalize fDecode e (fFtz e fm.ftzi a) = p at hsrc
  cases p with
  | nan sg => exact fits_nan hS Iff.rfl
  | inf n =>
    cases n with
    | true => exact fits_nan_invalid hS
    | false => exact fits_zero e (by simp)
  | fin n m x =>
    by_cases h0 : m = 0
    · subst h0
      exact fits_inf hS Iff.rfl fm.sat flDZ
    · cases n with
      | true =>
        dsimp only
        rw [if_neg h0]
        exact (fits_nan_invalid hS).mono fun _ _ hd => (if_neg h0).mpr hd
      | false =>
        obtain ⟨g, hg, rfl, rfl⟩ := hsrc _ _ _ rfl
        have hg0 : g ≠ 0 := fSig_eq_zero.not.mp h0
        dsimp only
        rw [if_neg h0, if_neg Bool.false_ne_true]
        split
        · next hnarrow =>
          exact (fits_of_roundIs (fRound_rsqrtJam hS h0 (fSig_lt_two_pow e g))).mono fun _ _ hd => (rsqrtIs_pos h0).mpr ((if_pos hnarrow).mpr hd)
        · next hwide =>
          have he : e = .f32 ∨ e = .f64 := by unfold isF at h; tauto
          obtain ⟨d, hd, hmax, hnear⟩ := fApprox_rsqrtJam he hg0 hg fm (Config.approxChoice 0x0C6 e.code fm.code a)
          rw [← ratOf_fDecode_mag hS hmax] at hnear
          refine ⟨?_, (rsqrtIs_pos h0).mpr ((if_neg hwide).mpr (hd ▸ hnear))⟩
          rw [hd]
          have := fMaxCode_lt hS
          have := two_pow_width_eq e
          omega

end Roots

/-! ## The instructions together -/

/-- Settles O9: each instruction is an element function, whose result is exact or rounded once. -/
theorem floatArithmeticAndRoots : Obligations.FloatArithmeticAndRoots := by
  constructor
  · intro s ty m a b c h hF e x n
    have hS := isS_of_isF hF
    refine ⟨?add, ?sub, ?mul, ?div, ?fma⟩
    case add => exact byElementFp_fits rfl h rfl fun L j => fits_fAddV hS (x a L j) (x b L j)
    case sub => exact byElementFp_fits rfl h rfl fun L j => fits_fAddV hS (x a L j) (x b L j).flip
    case mul => exact byElementFp_fits rfl h rfl fun L j => fits_fMul hS (s.el ty a L j) (s.el ty b L j)
    case div => exact byElementFp_fits rfl h rfl fun L j => fits_fDiv hS (s.el ty a L j) (s.el ty b L j)
    case fma => exact byElementFp_fits rfl h rfl fun L j => fits_fFma hS (s.el ty a L j) (s.el ty b L j) (s.el ty c L j)
  · intro s ty m a h hF e x v n
    have hS := isS_of_isF hF
    refine ⟨?sqrt, ?rcp, fun hr => ?rsqrt⟩
    case sqrt => exact byElementFp_fits rfl h rfl fun L j => fits_fSqrt hS (s.el ty a L j)
    case rcp => exact byElementFp_fits rfl h rfl fun L j => fits_fRcp hS (s.el ty a L j)
    case rsqrt => exact byElementFp_fits rfl h (by rw [hr]; rfl) fun L j => fits_fRsqrt hF (s.el ty a L j)

end Sys2Proof.Machine
end

section
/-! The lesser and the greater, signs, comparison and classes (06_float_formats.md R195-R198). -/
namespace Sys2Proof.Machine
open Sys2Proof Sys2Proof.Safety

/-! ## The order of codes -/

/-- A code as a signed magnitude; both zeros give 0. -/
def fKey (e : Elem) (c : Nat) : Int := if fMag e c = 0 then 0 else if fNeg e c then -(fMag e c : Int) else fMag e c

theorem fKey_eq (e : Elem) (c : Nat) : fKey e c = if fNeg e c then -(fMag e c : Int) else fMag e c := by
  unfold fKey
  split
  · next h => rw [h]; simp
  · rfl

section Order
variable {e : Elem} {a b c : Nat}

/-- A code that is no NaN is finite or an infinity. -/
theorem fDecode_number (h : isS e) (hn : ¬(fDecode e c).isNaN = true) :
    (fDecode e c = .fin (fNeg e c) (fSig e (fMag e c)) (fExp e (fMag e c)) ∧ fMag e c ≤ fMaxCode e) ∨
      (fDecode e c = .inf (fNeg e c) ∧ fMag e c = fInf e ∧ fMaxCode e < fInf e) := by
  cases hd : fDecode e c with
  | nan s => exact absurd (hd ▸ rfl) hn
  | inf n =>
    obtain ⟨hgt, rfl, hinf, -⟩ := fDecode_inf h hd
    exact .inr ⟨rfl, hinf, hinf ▸ hgt⟩
  | fin n m x =>
    obtain ⟨hle, rfl, rfl, rfl⟩ := fDecode_fin h hd
    exact .inl ⟨rfl, hle⟩

/-- Its sign, whether it is a zero, and that it signals nothing. -/
theorem fDecode_number_facts (h : isS e) (hn : ¬(fDecode e c).isNaN = true) :
    (fDecode e c).neg = fNeg e c ∧ ((fDecode e c).isZero = true ↔ fMag e c = 0) ∧ (fDecode e c).sig = false := by
  rcases fDecode_number h hn with ⟨hd, -⟩ | ⟨hd, hmag, hlt⟩ <;> rw [hd]
  · exact ⟨rfl, beq_iff_eq.trans fSig_eq_zero, rfl⟩
  · exact ⟨rfl, iff_of_false Bool.false_ne_true (by omega), rfl⟩

theorem ratOf_code (n : Bool) (g : Nat) : ratOf (.fin n (fSig e g) (fExp e g)) = (if n then -1 else 1) * fUnits e g * 2 ^ fSubExp e := by
  rw [ratOf_fin, mul_assoc, fSig_mul_zpow, mul_assoc]

/-- Finite values are in the order of their keys. -/
theorem ratOf_code_lt (n n' : Bool) (g g' : Nat) : ratOf (.fin n (fSig e g) (fExp e g)) < ratOf (.fin n' (fSig e g') (fExp e g')) ↔
    (if n then -(g : Int) else g) < (if n' then -(g' : Int) else g') := by
  have hpos : (0 : ℚ) < 2 ^ fSubExp e := by positivity
  have hmono : ∀ g g', (fUnits e g : ℚ) < fUnits e g' ↔ g < g' := fun g g' => Nat.cast_lt.trans (fUnits_strictMono e).lt_iff_lt
  have hzero : ∀ g, (0 : ℚ) < fUnits e g ↔ 0 < g := fun g => by
    rw [Nat.cast_pos, Nat.pos_iff_ne_zero, Nat.pos_iff_ne_zero, Ne, fUnits_eq_zero]
  have hnn : ∀ g, (0 : ℚ) ≤ fUnits e g := fun g => Nat.cast_nonneg _
  rw [ratOf_code, ratOf_code, mul_lt_mul_iff_left₀ hpos]
  cases n <;> cases n' <;> simp only [if_true, if_false, Bool.false_eq_true, neg_mul, one_mul, neg_lt_neg_iff, hmono, Nat.cast_lt]
  · exact iff_of_false (not_lt.mpr ((neg_nonpos.mpr (hnn _)).trans (hnn _))) (by omega)
  · constructor
    · intro hlt
      have hor : 0 < g ∨ 0 < g' := by
        by_contra hno
        rw [not_or, ← hzero g, ← hzero g', not_lt, not_lt] at hno
        linarith
      omega
    · intro hlt
      have h1 := hnn g
      have h2 := hnn g'
      rcases (by omega : 0 < g ∨ 0 < g') with hg | hg
      · linarith [(hzero g).mpr hg]
      · linarith [(hzero g').mpr hg]

/-- Less, of codes that are no NaN, is less of their keys. -/
theorem lessThan_iff (h : isS e) (ha : ¬(fDecode e a).isNaN = true) (hb : ¬(fDecode e b).isNaN = true) :
    lessThan (fDecode e a) (fDecode e b) ↔ fKey e a < fKey e b := by
  rw [fKey_eq, fKey_eq]
  rcases fDecode_number h ha with ⟨hda, hma⟩ | ⟨hda, hma, hlta⟩ <;> rcases fDecode_number h hb with ⟨hdb, hmb⟩ | ⟨hdb, hmb, hltb⟩ <;> rw [hda, hdb]
  · exact ratOf_code_lt ..
  · cases fNeg e b <;> cases fNeg e a <;> simp [lessThan] <;> omega
  · cases fNeg e b <;> cases fNeg e a <;> simp [lessThan] <;> omega
  · cases fNeg e b <;> cases fNeg e a <;> simp [lessThan] <;> omega

end Order

/-! ## The lesser and the greater (R195) -/

theorem fFtz_le (e : Elem) (z : Bool) (c : Nat) : fFtz e z c ≤ c := by
  unfold fFtz
  split
  · exact Nat.sub_le ..
  · exact le_refl c

section Select
variable {e : Elem} {a b : Nat} {z isMin : Bool}

/-- The rank orders the codes that are no NaN as their values, and -0 before +0. -/
theorem fRank_le_iff (h : isS e) (ha : ¬(fDecode e a).isNaN = true) (hb : ¬(fDecode e b).isNaN = true) : fRank e a ≤ fRank e b ↔
    if (fDecode e a).isZero = true ∧ (fDecode e b).isZero = true then (fDecode e a).neg = true ∨ (fDecode e b).neg = false
    else ¬lessThan (fDecode e b) (fDecode e a) := by
  obtain ⟨hnega, hzeroa, -⟩ := fDecode_number_facts h ha
  obtain ⟨hnegb, hzerob, -⟩ := fDecode_number_facts h hb
  simp only [hzeroa, hzerob, hnega, hnegb, lessThan_iff h hb ha, fKey_eq, fRank]
  cases fNeg e a <;> cases fNeg e b <;> simp <;> omega

/-- The choice between two codes of R195, where `first` says which of two numbers it is. -/
def Selected (e : Elem) (p q : Nat) (x y : FVal) (first : Prop) (d fl : Nat) : Prop :=
  (x.sig = true ∨ y.sig = true → fl = flNV) ∧ (¬(x.sig = true ∨ y.sig = true) → fl = 0) ∧
  (x.isNaN = true → y.isNaN = true → d = fNaN e) ∧ (x.isNaN = true → ¬y.isNaN = true → d = q) ∧ (¬x.isNaN = true → y.isNaN = true → d = p) ∧
  (¬x.isNaN = true → ¬y.isNaN = true → first → d = p) ∧ (¬x.isNaN = true → ¬y.isNaN = true → ¬first → d = q)

theorem nvIf_or (b b' : Bool) : (b = true ∨ b' = true → nvIf (b || b') = flNV) ∧ (¬(b = true ∨ b' = true) → nvIf (b || b') = 0) := by
  rw [← Bool.or_eq_true]
  exact ⟨fun h => if_pos h, fun h => if_neg h⟩

/-- The choice of the model, by what the two codes are read as. -/
theorem fMinMax_eq (isMin : Bool) (e : Elem) (z : Bool) (a b : Nat) : fMinMax isMin e z a b =
    if (srcOf e z a).isNaN ∧ (srcOf e z b).isNaN then nanOf e (nvIf ((srcOf e z a).sig || (srcOf e z b).sig))
    else if (srcOf e z a).isNaN then (fFtz e z b, nvIf ((srcOf e z a).sig || (srcOf e z b).sig))
    else if (srcOf e z b).isNaN then (fFtz e z a, nvIf ((srcOf e z a).sig || (srcOf e z b).sig))
    else if (if isMin then fRank e (fFtz e z a) ≤ fRank e (fFtz e z b) else fRank e (fFtz e z b) ≤ fRank e (fFtz e z a)) then (fFtz e z a, 0)
    else (fFtz e z b, 0) := rfl

theorem fits_fMinMax (h : isS e) (ha : a < 2 ^ e.width) (hb : b < 2 ^ e.width) {first : Prop}
    (hfirst : ¬(srcOf e z a).isNaN = true → ¬(srcOf e z b).isNaN = true →
      (first ↔ if isMin then fRank e (fFtz e z a) ≤ fRank e (fFtz e z b) else fRank e (fFtz e z b) ≤ fRank e (fFtz e z a))) :
    Fits e (Selected e (fFtz e z a) (fFtz e z b) (srcOf e z a) (srcOf e z b) first) (fMinMax isMin e z a b) := by
  have hlta := (fFtz_le e z a).trans_lt ha
  have hltb := (fFtz_le e z b).trans_lt hb
  have hsiga : ¬(srcOf e z a).isNaN = true → (srcOf e z a).sig = false := fun hn => (fDecode_number_facts h hn).2.2
  have hsigb : ¬(srcOf e z b).isNaN = true → (srcOf e z b).sig = false := fun hn => (fDecode_number_facts h hn).2.2
  obtain ⟨hnv, hquiet⟩ := nvIf_or (srcOf e z a).sig (srcOf e z b).sig
  rw [fMinMax_eq, Fits, Selected]
  by_cases hna : (srcOf e z a).isNaN = true
  · by_cases hnb : (srcOf e z b).isNaN = true
    · rw [if_pos ⟨hna, hnb⟩]
      exact ⟨fNaN_lt h, hnv, hquiet, fun _ _ => rfl, fun _ hn => absurd hnb hn, fun hn => absurd hna hn, fun hn => absurd hna hn, fun hn => absurd hna hn⟩
    · rw [if_neg fun hn => hnb hn.2, if_pos hna]
      exact ⟨hltb, hnv, hquiet, fun _ hn => absurd hn hnb, fun _ _ => rfl, fun hn => absurd hna hn, fun hn => absurd hna hn, fun hn => absurd hna hn⟩
  · rw [if_neg fun hn => hna hn.1, if_neg hna]
    by_cases hnb : (srcOf e z b).isNaN = true
    · rw [if_pos hnb]
      exact ⟨hlta, hnv, hquiet, fun hn => absurd hn hna, fun hn => absurd hn hna, fun _ _ => rfl, fun _ hn => absurd hnb hn, fun _ hn => absurd hnb hn⟩
    · rw [if_neg hnb, hsiga hna, hsigb hnb]
      by_cases hsel : first
      · rw [if_pos ((hfirst hna hnb).mp hsel)]
        exact ⟨hlta, by simp, fun _ => rfl, fun hn => absurd hn hna, fun hn => absurd hn hna, fun _ hn => absurd hn hnb, fun _ _ _ => rfl,
          fun _ _ hn => absurd hsel hn⟩
      · rw [if_neg ((hfirst hna hnb).not.mp hsel)]
        exact ⟨hltb, by simp, fun _ => rfl, fun hn => absurd hn hna, fun hn => absurd hn hna, fun _ hn => absurd hn hnb, fun _ _ hs => absurd hs hsel,
          fun _ _ _ => rfl⟩

end Select

/-! ## Signs (R196) -/

section Signs
variable {e : Elem} {a b : Nat}

theorem testBit_iff_fNeg (e : Elem) (c : Nat) : c.testBit (e.width - 1) = true ↔ fNeg e c = true := by rw [fNeg_eq_testBit]

theorem not_testBit_iff_fNeg (e : Elem) (c : Nat) : ¬c.testBit (e.width - 1) = true ↔ (!fNeg e c) = true := by
  rw [testBit_iff_fNeg, Bool.not_eq_true, Bool.not_eq_true']

theorem codeIs_fMag_add {p : Prop} {n : Bool} (hp : p ↔ n = true) (c : Nat) : CodeIs e p (c % 2 ^ (e.width - 1)) (fMag e c + fSign e n) := by
  rw [Nat.add_comm]
  exact codeIs_fSign_add hp (fMag_lt e c)

theorem fMag_add_fSign_lt (e : Elem) (c : Nat) (n : Bool) : fMag e c + fSign e n < 2 ^ e.width := (codeIs_fMag_add Iff.rfl c).1.1

end Signs

/-! ## Comparison (R197) -/

section Compare
variable {e : Elem} {code : FCmp} {z : Bool} {a b : Nat}

/-- What each code of a comparison says of two values. -/
def CmpHolds (code : FCmp) (p q : FVal) : Prop :=
  match code with
  | .eq => ¬(p.isNaN = true ∨ q.isNaN = true) ∧ ¬lessThan p q ∧ ¬lessThan q p
  | .ne => (p.isNaN = true ∨ q.isNaN = true) ∨ ¬(¬lessThan p q ∧ ¬lessThan q p)
  | .lt => ¬(p.isNaN = true ∨ q.isNaN = true) ∧ lessThan p q
  | .le => ¬(p.isNaN = true ∨ q.isNaN = true) ∧ ¬lessThan q p
  | .gt => ¬(p.isNaN = true ∨ q.isNaN = true) ∧ lessThan q p
  | .ge => ¬(p.isNaN = true ∨ q.isNaN = true) ∧ ¬lessThan p q
  | .ord => ¬(p.isNaN = true ∨ q.isNaN = true)
  | .uno => p.isNaN = true ∨ q.isNaN = true

/-- Where a comparison is invalid. -/
def CmpInvalid (code : FCmp) (p q : FVal) : Prop :=
  p.sig = true ∨ q.sig = true ∨ ((p.isNaN = true ∨ q.isNaN = true) ∧ (code = .lt ∨ code = .le ∨ code = .gt ∨ code = .ge))

/-- The comparison of the model, by what the two codes are read as. -/
theorem fCompare_eq (code : FCmp) (e : Elem) (z : Bool) (a b : Nat) : (fCompare code e z a b).1 = match code with
    | .eq => !((srcOf e z a).isNaN || (srcOf e z b).isNaN) && fKey e (fFtz e z a) == fKey e (fFtz e z b)
    | .ne => ((srcOf e z a).isNaN || (srcOf e z b).isNaN) || fKey e (fFtz e z a) != fKey e (fFtz e z b)
    | .lt => !((srcOf e z a).isNaN || (srcOf e z b).isNaN) && decide (fKey e (fFtz e z a) < fKey e (fFtz e z b))
    | .le => !((srcOf e z a).isNaN || (srcOf e z b).isNaN) && decide (fKey e (fFtz e z a) ≤ fKey e (fFtz e z b))
    | .gt => !((srcOf e z a).isNaN || (srcOf e z b).isNaN) && decide (fKey e (fFtz e z b) < fKey e (fFtz e z a))
    | .ge => !((srcOf e z a).isNaN || (srcOf e z b).isNaN) && decide (fKey e (fFtz e z b) ≤ fKey e (fFtz e z a))
    | .ord => !((srcOf e z a).isNaN || (srcOf e z b).isNaN)
    | .uno => (srcOf e z a).isNaN || (srcOf e z b).isNaN := rfl

theorem fCompare_holds (h : isS e) : (fCompare code e z a b).1 = true ↔ CmpHolds code (srcOf e z a) (srcOf e z b) := by
  have hlt : ∀ c d, ¬(srcOf e z c).isNaN = true → ¬(srcOf e z d).isNaN = true →
      (lessThan (srcOf e z c) (srcOf e z d) ↔ fKey e (fFtz e z c) < fKey e (fFtz e z d)) := fun _ _ => lessThan_iff h
  have hab := hlt a b
  have hba := hlt b a
  rw [fCompare_eq]
  by_cases hna : (srcOf e z a).isNaN = true <;> by_cases hnb : (srcOf e z b).isNaN = true
  · cases code <;> simp [CmpHolds, hna, hnb]
  · cases code <;> simp [CmpHolds, hna, hnb]
  · cases code <;> simp [CmpHolds, hna, hnb]
  · specialize hab hna hnb
    specialize hba hnb hna
    cases code <;> simp [CmpHolds, hna, hnb, hab, hba] <;> omega

/-- The comparisons that a quiet NaN makes invalid. -/
def quietInvalid : FCmp → Bool
  | .lt | .le | .gt | .ge => true
  | _ => false

theorem fCompare_flags (code : FCmp) (e : Elem) (z : Bool) (a b : Nat) :
    (CmpInvalid code (srcOf e z a) (srcOf e z b) → (fCompare code e z a b).2 = flNV) ∧
      (¬CmpInvalid code (srcOf e z a) (srcOf e z b) → (fCompare code e z a b).2 = 0) := by
  have hiff : CmpInvalid code (srcOf e z a) (srcOf e z b) ↔
      ((srcOf e z a).sig || (srcOf e z b).sig || ((srcOf e z a).isNaN || (srcOf e z b).isNaN) && quietInvalid code) = true := by
    cases code <;> simp [CmpInvalid, quietInvalid, or_assoc]
  rw [hiff]
  exact ⟨fun h => if_pos h, fun h => if_neg h⟩

end Compare

/-! ## Classes (R198) -/

section Class
variable {e : Elem}

/-- A finite value below the normal ones has a subnormal code. -/
theorem fSig_lt_normal_iff (e : Elem) (g : Nat) : (fSig e g : ℝ) * 2 ^ fExp e g < 2 ^ (1 - (fBias e : Int)) ↔ g < 2 ^ fMan e := by
  have hmin : fUnits e (2 ^ fMan e) = 2 ^ fMan e := by
    have := fUnits_normal (e := e) (r := 0) (t := 0) (by positivity)
    simpa using this
  rw [fSig_mul_zpow, normal_eq, mul_lt_mul_iff_left₀ (zpow_two_pos _), Nat.cast_lt]
  nth_rw 1 [← hmin]
  exact (fUnits_strictMono e).lt_iff_lt

/-- The bit of a value's class. -/
def classBit (e : Elem) : FVal → Nat
  | .nan sg => if sg then 8 else 9
  | .inf neg => if neg then 0 else 7
  | .fin neg k y =>
    if k = 0 then (if neg then 3 else 4)
    else if |ratOf (.fin neg k y)| < (2 : Rat) ^ (1 - (fBias e : Int)) then (if neg then 2 else 5)
    else (if neg then 1 else 6)

theorem classBit_le (e : Elem) (p : FVal) : classBit e p ≤ 9 := by
  unfold classBit
  split <;> split_ifs <;> decide

theorem fClassOf_eq (h : isS e) (z : Bool) (a : Nat) : fClassOf e z a = 2 ^ classBit e (srcOf e z a) := by
  unfold fClassOf srcOf
  generalize fFtz e z a = c
  dsimp only
  cases hd : fDecode e c with
  | nan sg => cases sg <;> rfl
  | inf n => cases n <;> rfl
  | fin n m x =>
    obtain ⟨-, -, rfl, rfl⟩ := fDecode_fin h hd
    have hiff : |ratOf (.fin n (fSig e (fMag e c)) (fExp e (fMag e c)))| < (2 : ℚ) ^ (1 - (fBias e : Int)) ↔ fMag e c < 2 ^ fMan e := by
      rw [← fSig_lt_normal_iff, ← abs_ratOf n]
      rw [← Rat.cast_lt (K := ℝ), Rat.cast_abs, Rat.cast_zpow, Rat.cast_ofNat]
    simp only [classBit, hiff]
    split_ifs <;> rfl

end Class

end Sys2Proof.Machine
end

section
/-! Values that a format holds are rounded to themselves, and the integral value of a number (06_float_formats.md R182, R199). -/
namespace Sys2Proof.Machine
open Sys2Proof Sys2Proof.Safety

/-! ## Values of a format are rounded to themselves -/

section Exact
variable {e : Elem} {fm : FMod} {u d fl : Nat} {v : ℝ}

/-- A code with a sign stands for what its magnitude stands for, with the sign. -/
theorem fDecode_of_mag (h : isS e) {m : Nat} {x : Int} (hd : fDecode e (d % 2 ^ (e.width - 1)) = .fin false m x) : fDecode e d = .fin (fNeg e d) m x := by
  obtain ⟨hle, -, rfl, rfl⟩ := fDecode_fin h hd
  rw [show fMag e (d % 2 ^ (e.width - 1)) = fMag e d from Nat.mod_mod ..] at hle ⊢
  exact fDecode_of_le h hle

/-- A whole fraction is none. -/
theorem eq_zero_of_add_eq {k n : Nat} {f : ℝ} (hf0 : 0 ≤ f) (hf1 : f < 1) (heq : (k : ℝ) + f = n) : f = 0 ∧ k = n := by
  have h1 : k ≤ n := Nat.cast_le.mp (heq ▸ le_add_of_nonneg_right hf0)
  have h2 : n < k + 1 := by
    rw [← Nat.cast_lt (α := ℝ), ← heq]
    push_cast
    linarith
  obtain rfl : k = n := by omega
  exact ⟨by linarith, rfl⟩

theorem not_roundsUp_zero {r : Rnd} {p : Prop} {k : Nat} (hu : r = .rsto → u < 2 ^ 32) : ¬RoundsUp r u p k 0 := by
  cases r with
  | rsto =>
    have := hu rfl
    rw [RoundsUp, zero_mul, Int.floor_zero, not_le]
    omega
  | _ => norm_num [RoundsUp]

/-- A rounded value that is whole units of its spacing, and not beyond the largest finite one, is that value. -/
theorem roundIs_exact (h : isS e) (hr : RoundIs e fm u v d fl) (hu : fm.rnd = .rsto → u < 2 ^ 32)
    (hunits : ∀ q, SpacingIs e |v| q → ∃ n : Nat, |v| = n * 2 ^ q)
    (htop : |v| ≤ (ratOf (fDecode e (fMaxCode e)) : ℝ)) (hz : fm.ftzo = true → (2 : ℝ) ^ (1 - (fBias e : Int)) ≤ |v|) :
    SignIs e (v < 0) d ∧ (ratOf (fDecode e d) : ℝ) = v ∧ fl = 0 := by
  obtain ⟨q, y, f, hspacing, ⟨k, hk, hf0, hf1, -, hdown⟩, -, -, hres⟩ := hr
  obtain ⟨n, hn⟩ := hunits q hspacing
  have hq := zpow_two_pos q
  obtain ⟨rfl, rfl⟩ := eq_zero_of_add_eq hf0 hf1 (mul_right_cancel₀ hq.ne' (hk.symm.trans hn))
  obtain rfl := hdown (not_roundsUp_zero hu)
  rw [← hn] at hres
  have hpast : ¬((ratOf (fDecode e (fMaxCode e)) : ℝ) < |v| ∨
      ((fm.rnd = .rne ∨ fm.rnd = .rna) ∧ (ratOf (fDecode e (fMaxCode e)) : ℝ) + 2 ^ q / 2 ≤ |v|)) := by
    rintro (hlt | ⟨-, hle⟩) <;> linarith
  obtain ⟨hsign, ⟨m, x, hd, hm⟩, hfl, -⟩ := hres hpast fun hflush => absurd (hz hflush.1) (not_le.mpr hflush.2.2)
  refine ⟨hsign, ?_, hfl rfl⟩
  have hneg : fNeg e d = true ↔ v < 0 := by
    rw [← testBit_iff_fNeg]
    exact hsign.2
  rw [fDecode_of_mag h hd, ratOf_fin]
  rcases lt_or_ge v 0 with hlt | hge
  · rw [if_pos (hneg.mpr hlt)]
    push_cast
    rw [mul_assoc, hm, abs_of_neg hlt, neg_one_mul, neg_neg]
  · rw [if_neg (hneg.not.mpr (not_lt.mpr hge))]
    push_cast
    rw [mul_assoc, hm, abs_of_nonneg hge, one_mul]

/-- A significand that fits is whole units of the spacing at its value. -/
theorem units_of_significand {a : ℝ} {n : Nat} {q q₀ : Int} (hn : n < 2 * 2 ^ fMan e) (hq₀ : fSubExp e ≤ q₀) (ha : a = n * 2 ^ q₀)
    (hs : SpacingIs e a q) : ∃ n' : Nat, a = n' * 2 ^ q := by
  obtain ⟨p, hlow, -, hq⟩ := spacingIs_iff.mp hs
  have hlt : a < 2 ^ ((fMan e : Int) + 1 + q₀) := by
    rw [ha, zpow_two_add, zpow_two_succ, zpow_natCast]
    exact mul_lt_mul_of_pos_right (by exact_mod_cast hn) (zpow_two_pos q₀)
  have hp := zpow_two_lt.mp (hlow.trans_lt hlt)
  refine ⟨n * 2 ^ (q₀ - q).toNat, ?_⟩
  rw [ha, natCast_mul_zpow (show q ≤ q₀ by omega)]
  push_cast
  ring

/-- Such a value that is not beyond the largest finite one is rounded to itself. -/
theorem fRound_exact (h : isS e) {m n₀ : Nat} {x q₀ : Int} (n : Bool) (hm : m ≠ 0) (hu : fm.rnd = .rsto → u < 2 ^ 32) (hn₀ : n₀ < 2 * 2 ^ fMan e)
    (hq₀ : fSubExp e ≤ q₀) (hval : (m : ℝ) * 2 ^ x = n₀ * 2 ^ q₀) (htop : (m : ℝ) * 2 ^ x ≤ (ratOf (fDecode e (fMaxCode e)) : ℝ))
    (hz : fm.ftzo = true → (2 : ℝ) ^ (1 - (fBias e : Int)) ≤ m * 2 ^ x) :
    SignIs e (n = true) (fRound e fm u n m x).1 ∧ (ratOf (fDecode e (fRound e fm u n m x).1) : ℝ) = (ratOf (.fin n m x) : ℝ) ∧
      (fRound e fm u n m x).2 = 0 := by
  rw [← ratOf_neg_iff hm n x]
  refine roundIs_exact h (fRound_roundIs h hm) hu (fun q hq => ?_) ?_ ?_
  · rw [abs_ratOf] at hq ⊢
    exact units_of_significand hn₀ hq₀ hval hq
  · rw [abs_ratOf]
    exact htop
  · rw [abs_ratOf]
    exact hz

end Exact

/-! ## Rounding to an integer -/

section Integral
variable {r : Rnd} {u m : Nat} {n : Bool} {x : Int}

/-- The model's rounding to an integer is that of R182 with units of 1. -/
theorem roundInt_roundedTo (r : Rnd) (u : Nat) (n : Bool) (m : Nat) (x : Int) :
    ∃ f : ℝ, RoundedTo r u (ratOf (.fin n m x) : ℝ) 0 (roundInt r u n m x).1 f ∧ ((roundInt r u n m x).2 = true ↔ f ≠ 0) := by
  obtain ⟨k, rem, d, hu⟩ : ∃ k rem d, unitsOf m x 0 = (k, rem, d) := ⟨_, _, _, rfl⟩
  obtain ⟨hlt, hunits⟩ := unitsOf_spec m x 0 hu
  refine ⟨rem / d, ?_, ?_⟩
  · have hsign : 0 < rem → ((ratOf (.fin n m x) : ℝ) < 0 ↔ n = true) := fun hrem => by
      refine ratOf_neg_iff (fun h0 => ?_) n x
      have hpos : (0 : ℝ) < (k + (rem : ℝ) / d) * 2 ^ (0 : Int) := by
        have : (0 : ℝ) < rem / d := div_pos (Nat.cast_pos.mpr hrem) (Nat.cast_pos.mpr (by omega))
        positivity
      rw [← hunits, h0, Nat.cast_zero, zero_mul] at hpos
      exact hpos.false
    simp only [roundInt, hu]
    exact roundedTo_units ((abs_ratOf n m x).trans hunits) hlt hsign
  · simp only [roundInt, hu]
    rw [bne_iff_ne, Ne, Ne, fraction_eq_zero hlt]

/-- The flags of an exact and of an inexact result. -/
theorem inexact_flags {b : Bool} {f : ℝ} (hb : b = true ↔ f ≠ 0) : (f = 0 → (if b then flNX else 0) = 0) ∧ (f ≠ 0 → (if b then flNX else 0) = flNX) :=
  ⟨fun hf => if_neg fun ht => hb.mp ht hf, fun hf => if_pos (hb.mpr hf)⟩

/-- A value without a fraction is its own rounding; a fraction leaves at most half the significand. -/
theorem roundInt_cases (r : Rnd) (n : Bool) (hu : r = .rsto → u < 2 ^ 32) {K : Nat} (hm : m < 2 * K) :
    (0 ≤ x ∧ ((roundInt r u n m x).1 : ℝ) = m * 2 ^ x) ∨ (roundInt r u n m x).1 ≤ K := by
  rcases le_or_gt 0 x with hx | hx
  · obtain ⟨f, ⟨k, hk, hf0, hf1, -, hdown⟩, -⟩ := roundInt_roundedTo r u n m x
    rw [abs_ratOf, zpow_zero, mul_one] at hk
    have hwhole : (m : ℝ) * 2 ^ x = (m * 2 ^ x.toNat : Nat) := by
      rw [natCast_mul_zpow hx, zpow_zero, mul_one, Int.sub_zero]
      push_cast
      rfl
    obtain ⟨rfl, hkn⟩ := eq_zero_of_add_eq hf0 hf1 (hk.symm.trans hwhole)
    rw [hdown (not_roundsUp_zero hu), hk, add_zero]
    exact .inl ⟨hx, rfl⟩
  · refine .inr ?_
    obtain ⟨j, hj⟩ : ∃ j, (0 - x).toNat = j + 1 := ⟨(0 - x).toNat - 1, by omega⟩
    have hk : m / 2 ^ (j + 1) < K := by
      rw [Nat.div_lt_iff_lt_mul (by positivity), pow_succ]
      calc m < 2 * K := hm
        _ ≤ K * (2 ^ j * 2) := by nlinarith [Nat.one_le_two_pow (n := j)]
    have hunits : unitsOf m x 0 = (m / 2 ^ (j + 1), m % 2 ^ (j + 1), 2 ^ (j + 1)) := by
      rw [unitsOf, if_neg (by omega), hj]
    simp only [roundInt, hunits]
    split <;> omega

end Integral

/-! ## Integral values (R199) -/

/-- The integral value of a source with code `c`. -/
def IntegralIs (e : Elem) (r : Rnd) (u c : Nat) (p : FVal) (d fl : Nat) : Prop :=
  match p with
  | .nan sg => NaNIs e (sg = true) d fl
  | .inf _ => d = c ∧ fl = 0
  | .fin neg q _ =>
    (q = 0 → d = c ∧ fl = 0) ∧
    (q ≠ 0 → ∃ (y : Nat) (f : ℝ), RoundedTo r u (ratOf p : ℝ) 0 y f ∧ SignIs e (neg = true) d ∧ |ratOf (fDecode e d)| = y ∧
      (f = 0 → fl = 0) ∧ (f ≠ 0 → fl = flNX))

section Rint
variable {e : Elem} {r : Rnd} {u a : Nat} {z : Bool}

/-- Integers of the significand's size are below the largest finite value of an F format. -/
theorem isF_integers (h : isF e) : fSubExp e ≤ 0 ∧ 0 ≤ fTopExp e := by
  rcases h with rfl | rfl | rfl | rfl <;> decide

theorem significand_le_top (h : isF e) {n : Nat} (hn : n ≤ 2 ^ fMan e) : (n : ℝ) ≤ (ratOf (fDecode e (fMaxCode e)) : ℝ) := by
  rw [fMaxCode_value (isS_of_isF h)]
  have h1 : (n : ℝ) ≤ fTopSig e := Nat.cast_le.mpr (hn.trans (fTopSig_bounds e).1)
  have h2 : (1 : ℝ) ≤ 2 ^ fTopExp e := one_le_zpow₀ one_le_two (isF_integers h).2
  exact h1.trans (le_mul_of_one_le_right (Nat.cast_nonneg _) h2)

/-- A finite value is not beyond the largest finite one. -/
theorem fSig_le_top (h : isS e) {g : Nat} (hg : g ≤ fMaxCode e) : (fSig e g : ℝ) * 2 ^ fExp e g ≤ (ratOf (fDecode e (fMaxCode e)) : ℝ) := by
  rw [ratOf_fDecode_mag h le_rfl, fSig_mul_zpow]
  exact mul_le_mul_of_nonneg_right (Nat.cast_le.mpr ((fUnits_strictMono e).monotone hg)) (zpow_two_pos _).le

theorem ratOf_zero_code (h : isS e) (n : Bool) : ratOf (fDecode e (fSign e n)) = 0 := by
  have hmag := fMag_fSign_add (e := e) (g := 0) (by positivity) n
  rw [Nat.add_zero] at hmag
  rw [fDecode_of_le h (hmag.le.trans (Nat.zero_le _)), hmag, fSig_eq_zero.mpr rfl, ratOf_fin]
  simp

/-- The code of an integer that the format holds. -/
theorem fRound_integer (h : isF e) {y : Nat} (hy0 : y ≠ 0) (n : Bool)
    (hy : y ≤ 2 ^ fMan e ∨ ∃ g, g ≤ fMaxCode e ∧ (y : ℝ) = fSig e g * 2 ^ fExp e g) :
    SignIs e (n = true) (fRound e exactMod 0 n y 0).1 ∧ |ratOf (fDecode e (fRound e exactMod 0 n y 0).1)| = y := by
  have hS := isS_of_isF h
  have hone : (y : ℝ) * 2 ^ (0 : Int) = y := by rw [zpow_zero, mul_one]
  have hexact : SignIs e (n = true) (fRound e exactMod 0 n y 0).1 ∧
      (ratOf (fDecode e (fRound e exactMod 0 n y 0).1) : ℝ) = (ratOf (.fin n y 0) : ℝ) ∧ (fRound e exactMod 0 n y 0).2 = 0 := by
    rcases hy with hsmall | ⟨g, hg, hval⟩
    · refine fRound_exact hS n hy0 (fun _ => by decide) ?_ (isF_integers h).1 rfl (hone.symm ▸ significand_le_top h hsmall) fun hz => by cases hz
      have : 0 < 2 ^ fMan e := by positivity
      omega
    · refine fRound_exact hS n hy0 (fun _ => by decide) (fSig_lt e g) (fSubExp_le_fExp e g) (hone.trans hval) ?_ fun hz => by cases hz
      rw [hone, hval]
      exact fSig_le_top hS hg
  refine ⟨hexact.1, ?_⟩
  have habs := congrArg abs hexact.2.1
  rw [abs_ratOf, hone] at habs
  exact_mod_cast habs

theorem fits_fRint (h : isF e) (ha : a < 2 ^ e.width) (hu : u < 2 ^ 32) : Fits e (IntegralIs e r u (fFtz e z a) (srcOf e z a)) (fRint e r z u a) := by
  have hS := isS_of_isF h
  have hc := (fFtz_le e z a).trans_lt ha
  have hsrc : ∀ n m x, srcOf e z a = .fin n m x → ∃ g, g ≤ fMaxCode e ∧ m = fSig e g ∧ x = fExp e g := fun n m x => srcOf_fin hS
  unfold fRint srcOf at *
  dsimp only
  generalize fDecode e (fFtz e z a) = p at hsrc
  cases p with
  | nan sg => exact fits_nan hS Iff.rfl
  | inf n => exact ⟨hc, rfl, rfl⟩
  | fin n m x =>
    dsimp only
    by_cases h0 : m = 0
    · rw [if_pos h0]
      exact ⟨hc, fun _ => ⟨rfl, rfl⟩, fun hne => absurd h0 hne⟩
    · obtain ⟨g, hg, rfl, rfl⟩ := hsrc _ _ _ rfl
      obtain ⟨f, hround, hb⟩ := roundInt_roundedTo r u n (fSig e g) (fExp e g)
      have hsize := roundInt_cases (x := fExp e g) r n (fun _ => hu) (fSig_lt e g)
      generalize roundInt r u n (fSig e g) (fExp e g) = t at *
      obtain ⟨hexact, hinexact⟩ := inexact_flags hb
      have hcode : SignIs e (n = true) (if t.1 = 0 then fSign e n else (fRound e exactMod 0 n t.1 0).1) ∧
          |ratOf (fDecode e (if t.1 = 0 then fSign e n else (fRound e exactMod 0 n t.1 0).1))| = t.1 := by
        split
        · next hy0 =>
          rw [ratOf_zero_code hS, hy0, abs_zero, Nat.cast_zero]
          exact ⟨(fits_zero e Iff.rfl).2.1.1, rfl⟩
        · next hy0 =>
          refine fRound_integer h hy0 n ?_
          rcases hsize with ⟨-, hval⟩ | hsmall
          · exact .inr ⟨g, hg, hval⟩
          · exact .inl hsmall
      rw [if_neg h0]
      exact ⟨hcode.1.1, fun hm => absurd hm h0, fun _ => ⟨_, f, hround, hcode.1, hcode.2, hexact, hinexact⟩⟩

end Rint

end Sys2Proof.Machine
end

section
/-! Scaling and the conversions among formats and integers (06_float_formats.md R199, R204-R207). -/
namespace Sys2Proof.Machine
open Sys2Proof Sys2Proof.Safety

/-! ## Scaling (R199) -/

section Scale
variable {e : Elem} {fm : FMod} {u m d fl : Nat} {neg : Bool} {x t : Int}

/-- Far beyond the largest finite value only the sign matters. -/
theorem roundIs_far_congr (h : isS e) {v w : ℝ} (hv : (2 : ℝ) ^ fFarExp e ≤ |v|) (hw : (2 : ℝ) ^ fFarExp e ≤ |w|) (hneg : v < 0 ↔ w < 0)
    (hr : RoundIs e fm u w d fl) : RoundIs e fm u v d fl := by
  rw [roundIs_of_far h hw] at hr
  rw [roundIs_of_far h hv, hneg]
  exact hr

/-- Far below the subnormal spacing only the sign matters. -/
theorem roundIs_tiny_congr (h : isS e) {v w : ℝ} (hv0 : v ≠ 0) (hw0 : w ≠ 0) (hv : |v| < 2 ^ (fSubExp e - 32)) (hw : |w| < 2 ^ (fSubExp e - 32))
    (hneg : v < 0 ↔ w < 0) (hr : RoundIs e fm u w d fl) : RoundIs e fm u v d fl := by
  have htop := fSubExp_lt_fTopExp h
  have hspacing : ∀ {a : ℝ} {p : Int}, a < 2 ^ (fSubExp e - 32) → (2 : ℝ) ^ p ≤ a → min (max (p - fMan e) (fSubExp e)) (fTopExp e) = fSubExp e :=
    fun ha hp => by
      have := zpow_two_lt.mp (hp.trans_lt ha)
      omega
  refine roundIs_congr h hneg (fun q hq => ?_) hr
  obtain ⟨p, hlow, -, rfl⟩ := spacingIs_iff.mp hq
  rw [hspacing hw hlow]
  obtain ⟨p', hlow', hhigh'⟩ := exists_mem_Ico_zpow (abs_pos.mpr hv0) one_lt_two
  refine ⟨spacingIs_iff.mpr ⟨p', hlow', hhigh', (hspacing hv hlow').symm⟩, GridAlike.of_between (k := 0) ?_ ?_ ?_ ?_ ?_⟩ <;>
    simp [hv, hw, hv0, hw0]

/-- The exponents of every format lie well within those that the model keeps. -/
theorem exponents_within (h : isS e) : -1074 ≤ fSubExp e ∧ fFarExp e ≤ 1024 := by
  rcases h with (rfl | rfl | rfl | rfl) | rfl | rfl <;> decide

theorem clampExp_cases (t : Int) : clampExp t = t ∨ (t < -8192 ∧ clampExp t = -8192) ∨ (8192 < t ∧ clampExp t = 8192) := by
  unfold clampExp
  split
  · next hlow => exact .inr (.inl ⟨hlow, rfl⟩)
  · split
    · next hhigh => exact .inr (.inr ⟨hhigh, rfl⟩)
    · exact .inl rfl

/-- Holding the exponent within reach changes no result. -/
theorem roundIs_clampExp (h : isS e) (hm : m ≠ 0) (hlt : m < 2 ^ 64) (hr : RoundIs e fm u (ratOf (.fin neg m (clampExp t)) : ℝ) d fl) :
    RoundIs e fm u (ratOf (.fin neg m t) : ℝ) d fl := by
  obtain ⟨hsub, hfar⟩ := exponents_within h
  have hneg : ∀ y y', (ratOf (.fin neg m y) : ℝ) < 0 ↔ (ratOf (.fin neg m y') : ℝ) < 0 := fun y y' => by rw [ratOf_neg_iff hm, ratOf_neg_iff hm]
  have hne : ∀ y, (ratOf (.fin neg m y) : ℝ) ≠ 0 := fun y => Rat.cast_ne_zero.mpr (ratOf_ne_zero hm neg y)
  have hm1 : (1 : ℝ) ≤ m := Nat.one_le_cast.mpr (Nat.one_le_iff_ne_zero.mpr hm)
  rcases clampExp_cases t with ht | ⟨ht, hc⟩ | ⟨ht, hc⟩
  · rwa [ht] at hr
  · have htiny : ∀ y : Int, y ≤ -8192 → |(ratOf (.fin neg m y) : ℝ)| < 2 ^ (fSubExp e - 32) := fun y hy => by
      rw [abs_ratOf]
      calc (m : ℝ) * 2 ^ y < 2 ^ (64 : Int) * 2 ^ y := mul_lt_mul_of_pos_right (by exact_mod_cast hlt) (zpow_two_pos y)
        _ = 2 ^ (64 + y) := (zpow_two_add ..).symm
        _ ≤ 2 ^ (fSubExp e - 32) := zpow_two_le.mpr (by omega)
    exact roundIs_tiny_congr h (hne _) (hne _) (htiny _ ht.le) (htiny _ hc.le) (hneg ..) hr
  · have hlarge : ∀ y : Int, 8192 ≤ y → (2 : ℝ) ^ fFarExp e ≤ |(ratOf (.fin neg m y) : ℝ)| := fun y hy => by
      rw [abs_ratOf]
      exact (zpow_two_le.mpr (by omega)).trans (le_mul_of_one_le_left (zpow_two_pos y).le hm1)
    exact roundIs_far_congr h (hlarge _ ht.le) (hlarge _ hc.ge) (hneg ..) hr

theorem ratOf_scaled (n : Bool) (m : Nat) (x j : Int) : ratOf (.fin n m x) * (2 : ℚ) ^ j = ratOf (.fin n m (x + j)) := by
  rw [ratOf_fin, ratOf_fin, zpow_add₀ two_ne_zero, ← mul_assoc]

/-- A value times 2^n. -/
def ScaledIs (e : Elem) (fm : FMod) (u : Nat) (n : Int) (p : FVal) (d fl : Nat) : Prop :=
  match p with
  | .nan sg => NaNIs e (sg = true) d fl
  | .inf neg => InfIs e fm.sat (neg = true) d ∧ fl = 0
  | .fin neg q _ => (q = 0 → CodeIs e (neg = true) 0 d ∧ fl = 0) ∧ (q ≠ 0 → RoundIs e fm u (ratOf p * (2 : Rat) ^ n : Rat) d fl)

theorem fits_fScale (h : isS e) (a : Nat) (n : Int) : Fits e (ScaledIs e fm u n (srcOf e fm.ftzi a)) (fScale e fm u a n) := by
  have hlt : ∀ g m x, srcOf e fm.ftzi a = .fin g m x → m < 2 ^ 64 := fun g m x => srcOf_fin_lt h
  unfold fScale srcOf at *
  generalize fDecode e (fFtz e fm.ftzi a) = p at hlt
  cases p with
  | nan sg => exact fits_nan h Iff.rfl
  | inf g => exact fits_inf h Iff.rfl fm.sat 0
  | fin g m x =>
    dsimp only
    by_cases h0 : m = 0
    · rw [if_pos h0]
      exact (fits_zero e Iff.rfl).mono fun _ _ hz => ⟨fun _ => hz, fun hne => absurd h0 hne⟩
    · rw [if_neg h0]
      refine (fits_fRound h h0 g _).mono fun d fl hr => ⟨fun hm => absurd hm h0, fun _ => ?_⟩
      rw [ratOf_scaled]
      exact roundIs_clampExp h h0 (hlt _ _ _ rfl) hr

end Scale

/-! ## Conversions among formats (R204, R207) -/

/-- A value in another format. -/
def ConvertedIs (g : Elem) (md : FMod) (w : Nat) (p : FVal) (d fl : Nat) : Prop :=
  match p with
  | .nan sg => NaNIs g (sg = true) d fl
  | .inf neg => InfIs g md.sat (neg = true) d ∧ fl = if g = .e4m3 then flNV else 0
  | .fin neg n _ => (n = 0 → CodeIs g (neg = true) 0 d ∧ fl = 0) ∧ (n ≠ 0 → RoundIs g md w (ratOf p : ℝ) d fl)

section Convert
variable {e : Elem} {fm : FMod} {u : Nat}

theorem fits_fConvert (h : isS e) (se : Elem) (a : Nat) : Fits e (ConvertedIs e fm u (srcOf se fm.ftzi a)) (fConvert se e fm u a) := by
  unfold fConvert srcOf
  generalize fDecode se (fFtz se fm.ftzi a) = p
  cases p with
  | nan sg => exact fits_nan h Iff.rfl
  | inf g => exact fits_inf h Iff.rfl fm.sat _
  | fin g m x =>
    dsimp only
    by_cases h0 : m = 0
    · rw [if_pos h0]
      exact (fits_zero e Iff.rfl).mono fun _ _ hz => ⟨fun _ => hz, fun hne => absurd h0 hne⟩
    · rw [if_neg h0]
      exact (fits_fRound h h0 g x).mono fun d fl hr => ⟨fun hm => absurd hm h0, fun _ => hr⟩

end Convert

/-! ## Conversions to and from integers (R205, R206) -/

/-- A value as an integer of element `e`, held within its limits. -/
def IntegerIs (e : Elem) (r : Rnd) (u : Nat) (p : FVal) (d fl : Nat) : Prop :=
  match p with
  | .nan _ => d = 0 ∧ fl = flNV
  | .inf neg => toI e d = (if neg then eMin e else eMax e) ∧ fl = flNV
  | .fin neg _ _ => ∃ (y : Nat) (f : ℝ), RoundedTo r u (ratOf p : ℝ) 0 y f ∧
      let v : Int := if neg then -(y : Int) else y
      (v < eMin e → toI e d = eMin e ∧ fl = flNV) ∧ (eMax e < v → toI e d = eMax e ∧ fl = flNV) ∧
      (eMin e ≤ v → v ≤ eMax e → toI e d = v ∧ (f = 0 → fl = 0) ∧ (f ≠ 0 → fl = flNX))

section Integers
variable {e : Elem} {r : Rnd} {u a : Nat} {z : Bool}

theorem toI_eMin (e : Elem) : toI e (wrapI e.width (eMin e)) = eMin e := toI_wrapI e le_rfl (eMin_le_eMax e)
theorem toI_eMax (e : Elem) : toI e (wrapI e.width (eMax e)) = eMax e := toI_wrapI e (eMin_le_eMax e) le_rfl

theorem fits_fToInt (se : Elem) : Fits e (IntegerIs e r u (srcOf se z a)) (fToInt se e r z u a) := by
  unfold fToInt srcOf
  generalize fDecode se (fFtz se z a) = p
  cases p with
  | nan sg => exact ⟨by positivity, rfl, rfl⟩
  | inf n => cases n with
    | true => exact ⟨wrapI_lt .., toI_eMin e, rfl⟩
    | false => exact ⟨wrapI_lt .., toI_eMax e, rfl⟩
  | fin n m x =>
    obtain ⟨f, hround, hb⟩ := roundInt_roundedTo r u n m x
    obtain ⟨hexact, hinexact⟩ := inexact_flags hb
    dsimp only
    generalize hv : (if n then -((roundInt r u n m x).1 : Int) else ((roundInt r u n m x).1 : Int)) = v
    have hlim := eMin_le_eMax e
    split
    · next hlow => exact ⟨wrapI_lt .., _, f, hround, hv ▸ ⟨fun _ => ⟨toI_eMin e, rfl⟩, fun hhigh => by omega, fun hge => by omega⟩⟩
    · next hlow =>
      split
      · next hhigh => exact ⟨wrapI_lt .., _, f, hround, hv ▸ ⟨fun hl => absurd hl hlow, fun _ => ⟨toI_eMax e, rfl⟩, fun _ hle => by omega⟩⟩
      · next hhigh =>
        subst hv
        exact ⟨wrapI_lt .., _, f, hround, fun hl => absurd hl hlow, fun hh => absurd hh hhigh, fun hge hle => ⟨toI_wrapI e hge hle, hexact, hinexact⟩⟩

theorem fits_iToFloat (h : isS e) (se : Elem) (sat : Bool) :
    Fits e (fun d fl => (toI se a = 0 → d = 0 ∧ fl = 0) ∧
      (toI se a ≠ 0 → RoundIs e { rnd := r, sat := sat, ftzi := false, ftzo := false } u (toI se a : ℝ) d fl)) (iToFloat se e r sat u a) := by
  unfold iToFloat
  dsimp only
  by_cases h0 : toI se a = 0
  · rw [if_pos h0]
    exact (fits_code_zero e).mono fun _ _ hz => ⟨fun _ => hz, fun hne => absurd h0 hne⟩
  · rw [if_neg h0]
    exact (fits_fRound_int h h0 0 (by rw [zpow_zero, mul_one, Rat.cast_intCast])).mono fun _ _ hr => ⟨fun hz => absurd hz h0, fun _ => hr⟩

end Integers

/-! ## The instructions together -/

/-- Settles O10: each instruction is an element function, and each element function is exact or rounded once. -/
theorem floatSelectionAndConversions : Obligations.FloatSelectionAndConversions := by
  constructor
  · intro s ty z code a b h hS e src x nv select zeros magn sg eq cmp cmpNv
    have hlt : ∀ o L j, s.el ty o L j < 2 ^ e.width := s.el_lt ty
    refine ⟨?min, ?max, ?abs, ?neg, ?copySign, ?compare, ?classes⟩
    case min => exact byElementFp_fits rfl h rfl fun L j => fits_fMinMax hS (hlt a L j) (hlt b L j) fun hna hnb => (fRank_le_iff hS hna hnb).symm
    case max =>
      refine byElementFp_fits rfl h rfl fun L j => fits_fMinMax hS (hlt a L j) (hlt b L j) fun hna hnb => ?_
      refine Iff.trans ?_ (fRank_le_iff hS hnb hna).symm
      show (if (x a L j).isZero = true ∧ (x b L j).isZero = true then _ else _) ↔ if (x b L j).isZero = true ∧ (x a L j).isZero = true then _ else _
      simp only [and_comm (a := (x a L j).isZero = true), or_comm (a := (x a L j).neg = false)]
      exact Iff.rfl
    case abs => exact byElement_map1 rfl h (fun L j => fMag_add_fSign_lt e _ false) fun L j => codeIs_fMag_add (n := false) (by simp) _
    case neg => exact byElement_map1 rfl h (fun L j => fMag_add_fSign_lt e _ _) fun L j => codeIs_fMag_add (not_testBit_iff_fNeg ..) _
    case copySign => exact byElement_map2 rfl h (fun L j => fMag_add_fSign_lt e _ _) fun L j => codeIs_fMag_add (testBit_iff_fNeg ..) _
    case compare =>
      refine givesFp_finish rfl h (fun _ => rfl) fun L _ => ?_
      obtain ⟨hone, hzero⟩ := valOfBool_of_iff (fCompare_holds (code := code) (z := z) (a := s.el ty a L 0) (b := s.el ty b L 0) hS)
      obtain ⟨hnv, hquiet⟩ := fCompare_flags code e z (s.el ty a L 0) (s.el ty b L 0)
      exact ⟨hone, hzero, hnv, hquiet⟩
    case classes =>
      refine gives_put rfl h fun L _ => ?_
      show (BitVec.ofNat 256 (fClassOf e z (s.el ty a L 0))).toNat = 2 ^ classBit e (x a L 0)
      rw [fClassOf_eq hS, toNat_ofNat_of_lt (w := 10) (Nat.pow_lt_pow_right (by decide) (Nat.lt_succ_of_le (classBit_le e _))) (by decide)]
  · intro s ty m z a b k h e u ct ft it pt converted toInt n
    refine ⟨fun hF => ?rint, fun hF => ?scale, fun hS _ => ?cvt, fun hS => ?pack, fun _ => ?unpack, fun _ hone => ?ftoi, fun hS hone => ?itof⟩
    case rint => exact byElementFp_fits rfl h rfl fun L j => fits_fRint hF (s.el_lt ty a L j) (s.roundWord_lt L j)
    case scale => exact byElementFp_fits rfl h rfl fun L j => fits_fScale (isS_of_isF hF) (s.el ty a L j) (n L)
    case cvt => exact byElementFp_fits rfl h rfl fun L j => fits_fConvert hS (Ty.elem ct) (s.el ct a L j)
    case pack => exact byElementFp_fits rfl h rfl fun L j => fits_fConvert hS .f32 (s.el tyF32 (if j = 0 then a else b) L 0)
    case unpack =>
      refine givesFp2_finish rfl h (fun _ => rfl) fun L _ => ?_
      have hf32 : isS .f32 := .inl (.inr (.inl rfl))
      obtain ⟨hlo, hloIs⟩ := fits_fConvert (fm := { exactMod with ftzi := z }) (u := 0) hf32 (Ty.elem pt) (s.el pt a L 0)
      obtain ⟨hhi, hhiIs⟩ := fits_fConvert (fm := { exactMod with ftzi := z }) (u := 0) hf32 (Ty.elem pt) (s.el pt a L 1)
      refine ⟨_, _, rfl, ?_, ?_⟩
      · rw [← toNat_ofNat_of_lt hlo (by decide)] at hloIs
        exact hloIs
      · rw [← toNat_ofNat_of_lt hhi (by decide)] at hhiIs
        exact hhiIs
    case ftoi => exact byElementFp_fits rfl h (by rw [hone]) fun L j => fits_fToInt (Ty.elem ft)
    case itof => exact byElementFp_fits rfl h (by rw [hone]) fun L j => fits_iToFloat hS (Ty.elem it) m.sat

end Sys2Proof.Machine
end

section
/-! The special inputs and the exact results of the transcendental instructions (06_float_formats.md R200, R201, R203). -/
namespace Sys2Proof.Machine
open Sys2Proof Sys2Proof.Safety

/-! ## The formats of these instructions -/

/-- The formats that the transcendental instructions have. -/
def isT (e : Elem) : Prop := e = .f32 ∨ e = .f16 ∨ e = .bf16

section Formats
variable {e : Elem} {fm : FMod}

theorem isS_of_isT (h : isT e) : isS e := by
  rcases h with rfl | rfl | rfl
  · exact .inl (.inr (.inl rfl))
  · exact .inl (.inr (.inr (.inl rfl)))
  · exact .inl (.inr (.inr (.inr rfl)))

theorem fOne_lt (h : isT e) : fOne e < 2 ^ (e.width - 1) := by rcases h with rfl | rfl | rfl <;> decide

theorem fits_one (h : isT e) {p : Prop} {n : Bool} (hn : p ↔ n = true) : Fits e (fun d fl => CodeIs e p (fOne e) d ∧ fl = 0) (oneOf e n) :=
  fits_code hn (fOne_lt h) 0

/-- The exponents of the formats, where they are small beside the significand. -/
theorem isT_exponents (h : isT e) : 1 ≤ fTopExp e ∧ (fBias e : Int) = fTopExp e + fMan e ∧ 1 ≤ fBias e ∧ fBias e ≤ 127 ∧ fSubExp e ≤ 0 ∧
    -(2 * 2 ^ fMan e : Int) < fSubExp e ∧ fFarExp e ≤ 2 * 2 ^ fMan e := by
  rcases h with rfl | rfl | rfl <;> decide

/-- A result of the element's width is what the lane's value holds. -/
theorem Fits.mod {P : Nat → Nat → Prop} {r : Nat × Nat} (h : Fits e P r) : P (r.1 % 2 ^ e.width) r.2 := (Nat.mod_eq_of_lt h.1).symm ▸ h.2

/-! ## Exact results -/

/-- A power of two within the normal range. -/
theorem fits_exactRes_pow (h : isT e) {n : Int} (hlow : 1 - (fBias e : Int) ≤ n) (hhigh : n ≤ fBias e) :
    Fits e (fun d fl => SignIs e False d ∧ ratOf (fDecode e d) = (2 : Rat) ^ n ∧ fl = 0) (exactRes e fm false 1 n) := by
  have hS := isS_of_isT h
  obtain ⟨-, hbias, -⟩ := isT_exponents h
  have hone : ((1 : Nat) : ℝ) * 2 ^ n = 2 ^ n := by rw [Nat.cast_one, one_mul]
  have hsub : fSubExp e ≤ n := by unfold fSubExp; omega
  have hsig : 1 < 2 * 2 ^ fMan e := by
    have := Nat.one_le_two_pow (n := fMan e)
    omega
  have htop : ((1 : Nat) : ℝ) * 2 ^ n ≤ (ratOf (fDecode e (fMaxCode e)) : ℝ) := by
    rw [hone, fMaxCode_value hS]
    calc (2 : ℝ) ^ n ≤ 2 ^ ((fMan e : Int) + fTopExp e) := zpow_two_le.mpr (by omega)
      _ = ((2 ^ fMan e : Nat) : ℝ) * 2 ^ fTopExp e := by rw [zpow_two_add, zpow_natCast]; norm_cast
      _ ≤ fTopSig e * 2 ^ fTopExp e := mul_le_mul_of_nonneg_right (Nat.cast_le.mpr (fTopSig_bounds e).1) (zpow_two_pos _).le
  obtain ⟨hsign, hval, hfl⟩ := fRound_exact (u := 0) (fm := { fm with rnd := .rne }) hS false one_ne_zero (fun _ => by decide) hsig hsub rfl htop
    fun _ => hone.symm ▸ zpow_two_le.mpr hlow
  rw [ratOf_pos, hone] at hval
  rw [exactRes, if_neg one_ne_zero]
  exact ⟨hsign.1, by simpa using hsign, Rat.cast_injective (α := ℝ) (by rw [hval, Rat.cast_zpow, Rat.cast_ofNat]), hfl⟩

/-- An integer of the significand's size. -/
theorem fits_exactRes_int (h : isT e) {n : Int} (hn : n.natAbs < 2 * 2 ^ fMan e) :
    Fits e (fun d fl => ratOf (fDecode e d) = n ∧ fl = 0) (exactRes e fm (decide (n < 0)) n.natAbs 0) := by
  have hS := isS_of_isT h
  obtain ⟨htopExp, -, hbias, -, hsub, -⟩ := isT_exponents h
  unfold exactRes
  by_cases h0 : n.natAbs = 0
  · obtain rfl := Int.natAbs_eq_zero.mp h0
    rw [if_pos h0, zeroOf]
    refine ⟨(fits_zero e Iff.rfl).1, ?_, rfl⟩
    rw [ratOf_zero_code hS, Int.cast_zero]
  · rw [if_neg h0]
    have hone : (n.natAbs : ℝ) * 2 ^ (0 : Int) = n.natAbs := by rw [zpow_zero, mul_one]
    have htop : (n.natAbs : ℝ) * 2 ^ (0 : Int) ≤ (ratOf (fDecode e (fMaxCode e)) : ℝ) := by
      rw [hone, fMaxCode_value hS]
      calc (n.natAbs : ℝ) ≤ ((2 * 2 ^ fMan e : Nat) : ℝ) := Nat.cast_le.mpr hn.le
        _ = ((2 ^ fMan e : Nat) : ℝ) * 2 ^ (1 : Int) := by push_cast; ring
        _ ≤ fTopSig e * 2 ^ fTopExp e :=
          mul_le_mul (Nat.cast_le.mpr (fTopSig_bounds e).1) (zpow_two_le.mpr htopExp) (zpow_two_pos _).le (Nat.cast_nonneg _)
    have hnormal : (2 : ℝ) ^ (1 - (fBias e : Int)) ≤ n.natAbs * 2 ^ (0 : Int) := by
      rw [hone]
      calc (2 : ℝ) ^ (1 - (fBias e : Int)) ≤ 2 ^ (0 : Int) := zpow_two_le.mpr (by omega)
        _ = 1 := zpow_zero _
        _ ≤ n.natAbs := Nat.one_le_cast.mpr (Nat.one_le_iff_ne_zero.mpr h0)
    obtain ⟨hsign, hval, hfl⟩ := fRound_exact (u := 0) (fm := { fm with rnd := .rne }) hS (decide (n < 0)) h0 (fun _ => by decide) hn hsub rfl htop
      fun _ => hnormal
    rw [ratOf_int, zpow_zero, mul_one] at hval
    exact ⟨hsign.1, by exact_mod_cast hval, hfl⟩

/-- The magnitude code is known by the value that it stands for. -/
theorem codeIs_of_value (h : isS e) {p : Prop} {d g : Nat} (hsign : SignIs e p d) (hval : |(ratOf (fDecode e d) : ℝ)| = fUnits e g * 2 ^ fSubExp e)
    (h0 : (fUnits e g : ℝ) * 2 ^ fSubExp e ≠ 0) : CodeIs e p g d := by
  refine ⟨hsign, ?_⟩
  cases hd : fDecode e d with
  | fin n m x =>
    obtain ⟨-, -, rfl, rfl⟩ := fDecode_fin h hd
    rw [hd, abs_ratOf, fSig_mul_zpow] at hval
    exact (fUnits_strictMono e).injective (Nat.cast_injective (R := ℝ) (mul_right_cancel₀ (zpow_two_pos _).ne' hval))
  | nan _ | inf _ =>
    have hzero : |(ratOf (fDecode e d) : ℝ)| = 0 := by simp [hd, ratOf]
    exact absurd (hval.symm.trans hzero) h0

theorem fOne_value {e : Elem} (h : 1 ≤ fBias e) : (fUnits e (fOne e) : ℝ) * 2 ^ fSubExp e = 1 := by
  obtain ⟨b, hb⟩ := Nat.exists_eq_add_of_le' h
  have hsub : fSubExp e = -(fMan e + b : Nat) := by
    unfold fSubExp
    omega
  have hunits := fUnits_normal (e := e) (r := 0) (t := b) (by positivity)
  rw [fOne, hb, ← Nat.add_zero ((b + 1) * 2 ^ fMan e), hunits, Nat.add_zero, ← pow_add, hsub, zpow_neg, zpow_natCast, Nat.cast_pow, Nat.cast_ofNat]
  exact mul_inv_cancel₀ (by positivity)

/-- The code of 1. -/
theorem fits_exactRes_one (h : isT e) : Fits e (fun d fl => CodeIs e False (fOne e) d ∧ fl = 0) (exactRes e fm false 1 0) := by
  obtain ⟨-, -, hbias, -⟩ := isT_exponents h
  refine (fits_exactRes_pow h (n := 0) (by omega) (by omega)).mono fun d fl ⟨hsign, hval, hfl⟩ => ⟨?_, hfl⟩
  refine codeIs_of_value (isS_of_isT h) hsign ?_ (by rw [fOne_value (by omega)]; exact one_ne_zero)
  rw [hval, fOne_value (by omega), zpow_zero, Rat.cast_one, abs_one]

end Formats

/-! ## Powers and logarithms of two (R200) -/

/-- NaN operands. -/
def NanIn (e : Elem) (p : FVal) (d fl : Nat) : Prop := ∀ sg, p = FVal.nan sg → NaNIs e (sg = true) d fl

/-- 2^p: what is said of it for special inputs and for integers. -/
def Exp2Is (e : Elem) (fm : FMod) (p : FVal) (d fl : Nat) : Prop := NanIn e p d fl ∧
  (p = .inf true → CodeIs e False 0 d ∧ fl = 0) ∧ (p = .inf false → InfIs e fm.sat False d ∧ fl = 0) ∧
  (p.isZero = true → CodeIs e False (fOne e) d ∧ fl = 0) ∧
  (∀ n : Int, ratOf p = n → p.isInf = false → p.isNaN = false → 1 - (fBias e : Int) ≤ n → n ≤ fBias e →
    d < 2 ^ e.width ∧ ratOf (fDecode e d) = (2 : Rat) ^ n ∧ fl = 0)

/-- The logarithm of p: what is said of it for special inputs and for powers of two. -/
def Log2Is (e : Elem) (fm : FMod) (p : FVal) (d fl : Nat) : Prop := NanIn e p d fl ∧
  (p = .inf true → NaNIs e True d fl) ∧ (p = .inf false → InfIs e fm.sat False d ∧ fl = 0) ∧
  (p.isZero = true → InfIs e fm.sat True d ∧ fl = flDZ) ∧ (∀ k y, p = .fin true k y → k ≠ 0 → NaNIs e True d fl) ∧
  (∀ n : Int, ratOf p = (2 : Rat) ^ n → ratOf (fDecode e d) = n ∧ fl = 0)

section Powers
variable {e : Elem} {fm : FMod} {n : Bool} {m : Nat} {x t : Int}

theorem nanIn_nan (h : isS e) (sg : Bool) : NanIn e (.nan sg) ((nanOf e (nvIf sg)).1 % 2 ^ e.width) (nanOf e (nvIf sg)).2 := by
  intro sg' hs
  cases hs
  exact (fits_nan h Iff.rfl).mod

/-- A value that is an integer has no fraction below 1. -/
theorem unitsOf_int (hval : ratOf (.fin n m x) = t) : (unitsOf m x 0).2.1 = 0 ∧ (if n then -((unitsOf m x 0).1 : Int) else (unitsOf m x 0).1) = t := by
  obtain ⟨k, rem, d, hu⟩ : ∃ k rem d, unitsOf m x 0 = (k, rem, d) := ⟨_, _, _, rfl⟩
  obtain ⟨hlt, hunits⟩ := unitsOf_spec m x 0 hu
  have hreal : (ratOf (.fin n m x) : ℝ) = t := by rw [hval, Rat.cast_intCast]
  have habs : (k : ℝ) + rem / d = (t.natAbs : Nat) := by
    rw [zpow_zero, mul_one] at hunits
    rw [← hunits, ← abs_ratOf n, hreal, Nat.cast_natAbs, Int.cast_abs]
  obtain ⟨hf, hk⟩ := eq_zero_of_add_eq (fraction_bounds hlt).1 (fraction_bounds hlt).2 habs
  rw [hu]
  refine ⟨(fraction_eq_zero hlt).mp hf, ?_⟩
  dsimp only
  by_cases hm : m = 0
  · have ht : t = 0 := by
      rw [hm, ratOf_fin, Nat.cast_zero, mul_zero, zero_mul] at hval
      exact_mod_cast hval.symm
    rw [hk, ht]
    cases n <;> rfl
  · have hneg := ratOf_neg_iff hm n x
    rw [hreal, Int.cast_lt_zero] at hneg
    cases n <;> simp at hneg ⊢ <;> omega

theorem exp2Is_fExp2 (h : isT e) (a : Nat) : Exp2Is e fm (srcOf e fm.ftzi a) ((fExp2 e fm a).1 % 2 ^ e.width) (fExp2 e fm a).2 := by
  have hS := isS_of_isT h
  obtain ⟨-, -, -, hbias, -⟩ := isT_exponents h
  unfold fExp2 srcOf
  dsimp only
  generalize fDecode e (fFtz e fm.ftzi a) = p
  cases p with
  | nan sg => exact ⟨nanIn_nan hS sg, nofun, nofun, nofun, fun _ _ _ hnan => nomatch hnan⟩
  | inf n =>
    cases n with
    | true => exact ⟨nofun, fun _ => (fits_zero e (by simp)).mod, nofun, nofun, fun _ _ hinf => nomatch hinf⟩
    | false => exact ⟨nofun, nofun, fun _ => (fits_inf hS (by simp) fm.sat 0).mod, nofun, fun _ _ hinf => nomatch hinf⟩
  | fin n m x =>
    refine ⟨nofun, nofun, nofun, fun hz => ?_, fun t ht _ _ hlow hhigh => ?_⟩
    · obtain rfl : m = 0 := beq_iff_eq.mp hz
      obtain ⟨hrem, hint⟩ := unitsOf_int (n := n) (m := 0) (x := x) (t := 0) (by rw [ratOf_fin]; simp)
      dsimp only
      rw [hint, if_pos hrem]
      exact (fits_exactRes_one h).mod
    · obtain ⟨hrem, hint⟩ := unitsOf_int ht
      have hclamp : clampExp t = t := by rcases clampExp_cases t with hc | hc | hc <;> omega
      dsimp only
      rw [hint, if_pos hrem, hclamp]
      exact ⟨Nat.mod_lt _ (by positivity), (fits_exactRes_pow h hlow hhigh).mod.2⟩

/-- A power of two has a single bit. -/
theorem ratOf_eq_zpow (hval : ratOf (.fin n m x) = (2 : ℚ) ^ t) : n = false ∧ m ≠ 0 ∧ m = 2 ^ Nat.log2 m ∧ (Nat.log2 m : Int) + x = t := by
  have hpos : (0 : ℚ) < 2 ^ t := by positivity
  have hm : m ≠ 0 := by
    rintro rfl
    rw [← hval, ratOf_fin, Nat.cast_zero, mul_zero, zero_mul] at hpos
    exact hpos.false
  have hreal : (ratOf (.fin n m x) : ℝ) = 2 ^ t := by rw [hval, Rat.cast_zpow, Rat.cast_ofNat]
  have hn : n = false := by
    rw [Bool.eq_false_iff, Ne, ← ratOf_neg_iff hm n x, hreal, not_lt]
    exact (zpow_two_pos t).le
  subst hn
  rw [ratOf_pos] at hreal
  obtain ⟨hlow, hhigh⟩ := log2_binade hm x
  rw [hreal] at hlow hhigh
  have hexp : (Nat.log2 m : Int) + x = t := by
    have h1 := zpow_two_le.mp hlow
    have h2 := zpow_two_lt.mp hhigh
    omega
  refine ⟨rfl, hm, ?_, hexp⟩
  rw [← hexp, zpow_two_add, zpow_natCast] at hreal
  exact_mod_cast mul_right_cancel₀ (zpow_two_pos x).ne' hreal

theorem log2Is_fLog2 (h : isT e) (a : Nat) : Log2Is e fm (srcOf e fm.ftzi a) ((fLog2 e fm a).1 % 2 ^ e.width) (fLog2 e fm a).2 := by
  have hS := isS_of_isT h
  obtain ⟨-, -, -, -, -, hsub, hfar⟩ := isT_exponents h
  have hsrc : ∀ n m x, srcOf e fm.ftzi a = .fin n m x → ∃ g, g ≤ fMaxCode e ∧ m = fSig e g ∧ x = fExp e g := fun n m x => srcOf_fin hS
  have hnone : ∀ t : Int, (0 : ℚ) ≠ 2 ^ t := fun t => (by positivity : (0 : ℚ) < 2 ^ t).ne
  unfold fLog2 srcOf at *
  dsimp only
  generalize fDecode e (fFtz e fm.ftzi a) = p at hsrc
  cases p with
  | nan sg => exact ⟨nanIn_nan hS sg, nofun, nofun, nofun, nofun, fun t ht => absurd ht (hnone t)⟩
  | inf n =>
    cases n with
    | true => exact ⟨nofun, fun _ => (fits_nan_invalid hS).mod, nofun, nofun, nofun, fun t ht => absurd ht (hnone t)⟩
    | false => exact ⟨nofun, nofun, fun _ => (fits_inf hS (by simp) fm.sat 0).mod, nofun, nofun, fun t ht => absurd ht (hnone t)⟩
  | fin n m x =>
    dsimp only
    refine ⟨nofun, nofun, nofun, fun hz => ?_, fun k y hneg hk => ?_, fun t ht => ?_⟩
    · rw [if_pos (beq_iff_eq.mp hz)]
      exact (fits_inf hS (by simp) fm.sat flDZ).mod
    · cases hneg
      rw [if_neg hk, if_pos rfl]
      exact (fits_nan_invalid hS).mod
    · obtain ⟨rfl, hm, hbit, hexp⟩ := ratOf_eq_zpow ht
      obtain ⟨g, hg, rfl, rfl⟩ := hsrc _ _ _ rfl
      obtain ⟨hlow, hhigh⟩ := magnitude_bounds hS (fSig_eq_zero.not.mp hm) hg
      obtain ⟨hlow', hhigh'⟩ := log2_binade hm (fExp e g)
      have h1 := zpow_two_lt.mp (hlow.trans_lt hhigh')
      have h2 := zpow_two_lt.mp (hlow'.trans_lt hhigh)
      rw [if_neg hm, if_neg Bool.false_ne_true, if_pos hbit, hexp]
      exact (fits_exactRes_int h (by zify; rw [abs_lt]; omega)).mod

end Powers

/-! ## Angles and their kin (R200) -/

/-- The sine, the cosine, the hyperbolic tangent and the sigmoid of p: what is said of them for special inputs. -/
def SinIs (e : Elem) (p : FVal) (d fl : Nat) : Prop := NanIn e p d fl ∧ (p.isInf = true → NaNIs e True d fl) ∧
  (p.isZero = true → CodeIs e (p.neg = true) 0 d ∧ fl = 0)

def CosIs (e : Elem) (p : FVal) (d fl : Nat) : Prop := NanIn e p d fl ∧ (p.isInf = true → NaNIs e True d fl) ∧
  (p.isZero = true → CodeIs e False (fOne e) d ∧ fl = 0)

def TanhIs (e : Elem) (p : FVal) (d fl : Nat) : Prop := NanIn e p d fl ∧ (∀ neg, p = .inf neg → CodeIs e (neg = true) (fOne e) d ∧ fl = 0) ∧
  (p.isZero = true → CodeIs e (p.neg = true) 0 d ∧ fl = 0)

def SigmIs (e : Elem) (p : FVal) (d fl : Nat) : Prop := NanIn e p d fl ∧ (p = .inf true → CodeIs e False 0 d ∧ fl = 0) ∧
  (p = .inf false → CodeIs e False (fOne e) d ∧ fl = 0) ∧ (p.isZero = true → CodeIs e False (fOne e - 2 ^ fMan e) d ∧ fl = 0)

section Angles
variable {e : Elem} {fm : FMod}

theorem sinIs_fSin (h : isT e) (a : Nat) : SinIs e (srcOf e fm.ftzi a) ((fSin e fm a).1 % 2 ^ e.width) (fSin e fm a).2 := by
  have hS := isS_of_isT h
  unfold fSin srcOf
  dsimp only
  generalize fDecode e (fFtz e fm.ftzi a) = p
  cases p with
  | nan sg => exact ⟨nanIn_nan hS sg, nofun, nofun⟩
  | inf n => exact ⟨nofun, fun _ => (fits_nan_invalid hS).mod, nofun⟩
  | fin n m x =>
    refine ⟨nofun, nofun, fun hz => ?_⟩
    obtain rfl : m = 0 := beq_iff_eq.mp hz
    exact (fits_zero e Iff.rfl).mod

theorem cosIs_fCos (h : isT e) (a : Nat) : CosIs e (srcOf e fm.ftzi a) ((fCos e fm a).1 % 2 ^ e.width) (fCos e fm a).2 := by
  have hS := isS_of_isT h
  unfold fCos srcOf
  dsimp only
  generalize fDecode e (fFtz e fm.ftzi a) = p
  cases p with
  | nan sg => exact ⟨nanIn_nan hS sg, nofun, nofun⟩
  | inf n => exact ⟨nofun, fun _ => (fits_nan_invalid hS).mod, nofun⟩
  | fin n m x =>
    refine ⟨nofun, nofun, fun hz => ?_⟩
    obtain rfl : m = 0 := beq_iff_eq.mp hz
    exact (fits_one h (by simp)).mod

theorem tanhIs_fTanh (h : isT e) (a : Nat) : TanhIs e (srcOf e fm.ftzi a) ((fTanh e fm a).1 % 2 ^ e.width) (fTanh e fm a).2 := by
  have hS := isS_of_isT h
  unfold fTanh srcOf
  dsimp only
  generalize fDecode e (fFtz e fm.ftzi a) = p
  cases p with
  | nan sg => exact ⟨nanIn_nan hS sg, nofun, nofun⟩
  | inf n =>
    refine ⟨nofun, fun n' hn => ?_, nofun⟩
    cases hn
    exact (fits_one h Iff.rfl).mod
  | fin n m x =>
    refine ⟨nofun, nofun, fun hz => ?_⟩
    obtain rfl : m = 0 := beq_iff_eq.mp hz
    exact (fits_zero e Iff.rfl).mod

theorem sigmIs_fSigm (h : isT e) (a : Nat) : SigmIs e (srcOf e fm.ftzi a) ((fSigm e fm a).1 % 2 ^ e.width) (fSigm e fm a).2 := by
  have hS := isS_of_isT h
  unfold fSigm srcOf
  dsimp only
  generalize fDecode e (fFtz e fm.ftzi a) = p
  cases p with
  | nan sg => exact ⟨nanIn_nan hS sg, nofun, nofun, nofun⟩
  | inf n =>
    cases n with
    | true => exact ⟨nofun, fun _ => (fits_zero e (by simp)).mod, nofun, nofun⟩
    | false => exact ⟨nofun, nofun, fun _ => (fits_one h (by simp)).mod, nofun⟩
  | fin n m x =>
    refine ⟨nofun, nofun, nofun, fun hz => ?_⟩
    obtain rfl : m = 0 := beq_iff_eq.mp hz
    have hhalf := fits_code (e := e) (p := False) (n := false) (by simp) ((Nat.sub_le (fOne e) (2 ^ fMan e)).trans_lt (fOne_lt h)) 0
    rw [show fSign e false = 0 from rfl, Nat.zero_add] at hhalf
    exact hhalf.mod

end Angles

/-! ## The instructions together -/

/-- Settles O11: the special inputs are branches of each element function, and the powers of two are rounded to themselves. -/
theorem transcendentals : Obligations.Transcendentals := by
  intro s ty m a h hT e x one nan
  refine ⟨?exp2, ?log2, ?sin, ?cos, ?sincos, ?tanh, ?sigm⟩
  case exp2 => exact byElementFp_putFp rfl h rfl fun L j => exp2Is_fExp2 hT (s.el ty a L j)
  case log2 => exact byElementFp_putFp rfl h rfl fun L j => log2Is_fLog2 hT (s.el ty a L j)
  case sin => exact byElementFp_putFp rfl h rfl fun L j => sinIs_fSin hT (s.el ty a L j)
  case cos => exact byElementFp_putFp rfl h rfl fun L j => cosIs_fCos hT (s.el ty a L j)
  case tanh => exact byElementFp_putFp rfl h rfl fun L j => tanhIs_fTanh hT (s.el ty a L j)
  case sigm => exact byElementFp_putFp rfl h rfl fun L j => sigmIs_fSigm hT (s.el ty a L j)
  case sincos =>
    refine givesFp2_finish rfl h (fun _ => rfl) fun L hL => ⟨_, _, rfl, rfl, ?_, ?_⟩
    · rw [State.putFp_result h hL]
      rfl
    · rw [State.putFp_result h hL]
      rfl

end Sys2Proof.Machine
end

section
/-! Block quantisation and dequantisation, and the flags read and cleared (06_float_formats.md R208-R210). -/
namespace Sys2Proof.Machine
open Sys2Proof Sys2Proof.Safety

/-! ## The scale of a block (R208) -/

/-- The greatest of some magnitudes: none passes it, and it is one of them. -/
theorem foldl_max_spec {α : Type*} (f : α → Nat) (l : List α) (b : Nat) :
    b ≤ l.foldl (fun b c => max b (f c)) b ∧ (∀ c ∈ l, f c ≤ l.foldl (fun b c => max b (f c)) b) ∧
      (l.foldl (fun b c => max b (f c)) b = b ∨ ∃ c ∈ l, l.foldl (fun b c => max b (f c)) b = f c) := by
  induction l generalizing b with
  | nil => exact ⟨le_rfl, nofun, .inl rfl⟩
  | cons c l ih =>
    obtain ⟨hb, hl, hone⟩ := ih (max b (f c))
    refine ⟨(le_max_left ..).trans hb, fun c' hc' => ?_, ?_⟩
    · rcases List.mem_cons.mp hc' with rfl | hc'
      · exact (le_max_right ..).trans hb
      · exact hl c' hc'
    · rcases hone with heq | ⟨c', hc', heq⟩
      · rcases max_choice b (f c) with hmax | hmax
        · exact .inl (heq.trans hmax)
        · exact .inr ⟨c, List.mem_cons_self, heq.trans hmax⟩
      · exact .inr ⟨c', List.mem_cons_of_mem _ hc', heq⟩

section Scale
variable {e : Elem} {codes : List Nat}

/-- The magnitude of a finite code. -/
theorem abs_ratOf_code (h : isS e) {c : Nat} (hc : fMag e c ≤ fMaxCode e) : |(ratOf (fDecode e c) : ℝ)| = fUnits e (fMag e c) * 2 ^ fSubExp e := by
  rw [fDecode_of_le h hc, abs_ratOf, fSig_mul_zpow]

/-- The scale exponent covers the magnitudes of the block, and one of them needs it. -/
theorem mxScaleExp_spec (h : isS e) (hfin : ∀ c ∈ codes, fMag e c ≤ fMaxCode e) :
    -127 ≤ mxScaleExp e codes ∧ mxScaleExp e codes ≤ 127 ∧
      (mxScaleExp e codes < 127 → ∀ c ∈ codes, |(ratOf (fDecode e c) : ℝ)| < 2 ^ (mxScaleExp e codes + 1)) ∧
      (mxScaleExp e codes ≠ -127 → ∃ c ∈ codes, (2 : ℝ) ^ mxScaleExp e codes ≤ |(ratOf (fDecode e c) : ℝ)|) := by
  obtain ⟨-, hmax, hattained⟩ := foldl_max_spec (fMag e) codes 0
  unfold mxScaleExp
  dsimp only
  generalize codes.foldl (fun b c => max b (fMag e c)) 0 = top at *
  have htop : top ≤ fMaxCode e := by
    rcases hattained with rfl | ⟨c, hc, rfl⟩
    · exact Nat.zero_le _
    · exact hfin c hc
  have hmag : fMag e top = top := Nat.mod_eq_of_lt (htop.trans_lt (fMaxCode_lt h))
  have hunits : (fSig e top : ℝ) * 2 ^ fExp e top = fUnits e top * 2 ^ fSubExp e := fSig_mul_zpow e top
  rw [fDecode_of_le h (hmag.le.trans htop), hmag]
  dsimp only
  have hle : ∀ c ∈ codes, |(ratOf (fDecode e c) : ℝ)| ≤ fSig e top * 2 ^ fExp e top := fun c hc => by
    rw [abs_ratOf_code h (hfin c hc), hunits]
    exact mul_le_mul_of_nonneg_right (Nat.cast_le.mpr ((fUnits_strictMono e).monotone (hmax c hc))) (zpow_two_pos _).le
  by_cases h0 : fSig e top = 0
  · rw [if_pos h0]
    refine ⟨le_rfl, by norm_num, fun _ c hc => (hle c hc).trans_lt ?_, fun hne => absurd rfl hne⟩
    rw [h0, Nat.cast_zero, zero_mul]
    exact zpow_two_pos _
  · obtain ⟨hlow, hhigh⟩ := log2_binade h0 (fExp e top)
    rw [if_neg h0]
    refine ⟨by omega, by omega, fun hlt c hc => (hle c hc).trans_lt (hhigh.trans_le (zpow_two_le.mpr (by omega))), fun hne => ?_⟩
    obtain ⟨c, hc, rfl⟩ := hattained.resolve_left (fSig_eq_zero.not.mp h0)
    refine ⟨c, hc, ?_⟩
    rw [abs_ratOf_code h (hfin c hc), ← hunits]
    exact (zpow_two_le.mpr (by omega)).trans hlow

end Scale

/-! ## An element of a block (R208) -/

theorem toS_wrapI {w : Nat} (hw : 1 ≤ w) {v : Int} (hlow : -(2 ^ (w - 1) : Int) ≤ v) (hhigh : v < 2 ^ (w - 1)) : toS w (wrapI w v) = v := by
  obtain ⟨b, rfl⟩ := Nat.exists_eq_add_of_le' hw
  rw [Nat.add_sub_cancel] at hlow hhigh
  have hcast := wrapI_cast (b + 1) v
  have hpow : (2 : Int) ^ (b + 1) = 2 * 2 ^ b := pow_succ' 2 b
  have hsplit : v % 2 ^ (b + 1) = if v < 0 then v + 2 ^ (b + 1) else v := by
    split
    · rw [← Int.add_emod_right, Int.emod_eq_of_lt] <;> omega
    · exact Int.emod_eq_of_lt (by omega) (by omega)
  have hhalf : 2 ^ b ≤ wrapI (b + 1) v ↔ v < 0 := by
    zify
    rw [hcast, hsplit]
    split <;> omega
  unfold toS
  rw [Nat.add_sub_cancel, hcast, hsplit]
  simp only [hhalf]
  split <;> omega

theorem mxWidth_bounds (ty : Ty) : 4 ≤ mxWidth ty ∧ mxWidth ty ≤ 8 := by
  unfold mxWidth
  split <;> decide

/-- An element of a block: the value in units of the scale, held within the element. -/
def QuantIs (w : Nat) (r : Rnd) (u : Nat) (ex : Int) (p : FVal) (d fl : Nat) : Prop :=
  ∃ (y : Nat) (f : ℝ), RoundedTo r u (ratOf p * (2 : Rat) ^ ((w : Int) - 2 - ex) : Rat) 0 y f ∧
    let c := min y (2 ^ (w - 1) - 1)
    d < 2 ^ w ∧ toS w d = (if ratOf p < 0 then -(c : Int) else c) ∧ (f = 0 ∧ c = y → fl = 0) ∧ (¬(f = 0 ∧ c = y) → fl = flNX)

theorem roundInt_zero {r : Rnd} {u : Nat} (hu : r = .rsto → u < 2 ^ 32) (n : Bool) (x : Int) : (roundInt r u n 0 x).1 = 0 := by
  obtain ⟨f, ⟨k, hk, hf0, hf1, -, hdown⟩, -⟩ := roundInt_roundedTo r u n 0 x
  have hwhole : (k : ℝ) + f = (0 : Nat) := by rw [abs_ratOf, zpow_zero, mul_one, Nat.cast_zero, zero_mul] at hk; rw [← hk, Nat.cast_zero]
  obtain ⟨rfl, rfl⟩ := eq_zero_of_add_eq hf0 hf1 hwhole
  exact hdown (not_roundsUp_zero hu)

/-- The sign of an integer result is that of the value. -/
theorem signed_eq {n : Bool} {m k : Nat} {x : Int} (hk : m = 0 → k = 0) :
    (if n then -(k : Int) else k) = if ratOf (.fin n m x) < 0 then -(k : Int) else k := by
  by_cases hm : m = 0
  · rw [hk hm]
    simp
  · have hneg := ratOf_neg_iff hm n x
    rw [Rat.cast_lt_zero] at hneg
    simp only [hneg]

theorem quantIs_mxQuant {e : Elem} {r : Rnd} {u w c : Nat} {ex : Int} {n : Bool} {m : Nat} {x : Int} (hu : u < 2 ^ 32) (hw : 1 ≤ w)
    (hd : fDecode e c = .fin n m x) : QuantIs w r u ex (fDecode e c) (mxQuant w e r u ex c).1 (mxQuant w e r u ex c).2 := by
  obtain ⟨f, hround, hb⟩ := roundInt_roundedTo r u n m (x + ((w : Int) - 2 - ex))
  have hzero : m = 0 → min ((roundInt r u n m (x + ((w : Int) - 2 - ex))).1) (2 ^ (w - 1) - 1) = 0 := by
    rintro rfl
    rw [roundInt_zero fun _ => hu, Nat.zero_min]
  unfold mxQuant
  rw [hd]
  dsimp only
  rw [min_comm]
  generalize roundInt r u n m (x + ((w : Int) - 2 - ex)) = t at *
  rw [signed_eq (x := x) hzero]
  refine ⟨t.1, f, ratOf_scaled n m x _ ▸ hround, wrapI_lt .., toS_wrapI hw ?_ ?_, fun hsame => if_neg ?_, fun hdiff => if_pos ?_⟩
  · have hpow : ((2 ^ (w - 1) : Nat) : Int) = 2 ^ (w - 1) := by push_cast; rfl
    have := Nat.one_le_two_pow (n := w - 1)
    split <;> omega
  · have hpow : ((2 ^ (w - 1) : Nat) : Int) = 2 ^ (w - 1) := by push_cast; rfl
    have := Nat.one_le_two_pow (n := w - 1)
    split <;> omega
  · rw [hb, not_or, not_not, not_not]
    exact hsame
  · rw [hb]
    tauto

/-! ## Dequantisation (R209) -/

/-- An element of a block with its scale, as a value of the format. -/
def DequantIs (e : Elem) (fm : FMod) (u w q sc d fl : Nat) : Prop :=
  (sc = 0xFF → d = fNaN e ∧ fl = 0) ∧ (sc ≠ 0xFF → (if 2 ^ (w - 1) ≤ q then (q : Int) - 2 ^ w else q) = 0 → d = 0 ∧ fl = 0) ∧
  (sc ≠ 0xFF → (if 2 ^ (w - 1) ≤ q then (q : Int) - 2 ^ w else q) ≠ 0 →
    RoundIs e fm u (((if 2 ^ (w - 1) ≤ q then (q : Int) - 2 ^ w else q : Int) : Rat) * (2 : Rat) ^ ((sc : Int) - 127 - ((w : Int) - 2)) : Rat) d fl)

theorem fits_mxDequant {e : Elem} {fm : FMod} {u w : Nat} (h : isS e) (q sc : Nat) :
    Fits e (DequantIs e fm u w (q % 2 ^ w) sc) (mxDequant w e fm u q sc) := by
  unfold mxDequant DequantIs
  rw [← toS]
  dsimp only
  generalize toS w (q % 2 ^ w) = v
  by_cases hnan : sc = 0xFF
  · rw [if_pos hnan]
    exact ⟨fNaN_lt h, fun _ => ⟨rfl, rfl⟩, fun hne => absurd hnan hne, fun hne => absurd hnan hne⟩
  · rw [if_neg hnan]
    by_cases h0 : v = 0
    · rw [if_pos h0]
      exact (fits_code_zero e).mono fun _ _ hz => ⟨fun hs => absurd hs hnan, fun _ _ => hz, fun _ hne => absurd h0 hne⟩
    · rw [if_neg h0]
      exact (fits_fRound_int h h0 _ rfl).mono fun d fl hr => ⟨fun hs => absurd hs hnan, fun _ hz => absurd hz h0, fun _ _ => hr⟩

/-! ## The block of the lanes that issue (R208) -/

theorem isS_of_mxSrc {e : Elem} (h : e = .f32 ∨ e = .bf16) : isS e := by
  rcases h with rfl | rfl
  · exact .inl (.inr (.inl rfl))
  · exact .inl (.inr (.inr (.inr rfl)))

/-- A value that is neither a NaN nor an infinity is finite. -/
theorem fVal_fin {p : FVal} (hnan : ¬p.isNaN = true) (hinf : ¬p.isInf = true) : ∃ n m x, p = .fin n m x := by
  cases p with
  | nan sg => exact absurd rfl hnan
  | inf n => exact absurd rfl hinf
  | fin n m x => exact ⟨n, m, x, rfl⟩

section Quantise
variable {s : State} {ty st : Ty} {rnd : Rnd} {z : Bool} {x : Opnd}

/-- The scale exponent of the block that the issuing lanes are. -/
def State.blockExp (s : State) (st : Ty) (z : Bool) (x : Opnd) : Int :=
  mxScaleExp (Ty.elem st) (s.activeLanes.map fun L => fFtz (Ty.elem st) z (s.el st x L 0))

/-- Some issuing lane holds a NaN or an infinity. -/
def State.blockBad (s : State) (st : Ty) (z : Bool) (x : Opnd) : Prop :=
  ∃ L, On s L ∧ ((srcOf (Ty.elem st) z (s.el st x L 0)).isNaN = true ∨ (srcOf (Ty.elem st) z (s.el st x L 0)).isInf = true)

theorem any_iff_blockBad : (s.activeLanes.any fun L => (fDecode (Ty.elem st) (fFtz (Ty.elem st) z (s.el st x L 0))).isNaN ||
    (fDecode (Ty.elem st) (fFtz (Ty.elem st) z (s.el st x L 0))).isInf) = true ↔ s.blockBad st z x := by
  simp only [List.any_eq_true, mem_activeLanes, Bool.or_eq_true]
  exact Iff.rfl

theorem exec_mxq_bad (hst : s.opndTy mxSrcTys x = st) (hbad : s.blockBad st z x) :
    exec (.mxq ty rnd z x) s = .next (s.finishFp (wordsUsed rnd 1) fun _ => ([0, 0xFF], flNV)) := by
  show execMxq ty rnd z x s = _
  unfold execMxq
  simp only [hst, any_iff_blockBad.mpr hbad, if_true]

theorem exec_mxq_good (hst : s.opndTy mxSrcTys x = st) (hgood : ¬s.blockBad st z x) :
    exec (.mxq ty rnd z x) s = .next (s.finishFp (wordsUsed rnd 1) fun L =>
      let q := mxQuant (mxWidth ty) (Ty.elem st) rnd (s.roundWord L 0) (s.blockExp st z x) (fFtz (Ty.elem st) z (s.el st x L 0))
      ([BitVec.ofNat 256 q.1, BitVec.ofNat 256 (s.blockExp st z x + 127).toNat], q.2)) := by
  show execMxq ty rnd z x s = _
  unfold execMxq
  simp only [hst, any_iff_blockBad.not.mpr hgood, if_false, Bool.false_eq_true]
  rfl

/-- In a block without NaN and infinity each lane's value is finite. -/
theorem block_fin (hgood : ¬s.blockBad st z x) {L : Nat} (hL : On s L) : ∃ n m y, srcOf (Ty.elem st) z (s.el st x L 0) = .fin n m y :=
  fVal_fin (fun hn => hgood ⟨L, hL, .inl hn⟩) fun hi => hgood ⟨L, hL, .inr hi⟩

theorem abs_lt_zpow_cast {a : ℚ} {n : Int} (h : |(a : ℝ)| < 2 ^ n) : |a| < (2 : ℚ) ^ n := by
  rw [← Rat.cast_lt (K := ℝ), Rat.cast_abs, Rat.cast_zpow, Rat.cast_ofNat]
  exact h

theorem zpow_le_abs_cast {a : ℚ} {n : Int} (h : (2 : ℝ) ^ n ≤ |(a : ℝ)|) : (2 : ℚ) ^ n ≤ |a| := by
  rw [← Rat.cast_le (K := ℝ), Rat.cast_abs, Rat.cast_zpow, Rat.cast_ofNat]
  exact h

/-- The scale exponent of the block, by the values of its lanes. -/
theorem blockExp_spec (h : isS (Ty.elem st)) (hgood : ¬s.blockBad st z x) : -127 ≤ s.blockExp st z x ∧ s.blockExp st z x ≤ 127 ∧
    (∀ M, On s M → s.blockExp st z x < 127 → |ratOf (srcOf (Ty.elem st) z (s.el st x M 0))| < (2 : ℚ) ^ (s.blockExp st z x + 1)) ∧
    (s.blockExp st z x ≠ -127 → ∃ M, On s M ∧ (2 : ℚ) ^ s.blockExp st z x ≤ |ratOf (srcOf (Ty.elem st) z (s.el st x M 0))|) := by
  have hfin : ∀ c ∈ s.activeLanes.map fun L => fFtz (Ty.elem st) z (s.el st x L 0), fMag (Ty.elem st) c ≤ fMaxCode (Ty.elem st) := by
    intro c hc
    obtain ⟨L, hL, rfl⟩ := List.mem_map.mp hc
    obtain ⟨n, m, y, hd⟩ := block_fin hgood (mem_activeLanes.mp hL)
    exact (fDecode_fin h hd).1
  obtain ⟨hlow, hhigh, hall, hsome⟩ := mxScaleExp_spec h hfin
  refine ⟨hlow, hhigh, fun M hM hlt => abs_lt_zpow_cast (hall hlt _ (List.mem_map_of_mem (mem_activeLanes.mpr hM))), fun hne => ?_⟩
  obtain ⟨c, hc, hle⟩ := hsome hne
  obtain ⟨M, hM, rfl⟩ := List.mem_map.mp hc
  exact ⟨M, mem_activeLanes.mp hM, zpow_le_abs_cast hle⟩

end Quantise

/-! ## The flags (R210) -/

section Flags
variable {w : Wave} {c m k : Nat}

theorem Wave.clearFlags_fpf (hk : k < 5) : (w.clearFlags c m).fpf.getLsbD k = true ↔
    (w.fpf.getLsbD k = true ∧ ¬m.testBit k = true) ∨ (w.fpAt = c ∧ w.fpNew.getLsbD k = true) := by
  unfold Wave.clearFlags
  rw [BitVec.getLsbD_or, BitVec.getLsbD_and, BitVec.getLsbD_not, flagBits_getLsbD hk]
  by_cases hat : w.fpAt = c <;> simp [hat, hk]

theorem testBit_masks {s : State} {mask : Opnd} (hk : k < 5) : ¬(orAll (s.activeLanes.map fun L => (s.opnd tyN32 mask L).toNat % 32)).testBit k = true ↔
    ∀ L, On s L → (s.opnd tyN32 mask L).toNat.testBit k = false := by
  rw [testBit_orAll_lanes]
  push Not
  refine forall₂_congr fun L _ => ?_
  rw [show (32 : Nat) = 2 ^ 5 from rfl, Nat.testBit_mod_two_pow, decide_eq_true hk, Bool.true_and, ne_eq, Bool.not_eq_true]

theorem exec_fsflag (mask : Opnd) (s : State) : exec (.fsflag mask) s = .next ((s.finish fun _ => [s.wv.fpf.setWidth 256]).updWv fun w =>
    w.clearFlags s.cycle (orAll (s.activeLanes.map fun L => (s.opnd tyN32 mask L).toNat % 32))) := rfl

end Flags

/-! ## The instructions together -/

/-- Settles O12: the scale covers the block, each element is rounded once, and of the flags those that no mask names stay. -/
theorem blocksAndFlags : Obligations.BlocksAndFlags := by
  intro s ty rnd sat z x e sc mask h st v w bad wq q k val
  refine ⟨fun hst => ?quantise, fun fe hty hfe => ?dequantise, ?flags⟩
  case quantise =>
    have hS := isS_of_mxSrc hst
    by_cases hbad : bad
    · exact givesFp2_finish (exec_mxq_bad rfl hbad) h (fun _ => rfl) fun L _ => ⟨fun _ => ⟨rfl, rfl, rfl⟩, fun hn => absurd hbad hn⟩
    · obtain ⟨hlow, hhigh, hall, hsome⟩ := blockExp_spec hS hbad
      refine givesFp2_finish (exec_mxq_good rfl hbad) h (fun _ => rfl) fun L hL => ⟨fun hb => absurd hb hbad, fun _ => ?_⟩
      obtain ⟨n, m, y, hd⟩ := block_fin hbad hL
      have hwidth := mxWidth_bounds ty
      have hquant := quantIs_mxQuant (ex := s.blockExp st z x) (r := rnd) (s.roundWord_lt L 0) (show 1 ≤ w by omega) hd
      have hlt : (mxQuant w (Ty.elem st) rnd (s.roundWord L 0) (s.blockExp st z x) (fFtz (Ty.elem st) z (s.el st x L 0))).1 < 2 ^ w := by
        obtain ⟨-, -, -, hlt, -⟩ := hquant
        exact hlt
      rw [← toNat_ofNat_of_lt hlt (by omega)] at hquant
      refine ⟨s.blockExp st z x, hlow, hhigh, ?_, hall, hsome, hquant⟩
      show ((BitVec.ofNat 256 (s.blockExp st z x + 127).toNat).toNat : Int) = _
      rw [toNat_ofNat_of_lt (w := 8) (by omega) (by decide)]
      omega
  case dequantise =>
    subst hty
    exact byElementFp_fits rfl h rfl fun L j => fits_mxDequant (isS_of_mxSrc hfe) _ _
  case flags =>
    obtain ⟨hfpf, hat, hnew⟩ := State.finish_fpf s (fun _ => [s.wv.fpf.setWidth 256]) h.1
    refine ⟨_, exec_fsflag mask s, State.finish_updWv_only h (fun _ _ => le_rfl) (fun _ => rfl) (fun _ _ _ => rfl) (fun _ _ _ => rfl), fun L hL => ?_,
      fun j hj => ?_⟩
    · rw [State.finish_updWv_result h ?lanes hL ?one]
      case lanes => exact fun _ _ _ => rfl
      case one => exact Nat.one_pos
      exact BitVec.toNat_setWidth_of_le (show 5 ≤ 256 by decide)
    · rw [State.finish_updWv_wv h.1, Wave.clearFlags_fpf hj, testBit_masks hj, hfpf, hat, hnew]

end Sys2Proof.Machine
end

section
/-! Lane exchange, votes and matches (07_lanes_spans.md R216, R217). -/
namespace Sys2Proof.Machine
open Sys2Proof Sys2Proof.Safety

/-! ## Masks of lanes -/

theorem inMask_lt {m : Mask} {k : Nat} (h : inMask m k = true) : k < 32 := BitVec.lt_of_getLsbD h

theorem inMask_active_iff {s : State} {k : Nat} : inMask s.active k = true ↔ On s k := ⟨fun h => ⟨inMask_lt h, h⟩, And.right⟩

theorem inMask_maskOf_iff {p : Nat → Bool} {k : Nat} : inMask (maskOf p) k = true ↔ k < 32 ∧ p k = true :=
  ⟨fun h => ⟨inMask_lt h, inMask_maskOf p (inMask_lt h) ▸ h⟩, fun ⟨hk, hp⟩ => (inMask_maskOf p hk).trans hp⟩

/-- A mask as a value of more bits. -/
theorem getLsbD_maskVal (m : Mask) (k : Nat) : (m.setWidth 256 : Val).getLsbD k = inMask m k := by
  rw [BitVec.getLsbD_setWidth, ← inMask]
  by_cases hk : k < 256
  · rw [decide_eq_true hk, Bool.true_and]
  · rw [decide_eq_false hk, Bool.false_and, eq_comm, Bool.eq_false_iff]
    exact fun h => hk ((inMask_lt h).trans (by decide))

theorem mask_eq_iff {m m' : Mask} : m = m' ↔ ∀ k, inMask m k = true ↔ inMask m' k = true :=
  ⟨fun h _ => by rw [h], fun h => mask_ext fun k _ => Bool.eq_iff_iff.mpr (h k)⟩

theorem inMask_zero (k : Nat) : inMask 0 k = false := BitVec.getLsbD_zero

/-- The first lane of a mask, and what stands for it where the mask has none. -/
theorem lanesOf_headD {m : Mask} {low : Nat} (h : inMask m low = true) (hmin : ∀ k, inMask m k = true → low ≤ k) (d : Nat) :
    (lanesOf m).headD d = low := by
  have hfind : (List.range 32).find? (inMask m) = some low := by
    refine List.find?_range_eq_some.mpr ⟨h, List.mem_range.mpr (inMask_lt h), fun k hk => ?_⟩
    rw [Bool.not_eq_true', Bool.eq_false_iff]
    exact fun hm => (hmin k hm).not_gt hk
  rw [lanesOf, List.headD_eq_head?_getD, List.head?_filter, hfind, Option.getD_some]

theorem lanesOf_headD_none {m : Mask} (h : ∀ k, ¬inMask m k = true) (d : Nat) : (lanesOf m).headD d = d := by
  rw [lanesOf, List.filter_eq_nil_iff.mpr fun k _ => h k]
  rfl

theorem State.lowLane_eq {s : State} {low : Nat} (h : On s low) (hmin : ∀ L, On s L → low ≤ L) : s.lowLane = low :=
  lanesOf_headD h.2 (fun _ hk => hmin _ (inMask_active_iff.mp hk)) 0

/-! ## Exchange (R216) -/

theorem State.fromLane_on {s : State} {j : Nat} (h : On s j) (ty : Ty) (a : Opnd) (L : Nat) : s.fromLane ty a L j = s.opnd ty a j :=
  if_pos (inMask_active_iff.mpr h)

theorem State.fromLane_off {s : State} {j : Nat} (h : ¬On s j) (ty : Ty) (a : Opnd) (L : Nat) : s.fromLane ty a L j = s.opnd ty a L :=
  if_neg (inMask_active_iff.not.mpr h)

/-- An exchange gives each lane what the lane of its source holds. -/
theorem gives_fromLane {i : Instr} {s : State} {ty : Ty} {a : Opnd} {src : Nat → Nat} (hi : exec i s = .next (s.put fun L => s.fromLane ty a L (src L)))
    (h : Issuing s) : Gives i s fun L d => (On s (src L) → d = s.opnd ty a (src L)) ∧ (¬On s (src L) → d = s.opnd ty a L) :=
  gives_put hi h fun L _ => ⟨fun hon => State.fromLane_on hon ty a L, fun hoff => State.fromLane_off hoff ty a L⟩

/-! ## Votes and matches (R217) -/

section Votes
variable {s : State} {c : Opnd}

/-- The lane issues, and its condition is 1. -/
def State.votes (s : State) (c : Opnd) (L : Nat) : Prop := On s L ∧ elemAt (s.opnd tyB1 c L) 1 0 = 1

theorem inMask_voteMask {k : Nat} : inMask (s.voteMask c) k = true ↔ s.votes c k := by
  rw [State.voteMask, inMask_maskOf_iff, Bool.and_eq_true, beq_iff_eq, inMask_active_iff]
  exact ⟨And.right, fun h => ⟨h.1.1, h⟩⟩

theorem voteMask_ne_zero : (s.voteMask c != 0) = true ↔ ∃ M, s.votes c M := by
  rw [bne_iff_ne, ne_eq, mask_eq_iff, not_forall]
  simp only [inMask_zero, Bool.false_eq_true, iff_false, not_not, inMask_voteMask]

theorem voteMask_eq_active : (s.voteMask c == s.active) = true ↔ ∀ M, On s M → s.votes c M := by
  rw [beq_iff_eq, mask_eq_iff]
  simp only [inMask_voteMask, inMask_active_iff]
  exact ⟨fun h M => (h M).mpr, fun h M => ⟨And.left, h M⟩⟩

end Votes

theorem inMask_match {s : State} {t : Ty} {a : Opnd} {L k : Nat} :
    inMask (maskOf fun j => inMask s.active j && s.opnd t a j == s.opnd t a L) k = true ↔ On s k ∧ s.opnd t a k = s.opnd t a L := by
  rw [inMask_maskOf_iff, Bool.and_eq_true, beq_iff_eq, inMask_active_iff]
  exact ⟨And.right, fun h => ⟨h.1.1, h⟩⟩

/-! ## The instructions together -/

/-- Settles O13: an exchange reads the named lane where it issues, and a vote or a match is the mask of the lanes of which its condition holds. -/
theorem laneExchangeAndVotes : Obligations.LaneExchangeAndVotes := by
  intro s ty a c idx m low h hlow hmin t moved yes
  have huni : s.uniNat tyN32 idx = (s.opnd tyN32 idx low).toNat := by
    rw [State.uniNat, State.uni, State.lowLane_eq hlow hmin]
  refine ⟨gives_fromLane rfl h, gives_fromLane rfl h, gives_fromLane (huni ▸ rfl) h, gives_fromLane (huni ▸ rfl) h, ?vote, ?any, ?all, ?first, ?equal⟩
  case vote => exact gives_put rfl h fun _ _ k => by rw [getLsbD_maskVal, inMask_voteMask]; rfl
  case any =>
    obtain ⟨hone, hzero⟩ := valOfBool_of_iff (voteMask_ne_zero (s := s) (c := c))
    exact gives_put rfl h fun _ _ => ⟨hone, fun hno => hzero (not_exists.mpr hno)⟩
  case all =>
    obtain ⟨hone, hzero⟩ := valOfBool_of_iff (voteMask_eq_active (s := s) (c := c))
    exact gives_put rfl h fun _ _ => ⟨hone, fun ⟨M, hM, hno⟩ => hzero fun hall => hno (hall M hM)⟩
  case first =>
    refine gives_put rfl h fun _ _ => ⟨fun M hM hleast => ?_, fun hno => ?_⟩
    · rw [lanesOf_headD (inMask_voteMask.mpr hM) fun k hk => hleast k (inMask_voteMask.mp hk)]
      exact toNat_ofNat_of_lt (w := 5) hM.1.1 (by decide)
    · rw [lanesOf_headD_none fun k hk => hno k (inMask_voteMask.mp hk)]
      rfl
  case equal => exact gives_put rfl h fun _ _ k => by rw [getLsbD_maskVal, inMask_match]

end Sys2Proof.Machine
end

section
/-! Reductions and scans over the lanes, and the random-number generator (07_lanes_spans.md R215, R218, R220, R222). -/
namespace Sys2Proof.Machine
open Sys2Proof Sys2Proof.Safety

/-! ## The tree (R218) -/

section Tree
variable {α : Type} {f : α → α → α}

/-- One round combines neighbours. -/
theorem pairLevel_range (f : α → α → α) (g : Nat → α) (n : Nat) :
    pairLevel f ((List.range (2 * n)).map g) = (List.range n).map fun i => f (g (2 * i)) (g (2 * i + 1)) := by
  induction n generalizing g with
  | zero => rfl
  | succ n ih =>
    rw [show 2 * (n + 1) = 2 * n + 1 + 1 by omega, List.range_succ_eq_map, List.range_succ_eq_map, List.range_succ_eq_map (n := n)]
    simp only [List.map_cons, List.map_map, pairLevel]
    exact congrArg (f (g 0) (g 1) :: ·) (ih fun i => g (i + 2))

/-- Rounds over a whole number of trees, by what stands at each position after each round. -/
theorem pairTree_range {V : Nat → Nat → α} (hV : ∀ k i, V (k + 1) i = f (V k (2 * i)) (V k (2 * i + 1))) (n k m : Nat) :
    pairTree f n ((List.range (2 ^ n * m)).map (V k)) = (List.range m).map (V (k + n)) := by
  induction n generalizing k with
  | zero => rw [pow_zero, one_mul]; rfl
  | succ n ih =>
    rw [pairTree, pow_succ', mul_assoc, pairLevel_range, show k + (n + 1) = k + 1 + n by omega, ← ih (k + 1)]
    exact congrArg (fun g => pairTree f n ((List.range (2 ^ n * m)).map g)) (funext fun i => (hV k i).symm)

/-- The flags below position `i` after `k` rounds, where `c k i` are those of the step that gives position `i` of the next round. -/
def treeFlags (c : Nat → Nat → Nat) : Nat → Nat → Nat
  | 0, _ => 0
  | k + 1, i => treeFlags c k (2 * i) ||| treeFlags c k (2 * i + 1) ||| c k i

/-- They are those of the steps whose positions lead to this one. -/
theorem testBit_treeFlags (c : Nat → Nat → Nat) (b k i : Nat) :
    (treeFlags c k i).testBit b = true ↔ ∃ r j, r < k ∧ j / 2 ^ (k - 1 - r) = i ∧ (c r j).testBit b = true := by
  induction k generalizing i with
  | zero => simp [treeFlags]
  | succ k ih =>
    have hhalf : ∀ r j, r < k → (j / 2 ^ (k + 1 - 1 - r) = i ↔ j / 2 ^ (k - 1 - r) = 2 * i ∨ j / 2 ^ (k - 1 - r) = 2 * i + 1) := fun r j hr => by
      rw [show k + 1 - 1 - r = k - 1 - r + 1 by omega, pow_succ, ← Nat.div_div_eq_div_mul]
      omega
    simp only [treeFlags, Nat.testBit_or, Bool.or_eq_true, ih]
    constructor
    · rintro ((⟨r, j, hr, hj, hb⟩ | ⟨r, j, hr, hj, hb⟩) | hb)
      · exact ⟨r, j, by omega, (hhalf r j hr).mpr (.inl hj), hb⟩
      · exact ⟨r, j, by omega, (hhalf r j hr).mpr (.inr hj), hb⟩
      · exact ⟨k, i, by omega, by simp, hb⟩
    · rintro ⟨r, j, hr, hj, hb⟩
      rcases Nat.lt_succ_iff_lt_or_eq.mp hr with hr | rfl
      · rcases (hhalf r j hr).mp hj with hj | hj
        · exact .inl (.inl ⟨r, j, hr, hj, hb⟩)
        · exact .inl (.inr ⟨r, j, hr, hj, hb⟩)
      · rw [show r + 1 - 1 - r = 0 by omega, pow_zero, Nat.div_one] at hj
        exact .inr (hj ▸ hb)

end Tree

section Combine
variable {s : State} {ty : Ty} {op : LaneOp} {a : Opnd}

/-- lred: the result and the flags stand at the root of the tree. -/
theorem State.laneTree_eq {T : Nat → Nat → Nat} (hon : ∀ i, On s i → T 0 i = s.el ty a i 0)
    (hoff : ∀ i, ¬On s i → T 0 i = LaneOp.ident (Ty.elem ty) op)
    (hstep : ∀ k i, T (k + 1) i = (LaneOp.apply (Ty.elem ty) (T k (2 * i)) (T k (2 * i + 1)) op).1) :
    s.laneTree ty op a = (T 5 0, treeFlags (fun k i => (LaneOp.apply (Ty.elem ty) (T k (2 * i)) (T k (2 * i + 1)) op).2) 5 0) := by
  set c := fun k i => (LaneOp.apply (Ty.elem ty) (T k (2 * i)) (T k (2 * i + 1)) op).2
  have hleaf : (fun P => (if inMask s.active P then s.el ty a P 0 else LaneOp.ident (Ty.elem ty) op, 0)) = fun i => (T 0 i, treeFlags c 0 i) := by
    funext i
    by_cases hi : On s i
    · rw [if_pos (inMask_active_iff.mpr hi), hon i hi]; rfl
    · rw [if_neg (inMask_active_iff.not.mpr hi), hoff i hi]; rfl
  have htree := pairTree_range (f := LaneOp.step (Ty.elem ty) op) (V := fun k i => (T k i, treeFlags c k i))
    (fun k i => congrArg (·, treeFlags c (k + 1) i) (hstep k i)) 5 0 1
  unfold State.laneTree
  simp only [hleaf]
  rw [show (32 : Nat) = 2 ^ 5 * 1 from rfl, htree]
  rfl

/-- lscan over the lanes of a run of positions from `n`: what a lane of them receives, and the flags. -/
theorem scanLanes_spec {e : Elem} {excl : Bool} {v A : Nat → Nat} {p : Nat → Bool}
    (hon : ∀ L, p L = true → A (L + 1) = (LaneOp.apply e (A L) (v L) op).1)
    (hoff : ∀ L, ¬p L = true → A (L + 1) = A L) (m n fl : Nat) :
    (∀ L ∈ (List.range' n m).filter p, ((scanLanes e op excl v ((List.range' n m).filter p) (A n, fl)).1.lookup L).getD 0 =
      if excl then A L else A (L + 1)) ∧
    ∀ b, (scanLanes e op excl v ((List.range' n m).filter p) (A n, fl)).2.testBit b = true ↔
      fl.testBit b = true ∨ ∃ M ∈ (List.range' n m).filter p, (LaneOp.apply e (A M) (v M) op).2.testBit b = true := by
  induction m generalizing n fl with
  | zero => simp [scanLanes]
  | succ m ih =>
    rw [List.range'_succ]
    by_cases hp : p n = true
    · obtain ⟨hval, hfl⟩ := ih (n + 1) (fl ||| 0 ||| (LaneOp.apply e (A n) (v n) op).2)
      rw [hon n hp] at hval hfl
      rw [List.filter_cons_of_pos hp]
      simp only [scanLanes, LaneOp.step]
      refine ⟨fun L hL => ?_, fun b => ?_⟩
      · by_cases hLn : L = n
        · subst hLn
          rw [List.lookup_cons_self, Option.getD_some, hon L hp]
        · rw [List.lookup_cons, beq_false_of_ne hLn]
          exact hval L ((List.mem_cons.mp hL).resolve_left hLn)
      · rw [hfl]
        simp [or_assoc]
    · rw [List.filter_cons_of_neg hp, ← hoff n hp]
      exact ih (n + 1) fl

end Combine

/-! ## The generator (R222) -/

theorem State.rngVal_word {s : State} {ty : Ty} (h : ty ≠ tyV4n32) (hf : ty ≠ tyF32) (st i L : Nat) :
    s.rngVal ty st i L = BitVec.ofNat 256 ((philox s.task.launch.seed.toNat (i / 4) (s.thread L) st).word i) := by
  unfold State.rngVal
  rw [if_neg h]
  dsimp only
  rw [if_neg hf]

theorem State.rngVal_unit (s : State) (st i L : Nat) :
    s.rngVal tyF32 st i L = BitVec.ofNat 256 (unitF32 ((philox s.task.launch.seed.toNat (i / 4) (s.thread L) st).word i)) := by
  unfold State.rngVal
  rw [if_neg (by decide)]
  dsimp only
  rw [if_pos rfl]

/-- A word of a value of four words. -/
theorem elemAt_words (c0 c1 c2 c3 j : Nat) : elemAt (BitVec.ofNat 256 (ofElems 32 [c0, c1, c2, c3])) 32 j = [c0, c1, c2, c3].getD j 0 % 2 ^ 32 := by
  rw [elemAt, toNat_ofNat_of_lt (w := 128) (ofElems_lt 32 [c0, c1, c2, c3]) (by decide), ofElems_div]

/-- Four words at once are those of the block. -/
theorem State.rngVal_block {s : State} {st i L : Nat} {c : Ctr} (hc : philox s.task.launch.seed.toNat i (s.thread L) st = c) :
    elemAt (s.rngVal tyV4n32 st i L) 32 0 = c.c0 % 2 ^ 32 ∧ elemAt (s.rngVal tyV4n32 st i L) 32 1 = c.c1 % 2 ^ 32 ∧
      elemAt (s.rngVal tyV4n32 st i L) 32 2 = c.c2 % 2 ^ 32 ∧ elemAt (s.rngVal tyV4n32 st i L) 32 3 = c.c3 % 2 ^ 32 := by
  unfold State.rngVal
  rw [if_pos rfl, hc]
  exact ⟨elemAt_words .., elemAt_words .., elemAt_words .., elemAt_words ..⟩

theorem Ctr.word_mod (c : Ctr) (i : Nat) : c.word (i % 4) = c.word i := by
  unfold Ctr.word
  rw [Nat.mod_mod]

theorem isF_f32 : isF .f32 := .inr (.inl rfl)

/-- The upper 24 bits of a word, as a fraction, are exact in f32. -/
theorem unitF32_spec {u : Nat} (hu : u < 2 ^ 32) : unitF32 u < 2 ^ 32 ∧ ratOf (fDecode .f32 (unitF32 u)) = ((u / 256 : Nat) : Rat) / 2 ^ 24 := by
  have hS : isS .f32 := isS_of_isF isF_f32
  unfold unitF32
  by_cases h0 : u / 256 = 0
  · rw [if_pos h0, h0]
    refine ⟨by decide, (ratOf_zero_code hS false).trans ?_⟩
    simp
  · rw [if_neg h0]
    have hlt : u / 256 < 2 * 2 ^ fMan .f32 := by
      show u / 256 < 2 * 2 ^ 23
      omega
    have htop : ((u / 256 : Nat) : ℝ) * 2 ^ (-24 : Int) ≤ (ratOf (fDecode .f32 (fMaxCode .f32)) : ℝ) := by
      refine le_trans ?_ (significand_le_top isF_f32 (n := 1) Nat.one_le_two_pow)
      have hle : ((u / 256 : Nat) : ℝ) ≤ 2 ^ (24 : Nat) := by exact_mod_cast (show u / 256 ≤ 2 ^ 24 by omega)
      rw [zpow_neg, ← div_eq_mul_inv, div_le_iff₀ (by positivity), Nat.cast_one, one_mul]
      exact_mod_cast hle
    obtain ⟨⟨hcode, -⟩, hval, -⟩ := fRound_exact (fm := exactMod) (u := 0) (q₀ := -24) hS false h0 nofun hlt (by decide) rfl htop nofun
    refine ⟨hcode, (Rat.cast_injective hval).trans ?_⟩
    simp [ratOf, div_eq_mul_inv, zpow_neg]

/-! ## The instructions together -/

/-- Settles O14: lred by the positions of its tree, lscan by its accumulator from lane to lane, and rng by the block that its operands name. -/
theorem laneReductionsAndRandomNumbers : Obligations.LaneReductionsAndRandomNumbers := by
  refine ⟨?combine, ?generator⟩
  case combine =>
    intro s ty op excl a T A h e f hTon hToff hT hA0 hAon hAoff
    refine ⟨?tree, ?scan⟩
    case tree =>
      have htree := State.laneTree_eq hTon hToff hT
      refine givesFp_finish rfl h (fun _ => rfl) fun _ _ => ⟨congrArg (fun r : Nat × Nat => BitVec.ofNat 256 r.1) htree, fun b => ?_⟩
      rw [congrArg Prod.snd htree, testBit_treeFlags]
      simp only [Nat.div_eq_zero_iff, Nat.pow_eq_zero, OfNat.ofNat_ne_zero, false_and, false_or]
      rfl
    case scan =>
      obtain ⟨hval, hfl⟩ := scanLanes_spec (excl := excl) (v := fun L => s.el ty a L 0) (p := inMask s.active)
        (fun L hL => hAon L (inMask_active_iff.mp hL)) (fun L hL => hAoff L (inMask_active_iff.not.mp hL)) 32 0 0
      rw [← List.range_eq_range', hA0] at hval hfl
      refine givesFp_finish rfl h (fun _ => rfl) fun L hL => ⟨congrArg (BitVec.ofNat 256) (hval L (mem_activeLanes.mpr hL)), fun b => (hfl b).trans ?_⟩
      simp only [Nat.zero_testBit, Bool.false_eq_true, false_or]
      exact exists_congr fun M => and_congr_left' mem_activeLanes
  case generator =>
    intro s st i h thread stream idx block word
    have hword : ∀ L, (philox s.task.launch.seed.toNat (idx L / 4) (s.thread L) (stream L)).word (idx L) = word L := fun L => (Ctr.word_mod _ _).symm
    have hlt : ∀ L, word L < 2 ^ 32 := fun L => Ctr.word_lt (philox_fits ..) _
    refine ⟨gives_put rfl h fun L _ => ?whole, gives_put rfl h fun L _ => ?unit, gives_put rfl h fun L _ => ?words⟩
    case whole =>
      rw [State.rngVal_word (by decide) (by decide), hword]
      exact toNat_ofNat_of_lt (hlt L) (by decide)
    case unit =>
      obtain ⟨hcode, hval⟩ := unitF32_spec (hlt L)
      rw [State.rngVal_unit, hword, toNat_ofNat_of_lt hcode (by decide)]
      exact ⟨hcode, hlt L, hval⟩
    case words => exact State.rngVal_block (c := block (idx L) L) rfl

end Sys2Proof.Machine
end

section
/-! The best element of a span, the first elements of its order, and the records of a top-k (07_lanes_spans.md R225, R228). -/
namespace Sys2Proof.Machine
open Sys2Proof Sys2Proof.Safety

/-! ## The order (R225) -/

/-- Element `y` comes before `z`, or is it: of greater rank, or of equal rank and no greater index. -/
def Leads (y z : Nat × Nat) : Prop := spanRank z.2 < spanRank y.2 ∨ spanRank z.2 = spanRank y.2 ∧ y.1 ≤ z.1

theorem Leads.rank_le {y z : Nat × Nat} (h : Leads y z) : spanRank z.2 ≤ spanRank y.2 := h.elim le_of_lt fun ⟨heq, _⟩ => heq.le

theorem Leads.rank_lt {y z : Nat × Nat} (h : Leads y z) (hlt : z.1 < y.1) : spanRank z.2 < spanRank y.2 :=
  h.resolve_right fun ⟨_, hle⟩ => hlt.not_ge hle

/-- The indices ascend. -/
def Ascending (l : List (Nat × Nat)) : Prop := l.Pairwise fun a b => a.1 < b.1

/-- The best of some elements leads them all. -/
theorem spanBest_spec {l : List (Nat × Nat)} (hl : Ascending l) (hne : l ≠ []) : ∃ y ∈ l, spanBest l = some y ∧ ∀ z ∈ l, Leads y z := by
  induction l with
  | nil => exact absurd rfl hne
  | cons x xs ih =>
    obtain ⟨hx, hxs⟩ := List.pairwise_cons.mp hl
    have hself : Leads x x := .inr ⟨rfl, le_rfl⟩
    rcases eq_or_ne xs [] with rfl | hnil
    · exact ⟨x, List.mem_cons_self, rfl, fun z hz => List.mem_singleton.mp hz ▸ hself⟩
    · obtain ⟨y, hy, hbest, hleads⟩ := ih hxs hnil
      rw [spanBest, hbest]
      dsimp only
      split
      · next hlt => exact ⟨y, List.mem_cons_of_mem _ hy, rfl, List.forall_mem_cons.mpr ⟨.inl hlt, hleads⟩⟩
      · next hge =>
        refine ⟨x, List.mem_cons_self, rfl, List.forall_mem_cons.mpr ⟨hself, fun z hz => ?_⟩⟩
        rcases lt_or_eq_of_le ((hleads z hz).rank_le.trans (not_lt.mp hge)) with hlt | heq
        · exact .inl hlt
        · exact .inr ⟨heq, (hx z hz).le⟩

theorem indexed_eq (l : List Nat) : indexed l = (List.range l.length).map fun j => (j, l.getD j 0) := by
  refine List.ext_getElem (by simp [indexed]) fun j h₁ h₂ => ?_
  have hj : j < l.length := by simpa using h₂
  simp [indexed, List.getElem?_eq_getElem hj]

theorem mem_indexed {l : List Nat} {z : Nat × Nat} : z ∈ indexed l ↔ z.1 < l.length ∧ z.2 = l.getD z.1 0 := by
  rw [indexed_eq, List.mem_map]
  constructor
  · rintro ⟨j, hj, rfl⟩
    exact ⟨List.mem_range.mp hj, rfl⟩
  · rintro ⟨hj, hz⟩
    exact ⟨z.1, List.mem_range.mpr hj, Prod.ext rfl hz.symm⟩

theorem indexed_ascending (l : List Nat) : Ascending (indexed l) := by
  rw [indexed_eq]
  exact List.pairwise_map.mpr List.pairwise_lt_range

theorem indexed_length (l : List Nat) : (indexed l).length = l.length := by rw [indexed_eq, List.length_map, List.length_range]

/-- The best element of a span: the first of greatest rank. -/
theorem spanBest_indexed {l : List Nat} (hl : l ≠ []) : ∃ j, spanBest (indexed l) = some (j, l.getD j 0) ∧ j < l.length ∧
    (∀ p, p < l.length → spanRank (l.getD p 0) ≤ spanRank (l.getD j 0)) ∧ ∀ p, p < j → spanRank (l.getD p 0) < spanRank (l.getD j 0) := by
  have hne : indexed l ≠ [] := by
    rw [← List.length_pos_iff, indexed_length]
    exact List.length_pos_iff.mpr hl
  obtain ⟨⟨j, c⟩, hmem, hbest, hleads⟩ := spanBest_spec (indexed_ascending l) hne
  obtain ⟨hj, hc⟩ := mem_indexed.mp hmem
  dsimp only at hj hc
  subst hc
  have hall : ∀ p, p < l.length → Leads (j, l.getD j 0) (p, l.getD p 0) := fun p hp => hleads _ (mem_indexed.mpr ⟨hp, rfl⟩)
  exact ⟨j, hbest, hj, fun p hp => (hall p hp).rank_le, fun p hp => (hall p (hp.trans hj)).rank_lt hp⟩

/-! ## The first elements (R228) -/

/-- Without one of them, elements are one fewer. -/
theorem length_filter_ne {l : List (Nat × Nat)} (hl : Ascending l) {b : Nat × Nat} (hb : b ∈ l) :
    (l.filter fun x => x.1 != b.1).length = l.length - 1 := by
  have hnodup : l.Nodup := hl.imp fun hlt heq => hlt.ne (congrArg Prod.fst heq)
  have hfst : (l.map Prod.fst).Nodup := List.pairwise_map.mpr (hl.imp ne_of_lt)
  have hsame : (l.filter fun x => x.1 != b.1) = l.filter fun x => x != b :=
    List.filter_congr fun x hx => Bool.eq_iff_iff.mpr (by
      rw [bne_iff_ne, bne_iff_ne]
      exact not_congr ⟨List.inj_on_of_nodup_map hfst hx hb, congrArg Prod.fst⟩)
  rw [hsame, ← hnodup.erase_eq_filter, List.length_erase_of_mem hb]

/-- The first `k` elements of the order: each is one of them, leads all that do not stand before it, and has an index of its own. -/
theorem spanTop_spec (k : Nat) {l : List (Nat × Nat)} (hl : Ascending l) : (spanTop k l).length = min k l.length ∧
    (spanTop k l).Pairwise (fun a b => a.1 ≠ b.1) ∧ (∀ y ∈ spanTop k l, y ∈ l) ∧
    ∀ r (hr : r < (spanTop k l).length), ∀ z ∈ l, (∀ q (hq : q < r), ((spanTop k l)[q]'(hq.trans hr)).1 ≠ z.1) → Leads (spanTop k l)[r] z := by
  induction k generalizing l with
  | zero => simp [spanTop]
  | succ k ih =>
    rcases eq_or_ne l [] with rfl | hne
    · simp [spanTop, spanBest]
    · obtain ⟨b, hb, hbest, hleads⟩ := spanBest_spec hl hne
      have hcons : spanTop (k + 1) l = b :: spanTop k (l.filter fun x => x.1 != b.1) := by rw [spanTop, hbest]
      have hpos := List.length_pos_iff.mpr hne
      obtain ⟨hlen, hdiff, hmem, hrest⟩ := ih (hl.filter fun x => x.1 != b.1)
      have hmem' : ∀ y ∈ spanTop k (l.filter fun x => x.1 != b.1), y ∈ l ∧ y.1 ≠ b.1 := fun y hy => by
        simpa using List.mem_filter.mp (hmem y hy)
      simp only [hcons]
      refine ⟨?_, List.pairwise_cons.mpr ⟨fun y hy => (hmem' y hy).2.symm, hdiff⟩, List.forall_mem_cons.mpr ⟨hb, fun y hy => (hmem' y hy).1⟩, ?_⟩
      · rw [List.length_cons, hlen, length_filter_ne hl hb]
        omega
      · intro r hr z hz hbefore
        cases r with
        | zero => exact hleads z hz
        | succ r =>
          refine hrest r (Nat.lt_of_succ_lt_succ hr) z (List.mem_filter.mpr ⟨hz, bne_iff_ne.mpr (hbefore 0 r.succ_pos).symm⟩) fun q hq => ?_
          exact hbefore (q + 1) (Nat.succ_lt_succ hq)

/-! ## Records (R228) -/

theorem topRecord_length (p : Nat × Nat) : (topRecord p).length = 8 := by
  rw [topRecord, List.length_append, bytesOfNat_length, bytesOfNat_length]

section Pieces
variable {α β : Type} {f : α → List β} {n : Nat} (hf : ∀ a, (f a).length = n)
include hf

theorem flatMap_length (l : List α) : (l.flatMap f).length = n * l.length := by
  rw [List.length_flatMap, List.map_congr_left fun a _ => hf a, List.map_const', List.sum_replicate, smul_eq_mul, mul_comm]

/-- A piece of pieces of equal length. -/
theorem flatMap_piece (l : List α) {r : Nat} (hr : r < l.length) : ((l.flatMap f).drop (n * r)).take n = f l[r] := by
  induction l generalizing r with
  | nil => exact absurd hr (Nat.not_lt_zero r)
  | cons a l ih =>
    rw [List.flatMap_cons]
    cases r with
    | zero => rw [Nat.mul_zero, List.drop_zero, List.take_append_of_le_length (hf a).ge, List.take_of_length_le (hf a).le]; rfl
    | succ r =>
      rw [Nat.mul_succ, Nat.add_comm, ← List.drop_drop, List.drop_append_of_le_length (hf a).ge, List.drop_of_length_le (hf a).le, List.nil_append]
      exact ih (Nat.lt_of_succ_lt_succ hr)

end Pieces

/-- The out bytes of a top-k: a record for each of the first elements, and empty records behind the last element. -/
theorem topk_records (kk : Nat) (xs : List Nat) :
    ((SpanKind.topk kk).run fun _ => xs).1.length = 8 * kk ∧
    (∀ r, r < kk → xs.length ≤ r →
      (((SpanKind.topk kk).run fun _ => xs).1.drop (8 * r)).take 8 = bytesOfNat 4 (fNaN .f32) ++ bytesOfNat 4 0xFFFFFFFF) ∧
    ∃ p : Nat → Nat, (∀ r, r < kk → r < xs.length → p r < xs.length ∧ (∀ q, q < r → p q ≠ p r) ∧
        (((SpanKind.topk kk).run fun _ => xs).1.drop (8 * r)).take 8 = topRecord (p r, xs.getD (p r) 0)) ∧
      ∀ r j, r < kk → r < xs.length → j < xs.length → (∀ q, q < r → p q ≠ j) → Leads (p r, xs.getD (p r) 0) (j, xs.getD j 0) := by
  obtain ⟨hlen, hdiff, hmem, hleads⟩ := spanTop_spec kk (indexed_ascending xs)
  simp only [SpanKind.run]
  generalize spanTop kk (indexed xs) = t at *
  rw [indexed_length] at hlen
  have hall : (t ++ List.replicate (kk - t.length) (0xFFFFFFFF, fNaN .f32)).length = kk := by
    rw [List.length_append, List.length_replicate]
    omega
  refine ⟨?bytes, fun r hr hx => ?empty, fun r => (t.getD r (0, 0)).1, fun r hr hx => ?record, fun r j hr hx hj hbefore => ?order⟩
  case bytes => rw [flatMap_length topRecord_length, hall]
  case empty =>
    rw [flatMap_piece topRecord_length _ (hr.trans_eq hall.symm), List.getElem_append_right (by omega), List.getElem_replicate, topRecord, ite_self]
  case record =>
    have hlt : r < t.length := by omega
    obtain ⟨hp, hcode⟩ := mem_indexed.mp (hmem _ (List.getElem_mem hlt))
    rw [flatMap_piece topRecord_length _ (hr.trans_eq hall.symm), List.getElem_append_left hlt]
    beta_reduce
    rw [List.getD_eq_getElem _ _ hlt, ← hcode]
    refine ⟨hp, fun q hq => ?_, rfl⟩
    rw [List.getD_eq_getElem _ _ (hq.trans hlt)]
    exact List.pairwise_iff_getElem.mp hdiff q r (hq.trans hlt) hlt hq
  case order =>
    have hlt : r < t.length := by omega
    obtain ⟨-, hcode⟩ := mem_indexed.mp (hmem _ (List.getElem_mem hlt))
    beta_reduce at hbefore ⊢
    rw [List.getD_eq_getElem _ _ hlt, ← hcode]
    refine hleads r hlt _ (mem_indexed.mpr ⟨hj, rfl⟩) fun q hq => ?_
    rw [← List.getD_eq_getElem t (0, 0)]
    exact hbefore q hq

end Sys2Proof.Machine
end

section
/-! The conduct of the span instructions: what holds one back, its issue, and its completion (07_lanes_spans.md R223, R224, R230, R231). -/
namespace Sys2Proof.Machine
open Sys2Proof Sys2Proof.Safety

/-! ## Landings -/

section Landings
variable {α : Type} {p : Nat → Prop} [DecidablePred p]

/-- A change of the elements at some places leaves a list without such a place as it is. -/
theorem map_zipIdx_keep (g : α → α) {l : List α} {n : Nat} (h : ∀ i, n ≤ i → i < n + l.length → ¬p i) :
    ((l.zipIdx n).map fun y => if p y.2 then g y.1 else y.1) = l := by
  induction l generalizing n with
  | nil => rfl
  | cons a l ih =>
    rw [List.zipIdx_cons, List.map_cons, ih fun i hlow hhigh => h i (by omega) (by rw [List.length_cons]; omega)]
    simp [h n le_rfl (by simp)]

theorem map_zipIdx_change (g : α → α) {l : List α} {n : Nat} (h : ∀ i, n ≤ i → p i) :
    ((l.zipIdx n).map fun y => if p y.2 then g y.1 else y.1) = l.map g := by
  induction l generalizing n with
  | nil => rfl
  | cons a l ih =>
    rw [List.zipIdx_cons, List.map_cons, ih fun i hlow => h i (by omega)]
    simp [h n le_rfl]

/-- A change of the elements behind the first ones. -/
theorem map_zipIdx_tail (g : α → α) (as xs : List α) :
    ((as ++ xs).zipIdx.map fun y => if as.length ≤ y.2 then g y.1 else y.1) = as ++ xs.map g := by
  rw [List.zipIdx_append, List.map_append, map_zipIdx_keep g fun i _ hi => by omega, map_zipIdx_change g fun i hi => by omega]

/-- A change of the one element behind the first ones. -/
theorem map_zipIdx_at (g : α → α) (as bs : List α) (x : α) :
    ((as ++ x :: bs).zipIdx.map fun y => if y.2 = as.length then g y.1 else y.1) = as ++ g x :: bs := by
  rw [List.zipIdx_append, List.map_append, List.zipIdx_cons, List.map_cons, map_zipIdx_keep (p := (· = as.length)) g fun i _ hi => by omega,
    map_zipIdx_keep (p := (· = as.length)) g fun i hi _ => by omega, if_pos (Nat.zero_add _)]

end Landings

/-- The landings behind the first ones await their span instruction. -/
theorem Wave.awaitSpan_landings {w : Wave} {as xs : List Landing} (h : w.landings = as ++ xs) :
    (w.awaitSpan as.length).landings = as ++ xs.map fun x => { x with back := spanBack } := by
  rw [← map_zipIdx_tail (fun x : Landing => { x with back := spanBack }), ← h]
  rfl

/-- A landing when its span instruction completes: its data is back, with the result `v` where another one than at issue is given. -/
def Landing.spanLands (x : Landing) (c : Nat) (v : Option Nat) : Landing :=
  { x with back := c, data := match v with
      | some v => x.data.map fun e => (e.1, e.2.1, dw v)
      | none => x.data }

/-- The first landing that awaits its span instruction takes the result. -/
theorem Wave.spanLands_eq {w : Wave} {as bs : List Landing} {x : Landing} (h : w.landings = as ++ x :: bs) (has : ∀ a ∈ as, a.back ≠ spanBack)
    (hx : x.back = spanBack) (c : Nat) (v : Option Nat) : w.spanLands c v = { w with landings := as ++ x.spanLands c v :: bs } := by
  have hfirst : w.landings.findIdx? (fun x => x.back == spanBack) = some as.length := by
    rw [h, List.findIdx?_append, List.findIdx?_eq_none_iff.mpr fun a ha => beq_false_of_ne (has a ha)]
    simp [List.findIdx?_cons, hx]
  rw [← map_zipIdx_at (fun y => y.spanLands c v) as bs x, ← h, Wave.spanLands, hfirst]
  rfl

/-! ## What holds a span instruction back (R223, R224, R231) -/

/-- The records that a span instruction asks for, which the checks of R223 bound: 1 where it asks for none. -/
def SpanKind.asked : SpanKind → Nat
  | .topk k => k
  | _ => 1

/-- The absent lines of a span as far as it lies in the allocation. -/
def State.spanLines (s : State) (sp : Span) : List Nat := s.absentOf [(sp.base, min sp.len (s.wg.spadB - sp.base))]

/-- The span instruction that issues. -/
def State.spanOp (s : State) (sp : Span) (kind : SpanKind) (dst : Option (Nat × Nat × Nat)) (clash : Bool) : SpanOp :=
  { die := s.wv.die, unit := s.spanUnit, wave := s.wv.token, kind := kind, base := sp.base, ty := sp.ty, n := sp.n,
    out := (dst.map Prod.fst).getD 0, outLen := (dst.map fun d => d.2.2).getD 0, clash := clash, seen := [s.wg.read sp.base sp.len] }

section Conduct
variable {s : State} {sp : Span} {kind : SpanKind} {dst : Option (Nat × Nat × Nat)} {clash : Bool}

theorem State.spanRun_eq : s.spanRun sp kind dst clash = if !(s.spanLines sp).isEmpty then s.parkPresence (s.spanLines sp) else
    match s.spanCause sp kind.asked dst with
    | some c => s.faultAll c
    | none => if s.spanBusy then s else s.spanIssue (s.spanOp sp kind dst clash) := by
  cases kind <;> rfl

theorem State.spanRun_absent (h : s.spanLines sp ≠ []) : s.spanRun sp kind dst clash = s.parkPresence (s.spanLines sp) := by
  rw [State.spanRun_eq, if_pos]
  simpa using h

theorem State.spanRun_fault {c : Cause} (h : s.spanLines sp = []) (hc : s.spanCause sp kind.asked dst = some c) :
    s.spanRun sp kind dst clash = s.faultAll c := by
  rw [State.spanRun_eq, h, hc]
  rfl

theorem State.spanRun_waits (h : s.spanLines sp = []) (hc : s.spanCause sp kind.asked dst = none) (hb : s.spanBusy = true) :
    s.spanRun sp kind dst clash = s := by
  rw [State.spanRun_eq, h, hc, hb]
  rfl

theorem State.spanRun_issues (h : s.spanLines sp = []) (hc : s.spanCause sp kind.asked dst = none) (hb : s.spanBusy = false) :
    s.spanRun sp kind dst clash = s.spanIssue (s.spanOp sp kind dst clash) := by
  rw [State.spanRun_eq, h, hc, hb]
  rfl

/-- A span within the bounds of its checks. -/
def State.spanFits (s : State) (sp : Span) : Prop :=
  sp.base % spanSize sp.ty = 0 ∧ (1 ≤ sp.n ∧ sp.n ≤ 2 ^ 20) ∧ sp.base + sp.n * spanSize sp.ty ≤ s.wg.spadB

theorem State.spanCause_misaligned (h : sp.base % spanSize sp.ty ≠ 0) (k : Nat) : s.spanCause sp k none = some (cause 0x23) :=
  if_pos (.inl h)

theorem State.spanCause_count (h : sp.base % spanSize sp.ty = 0) (hn : ¬(1 ≤ sp.n ∧ sp.n ≤ 2 ^ 20)) (k : Nat) :
    s.spanCause sp k none = some (causeT 0x26 1) :=
  (if_neg (by simpa using h)).trans (if_pos (by omega))

theorem State.spanCause_past (h : sp.base % spanSize sp.ty = 0) (hn : 1 ≤ sp.n ∧ sp.n ≤ 2 ^ 20)
    (hpast : ¬sp.base + sp.n * spanSize sp.ty ≤ s.wg.spadB) : s.spanCause sp 1 none = some (causeT 0x26 3) :=
  (if_neg (by simpa using h)).trans ((if_neg (by omega)).trans ((if_neg (by omega)).trans (if_pos (.inl (by omega)))))

/-- The checks pass. -/
theorem State.spanCause_none (h : s.spanFits sp) {k : Nat} (hk : 1 ≤ k ∧ k ≤ 64)
    (hd : ∀ d ∈ dst, d.1 % d.2.1 = 0 ∧ d.1 + d.2.2 ≤ s.wg.spadB) : s.spanCause sp k dst = none := by
  obtain ⟨hbase, hn, hfit⟩ := h
  have haligned : ¬(dst.any fun d => d.1 % d.2.1 != 0) = true := by
    rw [Option.any_eq_true_iff_get]
    rintro ⟨hsome, hne⟩
    exact bne_iff_ne.mp hne (hd _ (Option.get_mem hsome)).1
  have hwithin : ¬(dst.any fun d => decide (s.wg.spadB < d.1 + d.2.2)) = true := by
    rw [Option.any_eq_true_iff_get]
    rintro ⟨hsome, hlt⟩
    exact (hd _ (Option.get_mem hsome)).2.not_gt (of_decide_eq_true hlt)
  unfold State.spanCause
  dsimp only
  rw [if_neg (not_or.mpr ⟨not_not.mpr hbase, haligned⟩), if_neg (by omega), if_neg (by omega), if_neg (not_or.mpr ⟨hfit.not_gt, hwithin⟩)]

end Conduct

/-! ## Issue -/

section Issue
variable {s u : State} {k : Nat}

theorem resultsOnly_issue (h : ResultsOnly s u k) : u.issue = s.issue := by rw [h.rest]

/-- The frame holds as well when only the new landings have changed further. -/
theorem resultsOnly_updWv_landings {f : Wave → Wave} (h : ResultsOnly s u k) (hlen : s.issue.wave < u.waves.length)
    (hf : ∀ w, f w = { w with landings := (f w).landings })
    (hl : ∃ xs, (f u.wv).landings = s.wv.landings ++ xs ∧ ∀ x ∈ xs, ∀ e ∈ x.data, On s e.2.1 ∧
      ∃ d ∈ s.issue.dsts, d.1 ≤ e.1 ∧ e.1 < d.1 + max 1 d.2) : ResultsOnly s (u.updWv f) k := by
  have hissue := resultsOnly_issue h
  have hwv : (u.updWv f).wv = { u.wv with landings := (f u.wv).landings } := (State.updWv_wv u f (hissue ▸ hlen)).trans (hf u.wv)
  have hlane : ∀ L, (u.updWv f).wv.lane L = u.wv.lane L := fun L => by rw [hwv]; rfl
  have hval : ∀ L n, valIn s (u.updWv f) L n = valIn s u L n := by
    intro L n
    show ((((u.updWv f).waveAt s.issue.wave).lane L).val n) = ((u.waveAt s.issue.wave).lane L).val n
    rw [← hissue]
    exact congrArg (fun l : Lane => l.val n) (hlane L)
  refine ⟨?_, fun j hj => (State.updWv_other u f (hissue ▸ hj)).trans (h.waves j hj), ?_, fun L hL => ?_, fun L hL => ?_, fun L hL n hn => ?_,
    fun L hL => ?_, ?_, fun L hL r hr => ?_⟩
  · have hrest := congrArg (fun v : State => ({ v with waves := (u.updWv f).waves } : State)) h.rest
    exact hrest
  · have hwave := h.wave
    unfold WaveOn at *
    rw [hwv, hwave]
  · rw [hlane]
    exact h.off L hL
  · rw [hlane]
    exact h.on L hL
  · rw [hval]
    exact h.vals L hL n hn
  · rw [hlane]
    exact h.callers L hL
  · rw [hwv]
    exact hl
  · rw [hwv]
    exact h.regs L hL r hr

theorem flagsLand_of_quiet {t : State} (h : QuietFp s t) : FlagsLand s t 0 fun _ => 0 := by
  obtain ⟨hfpf, hat, hnew, hidx⟩ := h
  have hnone : ∀ k, ¬∃ L, On s L ∧ (0 : Nat).testBit k = true := fun k ⟨_, _, hbit⟩ => by simp at hbit
  refine ⟨fun k hk => ?_, fun k hk => ?_, fun L hL => ?_⟩
  · rw [hfpf, or_iff_left (hnone k)]
  · have hset : (31 : Nat).testBit k = true := by interval_cases k <;> rfl
    rw [Wave.clearFlags_fpf hk, hset, hat, hnew, or_iff_left (hnone k)]
    simp
  · rw [hidx L hL]
    exact (add_zero _).symm

theorem flagsLand_of_landings {t : State} {f : Wave → Wave} {w : Nat} {fl : Nat → Nat} (h : FlagsLand s t w fl) (hlen : t.issue.wave < t.waves.length)
    (hf : ∀ w, f w = { w with landings := (f w).landings }) : FlagsLand s (t.updWv f) w fl := by
  unfold FlagsLand
  rw [State.updWv_wv t f hlen, hf]
  exact h

/-- The landing of a result awaits its span instruction; nothing else of the instruction changes. -/
theorem resultsOnly_awaitSpan (h : ResultsOnly s u k) (hlen : s.issue.wave < u.waves.length) :
    ResultsOnly s (u.updWv fun w => w.awaitSpan s.wv.landings.length) k := by
  obtain ⟨xs, hxs, hdata⟩ := h.lands
  refine resultsOnly_updWv_landings h hlen (fun _ => rfl) ⟨_, Wave.awaitSpan_landings hxs, fun x hx => ?_⟩
  obtain ⟨y, hy, rfl⟩ := List.mem_map.mp hx
  exact hdata y hy

/-- Results, flags and landing of a span instruction at its issue: sptopk has none. -/
def State.spanPut (s : State) (kind : SpanKind) (v fl : Nat) : State :=
  (match kind with
    | .topk _ => s.done.updWv fun w => { w with landings := s.wv.landings }
    | .max | .argmax => s.put fun _ => BitVec.ofNat 256 v
    | _ => s.finishFp 0 fun _ => ([BitVec.ofNat 256 v], fl)).updWv fun w => w.awaitSpan s.wv.landings.length

@[simp] theorem State.spanPut_spans (s : State) (kind : SpanKind) (v fl : Nat) : (s.spanPut kind v fl).spans = s.spans := by
  cases kind <;> rfl

/-- What a span instruction computes from the span as it stands at issue. -/
def SpanOp.atIssue (o : SpanOp) : List Byte × Nat × Nat := o.kind.run fun _ => (List.range o.n).map (spanAt o.ty (o.seen.headD []))

theorem State.spanIssue_noOut {o : SpanOp} (h : o.outLen = 0) :
    s.spanIssue o = { s.spanPut o.kind o.atIssue.2.1 o.atIssue.2.2 with spans := s.spans ++ [o] } := by
  unfold State.spanIssue
  dsimp only
  rw [if_pos h, ← s.spanPut_spans o.kind o.atIssue.2.1 o.atIssue.2.2]
  rfl

theorem State.spanIssue_out {o : SpanOp} (h : o.outLen ≠ 0) (hclash : o.clash = false) : s.spanIssue o =
    { (s.spanPut o.kind o.atIssue.2.1 o.atIssue.2.2).updWg s.wv.wg fun g => g.write o.out o.atIssue.1 with spans := s.spans ++ [o] } := by
  unfold State.spanIssue
  dsimp only
  rw [if_neg h, hclash, ← s.spanPut_spans o.kind o.atIssue.2.1 o.atIssue.2.2]
  rfl

theorem State.spanPut_topk (h : Issuing s) (kk v fl : Nat) : ResultsOnly s (s.spanPut (.topk kk) v fl) 0 := by
  have hdone := State.finish_only s (fun _ => []) 0 h fun _ _ => le_rfl
  have hlen : s.issue.wave < s.done.waves.length := (updAt_length ..).symm ▸ h.1
  have hnone : ResultsOnly s (s.done.updWv fun w => { w with landings := s.wv.landings }) 0 :=
    resultsOnly_updWv_landings hdone hlen (fun _ => rfl) ⟨[], (List.append_nil _).symm, nofun⟩
  exact resultsOnly_awaitSpan hnone ((updAt_length ..).symm ▸ hlen)

/-- State `u` has the result `v` in every lane that issues in `s`, and the flags `fl`; else it differs from `s` as an instruction with one result does. -/
structure HasResult (s u : State) (v fl : Nat) : Prop where
  only : ResultsOnly s u 1
  flags : FlagsLand s u 0 fun _ => fl
  results : ∀ L, On s L → result s u L 0 = BitVec.ofNat 256 v

theorem hasResult_put (h : Issuing s) (v : Nat) : HasResult s (s.put fun _ => BitVec.ofNat 256 v) v 0 where
  only := State.finish_only s _ 1 h fun _ _ => le_rfl
  flags := by
    obtain ⟨hfpf, hat, hnew⟩ := State.finish_fpf s (fun _ => [BitVec.ofNat 256 v]) h.1
    exact flagsLand_of_quiet ⟨hfpf, hat, hnew, fun _ hL => State.finish_rsidx s _ h.1 hL.1⟩
  results _ hL := State.finish_result s _ h hL Nat.one_pos

theorem hasResult_finishFp (h : Issuing s) (v fl : Nat) : HasResult s (s.finishFp 0 fun _ => ([BitVec.ofNat 256 v], fl)) v fl where
  only := State.finishFp_only h fun _ => rfl
  flags := State.finishFp_flags h
  results _ hL := State.finishFp_result h hL Nat.one_pos

theorem hasResult_awaitSpan {v fl : Nat} (h : HasResult s u v fl) (hlen : s.issue.wave < u.waves.length) :
    HasResult s (u.updWv fun w => w.awaitSpan s.wv.landings.length) v fl where
  only := resultsOnly_awaitSpan h.only hlen
  flags := flagsLand_of_landings h.flags (resultsOnly_issue h.only ▸ hlen) fun _ => rfl
  results L hL := by
    have hissue := resultsOnly_issue h.only
    refine Eq.trans ?_ (h.results L hL)
    unfold result valIn
    rw [← hissue]
    show ((u.updWv fun w => w.awaitSpan s.wv.landings.length).wv.lane L).val _ = (u.wv.lane L).val _
    rw [State.updWv_wv u _ (hissue ▸ hlen)]
    rfl

/-- The result goes to every lane that issues, with the flags of the instruction. -/
theorem State.spanPut_result (h : Issuing s) {kind : SpanKind} (hk : ∀ m, kind ≠ .topk m) (v : Nat) {fl : Nat}
    (hfl : kind = .max ∨ kind = .argmax → fl = 0) : HasResult s (s.spanPut kind v fl) v fl := by
  have hlen : ∀ (t : State) f, s.issue.wave < t.waves.length → s.issue.wave < (t.updWv f).waves.length := fun _ _ ht => (updAt_length ..).symm ▸ ht
  cases kind with
  | topk m => exact absurd rfl (hk m)
  | max =>
    rw [hfl (.inl rfl)]
    exact hasResult_awaitSpan (hasResult_put h v) (hlen _ _ h.1)
  | argmax =>
    rw [hfl (.inr rfl)]
    exact hasResult_awaitSpan (hasResult_put h v) (hlen _ _ h.1)
  | _ => exact hasResult_awaitSpan (hasResult_finishFp h v fl) (hlen _ _ (hlen _ _ h.1))

end Issue

/-! ## Completion -/

section Completion
variable {s : State} {w : Nat} {xs ys : List SpanOp} {o : SpanOp}

/-- The first span instruction at its unit, which is its wave's oldest, is the one that completes. -/
theorem exec_spanComplete (h : s.spans = xs ++ o :: ys) (ho : o.wave = (s.waveAt w).token)
    (hxs : ∀ e ∈ xs, ¬(e.die = o.die ∧ e.unit = o.unit) ∧ e.wave ≠ o.wave) : exec (.spanComplete w) s = .next (s.spanEnd w o) := by
  have hwave : (s.spans.find? fun e => e.wave == (s.waveAt w).token) = some o :=
    List.find?_eq_some_iff_append.mpr ⟨beq_iff_eq.mpr ho, xs, ys, h, fun e he => by simpa [ho] using (hxs e he).2⟩
  have hunit : (s.spans.find? fun x => x.die == o.die && x.unit == o.unit) = some o :=
    List.find?_eq_some_iff_append.mpr ⟨by simp, xs, ys, h, fun e he => by simpa [imp_iff_not_or] using (hxs e he).1⟩
  show execSpanComplete w s = _
  unfold execSpanComplete
  rw [hwave]
  dsimp only
  rw [if_pos hunit]

theorem erase_first (h : s.spans = xs ++ o :: ys) (hxs : ∀ e ∈ xs, e.wave ≠ o.wave) : s.spans.erase o = xs ++ ys := by
  rw [h, List.erase_append_right _ fun hmem => hxs o hmem rfl, List.erase_cons_head]

theorem Wave.addFlags_zero (v : Wave) (c : Nat) : v.addFlags c 0 = v := if_pos rfl

theorem Wave.addFlags_landings (v : Wave) (c f : Nat) : (v.addFlags c f).landings = v.landings := by
  rw [Wave.addFlags_rest]

/-- Each element that a pass reads has stood in the span while the instruction ran (R230). -/
theorem SpanOp.reads_seen (h : 1 ≤ o.seen.length) (c p : Nat) : (o.reads c p).length = o.n ∧
    ∀ j, j < o.n → ∃ v ∈ o.seen, (o.reads c p).getD j 0 = spanAt o.ty v j := by
  refine ⟨by rw [SpanOp.reads, List.length_map, List.length_range], fun j hj => ?_⟩
  have hget : ∀ v, v < o.seen.length → o.seen.getD v [] ∈ o.seen := fun v hv => by
    rw [List.getD_eq_getElem _ _ hv]
    exact List.getElem_mem hv
  refine ⟨_, hget (if o.seen.length ≤ 1 then 0 else (Config.freeValue (c + p * o.n + j)).toNat % o.seen.length) ?_, ?_⟩
  · split
    · exact h
    · exact Nat.mod_lt _ h
  · rw [SpanOp.reads, List.getD_eq_getElem _ _ (by simpa using hj)]
    simp

/-- The landing of a span instruction with a result takes it. -/
def SpanKind.lands (kind : SpanKind) (c : Nat) (v : Option Nat) (w : Wave) : Wave :=
  match kind with
  | .topk _ => w
  | _ => w.spanLands c v

theorem SpanKind.lands_of_not_topk {kind : SpanKind} (hk : ∀ m, kind ≠ .topk m) (c : Nat) (v : Option Nat) (w : Wave) :
    kind.lands c v w = w.spanLands c v := by
  cases kind with
  | topk m => exact absurd rfl (hk m)
  | _ => rfl

/-- Of the function only what it makes of the one element counts. -/
theorem updAt_congr {α : Type} (l : List α) (i : Nat) {f g : α → α} {d : α} (h : f (l.getD i d) = g (l.getD i d)) : updAt l i f = updAt l i g := by
  induction l generalizing i with
  | nil => rfl
  | cons a l ih =>
    cases i with
    | zero => exact congrArg (· :: l) h
    | succ i => exact congrArg (a :: ·) (ih i h)

theorem State.updWave_congr {f g : Wave → Wave} (h : f (s.waveAt w) = g (s.waveAt w)) : s.updWave w f = s.updWave w g :=
  congrArg (fun ws => ({ s with waves := ws } : State)) (updAt_congr s.waves w h)

theorem State.spanEnd_untouched (h : s.spans.erase o = xs) (hseen : o.seen.length ≤ 1) :
    s.spanEnd w o = ({ s with spans := xs } : State).updWave w (o.kind.lands s.cycle none) := by
  unfold State.spanEnd
  rw [h]
  exact if_pos hseen

/-- The result, the flags and the landing of a span instruction that another agent wrote into. -/
def State.spanAgain (s : State) (w : Nat) (o : SpanOp) (xs : List SpanOp) : State :=
  ({ s with spans := xs, freeCnt := s.freeCnt + 3 * o.n } : State).updWave w fun v =>
    (o.kind.lands s.cycle (some (o.kind.run (o.reads s.freeCnt)).2.1) v).addFlags s.cycle (o.kind.run (o.reads s.freeCnt)).2.2

theorem State.spanAgain_waveAt (hw : w < s.waves.length) : (s.spanAgain w o xs).waveAt w =
    (o.kind.lands s.cycle (some (o.kind.run (o.reads s.freeCnt)).2.1) (s.waveAt w)).addFlags s.cycle (o.kind.run (o.reads s.freeCnt)).2.2 :=
  State.updWave_at { s with spans := xs, freeCnt := s.freeCnt + 3 * o.n } w _ hw

theorem State.spanEnd_noOut (h : s.spans.erase o = xs) (hseen : 2 ≤ o.seen.length) (hout : o.outLen = 0) : s.spanEnd w o = s.spanAgain w o xs := by
  unfold State.spanEnd
  rw [h]
  exact (if_neg (by omega)).trans (if_pos hout)

theorem State.spanEnd_out (h : s.spans.erase o = xs) (hseen : 2 ≤ o.seen.length) (hout : o.outLen ≠ 0) (hclash : o.clash = false) :
    s.spanEnd w o = (s.spanAgain w o xs).updWg ((s.spanAgain w o xs).waveAt w).wg fun g => g.write o.out (o.kind.run (o.reads s.freeCnt)).1 := by
  unfold State.spanEnd
  rw [h]
  refine (if_neg (by omega)).trans ((if_neg hout).trans ?_)
  rw [hclash]
  rfl

end Completion

end Sys2Proof.Machine
end

section
/-! The span instructions together (07_lanes_spans.md R223-R231). -/
namespace Sys2Proof.Machine
open Sys2Proof Sys2Proof.Safety

section Issue
variable {ins : Instr} {s : State} {sp : Span} {kind : SpanKind} {bs : List Byte} {v fl : Nat}

/-- The elements of a span at issue, as f32 codes. -/
def State.spanCodes (s : State) (sp : Span) : List Nat := (List.range sp.n).map (spanAt sp.ty (s.wg.read sp.base sp.len))

theorem State.spanCodes_length (s : State) (sp : Span) : (s.spanCodes sp).length = sp.n := by
  rw [State.spanCodes, List.length_map, List.length_range]

/-! ## A result for every lane (R225, R226, R229) -/

theorem SpanKind.asked_of_not_topk (hk : ∀ m, kind ≠ .topk m) : kind.asked = 1 := by
  cases kind with
  | topk m => exact absurd rfl (hk m)
  | _ => rfl

theorem State.spanCause_pass (h : s.spanFits sp) {k : Nat} (hk : k = 1) : s.spanCause sp k none = none :=
  State.spanCause_none h (by omega) fun d hd => absurd hd (Option.not_mem_none d)

/-- A span instruction without out span, at its issue. -/
theorem spanRun_gives (h : Issuing s) (hk : ∀ m, kind ≠ .topk m) (hi : exec ins s = .next (s.spanRun sp kind none false))
    (hlines : s.spanLines sp = []) (hfits : s.spanFits sp) (hbusy : s.spanBusy = false)
    (hr : (kind.run fun _ => s.spanCodes sp) = (bs, v, fl)) (hfl : kind = .max ∨ kind = .argmax → fl = 0) : ∃ t, exec ins s = .next t ∧
      t.spans = s.spans ++ [s.spanOp sp kind none false] ∧ HasResult s { t with spans := s.spans } v fl := by
  have hissue : (s.spanOp sp kind none false).atIssue = (bs, v, fl) := hr
  have hcause := State.spanCause_pass hfits (SpanKind.asked_of_not_topk hk)
  have hres := State.spanPut_result h hk v hfl
  have hsame : ∀ u : State, u.spans = s.spans → ({ u with spans := s.spans } : State) = u := fun u hu => by rw [← hu]
  rw [hi, State.spanRun_issues hlines hcause hbusy, State.spanIssue_noOut rfl, hissue]
  exact ⟨_, rfl, rfl, (hsame _ (s.spanPut_spans kind _ _)).symm ▸ hres⟩

/-- What holds a span instruction without out span back, in order. -/
theorem spanRun_held (hk : ∀ m, kind ≠ .topk m) (hi : exec ins s = .next (s.spanRun sp kind none false)) :
    (s.spanLines sp ≠ [] → exec ins s = .next (s.parkPresence (s.spanLines sp))) ∧
    (s.spanLines sp = [] → ¬sp.base % spanSize sp.ty = 0 → exec ins s = .next (s.faultAll (cause 0x23))) ∧
    (s.spanLines sp = [] → sp.base % spanSize sp.ty = 0 → ¬(1 ≤ sp.n ∧ sp.n ≤ 2 ^ 20) → exec ins s = .next (s.faultAll (causeT 0x26 1))) ∧
    (s.spanLines sp = [] → sp.base % spanSize sp.ty = 0 → 1 ≤ sp.n ∧ sp.n ≤ 2 ^ 20 → ¬sp.base + sp.n * spanSize sp.ty ≤ s.wg.spadB →
      exec ins s = .next (s.faultAll (causeT 0x26 3))) ∧
    (s.spanLines sp = [] → sp.base % spanSize sp.ty = 0 → 1 ≤ sp.n ∧ sp.n ≤ 2 ^ 20 → sp.base + sp.n * spanSize sp.ty ≤ s.wg.spadB →
      s.spanBusy = true → Waits ins s) := by
  have hasked := SpanKind.asked_of_not_topk hk
  rw [Waits, hi]
  refine ⟨fun hl => ?_, fun hl hal => ?_, fun hl hal hn => ?_, fun hl hal hn hfit => ?_, fun hl hal hn hfit hbusy => ?_⟩
  · rw [State.spanRun_absent hl]
  · rw [State.spanRun_fault hl (State.spanCause_misaligned hal _)]
  · rw [State.spanRun_fault hl (State.spanCause_count hal hn _)]
  · rw [State.spanRun_fault hl (hasked ▸ State.spanCause_past hal hn hfit)]
  · rw [State.spanRun_waits hl (State.spanCause_pass ⟨hal, hn, hfit⟩ hasked) hbusy]

/-- The span instructions without out span are runs of their kind. -/
theorem exec_span_mem {ty : Ty} {base n st i : Opnd} (h : ins ∈ [.spmax ty base n, .spargmax ty base n, .spsum ty base n, .spsample ty base n st i]) :
    ∃ kind : SpanKind, (∀ m, kind ≠ .topk m) ∧ exec ins s = .next (s.spanRun (s.spanOf ty base n) kind none false) := by
  simp only [List.mem_cons, List.not_mem_nil, or_false] at h
  rcases h with rfl | rfl | rfl | rfl
  · exact ⟨.max, nofun, rfl⟩
  · exact ⟨.argmax, nofun, rfl⟩
  · exact ⟨.sum, nofun, rfl⟩
  · exact ⟨.sample _, nofun, rfl⟩

/-- The greatest element and its index. -/
theorem run_max_argmax {xs : List Nat} (hne : xs ≠ []) : ∃ j,
    (j < xs.length ∧ (∀ p, p < xs.length → spanRank (xs.getD p 0) ≤ spanRank (xs.getD j 0)) ∧
      ∀ p, p < j → spanRank (xs.getD p 0) < spanRank (xs.getD j 0)) ∧
    (SpanKind.max.run fun _ => xs) = ([], if (fDecode .f32 (xs.getD j 0)).isNaN then fNaN .f32 else xs.getD j 0, 0) ∧
    (SpanKind.argmax.run fun _ => xs) = ([], j, 0) := by
  obtain ⟨j, hbest, hj⟩ := spanBest_indexed hne
  refine ⟨j, hj, ?_, ?_⟩ <;> rw [SpanKind.run, hbest] <;> rfl

theorem run_sum (xs : List Nat) : (SpanKind.sum.run fun _ => xs) = ([], (spanSumF xs).1, (spanSumF xs).2) := rfl

theorem run_sample (u : Nat) (xs : List Nat) :
    ((SpanKind.sample u).run fun _ => xs) = ([], (sampleOf u fun _ => xs).1, (sampleOf u fun _ => xs).2) := rfl

/-! ## Out spans (R227, R228) -/

theorem resultsOnly_wg {u : State} {k : Nat} (h : ResultsOnly s u k) : u.wv.wg = s.wv.wg := by
  have hwave := h.wave
  unfold WaveOn at hwave
  rw [hwave]

theorem State.spanLines_of_fits (h : s.spanFits sp) : s.spanLines sp = s.absentOf [(sp.base, sp.len)] := by
  obtain ⟨-, -, hfit⟩ := h
  rw [State.spanLines, min_eq_left (show sp.len ≤ s.wg.spadB - sp.base from Nat.le_sub_of_add_le' hfit)]

theorem overlaps_of_apart {a n b m : Nat} (h : b + m ≤ a ∨ a + n ≤ b) : overlaps a n b m = false := by
  simp only [overlaps, Bool.and_eq_false_iff, decide_eq_false_iff_not]
  omega

/-- A span instruction whose out span does not clash with its span, at its issue. -/
theorem spanRun_writes {d al len k : Nat} (hwg : s.wv.wg < s.wgs.length) (hi : exec ins s = .next (s.spanRun sp kind (some (d, al, len)) false))
    (hlines : s.absentOf [(sp.base, sp.len)] = []) (hfits : s.spanFits sp) (hbusy : s.spanBusy = false) (hasked : 1 ≤ kind.asked ∧ kind.asked ≤ 64)
    (hd : d % al = 0) (hout : d + len ≤ s.wg.spadB) (hlen : len ≠ 0) (hr : (kind.run fun _ => s.spanCodes sp) = (bs, v, fl))
    (hput : ResultsOnly s (s.spanPut kind v fl) k) : ∃ t, exec ins s = .next t ∧
      (t.wg = s.wg.write d bs ∧ ∀ j, j ≠ s.wv.wg → t.wgs[j]? = s.wgs[j]?) ∧ t.spans = s.spans ++ [s.spanOp sp kind (some (d, al, len)) false] ∧
      ({ t with spans := s.spans, wgs := s.wgs } : State) = s.spanPut kind v fl := by
  have hissue : (s.spanOp sp kind (some (d, al, len)) false).atIssue = (bs, v, fl) := hr
  have hcause : s.spanCause sp kind.asked (some (d, al, len)) = none :=
    State.spanCause_none hfits hasked fun e he => Option.mem_some.mp he ▸ ⟨hd, hout⟩
  have hwgs : (s.spanPut kind v fl).wgs = s.wgs := by rw [hput.rest]
  rw [hi, State.spanRun_issues ((State.spanLines_of_fits hfits).trans hlines) hcause hbusy, State.spanIssue_out hlen rfl, hissue]
  refine ⟨_, rfl, ⟨?_, fun j hj => ?_⟩, rfl, ?_⟩
  · show State.wgAt _ (s.spanPut kind v fl).wv.wg = _
    rw [resultsOnly_wg hput]
    refine (State.updWg_at _ s.wv.wg _ (hwgs ▸ hwg)).trans ?_
    exact congrArg (fun gs : List Workgroup => (gs.getD s.wv.wg default).write d _) hwgs
  · refine (updAt_getElem? _ _ _ _).trans ((if_neg hj).trans ?_)
    exact congrArg (fun gs : List Workgroup => gs[j]?) hwgs
  · have hsame : ∀ u : State, u.spans = s.spans → u.wgs = s.wgs → ({ u with spans := s.spans, wgs := s.wgs } : State) = u := fun u hu hg => by
      rw [← hu, ← hg]
    exact hsame _ (s.spanPut_spans ..) hwgs

end Issue

/-! ## The instructions together -/

/-- Settles O15: one run of the checks for every span instruction, its issue with results, landing and out span, and its completion with the values
that its passes read. -/
theorem spans : Obligations.Spans := by
  refine ⟨?results, ?outs, ?completion⟩
  case results =>
    intro s ty base n st i h b k sz aligned counted fits lines xs x at_ u gives best hon
    refine ⟨fun hlines hal hn hfit hbusy => ?issues, fun ins hins => ?held⟩
    case issues =>
      have hfits : s.spanFits (s.spanOf ty base n) := ⟨hal, hn, hfit⟩
      have hgives : ∀ {ins : Instr} {kind : SpanKind} {bs : List Byte} {v fl : Nat} {P : Val → Nat → Prop}, (∀ m, kind ≠ .topk m) →
          exec ins s = .next (s.spanRun (s.spanOf ty base n) kind none false) → (kind.run fun _ => xs) = (bs, v, fl) →
          (kind = .max ∨ kind = .argmax → fl = 0) → P (BitVec.ofNat 256 v) fl → gives ins kind P := by
        intro ins kind bs v fl P hk hi hr hfl hP
        obtain ⟨t, ht, hspans, hres⟩ := spanRun_gives h hk hi hlines hfits hbusy hr hfl
        exact ⟨t, _, _, ht, hspans, hres.only, hres.flags, hres.results, hP⟩
      have hlen : xs.length = k := State.spanCodes_length s (s.spanOf ty base n)
      have hne : xs ≠ [] := List.ne_nil_of_length_pos (by omega)
      obtain ⟨j, hj, hmax, hargmax⟩ := run_max_argmax hne
      rw [hlen] at hj
      refine ⟨hgives nofun rfl hmax (fun _ => rfl) ⟨rfl, j, hj, ?_⟩, hgives nofun rfl hargmax (fun _ => rfl) ⟨rfl, j, hj, ?_⟩,
        hgives nofun rfl (run_sum xs) nofun ⟨rfl, rfl⟩, hgives nofun rfl (run_sample u xs) nofun ⟨rfl, rfl⟩⟩
      · rw [BitVec.toNat_ofNat]
        exact Nat.mod_mod_of_dvd _ (pow_dvd_pow 2 (by decide))
      · exact toNat_ofNat_of_lt (w := 20) (hj.1.trans_le hn.2) (by decide)
    case held =>
      obtain ⟨kind, hk, hi⟩ := exec_span_mem (s := s) hins
      exact spanRun_held hk hi
  case outs =>
    intro s ty out base dst n k tau h hwg b d c kk sz osz xs ready apart writes held
    have hlen : xs.length = c := State.spanCodes_length s (s.spanOf ty base n)
    refine ⟨fun ⟨hal, hc, hc20, hfit, hlines, hbusy⟩ hd hout hapart => ?softmax,
      fun ⟨hal, hc, hc20, hfit, hlines, hbusy⟩ hd hk1 hk64 hout hapart => ?topk⟩
    case softmax =>
      intro r
      have hosz : 0 < osz := by
        show 0 < (OutFmt.elem out).width / 8
        cases out <;> decide
      have hclash : (overlaps b (c * sz) d (c * osz) && !decide (d = b ∧ osz = sz)) = false := by
        rcases hapart with hapart | hsame
        · rw [overlaps_of_apart hapart, Bool.false_and]
        · rw [decide_eq_true hsame, Bool.not_true, Bool.and_false]
      have hi : exec (.spsoftmax ty out base dst n tau) s = .next (s.spanRun (s.spanOf ty base n) (.softmax out (s.uniNat tyF32 tau))
          (some (d, osz, c * osz)) false) := congrArg (fun b => Host.Outcome.next (s.spanRun (s.spanOf ty base n) _ _ b)) hclash
      have hres := State.spanPut_result h (kind := .softmax out (s.uniNat tyF32 tau)) nofun r.2.1 (fl := r.2.2) nofun
      obtain ⟨t, ht, hwrites, hspans, hsame⟩ := spanRun_writes hwg hi hlines ⟨hal, ⟨hc, hc20⟩, hfit⟩ hbusy
        ⟨le_rfl, show 1 ≤ 64 by decide⟩ hd hout (Nat.mul_pos hc hosz).ne' rfl hres.only
      exact ⟨t, ht, hwrites, hspans, hsame ▸ hres.only, fun L hL => (congrArg (fun u => result s u L 0) hsame).trans (hres.results L hL)⟩
    case topk =>
      obtain ⟨hbytes, hempty, p, hrecord, horder⟩ := topk_records kk xs
      rw [hlen] at hempty hrecord horder
      have hi : exec (.sptopk ty base dst n k) s = .next (s.spanRun (s.spanOf ty base n) (.topk kk) (some (d, 8, kk * 8)) false) :=
        congrArg (fun b => Host.Outcome.next (s.spanRun (s.spanOf ty base n) _ _ b)) (overlaps_of_apart hapart)
      obtain ⟨t, ht, hwrites, hspans, hsame⟩ := spanRun_writes hwg hi hlines ⟨hal, ⟨hc, hc20⟩, hfit⟩ hbusy
        ⟨hk1, hk64⟩ hd hout (by omega) rfl (State.spanPut_topk h kk 0 0)
      exact ⟨t, _, ht, hwrites, hbytes, hspans, hsame ▸ State.spanPut_topk h kk 0 0, hempty, p, hrecord, horder⟩
  case completion =>
    intro s w xs ys o hspans ho hfirst sawn
    have hexec := exec_spanComplete hspans ho hfirst
    have herase := erase_first hspans fun e he => (hfirst e he).2
    have hsawn : 2 ≤ o.seen.length → sawn (o.reads s.freeCnt) := fun hseen p => SpanOp.reads_seen (by omega) s.freeCnt p
    refine ⟨fun ⟨kk, hkind⟩ => ⟨fun hseen => ?same, fun hseen hout hclash => ?again⟩,
      fun as bs x hkind hlands has hx => ⟨fun hseen => ?back, fun hseen hout => ?anew⟩⟩
    case same =>
      rw [hexec, State.spanEnd_untouched herase hseen, hkind]
      exact congrArg Host.Outcome.next (State.updWave_fixed rfl)
    case again =>
      have hagain : s.spanAgain w o (xs ++ ys) = { s with spans := xs ++ ys, freeCnt := s.freeCnt + 3 * o.n } := by
        unfold State.spanAgain
        rw [hkind]
        exact State.updWave_fixed (Wave.addFlags_zero ..)
      rw [hexec, State.spanEnd_out herase hseen hout hclash, hagain]
      exact ⟨_, _, hsawn hseen, rfl, rfl, fun hwg => State.updWg_at _ _ _ hwg⟩
    case back =>
      rw [hexec, State.spanEnd_untouched herase hseen]
      exact congrArg Host.Outcome.next (State.updWave_congr (s := { s with spans := xs ++ ys })
        ((SpanKind.lands_of_not_topk hkind ..).trans (Wave.spanLands_eq hlands has hx s.cycle none)))
    case anew =>
      rw [hexec, State.spanEnd_noOut herase hseen hout]
      refine ⟨_, _, hsawn hseen, rfl, rfl, fun j hj => ?_, fun hw => ?_⟩
      · exact (updAt_getElem? _ _ _ _).trans (if_neg hj)
      · rw [State.spanAgain_waveAt hw, Wave.addFlags_landings, SpanKind.lands_of_not_topk hkind, Wave.spanLands_eq hlands has hx]
        rfl



end Sys2Proof.Machine
end

section
/-! The tables of the reset state (08_memory.md R233, 16_traps_preemption.md R417). -/
namespace Sys2Proof.Machine
open Sys2Proof Sys2Proof.Safety

/-- Settles O55: at reset no table lists a key. -/
theorem resetIsCanonical : Obligations.ResetIsCanonical := ⟨rfl, rfl, rfl, rfl, rfl⟩

end Sys2Proof.Machine
end

section
/-! One lane that issues, through entries of its core's translation buffer: a machine in which memory accesses can be run (08_memory.md R237). -/
namespace Sys2Proof.Machine
open Sys2Proof Sys2Proof.Safety

/-- Lane 0 of a wave on core 0 of die 0 issues in a task whose threads have 8 words; the core's translation buffer holds the page of an address. -/
def oneLane (va : Nat) (leaf : Nat) : State :=
  { State.reset with
    wgs := [default]
    waves := [{ (default : Wave) with live := true, lanes := List.replicate 32 { (default : Lane) with frames := [default] } }]
    tasks := [{ (default : Task) with launch := { (default : Launch) with pwords := 8 } }]
    tlb := [{ core := 0, ctx := 0, va := va, lg := 16, leaf := dw leaf, ekey := 0x100000 }]
    issue := { (default : Issue) with mask := 1 } }

/-- A valid leaf entry, readable and writable at user level, with A and D set. -/
def openLeaf (home dpa keyid : Nat) : Nat := 0x3001F + 2 ^ 7 * keyid + 2 ^ 13 * home + dpa / 256 * 2 ^ 24

theorem on_zero {s : State} (h : s.issue.mask = 1) : On s 0 := ⟨by decide, by rw [h]; decide⟩

theorem eq_zero_of_on {s : State} (h : s.issue.mask = 1) {L : Nat} (hL : On s L) : L = 0 := by
  obtain ⟨h32, hm⟩ := hL
  have hfirst : ∀ L < 32, inMask 1 L → L = 0 := by decide
  exact hfirst L h32 (h ▸ hm)

theorem issuing_oneLane {s : State} (h : s.issue.mask = 1) (hw : s.issue.wave < s.waves.length) (hf : (s.wv.lane 0).frames ≠ []) : Issuing s :=
  ⟨hw, fun L hL => by rwa [eq_zero_of_on h hL]⟩

/-- An access of lane 0 alone that nothing holds back. -/
theorem goes_oneLane {s : State} {x : Access} {p : Place} (h : s.issue.mask = 1) (hp : s.placeOf x 0 = .ok p)
    (hpad : s.absentOf (padRanges x.n (s.activeLanes.map (s.placeAt x))) = [])
    (hwait : s.mustWait x.m x.wr x.n (s.activeLanes.map (s.placeAt x)) = false) (hcopies : s.copies = []) (hcalm : s.ckpt.on = false) : Goes s x where
  places := fun L hL => ⟨p, by rwa [eq_zero_of_on h hL]⟩
  present := hpad
  free := hwait
  unheld := fun _ => by rw [State.padHeld, hcopies]; rfl
  calm := hcalm

end Sys2Proof.Machine
end

section
/-! Words of threads whose home frame is retired (01_machine.md R36, 08_memory.md R241, R251, R252, R259). -/
namespace Sys2Proof.Machine
open Sys2Proof Sys2Proof.Safety

/-- The machine with the frame of a byte retired. -/
def State.retire (s : State) (k : Nat) : State := { s with frames := [(frameOf k, 3)] }

def wordMMod (e : Evict) : MMod := { wordMod with evict := e }

/-! ## A store (R251) -/

/-- The wave does not hold its slot, and the words of its threads lie on die 1 in a retired frame. -/
def unslotted : State :=
  ((oneLane 0 (openLeaf 1 0x280000 0)).updWave 0 fun w => { w with live := false }).retire (physKey 1 0x280000)
def unslottedPlace : Phys := { home := 1, dpa := 0x280000, leaf := dw (openLeaf 1 0x280000 0), lg := 16, ekey := 0x100000 }

/-- Refutes O20: the die of a store checks the frame table for its own frames only (R241), and the statement does not ask that the wave that stores
holds its slot. Of a wave that does not, the home of the word takes the store for a line of nobody, and a retired frame drops it: the word still
reads 0, not the 1 that was stored. -/
theorem not_stores : ¬ Obligations.Stores := by
  rintro ⟨-, h⟩
  have hplace : unslotted.placeOf (accessAt (wordMMod .bypass) false true 4 fun L => (unslotted.opnd (addrTy .priv) (.imm 0) L).toNat) 0 =
      .ok (.words [(0, unslottedPlace)]) := by decide +kernel
  obtain ⟨-, -, hword⟩ := h unslotted tyN32 (wordMMod .bypass) (.imm 0) (.imm 1) (issuing_oneLane rfl (by decide) (by decide)) (by decide +kernel)
    (goes_oneLane rfl hplace (by decide +kernel) (by decide +kernel) rfl rfl)
  obtain ⟨-, hhome⟩ := hword 0 0 unslottedPlace rfl rfl (fun M => eq_zero_of_on rfl) (on_zero rfl) (by decide +kernel) (by decide +kernel)
    (by decide +kernel) (by decide +kernel)
  have hnobody : unslotted.waveOf unslotted.wv.token = none := by decide +kernel
  obtain ⟨t, ht, -, -, -, hread⟩ := hhome rfl (by decide +kernel) fun i hi => absurd (hnobody.symm.trans hi) nofun
  have hsame : ∀ t, exec (.st tyN32 (wordMMod .bypass) (.imm 0) (.imm 1)) unslotted = .next t →
      t.wordRead unslotted.gcore unslottedPlace.key = [0, 0, 0, 0] := by
    intro t ht
    cases ht
    decide +kernel
  exact absurd ((hsame t ht).symm.trans hread) (by decide +kernel)

/-! ## A write-back (R259) -/

/-- A dirty line of the wave's own words, whose frame has been retired since it was written. -/
def retiredLine : L1Line :=
  { core := 0, line := 0x280000 / 128, sp := 2, dirty := true, sticky := false, owner := 0, va := 0, keyid := 0, data := List.replicate 128 1 }
def retiredWords : State := ({ oneLane 0 (openLeaf 0 0x280000 0) with l1 := [retiredLine] } : State).retire 0x280000
def retiredPlace : Phys := { home := 0, dpa := 0x280000, leaf := dw (openLeaf 0 0x280000 0), lg := 16, ekey := 0x100000 }

/-- Refutes O22: wbline checks its access as a load (R259), so that it goes on where the frame of the line has been retired, and the home then drops
the line (R36, R241): memory does not hold its bytes. -/
theorem not_blockCopiesLinesAndQueries : ¬ Obligations.BlockCopiesLinesAndQueries := by
  rintro ⟨-, h⟩
  obtain ⟨-, hback, -⟩ := h retiredWords wordMod .global (.imm 0) (.imm 0) (.imm 0) 0 (issuing_oneLane rfl (by decide) (by decide))
  have hplace : retiredWords.placeOf (lineAccess wordMod fun L => (retiredWords.opnd tyN32 (.imm 0) L).toNat) 0 = .ok (.words [(0, retiredPlace)]) := by
    decide +kernel
  have howner : retiredWords.waveOf retiredLine.owner = some 0 := by decide +kernel
  obtain ⟨t, ht, hread, -⟩ := hback 0 0 retiredPlace retiredLine (goes_oneLane rfl hplace (by decide +kernel) (by decide +kernel) rfl rfl)
    (on_zero rfl) (fun M => eq_zero_of_on rfl) (by decide +kernel) (by decide +kernel) rfl rfl fun i hi => by
      cases howner.symm.trans hi
      decide +kernel
  have hdropped : ∀ t, exec (.wbline (.imm 0)) retiredWords = .next t → readBytes t.mem 0x280000 128 = List.replicate 128 0 := by
    intro t ht
    cases ht
    decide +kernel
  exact absurd ((hdropped t ht).symm.trans hread) (by decide)

end Sys2Proof.Machine
end

section
/-! Accesses that nothing holds back, and the memory after loads and stores that reach no byte of their own die (08_memory.md R237, R242, R244, R255). -/
namespace Sys2Proof.Machine
open Sys2Proof Sys2Proof.Safety

/-! ## An access that goes on -/

theorem filterMap_placeOf {s : State} {x : Access} {ls : List Nat} (h : ∀ L ∈ ls, ∃ p, s.placeOf x L = .ok p) :
    ls.filterMap (fun L => (s.placeOf x L).toOption) = ls.map (s.placeAt x) := by
  induction ls with
  | nil => rfl
  | cons L ls ih =>
    obtain ⟨⟨p, hp⟩, hls⟩ := List.forall_mem_cons.mp h
    rw [List.filterMap_cons_some (b := p) (by rw [hp]; rfl), List.map_cons, ih hls, State.placeAt, hp]

theorem State.accessFault_none {s : State} {x : Access} (h : Goes s x) : s.accessFault x = none := by
  have hfault : s.laneFault (fun L => errOf (s.placeOf x L)) x.addr = none := State.laneFault_none (fun L hL => by
    obtain ⟨p, hp⟩ := h.places L hL
    rw [hp, errOf]) _
  rw [State.accessFault, State.walkedFault, hfault]
  rfl

/-- The effect takes place behind the walker's updates. -/
theorem State.access_goes {s : State} {x : Access} (h : Goes s x) (eff : State → State) : s.access x eff = eff (touched s x) := by
  have hpad : s.activeLanes.filterMap (fun L => (s.placeOf x L).toOption) = s.activeLanes.map (s.placeAt x) :=
    filterMap_placeOf fun L hL => h.places L (mem_activeLanes.mp hL)
  have hheld : ¬(x.wr && s.padHeld (padRanges x.n (s.activeLanes.map (s.placeAt x)))) = true := by
    rw [Bool.and_eq_true]
    exact fun hx => Bool.false_ne_true ((h.unheld hx.1).symm.trans hx.2)
  rw [State.access, hpad]
  simp only [h.present, State.accessFault_none h, h.free]
  rw [if_neg nofun, if_neg Bool.false_ne_true, if_neg hheld]
  rfl

/-! ## Memory -/

@[simp] theorem State.hint_mem (s : State) (cache line : Nat) (e : Evict) : (s.hint cache line e).mem = s.mem := by
  unfold State.hint
  split <;> rfl

@[simp] theorem State.l1Note_mem (s : State) (e : Evict) (core line sp : Nat) : (s.l1Note e core line sp).mem = s.mem := by
  unfold State.l1Note
  (repeat' split) <;> rfl

@[simp] theorem State.rdcRead_mem (s : State) (die k : Nat) (e : Evict) : (s.rdcRead die k e).mem = s.mem := by
  simp [State.rdcRead, apply_ite State.mem]

@[simp] theorem State.l1Read_mem (s : State) (m : MMod) (va : Nat) (p : Phys) : (s.l1Read m va p).mem = s.mem := by
  rw [State.l1Read, State.l1Note_mem]
  (repeat' split) <;> rfl

theorem State.afterRead_phys_mem (s : State) (m : MMod) (va : Nat) (p : Phys) : (s.afterRead m (.phys va p)).mem = s.mem := by
  simp [State.afterRead, apply_ite State.mem]

theorem State.acquire_mem (s : State) (o : Ord) (scope : Nat) (sp : Space) : (s.acquire o scope sp).mem = s.mem := by
  simp [State.acquire, State.l1Acquire, apply_ite State.mem]

/-- A load from one place of this device changes no byte. -/
theorem State.loadEff_mem {u : State} {x : Access} {L va : Nat} {p : Phys} (hland : u.issue.land = 0) (hlanes : u.activeLanes = [L])
    (hplace : u.placeAt x L = .phys va p) (hfab : eFab p.leaf = false) : (u.loadEff x).mem = u.mem := by
  have hasks : fabAsks x.m (u.activeLanes.map (u.placeAt x)) = [] := by
    rw [hlanes, List.map_singleton, hplace, fabAsks]
    simp [hfab]
  have hread : (((u.activeLanes.foldl (fun t L => t.afterRead x.m (u.placeAt x L)) u).acquire x.m.ord x.m.scope.toNat x.m.space).fabDrop
      u.wv.token u.issue.loc).mem = u.mem := by
    rw [hlanes, List.foldl_cons, List.foldl_nil, hplace]
    exact (State.acquire_mem ..).trans (State.afterRead_phys_mem ..)
  rw [State.loadEff]
  simp only [hasks, State.withEntries, if_pos hland]
  rw [if_neg (by rw [State.fabReady]; exact nofun)]
  split
  · exact hread
  · exact hread

/-- A store to another die leaves as a message. -/
theorem State.storeEff_mem {u : State} {x : Access} {L va : Nat} {p : Phys} (v : Nat → List Byte) (hplace : u.placeAt x L = .phys va p)
    (hmerged : u.merged = false) (hfab : eFab p.leaf = false) (hdie : p.home ≠ u.wv.die) : (u.storeEff x [L] v).mem = u.mem := by
  have hwrite : (u.globalWrite x.m va p (v L)).mem = u.mem := by
    rw [State.globalWrite, hmerged, hfab]
    simp only [Bool.false_and, Bool.false_eq_true, if_false]
    rw [if_pos]
    · exact (State.hint_mem ..).trans (State.l1Note_mem ..)
    · have hwv : ∀ c e, ((u.l1Note x.m.evict c (lineOf p.key) x.m.space.code).hint 8 (lineOf p.key) e).wv = u.wv := fun c e =>
        ((u.l1Note_l1Only ..).trans (.of_besideMem (State.hint_besideMem ..))).wv
      rw [hwv]
      exact bne_iff_ne.mpr hdie
  rw [State.storeEff, List.foldl_cons, List.foldl_nil, hplace]
  exact hwrite

end Sys2Proof.Machine
end

section
/-! Accesses of types that have no bytes, to a line that stands under another key ID than that of its page (01_machine.md R22, 08_memory.md R235,
R242, R253). -/
namespace Sys2Proof.Machine
open Sys2Proof Sys2Proof.Safety

-- The cipher and the state are evaluated one lemma after another: side by side they take too much memory.
set_option Elab.async false

/-- Page 0 lies on die 1 under key ID 1, and the line of its first byte stands under key ID 0. -/
@[irreducible] def otherKey : State :=
  let s := oneLane 0 (openLeaf 1 0x210000 1)
  { s with trust := { s.trust with kss := 0 } }
def otherKeyPlace : Phys := { home := 1, dpa := 0x210000, leaf := dw (openLeaf 1 0x210000 1), lg := 16, ekey := 0x100000 }
theorem otherKey_mask : otherKey.issue.mask = 1 := by decide +kernel

/-- The line of the page's first byte. -/
def otherKeyLine : Nat := otherKeyPlace.key / 128

def globalMMod : MMod := { wordMod with space := .global }

/-- An access of no bytes to address 0: it is aligned, and the walker meets the line of its first byte all the same. -/
def emptyAccess (rd wr : Bool) : Access :=
  accessAt globalMMod rd wr Ty.none.bytes fun L => (otherKey.opnd (addrTy globalMMod.space) (.imm 0) L).toNat

theorem otherKey_issuing : Issuing otherKey := issuing_oneLane otherKey_mask (by decide +kernel) (by decide +kernel)

theorem otherKey_activeLanes : otherKey.activeLanes = [0] := by decide +kernel

theorem emptyAccess_placeOf (rd wr : Bool) : otherKey.placeOf (emptyAccess rd wr) 0 = .ok (.phys 0 otherKeyPlace) := by
  cases rd <;> cases wr <;> decide +kernel

theorem emptyAccess_placeAt (rd wr : Bool) : otherKey.placeAt (emptyAccess rd wr) 0 = .phys 0 otherKeyPlace := by
  rw [State.placeAt, emptyAccess_placeOf]

theorem emptyAccess_goes (rd wr : Bool) : Goes otherKey (emptyAccess rd wr) := by
  refine goes_oneLane otherKey_mask (emptyAccess_placeOf rd wr) ?_ ?_ (by decide +kernel) (by decide +kernel) <;> cases rd <;> cases wr <;> decide +kernel

/-- No line lies in the `n` = 0 bytes from the page's first one, so that this byte is none that the access may change. -/
theorem emptyAccess_entryByte (rd wr : Bool) : ¬EntryByte otherKey (emptyAccess rd wr) otherKeyPlace.key := by
  rintro ⟨L, p, hL, hp, hw⟩
  rw [eq_zero_of_on otherKey_mask hL, emptyAccess_placeAt, physOf, List.mem_singleton] at hp
  subst hp
  have hn : (emptyAccess rd wr).n = 0 := rfl
  revert hw
  rw [hn]
  unfold WalkByte inRun
  decide +kernel

/-! ## The line is met -/

/-- The walker finds the page in the translation buffer, with A and D set, and meets the line. -/
theorem otherKey_touched (rd wr : Bool) : touched otherKey (emptyAccess rd wr) = otherKey.viewAs (otherKeyLine * 128) 1 := by
  have hleaf : ∀ w : Bool, otherKeyPlace.leaf ||| (if w = true then 0x30000 else 0x10000) = otherKeyPlace.leaf := by decide +kernel
  have hfind : otherKey.tlbFind 0 0 0 = some { core := 0, ctx := 0, va := 0, lg := 16, leaf := otherKeyPlace.leaf, ekey := 0x100000 } := by
    decide +kernel
  have hacc : ∀ a : Acc, a.core = 0 → a.ctx = 0 → otherKey.touch a 0 otherKeyPlace = otherKey.meet otherKeyPlace 1 := by
    intro a hcore hctx
    rw [State.touch]
    simp only [hcore, hctx, hleaf, hfind, Option.isNone_some, Bool.false_eq_true, if_false, beq_self_eq_true, if_true]
  have hmeet : otherKey.meet otherKeyPlace 1 = otherKey.meetKey otherKeyPlace.key 1 1 := if_neg (by decide +kernel)
  have hlines : (List.range ((otherKeyPlace.key + 1 - 1) / 128 + 1 - otherKeyPlace.key / 128)) = [0] := by decide +kernel
  rw [touched, otherKey_activeLanes, List.map_singleton, List.foldl_cons, List.foldl_nil, emptyAccess_placeAt, State.touchPlace,
    hacc _ (by decide +revert +kernel) (by decide +revert +kernel), hmeet, State.meetKey, if_neg (by decide +kernel), hlines]
  rfl

/-! ## The keys of the line (R482) -/

/-- The memory keys of key IDs 0 and 1 under the secret 0. -/
def zeroSecretKey0 : List Byte := bytesOfNat 64
  0x61ac18bcb5df99bd06d87486a28662195dd0982cf75e3ffe6f7a71ab67186b21db820bd4a21685d117f7961afff9535047474da01b82be7652d0925921611585
def zeroSecretKey1 : List Byte := bytesOfNat 64
  0x1aad2b865f0301322cacf864da1f7a57fd2357c039fcaa2884c8b083ac5fcc9e72f574ce584654b9159177c2149268092118511b25ef8a08df8c573b732c057a

/-- A line of zeros that was stored under key ID 0 reads otherwise under key ID 1, in its first byte already. (The evaluation goes in steps: the keys
of R482, the tweaks, and the first block.) -/
theorem otherKey_lineUnder : (otherKey.lineUnder otherKeyLine 1).getD 0 0 ≠ 0 := by
  have hstands : (cget (zeros 6) otherKey.keyids otherKeyLine).toNat = 0 := by decide +kernel
  have hzero : readBytes otherKey.mem (otherKeyLine * 128) 128 = List.replicate 128 0 := by decide +kernel
  have hkey0 : otherKey.memKey 0 = zeroSecretKey0 := by decide +kernel
  have hkey1 : otherKey.memKey 1 = zeroSecretKey1 := by decide +kernel
  have htweak0 : xtsTweak (xtsKeys zeroSecretKey0) (otherKeyLine * 128) = 0x133ca16fa0d08f2fe26c8c4e8c44dca0 := by decide +kernel
  have htweak1 : xtsTweak (xtsKeys zeroSecretKey1) (otherKeyLine * 128) = 0xf1435875f3c2dca49c2e4b11445e48d3 := by decide +kernel
  rw [State.lineUnder, hstands, if_neg (by decide), hkey0, hkey1, hzero, xtsDec, xtsEnc, htweak0, htweak1]
  decide +kernel

theorem otherKey_viewAs_byteAt : byteAt (otherKey.viewAs (otherKeyLine * 128) 1) otherKeyPlace.key ≠ byteAt otherKey otherKeyPlace.key := by
  have hmem : (otherKey.viewAs (otherKeyLine * 128) 1).mem = writeBytes otherKey.mem otherKeyPlace.key (otherKey.lineUnder otherKeyLine 1) := by
    have hkey : 128 * otherKeyLine = otherKeyPlace.key := by decide
    rw [State.viewAs_other (by decide +kernel), hkey]
  have hbyte := cget_writeBytes_at otherKey.mem otherKeyPlace.key (otherKey.lineUnder otherKeyLine 1) (i := 0)
    (by rw [State.lineUnder_length]; decide)
  rw [Nat.add_zero] at hbyte
  have hold : byteAt otherKey otherKeyPlace.key = 0 := by decide +kernel
  rw [byteAt, hmem, hbyte, hold]
  exact otherKey_lineUnder

/-- What has happened to the line when an access of no bytes has gone on. -/
theorem emptyAccess_changes_line {i : Instr} {t : State} {rd wr : Bool} {eff : State → State}
    (hi : exec i otherKey = .next (otherKey.access (emptyAccess rd wr) eff)) (ht : exec i otherKey = .next t)
    (heff : (eff (touched otherKey (emptyAccess rd wr))).mem = (touched otherKey (emptyAccess rd wr)).mem) :
    byteAt t otherKeyPlace.key ≠ byteAt otherKey otherKeyPlace.key := by
  obtain rfl : t = eff (touched otherKey (emptyAccess rd wr)) :=
    Host.Outcome.next.inj (ht.symm.trans (hi.trans (congrArg Host.Outcome.next (State.access_goes (emptyAccess_goes rd wr) eff))))
  rw [byteAt, heff, otherKey_touched]
  exact otherKey_viewAs_byteAt

/-- Meeting the line leaves everything but memory and its key ID. -/
theorem otherKey_viewAs_rest : otherKey.viewAs (otherKeyLine * 128) 1 =
    { otherKey with mem := (otherKey.viewAs (otherKeyLine * 128) 1).mem, keyids := (otherKey.viewAs (otherKeyLine * 128) 1).keyids } :=
  (otherKey.viewAs_met otherKeyLine (by decide)).rest

/-- The accesses of the lane. -/
def emptyAcc (rd wr : Bool) : Acc := otherKey.accOf otherKey.wv .global rd wr

theorem emptyAcc_leafCause (rd wr : Bool) : leafCause (emptyAcc rd wr) otherKeyPlace = none := by decide +revert +kernel
theorem emptyAcc_tlbFind (rd wr : Bool) : otherKey.tlbFind (emptyAcc rd wr).core (emptyAcc rd wr).ctx 0 =
    some { core := 0, ctx := 0, va := 0, lg := 16, leaf := otherKeyPlace.leaf, ekey := 0x100000 } := by decide +revert +kernel
theorem emptyAcc_away (rd wr : Bool) : (otherKeyPlace.home == (emptyAcc rd wr).die) = false := by decide +revert +kernel

/-- The place is found as before, in the translation buffer: what memory holds does not matter. -/
theorem otherKey_xlate (mem : Cells 8) (keyids : Cells 6) (rd wr : Bool) :
    State.xlate { otherKey with mem := mem, keyids := keyids } (emptyAcc rd wr) 0 = .ok otherKeyPlace := by
  have hfind : State.tlbFind { otherKey with mem := mem, keyids := keyids } (emptyAcc rd wr).core (emptyAcc rd wr).ctx 0 =
      some { core := 0, ctx := 0, va := 0, lg := 16, leaf := otherKeyPlace.leaf, ekey := 0x100000 } := emptyAcc_tlbFind rd wr
  have hdirty : eD otherKeyPlace.leaf = true := by decide +kernel
  have hplace : State.place { otherKey with mem := mem, keyids := keyids } (emptyAcc rd wr) 0 = .ok otherKeyPlace := by
    rw [State.place, if_neg (by decide)]
    simp only [hfind, hdirty, Bool.not_true, Bool.and_false, Bool.false_and, Bool.false_eq_true, if_false]
    decide +kernel
  rw [State.xlate, hplace]
  simp only [emptyAcc_leafCause, emptyAcc_away, Bool.and_false, Bool.false_and, Bool.false_eq_true, if_false]

theorem otherKey_placeOf (mem : Cells 8) (keyids : Cells 6) (rd wr : Bool) :
    State.placeOf { otherKey with mem := mem, keyids := keyids } (emptyAccess rd wr) 0 = .ok (.phys 0 otherKeyPlace) := by
  have hloc : State.placeOf { otherKey with mem := mem, keyids := keyids } (emptyAccess rd wr) 0 =
      match State.xlate { otherKey with mem := mem, keyids := keyids } (emptyAcc rd wr) 0 with
      | .error c => .error c
      | .ok p => .ok (.phys 0 p) := rfl
  rw [hloc, otherKey_xlate]

theorem otherKey_merged (mem : Cells 8) (keyids : Cells 6) : State.merged { otherKey with mem := mem, keyids := keyids } = false := by
  have h : otherKey.merged = false := by decide +kernel
  exact h

section
variable (rd wr : Bool)

theorem touched_besideMem (s : State) (x : Access) : (touched s x).besideMem = s.besideMem :=
  besideMem_foldl _ _ fun s pl => State.touchPlace_besideMem s _ pl

theorem touched_placeAt : (touched otherKey (emptyAccess rd wr)).placeAt (emptyAccess rd wr) 0 = .phys 0 otherKeyPlace := by
  rw [otherKey_touched, State.placeAt, otherKey_viewAs_rest, otherKey_placeOf]

theorem touched_serves : ∀ L, On otherKey L → ((touched otherKey (emptyAccess rd wr)).placeAt (emptyAccess rd wr) L).isFab = false ∧
    (touched otherKey (emptyAccess rd wr)).placeBad globalMMod Ty.none.bytes ((touched otherKey (emptyAccess rd wr)).placeAt (emptyAccess rd wr) L) = false := by
  intro L hL
  have huncorr : (touched otherKey (emptyAccess rd wr)).uncorr otherKeyPlace.key = false :=
    ((L1Only.of_besideMem (touched_besideMem ..)).uncorr _).trans (by decide +kernel)
  rw [eq_zero_of_on otherKey_mask hL, touched_placeAt, State.placeBad, huncorr, Bool.and_false, Bool.false_and]
  exact ⟨by decide +kernel, rfl⟩

theorem touched_issue : (touched otherKey (emptyAccess rd wr)).issue = otherKey.issue := (L1Only.of_besideMem (touched_besideMem ..)).issue

theorem touched_activeLanes : (touched otherKey (emptyAccess rd wr)).activeLanes = [0] := by
  rw [State.activeLanes, touched_issue]
  exact otherKey_activeLanes

end

/-- Refutes O19: the statement takes every type, those without bytes (none and frag) too. A load of no bytes reads nothing, but the line of its first
byte is met under the key ID of its page, and reads otherwise from then on where it stood under another. -/
theorem not_loads : ¬ Obligations.Loads := by
  intro h
  obtain ⟨hld, -⟩ := h otherKey .none globalMMod (.imm 0) otherKey_issuing
  obtain ⟨-, -, hload⟩ := hld (emptyAccess_goes true false)
  have hland : (touched otherKey (emptyAccess true false)).issue.land = 0 := (congrArg Issue.land (touched_issue true false)).trans (by decide +kernel)
  obtain ⟨t, ht, ⟨-, -, hkeeps, -⟩, -⟩ := hload nofun (.inl hland) (touched_serves true false)
  exact emptyAccess_changes_line rfl ht
    (State.loadEff_mem hland (touched_activeLanes true false) (touched_placeAt true false) (by decide +kernel))
    (hkeeps _ (emptyAccess_entryByte true false))

/-- Refutes O27: as with loads, a store of no bytes to another die leaves as a message, but the line of its first byte is met under the key ID of its
page. -/
theorem not_remoteStoresAndReductions : ¬ Obligations.RemoteStoresAndReductions := by
  intro h
  obtain ⟨hstore, -⟩ := h otherKey .none globalMMod 0 (.imm 0) (.imm 0) 0 0 otherKeyPlace otherKey_issuing (on_zero otherKey_mask) (fun M => eq_zero_of_on otherKey_mask)
    (by decide +kernel) (by decide +kernel) (by decide +kernel)
  obtain ⟨t, -, ht, -, -, -, -, -, -, -, -, -, -, hkeeps, -⟩ := hstore (emptyAccess_goes false true) (touched_placeAt false true)
  have hmerged : (touched otherKey (emptyAccess false true)).merged = false := by
    rw [otherKey_touched, otherKey_viewAs_rest, otherKey_merged]
  have hdie : otherKeyPlace.home ≠ (touched otherKey (emptyAccess false true)).wv.die := by
    rw [(L1Only.of_besideMem (touched_besideMem ..)).wv]
    decide +kernel
  have hmem := State.storeEff_mem (fun L => bytesOfVal Ty.none.bytes (otherKey.opnd .none (.imm 0) L)) (touched_placeAt false true) hmerged
    (by decide +kernel) hdie
  rw [← touched_activeLanes false true] at hmem
  exact emptyAccess_changes_line rfl ht hmem (hkeeps _ (emptyAccess_entryByte false true))

end Sys2Proof.Machine
end

section
/-! What a write of the device itself leaves as it was (08_memory.md R237, R241, 16_traps_preemption.md R425, 17_checkpoint.md R452, R453). -/
namespace Sys2Proof.Machine
open Sys2Proof Sys2Proof.Safety

/-- The state without what a write at its home can change: the memory and the tables about its lines, the writes that wait at their homes, and the
running capture. -/
def State.sansMem (s : State) : State :=
  { s with mem := [], keyids := [], shr := [], rdc := [], rdcFills := [], held := [], nextId := 0, ckpt := default }

@[simp] theorem State.sansMem_with (s : State) (mem keyids shr rdc rdcFills held nextId ckpt) :
    State.sansMem { s with mem := mem, keyids := keyids, shr := shr, rdc := rdc, rdcFills := rdcFills, held := held, nextId := nextId, ckpt := ckpt } =
      s.sansMem := (rfl)

@[simp] theorem State.sansMem_ite (c : Prop) [Decidable c] (a b : State) : (if c then a else b).sansMem = if c then a.sansMem else b.sansMem :=
  apply_ite State.sansMem c a b

@[simp] theorem sansMem_foldl {α : Type} {f : State → α → State} (l : List α) (s : State) (h : ∀ s x, (f s x).sansMem = s.sansMem) :
    (l.foldl f s).sansMem = s.sansMem :=
  List.foldlRecOn (motive := fun t : State => t.sansMem = s.sansMem) l f rfl fun t ht x _ => (h t x).trans ht

@[simp] theorem State.viewAs_sansMem (s : State) (key k : Nat) : (s.viewAs key k).sansMem = s.sansMem := by
  simp [State.viewAs]

@[simp] theorem State.meetKey_sansMem (s : State) (k n i : Nat) : (s.meetKey k n i).sansMem = s.sansMem := by
  simp [State.meetKey]

@[simp] theorem State.meet_sansMem (s : State) (p : Phys) (n : Nat) : (s.meet p n).sansMem = s.sansMem := by
  simp [State.meet]

@[simp] theorem State.pokeBytes_sansMem (s : State) (k : Nat) (bs : List Byte) : (s.pokeBytes k bs).sansMem = s.sansMem := by
  simp [State.pokeBytes, State.invalidateSharers]

@[simp] theorem State.stagingTouch_sansMem (s : State) (p : Phys) : (s.stagingTouch p).sansMem = s.sansMem := by
  simp [State.stagingTouch]

/-- The definition takes its place as a function, as in `State.stageFrame_outside`. -/
@[simp] theorem State.stageFrame_sansMem (s : State) (frame slot : Nat) : (s.stageFrame frame slot).sansMem = s.sansMem := by
  generalize h : State.stageFrame = f
  delta State.stageFrame at h
  subst h
  beta_reduce
  split
  · exact State.sansMem_with ..
  · next p _ =>
    exact (State.sansMem_with ..).trans
      ((State.stagingTouch_sansMem _ p).trans ((State.sansMem_with ..).trans (State.sansMem_with ..)))

@[simp] theorem State.homeWriteBy_sansMem (s : State) (core : Option Nat) (k : Nat) (bs : List Byte) :
    (s.homeWriteBy core k bs).sansMem = s.sansMem := by
  unfold State.homeWriteBy State.homePut
  (repeat' split) <;> simp

@[simp] theorem State.homeWrite_sansMem (s : State) (k : Nat) (bs : List Byte) : (s.homeWrite k bs).sansMem = s.sansMem :=
  State.homeWriteBy_sansMem s none k bs

@[simp] theorem State.markLeaf_sansMem (s : State) (p : Phys) (wr : Bool) : (s.markLeaf p wr).sansMem = s.sansMem := by
  simp [State.markLeaf]

@[simp] theorem State.ctxWrite_sansMem (s : State) (ctx va : Nat) (bs : List Byte) : (s.ctxWrite ctx va bs).sansMem = s.sansMem := by
  unfold State.ctxWrite
  split <;> simp

theorem State.ctxWrite_sys (s : State) (ctx va : Nat) (bs : List Byte) : (s.ctxWrite ctx va bs).sys = s.sys :=
  (congrArg State.sys (State.ctxWrite_sansMem s ctx va bs) :)

theorem State.ctxWrite_notices (s : State) (ctx va : Nat) (bs : List Byte) : (s.ctxWrite ctx va bs).notices = s.notices :=
  (congrArg State.notices (State.ctxWrite_sansMem s ctx va bs) :)

end Sys2Proof.Machine
end

section
/-! Reading and writing system registers (08_memory.md R243, 09_atomics_sync.md R299, 16_traps_preemption.md R417, R418, R425, R441, R485). -/
namespace Sys2Proof.Machine
open Sys2Proof Sys2Proof.Safety

/-! ## Bits of a register -/

theorem bit_eq_getLsbD (v : Dword) (n : Nat) : bit v n = v.getLsbD n := by
  simp [bit, bits, BitVec.getLsbD, Nat.testBit_eq_decide_div_mod_eq, BEq.beq]

/-- Bit 62 of a register takes a value, and bit 63 is as it was. -/
theorem setBits_bit62_getLsbD63 (v : Dword) (n : Nat) : (setBits v 62 1 n).getLsbD 63 = v.getLsbD 63 := by
  have hv := v.isLt
  rw [← bit_eq_getLsbD, ← bit_eq_getLsbD, bit, bit, bits, bits, setBits, bits, dw, BitVec.toNat_ofNat]
  congr 1
  omega

/-- Under a mask whose low bits are set, the low bits of a word are as they were. -/
theorem bits_and_low {v m : Dword} {w : Nat} (hm : m.toNat % 2 ^ w = 2 ^ w - 1) : bits (v &&& m) 0 w = v.toNat % 2 ^ w := by
  rw [bits, pow_zero, Nat.div_one, BitVec.toNat_and, Nat.and_mod_two_pow, hm, Nat.and_two_pow_sub_one_eq_mod, Nat.mod_mod]

/-! ## Copies -/

/-- Codes have 12 bits, so that a write to one register leaves every other one as it was. -/
theorem State.sysSet_get_other (s : State) (v : Dword) {cp c cp' c' : Nat} (hc : c < 4096) (hc' : c' < 4096) (h : (cp', c') ≠ (cp, c)) :
    (s.sysSet cp c v).sysGet cp' c' = s.sysGet cp' c' := by
  rw [State.sysSet_get, if_neg]
  intro he
  exact h (Prod.ext (by simp only; omega) (by simp only; omega))

@[simp] theorem State.sysSet_get_same (s : State) (cp c : Nat) (v : Dword) : (s.sysSet cp c v).sysGet cp c = v := by
  rw [State.sysSet_get, if_pos rfl]

/-- The copy that a code names (R417, R456), with its ranges written out. -/
theorem sysCopy_eq (die ctx c : Nat) :
    sysCopy die ctx c =
      if c = 1 ∨ c = 2 ∨ (8 ≤ c ∧ c ≤ 0x00D) ∨ c = 0x028 ∨ c = 0x029 ∨ (0x048 ≤ c ∧ c ≤ 0x057) ∨ (0x060 ≤ c ∧ c ≤ 0x07F) then 0
      else if 0x010 ≤ c ∧ c ≤ 0x01D then 9 + ctx else 1 + die := by
  simp [sysCopy, sysIsPackage, sysIsContext, or_assoc]

theorem sysCodeRC_iff {c : Nat} : sysCodeRC c = true ↔ c = 0x015 ∨ c = 0x01D ∨ c = 0x021 ∨ c = 0x022 := by
  simp [sysCodeRC, or_assoc]

/-- Codes whose write starts something (R417). -/
def sysStarts (c : Nat) : Prop :=
  c = 0x00B ∨ c = 0x01A ∨ c = 0x028 ∨ (0x050 ≤ c ∧ c ≤ 0x057) ∨ (0x070 ≤ c ∧ c ≤ 0x07F) ∨ (0x0B0 ≤ c ∧ c ≤ 0x0BF)

/-- A write that starts nothing takes the bits that the register has. -/
theorem State.sysWrite_plain (s : State) (d ctx actx : Nat) {c : Nat} (v : Dword) (h : ¬sysStarts c) :
    s.sysWrite d ctx actx c v = if sysMask c = 0 then s else s.sysSet (sysCopy d ctx c) c (v &&& sysMask c) := by
  simp only [sysStarts, not_or] at h
  obtain ⟨hload, hwctl, hcut, hwindow, hca, hgrant⟩ := h
  rw [State.sysWrite, if_neg hload, if_neg hwctl, if_neg hcut, if_neg hwindow, if_neg hca, if_neg hgrant]

/-! ## sysrd and syswr (R417, R441) -/

theorem State.sysClear_eq (s : State) (d ctx c : Nat) : s.sysClear d ctx c = { s with sys := (s.sysClear d ctx c).sys } := by
  unfold State.sysClear
  split <;> rfl

/-- sysrd: every lane takes the value, and an RC register is cleared. -/
theorem sysrd_results {s : State} (code : BitVec 30) (h : Issuing s) :
    ∃ t, exec (.sysrd code) s = .next t ∧ ResultsOnly { s with sys := t.sys } t 1 ∧ t.sys = (s.sysClear s.wv.die s.ctx code.toNat).sys ∧
      ∀ L, On s L → result s t L 0 = (s.sysRead s.wv.die s.ctx code.toNat).setWidth 256 := by
  have hclear := State.sysClear_eq s s.wv.die s.ctx code.toNat
  revert hclear
  generalize hu : s.sysClear s.wv.die s.ctx code.toNat = u
  intro hclear
  have hi : Issuing u := hclear ▸ h
  have hon : ∀ L, On s L → On u L := fun L hL => hclear ▸ hL
  refine ⟨u.put fun _ => (s.sysRead s.wv.die s.ctx code.toNat).setWidth 256, by rw [← hu]; rfl, ?_, rfl, fun L hL => ?_⟩
  · exact hclear ▸ State.finish_only u _ 1 hi fun _ _ => le_refl _
  · have := State.finish_result u (fun _ => [(s.sysRead s.wv.die s.ctx code.toNat).setWidth 256]) hi (hon L hL) (k := 0) (by simp)
    rw [hclear] at this
    exact hclear ▸ this

/-- The word that syswr writes. -/
def State.sysWord (s : State) (v : Opnd) : Dword := BitVec.ofNat 64 (s.uniNat tyN64 v)

theorem exec_syswr_quiet {s : State} (code : BitVec 30) (v : Opnd) (hq : s.quiet = true) :
    exec (.syswr code v) s = .next ((s.sysWrite s.wv.die s.ctx s.ctx code.toNat (s.sysWord v)).l1Acquire s.gcore).done := by
  have h : exec (.syswr code v) s = execSyswr code v s := rfl
  rw [h, execSyswr, hq, State.sysWord, State.uniNat, BitVec.ofNat_toNat]
  rfl

/-- syswr completes behind what the write starts, with the space 0 lines of its core invalidated. -/
theorem syswr_results {s u : State} (code : BitVec 30) (v : Opnd) (hq : s.quiet = true)
    (hu : s.sysWrite s.wv.die s.ctx s.ctx code.toNat (s.sysWord v) = u) (h : Issuing u) :
    ∃ t, exec (.syswr code v) s = .next t ∧ ResultsOnly { u with l1 := t.l1 } t 0 ∧ t.sys = u.sys := by
  refine ⟨(u.l1Acquire s.gcore).done, by rw [exec_syswr_quiet code v hq, hu], ?_, rfl⟩
  exact State.finish_only (u.l1Acquire s.gcore) (fun _ => []) 0 h fun _ _ => le_refl _

/-- A write that starts nothing (R417). -/
theorem syswr_plain {s : State} (code : BitVec 30) (v : Opnd) (h : Issuing s) (hq : s.quiet = true) (hstarts : ¬sysStarts code.toNat) :
    ∃ t, exec (.syswr code v) s = .next t ∧ ResultsOnly { s with sys := t.sys, l1 := t.l1 } t 0 ∧
      t.sys = if sysMask code.toNat = 0 then s.sys
        else (s.sysSet (sysCopy s.wv.die s.ctx code.toNat) code.toNat (s.sysWord v &&& sysMask code.toNat)).sys := by
  have hwrite := State.sysWrite_plain s s.wv.die s.ctx s.ctx (s.sysWord v) hstarts
  by_cases hmask : sysMask code.toNat = 0
  · rw [if_pos hmask] at hwrite ⊢
    obtain ⟨t, ht, honly, hsys⟩ := syswr_results code v hq hwrite h
    exact ⟨t, ht, by rwa [hsys], hsys⟩
  · rw [if_neg hmask] at hwrite ⊢
    obtain ⟨t, ht, honly, hsys⟩ := syswr_results code v hq hwrite h
    exact ⟨t, ht, by rw [hsys]; exact honly, hsys⟩

/-- LDGO queues the request of LDADDR, LDLEN and the written bits (R127, R417). -/
theorem syswr_ldgo {s : State} (code : BitVec 30) (v : Opnd) (h : Issuing s) (hq : s.quiet = true) (hc : code.toNat = 0x00B) :
    ∃ t, exec (.syswr code v) s = .next t ∧
      let q := if (s.sysWord v).getLsbD 1 then LoadReq.unload (s.sysGet 0 0x009).toNat
        else .load (!(s.sysWord v).getLsbD 0) (s.sysGet 0 0x009) (s.sysGet 0 0x00A).toNat s.ctx
      ResultsOnly { s with loads := s.loads ++ [q], l1 := t.l1 } t 0 := by
  have hwrite : s.sysWrite s.wv.die s.ctx s.ctx code.toNat (s.sysWord v) = s.queueLoad (s.sysWord v) s.ctx := by
    rw [State.sysWrite, if_pos hc]
  obtain ⟨t, ht, honly, -⟩ := syswr_results code v hq hwrite h
  refine ⟨t, ht, ?_⟩
  rw [State.queueLoad, bit_eq_getLsbD, bit_eq_getLsbD] at honly
  exact honly

/-- REQ asks for a cut (R438). -/
theorem syswr_req {s : State} (code : BitVec 30) (v : Opnd) (h : Issuing s) (hq : s.quiet = true) (hc : code.toNat = 0x028) (hst : s.cut.st = 0)
    (hreq : (s.sysWord v).getLsbD 0 = true) :
    ∃ t, exec (.syswr code v) s = .next t ∧
      ResultsOnly { s with l1 := t.l1, cut := { st := 1, kcut := s.cut.kcut, since := s.cycle, task := 0, ctx := s.ctx } } t 0 := by
  have hwrite : s.sysWrite s.wv.die s.ctx s.ctx code.toNat (s.sysWord v) =
      { s with cut := { st := 1, kcut := s.cut.kcut, since := s.cycle, task := 0, ctx := s.ctx } } := by
    have hheld : ¬(s.cut.st = 3 ∧ bit (s.sysWord v) 1 = true) := fun h => absurd (hst.symm.trans h.1) (by decide)
    rw [hc, State.sysWrite, if_neg (by decide), if_neg (by decide), if_pos rfl, if_neg hheld, bit_eq_getLsbD, if_pos hreq, State.cutAsk,
      if_neg (not_not.mpr hst)]
  obtain ⟨t, ht, honly, -⟩ := syswr_results code v hq hwrite h
  exact ⟨t, ht, honly⟩

/-! ## The management window (R485) -/

theorem sysregWrite_plain {s : State} {copy c : Nat} (x : Dword) (hcopy : copy ≤ 72) (hlisted : sysCodeListed c = true) (hctx : c ≠ 0x003)
    (hnames : copy = sysCopy (copy - 1) (copy - 9) c) (hstarts : ¬sysStarts c) (hmask : sysMask c ≠ 0) (hok : (s.dieAt 0).ok = true) :
    exec (.sysregWrite copy c x) s = .next (s.sysSet copy c (x &&& sysMask c)) := by
  have h : exec (.sysregWrite copy c x) s = execSysregWrite copy c x s := rfl
  rw [h, execSysregWrite, if_pos ⟨hok, hcopy, hlisted, hctx, hnames⟩, State.sysWrite_plain _ _ _ _ _ hstarts, if_neg hmask, ← hnames]

/-! ## Grants and windows (R243, R299) -/

theorem exec_fgcWrite {s : State} {d n : Nat} (x : Dword) (hd : d < 8) (hn : n < 16) : exec (.fgcWrite d n x) s = .next (s.fgcSet d n x) :=
  congrArg Host.Outcome.next (if_pos ⟨hd, hn⟩)

/-- EN lies among the bits that a write of FGC or RDWC reaches. -/
theorem bit63_grantMask (x : Dword) : bit (x &&& sysMask 0x0B0) 63 = bit x 63 := by
  rw [bit_eq_getLsbD, bit_eq_getLsbD, BitVec.getLsbD_and, show (sysMask 0x0B0).getLsbD 63 = true from by decide, Bool.and_true]

theorem bit63_windowMask (x : Dword) : bit (x &&& sysMask 0x050) 63 = bit x 63 := by
  rw [bit_eq_getLsbD, bit_eq_getLsbD, BitVec.getLsbD_and, show (sysMask 0x050).getLsbD 63 = true from by decide, Bool.and_true]

theorem State.fgcRefused_iff (s : State) (d n : Nat) (x : Dword) : s.fgcRefused d n (x &&& sysMask 0x0B0) = true ↔
    Config.reservation < ((s.dieGet d (0x0A0 + n)).toNat / 2 ^ 16 % 2 ^ 22 + x.toNat % 2 ^ 22 + 1) * 65536 := by
  rw [State.fgcRefused, decide_eq_true_iff, bits_and_low (by decide), bits, ← Nat.add_mul, Nat.add_assoc]

/-- What a write does that sets EN of a grant. -/
theorem State.fgcSet_rise {s : State} {d n : Nat} {x : Dword} (hx : bit x 63 = true) (hwas : bit (s.dieGet d (0x0B0 + n)) 63 = false) :
    s.fgcSet d n x = if s.fgcRefused d n (x &&& sysMask 0x0B0) then s
      else { s with grants := s.grants ++ [(d, n, s.dieGet d (0x0A0 + n), x &&& sysMask 0x0B0)] }.dieSet d (0x0B0 + n) (x &&& sysMask 0x0B0) := by
  rw [State.fgcSet, if_pos (by rw [bit63_grantMask, hx, hwas]; rfl)]

theorem State.fgcSet_fall {s : State} {d n : Nat} {x : Dword} (hx : bit x 63 = false) :
    s.fgcSet d n x = { s with grants := s.grants.filter fun g => !(g.1 == d && g.2.1 == n) }.dieSet d (0x0B0 + n) (x &&& sysMask 0x0B0) := by
  rw [State.fgcSet, if_neg (by rw [bit63_grantMask, hx]; exact nofun), if_pos (by rw [bit63_grantMask, hx]; rfl)]

theorem exec_rdwcWrite {s : State} {n : Nat} (x : Dword) (hn : n < 8) : exec (.rdwcWrite n x) s = .next (s.rdwcSet n x) :=
  congrArg Host.Outcome.next (if_pos hn)

/-- RDWC after a write: PART at 1 is set by a wave only. -/
def windowControl (old x : Dword) : Dword := setBits (x &&& sysMask 0x050) 62 1 (bitOf (bit old 62 && !bit x 62))

theorem bit63_windowControl (old x : Dword) : bit (windowControl old x) 63 = bit x 63 := by
  rw [bit_eq_getLsbD, windowControl, setBits_bit62_getLsbD63, ← bit_eq_getLsbD, bit63_windowMask]

theorem State.rdwcSet_rise {s : State} {n : Nat} {x : Dword} (hx : bit x 63 = true) (hwas : bit (s.sysGet 0 (0x050 + n)) 63 = false) :
    s.rdwcSet n x = if s.rdwcRefused n x then s
      else { s with windows := s.windows ++ [(n, s.sysGet 0 (0x048 + n), x &&& sysMask 0x050)] }.sysSet 0 (0x050 + n)
        (windowControl (s.sysGet 0 (0x050 + n)) x) := by
  rw [State.rdwcSet, if_pos (by rw [hx, hwas]; rfl), windowControl]

theorem State.rdwcSet_fall {s : State} {n : Nat} {x : Dword} (hx : bit x 63 = false) :
    s.rdwcSet n x =
      { s with
        windows := s.windows.filter fun w => w.1 != n
        heard := s.heard.filter fun h => h.1 != n
        contrib := updAt s.contrib n fun _ => 0 }.sysSet 0 (0x050 + n) (windowControl (s.sysGet 0 (0x050 + n)) x) := by
  rw [State.rdwcSet, if_neg (by rw [hx]; exact nofun), if_pos (by rw [hx]; rfl), windowControl]

theorem State.rdwcRefused_iff (s : State) (n : Nat) (x : Dword) :
    let b := s.sysGet 0 (0x048 + n)
    let lg := b.toNat % 64
    s.rdwcRefused n x = true ↔ lg < 16 ∨ 36 < lg ∨ winBase b % 2 ^ lg ≠ 0 ∨ x.toNat / 2 ^ 48 % 256 < 2 ∨ winPair x = false ∨
      ∃ w ∈ s.windows, w.1 ≠ n ∧ winBase b < winBase w.2.1 + winSize w.2.1 ∧ winBase w.2.1 < winBase b + 2 ^ lg := by
  have hlg : bits (s.sysGet 0 (0x048 + n)) 0 6 = (s.sysGet 0 (0x048 + n)).toNat % 64 := by simp [bits]
  have hsize : winSize (s.sysGet 0 (0x048 + n)) = 2 ^ ((s.sysGet 0 (0x048 + n)).toNat % 64) := by rw [winSize, hlg]
  simp [State.rdwcRefused, hsize, bits, or_assoc, and_assoc]

/-! ## The notice ring (R425) -/

theorem State.makeHandler_off {s : State} {ctx : Nat} (h : s.ctxGet ctx 0x016 = 0) : s.makeHandler ctx = s := by
  rw [State.makeHandler, if_pos (Or.inl (by rw [h]; rfl))]

theorem State.makeHandler_with (s : State) (ctx : Nat) (h : s.ctxGet ctx 0x016 = 0) (c : Prop) [Decidable c] (l : List Nat) :
    (if c then { s with msix := l } else s).makeHandler ctx = if c then { s with msix := l } else s := by
  split <;> exact State.makeHandler_off h

/-- With no record of a handler task named, a push writes its record, moves the head and may send an interrupt. -/
theorem State.ringPush_head {s : State} {ctx : Nat} (r : FaultRec) (h : s.ctxGet ctx 0x016 = 0) :
    (s.ringPush ctx r).notices = s.notices ∧ (s.ringPush ctx r).ctxGet ctx 0x013 = s.ctxGet ctx 0x013 + 1 := by
  rw [State.ringPush]
  set u := s.ctxWrite ctx ((s.ctxGet ctx 0x011).toNat + 64 * ((s.ctxGet ctx 0x013).toNat % s.ringSize ctx)) r.bytes with hu
  have hsys : u.sys = s.sys := State.ctxWrite_sys ..
  have hnotices : u.notices = s.notices := State.ctxWrite_notices ..
  have hrecord : (u.ctxSet ctx 0x013 (s.ctxGet ctx 0x013 + 1)).ctxGet ctx 0x016 = 0 := by
    rw [State.ctxGet, State.ctxSet, State.sysSet_get_other _ _ (by decide) (by decide) (by simp), State.sysGet, hsys]
    exact h
  simp only [State.makeHandler_with _ _ hrecord]
  split
  · exact ⟨hnotices, State.sysSet_get_same ..⟩
  · exact ⟨hnotices, State.sysSet_get_same ..⟩

theorem noticeRingDrain_full {s : State} {ctx : Nat} (h : s.ringSize ctx = 0 ∨ (s.ctxGet ctx 0x013 - s.ctxGet ctx 0x014).toNat = s.ringSize ctx) :
    exec (.noticeRingDrain ctx) s = .next s := by
  have he : exec (.noticeRingDrain ctx) s = execNoticeRingDrain ctx s := rfl
  rw [he, execNoticeRingDrain]
  split
  · rfl
  · rw [if_pos (h.imp_right fun h => by rw [State.ringFull, h, beq_self_eq_true])]

theorem noticeRingDrain_push {s : State} {ctx : Nat} {r : Nat × FaultRec} (hr : s.notices.find? (fun q => q.1 == ctx) = some r)
    (hsize : s.ringSize ctx ≠ 0) (hfull : (s.ctxGet ctx 0x013 - s.ctxGet ctx 0x014).toNat ≠ s.ringSize ctx) :
    exec (.noticeRingDrain ctx) s = .next (({ s with notices := s.notices.erase r } : State).ringPush ctx r.2) := by
  have he : exec (.noticeRingDrain ctx) s = execNoticeRingDrain ctx s := rfl
  rw [he, execNoticeRingDrain, hr]
  simp only
  rw [if_neg]
  rintro (h | h)
  · exact hsize h
  · exact hfull (beq_iff_eq.mp h)

/-! ## The statement -/

/-- A write of FGC: EN of a grant that the rules refuse is ignored, a granted one is listed, and EN at 0 takes the grant from the list. -/
theorem fgcWrite_cases (s : State) {d n : Nat} (x : Dword) (hd : d < 8) (hn : n < 16) :
    let b := s.dieGet d (0x0A0 + n)
    let past := Config.reservation < (b.toNat / 2 ^ 16 % 2 ^ 22 + x.toNat % 2 ^ 22 + 1) * 65536
    let was := (s.dieGet d (0x0B0 + n)).getLsbD 63
    let set := s.dieSet d (0x0B0 + n) (x &&& sysMask 0x0B0)
    (x.getLsbD 63 = true → was = false → past → exec (.fgcWrite d n x) s = .next s) ∧
    (x.getLsbD 63 = true → was = false → ¬past → exec (.fgcWrite d n x) s = .next { set with grants := s.grants ++ [(d, n, b, x &&& sysMask 0x0B0)] }) ∧
    (x.getLsbD 63 = false → ∃ t, exec (.fgcWrite d n x) s = .next t ∧ t = { set with grants := t.grants } ∧
      ∀ g, g ∈ t.grants ↔ g ∈ s.grants ∧ ¬(g.1 = d ∧ g.2.1 = n)) := by
  intro b past was set
  simp only [was, ← bit_eq_getLsbD, exec_fgcWrite x hd hn]
  refine ⟨fun hx hwas hpast => ?_, fun hx hwas hpast => ?_, fun hx => ⟨_, rfl, ?_, fun g => ?_⟩⟩
  · rw [State.fgcSet_rise hx hwas, if_pos ((State.fgcRefused_iff ..).mpr hpast)]
  · rw [State.fgcSet_rise hx hwas, if_neg (mt (State.fgcRefused_iff ..).mp hpast)]
    rfl
  · rw [State.fgcSet_fall hx]
    rfl
  · rw [State.fgcSet_fall hx]
    simp [State.dieSet, imp_iff_not_or]

/-- A write of RDWC, likewise for a window (R299). -/
theorem rdwcWrite_cases (s : State) {n : Nat} (x : Dword) (hn : n < 8) :
    let b := s.sysGet 0 (0x048 + n)
    let lg := b.toNat % 64
    let was := (s.sysGet 0 (0x050 + n)).getLsbD 63
    let bad := lg < 16 ∨ 36 < lg ∨ winBase b % 2 ^ lg ≠ 0 ∨ x.toNat / 2 ^ 48 % 256 < 2 ∨ winPair x = false ∨
      ∃ w ∈ s.windows, w.1 ≠ n ∧ winBase b < winBase w.2.1 + winSize w.2.1 ∧ winBase w.2.1 < winBase b + 2 ^ lg
    (x.getLsbD 63 = true → was = false → bad → exec (.rdwcWrite n x) s = .next s) ∧
    (x.getLsbD 63 = true → was = false → ¬bad → ∃ t, exec (.rdwcWrite n x) s = .next t ∧
      t = { s with sys := t.sys, windows := s.windows ++ [(n, b, x &&& sysMask 0x050)] } ∧ (t.sysGet 0 (0x050 + n)).getLsbD 63 = true) ∧
    (x.getLsbD 63 = false → ∃ t, exec (.rdwcWrite n x) s = .next t ∧ t = { s with sys := t.sys, windows := t.windows, heard := t.heard, contrib := t.contrib } ∧
      (∀ w, w ∈ t.windows ↔ w ∈ s.windows ∧ w.1 ≠ n) ∧ (t.sysGet 0 (0x050 + n)).getLsbD 63 = false) := by
  intro b lg was bad
  simp only [was, ← bit_eq_getLsbD, exec_rdwcWrite x hn]
  refine ⟨fun hx hwas hbad => ?_, fun hx hwas hbad => ⟨_, rfl, ?_⟩, fun hx => ⟨_, rfl, ?_⟩⟩
  · rw [State.rdwcSet_rise hx hwas, if_pos ((State.rdwcRefused_iff ..).mpr hbad)]
  · rw [State.rdwcSet_rise hx hwas, if_neg (mt (State.rdwcRefused_iff ..).mp hbad), State.sysSet_get_same, bit63_windowControl]
    exact ⟨rfl, hx⟩
  · rw [State.rdwcSet_fall hx, State.sysSet_get_same, bit63_windowControl]
    exact ⟨rfl, fun w => by simp, hx⟩

/-- The registers after sysrd: an RC register reads 0, and no other one has changed. -/
theorem State.sysClear_sys (s : State) (d ctx c : Nat) :
    (s.sysClear d ctx c).sys = if sysCodeRC c then (s.sysSet (sysCopy d ctx c) c 0).sys else s.sys := by
  unfold State.sysClear
  split <;> rfl

/-- Settles O45. -/
theorem systemRegisters : Obligations.SystemRegisters := by
  intro s code v x d n ctx issuing c package copy clears starts keeps val
  have hcopy : sysCopy s.wv.die s.ctx c = copy := sysCopy_eq ..
  have hsame : ∀ t : State, t.sys = s.sys → keeps t copy c := by
    intro t ht cp' c' hc hc' hne
    rw [State.sysGet, ht, State.sysGet]
  have hset : ∀ (t : State) (w : Dword), t.sys = (s.sysSet copy c w).sys → keeps t copy c ∧ t.sysGet copy c = w := by
    intro t w ht
    have hget : ∀ cp' c', t.sysGet cp' c' = (s.sysSet copy c w).sysGet cp' c' := fun cp' c' => by rw [State.sysGet, ht, State.sysGet]
    exact ⟨fun cp' c' hc hc' hne => (hget _ _).trans (State.sysSet_get_other s w hc hc' hne), (hget _ _).trans (State.sysSet_get_same ..)⟩
  refine ⟨?_, ?_, ?_, ?_, ?_, rfl, rfl, rfl, rfl, ?_, ?_, ?_, ?_⟩
  · obtain ⟨t, ht, honly, hsys, hres⟩ := sysrd_results code issuing
    rw [State.sysClear_sys, hcopy] at hsys
    have hval : ∀ L, On s L → result s t L 0 = (if c = 0x003 then BitVec.ofNat 64 (s.ctx % 64)
        else if c = 0x028 then BitVec.ofNat 64 (s.cut.kcut % 2 ^ 16 * 2 ^ 48 + s.cut.st % 16 * 2 ^ 16) else s.sysGet copy c).setWidth 256 := by
      intro L hL
      rw [hres L hL, State.sysRead, hcopy]
      rfl
    by_cases hrc : clears
    · rw [if_pos (sysCodeRC_iff.mpr hrc)] at hsys
      obtain ⟨hkeeps, hzero⟩ := hset t 0 hsys
      exact ⟨t, ht, honly, hkeeps, fun _ => hzero, fun h => absurd hrc h, hval⟩
    · rw [if_neg (mt sysCodeRC_iff.mp hrc)] at hsys
      exact ⟨t, ht, honly, hsame t hsys, fun h => absurd h hrc, fun _ => hsys, hval⟩
  · intro hq
    have he : exec (.syswr code v) s = execSyswr code v s := rfl
    rw [Waits, he, execSyswr, hq]
    rfl
  · intro hq hstarts
    obtain ⟨t, ht, honly, hsys⟩ := syswr_plain code v issuing hq hstarts
    rw [hcopy] at hsys
    by_cases hmask : sysMask c = 0
    · rw [if_pos hmask] at hsys
      exact ⟨t, ht, honly, hsame t hsys, fun _ => hsys, fun h => absurd hmask h⟩
    · rw [if_neg hmask] at hsys
      obtain ⟨hkeeps, hget⟩ := hset t _ hsys
      exact ⟨t, ht, honly, hkeeps, fun h => absurd h hmask, fun _ => hget⟩
  · intro hq hc
    obtain ⟨t, ht, honly⟩ := syswr_ldgo code v issuing hq hc
    exact ⟨t, _, ht, honly, fun h => if_pos h, fun h => if_neg (by rw [State.sysWord]; exact ne_true_of_eq_false h)⟩
  · exact fun hq hc hst hreq => syswr_req code v issuing hq hc hst hreq
  · exact fun copy hcopy hlisted hctx hnames hstarts hmask hok => sysregWrite_plain x hcopy hlisted hctx hnames hstarts hmask hok
  · exact fun hd hn => fgcWrite_cases s x hd hn
  · exact fun hn => rdwcWrite_cases s x hn
  · intro r hr head
    refine ⟨noticeRingDrain_full, fun hsize hfull hrecord => ?_⟩
    obtain ⟨hnotices, hhead⟩ := State.ringPush_head (s := { s with notices := s.notices.erase r }) r.2 hrecord
    exact ⟨_, noticeRingDrain_push hr hsize hfull, hnotices, hhead⟩

end Sys2Proof.Machine
end

section
/-! The causes of the lanes of an access, and which of them an instruction takes (08_memory.md R239, R250, R255, 09_atomics_sync.md R293). -/
namespace Sys2Proof.Machine
open Sys2Proof Sys2Proof.Safety

/-! ## The causes that an address can have -/

/-- The causes of R239, each of which has a priority of its own. -/
abbrev ofAccess (c : Cause) : Prop := c.code ∈ [0x25, 0x23, 0x24, 0x26, 0x20, 0x21, 0x22, 0x80]

theorem causeRank_inj {c d : Cause} (hc : ofAccess c) (hd : ofAccess d) (h : causeRank c.code = causeRank d.code) : c.code = d.code := by
  have hall : ∀ i ∈ [0x25, 0x23, 0x24, 0x26, 0x20, 0x21, 0x22, 0x80], ∀ j ∈ [0x25, 0x23, 0x24, 0x26, 0x20, 0x21, 0x22, 0x80],
      causeRank i = causeRank j → i = j := by decide
  exact hall _ hc _ hd h

theorem State.walkFrom_error {s : State} {va level : Nat} {e : Dword} {c : Cause} (h : s.walkFrom va level e = .error c) : ofAccess c := by
  induction level generalizing e with
  | zero =>
    unfold State.walkFrom at h
    simp only at h
    split_ifs at h <;> cases h <;> decide
  | succ level ih =>
    unfold State.walkFrom at h
    simp only at h
    split_ifs at h
    case neg => exact ih h
    all_goals
      cases h
      decide

theorem State.walk_error {s : State} {ctx va : Nat} {c : Cause} (h : s.walk ctx va = .error c) : ofAccess c := by
  unfold State.walk at h
  split at h
  · cases h
    decide
  · split at h
    · cases h
    · next d hd =>
      split at h <;> cases h
      exact State.walkFrom_error hd

theorem State.place_error {s : State} {a : Acc} {va : Nat} {c : Cause} (h : s.place a va = .error c) : ofAccess c := by
  unfold State.place at h
  split at h
  · cases h
    decide
  · split at h
    · split at h
      · exact State.walk_error h
      · cases h
    · exact State.walk_error h

theorem leafCause_some {a : Acc} {p : Phys} {c : Cause} (h : leafCause a p = some c) : ofAccess c := by
  unfold leafCause at h
  simp only at h
  split_ifs at h <;> cases h <;> decide

theorem State.xlate_error {s : State} {a : Acc} {va : Nat} {c : Cause} (h : s.xlate a va = .error c) : ofAccess c := by
  unfold State.xlate at h
  split at h
  · next d hd =>
    cases h
    exact State.place_error hd
  · split at h
    · next d hd =>
      cases h
      exact leafCause_some hd
    · split at h <;> cases h
      decide

theorem State.wordPlaces_error {s : State} {a : Acc} {L w k : Nat} {c : Cause} (h : s.wordPlaces a L w k = .error c) : ofAccess c := by
  induction k generalizing w with
  | zero => cases h
  | succ k ih =>
    rw [State.wordPlaces] at h
    split at h
    · next d hd =>
      cases h
      exact State.xlate_error hd
    · split at h <;> cases h
      next d hd => exact ih hd

theorem State.laneLoc_error {s : State} {sp : Space} {rd wr : Bool} {L a n al : Nat} {c : Cause} (h : s.laneLoc sp rd wr L a n al = .error c) :
    ofAccess c := by
  unfold State.laneLoc at h
  simp only at h
  split_ifs at h
  case pos | pos | pos | pos | pos =>
    cases h
    decide
  all_goals split at h <;> cases h
  · next hd => exact State.wordPlaces_error hd
  · next hd => exact State.xlate_error hd

/-- A returning atomic. -/
theorem State.atomLoc_error {s : State} {x : AtomOp} {L : Nat} {c : Cause} (h : s.atomLoc x none L = .error c) : ofAccess c := by
  unfold State.atomLoc at h
  simp only [Option.any_none, Bool.false_eq_true, if_false] at h
  split at h
  · cases h
    decide
  · split at h
    · split at h
      · next hd =>
        split at h <;> cases h
        · exact State.laneLoc_error hd
        · decide
      · cases h
        decide
    · exact State.laneLoc_error h

/-! ## The cause that the instruction takes (R239) -/

/-- The better of two causes: the earlier one where neither goes before the other. -/
def betterCause (best : Option Cause) (x : Cause) : Option Cause :=
  match best with
  | none => some x
  | some b => if causeRank x.code < causeRank b.code then some x else some b

theorem topCause_eq (ls : List Nat) (c : Nat → Option Cause) : topCause ls c = (ls.filterMap c).foldl betterCause none := rfl

/-- A cause that goes before every earlier one replaces the best of them. -/
theorem betterCause_replaces {x : Cause} {xs : List Cause} (h : ∀ y ∈ xs, causeRank x.code < causeRank y.code) :
    betterCause (xs.foldl betterCause none) x = some x := by
  have hbest : ∀ b, xs.foldl betterCause none = some b → causeRank x.code < causeRank b.code := by
    refine List.foldlRecOn (motive := fun best => ∀ b, best = some b → causeRank x.code < causeRank b.code) xs betterCause
      ?_ fun best hb y hy b he => ?_
    · intro b he
      cases he
    cases best with
    | none =>
      cases he
      exact h _ hy
    | some b' =>
      rw [betterCause] at he
      split at he <;> cases he
      · exact h _ hy
      · exact hb _ rfl
  cases hc : xs.foldl betterCause none with
  | none => rfl
  | some b => rw [betterCause, if_pos (hbest b hc)]

/-- A cause that no later one goes before stays the best. -/
theorem foldl_betterCause_stays {x : Cause} {xs : List Cause} (h : ∀ y ∈ xs, causeRank x.code ≤ causeRank y.code) :
    xs.foldl betterCause (some x) = some x := by
  refine List.foldlRecOn (motive := fun best => best = some x) xs betterCause rfl fun best hb y hy => ?_
  rw [hb, betterCause, if_neg (h y hy).not_gt]

/-- The instruction takes the cause of the first lane that has a highest one. -/
theorem topCause_first {ls : List Nat} {c : Nat → Option Cause} {L₀ : Nat} {x : Cause} (hls : ls.Pairwise (· < ·)) (hL₀ : L₀ ∈ ls) (hx : c L₀ = some x)
    (hbest : ∀ L ∈ ls, ∀ y, c L = some y → causeRank x.code ≤ causeRank y.code)
    (hfirst : ∀ L ∈ ls, ∀ y, c L = some y → causeRank y.code = causeRank x.code → L₀ ≤ L) : topCause ls c = some x := by
  obtain ⟨as, bs, rfl⟩ := List.append_of_mem hL₀
  obtain ⟨-, -, hlt⟩ := List.pairwise_append.mp hls
  rw [topCause_eq, List.filterMap_append, List.filterMap_cons_some hx, List.foldl_append, List.foldl_cons, betterCause_replaces, foldl_betterCause_stays]
  · intro y hy
    obtain ⟨L, hL, hy⟩ := List.mem_filterMap.mp hy
    exact hbest L (List.mem_append_right _ (List.mem_cons_of_mem _ hL)) y hy
  · intro y hy
    obtain ⟨L, hL, hy⟩ := List.mem_filterMap.mp hy
    have hmem : L ∈ as ++ L₀ :: bs := List.mem_append_left _ hL
    exact lt_of_le_of_ne (hbest L hmem y hy) fun he => (hlt L hL L₀ List.mem_cons_self).not_ge (hfirst L hmem y hy he.symm)

theorem State.activeLanes_ascend (s : State) : s.activeLanes.Pairwise (· < ·) := List.pairwise_lt_range.filter _

section
variable {s : State} {loc : Nat → Except Cause Place} {c : Nat → Cause} {L₀ : Nat}

/-- A lane that issues has a cause. -/
def badLane (s : State) (loc : Nat → Except Cause Place) (c : Nat → Cause) (L : Nat) : Prop := On s L ∧ loc L = .error (c L)
/-- No other cause goes before that of the lane. -/
def bestLane (s : State) (loc : Nat → Except Cause Place) (c : Nat → Cause) (L : Nat) : Prop :=
  badLane s loc c L ∧ ∀ M, badLane s loc c M → causeRank (c L).code ≤ causeRank (c M).code

/-- The causes of the lanes: `L₀` is the lowest lane of the highest cause. -/
structure Causes (s : State) (loc : Nat → Except Cause Place) (c : Nat → Cause) (L₀ : Nat) : Prop where
  best : bestLane s loc c L₀
  lowest : ∀ M, bestLane s loc c M → L₀ ≤ M
  others : ∀ L, On s L → ¬badLane s loc c L → ∃ p, loc L = .ok p
  ofAccess : ∀ L d, loc L = .error d → ofAccess d

namespace Causes
variable (h : Causes s loc c L₀)
include h

theorem errOf_eq {L : Nat} (hL : On s L) : errOf (loc L) = some (c L) ∨ ¬badLane s loc c L ∧ errOf (loc L) = none := by
  by_cases hbad : badLane s loc c L
  · exact .inl (by rw [hbad.2, errOf])
  · obtain ⟨p, hp⟩ := h.others L hL hbad
    exact .inr ⟨hbad, by rw [hp, errOf]⟩

theorem bad_of_errOf {L : Nat} {y : Cause} (hL : On s L) (hy : errOf (loc L) = some y) : badLane s loc c L ∧ y = c L := by
  by_cases hbad : badLane s loc c L
  · rw [hbad.2, errOf] at hy
    exact ⟨hbad, (Option.some.inj hy).symm⟩
  · obtain ⟨p, hp⟩ := h.others L hL hbad
    rw [hp, errOf] at hy
    cases hy

theorem topCause_eq : topCause s.activeLanes (fun L => errOf (loc L)) = some (c L₀) := by
  obtain ⟨⟨hL₀, hloc⟩, hmin⟩ := h.best
  refine topCause_first s.activeLanes_ascend (mem_activeLanes.mpr hL₀) (by rw [hloc, errOf]) ?_ ?_
  · intro L hL y hy
    obtain ⟨hbad, rfl⟩ := h.bad_of_errOf (mem_activeLanes.mp hL) hy
    exact hmin L hbad
  · intro L hL y hy he
    obtain ⟨hbad, rfl⟩ := h.bad_of_errOf (mem_activeLanes.mp hL) hy
    exact h.lowest L ⟨hbad, fun M hM => he ▸ hmin M hM⟩

theorem best_iff {L : Nat} : bestLane s loc c L ↔ badLane s loc c L ∧ (c L).code = (c L₀).code := by
  obtain ⟨hbad₀, hmin⟩ := h.best
  constructor
  · rintro ⟨hbad, hb⟩
    exact ⟨hbad, causeRank_inj (h.ofAccess _ _ hbad.2) (h.ofAccess _ _ hbad₀.2) (le_antisymm (hb L₀ hbad₀) (hmin L hbad))⟩
  · rintro ⟨hbad, he⟩
    exact ⟨hbad, fun M hM => he ▸ hmin M hM⟩

/-- The lanes of a mask of R239: those with a cause whose code passes a test. -/
theorem mask_iff (f : Nat → Bool) {L : Nat} :
    inMask (maskOf fun L => inMask s.active L && (errOf (loc L)).any fun x => f x.code) L = true ↔ badLane s loc c L ∧ f (c L).code = true := by
  rw [inMask_maskOf_iff, Bool.and_eq_true, inMask_active_iff]
  constructor
  · rintro ⟨-, hL, hany⟩
    obtain ⟨y, hy, hf⟩ := (Option.any_eq_true _ _).mp hany
    obtain ⟨hbad, rfl⟩ := h.bad_of_errOf hL hy
    exact ⟨hbad, hf⟩
  · rintro ⟨⟨hL, hloc⟩, hf⟩
    exact ⟨hL.1, hL, by rw [hloc, errOf]; exact hf⟩

theorem laneFault (addr : Nat → Nat) :
    ∃ prim sec, s.laneFault (fun L => errOf (loc L)) addr = some (s.fault (c L₀) prim sec (addr L₀)) ∧
      (∀ L, inMask prim L = true ↔ bestLane s loc c L) ∧ ∀ L, inMask sec L = true ↔ badLane s loc c L ∧ ¬bestLane s loc c L := by
  have hprim : ∀ L, inMask (maskOf fun L => inMask s.active L && (errOf (loc L)).any fun x => x.code == (c L₀).code) L = true ↔ bestLane s loc c L :=
    fun L => (h.mask_iff fun k => k == (c L₀).code).trans (by rw [h.best_iff, beq_iff_eq])
  refine ⟨_, maskOf fun L => inMask s.active L && (errOf (loc L)).any fun x => x.code != (c L₀).code, ?_, hprim, fun L => ?_⟩
  · rw [State.laneFault, h.topCause_eq]
    simp only
    rw [lanesOf_headD ((hprim L₀).mpr h.best) fun L hL => h.lowest L ((hprim L).mp hL)]
  · rw [h.mask_iff fun k => k != (c L₀).code, h.best_iff, bne_iff_ne]
    tauto

end Causes
end

/-! ## Accesses and atomics that fault -/

@[simp] theorem State.walked_besideMem (s : State) (a : Acc) (vas : List Nat) : (s.walked a vas).besideMem = s.besideMem :=
  besideMem_foldl _ _ fun s va => by split <;> simp

theorem State.walked_issue (s : State) (a : Acc) (vas : List Nat) : (s.walked a vas).issue = s.issue :=
  congrArg BesideMem.issue (State.walked_besideMem s a vas)

/-- With its scratchpad lines present, an access waits for none. -/
theorem State.absentOf_padRanges {s : State} {n : Nat} {loc : Nat → Except Cause Place}
    (h : ∀ L off, On s L → loc L = .ok (.spad off) → s.wg.absentIn off n = []) :
    s.absentOf (padRanges n (s.activeLanes.filterMap fun L => (loc L).toOption)) = [] := by
  rw [State.absentOf, List.flatMap_eq_nil_iff.mpr]
  · rfl
  intro r hr
  obtain ⟨pl, hpl, hr⟩ := List.mem_filterMap.mp hr
  obtain ⟨L, hL, hpl⟩ := List.mem_filterMap.mp hpl
  cases hloc : loc L with
  | error c =>
    rw [hloc] at hpl
    cases hpl
  | ok p =>
    rw [hloc] at hpl
    cases hpl
    cases pl with
    | spad off =>
      cases hr
      exact h L off (mem_activeLanes.mp hL) hloc
    | phys va p => cases hr
    | words ws => cases hr

/-- The fault of the lanes, behind the walks of the access. -/
theorem Causes.walkedFault {s : State} {loc : Nat → Except Cause Place} {c : Nat → Cause} {L₀ : Nat} (h : Causes s loc c L₀) (a : Acc) (vas : List Nat)
    (addr : Nat → Nat) :
    ∃ prim sec, s.walkedFault a vas (fun L => errOf (loc L)) addr = some ((s.walked a vas).fault (c L₀) prim sec (addr L₀)) ∧
      (∀ L, inMask prim L = true ↔ bestLane s loc c L) ∧ ∀ L, inMask sec L = true ↔ badLane s loc c L ∧ ¬bestLane s loc c L := by
  have hbad : ∀ L, badLane (s.walked a vas) loc c L ↔ badLane s loc c L := fun L => by rw [badLane, badLane, On, On, State.walked_issue]
  have hbest : ∀ L, bestLane (s.walked a vas) loc c L ↔ bestLane s loc c L := fun L => by simp only [bestLane, hbad]
  have hwalked : Causes (s.walked a vas) loc c L₀ := {
    best := (hbest L₀).mpr h.best
    lowest := fun M hM => h.lowest M ((hbest M).mp hM)
    others := fun L hL hn => h.others L (by rwa [On, State.walked_issue] at hL) (mt (hbad L).mpr hn)
    ofAccess := h.ofAccess }
  obtain ⟨prim₀, sec₀, hfault₀, -⟩ := h.laneFault addr
  obtain ⟨prim, sec, hfault, hprim, hsec⟩ := hwalked.laneFault addr
  refine ⟨prim, sec, ?_, fun L => (hprim L).trans (hbest L), fun L => (hsec L).trans (by rw [hbad, hbest])⟩
  rw [State.walkedFault, hfault₀, hfault]
  rfl

/-- What R239 says of an instruction `i` whose lanes' places are `loc`: the fault behind the walks, with its two masks. -/
def FaultsByPriority (s : State) (i : Instr) (m : MMod) (loc : Nat → Except Cause Place) (addr : Nat → Nat) (rd wr : Bool) (n : Nat) : Prop :=
  ∀ (c : Nat → Cause) (L₀ : Nat), bestLane s loc c L₀ → (∀ M, bestLane s loc c M → L₀ ≤ M) →
    (∀ L, On s L → ¬badLane s loc c L → ∃ p, loc L = .ok p) →
    (∀ L off, On s L → loc L = .ok (.spad off) → s.wg.absentIn off n = []) →
    ∃ prim sec, exec i s = .next ((s.walked (s.accOf s.wv m.space rd wr) (s.activeLanes.flatMap fun L => s.laneVas m.space L (addr L) n n)).fault
        (c L₀) prim sec (addr L₀)) ∧
      (∀ L, inMask prim L = true ↔ bestLane s loc c L) ∧ ∀ L, inMask sec L = true ↔ badLane s loc c L ∧ ¬bestLane s loc c L

theorem access_faultsByPriority {s : State} {i : Instr} {m : MMod} {rd wr : Bool} {n : Nat} {addr : Nat → Nat} {eff : State → State}
    (hi : exec i s = .next (s.access (accessAt m rd wr n addr) eff)) :
    FaultsByPriority s i m (s.placeOf (accessAt m rd wr n addr)) addr rd wr n := by
  intro c L₀ hbest hlowest hothers hpresent
  have hcauses : Causes s (s.placeOf (accessAt m rd wr n addr)) c L₀ := ⟨hbest, hlowest, hothers, fun _ _ => State.laneLoc_error⟩
  obtain ⟨prim, sec, hfault, hmasks⟩ := hcauses.walkedFault (s.accOf s.wv m.space rd wr)
    (s.activeLanes.flatMap fun L => s.laneVas m.space L (addr L) n n) addr
  refine ⟨prim, sec, ?_, hmasks⟩
  have haccess : s.accessFault (accessAt m rd wr n addr) = _ := hfault
  have hpad := State.absentOf_padRanges hpresent
  rw [hi, State.access]
  simp only [haccess]
  rw [if_neg]
  rw [show (accessAt m rd wr n addr).n = n from rfl, hpad]
  exact nofun

theorem atomic_faultsByPriority {s : State} {i : Instr} {x : AtomOp} (hmerged : s.merged = false) (hi : exec i s = .next (s.atomic x)) :
    FaultsByPriority s i x.m (s.atomLoc x none) x.addr true true (atomBytes x.ty) := by
  intro c L₀ hbest hlowest hothers hpresent
  have hcauses : Causes s (s.atomLoc x none) c L₀ := ⟨hbest, hlowest, hothers, fun _ _ => State.atomLoc_error⟩
  obtain ⟨prim, sec, hfault, hmasks⟩ := hcauses.walkedFault (s.accOf s.wv x.m.space true true)
    (s.activeLanes.flatMap fun L => s.laneVas x.m.space L (x.addr L) (atomBytes x.ty) (atomBytes x.ty)) x.addr
  refine ⟨prim, sec, ?_, hmasks⟩
  have hpad := State.absentOf_padRanges hpresent
  rw [hi, State.atomic, if_neg (by rw [hmerged]; exact nofun), State.atomIssue]
  simp only [hfault]
  rw [if_neg]
  rw [hpad]
  exact nofun

/-- Settles O21. -/
theorem accessFaults : Obligations.AccessFaults :=
  fun _ ty m a v _ =>
    ⟨access_faultsByPriority (i := .ld ty m a) rfl, access_faultsByPriority (i := .ldv ty m a) rfl, access_faultsByPriority (i := .st ty m a v) rfl,
      access_faultsByPriority (i := .stv ty m a v) rfl, access_faultsByPriority (i := .zline m a) rfl,
      fun hmerged => atomic_faultsByPriority (i := .atomadd ty m a v) hmerged rfl⟩

end Sys2Proof.Machine
end

section
/-! The ports of the fabric and what they leave as it was (18_power_package_trust.md R487-R490). -/
namespace Sys2Proof.Machine
open Sys2Proof Sys2Proof.Safety

/-! ## Ports -/

theorem State.updPort_portAt (s : State) {p : Nat} (f : PortSt → PortSt) (h : p < s.ports.length) : (s.updPort p f).portAt p = f (s.portAt p) :=
  updAt_getD_same s.ports p f PortSt.reset h

/-- Memory and its key IDs do not depend on the ports. -/
theorem State.viewAs_updPort (s : State) (p : Nat) (f : PortSt → PortSt) (k i : Nat) :
    (s.updPort p f).viewAs k i = (s.viewAs k i).updPort p f := by
  unfold State.viewAs
  simp only
  rw [apply_ite (fun s : State => s.updPort p f)]
  rfl

theorem State.meetKey_updPort (s : State) (p : Nat) (f : PortSt → PortSt) (k n i : Nat) :
    (s.updPort p f).meetKey k n i = (s.meetKey k n i).updPort p f := by
  unfold State.meetKey
  rw [apply_ite (fun s : State => s.updPort p f)]
  refine if_congr Iff.rfl rfl ?_
  induction (List.range ((k + n - 1) / 128 + 1 - k / 128)) generalizing s with
  | nil => rfl
  | cons j js ih => rw [List.foldl_cons, List.foldl_cons, State.viewAs_updPort, ih]

/-! ## Messages (R488) -/

/-- The message at the head of a port's inbox, as an instruction of its kind takes it. -/
theorem State.inMsg_cons {s : State} {p op : Nat} {m : FabMsg} {ms : List FabMsg} (h : (s.portAt p).inbox = m :: ms) (hop : m.op = op) :
    s.inMsg p op = some (m, s.updPort p fun x => { x with inbox := ms }) := by
  rw [State.inMsg, h]
  exact if_pos hop

theorem State.inMsg_nil {s : State} {p : Nat} (op : Nat) (h : (s.portAt p).inbox = []) : s.inMsg p op = none := by
  rw [State.inMsg, h]

theorem State.dieServes_iff (s : State) (d dpa : Nat) :
    s.dieServes d dpa = true ↔ d < 8 ∧ (s.dieAt d).ok = true ∧ (s.dieAt d).withdrawn = false ∧ dpa < Config.dieBytes := by
  simp [State.dieServes, and_assoc]

/-- The key ID of a grant (R243). -/
def State.grantKey (s : State) (d sfdn : Nat) (w : Bool) (dpa len : Nat) : Nat :=
  ((s.grantOf d sfdn w dpa len).map fun g => g.2.2.2.toNat / 2 ^ 32 % 64).getD 0

theorem State.grantKey_lt (s : State) (d sfdn : Nat) (w : Bool) (dpa len : Nat) : s.grantKey d sfdn w dpa len < 64 := by
  unfold State.grantKey
  cases s.grantOf d sfdn w dpa len with
  | none => decide
  | some g => exact Nat.mod_lt _ (by decide)

theorem State.serveMsg_absent {s : State} {p : Nat} {m : FabMsg} {dpa : Nat} (w : Bool) (len : Nat) (eff : State → State)
    (h : ¬s.dieServes m.ddie dpa = true) : s.serveMsg p m w dpa len eff = s.answer p m 7 0x27 [] :=
  if_pos (by rw [Bool.not_eq_true] at h; rw [h]; rfl)

theorem State.serveMsg_served {s : State} {p : Nat} {m : FabMsg} {dpa : Nat} {w : Bool} {len : Nat} (eff : State → State)
    (h : s.dieServes m.ddie dpa = true) (hc : s.inboundCause m.ddie m.sfdn w dpa len = 0) :
    s.serveMsg p m w dpa len eff = eff (s.meetKey (physKey m.ddie dpa) len (s.grantKey m.ddie m.sfdn w dpa len)) := by
  rw [State.serveMsg, h, if_neg (by decide)]
  simp only [hc, ne_eq, not_true_eq_false, if_false]
  rfl

/-- Port `p` has taken its first message off the inbox, whose rest is `ms`, and has an answer to send. -/
def Answered (s t : State) (p : Nat) (m : FabMsg) (ms : List FabMsg) (op aop : Nat) (data : List Byte) : Prop :=
  (t.portAt p).inbox = ms ∧ (t.portAt p).outbox = (s.portAt p).outbox ++ [{ m with
    op := op, sdie := m.ddie, ddie := m.sdie, aop := aop, sfdn := s.fdn, dfdn := m.sfdn, data := data }]

theorem State.answer_answered {s u : State} {p : Nat} {ms : List FabMsg} (m : FabMsg) (op aop : Nat) (data : List Byte) (hp : p < s.ports.length)
    (hports : u.ports = (s.updPort p fun x => { x with inbox := ms }).ports) (hsys : u.sys = s.sys) :
    Answered s (u.answer p m op aop data) p m ms op aop data := by
  have hport : u.portAt p = { s.portAt p with inbox := ms } := by
    rw [State.portAt, hports]
    exact State.updPort_portAt s _ hp
  have hlen : p < u.ports.length := by
    rw [hports]
    simpa [State.updPort] using hp
  have hfdn : u.fdn = s.fdn := by rw [State.fdn, State.sysGet, hsys, State.fdn, State.sysGet]
  have hsent : (u.answer p m op aop data).portAt p = { u.portAt p with outbox := (u.portAt p).outbox ++ [{ m with
      op := op, sdie := m.ddie, ddie := m.sdie, aop := aop, sfdn := u.fdn, dfdn := m.sfdn, data := data }] } :=
    State.updPort_portAt u _ hlen
  rw [Answered, hsent, hport, hfdn]
  exact ⟨rfl, rfl⟩

end Sys2Proof.Machine
end

section
/-! Requests of other devices at their home (08_memory.md R243, 18_power_package_trust.md R488). -/
namespace Sys2Proof.Machine
open Sys2Proof Sys2Proof.Safety

/-! ## Bytes -/

theorem readBytes_getD (m : Cells 8) (k : Nat) {n i : Nat} (h : i < n) : (readBytes m k n).getD i 0 = cget memDflt m (k + i) := by
  induction n generalizing k i with
  | zero => exact absurd h (Nat.not_lt_zero i)
  | succ n ih =>
    cases i with
    | zero => rfl
    | succ i => rw [readBytes, List.getD_cons_succ, ih (k + 1) (by omega), Nat.add_right_comm, Nat.add_assoc]

/-- A line that reads the same reads the same at each of its bytes. -/
theorem SameLine.byteAt {s t : State} {l a : Nat} (h : SameLine s t l) (ha : a / 128 = l) : byteAt t a = byteAt s a := by
  have hsplit : 128 * l + a % 128 = a := by rw [← ha, Nat.div_add_mod]
  have hbyte := congrArg (fun bs => bs.getD (a % 128) 0) h.1
  simp only [readBytes_getD _ _ (Nat.mod_lt a (by decide : 0 < 128)), hsplit] at hbyte
  exact hbyte

/-- Meeting a line changes no byte of another line. -/
theorem State.meetKey_line_byteAt (s : State) {k a i : Nat} (hk : k % 128 = 0) (hi : i < 64) (ha : ¬inRun k 128 a) :
    byteAt (s.meetKey k 128 i) a = byteAt s a := by
  refine SameLine.byteAt (l := a / 128) ?_ rfl
  refine (s.meetKey_met k 128 hi).off _ fun h => ha ?_
  rw [inRun]
  omega

/-! ## Writes to a frame that is not retired -/

/-- With no capture under way, a write to a frame in service performs at once. -/
theorem State.homeWrite_open {s : State} {k : Nat} (bs : List Byte) (hframe : s.frameSt k ≠ 3) (hcalm : s.ckpt.on = false) :
    s.homeWrite k bs = s.pokeBytes k bs := by
  rw [State.homeWrite, State.homeWriteBy, if_neg hframe, State.homePut, State.copyPending, hcalm]
  rfl

/-- The bytes of a line are in one frame. -/
theorem frameSt_line (s : State) {k i : Nat} (hk : k % 128 = 0) (hi : i < 128) : s.frameSt (k + i) = s.frameSt k := by
  have hframe : frameOf (k + i) = frameOf k := by
    unfold frameOf keyDie keyDpa
    omega
  rw [State.frameSt, hframe, State.frameSt]

/-- `t` is `u` after the first `n` bytes of a line have taken those that a mask names. -/
structure MaskWritten (u t : State) (k mask : Nat) (bs : List Byte) (n : Nat) : Prop where
  rest : t = { u with mem := t.mem, shr := t.shr, rdc := t.rdc, rdcFills := t.rdcFills }
  set : ∀ i, i < n → mask.testBit i = true → byteAt t (k + i) = bs.getD i 0
  keeps : ∀ a, (∀ i, i < n → mask.testBit i = true → a ≠ k + i) → byteAt t a = byteAt u a

theorem maskedWrite_foldl {u : State} {k : Nat} (mask : Nat) (bs : List Byte) (hk : k % 128 = 0) (hframe : u.frameSt k ≠ 3) (hcalm : u.ckpt.on = false)
    {n : Nat} (hn : n ≤ 128) :
    MaskWritten u ((List.range n).foldl (fun t i => if mask / 2 ^ i % 2 = 1 then t.homeWrite (k + i) [bs.getD i 0] else t) u) k mask bs n := by
  induction n with
  | zero => exact ⟨rfl, fun i hi => absurd hi (Nat.not_lt_zero i), fun _ _ => rfl⟩
  | succ n ih =>
    rw [List.range_succ, List.foldl_append, List.foldl_cons, List.foldl_nil]
    have ht := ih (by omega)
    revert ht
    generalize (List.range n).foldl (fun t i => if mask / 2 ^ i % 2 = 1 then t.homeWrite (k + i) [bs.getD i 0] else t) u = t
    intro ht
    obtain ⟨hrest, hset, hkeeps⟩ := ht
    have hbit : mask.testBit n = true ↔ mask / 2 ^ n % 2 = 1 := by rw [Nat.testBit_eq_decide_div_mod_eq, decide_eq_true_iff]
    by_cases hmask : mask / 2 ^ n % 2 = 1
    · have hsame : t.frameSt (k + n) = u.frameSt k := by
        rw [hrest]
        exact frameSt_line u hk (by omega)
      have hcalm' : t.ckpt.on = false := by rw [hrest]; exact hcalm
      rw [if_pos hmask, State.homeWrite_open _ (hsame ▸ hframe) hcalm']
      refine ⟨by rw [hrest]; rfl, fun i hi hm => ?_, fun a ha => ?_⟩
      · by_cases hin : i = n
        · rw [hin]
          exact cget_writeBytes_at t.mem (k + n) [bs.getD n 0] (i := 0) Nat.one_pos
        · refine (cget_writeBytes_other t.mem _ _ ?_).trans (hset i (by omega) hm)
          rw [List.length_singleton]
          omega
      · have hne := ha n (Nat.lt_succ_self n) (hbit.mpr hmask)
        refine (cget_writeBytes_other t.mem _ _ ?_).trans (hkeeps a fun i hi => ha i (by omega))
        rw [List.length_singleton]
        omega
    · rw [if_neg hmask]
      refine ⟨hrest, fun i hi hm => ?_, fun a ha => hkeeps a fun i hi => ha i (by omega)⟩
      have hin : i ≠ n := fun he => hmask (hbit.mp (he ▸ hm))
      exact hset i (by omega) hm

theorem State.maskedWrite_written {u : State} {k : Nat} (mask : Nat) (bs : List Byte) (hk : k % 128 = 0) (hframe : u.frameSt k ≠ 3)
    (hcalm : u.ckpt.on = false) : MaskWritten u (u.maskedWrite k mask bs) k mask bs 128 := maskedWrite_foldl mask bs hk hframe hcalm (le_refl 128)

/-! ## Requests (R243) -/

section
variable {s : State} {p : Nat} {m : FabMsg} {ms : List FabMsg}

/-- The state after a port's first message has left its inbox. -/
def State.taken (s : State) (p : Nat) (ms : List FabMsg) : State := s.updPort p fun x => { x with inbox := ms }

theorem exec_fabricRead (h : (s.portAt p).inbox = m :: ms) (hop : m.op = 1) :
    exec (.fabricRead p) s = .next ((s.taken p ms).serveMsg p m false (m.addr / 128 * 128) 128 fun t =>
      t.answer p m 2 0 (readBytes t.mem (physKey m.ddie (m.addr / 128 * 128)) 128)) := by
  have he : exec (.fabricRead p) s = execFabricRead p s := rfl
  rw [he, execFabricRead, State.inMsg_cons h hop]
  rfl

theorem State.copyBlocked_calm {s : State} (h : s.ckpt.on = false) (k : Nat) : s.copyBlocked k = false := by
  rw [State.copyBlocked, State.copyPending, h]
  rfl

theorem exec_fabricWrite (h : (s.portAt p).inbox = m :: ms) (hop : m.op = 3) (hcalm : s.ckpt.on = false) :
    exec (.fabricWrite p) s = .next ((s.taken p ms).serveMsg p m true (m.addr / 128 * 128) 128 fun t =>
      (t.maskedWrite (physKey m.ddie (m.addr / 128 * 128)) (natAt m.data 0 16) (m.data.drop 16)).answer p m 6 0 []) := by
  have he : exec (.fabricWrite p) s = execFabricWrite p s := rfl
  rw [he, execFabricWrite, State.inMsg_cons h hop]
  simp only [State.copyBlocked_calm hcalm]
  rfl

/-- The result of an atomic of another device on the old value. -/
def FabMsg.atomResult (m : FabMsg) (old : Val) : Val :=
  let ty := (Ty.ofCode m.etype).getD tyN32
  atomF (m.aop + 0x200) ty old (valOfBytes ((m.data.take 16).take (atomBytes ty))) (valOfBytes (((m.data.drop 16).take 16).take (atomBytes ty)))

theorem exec_fabricAtomic (h : (s.portAt p).inbox = m :: ms) (hop : m.op = 4) (hcalm : s.ckpt.on = false) :
    let n := atomBytes ((Ty.ofCode m.etype).getD tyN32)
    let k := physKey m.ddie m.addr
    exec (.fabricAtomic p) s = .next ((s.taken p ms).serveMsg p m true m.addr n fun t =>
      let old := valOfBytes (readBytes t.mem k n)
      (t.homeWrite k (bytesOfVal n (m.atomResult old))).answer p m 5 0 (bytesOfVal 16 old)) := by
  have he : exec (.fabricAtomic p) s = execFabricAtomic p s := rfl
  dsimp only
  rw [he, execFabricAtomic, State.inMsg_cons h hop]
  simp only [State.copyBlocked_calm hcalm]
  rfl

theorem State.answer_byteAt (u : State) (p : Nat) (m : FabMsg) (op aop : Nat) (data : List Byte) (a : Nat) :
    byteAt (u.answer p m op aop data) a = byteAt u a := rfl

/-- A die that does not answer for the address turns the request away, and nothing else has changed. -/
theorem serveMsg_turnsAway {dpa : Nat} (w : Bool) (len : Nat) (eff : State → State) (hp : p < s.ports.length) (h : ¬s.dieServes m.ddie dpa = true) :
    Answered s ((s.taken p ms).serveMsg p m w dpa len eff) p m ms 7 0x27 [] ∧ ((s.taken p ms).serveMsg p m w dpa len eff).mem = s.mem := by
  rw [State.serveMsg_absent w len eff (show ¬(s.taken p ms).dieServes m.ddie dpa = true from h)]
  exact ⟨State.answer_answered m 7 0x27 [] hp rfl rfl, rfl⟩

/-- Only memory, key IDs and the directory of sharers have changed since the message was taken: the port answers. -/
theorem answered_of_rest {u : State} (op aop : Nat) (data : List Byte) (hp : p < s.ports.length) (h : u.sansMem = (s.taken p ms).sansMem) :
    Answered s (u.answer p m op aop data) p m ms op aop data :=
  State.answer_answered m op aop data hp (congrArg State.ports h :) (congrArg State.sys h :)

/-- A write that the die does not turn away reaches a frame in service. -/
theorem State.frameSt_of_inboundCause {d sfdn dpa len : Nat} (hc : s.inboundCause d sfdn true dpa len = 0) : s.frameSt (physKey d dpa) = 0 := by
  unfold State.inboundCause at hc
  simp only at hc
  split at hc
  · cases hc
  · next h =>
      simp only [Bool.not_true, Bool.and_false, Bool.or_false, Bool.or_eq_true, Bool.not_eq_true', not_or, Bool.not_eq_false, beq_iff_eq] at h
      exact h.2

/-- The lines of a request, met under the key ID of its grant in the state that has taken the message. -/
theorem taken_meetKey (k n : Nat) {i : Nat} (hi : i < 64) :
    let u := (s.taken p ms).meetKey k n i
    u.mem = (s.meetKey k n i).mem ∧ u.sansMem = (s.taken p ms).sansMem ∧ u.ckpt = s.ckpt ∧ ∀ a, u.frameSt a = s.frameSt a := by
  have hrest := ((s.taken p ms).meetKey_met k n hi).rest
  refine ⟨(congrArg State.mem (s.meetKey_updPort p _ k n i) :), State.meetKey_sansMem .., by rw [hrest]; rfl, fun a => by rw [hrest]; rfl⟩

/-- What a request does that the die of a port's message serves. -/
theorem taken_serveMsg {w : Bool} {dpa len : Nat} (eff : State → State) (hserves : s.dieServes m.ddie dpa = true)
    (hc : s.inboundCause m.ddie m.sfdn w dpa len = 0) {u : State}
    (hu : (s.taken p ms).meetKey (physKey m.ddie dpa) len (s.grantKey m.ddie m.sfdn w dpa len) = u) :
    (s.taken p ms).serveMsg p m w dpa len eff = eff u :=
  (State.serveMsg_served (s := s.taken p ms) eff hserves hc).trans (congrArg eff hu)

theorem fabricRead_serves (h : (s.portAt p).inbox = m :: ms) (hop : m.op = 1) (hp : p < s.ports.length)
    (hserves : s.dieServes m.ddie (m.addr / 128 * 128) = true) (hc : s.inboundCause m.ddie m.sfdn false (m.addr / 128 * 128) 128 = 0) :
    let k := physKey m.ddie (m.addr / 128 * 128)
    let met := s.meetKey k 128 (s.grantKey m.ddie m.sfdn false (m.addr / 128 * 128) 128)
    ∃ t, exec (.fabricRead p) s = .next t ∧ Answered s t p m ms 2 0 (readBytes met.mem k 128) ∧ t.mem = met.mem := by
  intro k met
  obtain ⟨hmem, hrest, -⟩ := taken_meetKey (s := s) (p := p) (ms := ms) k 128 (s.grantKey_lt m.ddie m.sfdn false (m.addr / 128 * 128) 128)
  obtain ⟨u, hu⟩ : ∃ u, (s.taken p ms).meetKey k 128 (s.grantKey m.ddie m.sfdn false (m.addr / 128 * 128) 128) = u := ⟨_, rfl⟩
  rw [hu] at hmem hrest
  refine ⟨_, (exec_fabricRead h hop).trans (congrArg Host.Outcome.next (taken_serveMsg _ hserves hc hu)), ?_, hmem⟩
  rw [← hmem]
  exact answered_of_rest 2 0 _ hp hrest

theorem fabricWrite_serves (h : (s.portAt p).inbox = m :: ms) (hop : m.op = 3) (hp : p < s.ports.length) (hcalm : s.ckpt.on = false)
    (hserves : s.dieServes m.ddie (m.addr / 128 * 128) = true) (hc : s.inboundCause m.ddie m.sfdn true (m.addr / 128 * 128) 128 = 0) :
    let k := physKey m.ddie (m.addr / 128 * 128)
    let met := s.meetKey k 128 (s.grantKey m.ddie m.sfdn true (m.addr / 128 * 128) 128)
    ∃ t, exec (.fabricWrite p) s = .next t ∧ Answered s t p m ms 6 0 [] ∧ KeepsMem s t (inRun k 128) ∧ ∀ i, i < 128 →
      ((natAt m.data 0 16).testBit i = true → byteAt t (k + i) = m.data.getD (16 + i) 0) ∧
      ((natAt m.data 0 16).testBit i = false → byteAt t (k + i) = byteAt met (k + i)) := by
  intro k met
  have hk : k % 128 = 0 := by
    simp only [k, physKey]
    omega
  have hkey := s.grantKey_lt m.ddie m.sfdn true (m.addr / 128 * 128) 128
  obtain ⟨hmem, hrest, hckpt, hframe⟩ := taken_meetKey (s := s) (p := p) (ms := ms) k 128 hkey
  obtain ⟨u, hu⟩ : ∃ u, (s.taken p ms).meetKey k 128 (s.grantKey m.ddie m.sfdn true (m.addr / 128 * 128) 128) = u := ⟨_, rfl⟩
  rw [hu] at hmem hrest hckpt hframe
  have hmet : ∀ a, byteAt u a = byteAt met a := fun a => congrArg (fun c => cget memDflt c a) hmem
  have hwritten := State.maskedWrite_written (u := u) (natAt m.data 0 16) (m.data.drop 16) hk
    (by rw [hframe, State.frameSt_of_inboundCause hc]; decide) (hckpt ▸ hcalm)
  refine ⟨_, (exec_fabricWrite h hop hcalm).trans (congrArg Host.Outcome.next (taken_serveMsg _ hserves hc hu)), ?_⟩
  refine ⟨answered_of_rest 6 0 [] hp ((congrArg State.sansMem hwritten.rest).trans hrest), fun a ha => ?_, fun i hi => ⟨fun hm => ?_, fun hm => ?_⟩⟩
  · rw [State.answer_byteAt, hwritten.keeps a fun i hi _ he => ha ⟨by omega, by omega⟩, hmet]
    exact s.meetKey_line_byteAt hk hkey ha
  · rw [State.answer_byteAt, hwritten.set i hi hm, List.getD_eq_getElem?_getD, List.getElem?_drop, List.getD_eq_getElem?_getD]
  · rw [State.answer_byteAt, hwritten.keeps (k + i), hmet]
    intro j _ hj he
    obtain rfl : i = j := by omega
    exact absurd hj (by rw [hm]; decide)

theorem fabricAtomic_serves (h : (s.portAt p).inbox = m :: ms) (hop : m.op = 4) (hp : p < s.ports.length) (hcalm : s.ckpt.on = false) {n : Nat}
    (hn : n = atomBytes ((Ty.ofCode m.etype).getD tyN32)) (hserves : s.dieServes m.ddie m.addr = true)
    (hc : s.inboundCause m.ddie m.sfdn true m.addr n = 0) :
    let k := physKey m.ddie m.addr
    let met := s.meetKey k n (s.grantKey m.ddie m.sfdn true m.addr n)
    let old := valOfBytes (readBytes met.mem k n)
    ∃ t, exec (.fabricAtomic p) s = .next t ∧ Answered s t p m ms 5 0 (bytesOfVal 16 old) ∧ KeepsMem met t (inRun k n) ∧
      readBytes t.mem k n = bytesOfVal n (m.atomResult old) := by
  intro k met old
  obtain ⟨hmem, hrest, hckpt, hframe⟩ := taken_meetKey (s := s) (p := p) (ms := ms) k n (s.grantKey_lt m.ddie m.sfdn true m.addr n)
  obtain ⟨u, hu⟩ : ∃ u, (s.taken p ms).meetKey k n (s.grantKey m.ddie m.sfdn true m.addr n) = u := ⟨_, rfl⟩
  rw [hu] at hmem hrest hckpt hframe
  have hold : valOfBytes (readBytes u.mem k n) = old := by rw [hmem]
  have hwrite := State.homeWrite_open (s := u) (k := k) (bytesOfVal n (m.atomResult old))
    (by rw [hframe, State.frameSt_of_inboundCause hc]; decide) (hckpt ▸ hcalm)
  have hbytes : (u.homeWrite k (bytesOfVal n (m.atomResult old))).mem = writeBytes met.mem k (bytesOfVal n (m.atomResult old)) := by
    rw [hwrite, ← hmem]
    rfl
  have hlen : (bytesOfVal n (m.atomResult old)).length = n := bytesOfNat_length _ _
  refine ⟨(u.homeWrite k (bytesOfVal n (m.atomResult old))).answer p m 5 0 (bytesOfVal 16 old), ?_, ?_, fun a ha => ?_, ?_⟩
  · subst hn
    rw [exec_fabricAtomic h hop hcalm, taken_serveMsg _ hserves hc hu, ← hold]
  · exact answered_of_rest 5 0 _ hp ((State.homeWrite_sansMem ..).trans hrest)
  · rw [State.answer_byteAt, byteAt, hbytes]
    refine cget_writeBytes_other _ _ _ ?_
    rw [inRun] at ha
    omega
  · have hread := readBytes_writeBytes met.mem k (bytesOfVal n (m.atomResult old))
    rw [hlen, ← hbytes] at hread
    exact hread

end

end Sys2Proof.Machine
end

section
/-! Answers from other devices, and contributions of other members (09_atomics_sync.md R301, 18_power_package_trust.md R488, R489). -/
namespace Sys2Proof.Machine
open Sys2Proof Sys2Proof.Safety

/-! ## Writes that are turned away (R338, R424) -/

@[simp] theorem State.blockPut_sansMem (s : State) (i off : Nat) (bs : List Byte) : (s.blockPut i off bs).sansMem = s.sansMem := by
  unfold State.blockPut
  simp only
  split <;> simp

/-- A pending fault goes to its wave; what else it writes is the state block. -/
theorem State.pendArrives_sansMem (s : State) (i : Nat) (f : PendFault) : (s.pendArrives i f).sansMem = (s.updWave i fun w => w.pendFault f).sansMem := by
  rw [State.pendArrives, State.sansMem_ite, State.blockPut_sansMem, ite_self]

theorem State.turnedAway_msgs (s : State) (m : Msg) (c : Nat) : (s.turnedAway m c).msgs = s.msgs := by
  unfold State.turnedAway
  split
  · rfl
  · split
    · exact (congrArg State.msgs (State.pendArrives_sansMem s _ _) :)
    · rfl

theorem State.turnedAway_ports (s : State) (m : Msg) (c : Nat) : (s.turnedAway m c).ports = s.ports := by
  unfold State.turnedAway
  split
  · rfl
  · split
    · exact (congrArg State.ports (State.pendArrives_sansMem s _ _) :)
    · rfl

theorem State.waveOf_lt {s : State} {tok : Dword} {i : Nat} (h : s.waveOf tok = some i) : i < s.waves.length :=
  List.mem_range.mp (List.mem_of_find?_eq_some h)

/-- The wave that wrote holds the cause, when it holds none yet. -/
theorem State.turnedAway_pend {s : State} {m : Msg} {i : Nat} (c : Nat) (hcmd : m.cmd = none) (hwave : s.waveOf m.wave = some i)
    (hpend : (s.waveAt i).pend = none) : ∃ f, ((s.turnedAway m c).waveAt i).pend = some f ∧ f.cause = c ∧ f.addr = m.va := by
  let f : PendFault := { cause := c, count := 0, loc := m.loc, die := m.home, addr := m.va, tag := 0, tile := none }
  have ht : s.turnedAway m c = s.pendArrives i f := by
    unfold State.turnedAway
    simp only [hcmd, hwave]
    rfl
  have hwaves : (s.pendArrives i f).waves = (s.updWave i fun w => w.pendFault f).waves := (congrArg State.waves (State.pendArrives_sansMem s i f) :)
  refine ⟨f, ?_, rfl, rfl⟩
  rw [ht, State.waveAt, hwaves]
  exact (congrArg Wave.pend (State.updWave_at s i _ (State.waveOf_lt hwave))).trans (by rw [Wave.pendFault, hpend])

/-! ## Messages of this device -/

theorem State.dropMsg_msgAt (s : State) (id : Nat) : (s.dropMsg id).msgAt id = none := by
  rw [State.msgAt, State.dropMsg, List.find?_eq_none]
  intro m hm
  simpa using (List.mem_filter.mp hm).2

theorem State.updMsg_msgAt (s : State) {id : Nat} {x : Msg} (hx : x.id = id) : (s.updMsg id fun _ => x).msgAt id = (s.msgAt id).map fun _ => x := by
  have hsame : (fun m : Msg => m.id == id) ∘ (fun m => if m.id == id then x else m) = fun m => m.id == id := by
    funext m
    by_cases hm : m.id = id
    · simp [hm, hx]
    · simp [hm]
  rw [State.msgAt, State.updMsg, List.find?_map, hsame, State.msgAt]
  cases hfind : s.msgs.find? fun m => m.id == id with
  | none => rfl
  | some m => exact congrArg some (if_pos (List.find?_some hfind))

/-! ## Answers (R488) -/

section
variable {s : State} {m : FabMsg} {reply : Option (List Byte)} {c : Nat}

theorem State.takeReply_request (h : ∃ r ∈ s.fabReqs, r.msg.tid = m.tid) :
    s.takeReply m reply c =
      { s with fabReqs := s.fabReqs.map fun r => if r.msg.tid == m.tid then { r with reply := reply, cause := c } else r } := by
  refine if_pos (List.any_eq_true.mpr ?_)
  obtain ⟨r, hr, he⟩ := h
  exact ⟨r, hr, beq_iff_eq.mpr he⟩

/-- A write message whose answer has come: the transactions that it still waits for, and its cause. -/
def Msg.answered (w : Msg) (tid c : Nat) : Msg := { w with invs := w.invs.erase tid, cause := if c = 0 then w.cause else c }

theorem State.takeReply_message {w : Msg} (h : ∀ r ∈ s.fabReqs, r.msg.tid ≠ m.tid)
    (hw : s.msgs.find? (fun w => w.tfdn.isSome && w.st == .accepted && w.invs.contains m.tid.toNat) = some w) :
    s.takeReply m reply c =
      if (w.answered m.tid.toNat c).invs.isEmpty then
        if (w.answered m.tid.toNat c).cause = 0 then s.dropMsg w.id else (s.dropMsg w.id).turnedAway (w.answered m.tid.toNat c) (w.answered m.tid.toNat c).cause
      else s.updMsg w.id fun _ => w.answered m.tid.toNat c := by
  rw [State.takeReply, if_neg]
  · simp only [hw]
    rfl
  · simp only [List.any_eq_true, beq_iff_eq, not_exists, not_and]
    exact h

/-- What an answer does that is in the inbox of a port: `s'` is the state that has taken it. -/
theorem takeReply_cases (m : FabMsg) (reply : Option (List Byte)) (c : Nat) (i : Instr) (s' : State) (hi : exec i s = .next (s'.takeReply m reply c))
    (hs' : s' = { s with ports := s'.ports }) :
    ((∃ r ∈ s.fabReqs, r.msg.tid = m.tid) → ∃ t, exec i s = .next t ∧ t = { s' with fabReqs := t.fabReqs } ∧
      t.fabReqs = s.fabReqs.map fun r => if r.msg.tid == m.tid then { r with reply := reply, cause := c } else r) ∧
    (∀ w, (∀ r ∈ s.fabReqs, r.msg.tid ≠ m.tid) → s.msgs.find? (fun w => w.tfdn.isSome && w.st == .accepted && w.invs.contains m.tid.toNat) = some w →
      (w.invs.erase m.tid.toNat ≠ [] → ∃ t, exec i s = .next t ∧ t = { s' with msgs := t.msgs } ∧
        t.msgAt w.id = (s.msgAt w.id).map fun _ => { w with invs := w.invs.erase m.tid.toNat, cause := if c = 0 then w.cause else c }) ∧
      (w.invs.erase m.tid.toNat = [] → ∃ t, exec i s = .next t ∧ t.msgAt w.id = none ∧
        (c = 0 → w.cause = 0 → t = { s' with msgs := t.msgs }) ∧
        (∀ j, c ≠ 0 → w.cmd = none → s.waveOf w.wave = some j → (s.waveAt j).pend = none →
          ∃ f, (t.waveAt j).pend = some f ∧ f.cause = c ∧ f.addr = w.va))) := by
  have hreqs : s'.fabReqs = s.fabReqs := by rw [hs']
  have hmsgs : s'.msgs = s.msgs := by rw [hs']
  refine ⟨fun h => ⟨_, hi, ?_⟩, fun w h hw => ⟨fun hleft => ⟨_, hi, ?_⟩, fun hlast => ⟨_, hi, ?_⟩⟩⟩
  · rw [State.takeReply_request (hreqs ▸ h)]
    exact ⟨rfl, by rw [hreqs]⟩
  · rw [State.takeReply_message (hreqs ▸ h) (hmsgs ▸ hw), if_neg (by rw [Msg.answered, List.isEmpty_iff]; exact hleft)]
    refine ⟨rfl, ?_⟩
    rw [State.updMsg_msgAt s' (id := w.id) (x := w.answered m.tid.toNat c) rfl, State.msgAt, hmsgs, State.msgAt]
    rfl
  · rw [State.takeReply_message (hreqs ▸ h) (hmsgs ▸ hw), if_pos (by rw [Msg.answered, List.isEmpty_iff]; exact hlast)]
    refine ⟨?_, fun hc hcause => ?_, fun j hc hcmd hwave hpend => ?_⟩
    · split
      · exact State.dropMsg_msgAt ..
      · rw [State.msgAt, State.turnedAway_msgs]
        exact State.dropMsg_msgAt ..
    · rw [if_pos (by rw [Msg.answered, if_pos hc]; exact hcause)]
      rfl
    · have hcause : (w.answered m.tid.toNat c).cause = c := if_neg hc
      rw [hcause, if_neg hc]
      exact State.turnedAway_pend c hcmd (by rw [hs']; exact hwave) (by rw [hs']; exact hpend)

end

/-! ## Contributions (R301) -/

/-- A contribution stands in a round of its window and offset. -/
theorem addPart_mem (win off : Nat) (x : RoundPart) (rs : List Round) :
    ∃ r ∈ addPart win off x rs, r.window = win ∧ r.off = off ∧ x ∈ r.parts := by
  induction rs with
  | nil => exact ⟨_, List.mem_singleton_self _, rfl, rfl, List.mem_singleton_self _⟩
  | cons r rs ih =>
    have hlater : ∃ q ∈ r :: addPart win off x rs, q.window = win ∧ q.off = off ∧ x ∈ q.parts := by
      obtain ⟨q, hq, hrest⟩ := ih
      exact ⟨q, List.mem_cons_of_mem _ hq, hrest⟩
    have hhere : x ∈ (r.withPart x).parts := by simp [Round.withPart]
    rw [addPart]
    split
    · next h =>
      obtain ⟨hwin, hoff⟩ := h
      split
      · exact ⟨_, List.mem_cons_self, hwin, hoff, hhere⟩
      · split
        · exact ⟨_, List.mem_cons_self, hwin, hoff, hhere⟩
        · exact hlater
    · exact hlater

theorem fabricContribution_enters {s : State} {p : Nat} {m : FabMsg} {ms : List FabMsg} {w : Nat × Dword × Dword} (h : (s.portAt p).inbox = m :: ms)
    (hop : m.op = 8) (hw : s.windows.find? (fun w => bits w.2.2 32 16 == m.tid.toNat % 2 ^ 16 && bit w.2.2 61) = some w) :
    ∃ t r, exec (.fabricContribution p) s = .next t ∧ t = { s.taken p ms with rounds := t.rounds, heard := t.heard } ∧ r ∈ t.rounds ∧
      r.window = w.1 ∧ r.off = m.addr ∧ ∃ c ∈ r.parts, c.fdn = m.sfdn ∧ c.num = m.tid.toNat / 2 ^ 16 ∧ c.v = valOfBytes (m.data.take 16) := by
  have he : exec (.fabricContribution p) s = execFabricContribution p s := rfl
  have hw' : (s.updPort p fun x => { x with inbox := ms }).windows.find? (fun w => bits w.2.2 32 16 == m.tid.toNat % 2 ^ 16 && bit w.2.2 61) = some w := hw
  rw [he, execFabricContribution, State.inMsg_cons h hop]
  simp only [hw']
  obtain ⟨r, hr, hwin, hoff, hx⟩ := addPart_mem w.1 m.addr
    { fdn := m.sfdn, num := m.tid.toNat / 2 ^ 16, v := valOfBytes (m.data.take 16), ctx := none, wave := none, came := s.cycle } s.rounds
  exact ⟨_, r, rfl, rfl, hr, hwin, hoff, _, hx, rfl, rfl, rfl⟩

end Sys2Proof.Machine
end

section
/-! Flits, acknowledgements, replays and keys (18_power_package_trust.md R487, R489, R490), and the fabric as a whole. -/
namespace Sys2Proof.Machine
open Sys2Proof Sys2Proof.Safety

section
variable {s : State} {p : Nat}

/-- An event that changes one port. -/
theorem updPort_event {i : Instr} {f : PortSt → PortSt} (hp : p < s.ports.length) (hi : exec i s = .next (s.updPort p f)) :
    ∃ t, exec i s = .next t ∧ t = { s with ports := t.ports } ∧ t.portAt p = f (s.portAt p) :=
  ⟨_, hi, rfl, State.updPort_portAt s f hp⟩

/-! ## Data flits (R489) -/

theorem parseMsgs_sfdn (sfdn dfdn n : Nat) (bs : List Byte) : ∀ m ∈ parseMsgs sfdn dfdn n bs, m.sfdn = sfdn := by
  induction n generalizing bs with
  | zero => exact nofun
  | succ n ih =>
    rw [parseMsgs]
    split
    · exact nofun
    · exact List.forall_mem_cons.mpr ⟨rfl, ih _⟩

theorem dataFlit_cases (bytes : List Byte) (hp : p < s.ports.length) (hup : (s.portAt p).failed = false) :
    let x := s.portAt p
    let hd := natAt bytes 0 16
    let good := 480 ≤ bytes.length ∧ hd / 2 ^ 56 % 2 ^ 8 = 1 ∧ x.rxKeys.contains (hd / 2 ^ 55 % 2) = true ∧ hd / 2 ^ 64 = x.expSeq
    ∃ t, exec (.dataFlit p bytes) s = .next t ∧ t = { s with ports := t.ports } ∧
      (good → (t.portAt p).expSeq = x.expSeq + 1 ∧ (∃ f, (t.portAt p).replies = x.replies ++ [f] ∧ f.kind = 2 ∧ f.seq = x.expSeq) ∧
        ∃ got, (t.portAt p).inbox = x.inbox ++ got ∧ ∀ m ∈ got, m.sfdn = hd / 2 ^ 40 % 2 ^ 8) ∧
      (¬good → (t.portAt p).expSeq = x.expSeq ∧ (t.portAt p).inbox = x.inbox ∧ ∃ f, (t.portAt p).replies = x.replies ++ [f] ∧ f.kind = 3 ∧ f.seq = x.expSeq) := by
  intro x hd good
  have he : exec (.dataFlit p bytes) s = execDataFlit p bytes s := rfl
  have hgood : (decide (480 ≤ bytes.length) && hd / 2 ^ 56 % 2 ^ 8 == 1 && x.rxKeys.contains (hd / 2 ^ 55 % 2) && hd / 2 ^ 64 == x.expSeq) = true ↔
      good := by
    simp [good, and_assoc]
  by_cases h : good
  · have hexec : exec (.dataFlit p bytes) s = .next (s.updPort p fun x => PortSt.reply { x with
        expSeq := x.expSeq + 1
        inbox := x.inbox ++ parseMsgs (hd / 2 ^ 40 % 2 ^ 8) (hd / 2 ^ 32 % 2 ^ 8) 30 ((bytes.drop 16).take 464) } 2 (hd / 2 ^ 64) (hd / 2 ^ 40 % 2 ^ 8)) := by
      rw [he, execDataFlit]
      simp only [hup, Bool.false_eq_true, if_false]
      rw [if_pos (hgood.mpr h)]
    obtain ⟨t, ht, hrest, hport⟩ := updPort_event hp hexec
    refine ⟨t, ht, hrest, fun _ => ?_, fun hn => absurd h hn⟩
    rw [hport]
    exact ⟨rfl, ⟨_, rfl, rfl, h.2.2.2⟩, _, rfl, parseMsgs_sfdn _ _ _ _⟩
  · have hexec : exec (.dataFlit p bytes) s = .next (s.updPort p fun x => x.reply 3 x.expSeq (hd / 2 ^ 40 % 2 ^ 8)) := by
      rw [he, execDataFlit]
      simp only [hup, Bool.false_eq_true, if_false]
      rw [if_neg (mt hgood.mp h)]
    obtain ⟨t, ht, hrest, hport⟩ := updPort_event hp hexec
    refine ⟨t, ht, hrest, fun hn => absurd hn h, fun _ => ?_⟩
    rw [hport]
    exact ⟨rfl, rfl, _, rfl, rfl, rfl⟩

/-! ## Acknowledgements and keys (R489, R490) -/

theorem PortSt.rollKeys_replay (x : PortSt) : x.rollKeys.replay = x.replay ∧ x.rollKeys.resends = x.resends := by
  unfold PortSt.rollKeys
  split <;> exact ⟨rfl, rfl⟩

/-- The sender's next step adds nothing to what it may send again but an epoch-retired flit. -/
theorem PortSt.rollOn_replay (x : PortSt) (now : Nat) :
    (∀ f ∈ (x.rollOn now).replay, f.kind ≠ 4 → f ∈ x.replay) ∧ (x.rollOn now).resends = x.resends := by
  unfold PortSt.rollOn
  split
  · refine ⟨fun f hf hkind => ?_, rfl⟩
    rcases List.mem_append.mp hf with hf | hf
    · exact hf
    · exact absurd (congrArg Flit.kind (List.mem_singleton.mp hf)) hkind
  · split
    · dsimp only
      split
      · obtain ⟨hreplay, hresends⟩ := rollKeys_replay { x with rollover := 0 }
        rw [hreplay, hresends]
        exact ⟨fun f hf _ => hf, rfl⟩
      · exact ⟨fun f hf _ => hf, rfl⟩
    · exact ⟨fun f hf _ => hf, rfl⟩

theorem flitAcknowledge_frees (seq : Dword) (hp : p < s.ports.length) :
    ∃ t, exec (.flitAcknowledge p seq) s = .next t ∧
      (∀ f, f ∈ (t.portAt p).replay → f.kind ≠ 4 → f ∈ (s.portAt p).replay ∧ seq.toNat < f.seq) ∧
      ((∃ f ∈ (s.portAt p).replay, f.seq ≤ seq.toNat) → (s.portAt p).deferred = false → (t.portAt p).resends = 0) ∧ t.mem = s.mem := by
  obtain ⟨t, ht, hrest, hport⟩ := updPort_event (i := .flitAcknowledge p seq) hp rfl
  dsimp only at hport
  refine ⟨t, ht, ?_, ?_, by rw [hrest]⟩
  · intro f hf hkind
    rw [hport] at hf
    split at hf
    · next hall =>
      have hsame := List.filter_eq_self.mp ((List.filter_sublist).eq_of_length hall)
      exact ⟨hf, decide_eq_true_iff.mp (hsame f hf)⟩
    · obtain ⟨hmem, hseq⟩ := List.mem_filter.mp ((PortSt.rollOn_replay _ _).1 f hf hkind)
      exact ⟨hmem, decide_eq_true_iff.mp hseq⟩
  · rintro ⟨f, hf, hseq⟩ -
    rw [hport, if_neg]
    · exact (PortSt.rollOn_replay _ _).2
    · intro hall
      have hsame := List.filter_eq_self.mp ((List.filter_sublist).eq_of_length hall)
      exact absurd (decide_eq_true_iff.mp (hsame f hf)) (Nat.not_lt.mpr hseq)

theorem epochRetired_cases (seq : Dword) (hp : p < s.ports.length) (hup : (s.portAt p).failed = false) :
    let x := s.portAt p
    ∃ t, exec (.epochRetired p seq) s = .next t ∧
      (seq.toNat = x.expSeq → 2 ≤ x.rxKeys.length → x.deferred = false → (t.portAt p).rxKeys = x.rxKeys.drop 1 ∧ (t.portAt p).expSeq = x.expSeq + 1) ∧
      (seq.toNat ≠ x.expSeq → (t.portAt p).rxKeys = x.rxKeys ∧ ∃ f, (t.portAt p).replies = x.replies ++ [f] ∧ f.kind = 3) := by
  intro x
  obtain ⟨t, ht, -, hport⟩ := updPort_event (i := .epochRetired p seq) hp rfl
  rw [if_neg (by rw [hup]; exact nofun)] at hport
  refine ⟨t, ht, fun hseq hkeys hdef => ?_, fun hseq => ?_⟩
  · rw [if_pos ⟨hseq, hkeys⟩, if_neg fun h => absurd (hdef.symm.trans h.1) Bool.false_ne_true] at hport
    rw [hport]
    exact ⟨rfl, rfl⟩
  · rw [if_neg fun h => hseq h.1] at hport
    rw [hport]
    exact ⟨rfl, _, rfl, rfl⟩

theorem keyRollover_cases (hp : p < s.ports.length) :
    let x := s.portAt p
    ∃ t, exec (.keyRollover p) s = .next t ∧ t = { s with ports := t.ports } ∧
      (x.rollover = 0 → x.rxKeys.length < 2 → (t.portAt p).rxKeys = x.rxKeys ++ [1 - x.rxKeys.headD 0] ∧ (t.portAt p).epoch = 1 - x.epoch ∧
        (t.portAt p).rollover = 1) ∧
      (x.rollover ≠ 0 ∨ 2 ≤ x.rxKeys.length → t = s.updPort p fun x => { x with deferred := true }) := by
  intro x
  obtain ⟨t, ht, hrest, hport⟩ := updPort_event (i := .keyRollover p) hp rfl
  refine ⟨t, ht, hrest, fun hroll hkeys => ?_, fun hbusy => ?_⟩
  · rw [PortSt.rollKeys, if_neg (by simp only [not_or, not_not, not_le]; exact ⟨hroll, hkeys⟩)] at hport
    rw [hport]
    exact ⟨rfl, rfl, rfl⟩
  · have hkeys : x.rollKeys = { x with deferred := true } := if_pos hbusy
    exact (Host.Outcome.next.inj ht).symm.trans (congrArg (fun l => { s with ports := l }) (updAt_congr s.ports p hkeys))

/-! ## Replays, and a port that fails (R36, R489) -/

theorem State.failPort_portAt (hp : p < s.ports.length) : (s.failPort p).portAt p = { s.portAt p with failed := true, outbox := [] } := by
  have hlost : ∀ (ms : List Msg) (u : State), (ms.foldl (fun s m => (s.dropMsg m.id).turnedAway m 0x80) u).ports = u.ports := fun ms u =>
    List.foldlRecOn (motive := fun t : State => t.ports = u.ports) ms _ rfl fun t ht m _ => (State.turnedAway_ports ..).trans ht
  unfold State.failPort
  rw [State.portAt]
  refine (congrArg (fun l : List PortSt => l.getD p PortSt.reset) (hlost _ _)).trans ?_
  exact State.updPort_portAt _ _ hp

theorem State.resend_cases (hreplay : (s.portAt p).replay ≠ []) (hup : (s.portAt p).failed = false) :
    s.resend p = if 16 ≤ (s.portAt p).resends then s.failPort p else s.updPort p fun x => { x with resends := x.resends + 1, lastAck := s.cycle } := by
  rw [State.resend]
  refine if_neg ?_
  rw [hup, List.isEmpty_iff]
  exact fun h => h.elim Bool.false_ne_true hreplay

theorem resend_event {i : Instr} (hp : p < s.ports.length) (hreplay : (s.portAt p).replay ≠ []) (hup : (s.portAt p).failed = false)
    (hi : exec i s = .next (s.resend p)) :
    ((s.portAt p).resends < 16 → exec i s = .next (s.updPort p fun x => { x with resends := x.resends + 1, lastAck := s.cycle })) ∧
    (16 ≤ (s.portAt p).resends → ∃ t, exec i s = .next t ∧ (t.portAt p).failed = true ∧ (t.portAt p).outbox = []) := by
  rw [hi, State.resend_cases hreplay hup]
  refine ⟨fun h => by rw [if_neg (Nat.not_le.mpr h)], fun h => ⟨_, rfl, ?_⟩⟩
  rw [if_pos h, State.failPort_portAt hp]
  exact ⟨rfl, rfl⟩

theorem exec_flitNegativeAck {seq : Dword} (h : ∃ f ∈ (s.portAt p).replay, f.seq = seq.toNat) : exec (.flitNegativeAck p seq) s = .next (s.resend p) := by
  refine congrArg Host.Outcome.next (if_pos (List.any_eq_true.mpr ?_))
  obtain ⟨f, hf, hseq⟩ := h
  exact ⟨f, hf, beq_iff_eq.mpr hseq⟩

theorem exec_flitReplayTimeout (h : (s.portAt p).lastAck + 1024 ≤ s.cycle) : exec (.flitReplayTimeout p) s = .next (s.resend p) :=
  congrArg Host.Outcome.next (if_pos h)

/-! ## The statement -/

theorem emptyInbox_event (h : (s.portAt p).inbox = []) : ∀ i ∈ [Instr.fabricRead p, .fabricReadData p, .fabricWrite p, .fabricAtomic p,
    .fabricAtomicData p, .fabricWriteAck p, .fabricNegativeAck p, .fabricContribution p], exec i s = .next s := by
  have hread : execFabricRead p s = .next s := by rw [execFabricRead, State.inMsg_nil 1 h]
  have hreadData : execFabricReadData p s = .next s := by rw [execFabricReadData, State.inMsg_nil 2 h]
  have hwrite : execFabricWrite p s = .next s := by rw [execFabricWrite, State.inMsg_nil 3 h]
  have hatomic : execFabricAtomic p s = .next s := by rw [execFabricAtomic, State.inMsg_nil 4 h]
  have hatomicData : execFabricAtomicData p s = .next s := by rw [execFabricAtomicData, State.inMsg_nil 5 h]
  have hwriteAck : execFabricWriteAck p s = .next s := by rw [execFabricWriteAck, State.inMsg_nil 6 h]
  have hnegativeAck : execFabricNegativeAck p s = .next s := by rw [execFabricNegativeAck, State.inMsg_nil 7 h]
  have hcontribution : execFabricContribution p s = .next s := by rw [execFabricContribution, State.inMsg_nil 8 h]
  simp only [List.forall_mem_cons, List.not_mem_nil, false_imp_iff, implies_true, and_true]
  exact ⟨hread, hreadData, hwrite, hatomic, hatomicData, hwriteAck, hnegativeAck, hcontribution⟩

/-- An answer at the head of a port's inbox reaches the request that waits for it. -/
theorem exec_answer {m : FabMsg} {ms : List FabMsg} (h : (s.portAt p).inbox = m :: ms) {i : Instr} {reply : Option (List Byte)} {c : Nat}
    (hi : (m.op = 2 ∧ i = Instr.fabricReadData p ∧ reply = some m.data ∧ c = 0) ∨ (m.op = 5 ∧ i = .fabricAtomicData p ∧ reply = some m.data ∧ c = 0) ∨
      (m.op = 6 ∧ i = .fabricWriteAck p ∧ reply = some [] ∧ c = 0) ∨
      (m.op = 7 ∧ i = .fabricNegativeAck p ∧ reply = none ∧ c = if m.aop = 0x80 then 0x80 else 0x27)) :
    exec i s = .next ((s.taken p ms).takeReply m reply c) := by
  rcases hi with ⟨hop, rfl, rfl, rfl⟩ | ⟨hop, rfl, rfl, rfl⟩ | ⟨hop, rfl, rfl, rfl⟩ | ⟨hop, rfl, rfl, rfl⟩
  · have he : exec (.fabricReadData p) s = execFabricReadData p s := rfl
    rw [he, execFabricReadData, State.inMsg_cons h hop]
    rfl
  · have he : exec (.fabricAtomicData p) s = execFabricAtomicData p s := rfl
    rw [he, execFabricAtomicData, State.inMsg_cons h hop]
    rfl
  · have he : exec (.fabricWriteAck p) s = execFabricWriteAck p s := rfl
    rw [he, execFabricWriteAck, State.inMsg_cons h hop]
    rfl
  · have he : exec (.fabricNegativeAck p) s = execFabricNegativeAck p s := rfl
    rw [he, execFabricNegativeAck, State.inMsg_cons h hop]
    rfl

/-- A request that no die serves is answered with a negative acknowledgement. -/
theorem request_turnedAway {m : FabMsg} {ms : List FabMsg} (hp : p < s.ports.length) (hcalm : s.ckpt.on = false) (h : (s.portAt p).inbox = m :: ms)
    {i : Instr} {dpa : Nat} (hi : (m.op = 1 ∧ i = Instr.fabricRead p ∧ dpa = m.addr / 128 * 128) ∨
      (m.op = 3 ∧ i = .fabricWrite p ∧ dpa = m.addr / 128 * 128) ∨ (m.op = 4 ∧ i = .fabricAtomic p ∧ dpa = m.addr))
    (hserves : ¬s.dieServes m.ddie dpa = true) : ∃ t, exec i s = .next t ∧ Answered s t p m ms 7 0x27 [] ∧ t.mem = s.mem := by
  rcases hi with ⟨hop, rfl, rfl⟩ | ⟨hop, rfl, rfl⟩ | ⟨hop, rfl, rfl⟩
  · exact ⟨_, exec_fabricRead h hop, serveMsg_turnsAway _ _ _ hp hserves⟩
  · exact ⟨_, exec_fabricWrite h hop hcalm, serveMsg_turnsAway _ _ _ hp hserves⟩
  · exact ⟨_, exec_fabricAtomic h hop hcalm, serveMsg_turnsAway _ _ _ hp hserves⟩

end

/-- Settles O51. -/
theorem fabricLinks : Obligations.FabricLinks := by
  intro s p hp hcalm
  refine ⟨emptyInbox_event, fun m ms h => ?_, fun bytes hup => dataFlit_cases bytes hp hup, fun seq => flitAcknowledge_frees seq hp, ?_, ?_,
    fun seq hup => epochRetired_cases seq hp hup, rfl, keyRollover_cases hp⟩
  · refine ⟨fun i dpa hi hserves => ?_, fun hop hserves hc => ?_, fun hop hserves hc => ?_, fun hop hserves hc => ?_, fun i reply c hi => ?_,
      fun w hop hw => fabricContribution_enters h hop hw⟩
    · exact request_turnedAway hp hcalm h hi (mt (s.dieServes_iff _ _).mp hserves)
    · exact fabricRead_serves h hop hp ((s.dieServes_iff _ _).mpr hserves) hc
    · exact fabricWrite_serves h hop hp hcalm ((s.dieServes_iff _ _).mpr hserves) hc
    · exact fabricAtomic_serves h hop hp hcalm rfl ((s.dieServes_iff _ _).mpr hserves) hc
    · exact takeReply_cases m reply c i (s.taken p ms) (exec_answer h hi) rfl
  · rintro i seq (⟨rfl, hseq⟩ | ⟨rfl, hlate⟩) hreplay hup
    · exact resend_event hp hreplay hup (exec_flitNegativeAck hseq)
    · exact resend_event hp hreplay hup (exec_flitReplayTimeout hlate)
  · exact fun hearly => congrArg Host.Outcome.next (if_neg (Nat.not_le.mpr hearly))

end Sys2Proof.Machine
end

section
/-! The memory stays in canonical form: the operations of the state (08_memory.md R233, R244). -/
namespace Sys2Proof.Machine
open Sys2Proof Sys2Proof.Safety
set_option Elab.async false

/-! ## Canonical memory -/

/-- What lies outside the memory may change. -/
theorem canonical_with {s t : State} (h : State.canonical s) (ht : t.mem = s.mem := by with_reducible rfl) : State.canonical t :=
  (congrArg Memory.wf ht).mpr h

theorem ite_canonical {c : Prop} {_ : Decidable c} {a b : State} (ha : State.canonical a) (hb : State.canonical b) :
    State.canonical (if c then a else b) := by split <;> assumption

theorem foldl_canonical {α : Type} {f : State → α → State} {l : List α} {s : State} (h : State.canonical s)
    (hf : ∀ s x, State.canonical s → State.canonical (f s x)) : State.canonical (l.foldl f s) :=
  List.foldlRecOn (motive := State.canonical) l f h fun t ht x _ => hf t x ht

theorem getD_canonical {o : Option State} {s : State} (ho : ∀ t, o = some t → State.canonical t) (h : State.canonical s) :
    State.canonical (o.getD s) := by
  cases o with
  | none => exact h
  | some t => exact ho t rfl

/-- An outcome whose next state, if it has one, has its memory in canonical form. -/
def NextCanonical : Outcome → Prop
  | .next t => State.canonical t
  | _ => True

theorem next_canonical {s : State} (h : State.canonical s) : NextCanonical (.next s) := h

/-! ## Memory, its keys and lines, and the caches of a die -/

section
variable {s : State} (h : State.canonical s)
include h

theorem State.takeFree_canonical : State.canonical s.takeFree.2 := by
  unfold State.takeFree
  dsimp only
  exact canonical_with h

theorem State.sysSet_canonical (cp c : Nat) (v : Dword) : State.canonical (s.sysSet cp c v) := by
  unfold State.sysSet
  exact canonical_with h

theorem State.ctxSet_canonical (ctx c : Nat) (v : Dword) : State.canonical (s.ctxSet ctx c v) := by
  unfold State.ctxSet
  exact State.sysSet_canonical h ..

theorem State.dieSet_canonical (d c : Nat) (v : Dword) : State.canonical (s.dieSet d c v) := by
  unfold State.dieSet
  exact State.sysSet_canonical h ..

theorem State.setDie_canonical (d : Nat) (f : DieSt → DieSt) : State.canonical (s.setDie d f) := by
  unfold State.setDie
  exact canonical_with h

theorem State.viewAs_canonical (key k : Nat) : State.canonical (s.viewAs key k) := by
  unfold State.viewAs
  dsimp only
  split
  · exact h
  · exact writeBytes_cwf (m := s.mem) h

theorem State.meetKey_canonical (k n i : Nat) : State.canonical (s.meetKey k n i) := by
  unfold State.meetKey
  exact ite_canonical h (foldl_canonical h (fun _ _ ht => State.viewAs_canonical ht ..))

theorem State.meet_canonical (p : Phys) (n : Nat) : State.canonical (s.meet p n) := by
  unfold State.meet
  exact ite_canonical h (State.meetKey_canonical h ..)

theorem State.invalidateSharers_canonical (line : Nat) : State.canonical (s.invalidateSharers line) := by
  unfold State.invalidateSharers
  exact canonical_with h

theorem State.pokeBytes_canonical (k : Nat) (bs : List Byte) : State.canonical (s.pokeBytes k bs) :=
  writeBytes_cwf (State.invalidateSharers_canonical h _)

theorem State.invalidateFrame_canonical (k : Nat) : State.canonical (s.invalidateFrame k) := by
  unfold State.invalidateFrame
  dsimp only
  exact canonical_with h

theorem State.stagingTouch_canonical (p : Phys) : State.canonical (s.stagingTouch p) := by
  unfold State.stagingTouch
  dsimp only
  exact ite_canonical h (ite_canonical (canonical_with h) (State.pokeBytes_canonical (State.viewAs_canonical h ..) ..))

theorem State.stageFrame_canonical (frame slot : Nat) : State.canonical (s.stageFrame frame slot) := by
  generalize hf : State.stageFrame = f
  delta State.stageFrame at hf
  subst hf
  beta_reduce
  split
  · exact canonical_with h
  · have hcopy : ∀ key k keyids, State.canonical { s.invalidateFrame k with
        mem := copyRange memDflt (s.invalidateFrame k).mem key 65536
          (s.invalidateFrame k).mem k, keyids := keyids } := fun key k keyids =>
      copyRange_cwf _ _ _ (State.invalidateFrame_canonical h k)
    exact canonical_with (State.stagingTouch_canonical (hcopy ..) _)

theorem State.homePut_canonical (core : Option Nat) (k : Nat) (bs : List Byte) :
    State.canonical (s.homePut core k bs) := by
  unfold State.homePut
  split
  · split
    · exact State.pokeBytes_canonical (State.stageFrame_canonical h ..) ..
    · exact canonical_with h
  · exact State.pokeBytes_canonical h ..

theorem State.homeWriteBy_canonical (core : Option Nat) (k : Nat) (bs : List Byte) : State.canonical (s.homeWriteBy core k bs) := by
  unfold State.homeWriteBy
  exact ite_canonical h (State.homePut_canonical h ..)

theorem State.homeWrite_canonical (k : Nat) (bs : List Byte) : State.canonical (s.homeWrite k bs) := by
  unfold State.homeWrite
  exact State.homeWriteBy_canonical h ..

theorem State.markLeaf_canonical (p : Phys) (wr : Bool) : State.canonical (s.markLeaf p wr) := by
  unfold State.markLeaf
  dsimp only
  exact ite_canonical h (State.homeWrite_canonical (State.viewAs_canonical h ..) ..)

theorem State.hint_canonical (cache line : Nat) (x : Evict) : State.canonical (s.hint cache line x) := by
  unfold State.hint
  dsimp only
  split
  · exact h
  all_goals exact canonical_with h

theorem State.rdcRead_canonical (die k : Nat) (evict : Evict) : State.canonical (s.rdcRead die k evict) := by
  unfold State.rdcRead
  dsimp only
  exact ite_canonical (State.hint_canonical h ..) (ite_canonical (State.hint_canonical h ..) (ite_canonical h (State.hint_canonical
    (State.hint_canonical (canonical_with h) ..) ..)))

theorem State.walkReads_canonical (die ctx va : Nat) : State.canonical (s.walkReads die ctx va) := by
  unfold State.walkReads
  exact foldl_canonical h (fun _ _ ht => State.rdcRead_canonical ht ..)

theorem State.touch_canonical (a : Acc) (va : Nat) (p : Phys) :
    State.canonical (s.touch a va p) := by
  unfold State.touch
  extract_lets leaf ent walked marked buffered
  have hw : State.canonical walked := ite_canonical (State.walkReads_canonical h ..) h
  have hm : State.canonical marked := ite_canonical hw (State.homeWrite_canonical (State.viewAs_canonical hw ..) ..)
  have hb : State.canonical buffered := by
    simp only [buffered]
    split
    · exact ite_canonical hm (canonical_with hm)
    · exact canonical_with hm
  exact State.meet_canonical hb ..

theorem State.l1Drop_canonical (core line sp : Nat) : State.canonical (s.l1Drop core line sp) := by
  unfold State.l1Drop
  exact canonical_with h

theorem State.l1Acquire_canonical (core : Nat) : State.canonical (s.l1Acquire core) := by
  unfold State.l1Acquire
  exact canonical_with h

theorem State.l1Update_canonical (core k : Nat) (bs : List Byte) : State.canonical (s.l1Update core k bs) := by
  unfold State.l1Update
  exact canonical_with h

theorem State.l1Note_canonical (x : Evict) (core line sp : Nat) : State.canonical (s.l1Note x core line sp) := by
  unfold State.l1Note
  dsimp only
  split
  · exact h
  · split
    · exact h
    all_goals exact canonical_with h

end

/-! ## Logs, records and the notice ring -/

section
variable {s : State} (h : State.canonical s)
include h

theorem State.logDenial_canonical (home addr : Nat) (tok : Dword) (map src c fdn : Nat) :
    State.canonical (s.logDenial home addr tok map src c fdn) := by
  unfold State.logDenial
  dsimp only
  exact ite_canonical h (State.dieSet_canonical (State.homePut_canonical (State.meetKey_canonical h ..) ..) ..)

theorem State.updTask_canonical (hd : Dword) (f : Task → Task) : State.canonical (s.updTask hd f) := by
  unfold State.updTask
  exact canonical_with h

theorem State.dropTask_canonical (hd : Dword) : State.canonical (s.dropTask hd) := by
  unfold State.dropTask
  exact canonical_with h

theorem State.ctxWrite_canonical (ctx va : Nat) (bs : List Byte) : State.canonical (s.ctxWrite ctx va bs) := by
  unfold State.ctxWrite
  split
  · exact State.homeWrite_canonical (State.meet_canonical (State.markLeaf_canonical h ..) ..) ..
  · exact h

theorem State.ctxCopyOut_canonical (ctx va n : Nat) (cells : Cells 8) :
    State.canonical (s.ctxCopyOut ctx va n cells) :=
  foldl_canonical h fun t p ht => by
    split
    · exact ite_canonical ht (copyRange_cwf _ _ _ (foldl_canonical (State.homeWrite_canonical (State.meet_canonical
        (State.markLeaf_canonical ht ..) ..) ..) fun _ _ hu => State.invalidateSharers_canonical hu _))
    · exact ht

theorem State.tfWrite_canonical (ctx : Nat) (r : FaultRec) : State.canonical (s.tfWrite ctx r) := by
  unfold State.tfWrite
  dsimp only
  exact ite_canonical (State.ctxSet_canonical h ..) (State.ctxSet_canonical (State.ctxWrite_canonical h ..) ..)

theorem State.taskFaultEnd_canonical (hd : Dword) (r : FaultRec) : State.canonical (s.taskFaultEnd hd r) := by
  unfold State.taskFaultEnd
  dsimp only
  split
  · exact h
  · exact State.dropTask_canonical (foldl_canonical (State.tfWrite_canonical h ..) (fun _ _ ht => State.tfWrite_canonical ht ..)) ..

theorem State.fire_canonical (hd : Dword) : State.canonical (s.fire hd) := by
  unfold State.fire
  dsimp only
  split
  · exact h
  · exact ite_canonical (State.taskFaultEnd_canonical (State.updTask_canonical h ..) ..) (State.updTask_canonical h ..)

theorem State.settle_canonical (hd : Dword) : State.canonical (s.settle hd) := by
  unfold State.settle
  split
  · exact ite_canonical (State.fire_canonical h ..) h
  · exact h

theorem State.signal_canonical (hd : Dword) : State.canonical (s.signal hd) := by
  unfold State.signal
  exact State.settle_canonical (State.updTask_canonical h ..) ..

theorem State.taskDone_canonical (hd : Dword) : State.canonical (s.taskDone hd) := by
  unfold State.taskDone
  dsimp only
  split
  · exact h
  · exact State.dropTask_canonical (foldl_canonical (State.updTask_canonical h ..) (fun _ _ ht => State.signal_canonical ht ..)) ..

theorem State.addEdge_canonical (pred succ : Dword) : State.canonical (s.addEdge pred succ) := by
  unfold State.addEdge
  exact State.updTask_canonical (State.updTask_canonical h ..) ..

theorem State.newTask_canonical {die ctx : Nat} {prio : Word} {handler : Bool} {bs : List Byte}
    {r : Dword × State} (e : s.newTask die ctx prio handler bs = some r) : State.canonical r.2 := by
  unfold State.newTask at e
  split at e
  · cases e
  · cases e
    exact foldl_canonical (canonical_with (State.setDie_canonical h ..)) fun _ _ ht => State.addEdge_canonical ht ..

theorem State.arm_canonical (hd : Dword) (n : Word) : State.canonical (s.arm hd n) := by
  unfold State.arm
  exact State.settle_canonical (State.updTask_canonical h ..) ..

theorem State.makeHandler_canonical (ctx : Nat) : State.canonical (s.makeHandler ctx) := by
  unfold State.makeHandler
  dsimp only
  split
  · exact h
  · split
    · exact h
    · split
      · exact h
      · split
        · exact State.arm_canonical (State.newTask_canonical (State.meet_canonical (State.markLeaf_canonical h ..) ..) ‹_›) ..
        · exact State.meet_canonical (State.markLeaf_canonical h ..) ..

theorem State.ringPush_canonical (ctx : Nat) (r : FaultRec) : State.canonical (s.ringPush ctx r) := by
  unfold State.ringPush
  dsimp only
  exact State.makeHandler_canonical (ite_canonical (canonical_with (State.ctxSet_canonical (State.ctxWrite_canonical h ..) ..))
    (State.ctxSet_canonical (State.ctxWrite_canonical h ..) ..)) ..

theorem State.notice_canonical (ctx : Nat) (r : FaultRec) : State.canonical (s.notice ctx r) := by
  unfold State.notice
  exact ite_canonical h (ite_canonical (ite_canonical (State.ctxSet_canonical h ..) (canonical_with h)) (State.ringPush_canonical h ..))

end

/-! ## Accesses to frames of other devices -/

section
variable {s : State} (h : State.canonical s)
include h

theorem State.sendFab_canonical (port : Nat) (m : FabMsg) : State.canonical (s.sendFab port m) := by
  unfold State.sendFab
  exact canonical_with h

theorem State.fabAsk_canonical (die : Nat) (owner : Dword) (l : Loc) (a : FabAsk) : State.canonical (s.fabAsk die owner l a) := by
  unfold State.fabAsk
  dsimp only
  exact ite_canonical h (ite_canonical (State.sendFab_canonical (canonical_with h) ..) (canonical_with h))

theorem State.fabAskAll_canonical (die : Nat) (owner : Dword) (l : Loc) (as : List FabAsk) :
    State.canonical (s.fabAskAll die owner l as) := by
  unfold State.fabAskAll
  exact foldl_canonical h (fun _ _ ht => State.fabAsk_canonical ht ..)

theorem State.fabDrop_canonical (owner : Dword) (l : Loc) : State.canonical (s.fabDrop owner l) := by
  unfold State.fabDrop
  exact canonical_with h

end

/-! ## Waves, lanes and their results -/

theorem cwfFrom_append {w : Nat} {d : Nat → BitVec w} {a b : Cells w} {lo mid : Nat} (ha : cwfFrom d lo a = true)
    (hlt : ∀ e ∈ a, e.1 < mid) (hb : cwfFrom d mid b = true) (hlo : lo ≤ mid) : cwfFrom d lo (a ++ b) = true := by
  induction a generalizing lo with
  | nil => exact cwfFrom_mono hb hlo
  | cons e a ih =>
    simp only [cwfFrom, List.cons_append, Bool.and_eq_true, decide_eq_true_eq] at ha ⊢
    exact ⟨ha.1, ih ha.2 (fun x hx => hlt x (List.mem_cons_of_mem _ hx)) (hlt e List.mem_cons_self)⟩

theorem cwfFrom_of_le {w : Nat} {d : Nat → BitVec w} {m : Cells w} {lo lo' : Nat} (h : cwfFrom d lo m = true)
    (hle : ∀ e ∈ m, lo' ≤ e.1) : cwfFrom d lo' m = true := by
  cases m with
  | nil => rfl
  | cons e m =>
    simp only [cwfFrom, Bool.and_eq_true, decide_eq_true_eq] at h ⊢
    exact ⟨⟨hle e List.mem_cons_self, h.1.2⟩, h.2⟩

/-- The cells that a run of bytes lists. -/
theorem cwfFrom_listed (bs : List Byte) (k : Nat) :
    cwfFrom memDflt k (((bs.zipIdx k).map fun b => (b.2, b.1)).filter fun e => e.2 != memDflt e.1) = true := by
  induction bs generalizing k with
  | nil => rfl
  | cons b bs ih =>
    rw [List.zipIdx_cons, List.map_cons, List.filter_cons]
    split
    · next hb =>
      simp only [cwfFrom, Bool.and_eq_true, decide_eq_true_eq]
      exact ⟨⟨Nat.le_refl k, bne_iff_ne.mp hb⟩, ih (k + 1)⟩
    · exact cwfFrom_mono (ih (k + 1)) (Nat.le_succ k)

theorem putBytes_cwf {m : Cells 8} (h : cwf memDflt m = true) (k : Nat) (bs : List Byte) : cwf memDflt (putBytes m k bs) = true := by
  have hkey : ∀ e ∈ (bs.zipIdx k).map fun b => (b.2, b.1), e.1 < k + bs.length := by
    intro e he
    obtain ⟨b, hb, rfl⟩ := List.mem_map.mp he
    have := List.snd_lt_add_of_mem_zipIdx hb
    omega
  rw [putBytes, List.append_assoc]
  refine cwfFrom_append (filter_cwfFrom _ h) (fun e he => by simpa using (List.mem_filter.mp he).2)
    (cwfFrom_append (mid := k + bs.length) (cwfFrom_listed bs k) (fun e he => hkey e (List.mem_filter.mp he).1)
      (cwfFrom_of_le (filter_cwfFrom _ h) fun e he => by simpa using (List.mem_filter.mp he).2) (Nat.le_add_right ..)) (Nat.zero_le k)

section
variable {s : State} (h : State.canonical s)
include h

theorem State.updWave_canonical (wi : Nat) (f : Wave → Wave) : State.canonical (s.updWave wi f) := by
  unfold State.updWave
  exact canonical_with h

theorem State.updWv_canonical (f : Wave → Wave) : State.canonical (s.updWv f) := by
  unfold State.updWv
  exact State.updWave_canonical h ..

theorem State.updWg_canonical (i : Nat) (f : Workgroup → Workgroup) : State.canonical (s.updWg i f) := by
  unfold State.updWg
  exact canonical_with h

theorem State.updGang_canonical (task : Dword) (num : Nat) (f : Gang → Gang) : State.canonical (s.updGang task num f) := by
  unfold State.updGang
  exact canonical_with h

theorem State.joinTrans_canonical (w : Wave) (hd : Nat) (k : TransKey) : State.canonical (s.joinTrans w hd k) := by
  unfold State.joinTrans
  dsimp only
  exact ite_canonical (canonical_with h) (canonical_with h)

theorem State.requestTrans_canonical (wi hd : Nat) (k : TransKey) : State.canonical (s.requestTrans wi hd k) := by
  unfold State.requestTrans
  dsimp only
  exact ite_canonical h (State.joinTrans_canonical (ite_canonical (State.notice_canonical (State.dieSet_canonical h ..) ..)
    (State.dieSet_canonical h ..)) ..)

theorem State.finish_canonical (res : Nat → List Val) : State.canonical (s.finish res) := by
  unfold State.finish
  exact State.updWv_canonical h ..

theorem State.put_canonical (f : Nat → Val) : State.canonical (s.put f) := by
  unfold State.put
  exact State.finish_canonical h ..

theorem State.done_canonical : State.canonical s.done := by
  unfold State.done
  exact State.finish_canonical h ..

theorem State.park_canonical (m : Mask) (w : Nat → Wait) : State.canonical (s.park m w) := by
  unfold State.park
  exact State.updWv_canonical h ..

theorem State.stall_canonical : State.canonical s.stall := by
  unfold State.stall
  exact h

theorem State.freeTile_canonical (tk : Nat) : State.canonical (s.freeTile tk) := by
  unfold State.freeTile
  dsimp only
  exact canonical_with (State.updWv_canonical h ..)

theorem State.branch_canonical (pick : Nat → Nat × Target) : State.canonical (s.branch pick) := by
  unfold State.branch
  exact State.updWv_canonical h ..

end

/-! ## Faults, places and the scratchpad -/

section
variable {s : State} (h : State.canonical s)
include h

theorem State.saveLine_canonical (i n : Nat) : State.canonical (s.saveLine i n) := by
  unfold State.saveLine
  dsimp only
  split
  · exact h
  · exact ite_canonical h (State.ctxCopyOut_canonical h ..)

theorem State.saveBlock_canonical (wi : Nat) : State.canonical (s.saveBlock wi) := by
  unfold State.saveBlock
  dsimp only
  split
  · exact h
  · exact foldl_canonical (State.ctxWrite_canonical (foldl_canonical h (fun _ _ ht => State.saveLine_canonical ht ..)) ..)
      (fun _ _ ht => State.ctxWrite_canonical ht ..)

theorem State.blockPut_canonical (wi off : Nat) (bs : List Byte) : State.canonical (s.blockPut wi off bs) := by
  unfold State.blockPut
  dsimp only
  split
  · exact h
  · exact State.ctxWrite_canonical h ..

theorem State.takeFault_canonical (wi : Nat) (group : Mask) (rpc : Loc) (r : FaultRec) :
    State.canonical (s.takeFault wi group rpc r) := by
  unfold State.takeFault
  dsimp only
  exact State.updWave_canonical h ..

theorem State.faultAt_canonical (wi : Nat) (group : Mask) (loc : Loc) (c : Cause) (prim sec : Mask) (addr : Dword) :
    State.canonical (s.faultAt wi group loc c prim sec addr) := by
  unfold State.faultAt
  dsimp only
  exact ite_canonical (State.updWave_canonical h ..) (State.takeFault_canonical h ..)

theorem State.fault_canonical (c : Cause) (prim sec : Mask) (addr : Nat) : State.canonical (s.fault c prim sec addr) := by
  unfold State.fault
  exact State.faultAt_canonical h ..

theorem State.faultAll_canonical (c : Cause) : State.canonical (s.faultAll c) := by
  unfold State.faultAll
  exact State.fault_canonical h ..

theorem State.lateFaultAt_canonical (die : Nat) (c : Cause) (prim sec : Mask) (addr : Nat) :
    State.canonical (s.lateFaultAt die c prim sec addr) := by
  unfold State.lateFaultAt
  exact State.updWv_canonical h ..

theorem State.lateFault_canonical (c : Cause) (prim sec : Mask) (addr : Nat) : State.canonical (s.lateFault c prim sec addr) := by
  unfold State.lateFault
  exact State.lateFaultAt_canonical h ..

theorem State.pendArrives_canonical (i : Nat) (p : PendFault) : State.canonical (s.pendArrives i p) := by
  unfold State.pendArrives
  dsimp only
  exact ite_canonical (State.blockPut_canonical (State.updWave_canonical h ..) ..) (State.updWave_canonical h ..)

theorem State.deliverPend_canonical {t : State} (e : s.deliverPend = some t) : State.canonical t := by
  unfold State.deliverPend at e
  dsimp only at e
  split at e
  · cases e
  · cases e
    exact State.takeFault_canonical (State.updWv_canonical h ..) ..

theorem State.resumeWave_canonical (wi : Nat) : State.canonical (s.resumeWave wi) := by
  unfold State.resumeWave
  dsimp only
  exact State.updWave_canonical h ..

theorem State.laneFault_canonical {t : State} {c : Nat → Option Cause} {addr : Nat → Nat} (e : s.laneFault c addr = some t) :
    State.canonical t := by
  unfold State.laneFault at e
  dsimp only at e
  split at e
  · cases e
  · cases e
    exact State.fault_canonical h ..

theorem State.walked_canonical (a : Acc) (vas : List Nat) : State.canonical (s.walked a vas) := by
  unfold State.walked
  refine foldl_canonical h fun t x ht => ?_
  split
  · exact State.touch_canonical ht ..
  · exact State.walkReads_canonical ht ..

theorem State.walkedFault_canonical {t : State} {a : Acc} {vas : List Nat} {c : Nat → Option Cause}
    {addr : Nat → Nat} (e : s.walkedFault a vas c addr = some t) : State.canonical t := by
  obtain ⟨_, -, rfl⟩ := Option.map_eq_some_iff.mp e
  exact getD_canonical (fun _ => State.laneFault_canonical (State.walked_canonical h ..)) h

theorem State.touchPlace_canonical (a : Acc) (a2 : Place) : State.canonical (s.touchPlace a a2) := by
  unfold State.touchPlace
  split
  · exact h
  · exact State.touch_canonical h ..
  · exact foldl_canonical h (fun _ _ ht => State.touch_canonical ht ..)

theorem State.parkPresence_canonical (ls : List Nat) : State.canonical (s.parkPresence ls) := by
  unfold State.parkPresence
  exact State.updWv_canonical h ..

theorem State.captureBy_canonical {t : State} {wi kid k : Nat} {bs : List Byte} (e : s.captureBy wi kid k bs = some t) :
    State.canonical t := by
  unfold State.captureBy at e
  dsimp only at e
  split at e
  · split at e
    · cases e
    · cases e
      exact State.updWg_canonical (canonical_with h) ..
  · split at e
    · cases e
    · cases e
      exact State.updWg_canonical h ..

end

/-! ## Loads and stores -/

section
variable {s : State} (h : State.canonical s)
include h

theorem State.ownHome_canonical (owner : Dword) (core va kid k : Nat) (bs : List Byte) :
    State.canonical (s.ownHome owner core va kid k bs) := by
  unfold State.ownHome
  dsimp only
  split
  · exact State.homeWriteBy_canonical (State.meetKey_canonical h ..) ..
  · exact ite_canonical (State.pendArrives_canonical (State.logDenial_canonical h ..) ..) (State.homeWriteBy_canonical
      (State.meetKey_canonical h ..) ..)

theorem State.l1WriteBack_canonical (l : L1Line) : State.canonical (s.l1WriteBack l) := by
  unfold State.l1WriteBack
  dsimp only
  exact ite_canonical (canonical_with (State.ownHome_canonical h ..)) h

theorem State.l1Evict_canonical (l : L1Line) : State.canonical (s.l1Evict l) := by
  unfold State.l1Evict
  dsimp only
  exact State.l1Drop_canonical (State.l1WriteBack_canonical h ..) ..

theorem State.l1Put_canonical (l : L1Line) : State.canonical (s.l1Put l) := by
  unfold State.l1Put
  dsimp only
  exact canonical_with (State.l1Drop_canonical h ..)

theorem State.wordFill_canonical (core : Nat) (w : Nat × Phys) (x : Evict) : State.canonical (s.wordFill core w x) := by
  unfold State.wordFill
  dsimp only
  split
  · exact h
  · exact ite_canonical h (State.l1Put_canonical (State.rdcRead_canonical h ..) ..)

theorem State.wordWrite_canonical (core : Nat) (w : Nat × Phys) (x : Evict) (bs : List Byte) :
    State.canonical (s.wordWrite core w x bs) := by
  unfold State.wordWrite
  dsimp only
  exact ite_canonical (State.ownHome_canonical (State.wordFill_canonical h ..) ..) (canonical_with (State.wordFill_canonical h ..))

theorem State.wordsNote_canonical (x : Evict) (ws : List (Nat × Phys)) : State.canonical (s.wordsNote x ws) := by
  unfold State.wordsNote
  exact foldl_canonical h (fun _ _ ht => State.l1Note_canonical ht ..)

theorem State.l1Read_canonical (m : MMod) (va : Nat) (p : Phys) : State.canonical (s.l1Read m va p) := by
  unfold State.l1Read
  dsimp only
  refine State.l1Note_canonical ?_ ..
  split
  · exact ite_canonical h (canonical_with h)
  · exact ite_canonical h (State.l1Put_canonical h ..)

theorem State.afterRead_canonical (m : MMod) (pl : Place) : State.canonical (s.afterRead m pl) := by
  unfold State.afterRead
  dsimp only
  split
  · exact h
  · exact ite_canonical h (ite_canonical (State.l1Read_canonical (ite_canonical h (State.rdcRead_canonical h ..)) ..) (ite_canonical h
      (State.rdcRead_canonical h ..)))
  · exact State.wordsNote_canonical (foldl_canonical h (fun _ _ ht => State.wordFill_canonical ht ..)) ..

theorem State.asyncFaultAt_canonical (die c addr : Nat) (tile : Option Nat) : State.canonical (s.asyncFaultAt die c addr tile) := by
  unfold State.asyncFaultAt
  exact State.pendArrives_canonical h ..

theorem State.asyncFault_canonical (c addr : Nat) (tile : Option Nat) : State.canonical (s.asyncFault c addr tile) := by
  unfold State.asyncFault
  exact State.asyncFaultAt_canonical h ..

theorem State.logCause_canonical (va : Nat) (p : Phys) (c : Nat) : State.canonical (s.logCause va p c) := by
  unfold State.logCause
  exact ite_canonical h (State.logDenial_canonical h ..)

theorem State.turnAway_canonical (va : Nat) (p : Phys) (c : Nat) : State.canonical (s.turnAway va p c) := by
  unfold State.turnAway
  exact State.asyncFaultAt_canonical (State.logCause_canonical h ..) ..

theorem State.sendWrite_canonical (m : MMod) (va : Nat) (p : Phys) (fx : WriteFx) (tile : Option Nat) :
    State.canonical (s.sendWrite m va p fx tile) := by
  unfold State.sendWrite
  dsimp only
  exact canonical_with h

theorem State.capture_canonical (p : Phys) (bs : List Byte) : State.canonical (s.capture p bs) := by
  unfold State.capture
  split
  · exact State.captureBy_canonical h ‹_›
  · exact State.pendArrives_canonical (canonical_with h) ..

theorem State.globalWrite_canonical (m : MMod) (va : Nat) (p : Phys) (bs : List Byte) :
    State.canonical (s.globalWrite m va p bs) := by
  unfold State.globalWrite
  extract_lets t
  have ht : State.canonical t := State.hint_canonical (State.l1Note_canonical h ..) ..
  have hl1 := State.l1Update_canonical ht t.gcore p.key bs
  exact ite_canonical (ite_canonical (State.turnAway_canonical h ..) (State.capture_canonical h ..))
    (ite_canonical (State.sendWrite_canonical h ..) (ite_canonical (State.sendWrite_canonical hl1 ..)
      (ite_canonical (State.asyncFault_canonical ht ..) (State.homeWriteBy_canonical hl1 ..))))

theorem State.wordsWrite_canonical (x : Evict) (bs : List Byte) (ws : List (Nat × Phys)) :
    State.canonical (s.wordsWrite x bs ws) := by
  induction ws generalizing s bs with
  | nil => exact h
  | cons w ws ih => exact ih (State.wordWrite_canonical h ..) _

theorem State.placeWrite_canonical (m : MMod) (addr : Nat) (bs : List Byte) (a : Place) : State.canonical (s.placeWrite m addr bs a) := by
  unfold State.placeWrite
  split
  · exact ite_canonical (State.asyncFault_canonical h ..) (State.updWg_canonical h ..)
  · exact State.globalWrite_canonical h ..
  · split
    · exact State.asyncFaultAt_canonical h ..
    · exact State.wordsNote_canonical (State.wordsWrite_canonical h ..) ..

theorem State.acquire_canonical (ord : Ord) (scope : Nat) (sp : Space) : State.canonical (s.acquire ord scope sp) := by
  unfold State.acquire
  exact ite_canonical (State.l1Acquire_canonical h ..) h

theorem State.asWave_canonical (wi : Nat) (m : Mask) (l : Loc) : State.canonical (s.asWave wi m l) := by
  unfold State.asWave
  exact canonical_with h

theorem State.skipFree_canonical : State.canonical s.skipFree := by
  unfold State.skipFree
  exact canonical_with h

theorem State.takeFreeBytes_canonical (n : Nat) : State.canonical (s.takeFreeBytes n).2 := by
  unfold State.takeFreeBytes
  dsimp only
  exact canonical_with h

theorem State.finishFp_canonical (words : Nat) (res : Nat → List Val × Nat) : State.canonical (s.finishFp words res) := by
  unfold State.finishFp
  exact State.updWv_canonical (State.finish_canonical h ..) ..

theorem State.accessFault_canonical {t : State} {a : Access} (e : s.accessFault a = some t) : State.canonical t := by
  unfold State.accessFault at e
  exact State.walkedFault_canonical h ‹_›

theorem State.withEntries_canonical {eff : State → State}
    (heff : ∀ t, State.canonical t → State.canonical (eff t)) (n : Nat) : State.canonical (s.withEntries n eff) := by
  unfold State.withEntries
  split
  · exact heff _ h
  · split
    · have hin : State.canonical { s with issue := { s.issue with entries := n } } := canonical_with h
      exact canonical_with (heff _ hin)
    · exact ite_canonical (State.faultAll_canonical h ..) (State.stall_canonical h)

theorem State.access_canonical {a : Access} {eff : State → State}
    (heff : ∀ t, State.canonical t → State.canonical (eff t)) : State.canonical (s.access a eff) := by
  unfold State.access
  dsimp only
  split
  · exact State.parkPresence_canonical h ..
  · split
    · next hf => exact State.accessFault_canonical h hf
    · exact ite_canonical (State.stall_canonical h) (ite_canonical (State.stall_canonical h)
        (heff _ (foldl_canonical h fun _ _ ht => State.touchPlace_canonical ht ..)))

theorem State.loadEff_canonical (a : Access) : State.canonical (s.loadEff a) := by
  refine State.withEntries_canonical h (fun t ht => ?_) _
  extract_lets late read u c prim sec
  have hu : State.canonical u := State.fabDrop_canonical (State.acquire_canonical
    (foldl_canonical ht fun _ _ hv => State.afterRead_canonical hv ..) ..) ..
  exact ite_canonical (State.fabAskAll_canonical ht ..)
    (ite_canonical (State.put_canonical hu _) (State.lateFaultAt_canonical (State.done_canonical hu) ..))

theorem State.storeEff_canonical (a : Access) (lanes : List Nat) (v : Nat → List Byte) : State.canonical (s.storeEff a lanes v) := by
  unfold State.storeEff
  exact State.done_canonical (foldl_canonical h (fun _ _ ht => State.placeWrite_canonical ht ..))

end

/-! ## Block copies, lines of the L1 and queries -/

section
variable {s : State} (h : State.canonical s)
include h

theorem State.blkIssue_canonical (m : MMod) (off va len : Nat) (toSpad : Bool) : State.canonical (s.blkIssue m off va len toSpad) := by
  unfold State.blkIssue
  dsimp only
  split
  · exact State.parkPresence_canonical h ..
  · split
    · exact State.fault_canonical (ite_canonical h (State.walked_canonical h ..)) ..
    · exact ite_canonical (ite_canonical (State.faultAll_canonical h ..) (State.stall_canonical h)) (ite_canonical
        (State.stall_canonical h) (State.done_canonical (ite_canonical (State.updWg_canonical (canonical_with h) ..) (canonical_with h))))

theorem State.blkLineEnd_canonical (c : BlockCopy) (i : Nat) : State.canonical (s.blkLineEnd c i) := by
  unfold State.blkLineEnd
  exact canonical_with h

theorem State.blkBytes_canonical (c : BlockCopy) (i : Nat) (bs : List Byte) : State.canonical (s.blkBytes c i bs).2 := by
  unfold State.blkBytes
  dsimp only
  split
  · exact h
  · exact State.takeFreeBytes_canonical h ..

theorem State.blkLoadLine_canonical (c : BlockCopy) (i : Nat) : State.canonical (s.blkLoadLine c i) := by
  unfold State.blkLoadLine
  extract_lets va off fin bad loc l t
  have hfin : ∀ v bs, State.canonical v → State.canonical (fin v bs) := fun v bs hv =>
    State.blkLineEnd_canonical (State.updWg_canonical (State.blkBytes_canonical hv ..) ..) ..
  have hbad : ∀ v k, State.canonical v → State.canonical (bad v k) := fun v k hv =>
    hfin _ _ (State.asyncFault_canonical (State.takeFreeBytes_canonical hv ..) ..)
  clear_value fin bad
  split
  · exact hbad _ _ h
  · extract_lets ask k bs u
    have ht : State.canonical t := State.fabDrop_canonical h ..
    have hu : State.canonical u := State.touch_canonical h ..
    exact ite_canonical (ite_canonical (State.fabAskAll_canonical h ..) (ite_canonical (hfin _ _ ht) (hbad _ _ ht)))
      (ite_canonical (hbad _ _ h) (hfin _ _ (State.afterRead_canonical hu ..)))

theorem State.blkStoreLine_canonical (c : BlockCopy) (i : Nat) : State.canonical (s.blkStoreLine c i) := by
  unfold State.blkStoreLine
  dsimp only
  split
  · exact State.blkLineEnd_canonical (State.asyncFault_canonical (State.blkBytes_canonical h ..) ..) ..
  · exact State.blkLineEnd_canonical (ite_canonical (State.asyncFault_canonical (State.blkBytes_canonical h ..) ..)
      (State.globalWrite_canonical (State.touch_canonical (State.blkBytes_canonical h ..) ..) ..)) ..

theorem execBlockCopyLineDone_canonical (id line : Nat) : NextCanonical (execBlockCopyLineDone id line s) := by
  unfold execBlockCopyLineDone
  dsimp only
  split
  · exact next_canonical h
  · split
    · exact next_canonical (canonical_with h)
    · split
      · exact next_canonical h
      · split
        · exact next_canonical h
        · exact next_canonical (canonical_with (ite_canonical (State.blkLoadLine_canonical (State.asWave_canonical h ..) ..)
            (State.blkStoreLine_canonical (State.asWave_canonical h ..) ..)))

theorem execPrefetch_canonical (m : MMod) (a : Opnd) : NextCanonical (execPrefetch m a s) := by
  unfold execPrefetch
  dsimp only
  refine next_canonical ?_
  refine State.done_canonical ?_
  refine foldl_canonical h (fun t x ht => ?_)
  split
  · exact ite_canonical ht (State.afterRead_canonical (State.touchPlace_canonical ht ..) ..)
  · exact ht

theorem execWbline_canonical (w : Opnd) : NextCanonical (execWbline w s) := by
  unfold execWbline
  dsimp only
  refine next_canonical ?_
  refine State.access_canonical h (fun t ht => ?_)
  refine State.done_canonical ?_
  refine foldl_canonical ht (fun u y hu => ?_)
  split
  · refine foldl_canonical hu (fun v z hv => ?_)
    split
    · exact State.l1WriteBack_canonical hv ..
    · exact hv
  · exact hu

theorem execInvline_canonical (space : Space) (a : Opnd) : NextCanonical (execInvline space a s) := by
  unfold execInvline
  dsimp only
  refine next_canonical ?_
  refine State.access_canonical h (fun t ht => ?_)
  refine State.done_canonical ?_
  refine foldl_canonical ht (fun u y hu => ?_)
  split
  · exact foldl_canonical hu (fun _ _ hv => State.l1Drop_canonical hv ..)
  · exact State.l1Drop_canonical hu ..
  · exact hu

theorem execSpq_canonical (off len : Opnd) : NextCanonical (execSpq off len s) := by
  unfold execSpq
  exact next_canonical (ite_canonical (State.faultAll_canonical h ..) (ite_canonical (State.fault_canonical h ..)
    (State.put_canonical h ..)))

theorem execWaveUnparkPresence_canonical (w : Nat) : NextCanonical (execWaveUnparkPresence w s) :=
  next_canonical (State.updWave_canonical h ..)

end

/-! ## Spans -/

theorem State.putFp_canonical {s : State} (h : State.canonical s) (ty : Ty) (r : Rnd) (f : Nat → Nat → Nat → Nat × Nat) :
    State.canonical (s.putFp ty r f) := by
  unfold State.putFp
  dsimp only
  exact State.finishFp_canonical h ..

theorem execFsflag_canonical {s : State} (h : State.canonical s) (mask : Opnd) : NextCanonical (execFsflag mask s) :=
  next_canonical (State.updWv_canonical (State.put_canonical h ..) ..)

/-! ## Atomics and reductions -/

section
variable {s : State} (h : State.canonical s)
include h

theorem State.reassocVals_canonical (on : Bool) (opc : Nat) (ty : Ty) (vs : List Val) :
    State.canonical (s.reassocVals on opc ty vs).2 := by
  unfold State.reassocVals
  split
  · exact canonical_with h
  · exact h

theorem State.homeRmw_canonical (k opc : Nat) (ty : Ty) (vs : List (Val × Val)) : State.canonical (s.homeRmw k opc ty vs) := by
  unfold State.homeRmw
  dsimp only
  exact State.homeWrite_canonical h ..

theorem State.hear_canonical (win fdn num : Nat) : State.canonical (s.hear win fdn num) := by
  unfold State.hear
  dsimp only
  exact canonical_with h

theorem State.contribute_canonical (w : Nat × Dword × Dword) (va die ctx : Nat) (wave : Option Dword) (v : Val) :
    State.canonical (s.contribute w va die ctx wave v) := by
  unfold State.contribute
  dsimp only
  split
  · refine State.sendFab_canonical (ite_canonical ?_ ?_) ..
    · refine canonical_with (State.hear_canonical ?_ ..)
      exact canonical_with h
    · exact canonical_with h
  · refine ite_canonical ?_ ?_
    · refine canonical_with (State.hear_canonical ?_ ..)
      exact canonical_with h
    · exact canonical_with h

theorem State.applyRound_canonical (w : Nat × Dword × Dword) (r : Round) : State.canonical (s.applyRound w r) := by
  unfold State.applyRound
  dsimp only
  split
  · exact h
  · split
    · refine State.homeRmw_canonical ?_ ..
      refine State.meet_canonical ?_ ..
      split
      · exact State.homeRmw_canonical (State.meet_canonical h ..) ..
      · exact h
    · split
      · exact State.homeRmw_canonical (State.meet_canonical h ..) ..
      · exact h

theorem execReductionRoundComplete_canonical (n off : Nat) : NextCanonical (execReductionRoundComplete n off s) := by
  unfold execReductionRoundComplete
  split
  · split
    · exact next_canonical h
    · exact next_canonical (State.applyRound_canonical (canonical_with h) ..)
  · exact next_canonical h

theorem execReductionRoundTimeout_canonical (n off : Nat) : NextCanonical (execReductionRoundTimeout n off s) := by
  unfold execReductionRoundTimeout
  dsimp only
  split
  · split
    · exact next_canonical h
    · exact next_canonical (State.sysSet_canonical (State.applyRound_canonical (canonical_with h) ..) ..)
  · exact next_canonical h

theorem State.atomWrite_canonical (bs : List Byte) (a : Place) : State.canonical (s.atomWrite bs a) := by
  unfold State.atomWrite
  split
  · exact State.updWg_canonical h ..
  · exact ite_canonical (State.capture_canonical (State.l1Drop_canonical h ..) ..) (State.homeWriteBy_canonical
      (State.l1Drop_canonical h ..) ..)
  · exact h

theorem State.atomIssue_canonical {eff : State → State}
    (heff : ∀ t, State.canonical t → State.canonical (eff t)) (a : AtomOp) (op : Option Nat) : State.canonical
      (s.atomIssue a op eff) := by
  unfold State.atomIssue
  dsimp only
  split
  · exact State.parkPresence_canonical h ..
  · split
    · next hf => exact State.walkedFault_canonical h hf
    · exact ite_canonical (State.stall_canonical h) (ite_canonical (State.stall_canonical h)
        (heff _ (foldl_canonical h fun _ _ ht => State.touchPlace_canonical ht ..)))

theorem State.atomGroup_canonical (a : AtomOp) (ls : List Nat) : State.canonical (s.atomGroup a ls).1 := by
  unfold State.atomGroup
  dsimp only
  split
  · split <;> exact h
  · split
    · split
      · split
        · split
          · exact ite_canonical h (State.logCause_canonical h ..)
          · exact h
        · exact State.atomWrite_canonical (State.reassocVals_canonical h ..) ..
      · split
        · split
          · exact ite_canonical h (State.logCause_canonical h ..)
          · exact h
        · exact State.atomWrite_canonical (State.reassocVals_canonical h ..) ..
    · split
      · split
        · split
          · exact ite_canonical h (State.logCause_canonical h ..)
          · exact h
        · exact State.atomWrite_canonical (State.reassocVals_canonical h ..) ..
      · split
        · split
          · exact ite_canonical h (State.logCause_canonical h ..)
          · exact h
        · exact State.atomWrite_canonical (State.reassocVals_canonical h ..) ..
    · split
      · split
        · exact ite_canonical h (State.logCause_canonical h ..)
        · exact h
      · exact State.atomWrite_canonical (State.reassocVals_canonical h ..) ..

theorem State.atomEff_canonical (a : AtomOp) : State.canonical (s.atomEff a) := by
  refine State.withEntries_canonical h (fun s h => ?_) _
  dsimp only
  have groups : ∀ gs : List (List Nat), State.canonical (gs.foldl (fun (acc : State × List (Nat × Val × Nat)) g =>
      ((acc.1.atomGroup a g).1, acc.2 ++ (acc.1.atomGroup a g).2)) (s, [])).1 := fun gs =>
    List.foldlRecOn (motive := fun x : State × List (Nat × Val × Nat) => State.canonical x.1) gs _ h
      fun x hx g _ => State.atomGroup_canonical hx ..
  split
  · exact State.fabAskAll_canonical h ..
  · have hend := fun gs => State.fabDrop_canonical (State.acquire_canonical
      (groups gs) a.m.ord a.m.scope.toNat a.m.space) s.wv.token s.issue.loc
    split
    · exact State.put_canonical (hend _) _
    · exact State.lateFaultAt_canonical (State.done_canonical (hend _)) ..

theorem State.atomic_canonical (a : AtomOp) : State.canonical (s.atomic a) := by
  unfold State.atomic
  exact ite_canonical (State.faultAll_canonical h ..) (State.atomIssue_canonical h (fun _ ht => State.atomEff_canonical ht ..) ..)

theorem State.holdReds_canonical (rs : List Reduction) : State.canonical (s.holdReds rs) := by
  unfold State.holdReds
  dsimp only
  exact ite_canonical (State.pendArrives_canonical h ..) (State.updWg_canonical h ..)

theorem State.redGroup_canonical (a : AtomOp) (op : Nat) (ls : List Nat) : State.canonical (s.redGroup a op ls) := by
  unfold State.redGroup
  dsimp only
  split
  · split
    · split
      · exact ite_canonical (State.reassocVals_canonical h ..) (State.asyncFaultAt_canonical (State.reassocVals_canonical h ..) ..)
      · exact State.reassocVals_canonical h ..
    · exact ite_canonical (State.sendWrite_canonical (State.l1Drop_canonical (State.reassocVals_canonical h ..) ..) ..) (ite_canonical
        (State.asyncFault_canonical (State.l1Drop_canonical (State.reassocVals_canonical h ..) ..) ..) (State.homeRmw_canonical
        (State.l1Drop_canonical (State.reassocVals_canonical h ..) ..) ..))
  · exact ite_canonical (State.asyncFault_canonical (State.reassocVals_canonical h ..) ..) (State.atomWrite_canonical
      (State.reassocVals_canonical h ..) ..)
  · exact State.atomWrite_canonical (State.reassocVals_canonical h ..) ..

theorem State.redContribute_canonical (a : AtomOp) (op : Nat) (w : Nat × Dword × Dword) (ls : List Nat) :
    State.canonical (s.redContribute a op w ls) := by
  unfold State.redContribute
  dsimp only
  refine State.contribute_canonical ?_ ..
  refine State.reassocVals_canonical ?_ ..
  split
  · exact State.l1Drop_canonical h ..
  · exact h

theorem State.meetRed_canonical (a : AtomOp) (op L : Nat) : State.canonical (s.meetRed a op L) := by
  unfold State.meetRed
  split
  · exact ite_canonical (State.turnAway_canonical h ..) (State.l1Drop_canonical h ..)
  · exact h

theorem State.redEff_canonical (a : AtomOp) (op : Nat) : State.canonical (s.redEff a op) := by
  unfold State.redEff
  dsimp only
  split
  · exact State.done_canonical (State.holdReds_canonical (foldl_canonical h (fun _ _ ht => State.meetRed_canonical ht ..)) ..)
  · split
    · exact State.fabAskAll_canonical h ..
    · refine State.done_canonical ?_
      refine State.acquire_canonical ?_ ..
      refine State.fabDrop_canonical ?_ ..
      refine foldl_canonical (foldl_canonical h (fun _ _ ht => State.redGroup_canonical ht ..)) (fun t x ht => ?_)
      split
      · exact State.redContribute_canonical ht ..
      · exact ht

end

/-! ## Fences, barriers and waits -/

theorem State.deliverOr_canonical {s t : State} (h : State.canonical s) (ht : State.canonical t) : State.canonical (s.deliverOr t) := by
  unfold State.deliverOr
  split
  · next hd => exact State.deliverPend_canonical h hd
  · exact ht

section
variable {s : State} (h : State.canonical s)
include h

theorem State.fenceEff_canonical (ord : Ord) (scope : Nat) : State.canonical (s.fenceEff ord scope) := by
  unfold State.fenceEff
  dsimp only
  exact ite_canonical (State.done_canonical h) (ite_canonical (State.stall_canonical h) (ite_canonical (State.stall_canonical h)
    (ite_canonical (State.deliverOr_canonical h (State.done_canonical (ite_canonical (State.l1Acquire_canonical h ..) h)))
    (State.done_canonical (ite_canonical (State.l1Acquire_canonical h ..) h)))))

theorem execDrain_canonical : NextCanonical (execDrain s) := by
  unfold execDrain
  exact next_canonical (ite_canonical (State.stall_canonical h) (State.deliverOr_canonical h (State.done_canonical h)))

theorem State.barIssue_canonical {eff : State → Place → State}
    (heff : ∀ t pl, State.canonical t → State.canonical (eff t pl)) (scope : BitVec 3) (space : Space) (wr : Bool) (a : Nat) (ord : Ord) :
    State.canonical (s.barIssue scope space wr a ord eff) := by
  unfold State.barIssue
  dsimp only
  split
  · exact getD_canonical (fun _ => State.walkedFault_canonical h) h
  · exact ite_canonical (State.parkPresence_canonical h ..) (ite_canonical (State.stall_canonical h)
      (heff _ _ (State.touchPlace_canonical h ..)))

theorem State.phaseAdvanced_canonical (key : Nat) : State.canonical (s.phaseAdvanced key) := by
  unfold State.phaseAdvanced
  exact canonical_with h

theorem State.barUpdate_canonical {pl : Place} {arrives : Bool} {f : Barrier → Except Nat Barrier}
    {r : Nat × State} (e : s.barUpdate pl arrives f = .ok r) : State.canonical r.2 := by
  obtain ⟨-, e⟩ | ⟨-, e⟩ := ite_eq_iff.mp e
  · cases e
  · dsimp only at e
    split at e <;> cases e
    have hs : ∀ w bs, State.canonical ((if arrives = true then s.updWv w else s).atomWrite bs pl) := fun _ _ =>
      State.atomWrite_canonical (ite_canonical (State.updWv_canonical h _) h) ..
    exact ite_canonical (State.phaseAdvanced_canonical (hs ..) _) (hs ..)

theorem State.barFail_canonical (c : Cause) (a : Nat) (pl : Place) (nres : Nat) : State.canonical (s.barFail c a pl nres) := by
  unfold State.barFail
  split
  · exact State.lateFault_canonical (State.done_canonical h) ..
  · split
    · exact ite_canonical (State.done_canonical (State.turnAway_canonical h ..)) (State.lateFaultAt_canonical (State.done_canonical
        (State.logCause_canonical h ..)) ..)
    · exact ite_canonical (State.done_canonical (State.asyncFault_canonical h ..)) (State.lateFault_canonical (State.done_canonical h) ..)

theorem execBarinit_canonical (scope : BitVec 3) (space : Space) (base expa : Opnd) :
    NextCanonical (execBarinit scope space base expa s) := by
  unfold execBarinit
  dsimp only
  refine next_canonical ?_
  refine State.barIssue_canonical h (fun t x ht => ?_) ..
  split
  · exact State.barFail_canonical ht ..
  · exact State.done_canonical (State.barUpdate_canonical ht ‹_›)

theorem execBararr_canonical (scope : BitVec 3) (space : Space) (base cnt : Opnd) :
    NextCanonical (execBararr scope space base cnt s) := by
  unfold execBararr
  dsimp only
  refine next_canonical ?_
  refine State.barIssue_canonical h (fun t x ht => ?_) ..
  split
  · exact State.barFail_canonical ht ..
  · exact State.put_canonical (State.barUpdate_canonical ht ‹_›) ..

theorem execBarexp_canonical (scope : BitVec 3) (space : Space) (base bytes : Opnd) :
    NextCanonical (execBarexp scope space base bytes s) := by
  unfold execBarexp
  dsimp only
  refine next_canonical ?_
  refine State.barIssue_canonical h (fun t x ht => ?_) ..
  split
  · exact State.barFail_canonical ht ..
  · exact State.done_canonical (State.barUpdate_canonical ht ‹_›)

theorem State.barPark_canonical (scope : BitVec 3) (space : Space) (a tok : Nat) (pl : Place) :
    State.canonical (s.barPark scope space a tok pl) := by
  unfold State.barPark
  exact ite_canonical (State.done_canonical (State.acquire_canonical h ..)) (State.park_canonical h ..)

theorem execBarwait_canonical (scope : BitVec 3) (space : Space) (base tok : Opnd) :
    NextCanonical (execBarwait scope space base tok s) := by
  unfold execBarwait
  exact next_canonical (State.barIssue_canonical h (fun _ _ ht => ite_canonical (State.lateFaultAt_canonical
    (State.done_canonical ht) ..) (State.barPark_canonical ht ..)) ..)

theorem execBarsync_canonical (scope : BitVec 3) (space : Space) (base : Opnd) : NextCanonical (execBarsync scope space base s) := by
  unfold execBarsync
  dsimp only
  refine next_canonical ?_
  refine State.barIssue_canonical h (fun t x ht => ?_) ..
  split
  · exact State.barFail_canonical ht ..
  · exact State.barPark_canonical (State.barUpdate_canonical ht ‹_›) ..

theorem execBartest_canonical (scope : BitVec 3) (space : Space) (base tok : Opnd) :
    NextCanonical (execBartest scope space base tok s) := by
  unfold execBartest
  exact next_canonical (State.barIssue_canonical h (fun _ _ ht => ite_canonical (State.lateFaultAt_canonical
    (State.done_canonical ht) ..) (State.put_canonical (State.acquire_canonical ht ..) ..)) ..)

theorem execBarrierWaitRelease_canonical (w : Nat) : NextCanonical (execBarrierWaitRelease w s) := by
  unfold execBarrierWaitRelease
  exact next_canonical (State.updWave_canonical (foldl_canonical h (fun _ _ ht => canonical_with (State.acquire_canonical
    (State.asWave_canonical ht ..) ..))) ..)

theorem State.waitSeen_canonical (ls : List (Nat × Lane)) : State.canonical (s.waitSeen ls) := by
  unfold State.waitSeen
  refine foldl_canonical h (fun t x ht => ?_)
  split
  · split
    · exact State.afterRead_canonical ht ..
    · exact ht
  · exact ht

theorem State.waitGroup_canonical (w : Nat) (loc : Loc) : State.canonical (s.waitGroup w loc) := by
  unfold State.waitGroup State.canonical
  dsimp only
  have ht := fun m => State.asWave_canonical h w m loc
  have hstepped := fun m f => State.updWv_canonical (ht m) f
  split
  · exact State.fabDrop_canonical (State.lateFaultAt_canonical (State.updWv_canonical (hstepped ..) _) ..) ..
  · exact ite_canonical (State.fabAskAll_canonical (hstepped ..) ..) (ite_canonical
      (State.fabDrop_canonical (State.updWv_canonical (State.acquire_canonical (State.waitSeen_canonical (hstepped ..) _) ..) _) ..)
      (State.fabDrop_canonical (hstepped ..) ..))

theorem execWaitvalReread_canonical (w : Nat) : NextCanonical (execWaitvalReread w s) :=
  next_canonical (foldl_canonical h (fun _ _ ht => State.waitGroup_canonical ht ..))

theorem execWaitval_canonical (ty : Ty) (m : MMod) (a v : Opnd) (cond : BitVec 30) : NextCanonical (execWaitval ty m a v cond s) := by
  unfold execWaitval
  exact next_canonical (State.access_canonical h (fun _ ht => canonical_with (State.waitGroup_canonical (State.park_canonical ht ..) ..)))

theorem execSleep_canonical (tk : Opnd) : NextCanonical (execSleep tk s) := by
  unfold execSleep
  exact next_canonical (ite_canonical (State.done_canonical (State.updWv_canonical h ..)) (State.park_canonical h ..))

theorem execWake_canonical (w : Opnd) : NextCanonical (execWake w s) := by
  unfold execWake
  exact next_canonical (ite_canonical (State.stall_canonical h) (State.done_canonical (foldl_canonical h (fun _ _ ht => ite_canonical
    (State.updWave_canonical ht ..) ht))))

theorem execSleepTimeout_canonical (w : Nat) : NextCanonical (execSleepTimeout w s) :=
  next_canonical (State.updWave_canonical h ..)

theorem execOpfence_canonical : NextCanonical (execOpfence s) :=
  next_canonical (State.done_canonical (State.updWv_canonical h ..))

end

/-! ## Write sets and the end of tasks, workgroups and threads -/

section
variable {s : State} (h : State.canonical s)
include h

theorem State.clearWrites_canonical (ms : List Nat) : State.canonical (s.clearWrites ms) := by
  unfold State.clearWrites
  exact foldl_canonical h (fun _ _ ht => State.updWg_canonical ht ..)

theorem State.foldFaults_canonical (ms : List Nat) (c : Conflict) : State.canonical (s.foldFaults ms c) := by
  unfold State.foldFaults
  dsimp only
  exact foldl_canonical h (fun _ _ ht => ite_canonical ht (State.faultAt_canonical (State.updWave_canonical ht ..) ..))

theorem State.foldGang_canonical (task : Dword) (num : Nat) (ms : List Nat) : State.canonical (s.foldGang task num ms) := by
  unfold State.foldGang
  dsimp only
  split
  · exact State.foldFaults_canonical h ..
  · exact foldl_canonical (canonical_with (State.updGang_canonical (State.clearWrites_canonical h ..) ..))
      (fun _ _ ht => State.l1Acquire_canonical ht ..)

theorem execGangFold_canonical (w : Nat) : NextCanonical (execGangFold w s) := by
  unfold execGangFold
  exact next_canonical (ite_canonical (State.foldGang_canonical h ..) h)

theorem State.sendMerge_canonical (tk : Task) (die fdn key : Nat) (va : Dword) (fx : WriteFx) :
    State.canonical (s.sendMerge tk die fdn key va fx) := by
  unfold State.sendMerge
  dsimp only
  exact canonical_with h

theorem State.applyRed_canonical (tk : Task) (die : Nat) (r : Reduction) : State.canonical (s.applyRed tk die r) := by
  unfold State.applyRed
  dsimp only
  split
  · split
    · exact State.contribute_canonical h ..
    · exact h
  · exact State.sendMerge_canonical h ..
  · exact ite_canonical (State.homeRmw_canonical (State.meetKey_canonical h ..) ..) (State.logDenial_canonical h ..)

theorem State.mergeByte_canonical (tk : Task) (die : Nat) (x : Nat × BitVec 47) : State.canonical (s.mergeByte tk die x) := by
  unfold State.mergeByte
  exact ite_canonical (State.sendMerge_canonical h ..) (State.homeWrite_canonical (State.meetKey_canonical h ..) ..)

theorem State.mergeTask_canonical (tk : Task) : State.canonical (s.mergeTask tk) := by
  unfold State.mergeTask
  dsimp only
  exact foldl_canonical h (fun _ _ ht => foldl_canonical (foldl_canonical ht (fun _ _ hu => State.mergeByte_canonical hu ..))
    (fun _ _ hu => foldl_canonical hu (fun _ _ hv => State.applyRed_canonical hv ..)))

theorem State.dropTaskState_canonical (hd : Dword) : State.canonical (s.dropTaskState hd) := by
  unfold State.dropTaskState
  exact canonical_with h

theorem State.signalMerged_canonical (hd : Dword) : State.canonical (s.signalMerged hd) := by
  unfold State.signalMerged
  exact ite_canonical h (State.taskDone_canonical h ..)

theorem State.endTask_canonical (hd : Dword) : State.canonical (s.endTask hd) := by
  unfold State.endTask
  split
  · exact h
  · split
    · split
      · exact State.taskFaultEnd_canonical (State.dropTaskState_canonical h ..) ..
      · exact State.signalMerged_canonical (State.updTask_canonical (State.dropTaskState_canonical
          (State.mergeTask_canonical h ..) ..) ..) ..
    · exact State.taskDone_canonical (State.dropTaskState_canonical h ..) ..

theorem State.uncharge_canonical (wi : Nat) : State.canonical (s.uncharge wi) := by
  unfold State.uncharge
  dsimp only
  exact State.updWg_canonical (State.setDie_canonical h ..) ..

theorem State.dropOwnLines_canonical (wi : Nat) : State.canonical (s.dropOwnLines wi) := by
  unfold State.dropOwnLines
  exact canonical_with h

theorem State.freeWaves_canonical (wi : Nat) : State.canonical (s.freeWaves wi) := by
  unfold State.freeWaves
  dsimp only
  exact canonical_with h

theorem State.leaveCluster_canonical (wi : Nat) : State.canonical (s.leaveCluster wi) := by
  unfold State.leaveCluster
  exact State.setDie_canonical h ..

theorem State.endWg_canonical (wi : Nat) : State.canonical (s.endWg wi) := by
  unfold State.endWg
  dsimp only
  split
  · exact ite_canonical (State.endTask_canonical (State.updTask_canonical (State.updWg_canonical (State.leaveCluster_canonical
      (State.freeWaves_canonical (State.uncharge_canonical (State.dropOwnLines_canonical h ..) ..) ..) ..) ..) ..) ..)
      (State.updTask_canonical (State.updWg_canonical (State.leaveCluster_canonical (State.freeWaves_canonical
      (State.uncharge_canonical (State.dropOwnLines_canonical h ..) ..) ..) ..) ..) ..)
  · exact State.updTask_canonical (State.updWg_canonical (State.leaveCluster_canonical (State.freeWaves_canonical
      (State.uncharge_canonical (State.dropOwnLines_canonical h ..) ..) ..) ..) ..) ..

theorem State.contTest_canonical (i : Nat) : State.canonical (s.contTest i) := by
  unfold State.contTest
  dsimp only
  exact ite_canonical (State.l1Acquire_canonical (State.updWave_canonical h ..) ..) h

theorem State.exitThreads_canonical : State.canonical s.exitThreads := by
  unfold State.exitThreads
  dsimp only
  split
  · exact State.stall_canonical h
  · split
    · exact State.deliverPend_canonical h ‹_›
    · exact ite_canonical (State.endWg_canonical (State.contTest_canonical (State.updWv_canonical h ..) ..) ..)
        (State.contTest_canonical (State.updWv_canonical h ..) ..)

end

/-! ## Calls, rejoin masks, loops and yield -/

section
variable {s : State} (h : State.canonical s)
include h

theorem State.retranslate_canonical (wi hd : Nat) (k : TransKey) :
    State.canonical (s.retranslate wi hd k) := by
  unfold State.retranslate
  extract_lets w counted asking r noted
  have ha : State.canonical asking := State.updWave_canonical (State.dieSet_canonical h ..) ..
  have hn : State.canonical noted := ite_canonical (State.notice_canonical ha ..) ha
  exact ite_canonical hn (State.joinTrans_canonical hn ..)

theorem State.askResolve_canonical (m : Mask) (stub : Nat → Nat × Nat) : State.canonical (s.askResolve m stub) := by
  unfold State.askResolve
  dsimp only
  exact canonical_with (State.updWv_canonical h ..)

theorem State.wordsPut_canonical (ws : List (Nat × Phys)) (bs : List Byte) : State.canonical (s.wordsPut ws bs) := by
  unfold State.wordsPut
  exact State.wordsWrite_canonical (foldl_canonical h (fun _ _ ht => State.touch_canonical ht ..)) ..

theorem State.callWith_canonical (tys : List Ty) (args : List Opnd) (tail : Bool) (addr : Nat → Nat)
    (callee : Nat → Except Cause Callee) : State.canonical (s.callWith tys args tail addr callee) := by
  unfold State.callWith
  dsimp only
  split
  · next hf => exact State.laneFault_canonical h hf
  · refine ite_canonical (foldl_canonical h fun _ _ ht => State.requestTrans_canonical ht ..) (ite_canonical
      (State.faultAll_canonical h _) ?_)
    split
    · next hf => exact State.laneFault_canonical h hf
    · have hend : ∀ {u : State} (g g' : Wave → Wave) (c : Prop) [Decidable c], State.canonical u →
          State.canonical (if c then (u.updWv g).updWv g' else u.updWv g) := fun _ _ _ _ hu =>
        ite_canonical (State.updWv_canonical (State.updWv_canonical hu _) _) (State.updWv_canonical hu _)
      refine ite_canonical (hend _ _ _ ?_) (State.askResolve_canonical (hend _ _ _ ?_) ..)
      all_goals
        refine foldl_canonical h fun t L ht => ?_
        split
        · exact State.wordsPut_canonical ht ..
        · exact ht

theorem State.callDesc_canonical (tys : List Ty) (args : List Opnd) (tail : Bool) (sig : SigInfo) (a : Nat → Nat) :
    State.canonical (s.callDesc tys args tail sig a) := by
  unfold State.callDesc
  dsimp only
  exact ite_canonical (State.stall_canonical h) (ite_canonical (State.fabAskAll_canonical h ..) (State.fabDrop_canonical
    (State.callWith_canonical (State.walked_canonical h ..) ..) ..))

theorem execCalll_canonical (lidx : BitVec 30) (args : List Opnd) : NextCanonical (execCalll lidx args s) := by
  unfold execCalll
  exact next_canonical (ite_canonical (State.fault_canonical (State.l1Acquire_canonical h ..) ..) (State.callDesc_canonical
    (State.l1Acquire_canonical h ..) ..))

theorem State.contStep_canonical (i : Nat) : State.canonical (s.contStep i) := by
  unfold State.contStep
  extract_lets w issue back a
  have hback : ∀ u, State.canonical u → State.canonical (back u) := fun u hu => canonical_with hu
  clear_value back
  split
  · exact h
  · next m loc r asked _ =>
    extract_lets s' fail pls asks t r' u v
    have hs : State.canonical s' := canonical_with h
    have hfail : ∀ u, State.canonical u → State.canonical (fail u) := fun u hu =>
      hback _ (State.takeFault_canonical (State.fabDrop_canonical hu ..) ..)
    have ht : State.canonical t := State.walked_canonical hs ..
    have hu : State.canonical u := State.notice_canonical (State.blockPut_canonical ht ..) ..
    have hv : State.canonical v := foldl_canonical hu fun x L hx => by
      split
      · exact State.wordsPut_canonical hx ..
      · exact hx
    clear_value v u r' t pls asks s' fail
    refine ite_canonical (hfail _ (State.updWave_canonical hs ..)) (ite_canonical (hback _ hs)
      (ite_canonical (hback _ (State.fabAskAll_canonical hs ..)) ?_))
    split
    · exact hfail _ ht
    · extract_lets q
      refine ite_canonical (hback _ hs) (ite_canonical (hfail _ ht) (hback _ (State.updWave_canonical ?_ ..)))
      exact canonical_with ht
    · extract_lets k
      exact ite_canonical (hback _ (State.requestTrans_canonical ht ..))
        (ite_canonical (hfail _ ht) (hback _ (State.updWave_canonical (State.fabDrop_canonical hv ..) ..)))

theorem State.contReturn_canonical : State.canonical s.contReturn := by
  unfold State.contReturn
  exact ite_canonical (State.faultAll_canonical h ..) (State.contTest_canonical (State.park_canonical h ..) ..)

theorem execRet_canonical (vs : List Opnd) : NextCanonical (execRet vs s) := by
  unfold execRet
  exact next_canonical (ite_canonical (State.contReturn_canonical (canonical_with h)) (ite_canonical (ite_canonical (foldl_canonical h
    (fun _ _ ht => State.requestTrans_canonical ht ..)) (State.updWv_canonical h ..)) (State.exitThreads_canonical h)))

theorem execRjenrol_canonical (k : BitVec 30) : NextCanonical (execRjenrol k s) :=
  next_canonical (State.updWv_canonical (State.done_canonical h) ..)

theorem execRjstrike_canonical (k : BitVec 30) : NextCanonical (execRjstrike k s) :=
  next_canonical (State.updWv_canonical (State.done_canonical h) ..)

theorem execRjwait_canonical (k : BitVec 30) : NextCanonical (execRjwait k s) := by
  unfold execRjwait
  exact next_canonical (ite_canonical (State.fault_canonical h ..) (State.updWv_canonical (State.park_canonical h ..) ..))

theorem execLpbeg_canonical (k : BitVec 30) : NextCanonical (execLpbeg k s) := by
  unfold execLpbeg
  exact next_canonical (ite_canonical (State.done_canonical h) (State.updWv_canonical (State.done_canonical h) ..))

theorem execLpend_canonical (k : BitVec 30) : NextCanonical (execLpend k s) := by
  unfold execLpend
  exact next_canonical (ite_canonical (State.done_canonical h) (State.updWv_canonical (State.done_canonical h) ..))

theorem execYield_canonical : NextCanonical (execYield s) :=
  next_canonical (State.updWv_canonical (State.done_canonical h) ..)

theorem execYieldHoldEnd_canonical (w : Nat) : NextCanonical (execYieldHoldEnd w s) :=
  next_canonical (State.updWave_canonical h ..)

end

/-! ## The content-addressed space: regions and counts -/

theorem State.setLines_canonical {s : State} (h : State.canonical s) (r : CaRegion) (n : Nat) : State.canonical (s.setLines r n) := by
  unfold State.setLines
  exact State.sysSet_canonical h ..

theorem State.caWrite_canonical {s t : State} {r : CaRegion} {va : Nat} {bs : List Byte} (h : State.canonical s)
    (e : s.caWrite r va bs = .ok t) : State.canonical t := by
  unfold State.caWrite at e
  obtain ⟨p, -, rfl⟩ := map_eq_ok.mp e
  exact State.homeWrite_canonical (State.meet_canonical h ..) ..

theorem State.caPlaceLine_canonical {s t : State} {r : CaRegion} {slot : Nat} {line : List Byte} (h : State.canonical s)
    (e : s.caPlaceLine r slot line = .ok t) : State.canonical t := by
  unfold State.caPlaceLine at e
  obtain ⟨p, -, e⟩ := bind_eq_ok.mp e
  obtain ⟨u, hu, e⟩ := bind_eq_ok.mp e
  cases e
  exact canonical_with (State.caWrite_canonical h hu)

theorem State.putEnt_canonical {s t : State} {r : CaRegion} {x : CaEnt} (h : State.canonical s) (e : s.putEnt r x = .ok t) :
    State.canonical t :=
  State.caWrite_canonical h e

theorem State.countUp_canonical {s t : State} {r : CaRegion} {x : CaEnt} {k : Nat} (h : State.canonical s)
    (e : s.countUp r x k = .ok t) : State.canonical t := by
  unfold State.countUp at e
  split at e
  · cases e
    exact h
  · exact State.putEnt_canonical h e

theorem State.queueDrops_canonical {s : State} (h : State.canonical s) (r : CaRegion) (names : List Nat) :
    State.canonical (s.queueDrops r names) := by
  unfold State.queueDrops
  exact canonical_with h

theorem State.freeLine_canonical {s t : State} {r : CaRegion} {x : CaEnt} (h : State.canonical s) (e : s.freeLine r x = .ok t) :
    State.canonical t := by
  unfold State.freeLine at e
  obtain ⟨chain, -, e⟩ := bind_eq_ok.mp e
  have unlinked : ∃ u : State, State.canonical u ∧ (do
      let line ← s.caRead r (r.lineVa x.slot) 128
      let v ← u.putEnt r { x with count := 0, live := false }
      let w := v.setLines r (s.caLines r - 1)
      pure (if x.node then w.queueDrops r ((lineChildren line).filter fun c => c != 0 && c != zeroName) else w)) = .ok t := by
    generalize (chain.find? fun y => y.next == x.slot + 1 && y.slot != x.slot) = prev at e
    cases prev with
    | some p =>
      obtain ⟨u, hu, e⟩ := bind_eq_ok.mp e
      exact ⟨u, State.putEnt_canonical h hu, e⟩
    | none =>
      obtain ⟨u, hu, e⟩ := bind_eq_ok.mp e
      exact ⟨u, State.caWrite_canonical h hu, e⟩
  obtain ⟨u, hu, e⟩ := unlinked
  obtain ⟨line, -, e⟩ := bind_eq_ok.mp e
  obtain ⟨v, hv, e⟩ := bind_eq_ok.mp e
  cases e
  have hw := State.setLines_canonical (State.putEnt_canonical hu hv)
  exact ite_canonical (State.queueDrops_canonical (hw ..) ..) (hw ..)

theorem State.countDown_canonical {s t : State} {r : CaRegion} {x : CaEnt} {k : Nat} (h : State.canonical s)
    (e : s.countDown r x k = .ok t) : State.canonical t := by
  unfold State.countDown at e
  split at e
  · cases e
    exact h
  · split at e
    · cases e
    · split at e
      · exact State.freeLine_canonical h e
      · exact State.putEnt_canonical h e

/-! ## The content-addressed space: transactions and instructions -/

theorem State.lookupAlloc_canonical {s : State} {r : CaRegion} {line : List Byte} {node : Bool} {o : Nat × Bool × State}
    (h : State.canonical s) (e : s.lookupAlloc r line node = .ok o) : State.canonical o.2.2 := by
  generalize hf : State.lookupAlloc = f at e
  delta State.lookupAlloc at hf
  subst hf
  beta_reduce at e
  generalize s.lineHash r line = hash at e
  split at e
  · cases e
    exact h
  · obtain ⟨es, -, e⟩ := bind_eq_ok.mp e
    obtain ⟨same, -, e⟩ := bind_eq_ok.mp e
    cases same with
    | some x =>
      obtain ⟨t, ht, e⟩ := bind_eq_ok.mp e
      cases e
      exact State.countUp_canonical h ht
    | none =>
      generalize (List.range 256).find? (fun i => !(hash == 0 && decide (i ≤ 1)) &&
        !(es.filter fun e => e.live && e.name / 256 == hash).any fun e => e.name == hash * 256 + i) = slot at e
      cases slot with
      | none => cases e
      | some i =>
        obtain ⟨free, -, e⟩ := bind_eq_ok.mp e
        cases free with
        | none => cases e
        | some k =>
          obtain ⟨head, -, e⟩ := bind_eq_ok.mp e
          obtain ⟨s1, h1, e⟩ := bind_eq_ok.mp e
          obtain ⟨s2, h2, e⟩ := bind_eq_ok.mp e
          obtain ⟨s3, h3, e⟩ := bind_eq_ok.mp e
          cases e
          exact State.setLines_canonical
            (State.caWrite_canonical (State.putEnt_canonical (State.caPlaceLine_canonical h h1) h2) h3) ..

theorem caLanes_canonical {f : State → Nat → Except CaErr (Val × State)} {s : State} (h : State.canonical s)
    (hf : ∀ t L r, State.canonical t → f t L = .ok r → State.canonical r.2) (ls : List Nat) : State.canonical (caLanes f s ls).1 := by
  induction ls generalizing s with
  | nil => exact h
  | cons L ls ih =>
    unfold caLanes
    split
    · next e => exact ih (hf _ _ _ h e)
    · exact ih h

theorem State.caTransact_canonical {s : State} (h : State.canonical s) {f : State → Nat → Except CaErr (Val × State)}
    (hf : ∀ t L r, State.canonical t → f t L = .ok r → State.canonical r.2) (nres : Nat) : State.canonical (s.caTransact nres f) := by
  unfold State.caTransact
  dsimp only
  split
  · exact State.finish_canonical (State.l1Acquire_canonical (caLanes_canonical h hf _) _) _
  · exact State.lateFault_canonical (State.done_canonical h) ..

theorem State.caIssue_canonical {s : State} (h : State.canonical s) {eff : State → State}
    (heff : ∀ t, State.canonical t → State.canonical (eff t)) (rb : Opnd) (more : Nat → Option Cause) (addr : Nat → Nat) :
    State.canonical (s.caIssue rb more addr eff) := by
  unfold State.caIssue
  dsimp only
  split
  · next hf => exact State.laneFault_canonical h hf
  · exact ite_canonical (State.stall_canonical h) (ite_canonical (State.stall_canonical h) (heff _ h))

theorem State.caIn_canonical {s : State} {rb : Opnd} {L : Nat} {f : CaRegion → Except CaErr (Val × State)} {o : Val × State}
    (hf : ∀ r, f r = .ok o → State.canonical o.2) (e : s.caIn rb L f = .ok o) : State.canonical o.2 := by
  unfold State.caIn at e
  split at e
  · exact hf _ e
  · cases e

theorem execCaput_canonical {s : State} (h : State.canonical s) (spadSrc : Bool) (rb src : Opnd) :
    NextCanonical (execCaput spadSrc rb src s) := by
  refine next_canonical (State.caIssue_canonical h (fun t ht => ?_) ..)
  dsimp only
  split
  · exact State.parkPresence_canonical ht _
  · split
    · exact State.fabAskAll_canonical ht ..
    · refine State.fabDrop_canonical (State.caTransact_canonical (foldl_canonical ht fun _ _ hu => State.touchPlace_canonical hu ..)
        (fun v L r hv e => ?_) _) ..
      split at e
      · cases e
      · refine State.caIn_canonical (fun q hq => ?_) e
        obtain ⟨o, ho, rfl⟩ := map_eq_ok.mp hq
        exact State.lookupAlloc_canonical hv ho

theorem execCaget_canonical {s : State} (h : State.canonical s) (rb x : Opnd) : NextCanonical (execCaget rb x s) :=
  next_canonical (State.caIssue_canonical h (fun _ ht => State.caTransact_canonical ht (fun _ _ _ hv e =>
    State.caIn_canonical (fun r hr => by
      obtain ⟨-, hr⟩ | ⟨-, hr⟩ := ite_eq_iff.mp hr
      · rw [← Except.ok.inj hr]
        exact hv
      · obtain ⟨e, -, rfl⟩ := map_eq_ok.mp hr
        exact hv) e) _) ..)

/-- One lane of caref and cadrop: the zero line is not counted, and the count of another line moves by `f`. -/
theorem count_canonical {v : State} {o : Val × State} {c : Prop} [Decidable c] {x : Except CaErr CaEnt} {f : CaEnt → Except CaErr State}
    (h : State.canonical v) (hf : ∀ y u, f y = .ok u → State.canonical u)
    (e : (if c then .ok (0, v) else do
      let y ← x
      let u ← f y
      return (0, u)) = .ok o) : State.canonical o.2 := by
  obtain ⟨-, e⟩ | ⟨-, e⟩ := ite_eq_iff.mp e
  · cases e
    exact h
  · obtain ⟨y, -, e⟩ := bind_eq_ok.mp e
    obtain ⟨u, hu, e⟩ := bind_eq_ok.mp e
    cases e
    exact hf y u hu

theorem execCaref_canonical {s : State} (h : State.canonical s) (rb x k : Opnd) : NextCanonical (execCaref rb x k s) :=
  next_canonical (State.caIssue_canonical h (fun _ ht => State.caTransact_canonical ht (fun _ _ _ hv e =>
    State.caIn_canonical (fun _ hr => count_canonical hv (fun _ _ => State.countUp_canonical hv) hr) e) _) ..)

theorem execCadrop_canonical {s : State} (h : State.canonical s) (rb x k : Opnd) : NextCanonical (execCadrop rb x k s) :=
  next_canonical (State.caIssue_canonical h (fun _ ht => State.caTransact_canonical ht (fun _ _ _ hv e =>
    State.caIn_canonical (fun _ hr => count_canonical hv (fun _ _ => State.countDown_canonical hv) hr) e) _) ..)

theorem State.nameUp_canonical {s t : State} {r : CaRegion} {n : Nat} (h : State.canonical s) (e : s.nameUp r n = .ok t) :
    State.canonical t := by
  unfold State.nameUp at e
  split at e
  · cases e
    exact h
  · obtain ⟨x, -, e⟩ := bind_eq_ok.mp e
    exact State.countUp_canonical h e

theorem State.nameDown_canonical {s t : State} {r : CaRegion} {n : Nat} (h : State.canonical s) (e : s.nameDown r n = .ok t) :
    State.canonical t := by
  unfold State.nameDown at e
  split at e
  · cases e
    exact h
  · obtain ⟨x, -, e⟩ := bind_eq_ok.mp e
    exact State.countDown_canonical h e

section
variable {s : State} (h : State.canonical s)
include h

theorem State.swapRoot_canonical {r : CaRegion} {va : Nat} {p : Phys} {got : Nat × Nat}
    {expect new : Nat} {o : Val × State} (e : s.swapRoot r va p got expect new = .ok o) : State.canonical o.2 := by
  unfold State.swapRoot at e
  dsimp only at e
  split at e
  · cases e
  · next s1 h1 =>
    obtain ⟨_, -, h1⟩ := bind_eq_ok.mp h1
    have hs1 := State.meet_canonical (State.nameUp_canonical h h1) p 16
    obtain ⟨-, e⟩ | ⟨-, e⟩ := ite_eq_iff.mp e
    · cases e
    · obtain ⟨-, e⟩ | ⟨-, e⟩ := ite_eq_iff.mp e
      · obtain ⟨t, ht, rfl⟩ := map_eq_ok.mp e
        exact State.nameDown_canonical (ite_canonical hs1 (State.homeWriteBy_canonical (State.l1Drop_canonical hs1 ..) ..)) ht
      · obtain ⟨t, ht, rfl⟩ := map_eq_ok.mp e
        exact State.nameDown_canonical hs1 ht

theorem execCaswap_canonical (rb slot expect new : Opnd) :
    NextCanonical (execCaswap rb slot expect new s) := by
  refine next_canonical (ite_canonical (State.faultAll_canonical h _) (State.caIssue_canonical h (fun t ht => ?_) ..))
  dsimp only
  split
  · exact State.fabAskAll_canonical ht ..
  · refine foldl_canonical (State.fabDrop_canonical (State.caTransact_canonical
      (foldl_canonical ht fun _ _ hu => State.touchPlace_canonical hu ..) (fun v L r hv e => State.caIn_canonical
        (fun q hq => ?_) e) _) ..)
      fun o L ho => ?_
    · split at hq
      · exact State.swapRoot_canonical hv hq
      · cases hq
        exact hv
    · split
      · exact ite_canonical (State.logDenial_canonical ho ..) ho
      · exact ho

theorem execCawalk_canonical (rb root off : Opnd) : NextCanonical (execCawalk rb root off s) :=
  next_canonical (State.caIssue_canonical h (fun _ ht => State.caTransact_canonical ht (fun _ _ _ hv e =>
    State.caIn_canonical (fun r hr => by
      obtain ⟨n, -, rfl⟩ := map_eq_ok.mp hr
      exact hv) e) _) ..)

theorem execCastat_canonical (rb x : Opnd) (code : BitVec 30) :
    NextCanonical (execCastat rb x code s) :=
  next_canonical (State.caIssue_canonical h (fun _ ht => State.skipFree_canonical (State.caTransact_canonical ht (fun _ _ _ hv e =>
    State.caIn_canonical (fun r hr => by
      cases hr
      exact hv) e) _)) ..)

end

theorem foldlM_canonical {ε α : Type} {f : State → α → Except ε State} {l : List α} {s t : State} (h : State.canonical s)
    (hf : ∀ u x v, State.canonical u → f u x = .ok v → State.canonical v) (e : l.foldlM f s = .ok t) : State.canonical t := by
  induction l generalizing s with
  | nil =>
    cases e
    exact h
  | cons x xs ih =>
    rw [List.foldlM_cons] at e
    obtain ⟨u, hu, e⟩ := bind_eq_ok.mp e
    exact ih (hf _ _ _ h hu) e

theorem State.buildNode_canonical {s : State} (h : State.canonical s) {r : CaRegion} {hdr : Nat} {cs : List Nat} {o : Val × State}
    (e : s.buildNode r hdr cs = .ok o) : State.canonical o.2 := by
  unfold State.buildNode at e
  dsimp only at e
  split at e
  · cases e
  · obtain ⟨shapes, -, e⟩ := bind_eq_ok.mp e
    split at e
    · cases e
    · obtain ⟨x, hx, e⟩ := bind_eq_ok.mp e
      split at e
      · obtain ⟨t, ht, e⟩ := bind_eq_ok.mp e
        cases e
        exact foldlM_canonical (State.lookupAlloc_canonical h hx) (fun _ _ _ => State.nameUp_canonical) ht
      · cases e
        exact State.lookupAlloc_canonical h hx

theorem execCanode_canonical {s : State} (h : State.canonical s) (rb hdr c0 c1 c2 c3 c4 c5 c6 : Opnd) :
    NextCanonical (execCanode rb hdr c0 c1 c2 c3 c4 c5 c6 s) :=
  next_canonical (State.caIssue_canonical h (fun _ ht => State.caTransact_canonical ht (fun _ _ _ hv e =>
    State.caIn_canonical (fun _ hr => State.buildNode_canonical hv hr) e) _) ..)

/-! ## The content-addressed space: events of the engine -/

section
variable {s : State} (h : State.canonical s)
include h

theorem State.dropNext_canonical (r : CaRegion) : State.canonical (s.dropNext r) := by
  unfold State.dropNext
  split
  · exact h
  · extract_lets popped
    have hp : State.canonical popped := canonical_with h
    split
    · split
      · next hd => exact State.countDown_canonical hp hd
      · exact canonical_with h
    · exact hp
    · exact canonical_with h

theorem execBackgroundDrop_canonical (n : Nat) : NextCanonical (execBackgroundDrop n s) := by
  unfold execBackgroundDrop
  split
  · exact next_canonical (ite_canonical h (State.dropNext_canonical h ..))
  · exact next_canonical h

theorem execBackgroundDropRetry_canonical (n : Nat) : NextCanonical (execBackgroundDropRetry n s) := by
  unfold execBackgroundDropRetry
  split
  · exact next_canonical (ite_canonical h (State.dropNext_canonical h ..))
  · exact next_canonical h

theorem State.caEnable_canonical (n ctx : Nat) (v : Dword) : State.canonical (s.caEnable n ctx v) := by
  unfold State.caEnable
  dsimp only
  exact ite_canonical (State.sysSet_canonical h ..) (ite_canonical h (State.sysSet_canonical (canonical_with h) ..))

theorem execRegionEnable_canonical (n : Nat) (v : Dword) : NextCanonical (execRegionEnable n v s) := by
  unfold execRegionEnable
  exact next_canonical (ite_canonical (State.caEnable_canonical h ..) h)

theorem State.caZero_canonical (r : CaRegion) (va n : Nat) : State.canonical (s.caZero r va n) :=
  foldl_canonical h fun t i ht => by
    extract_lets a e
    split
    · have hw := fun p k => foldl_canonical (l := linesIn k (e - a)) (f := fun t l => t.invalidateSharers l)
        (State.homeWrite_canonical (State.meet_canonical ht p (e - a)) k [0]) fun _ _ hu => State.invalidateSharers_canonical hu _
      split
      · exact ht
      · exact clearRange_cwf _ _ (hw ..)
    · exact ht

theorem execRegionInitDone_canonical (n : Nat) : NextCanonical (execRegionInitDone n s) := by
  unfold execRegionInitDone
  dsimp only
  split
  · exact next_canonical (ite_canonical h (State.sysSet_canonical (State.caZero_canonical (State.caZero_canonical h ..) ..) ..))
  · exact next_canonical h

theorem State.caDisable_canonical (n : Nat) (v : Dword) : State.canonical (s.caDisable n v) := by
  unfold State.caDisable
  dsimp only
  exact State.sysSet_canonical (canonical_with h) ..

theorem execRegionDisable_canonical (n : Nat) (v : Dword) : NextCanonical (execRegionDisable n v s) := by
  unfold execRegionDisable
  exact next_canonical (ite_canonical (State.caDisable_canonical h ..) h)

theorem State.spanWrite_canonical (wg off : Nat) (bs : List Byte) (clash : Bool) : State.canonical (s.spanWrite wg off bs clash) := by
  unfold State.spanWrite
  dsimp only
  split
  · exact State.updWg_canonical (State.takeFreeBytes_canonical h ..) ..
  · exact State.updWg_canonical h ..

theorem State.spanIssue_canonical (o : SpanOp) : State.canonical (s.spanIssue o) := by
  unfold State.spanIssue
  dsimp only
  split
  · split
    · exact canonical_with (State.updWv_canonical (State.updWv_canonical (State.done_canonical h) ..) ..)
    · exact canonical_with (State.updWv_canonical (State.put_canonical h ..) ..)
    · exact canonical_with (State.updWv_canonical (State.put_canonical h ..) ..)
    · exact canonical_with (State.updWv_canonical (State.finishFp_canonical h ..) ..)
  · split
    · exact canonical_with (State.spanWrite_canonical (State.updWv_canonical (State.updWv_canonical (State.done_canonical h) ..) ..) ..)
    · exact canonical_with (State.spanWrite_canonical (State.updWv_canonical (State.put_canonical h ..) ..) ..)
    · exact canonical_with (State.spanWrite_canonical (State.updWv_canonical (State.put_canonical h ..) ..) ..)
    · exact canonical_with (State.spanWrite_canonical (State.updWv_canonical (State.finishFp_canonical h ..) ..) ..)

theorem State.spanRun_canonical (sp : Span) (kind : SpanKind) (dst : Option (Nat × Nat × Nat)) (clash : Bool) :
    State.canonical (s.spanRun sp kind dst clash) := by
  unfold State.spanRun
  dsimp only
  split
  · exact State.parkPresence_canonical h ..
  · split
    · exact State.faultAll_canonical h ..
    · exact ite_canonical (State.stall_canonical h) (State.spanIssue_canonical h ..)

theorem State.spanEnd_canonical (i : Nat) (o : SpanOp) : State.canonical (s.spanEnd i o) := by
  unfold State.spanEnd
  dsimp only
  refine ite_canonical (State.updWave_canonical ?_ ..) (ite_canonical (State.updWave_canonical ?_ ..) (State.spanWrite_canonical
    (State.updWave_canonical ?_ ..) ..))
  all_goals exact canonical_with h

theorem execSpanComplete_canonical (w : Nat) : NextCanonical (execSpanComplete w s) := by
  unfold execSpanComplete
  split
  · exact next_canonical h
  · split
    · exact next_canonical (State.spanEnd_canonical h ..)
    · exact next_canonical h

theorem State.padWrite_canonical (wi off : Nat) (bs : List Byte) : State.canonical (s.padWrite wi off bs) := by
  unfold State.padWrite
  dsimp only
  split
  · split
    · split
      · exact State.ctxWrite_canonical h ..
      · exact h
    · exact h
  · refine State.updWg_canonical ?_ ..
    split
    · split
      · exact State.ctxWrite_canonical h ..
      · exact h
    · exact h

end

/-! ## The leat and its commands -/

section
variable {s : State} (h : State.canonical s)
include h

theorem State.updBind_canonical (wg hd : Nat) (f : Binding → Binding) : State.canonical (s.updBind wg hd f) := by
  unfold State.updBind
  exact canonical_with h

theorem State.setHead_canonical (b : Binding) (v : Word) : State.canonical (s.setHead b v) := by
  unfold State.setHead
  exact State.padWrite_canonical (State.updBind_canonical h ..) ..

theorem State.setCtail_canonical (b : Binding) (v : Word) : State.canonical (s.setCtail b v) := by
  unfold State.setCtail
  exact State.padWrite_canonical (State.updBind_canonical h ..) ..

theorem State.setBindSt_canonical (b : Binding) (v : Nat) : State.canonical (s.setBindSt b v) := by
  unfold State.setBindSt
  exact State.padWrite_canonical (State.updBind_canonical h ..) ..

theorem State.unbind_canonical (b : Binding) : State.canonical (s.unbind b) := by
  unfold State.unbind
  dsimp only
  exact canonical_with (State.padWrite_canonical h ..)

theorem State.engWake_canonical (wi : Nat) : State.canonical (s.engWake wi) := by
  unfold State.engWake
  dsimp only
  exact foldl_canonical (canonical_with h) (fun _ _ ht => State.unbind_canonical ht ..)

theorem State.engTouch_canonical (c : Command) (a : Nat) : State.canonical (s.engTouch c a) := by
  unfold State.engTouch
  dsimp only
  split
  · exact h
  · split
    · exact State.touch_canonical h ..
    · exact h

theorem State.engSend_canonical (c : Command) (p : Phys) (a off : Nat) (fx : WriteFx) : State.canonical (s.engSend c p a off fx) := by
  unfold State.engSend
  dsimp only
  exact canonical_with h

theorem State.engWrite_canonical {t : State} {c : Command} {a off : Nat} {bs : List Byte} (e : s.engWrite c a off bs = .ok t) :
    State.canonical t := by
  unfold State.engWrite at e
  dsimp only at e
  split at e
  · split at e
    · cases e
    · split at e
      · cases e
      · cases e
        exact State.padWrite_canonical h ..
  · split at e
    · cases e
    · split at e
      · split at e
        · cases e
        · split at e
          · cases e
          · split at e
            · cases e
              exact State.captureBy_canonical (State.touch_canonical h ..) ‹_›
            · cases e
      · split at e
        · cases e
          exact State.engSend_canonical (State.touch_canonical h ..) ..
        · split at e
          · cases e
          · cases e
            exact State.homeWrite_canonical (State.touch_canonical h ..) ..

theorem State.cmdUpd_canonical (id : Nat) (f : Command → Command) : State.canonical (s.cmdUpd id f) := by
  unfold State.cmdUpd
  exact canonical_with h

theorem State.overrun_canonical (b : Binding) : State.canonical (s.overrun b) := by
  unfold State.overrun
  dsimp only
  exact State.setBindSt_canonical (State.updBind_canonical (canonical_with h) ..) ..

theorem execNotifyFetch_canonical (b : Nat) : NextCanonical (execNotifyFetch b s) := by
  unfold execNotifyFetch
  exact next_canonical (ite_canonical h (ite_canonical (State.overrun_canonical h ..) (ite_canonical h (canonical_with h))))

theorem State.freeOver_canonical (ov : Nat → Bool) (a : Nat) (bs : List Byte) : State.canonical (s.freeOver ov a bs).2 := by
  unfold State.freeOver
  dsimp only
  split
  · exact State.takeFreeBytes_canonical h ..
  · exact h

theorem State.movePieces_canonical (c : Command) (ov : Nat → Bool)
    (data : State → Run → Except Nat (List Byte)) (rs : List Run) : State.canonical (State.movePieces c ov data s rs).1 := by
  induction rs generalizing s with
  | nil => exact h
  | cons r rs ih =>
    have ht : State.canonical (if c.reads = true then s.engTouch c r.src else s) := ite_canonical (State.engTouch_canonical h ..) h
    unfold State.movePieces
    dsimp only
    split
    · exact ht
    · split
      · exact ht
      · next hw => exact ih (State.engWrite_canonical (State.freeOver_canonical ht ..) hw)

theorem State.spoil_canonical (c : Command) (a : Nat) : State.canonical (s.spoil c a) := by
  unfold State.spoil
  dsimp only
  split
  · exact ite_canonical h (State.padWrite_canonical (State.takeFreeBytes_canonical h ..) ..)
  · split
    · exact h
    · exact ite_canonical (getD_canonical (fun _ _ => State.captureBy_canonical (State.takeFreeBytes_canonical h ..) ‹_›) h)
        (ite_canonical h (State.homeWrite_canonical (State.meet_canonical (State.takeFreeBytes_canonical h ..) ..) ..))

theorem State.cmdMoved_canonical (c : Command) (ps left : List Run) (why : Option (Nat × Nat)) :
    State.canonical (s.cmdMoved c ps left why) := by
  unfold State.cmdMoved
  dsimp only
  exact State.cmdUpd_canonical (State.updWg_canonical (ite_canonical (foldl_canonical (State.fabDrop_canonical h ..)
    (fun _ _ ht => State.spoil_canonical ht ..)) (State.fabDrop_canonical h ..)) ..) ..

theorem State.caoutBegin_canonical (c : Command) : State.canonical (s.caoutBegin c) := by
  unfold State.caoutBegin
  dsimp only
  split
  · exact State.cmdMoved_canonical h ..
  · split
    · exact State.cmdMoved_canonical h ..
    · split
      · exact State.cmdUpd_canonical (State.nameUp_canonical h ‹_›) ..
      · exact State.cmdMoved_canonical h ..

theorem execCommandBegin_canonical (b : Nat) : NextCanonical (execCommandBegin b s) := by
  unfold execCommandBegin
  dsimp only
  refine next_canonical ?_
  split
  · exact h
  · split
    · exact State.overrun_canonical h ..
    · split
      · exact h
      · split
        · exact State.cmdUpd_canonical (canonical_with (State.setHead_canonical h ..)) ..
        · refine ite_canonical (State.caoutBegin_canonical (State.updWg_canonical (State.cmdUpd_canonical ?_ ..) ..) ..)
            (State.updWg_canonical (State.cmdUpd_canonical ?_ ..) ..)
          · exact canonical_with (State.setHead_canonical h ..)
          · exact canonical_with (State.setHead_canonical h ..)

theorem State.cmdRun_canonical (id kind : Nat)
    (data : Command → State → Run → Except Nat (List Byte)) : State.canonical (s.cmdRun id kind data) := by
  unfold State.cmdRun
  split
  · exact h
  · exact ite_canonical h (ite_canonical (State.fabAskAll_canonical h ..) (ite_canonical h
      (State.cmdMoved_canonical (State.movePieces_canonical h ..) ..)))

theorem execCopy_canonical (id : Nat) : NextCanonical (execCopy id s) :=
  next_canonical (State.cmdRun_canonical h ..)

theorem execCopyNd_canonical (id : Nat) : NextCanonical (execCopyNd id s) :=
  next_canonical (State.cmdRun_canonical h ..)

theorem execGather_canonical (id : Nat) : NextCanonical (execGather id s) :=
  next_canonical (State.cmdRun_canonical h ..)

theorem execScatter_canonical (id : Nat) : NextCanonical (execScatter id s) :=
  next_canonical (State.cmdRun_canonical h ..)

theorem execEngineFill_canonical (id : Nat) : NextCanonical (execEngineFill id s) :=
  next_canonical (State.cmdRun_canonical h ..)

theorem execCaout_canonical (id : Nat) : NextCanonical (execCaout id s) :=
  next_canonical (State.cmdRun_canonical h ..)

end

/-! ## Reducing copies, completion and the instructions of the leat -/

section
variable {s : State} (h : State.canonical s)
include h

theorem State.rcTouch_canonical (c : Command) (a d : Nat) : State.canonical (s.rcTouch c a d) := by
  unfold State.rcTouch
  dsimp only
  split
  · exact State.touch_canonical (State.engTouch_canonical h ..) ..
  · exact State.engTouch_canonical h ..

theorem State.setSeq_canonical (x : SeqRegion) : State.canonical (s.setSeq x) := by
  unfold State.setSeq
  exact canonical_with h

theorem State.partFails_canonical (p : SeqPart) : State.canonical (s.partFails p) := by
  unfold State.partFails
  dsimp only
  exact State.cmdUpd_canonical h ..

theorem State.partsDone_canonical (id : Nat) : State.canonical (s.partsDone id) := by
  unfold State.partsDone
  exact ite_canonical h (State.cmdUpd_canonical h ..)

theorem State.rcSend_canonical (c : Command) (ty : Ty) (x : RcElem) (p : Phys) : State.canonical (s.rcSend c ty x p) := by
  unfold State.rcSend
  dsimp only
  exact ite_canonical (State.engSend_canonical (State.takeFreeBytes_canonical h ..) ..) (State.engSend_canonical h ..)

theorem execRcopy_canonical (id : Nat) : NextCanonical (execRcopy id s) := by
  unfold execRcopy
  split
  · exact h
  · next c _ =>
    extract_lets ps asks ty u r home t v w home' parts
    have hu : State.canonical u := foldl_canonical h fun _ _ ht => State.rcTouch_canonical ht ..
    have ht : State.canonical t := State.fabDrop_canonical hu ..
    have hv : State.canonical v := by
      unfold v
      split
      · exact State.cmdUpd_canonical ht ..
      · exact ht
    have hw : State.canonical w := foldl_canonical hv fun _ _ hw => State.rcSend_canonical hw ..
    split
    · exact h
    · split
      · exact State.fabAskAll_canonical h ..
      · split
        · exact State.partsDone_canonical (State.cmdUpd_canonical hw ..) _
        · split
          · exact State.partsDone_canonical (foldl_canonical hv fun _ _ hw => State.partFails_canonical hw _) _
          · exact next_canonical (canonical_with hv)

theorem State.applyElem_canonical (p : SeqPart) (x : RcElem) : State.canonical (s.applyElem p x) := by
  unfold State.applyElem
  extract_lets n f t
  have ht : State.canonical t := State.meetKey_canonical h ..
  split
  · extract_lets old r
    have hr : State.canonical r.2 := by
      unfold r
      split
      · exact State.takeFreeBytes_canonical h _
      · exact h
    split
    · next hc => exact State.captureBy_canonical hr hc
    · exact State.cmdUpd_canonical h ..
  · exact ite_canonical (State.homeWrite_canonical (State.takeFreeBytes_canonical ht _) ..) (State.homeRmw_canonical ht ..)

theorem execVaultPartApply_canonical (d v r : Nat) : NextCanonical (execVaultPartApply d v r s) := by
  unfold execVaultPartApply
  dsimp only
  split
  · exact next_canonical h
  · split
    · exact next_canonical h
    · exact next_canonical (State.partsDone_canonical (State.cmdUpd_canonical (State.setSeq_canonical (foldl_canonical
        (canonical_with h) (fun _ _ ht => State.applyElem_canonical ht ..)) ..) ..) ..)

theorem execSequenceGapTimeout_canonical (d v r : Nat) : NextCanonical (execSequenceGapTimeout d v r s) := by
  unfold execSequenceGapTimeout
  dsimp only
  split
  · exact next_canonical h
  · exact next_canonical (foldl_canonical (State.setSeq_canonical (foldl_canonical (canonical_with h)
      (fun _ _ ht => State.partFails_canonical ht ..)) ..) (fun _ _ ht => State.partsDone_canonical ht ..))

theorem State.cmdBarrier_canonical (c : Command) : State.canonical (s.cmdBarrier c).1 := by
  unfold State.cmdBarrier
  split
  · have hs : State.canonical (if c.noTotal then (s.takeFreeBytes 4).2 else s) := ite_canonical (State.takeFreeBytes_canonical h _) h
    dsimp only
    split
    · exact hs
    · exact ite_canonical (State.phaseAdvanced_canonical (State.padWrite_canonical hs ..) _) (State.padWrite_canonical hs ..)
  · exact h

theorem State.caoutEnd_canonical (c : Command) : State.canonical (s.caoutEnd c) := by
  unfold State.caoutEnd
  split
  · exact h
  · split
    · exact h
    · split
      · exact State.nameDown_canonical h ‹_›
      · exact h

theorem execCommandComplete_canonical (b : Nat) : NextCanonical (execCommandComplete b s) := by
  unfold execCommandComplete
  dsimp only
  split
  · exact next_canonical h
  · split
    · exact next_canonical h
    · exact next_canonical (State.engWake_canonical (State.caoutEnd_canonical (canonical_with (State.setCtail_canonical
        (State.padWrite_canonical (State.cmdBarrier_canonical h ..) ..) ..)) ..) ..)

theorem execEngbind_canonical (ctl cbase ncmd crbase ncpl : Opnd) : NextCanonical (execEngbind ctl cbase ncmd crbase ncpl s) := by
  unfold execEngbind
  dsimp only
  refine next_canonical ?_
  split
  · exact State.faultAll_canonical h ..
  · split
    · exact State.parkPresence_canonical h ..
    · split
      · exact ite_canonical (State.stall_canonical h) (State.put_canonical (State.padWrite_canonical (canonical_with h) ..) ..)
      · exact State.put_canonical h ..

theorem State.withBind_canonical {f : Binding → State} (hf : ∀ b, State.canonical (f b)) (o : Opnd) :
    State.canonical (s.withBind o f) := by
  unfold State.withBind
  split
  · exact hf _
  · exact State.faultAll_canonical h ..

theorem execEngunbind_canonical (hd : Opnd) : NextCanonical (execEngunbind hd s) := by
  unfold execEngunbind
  exact next_canonical (State.withBind_canonical h (fun _ => ite_canonical (State.done_canonical (State.unbind_canonical
    (State.setBindSt_canonical (State.updBind_canonical h ..) ..) ..)) (State.park_canonical (State.setBindSt_canonical
    (State.updBind_canonical h ..) ..) ..)) ..)

theorem execCmpwait_canonical (hd target : Opnd) : NextCanonical (execCmpwait hd target s) := by
  unfold execCmpwait
  exact next_canonical (State.withBind_canonical h (fun _ => ite_canonical (State.put_canonical h ..) (State.park_canonical h ..)) ..)

theorem execCmpnext_canonical (hd done : Opnd) : NextCanonical (execCmpnext hd done s) := by
  unfold execCmpnext
  exact next_canonical (State.withBind_canonical h (fun _ => ite_canonical (State.faultAll_canonical h ..) (ite_canonical
    (State.parkPresence_canonical h ..) (ite_canonical (State.stall_canonical h) (State.put_canonical
    (State.padWrite_canonical h ..) ..)))) ..)

theorem execEngstat_canonical (hd : Opnd) (code : BitVec 30) : NextCanonical (execEngstat hd code s) :=
  next_canonical (State.withBind_canonical h (fun _ => State.put_canonical h ..) ..)

end

/-! ## Save, restore and kill of workgroups -/

section
variable {s : State} (h : State.canonical s)
include h

theorem State.flushWaveLines_canonical (i : Nat) : State.canonical (s.flushWaveLines i) := by
  unfold State.flushWaveLines
  dsimp only
  exact canonical_with (foldl_canonical h (fun _ _ ht => State.l1WriteBack_canonical ht ..))

theorem State.finishFault_canonical (i : Nat) : State.canonical (s.finishFault i) := by
  unfold State.finishFault
  dsimp only
  split
  · exact h
  · split
    · exact State.notice_canonical (State.l1Acquire_canonical (State.saveBlock_canonical (State.flushWaveLines_canonical
        (State.updWave_canonical h ..) ..) ..) ..) ..
    · exact State.l1Acquire_canonical (State.saveBlock_canonical (State.flushWaveLines_canonical (State.updWave_canonical h ..) ..) ..) ..

theorem State.deliverDue_canonical (i : Nat) : State.canonical (s.deliverDue i) := by
  unfold State.deliverDue
  dsimp only
  refine State.updWave_canonical ?_ ..
  split
  · exact State.finishFault_canonical (State.takeFault_canonical (foldl_canonical (State.finishFault_canonical h ..)
      (fun _ _ ht => State.finishFault_canonical (State.takeFault_canonical ht ..) ..)) ..) ..
  · exact foldl_canonical (State.finishFault_canonical h ..) (fun _ _ ht => State.finishFault_canonical
      (State.takeFault_canonical ht ..) ..)

theorem State.flushOwnLines_canonical (wi : Nat) : State.canonical (s.flushOwnLines wi) := by
  unfold State.flushOwnLines
  exact State.dropOwnLines_canonical (foldl_canonical h (fun _ _ ht => State.l1WriteBack_canonical ht ..)) ..

theorem State.saveInPlace_canonical (wi : Nat) : State.canonical (s.saveInPlace wi) := by
  unfold State.saveInPlace
  dsimp only
  split
  · refine State.blockPut_canonical ?_ ..
    split
    · exact State.ctxCopyOut_canonical (foldl_canonical (State.l1Acquire_canonical (State.flushOwnLines_canonical h ..) ..)
        (fun _ _ ht => State.saveBlock_canonical (State.updWave_canonical ht ..) ..)) ..
    · exact foldl_canonical (State.l1Acquire_canonical (State.flushOwnLines_canonical h ..) ..)
        (fun _ _ ht => State.saveBlock_canonical (State.updWave_canonical ht ..) ..)
  · split
    · exact State.ctxCopyOut_canonical (foldl_canonical (State.l1Acquire_canonical (State.flushOwnLines_canonical h ..) ..)
        (fun _ _ ht => State.saveBlock_canonical (State.updWave_canonical ht ..) ..)) ..
    · exact foldl_canonical (State.l1Acquire_canonical (State.flushOwnLines_canonical h ..) ..)
        (fun _ _ ht => State.saveBlock_canonical (State.updWave_canonical ht ..) ..)

theorem State.saveWg_canonical (wi : Nat) : State.canonical (s.saveWg wi) := by
  unfold State.saveWg
  dsimp only
  exact State.updWg_canonical (State.uncharge_canonical (State.leaveCluster_canonical (canonical_with (State.saveInPlace_canonical
    (foldl_canonical h (fun _ _ ht => State.updWave_canonical (State.deliverDue_canonical ht ..) ..)) ..)) ..) ..) ..

theorem State.gangWaits_canonical (wi : Nat) : State.canonical (s.gangWaits wi) := by
  unfold State.gangWaits
  dsimp only
  exact State.updTask_canonical h ..

theorem execContextSave_canonical (g : Nat) : NextCanonical (execContextSave g s) := by
  unfold execContextSave
  exact next_canonical (ite_canonical h (foldl_canonical h (fun _ _ ht => State.gangWaits_canonical (State.saveWg_canonical ht ..) ..)))

theorem State.loadBlock_canonical (i : Nat) : State.canonical (s.loadBlock i) := by
  unfold State.loadBlock
  dsimp only
  split
  · exact ite_canonical (State.updWave_canonical h ..) (State.updWave_canonical h ..)
  · exact h

theorem State.fillLine_canonical (i n : Nat) : State.canonical (s.fillLine i n) := by
  unfold State.fillLine
  dsimp only
  exact State.updWave_canonical h ..

theorem State.nextSeq_canonical (d core : Nat) : State.canonical (s.nextSeq d core).2 := by
  unfold State.nextSeq
  dsimp only
  exact State.setDie_canonical h ..

theorem State.placeWaves_canonical (d core : Nat) (is ks : List Nat) :
    State.canonical (s.placeWaves d core is ks) := by
  induction is generalizing s ks with
  | nil => exact h
  | cons i is ih =>
    cases ks with
    | nil => exact h
    | cons k ks => exact ih (State.updWave_canonical (State.nextSeq_canonical h ..) ..) ks

theorem State.restoreWg_canonical (wi d core start budget : Nat) : State.canonical (s.restoreWg wi d core start budget) := by
  unfold State.restoreWg
  dsimp only
  exact State.l1Acquire_canonical (foldl_canonical (foldl_canonical (State.updWg_canonical (State.placeWaves_canonical h ..) ..)
    (fun _ _ ht => State.contTest_canonical (State.updWave_canonical (State.loadBlock_canonical ht ..) ..) ..))
    (fun _ _ ht => State.updBind_canonical ht ..)) ..

theorem State.dropCommands_canonical (wi : Nat) : State.canonical (s.dropCommands wi) := by
  unfold State.dropCommands
  dsimp only
  exact canonical_with (foldl_canonical h (fun _ _ ht => State.caoutEnd_canonical ht ..))

theorem State.killWg_canonical (wi : Nat) (restart : Bool) : State.canonical (s.killWg wi restart) := by
  unfold State.killWg
  dsimp only
  exact State.updWg_canonical (State.dropCommands_canonical (State.leaveCluster_canonical (State.freeWaves_canonical
    (State.uncharge_canonical (State.dropOwnLines_canonical h ..) ..) ..) ..) ..) ..

theorem State.killGang_canonical (wi : Nat) (restart : Bool) : State.canonical (s.killGang wi restart) := by
  unfold State.killGang
  dsimp only
  exact State.updGang_canonical (foldl_canonical h (fun _ _ ht => State.killWg_canonical (State.gangWaits_canonical ht ..) ..)) ..

theorem State.stopGang_canonical (wi : Nat) (st : WgSt) : State.canonical (s.stopGang wi st) := by
  unfold State.stopGang
  exact foldl_canonical h (fun _ _ ht => State.updWg_canonical ht ..)

end

/-! ## Admission, pre-emption and the instructions of tasks -/

section
variable {s : State} (h : State.canonical s)
include h

theorem State.readArgs_canonical (wi : Nat) : State.canonical (s.readArgs wi).2 := by
  unfold State.readArgs
  dsimp only
  split
  · exact State.fabAskAll_canonical h ..
  · exact State.fabDrop_canonical (State.walked_canonical h ..) ..

theorem State.startWave_canonical (i : Nat) (ws : List (Nat × Nat)) : State.canonical (s.startWave i ws) := by
  unfold State.startWave
  dsimp only
  exact foldl_canonical h (fun _ _ ht => State.ctxWrite_canonical ht ..)

theorem State.takeArgs_canonical (wi : Nat) : State.canonical (s.takeArgs wi) := by
  have hr := State.readArgs_canonical h wi
  unfold State.takeArgs
  dsimp only
  split
  · next e =>
    rw [e] at hr
    exact State.updWg_canonical hr ..
  · next e =>
    rw [e] at hr
    exact State.updWg_canonical (foldl_canonical hr fun _ _ ht => State.updWave_canonical (State.startWave_canonical ht ..) ..) ..

theorem State.createWaves_canonical (wi d core budget : Nat) (wbps ns : List Nat) :
    State.canonical (s.createWaves wi d core budget wbps ns) := by
  induction ns generalizing s with
  | nil => exact h
  | cons n ns ih => exact ih (canonical_with (State.nextSeq_canonical h d core))

theorem State.startWg_canonical (tk : Task) (w d core start budget : Nat) (wbps : List Nat) (img : Option Nat) (cost : List Nat) :
    State.canonical (s.startWg tk w d core start budget wbps img cost) := by
  unfold State.startWg
  dsimp only
  exact State.takeArgs_canonical (State.createWaves_canonical (ite_canonical (State.updWg_canonical h ..) (canonical_with h)) ..) ..

theorem State.admitMember_canonical {t : State} {tk : Task} {w d core start : Nat} {res heat : Bool} (e : s.admitMember tk w d core
    start res heat = some t) : State.canonical t := by
  unfold State.admitMember at e
  dsimp only at e
  split at e
  · cases e
    exact h
  · split at e
    · cases e
    · split at e
      · cases e
      · split at e
        · cases e
          exact State.setDie_canonical h ..
        · split at e
          · cases e
          · split at e
            · cases e
            · split at e
              · split at e
                · cases e
                · split at e
                  · cases e
                  · cases e
                    exact State.updWg_canonical (State.restoreWg_canonical (State.setDie_canonical h ..) ..) ..
              · split at e
                · cases e
                · split at e
                  · cases e
                  · cases e
                    exact State.startWg_canonical (State.setDie_canonical h ..) ..

theorem State.admitRun_canonical {t : State} {tk : Task} {gang d start : Nat} {res heat : Bool}
    (e : s.admitRun tk gang d start res heat = some t) : State.canonical t := by
  have hfold : ∀ (rs : List Nat) {u : State}, State.canonical u → rs.foldlM (fun s r =>
      s.admitMember tk (gang * tk.launch.gang + r) d ((start + r) % 80) start res heat) u = some t → State.canonical t := by
    intro rs
    induction rs with
    | nil =>
      intro u hu e
      cases e
      exact hu
    | cons r rs ih =>
      intro u hu e
      rw [List.foldlM_cons] at e
      obtain ⟨v, hv, e⟩ := Option.bind_eq_some_iff.mp e
      exact ih (State.admitMember_canonical hu hv) e
  exact hfold _ h e

theorem State.admitGang_canonical (tk : Task) (g d start : Nat) : State.canonical (s.admitGang tk g d start) := by
  unfold State.admitGang
  dsimp only
  split
  · exact h
  · refine canonical_with (State.updTask_canonical (ite_canonical ?_ ?_) ..)
    · exact canonical_with (State.setDie_canonical (State.admitRun_canonical h ‹_›) ..)
    · exact canonical_with (State.setDie_canonical (State.admitRun_canonical h ‹_›) ..)

theorem execWorkgroupAdmit_canonical (d : Nat) : NextCanonical (execWorkgroupAdmit d s) := by
  unfold execWorkgroupAdmit
  dsimp only
  refine next_canonical ?_
  split
  · exact ite_canonical h (State.admitGang_canonical h ..)
  · split
    · exact h
    · split
      · exact h
      · exact canonical_with (ite_canonical (State.notice_canonical (State.dieSet_canonical h ..) ..) (State.dieSet_canonical h ..))

theorem execContextRestore_canonical (g : Nat) : NextCanonical (execContextRestore g s) := by
  unfold execContextRestore
  refine next_canonical ?_
  refine foldl_canonical h (fun t x ht => ?_)
  split
  · exact ite_canonical (State.admitGang_canonical ht ..) ht
  · exact ht

theorem execPlacementStalled_canonical (tk : Nat) : NextCanonical (execPlacementStalled tk s) := by
  unfold execPlacementStalled
  dsimp only
  refine next_canonical ?_
  split
  · exact h
  · split
    · exact h
    · exact State.notice_canonical (State.updTask_canonical h ..) ..

theorem State.finishKills_canonical : State.canonical s.finishKills := by
  unfold State.finishKills
  dsimp only
  refine foldl_canonical (foldl_canonical h (fun _ _ ht => ite_canonical (State.killGang_canonical ht ..) ht)) (fun t x ht => ?_)
  split
  · exact ht
  · split
    · exact State.taskFaultEnd_canonical (State.dropTaskState_canonical ht ..) ..
    · exact ht

theorem execPreemptDecide_canonical (d tk : Nat) : NextCanonical (execPreemptDecide d tk s) := by
  unfold execPreemptDecide
  dsimp only
  refine next_canonical ?_
  split
  · exact State.finishKills_canonical h
  · split
    · exact State.finishKills_canonical h
    · split
      · exact State.finishKills_canonical h
      · split
        · exact State.finishKills_canonical h
        · split
          · exact State.finishKills_canonical h
          · exact State.updTask_canonical (State.setDie_canonical (State.finishKills_canonical h) ..) ..
          · exact ite_canonical (State.finishKills_canonical h) (foldl_canonical (State.setDie_canonical
              (State.finishKills_canonical h) ..) (fun _ _ ht => State.stopGang_canonical ht ..))
          · exact State.finishKills_canonical (foldl_canonical (State.setDie_canonical (State.finishKills_canonical h) ..)
              (fun _ _ ht => State.stopGang_canonical ht ..))

theorem execVaultTempSample_canonical (d : Nat) (temps : List Nat) : NextCanonical (execVaultTempSample d temps s) :=
  next_canonical (State.setDie_canonical (foldl_canonical h (fun _ _ ht => State.dieSet_canonical ht ..)) ..)

theorem execClusterGate_canonical (d c : Nat) : NextCanonical (execClusterGate d c s) := by
  unfold execClusterGate
  exact next_canonical (ite_canonical h (State.setDie_canonical h ..))

theorem State.tableTx_canonical {eff : State → State}
    (heff : ∀ t, State.canonical t → State.canonical (eff t)) : State.canonical (s.tableTx eff) :=
  ite_canonical (State.stall_canonical h) (heff _ (State.l1Acquire_canonical h ..))

theorem State.tableFault_canonical (tag : Nat) : State.canonical (s.tableFault tag) := by
  unfold State.tableFault
  exact State.lateFault_canonical (State.done_canonical h) ..

theorem execTasknew_canonical (rec : Opnd) : NextCanonical (execTasknew rec s) := by
  unfold execTasknew
  dsimp only
  refine next_canonical ?_
  split
  · exact State.fault_canonical h ..
  · split
    · exact State.fault_canonical h ..
    · refine State.tableTx_canonical h (fun t ht => ?_)
      split
      · exact State.fabAskAll_canonical ht ..
      · split
        · split
          · exact State.lateFaultAt_canonical (State.done_canonical (State.fabDrop_canonical (State.touch_canonical ht ..) ..)) ..
          · split
            · exact State.tableFault_canonical (State.fabDrop_canonical (State.touch_canonical ht ..) ..) ..
            · split
              · exact State.put_canonical (State.fabDrop_canonical (State.touch_canonical ht ..) ..) ..
              · exact State.put_canonical (State.newTask_canonical (State.fabDrop_canonical (State.touch_canonical ht ..) ..) ‹_›) ..
        · split
          · split
            · exact State.lateFaultAt_canonical (State.done_canonical (State.fabDrop_canonical (State.touch_canonical ht ..) ..)) ..
            · split
              · exact State.tableFault_canonical (State.fabDrop_canonical (State.touch_canonical ht ..) ..) ..
              · split
                · exact State.put_canonical (State.fabDrop_canonical (State.touch_canonical ht ..) ..) ..
                · exact State.put_canonical (State.newTask_canonical (State.fabDrop_canonical (State.touch_canonical ht ..) ..) ‹_›) ..
          · split
            · exact State.lateFaultAt_canonical (State.done_canonical (State.fabDrop_canonical (State.touch_canonical ht ..) ..)) ..
            · split
              · exact State.tableFault_canonical (State.fabDrop_canonical (State.touch_canonical ht ..) ..) ..
              · split
                · exact State.put_canonical (State.fabDrop_canonical (State.touch_canonical ht ..) ..) ..
                · exact State.put_canonical (State.newTask_canonical (State.fabDrop_canonical (State.touch_canonical ht ..) ..) ‹_›) ..

theorem execTaskdep_canonical (pred succ : Opnd) : NextCanonical (execTaskdep pred succ s) := by
  unfold execTaskdep
  dsimp only
  refine next_canonical ?_
  refine State.tableTx_canonical h (fun t ht => ?_)
  split
  · exact State.tableFault_canonical ht ..
  · split
    · exact State.done_canonical ht
    · exact ite_canonical (State.done_canonical ht) (ite_canonical (State.tableFault_canonical ht ..) (State.done_canonical
        (State.addEdge_canonical ht ..)))

theorem execTaskarm_canonical (tk n : Opnd) : NextCanonical (execTaskarm tk n s) := by
  unfold execTaskarm
  dsimp only
  refine next_canonical ?_
  refine State.tableTx_canonical h (fun t ht => ?_)
  split
  · exact State.tableFault_canonical ht ..
  · exact ite_canonical (State.tableFault_canonical ht ..) (ite_canonical (State.tableFault_canonical ht ..) (State.done_canonical
      (State.arm_canonical ht ..)))

theorem execPrio_canonical (set : Bool) (p : Opnd) : NextCanonical (execPrio set p s) := by
  unfold execPrio
  exact next_canonical (State.put_canonical (ite_canonical (State.updTask_canonical h ..) h) ..)

theorem execEstim_canonical (x : Opnd) : NextCanonical (execEstim x s) :=
  next_canonical (State.done_canonical (State.updTask_canonical h ..))

theorem execDmerge_canonical : NextCanonical (execDmerge s) := by
  unfold execDmerge
  exact next_canonical (ite_canonical (State.done_canonical h) (ite_canonical (State.stall_canonical h) (State.park_canonical
    (State.l1Acquire_canonical h ..) ..)))

theorem State.seqInit_canonical (d r : Nat) : State.canonical (s.seqInit d r) := by
  unfold State.seqInit
  dsimp only
  exact foldl_canonical (State.setSeq_canonical (foldl_canonical (canonical_with h)
    (fun _ _ ht => State.partFails_canonical ht ..)) ..) (fun _ _ ht => State.partsDone_canonical ht ..)

theorem execDseq_canonical (init : Bool) (die region n : Opnd) : NextCanonical (execDseq init die region n s) := by
  unfold execDseq
  exact next_canonical (ite_canonical (State.stall_canonical h) (ite_canonical (State.tableFault_canonical
    (State.l1Acquire_canonical h ..) ..) (State.put_canonical (State.setSeq_canonical (ite_canonical (State.seqInit_canonical
    (State.l1Acquire_canonical h ..) ..) (State.l1Acquire_canonical h ..)) ..) ..)))

end

/-! ## System registers, grants and windows -/

section
variable {s : State} (h : State.canonical s)
include h

theorem State.sysClear_canonical (d ctx c : Nat) : State.canonical (s.sysClear d ctx c) := by
  unfold State.sysClear
  exact ite_canonical (State.sysSet_canonical h ..) h

theorem execSysrd_canonical (code : BitVec 30) : NextCanonical (execSysrd code s) :=
  next_canonical (State.put_canonical (State.sysClear_canonical h ..) ..)

theorem execNrlostRead_canonical (ctx : Nat) : NextCanonical (execNrlostRead ctx s) :=
  next_canonical (State.sysClear_canonical h ..)

theorem execTflostRead_canonical (ctx : Nat) : NextCanonical (execTflostRead ctx s) :=
  next_canonical (State.sysClear_canonical h ..)

theorem execTmisscntRead_canonical (d : Nat) : NextCanonical (execTmisscntRead d s) :=
  next_canonical (State.sysClear_canonical h ..)

theorem execRetrcntRead_canonical (d : Nat) : NextCanonical (execRetrcntRead d s) :=
  next_canonical (State.sysClear_canonical h ..)

theorem State.fgcSet_canonical (d n : Nat) (v : Dword) : State.canonical (s.fgcSet d n v) := by
  unfold State.fgcSet
  dsimp only
  refine ite_canonical (ite_canonical h (State.dieSet_canonical ?_ ..)) (ite_canonical (State.dieSet_canonical ?_ ..)
    (State.dieSet_canonical h ..))
  · exact canonical_with h
  · exact canonical_with h

theorem execFgcWrite_canonical (d n : Nat) (v : Dword) : NextCanonical (execFgcWrite d n v s) := by
  unfold execFgcWrite
  exact next_canonical (ite_canonical (State.fgcSet_canonical h ..) h)

theorem State.rdwcSet_canonical (n : Nat) (v : Dword) : State.canonical (s.rdwcSet n v) := by
  unfold State.rdwcSet
  dsimp only
  refine ite_canonical (ite_canonical h (State.sysSet_canonical ?_ ..)) (ite_canonical (State.sysSet_canonical ?_ ..)
    (State.sysSet_canonical h ..))
  · exact canonical_with h
  · exact canonical_with h

theorem execRdwcWrite_canonical (n : Nat) (v : Dword) : NextCanonical (execRdwcWrite n v s) := by
  unfold execRdwcWrite
  exact next_canonical (ite_canonical (State.rdwcSet_canonical h ..) h)

theorem State.blockMap_canonical (i off n : Nat) (f : Nat → Nat) : State.canonical (s.blockMap i off n f) := by
  unfold State.blockMap
  dsimp only
  split
  · exact State.blockPut_canonical h ..
  · exact h

theorem State.signalWave_canonical (i : Nat) : State.canonical (s.signalWave i) := by
  unfold State.signalWave
  dsimp only
  exact ite_canonical h (ite_canonical (State.blockMap_canonical (State.updWave_canonical h ..) ..) (State.contTest_canonical
    (State.updWave_canonical h ..) ..))

theorem State.wctlResume_canonical (i : Nat) : State.canonical (s.wctlResume i) := by
  unfold State.wctlResume
  dsimp only
  exact ite_canonical h (ite_canonical (ite_canonical (State.blockMap_canonical (State.blockMap_canonical (State.resumeWave_canonical
    (ite_canonical (State.updWg_canonical h ..) h) ..) ..) ..) (State.l1Acquire_canonical (State.contTest_canonical
    (State.updWave_canonical (State.resumeWave_canonical (State.loadBlock_canonical (ite_canonical
    (State.updWg_canonical h ..) h) ..) ..) ..) ..) ..)) (State.signalWave_canonical h ..))

theorem State.endSaved_canonical (wi : Nat) : State.canonical (s.endSaved wi) := by
  unfold State.endSaved
  dsimp only
  exact State.updWg_canonical (State.freeWaves_canonical (State.dropCommands_canonical h ..) ..) ..

theorem State.abortTask_canonical (hd : Dword) (r : FaultRec) : State.canonical (s.abortTask hd r) := by
  unfold State.abortTask
  dsimp only
  exact State.finishKills_canonical (foldl_canonical (foldl_canonical (State.updTask_canonical h ..)
    (fun _ _ ht => State.stopGang_canonical ht ..)) (fun _ _ ht => ite_canonical (State.endSaved_canonical ht ..) ht))

theorem State.wctl_canonical (ctx act : Nat) : State.canonical (s.wctl ctx act) := by
  unfold State.wctl
  split
  · exact h
  · exact ite_canonical (State.wctlResume_canonical h ..) (ite_canonical (State.signalWave_canonical h ..) (ite_canonical
      (State.abortTask_canonical h ..) h))

theorem execWctlResume_canonical (ctx : Nat) : NextCanonical (execWctlResume ctx s) :=
  next_canonical (State.wctl_canonical h ..)

theorem execWctlSignal_canonical (ctx : Nat) : NextCanonical (execWctlSignal ctx s) :=
  next_canonical (State.wctl_canonical h ..)

theorem execWctlAbort_canonical (ctx : Nat) : NextCanonical (execWctlAbort ctx s) :=
  next_canonical (State.wctl_canonical h ..)

end

/-! ## Cuts and writes of system registers -/

section
variable {s : State} (h : State.canonical s)
include h

theorem State.cutFree_canonical : State.canonical s.cutFree := by
  unfold State.cutFree
  exact canonical_with h

theorem State.cutAsk_canonical (task : Dword) (ctx : Nat) : State.canonical (s.cutAsk task ctx) := by
  unfold State.cutAsk
  exact ite_canonical h (canonical_with h)

theorem State.ckptEnd_canonical (status : Nat) : State.canonical (s.ckptEnd status) := by
  unfold State.ckptEnd
  dsimp only
  exact State.notice_canonical (canonical_with h) ..

theorem State.cutNotice_canonical (failed : Bool) : State.canonical (s.cutNotice failed) := by
  unfold State.cutNotice
  exact State.notice_canonical h ..

theorem State.cutLetGo_canonical : State.canonical s.cutLetGo := by
  unfold State.cutLetGo
  dsimp only
  refine ite_canonical h (ite_canonical (State.ckptEnd_canonical (State.cutFree_canonical ?_) ..) (State.cutFree_canonical ?_))
  · exact canonical_with h
  · exact canonical_with h

theorem execCutRequest_canonical : NextCanonical (execCutRequest s) :=
  next_canonical (State.cutAsk_canonical h ..)

theorem execCutRelease_canonical : NextCanonical (execCutRelease s) :=
  next_canonical (State.cutLetGo_canonical h)

theorem State.cutReduce_canonical : State.canonical s.cutReduce := by
  unfold State.cutReduce
  dsimp only
  exact ite_canonical (canonical_with h) h

theorem execCutReport_canonical (w : Nat) : NextCanonical (execCutReport w s) := by
  unfold execCutReport
  exact next_canonical (ite_canonical h (State.cutReduce_canonical (ite_canonical (State.updWave_canonical h ..) h)))

theorem State.cutHold_canonical : State.canonical s.cutHold := by
  unfold State.cutHold
  dsimp only
  exact ite_canonical (State.cutNotice_canonical (canonical_with (foldl_canonical (foldl_canonical h
    (fun _ _ ht => State.deliverDue_canonical ht ..)) (fun _ _ ht => State.saveInPlace_canonical ht ..))) ..) h

theorem execCutStop_canonical (w : Nat) : NextCanonical (execCutStop w s) := by
  unfold execCutStop
  exact next_canonical (ite_canonical h (ite_canonical (ite_canonical h (State.cutHold_canonical (ite_canonical
    (State.deliverDue_canonical h ..) (State.updWave_canonical (State.deliverDue_canonical h ..) ..)))) (State.cutHold_canonical h)))

theorem execCutTimeout_canonical : NextCanonical (execCutTimeout s) := by
  refine next_canonical (ite_canonical ?_ (ite_canonical (ite_canonical (State.ckptEnd_canonical (State.cutNotice_canonical
    (State.cutFree_canonical ?_) ..) ..) (State.cutNotice_canonical (State.cutFree_canonical ?_) ..)) h))
  all_goals exact canonical_with h

theorem State.queueLoad_canonical (v : Dword) (ctx : Nat) : State.canonical (s.queueLoad v ctx) := by
  unfold State.queueLoad
  dsimp only
  exact canonical_with h

theorem State.sysWrite_canonical (d ctx actx c : Nat) (v : Dword) :
    State.canonical (s.sysWrite d ctx actx c v) := by
  unfold State.sysWrite
  refine ite_canonical (State.queueLoad_canonical h ..) (ite_canonical (State.wctl_canonical h ..)
    (ite_canonical ?cut (ite_canonical (State.rdwcSet_canonical h ..) (ite_canonical ?region
      (ite_canonical (State.fgcSet_canonical h ..) (ite_canonical h (State.sysSet_canonical h ..)))))))
  case cut => exact ite_canonical (State.cutLetGo_canonical h) (ite_canonical (State.cutAsk_canonical h ..) h)
  case region => exact ite_canonical (State.caEnable_canonical h ..) (State.caDisable_canonical h ..)

theorem execSyswr_canonical (code : BitVec 30) (v : Opnd) : NextCanonical (execSyswr code v s) := by
  unfold execSyswr
  exact next_canonical (ite_canonical (State.stall_canonical h) (State.done_canonical (State.l1Acquire_canonical
    (State.sysWrite_canonical h ..) ..)))

theorem execSysregWrite_canonical (copy code : Nat) (v : Dword) : NextCanonical (execSysregWrite copy code v s) := by
  unfold execSysregWrite
  exact next_canonical (ite_canonical (State.sysWrite_canonical h ..) h)

end

/-! ## Traps, continuations and the rest of the system instructions -/

section
variable {s : State} (h : State.canonical s)
include h

theorem execBrk_canonical (id : BitVec 30) : NextCanonical (execBrk id s) := by
  unfold execBrk
  exact next_canonical (ite_canonical (State.faultAll_canonical h ..) (State.done_canonical h))

theorem execAssert_canonical (c code : Opnd) : NextCanonical (execAssert c code s) := by
  unfold execAssert
  exact next_canonical (ite_canonical (State.fault_canonical h ..) (State.done_canonical h))

theorem execContset_canonical (fn arg : Opnd) : NextCanonical (execContset fn arg s) :=
  next_canonical (State.updWv_canonical (State.done_canonical h) ..)

theorem execContsig_canonical (tok : Opnd) : NextCanonical (execContsig tok s) := by
  unfold execContsig
  dsimp only
  refine next_canonical ?_
  split
  · exact State.stall_canonical h
  · split
    · exact ite_canonical (State.signalWave_canonical (State.done_canonical h) ..) (State.done_canonical h)
    · exact State.done_canonical h

theorem State.ckptBegin_canonical (hd : Dword) : State.canonical (s.ckptBegin hd) := by
  unfold State.ckptBegin
  dsimp only
  split
  · split
    · exact State.ckptEnd_canonical h ..
    · exact State.cutAsk_canonical (canonical_with h) ..
  · exact ite_canonical (State.cutAsk_canonical h ..) h

theorem execCkpt_canonical (mode : BitVec 30) (desc : Opnd) : NextCanonical (execCkpt mode desc s) := by
  unfold execCkpt
  dsimp only
  refine next_canonical ?_
  split
  · exact State.stall_canonical h
  · split
    · exact State.deliverPend_canonical h ‹_›
    · exact ite_canonical (State.fault_canonical h ..) (ite_canonical (State.put_canonical (State.l1Acquire_canonical h ..) ..)
        (State.put_canonical (State.ckptBegin_canonical (canonical_with (State.l1Acquire_canonical h ..)) ..) ..))

theorem execTlbinv_canonical (kind : BitVec 30) (va : Opnd) : NextCanonical (execTlbinv kind va s) := by
  unfold execTlbinv
  dsimp only
  refine next_canonical ?_
  split
  · exact ite_canonical (State.done_canonical (State.updWv_canonical h ..)) (State.stall_canonical h)
  · refine ite_canonical (State.stall_canonical h) (ite_canonical ?_ (State.done_canonical (State.updWv_canonical ?_ ..)))
    · exact canonical_with (State.updWv_canonical h ..)
    · exact canonical_with (State.updWv_canonical h ..)

theorem execTcinv_canonical (hd f : Opnd) : NextCanonical (execTcinv hd f s) := by
  unfold execTcinv
  dsimp only
  refine next_canonical ?_
  split
  · exact State.done_canonical h
  · exact State.done_canonical (canonical_with h)

theorem execEvtsig_canonical (code : Opnd) : NextCanonical (execEvtsig code s) := by
  unfold execEvtsig
  exact next_canonical (ite_canonical (State.stall_canonical h) (State.done_canonical (State.notice_canonical h ..)))

theorem execHalt_canonical : NextCanonical (execHalt s) := by
  unfold execHalt
  exact next_canonical (canonical_with (State.done_canonical h))

theorem execHaltResume_canonical : NextCanonical (execHaltResume s) := by
  unfold execHaltResume
  exact next_canonical (ite_canonical (canonical_with h) h)

theorem execNoticeRingDrain_canonical (ctx : Nat) : NextCanonical (execNoticeRingDrain ctx s) := by
  unfold execNoticeRingDrain
  refine next_canonical ?_
  split
  · exact h
  · exact ite_canonical h (State.ringPush_canonical (canonical_with h) ..)

end

/-! ## Capture of a checkpoint -/

section
variable {s : State} (h : State.canonical s)
include h

theorem State.homeRun_canonical (k : Nat) (bs : List Byte) : State.canonical (s.homeRun k bs) := by
  unfold State.homeRun
  exact State.homeWrite_canonical (foldl_canonical h (fun _ _ ht => State.invalidateSharers_canonical ht ..)) ..

theorem State.devWrite_canonical {t : State} {ctx va : Nat} {bs : List Byte}
    (e : s.devWrite ctx va bs = some t) : State.canonical t := by
  refine List.foldlRecOn (motive := fun o : Option State => ∀ t, o = some t → State.canonical t) _ _
    (fun t e => Option.some.inj e ▸ h) (fun o ho part _ t e => ?_) t e
  obtain ⟨u, rfl, hu⟩ := Option.bind_eq_some_iff.mp e
  split at hu
  · cases hu
  · cases hu
    exact State.homeRun_canonical (State.meet_canonical (State.markLeaf_canonical (ho u rfl) ..) ..) ..

theorem State.clearLeaves_canonical (ls : List Nat) : State.canonical (s.clearLeaves ls) := by
  unfold State.clearLeaves
  exact foldl_canonical h (fun _ _ ht => State.homeWrite_canonical (State.viewAs_canonical ht ..) ..)

theorem State.ckptFail_canonical (st : Nat) : State.canonical (s.ckptFail st) := by
  unfold State.ckptFail
  dsimp only
  exact State.cutLetGo_canonical (State.clearLeaves_canonical (State.ckptEnd_canonical h ..) ..)

theorem State.ckptInstant_canonical : State.canonical s.ckptInstant := by
  unfold State.ckptInstant
  dsimp only
  exact canonical_with h

theorem State.ckptMark_canonical : State.canonical s.ckptMark := by
  unfold State.ckptMark
  dsimp only
  exact State.cutLetGo_canonical (canonical_with (foldl_canonical h (fun _ _ ht => State.homeWrite_canonical
    (State.viewAs_canonical ht ..) ..)))

theorem State.ckptStore_canonical {bs : List Byte} {r : Nat × State}
    (e : s.ckptStore bs = .ok r) : State.canonical r.2 := by
  unfold State.ckptStore at e
  extract_lets at_ loc at e
  split at e
  · cases e
  · split at e
    · cases e
    · next hw =>
      cases e
      exact canonical_with (State.devWrite_canonical h hw)

theorem State.ckptShard_canonical {t : State} {i : Nat} (e : s.ckptShard i = .ok t) :
    State.canonical t := by
  unfold State.ckptShard at e
  split at e
  · cases e
  · cases e
  · dsimp only at e
    split at e
    · cases e
      exact canonical_with h
    · split at e
      · cases e
        exact canonical_with h
      · split at e
        · cases e
        · next hs =>
          cases e
          exact canonical_with (State.ckptStore_canonical h hs)

theorem State.ckptLines_canonical {old : Option RegionRec}
    {es : List (Nat × Nat × Nat × Nat × List Byte)} {acc : List CaRec} {r : List CaRec × State} (e : s.ckptLines old es acc = .ok r) :
    State.canonical r.2 := by
  induction es generalizing s acc with
  | nil =>
    cases e
    exact h
  | cons x es ih =>
    unfold State.ckptLines at e
    dsimp only at e
    split at e
    · exact ih h e
    · split at e
      · cases e
      · next hs => exact ih (State.ckptStore_canonical h hs) e

theorem State.ckptRegionsGo_canonical {t : State} {base : List RegionRec} {rs : List RegionSnap}
    {acc : List Byte} (e : s.ckptRegionsGo base rs acc = .ok t) : State.canonical t := by
  induction rs generalizing s acc with
  | nil =>
    cases e
    exact canonical_with h
  | cons r rs ih =>
    unfold State.ckptRegionsGo at e
    dsimp only at e
    split at e
    · cases e
    · next hl => exact ih (State.ckptLines_canonical h hl) e

theorem foldl_devWrite_canonical (ctx area : Nat) (out : List (Nat × List Byte)) {t : State}
    (e : out.foldl (fun o w => o.bind fun s => s.devWrite ctx (area + w.1) w.2) (some s) = some t) : State.canonical t :=
  List.foldlRecOn (motive := fun o : Option State => ∀ u, o = some u → State.canonical u) out _ (fun u e => Option.some.inj e ▸ h)
    (fun o ho w _ u e => by
      obtain ⟨v, rfl, hv⟩ := Option.bind_eq_some_iff.mp e
      exact State.devWrite_canonical (ho v rfl) hv) t e

theorem State.ckptFinish_canonical : State.canonical s.ckptFinish := by
  rw [State.ckptFinish]
  generalize e : List.foldl _ _ _ = o
  cases o with
  | none => exact State.ckptFail_canonical h _
  | some t =>
    refine State.clearLeaves_canonical (State.ckptEnd_canonical ?_ _) _
    have ht := foldl_devWrite_canonical h _ _ _ e
    exact canonical_with ht

theorem execCkptCapture_canonical : NextCanonical (execCkptCapture s) := by
  unfold execCkptCapture
  dsimp only
  refine next_canonical ?_
  split
  · exact h
  · split
    · exact ite_canonical h (ite_canonical (State.ckptFail_canonical h ..) (State.ckptInstant_canonical h))
    · split
      · exact State.ckptMark_canonical h
      · split
        · split
          · exact State.ckptRegionsGo_canonical h ‹_›
          · exact State.ckptFail_canonical h ..
        · split
          · split
            · exact State.ckptShard_canonical h ‹_›
            · exact State.ckptFail_canonical h ..
          · exact State.ckptFinish_canonical h

theorem State.heldPerform_canonical (id : Nat) : State.canonical (s.heldPerform id) := by
  unfold State.heldPerform
  split
  · exact h
  · exact ite_canonical h (ite_canonical h (State.homeRun_canonical (State.meetKey_canonical (canonical_with h) ..) ..))

end

/-! ## Restore of a checkpoint and loss of power -/

section
variable {s : State} (h : State.canonical s)
include h

theorem State.restoreSys_canonical (img : Nat → Nat) : State.canonical (s.restoreSys img) := by
  unfold State.restoreSys
  exact foldl_canonical h (fun _ _ ht => foldl_canonical ht (fun _ _ hu => ite_canonical (State.sysSet_canonical hu ..) hu))

theorem State.rebuildRegion_canonical (ctx : Nat) (r : RegionRec) (line : Nat → List Byte) :
    State.canonical (s.rebuildRegion ctx r line) := by
  unfold State.rebuildRegion
  extract_lets cr put t u
  have hput : ∀ v, State.canonical v → ∀ va bs, State.canonical (put v va bs) := fun v hv va bs => by
    simp only [put]
    split
    · exact State.homeRun_canonical (State.meet_canonical hv ..) ..
    · exact hv
  have ht : State.canonical t := foldl_canonical h fun _ _ hv => hput _ hv ..
  have hu : State.canonical u := foldl_canonical ht fun _ _ hv => hput _ (hput _ (hput _ hv ..) ..) ..
  refine State.setLines_canonical ?_ ..
  exact canonical_with hu

theorem restoreMem_wf (ctx : Nat) (m : List Byte) : Memory.wf (s.restoreMem ctx m).1 := by
  refine List.foldlRecOn (motive := fun x : Cells 8 × Cells 6 => Memory.wf x.1) _ _ h fun x hx j _ => ?_
  split
  · exact hx
  · refine List.foldlRecOn (motive := fun x : Cells 8 × Cells 6 => Memory.wf x.1) _ _ hx fun y hy f _ => ?_
    dsimp only
    split
    · exact hy
    · have hlines : ∀ (is : List Nat) (k : Nat) (f : Nat → List Byte),
          Memory.wf (is.foldl (fun mem i => writeBytes mem (k + 128 * i) (f i)) y.1) := fun is k f =>
        List.foldlRecOn (motive := Memory.wf) is _ hy fun z hz i _ => writeBytes_cwf hz
      generalize List.range 512 = is
      exact hlines is _ fun i => xtsDec _ _ _

theorem State.ckptApply_canonical (ctx opnum : Nat) (m : List Byte) (regions : List RegionRec) :
    State.canonical (s.ckptApply ctx opnum m regions) := by
  have hwf := restoreMem_wf h ctx m
  unfold State.ckptApply
  generalize s.restoreMem ctx m = mem at hwf ⊢
  have hlisted : ∀ u : State, u.mem = mem.1 → State.canonical u := fun u hu => (congrArg Memory.wf hu).mpr hwf
  extract_lets shards img lines mem' bare t
  have ht : State.canonical t := State.restoreSys_canonical (hlisted _ rfl) img
  refine State.notice_canonical (foldl_canonical ?_ fun _ _ hu => State.rebuildRegion_canonical hu ..) ..
  exact canonical_with ht

theorem execCkptRestore_canonical : NextCanonical (execCkptRestore s) := by
  refine next_canonical ?_
  refine ite_canonical h ?_
  extract_lets o
  generalize s.manifestStatus o = st
  clear_value o
  cases st with
  | some st => exact State.ckptEnd_canonical h ..
  | none =>
    cases o with
    | none => exact State.ckptEnd_canonical h ..
    | some m =>
      exact ite_canonical (State.ckptEnd_canonical h ..)
        (ite_canonical (State.ckptEnd_canonical h ..) (State.ckptApply_canonical h ..))

theorem execPowerLoss_canonical : NextCanonical (execPowerLoss s) := by
  unfold execPowerLoss
  exact next_canonical (canonical_with h)

end

/-! ## The quern -/

theorem State.evictTile_canonical {s : State} (h : State.canonical s) (tok : Dword) (tk : Nat) :
    State.canonical (s.evictTile tok tk) := by
  unfold State.evictTile
  split
  · exact ite_canonical (State.updWave_canonical (State.saveLine_canonical h ..) ..) h
  · exact h

theorem State.takeSlotsOf_canonical {s t : State} {core : Nat} {tok : Dword} {all ts : List Nat} (h : State.canonical s)
    (e : s.takeSlotsOf core tok all ts = some t) : State.canonical t := by
  induction ts generalizing s with
  | nil =>
    cases e
    exact h
  | cons x xs ih =>
    unfold State.takeSlotsOf at e
    dsimp only at e
    split at e
    · exact ih (canonical_with h) e
    · split at e
      · exact ih (State.evictTile_canonical (canonical_with h) ..) e
      · cases e

section
variable {s : State} (h : State.canonical s)
include h

theorem State.takeSlots_canonical {t : State} {core : Nat} {tok : Dword} {ts : List Nat} (e : s.takeSlots core tok ts = some t) :
    State.canonical t := by
  unfold State.takeSlots at e
  exact State.takeSlotsOf_canonical h ‹_›

theorem State.toQuern_canonical (i : Instr) (dst : Nat) (srcs : List Nat) (vals : List Val) (nres : Nat) :
    State.canonical (s.toQuern i dst srcs vals nres) := by
  unfold State.toQuern
  dsimp only
  split
  · exact State.stall_canonical h
  · split
    · exact ite_canonical (State.faultAll_canonical h ..) (State.updWv_canonical h ..)
    · split
      · exact State.stall_canonical h
      · exact State.finish_canonical (State.updWv_canonical (canonical_with (State.takeSlots_canonical h ‹_›)) ..) ..

theorem execQuernAccept_canonical (d c q w : Nat) : NextCanonical (execQuernAccept d c q w s) := by
  unfold execQuernAccept
  exact next_canonical (ite_canonical (State.updWave_canonical h ..) h)

theorem State.mmaIssue_canonical (i : Instr) (fa fb : Ty) (afrag mx : Bool) (c a b k : Opnd) :
    State.canonical (s.mmaIssue i fa fb afrag mx c a b k) := by
  unfold State.mmaIssue
  dsimp only
  split
  · split
    · split
      · exact State.parkPresence_canonical h ..
      · split
        · exact State.faultAll_canonical h ..
        · exact State.toQuern_canonical h ..
    · split
      · exact State.parkPresence_canonical h ..
      · split
        · exact State.faultAll_canonical h ..
        · exact State.toQuern_canonical h ..
  · split
    · split
      · split
        · exact State.parkPresence_canonical h ..
        · split
          · exact State.faultAll_canonical h ..
          · exact State.toQuern_canonical h ..
      · split
        · exact State.parkPresence_canonical h ..
        · split
          · exact State.faultAll_canonical h ..
          · exact State.toQuern_canonical h ..
    · split
      · split
        · exact State.parkPresence_canonical h ..
        · split
          · exact State.faultAll_canonical h ..
          · exact State.toQuern_canonical h ..
      · split
        · exact State.parkPresence_canonical h ..
        · split
          · exact State.faultAll_canonical h ..
          · exact State.toQuern_canonical h ..

theorem execMld_canonical (m : MMod) (addr pitch : Opnd) (fmt : BitVec 30) : NextCanonical (execMld m addr pitch fmt s) := by
  unfold execMld
  dsimp only
  refine next_canonical ?_
  split
  · exact State.parkPresence_canonical h ..
  · split
    · exact State.fault_canonical h ..
    · exact State.toQuern_canonical h ..

theorem execMst_canonical (m : MMod) (addr pitch tk : Opnd) (fmt : BitVec 30) (amax : Opnd) :
    NextCanonical (execMst m addr pitch tk fmt amax s) := by
  unfold execMst
  dsimp only
  refine next_canonical ?_
  split
  · exact State.parkPresence_canonical h ..
  · split
    · exact State.fault_canonical h ..
    · exact ite_canonical (State.stall_canonical h) (State.toQuern_canonical h ..)

theorem State.mldDone_canonical (q : QuernOp) (m : MMod) (fmt a p : Nat) : State.canonical (s.mldDone q m fmt a p) := by
  unfold State.mldDone
  dsimp only
  split
  · exact State.fabAskAll_canonical h ..
  · split
    · exact State.asyncFaultAt_canonical (State.freeTile_canonical (State.fabDrop_canonical h ..) ..) ..
    · refine State.updWv_canonical ?_ ..
      refine foldl_canonical (State.fabDrop_canonical h ..) (fun t x ht => ?_)
      split
      · exact State.afterRead_canonical (State.touch_canonical ht ..) ..
      · exact ht

theorem State.mstWrites_canonical (q : QuernOp) (m : MMod) (fmt a p : Nat) :
    State.canonical (s.mstWrites q m fmt a p) := by
  unfold State.mstWrites
  dsimp only
  refine canonical_with (foldl_canonical h fun t u ht => ?_)
  split
  · exact State.asyncFault_canonical ht ..
  · exact State.placeWrite_canonical (State.touchPlace_canonical ht ..) ..

theorem State.amaxUpdate_canonical (m : MMod) (x v tile : Nat) :
    State.canonical (s.amaxUpdate m x v tile) := by
  unfold State.amaxUpdate
  split
  · next va p _ =>
    extract_lets t
    have ht : State.canonical t := State.touch_canonical h ..
    exact ite_canonical (ite_canonical (State.turnAway_canonical ht ..) (State.holdReds_canonical ht ..))
      (ite_canonical (State.sendWrite_canonical ht ..) (ite_canonical (State.asyncFault_canonical ht ..)
        (State.homeRmw_canonical (State.meet_canonical (State.l1Drop_canonical ht ..) ..) ..)))
  · exact h
  · exact State.asyncFault_canonical h ..

theorem State.setStage_canonical (q : QuernOp) (n : Nat) : State.canonical (s.setStage q n) := by
  unfold State.setStage
  exact canonical_with h

theorem State.quernRun_canonical (q : QuernOp) : State.canonical (s.quernRun q) := by
  unfold State.quernRun
  dsimp only
  split
  · exact State.setStage_canonical (ite_canonical (State.saveLine_canonical (ite_canonical (State.freeTile_canonical
      (State.updWv_canonical h ..) ..) (State.updWv_canonical h ..)) ..) (ite_canonical (State.freeTile_canonical
      (State.updWv_canonical h ..) ..) (State.updWv_canonical h ..))) ..
  · exact State.setStage_canonical (ite_canonical (State.saveLine_canonical (ite_canonical (State.freeTile_canonical
      (State.updWv_canonical h ..) ..) (State.updWv_canonical h ..)) ..) (ite_canonical (State.freeTile_canonical
      (State.updWv_canonical h ..) ..) (State.updWv_canonical h ..))) ..
  · exact State.setStage_canonical (ite_canonical (State.saveLine_canonical (ite_canonical (State.freeTile_canonical
      (State.updWv_canonical h ..) ..) (State.updWv_canonical h ..)) ..) (ite_canonical (State.freeTile_canonical
      (State.updWv_canonical h ..) ..) (State.updWv_canonical h ..))) ..
  · exact State.setStage_canonical (ite_canonical (State.saveLine_canonical (ite_canonical (State.freeTile_canonical
      (State.updWv_canonical h ..) ..) (State.updWv_canonical h ..)) ..) (ite_canonical (State.freeTile_canonical
      (State.updWv_canonical h ..) ..) (State.updWv_canonical h ..))) ..
  · exact ite_canonical (State.mldDone_canonical h ..) (State.setStage_canonical (ite_canonical (State.saveLine_canonical
      (ite_canonical (State.freeTile_canonical (State.mldDone_canonical h ..) ..) (State.mldDone_canonical h ..)) ..) (ite_canonical
      (State.freeTile_canonical (State.mldDone_canonical h ..) ..) (State.mldDone_canonical h ..))) ..)
  · split
    · exact ite_canonical h (State.setStage_canonical (State.mstWrites_canonical h ..) ..)
    · split
      · exact h
      · refine State.setStage_canonical ?_ ..
        split
        · refine ite_canonical (State.placeWrite_canonical (State.takeFreeBytes_canonical (State.amaxUpdate_canonical ?_ ..) ..) ..)
            (State.amaxUpdate_canonical ?_ ..)
          · exact canonical_with h
          · exact canonical_with h
        · exact State.amaxUpdate_canonical (canonical_with h) ..
  · exact State.setStage_canonical h ..

theorem execQuernOpComplete_canonical (d c q : Nat) : NextCanonical (execQuernOpComplete d c q s) := by
  unfold execQuernOpComplete
  dsimp only
  split
  · exact next_canonical h
  · split
    · exact next_canonical (canonical_with h)
    · exact next_canonical (canonical_with (State.quernRun_canonical (State.asWave_canonical h ..) ..))

theorem execMwait_canonical (tk : Opnd) : NextCanonical (execMwait tk s) := by
  refine next_canonical (ite_canonical (State.stall_canonical h) (ite_canonical (State.deliverOr_canonical h (State.done_canonical h))
    (State.done_canonical (ite_canonical (State.l1Acquire_canonical ?_ ..) ?_))))
  · exact canonical_with h
  · exact canonical_with h

theorem execMdesc_canonical (base rpitch tpitch rot sbase srpitch : Opnd) :
    NextCanonical (execMdesc base rpitch tpitch rot sbase srpitch s) := by
  unfold execMdesc
  dsimp only
  refine next_canonical ?_
  split
  · exact State.laneFault_canonical h ‹_›
  · exact State.put_canonical h ..

end

/-! ## Native-only operations, frame words and landings -/

section
variable {s : State} (h : State.canonical s)
include h

theorem State.nativeDone_canonical : State.canonical s.nativeDone := by
  unfold State.nativeDone
  exact State.updWv_canonical h ..

theorem execNop_canonical : NextCanonical (execNop s) :=
  next_canonical (State.nativeDone_canonical h)

theorem execMov_canonical (dst sa : BitVec 10) (hi : Bool) (lit : Option Word) : NextCanonical (execMov dst sa hi lit s) :=
  next_canonical (State.updWv_canonical (State.nativeDone_canonical h) ..)

theorem execQmov_canonical (dst sa : BitVec 10) : NextCanonical (execQmov dst sa s) :=
  next_canonical (State.updWv_canonical (State.nativeDone_canonical h) ..)

theorem execKmov_canonical (dst sa : BitVec 10) : NextCanonical (execKmov dst sa s) := by
  unfold execKmov
  exact next_canonical (ite_canonical (State.stall_canonical h) (ite_canonical (State.freeTile_canonical (State.updWv_canonical
    (State.nativeDone_canonical h) ..) ..) (State.updWv_canonical (State.nativeDone_canonical h) ..)))

theorem State.frameFault_canonical {t : State} {r imm : Nat} {callee wr : Bool} (e : s.frameFault r imm callee wr = some t) :
    State.canonical t := by
  unfold State.frameFault at e
  dsimp only at e
  exact State.walkedFault_canonical h ‹_›

theorem execSpill_canonical (sa imm : BitVec 10) (callee : Bool) : NextCanonical (execSpill sa imm callee s) := by
  unfold execSpill
  dsimp only
  refine next_canonical ?_
  split
  · exact State.frameFault_canonical h ‹_›
  · exact State.nativeDone_canonical (foldl_canonical h (fun _ _ ht => State.placeWrite_canonical (State.touchPlace_canonical ht ..) ..))

theorem execFill_canonical (dst imm : BitVec 10) (callee : Bool) (land : BitVec 10) : NextCanonical (execFill dst imm callee land s) := by
  unfold execFill
  dsimp only
  refine next_canonical ?_
  split
  · exact State.frameFault_canonical h ‹_›
  · refine ite_canonical ?_ (State.updWv_canonical (State.nativeDone_canonical (foldl_canonical (foldl_canonical h
      (fun _ _ ht => State.touchPlace_canonical ht ..)) (fun _ _ ht => State.afterRead_canonical ht ..))) ..)
    refine canonical_with (State.lateFault_canonical ?_ ..)
    exact canonical_with (State.nativeDone_canonical (foldl_canonical (foldl_canonical h
      (fun _ _ ht => State.touchPlace_canonical ht ..)) (fun _ _ ht => State.afterRead_canonical ht ..)))

theorem execLanding_canonical (w : Nat) : NextCanonical (execLanding w s) :=
  next_canonical (State.updWave_canonical h ..)

theorem execLand_canonical : NextCanonical (execLand s) := by
  unfold execLand
  exact next_canonical (ite_canonical (State.nativeDone_canonical h) (State.stall_canonical h))

theorem execFmtset_canonical (dst : BitVec 10) (lit : Word) : NextCanonical (execFmtset dst lit s) :=
  next_canonical (State.updWv_canonical (State.nativeDone_canonical h) ..)

theorem execEmptyBundle_canonical : NextCanonical (execEmptyBundle s) :=
  next_canonical (State.nativeDone_canonical h)

theorem NatOp.run_canonical (a : NatOp) : NextCanonical (NatOp.run a s) := by
  unfold NatOp.run
  split
  · exact execMov_canonical h ..
  · exact execSpill_canonical h ..
  · exact execFill_canonical h ..
  · exact execLand_canonical h
  · exact execFmtset_canonical h ..
  · exact execKmov_canonical h ..
  · exact execQmov_canonical h ..

end

/-! ## Translations, migration and turns -/

section
variable {s : State} (h : State.canonical s)
include h

theorem execTranslationMiss_canonical (w : Nat) : NextCanonical (execTranslationMiss w s) := by
  unfold execTranslationMiss
  dsimp only
  refine next_canonical ?_
  split
  · exact h
  · split
    · split
      · exact State.retranslate_canonical (State.updWave_canonical h ..) ..
      · exact h
    · split
      · exact State.requestTrans_canonical h ..
      · exact h

theorem State.makeRoom_canonical {d n k : Nat} {r : Nat × State} (e : s.makeRoom d n k = some r) :
    State.canonical r.2 := by
  induction k generalizing s with
  | zero => cases e
  | succ k ih =>
    unfold State.makeRoom at e
    split at e
    · cases e
      exact h
    · split at e
      · exact ih (canonical_with h) e
      · cases e

theorem execTranslationComplete_canonical (d n : Nat) :
    NextCanonical (execTranslationComplete d n s) := by
  refine next_canonical ?_
  split
  · exact h
  · split
    · extract_lets x out waiters
      have hout : State.canonical out := canonical_with h
      cases x.fail with
      | some why =>
        refine foldl_canonical hout fun t i ht => State.updWave_canonical ?_ ..
        exact ite_canonical (State.notice_canonical ht ..) ht
      | none =>
        generalize hr : out.makeRoom d _ 4096 = room
        cases room with
        | none => exact h
        | some r => exact putBytes_cwf (State.meetKey_canonical (State.makeRoom_canonical hout hr) ..) ..
    · exact canonical_with h

theorem State.dropStale_canonical : State.canonical s.dropStale := by
  unfold State.dropStale
  exact ite_canonical (canonical_with h) h

theorem State.placeLive_canonical (new : TransImage) (m : Mask) (tys : List Ty) (x : Word) (bits : Nat → Val) :
    State.canonical (s.placeLive new m tys x bits) := by
  unfold State.placeLive
  dsimp only
  split
  · exact State.updWv_canonical h ..
  · split
    · refine foldl_canonical h (fun t x ht => ?_)
      split
      · exact State.wordsPut_canonical ht ..
      · exact ht
    · exact h

end

theorem State.moveResults_canonical {t s : State} (h : State.canonical t) (m : Mask) (old new : TransImage) (n : Nat) :
    State.canonical (t.moveResults s m old new n) :=
  foldl_canonical h fun u L hu => by
    dsimp only
    split
    · exact State.wordsPut_canonical hu ..
    · exact hu

section
variable {s : State} (h : State.canonical s)
include h

theorem State.moveGroup_canonical (i : Nat) (l : Loc) (new : TransImage) :
    State.canonical (s.moveGroup i l new) := by
  unfold State.moveGroup
  split
  · exact h
  · extract_lets s₀ u w n l' m tys moves tiles t t₁ t₂ pos
    have hu : State.canonical u := canonical_with h
    have ht : State.canonical t := foldl_canonical hu fun _ _ hv => State.placeLive_canonical hv ..
    have ht₁ : State.canonical t₁ := State.updWv_canonical ht _
    have ht₂ : State.canonical t₂ := State.moveResults_canonical ht₁ ..
    exact canonical_with (State.updWv_canonical ht₂ _)

theorem State.migrateGroup_canonical (i : Nat) (l : Loc) (new : TransImage) : State.canonical (s.migrateGroup i l new) := by
  unfold State.migrateGroup
  dsimp only
  split
  · exact State.faultAt_canonical h ..
  · exact State.moveGroup_canonical (foldl_canonical h (fun _ _ ht => State.fillLine_canonical ht ..)) ..

theorem execWaveMigrate_canonical (w : Nat) : NextCanonical (execWaveMigrate w s) := by
  refine next_canonical (ite_canonical h ?_)
  split
  · exact h
  · next l _ =>
    extract_lets b k₀ k s' v asked due t
    have hs : State.canonical s' := State.updWave_canonical h ..
    have ht : State.canonical t :=
      ite_canonical (State.retranslate_canonical hs ..) (ite_canonical hs (State.joinTrans_canonical hs ..))
    split
    · exact ite_canonical ht (State.migrateGroup_canonical (State.updWave_canonical ht ..) ..)
    · exact ht

theorem State.deliverLate_canonical {t : State} {i : Nat} {g : Loc × Mask} (e : s.deliverLate i g = some t) : State.canonical t := by
  unfold State.deliverLate at e
  dsimp only at e
  split at e
  · cases e
  · cases e
    exact State.takeFault_canonical (State.updWave_canonical h ..) ..

theorem State.firstBundle_canonical (i : Nat) (g : Loc × Mask) : State.canonical (s.firstBundle i g).1 := by
  unfold State.firstBundle
  dsimp only
  split
  · exact h
  · split
    · split
      · exact ite_canonical (State.takeArgs_canonical (ite_canonical (State.l1Acquire_canonical h ..) h) ..) (ite_canonical
          (State.l1Acquire_canonical h ..) h)
      · exact State.faultAt_canonical (ite_canonical (State.takeArgs_canonical (ite_canonical (State.l1Acquire_canonical h ..) h) ..)
          (ite_canonical (State.l1Acquire_canonical h ..) h)) ..
    · split
      · split
        · split
          · exact State.faultAt_canonical (State.takeArgs_canonical (State.l1Acquire_canonical h ..) ..) ..
          · exact State.takeArgs_canonical (State.l1Acquire_canonical h ..) ..
        · split
          · exact State.faultAt_canonical (State.l1Acquire_canonical h ..) ..
          · exact State.l1Acquire_canonical h ..
      · split
        · split
          · exact State.faultAt_canonical (State.takeArgs_canonical h ..) ..
          · exact State.takeArgs_canonical h ..
        · split
          · exact State.faultAt_canonical h ..
          · exact h

theorem State.fillFor_canonical {t : State} {i : Nat} {b : Bundle} (e : s.fillFor i b = .ok t) : State.canonical t := by
  unfold State.fillFor at e
  dsimp only at e
  split at e
  · cases e
  · cases e
    exact foldl_canonical h (fun _ _ ht => State.fillLine_canonical ht ..)

theorem State.beforeBundle_canonical (i : Nat) (g : Loc × Mask) : State.canonical (s.beforeBundle i g).1 := by
  unfold State.beforeBundle
  dsimp only
  split
  · exact State.deliverLate_canonical h ‹_›
  · split
    · exact State.faultAt_canonical (State.updWave_canonical h ..) ..
    · split
      · exact State.faultAt_canonical h ..
      · exact State.firstBundle_canonical h ..

theorem execStarvationPrimary_canonical (d core : Nat) : NextCanonical (execStarvationPrimary d core s) := by
  unfold execStarvationPrimary
  dsimp only
  refine next_canonical ?_
  split
  · exact State.updWave_canonical h ..
  · exact h

theorem execThrottlePrimary_canonical (d core : Nat) : NextCanonical (execThrottlePrimary d core s) := by
  unfold execThrottlePrimary
  dsimp only
  refine next_canonical ?_
  split
  · exact State.updWave_canonical h ..
  · exact h

theorem execGroupOfferRotate_canonical (w : Nat) : NextCanonical (execGroupOfferRotate w s) := by
  unfold execGroupOfferRotate
  refine next_canonical ?_
  split
  · exact ite_canonical (State.updWave_canonical h ..) h
  · exact h

theorem State.beginFrame_canonical (g : Gang) : State.canonical (s.beginFrame g) := by
  unfold State.beginFrame
  exact State.updGang_canonical h ..

theorem State.turnOver_canonical (g : Gang) : State.canonical (s.turnOver g) := by
  unfold State.turnOver
  exact State.updGang_canonical h ..

theorem execEmptyTurn_canonical (w : Nat) : NextCanonical (execEmptyTurn w s) := by
  unfold execEmptyTurn
  refine next_canonical ?_
  split
  · exact h
  · exact ite_canonical (State.updWave_canonical (State.turnOver_canonical h ..) ..) h

theorem State.passGoneRanks_canonical : State.canonical s.passGoneRanks := by
  unfold State.passGoneRanks
  dsimp only
  exact canonical_with h

end

/-! ## Page walks, remote writes and accesses from the fabric -/

section
variable {s : State} (h : State.canonical s)
include h

theorem execPageWalk_canonical (_d ctx : Nat) (va : Dword) (write : Bool) : NextCanonical (execPageWalk _d ctx va write s) := by
  unfold execPageWalk
  dsimp only
  refine next_canonical ?_
  split
  · exact h
  · exact ite_canonical h (ite_canonical h (State.homeWrite_canonical (State.viewAs_canonical h ..) ..))

theorem State.updMsg_canonical (id : Nat) (f : Msg → Msg) : State.canonical (s.updMsg id f) := by
  unfold State.updMsg
  exact canonical_with h

theorem State.dropMsg_canonical (id : Nat) : State.canonical (s.dropMsg id) := by
  unfold State.dropMsg
  exact canonical_with h

theorem State.turnedAway_canonical (m : Msg) (c : Nat) : State.canonical (s.turnedAway m c) := by
  unfold State.turnedAway
  split
  · exact State.cmdUpd_canonical h ..
  · split
    · exact State.pendArrives_canonical h ..
    · exact h

theorem State.sendOut_canonical (m : Msg) (fdn : Nat) : State.canonical (s.sendOut m fdn) := by
  unfold State.sendOut
  refine ite_canonical (State.turnedAway_canonical (State.dropMsg_canonical h _) ..) (State.updMsg_canonical ?_ ..)
  refine List.foldlRecOn (motive := fun r : State × List Nat => State.canonical r.1) _ _ h fun r hr a _ => ?_
  have hr : State.canonical { r.1 with nextId := r.1.nextId + 1 } := canonical_with hr
  exact State.sendFab_canonical hr ..

theorem execRemoteWriteCheck_canonical (id : Nat) : NextCanonical (execRemoteWriteCheck id s) := by
  unfold execRemoteWriteCheck
  dsimp only
  refine next_canonical ?_
  split
  · exact h
  · split
    · exact h
    · split
      · exact ite_canonical h (State.sendOut_canonical h ..)
      · exact ite_canonical (State.updMsg_canonical h ..) (State.updMsg_canonical (State.logDenial_canonical h ..) ..)

theorem execRdcInvalidation_canonical (d id : Nat) : NextCanonical (execRdcInvalidation d id s) := by
  unfold execRdcInvalidation
  dsimp only
  refine next_canonical ?_
  split
  · exact h
  · exact ite_canonical h (State.updMsg_canonical (canonical_with h) ..)

theorem execHomeWritePerform_canonical (id : Nat) : NextCanonical (execHomeWritePerform id s) := by
  refine next_canonical ?_
  split
  · exact h
  · next m _ =>
    refine ite_canonical h ?_
    extract_lets t t₁
    have ht : State.canonical t := State.meetKey_canonical (State.dropMsg_canonical h _) ..
    have ht₁ : State.canonical t₁ := by
      refine ite_canonical ?_ ht
      cases m.core with
      | none => exact ht
      | some c => exact State.l1Acquire_canonical ht c
    split
    · exact State.homeWriteBy_canonical ht₁ ..
    · exact State.homeRmw_canonical ht₁ ..

theorem execNegativeAckArrival_canonical (id : Nat) : NextCanonical (execNegativeAckArrival id s) := by
  unfold execNegativeAckArrival
  refine next_canonical ?_
  split
  · exact h
  · exact ite_canonical h (State.turnedAway_canonical (State.dropMsg_canonical h ..) ..)

theorem execRdcFillArrival_canonical (d line : Nat) : NextCanonical (execRdcFillArrival d line s) := by
  unfold execRdcFillArrival
  dsimp only
  refine next_canonical ?_
  split
  · exact h
  · refine ite_canonical ?_ ?_
    · exact canonical_with h
    · exact canonical_with h

theorem execFabricInboundAccess_canonical (d : Nat) (sfdn : BitVec 8) (write : Bool) (dpa len : Nat) :
    NextCanonical (execFabricInboundAccess d sfdn write dpa len s) := by
  unfold execFabricInboundAccess
  exact next_canonical (ite_canonical h (State.logDenial_canonical h ..))

end

/-! ## Power, soft errors and the trust die -/

section
variable {s : State} (h : State.canonical s)
include h

theorem execPowerWindow_canonical (d core : Nat) (mask : BitVec 6) (ratio : BitVec 24) :
    NextCanonical (execPowerWindow d core mask ratio s) := by
  unfold execPowerWindow
  exact next_canonical (ite_canonical h (State.setDie_canonical h ..))

theorem execDroopDetect_canonical (d : Nat) : NextCanonical (execDroopDetect d s) :=
  next_canonical (State.setDie_canonical h ..)

theorem State.logError_canonical (u addr : Nat) : State.canonical (s.logError u addr) := by
  unfold State.logError
  exact State.setDie_canonical h ..

theorem State.lastingFault_canonical (u addr : Nat) : State.canonical (s.lastingFault u addr) := by
  unfold State.lastingFault
  dsimp only
  split
  · exact canonical_with (State.logError_canonical h ..)
  · exact State.setDie_canonical (State.logError_canonical h ..) ..
  · exact State.setDie_canonical (State.logError_canonical h ..) ..
  · exact State.setDie_canonical (State.logError_canonical h ..) ..
  all_goals exact State.logError_canonical h ..

theorem execCorrectedError_canonical (unit addr : Nat) : NextCanonical (execCorrectedError unit addr s) := by
  unfold execCorrectedError
  exact next_canonical (ite_canonical (State.lastingFault_canonical (State.setDie_canonical h ..) ..) (State.setDie_canonical h ..))

theorem execScrubRead_canonical (_d _line : Nat) : NextCanonical (execScrubRead _d _line s) :=
  next_canonical h

theorem execVaultFailure_canonical (d v : Nat) : NextCanonical (execVaultFailure d v s) := by
  unfold execVaultFailure
  exact next_canonical (ite_canonical h (canonical_with (State.setDie_canonical (State.logError_canonical h ..) ..)))

theorem execPackageReset_canonical : NextCanonical (execPackageReset s) := by
  have hmem : Memory.wf (if s.trust.pendingKss.isSome then [] else s.mem) := by
    split
    · rfl
    · exact h
  exact hmem

theorem execFirmwareUpdate_canonical : NextCanonical (execFirmwareUpdate s) := by
  unfold execFirmwareUpdate
  exact next_canonical (ite_canonical (canonical_with h) h)

theorem State.reply_canonical (name : String) (body : List Byte) : State.canonical (s.reply name body) := by
  unfold State.reply
  dsimp only
  exact canonical_with h

theorem execGetVersion_canonical : NextCanonical (execGetVersion s) :=
  next_canonical (State.reply_canonical h ..)

theorem execGetCapabilities_canonical : NextCanonical (execGetCapabilities s) :=
  next_canonical (State.reply_canonical h ..)

theorem execNegotiateAlgorithms_canonical : NextCanonical (execNegotiateAlgorithms s) :=
  next_canonical (State.reply_canonical h ..)

theorem execGetDigests_canonical : NextCanonical (execGetDigests s) :=
  next_canonical (State.reply_canonical h ..)

theorem execGetCertificate_canonical : NextCanonical (execGetCertificate s) :=
  next_canonical (State.reply_canonical h ..)

theorem execChallenge_canonical : NextCanonical (execChallenge s) :=
  next_canonical (State.reply_canonical h ..)

theorem execGetMeasurements_canonical : NextCanonical (execGetMeasurements s) :=
  next_canonical (State.reply_canonical h ..)

theorem State.updSession_canonical (id : Nat) (f : Session → Session) : State.canonical (s.updSession id f) := by
  unfold State.updSession
  dsimp only
  exact canonical_with h

theorem execKeyExchange_canonical : NextCanonical (execKeyExchange s) := by
  unfold execKeyExchange
  exact next_canonical (ite_canonical (State.reply_canonical (canonical_with (State.takeFree_canonical h)) ..)
    (State.reply_canonical h ..))

theorem execFinish_canonical (session : Nat) : NextCanonical (execFinish session s) := by
  unfold execFinish
  exact next_canonical (ite_canonical (State.reply_canonical (State.updSession_canonical (State.takeFree_canonical h) ..) ..)
    (State.reply_canonical h ..))

theorem execKeyUpdate_canonical (session : Nat) : NextCanonical (execKeyUpdate session s) := by
  unfold execKeyUpdate
  exact next_canonical (ite_canonical (State.reply_canonical (State.updSession_canonical (State.takeFree_canonical h) ..) ..)
    (State.reply_canonical h ..))

theorem execHeartbeat_canonical (session : Nat) : NextCanonical (execHeartbeat session s) := by
  unfold execHeartbeat
  exact next_canonical (ite_canonical (State.reply_canonical h ..) (State.reply_canonical h ..))

theorem execEndSession_canonical (session : Nat) : NextCanonical (execEndSession session s) := by
  unfold execEndSession
  exact next_canonical (ite_canonical (State.reply_canonical (canonical_with h) ..) (State.reply_canonical h ..))

theorem State.vendor_canonical (session : Nat) (f : TrustSt → TrustSt) : State.canonical (s.vendor session f) := by
  unfold State.vendor
  exact ite_canonical (State.reply_canonical (canonical_with h) ..) (State.reply_canonical h ..)

theorem execProvisionRegionKey_canonical (session slot : Nat) : NextCanonical (execProvisionRegionKey session slot s) :=
  next_canonical (State.vendor_canonical h ..)

theorem execEditModuleKeyList_canonical (session : Nat) (add : Bool) (key : Val) :
    NextCanonical (execEditModuleKeyList session add key s) :=
  next_canonical (State.vendor_canonical h ..)

theorem execEditCheckpointKeyList_canonical (session : Nat) (add : Bool) (key : Val) :
    NextCanonical (execEditCheckpointKeyList session add key s) :=
  next_canonical (State.vendor_canonical h ..)

theorem execRekey_canonical (session : Nat) (kss : BitVec 512) : NextCanonical (execRekey session kss s) :=
  next_canonical (State.vendor_canonical h ..)

theorem execIdeKm_canonical (session stream : Nat) : NextCanonical (execIdeKm session stream s) :=
  next_canonical (State.vendor_canonical h ..)

end

/-! ## Messages and flits of the fabric -/

section
variable {s : State} (h : State.canonical s)
include h

theorem State.updPort_canonical (p : Nat) (f : PortSt → PortSt) : State.canonical (s.updPort p f) := by
  unfold State.updPort
  exact canonical_with h

theorem State.inMsg_canonical {p op : Nat} {r : FabMsg × State} (e : s.inMsg p op = some r) :
    State.canonical r.2 := by
  unfold State.inMsg at e
  split at e
  · split at e
    · cases e
      exact State.updPort_canonical h ..
    · cases e
  · cases e

theorem State.answer_canonical (p : Nat) (m : FabMsg) (op aop : Nat) (data : List Byte) : State.canonical (s.answer p m op aop data) := by
  unfold State.answer
  exact State.sendFab_canonical h ..

theorem State.serveMsg_canonical {eff : State → State}
    (heff : ∀ t, State.canonical t → State.canonical (eff t)) (p : Nat) (m : FabMsg) (write : Bool) (dpa len : Nat) :
    State.canonical (s.serveMsg p m write dpa len eff) := by
  unfold State.serveMsg
  exact ite_canonical (State.answer_canonical h ..) (ite_canonical (State.answer_canonical (State.logDenial_canonical h ..) ..)
    (heff _ (State.meetKey_canonical h ..)))

theorem execFabricRead_canonical (port : Nat) : NextCanonical (execFabricRead port s) := by
  unfold execFabricRead
  dsimp only
  refine next_canonical ?_
  split
  · exact h
  · exact State.serveMsg_canonical (State.inMsg_canonical h ‹_›) (fun _ ht => State.answer_canonical ht ..) ..

theorem State.maskedWrite_canonical (k mask : Nat) (bs : List Byte) : State.canonical (s.maskedWrite k mask bs) := by
  unfold State.maskedWrite
  exact foldl_canonical h (fun _ _ ht => ite_canonical (State.homeWrite_canonical ht ..) ht)

theorem execFabricWrite_canonical (port : Nat) : NextCanonical (execFabricWrite port s) := by
  refine next_canonical ?_
  split
  · exact h
  · next m t e =>
    have ht : State.canonical t := State.inMsg_canonical h e
    extract_lets a
    exact ite_canonical h
      (State.serveMsg_canonical ht (fun _ hu => State.answer_canonical (State.maskedWrite_canonical hu ..) ..) ..)

theorem execFabricAtomic_canonical (port : Nat) : NextCanonical (execFabricAtomic port s) := by
  refine next_canonical ?_
  split
  · exact h
  · next m t e =>
    have ht : State.canonical t := State.inMsg_canonical h e
    extract_lets ty n k
    exact ite_canonical h
      (State.serveMsg_canonical ht (fun _ hu => State.answer_canonical (State.homeWrite_canonical hu ..) ..) ..)

theorem State.takeReply_canonical (m : FabMsg) (reply : Option (List Byte)) (c : Nat) : State.canonical (s.takeReply m reply c) := by
  unfold State.takeReply
  dsimp only
  split
  · exact canonical_with h
  · split
    · exact h
    · exact ite_canonical (ite_canonical (State.dropMsg_canonical h ..) (State.turnedAway_canonical
        (State.dropMsg_canonical h ..) ..)) (State.updMsg_canonical h ..)

theorem execFabricReadData_canonical (port : Nat) : NextCanonical (execFabricReadData port s) := by
  unfold execFabricReadData
  refine next_canonical ?_
  split
  · exact h
  · exact State.takeReply_canonical (State.inMsg_canonical h ‹_›) ..

theorem execFabricAtomicData_canonical (port : Nat) : NextCanonical (execFabricAtomicData port s) := by
  unfold execFabricAtomicData
  refine next_canonical ?_
  split
  · exact h
  · exact State.takeReply_canonical (State.inMsg_canonical h ‹_›) ..

theorem execFabricWriteAck_canonical (port : Nat) : NextCanonical (execFabricWriteAck port s) := by
  unfold execFabricWriteAck
  refine next_canonical ?_
  split
  · exact h
  · exact State.takeReply_canonical (State.inMsg_canonical h ‹_›) ..

theorem execFabricNegativeAck_canonical (port : Nat) : NextCanonical (execFabricNegativeAck port s) := by
  unfold execFabricNegativeAck
  refine next_canonical ?_
  split
  · exact h
  · exact State.takeReply_canonical (State.inMsg_canonical h ‹_›) ..

theorem execFabricContribution_canonical (port : Nat) : NextCanonical (execFabricContribution port s) := by
  unfold execFabricContribution
  dsimp only
  refine next_canonical ?_
  split
  · exact h
  · split
    · exact State.inMsg_canonical h ‹_›
    · exact canonical_with (State.hear_canonical (State.inMsg_canonical h ‹_›) ..)

theorem execDataFlit_canonical (port : Nat) (bytes : List Byte) : NextCanonical (execDataFlit port bytes s) := by
  unfold execDataFlit
  exact next_canonical (ite_canonical h (ite_canonical (State.updPort_canonical h ..) (State.updPort_canonical h ..)))

theorem execKeyRollover_canonical (port : Nat) : NextCanonical (execKeyRollover port s) :=
  next_canonical (State.updPort_canonical h ..)

theorem execFlitAcknowledge_canonical (port : Nat) (seq : Dword) : NextCanonical (execFlitAcknowledge port seq s) :=
  next_canonical (State.updPort_canonical h ..)

theorem State.failPort_canonical (port : Nat) : State.canonical (s.failPort port) := by
  unfold State.failPort
  dsimp only
  exact State.logError_canonical (foldl_canonical (State.updPort_canonical (canonical_with h) ..)
    (fun _ _ ht => State.turnedAway_canonical (State.dropMsg_canonical ht ..) ..)) ..

theorem State.unitFails_canonical (d : Nat) (u : LostUnit) : State.canonical (s.unitFails d u) := by
  unfold State.unitFails
  split
  · exact State.setDie_canonical (State.logError_canonical h ..) ..
  · exact State.setDie_canonical (State.logError_canonical h ..) ..
  · exact State.setDie_canonical (State.logError_canonical h ..) ..
  · exact State.failPort_canonical h ..

theorem State.resend_canonical (port : Nat) : State.canonical (s.resend port) := by
  unfold State.resend
  dsimp only
  exact ite_canonical h (ite_canonical (State.failPort_canonical h ..) (State.updPort_canonical h ..))

theorem execFlitNegativeAck_canonical (port : Nat) (seq : Dword) : NextCanonical (execFlitNegativeAck port seq s) := by
  unfold execFlitNegativeAck
  exact next_canonical (ite_canonical (State.resend_canonical h ..) h)

theorem execFlitReplayTimeout_canonical (port : Nat) : NextCanonical (execFlitReplayTimeout port s) := by
  unfold execFlitReplayTimeout
  exact next_canonical (ite_canonical (State.resend_canonical h ..) h)

theorem execEpochRetired_canonical (port : Nat) (seq : Dword) : NextCanonical (execEpochRetired port seq s) :=
  next_canonical (State.updPort_canonical h ..)

theorem execIdleFlit_canonical (_port : Nat) : NextCanonical (execIdleFlit _port s) :=
  next_canonical h

end

/-! ## The host interface -/

section
variable {s : State} (h : State.canonical s)
include h

theorem State.setPlim_canonical (v : Dword) : State.canonical (s.setPlim v) := by
  unfold State.setPlim
  exact canonical_with h

theorem execPlimWrite_canonical (v : Dword) : NextCanonical (execPlimWrite v s) := by
  unfold execPlimWrite
  exact next_canonical (ite_canonical (State.setPlim_canonical h ..) h)

theorem State.taskGo_canonical (arm : Bool) : State.canonical (s.taskGo arm) := by
  unfold State.taskGo
  dsimp only
  split
  · exact canonical_with h
  · split
    · exact canonical_with h
    · refine ite_canonical (State.arm_canonical ?_ ..) ?_
      · exact canonical_with (State.newTask_canonical h ‹_›)
      · exact canonical_with (State.newTask_canonical h ‹_›)

theorem execTaskPortCreate_canonical : NextCanonical (execTaskPortCreate s) := by
  unfold execTaskPortCreate
  exact next_canonical (ite_canonical (State.taskGo_canonical h ..) h)

theorem execTaskPortCreateArm_canonical : NextCanonical (execTaskPortCreateArm s) := by
  unfold execTaskPortCreateArm
  exact next_canonical (ite_canonical (State.taskGo_canonical h ..) h)

theorem State.mgmtWrite_canonical (off : Nat) (v : Dword) : State.canonical (s.mgmtWrite off v) := by
  unfold State.mgmtWrite
  refine ite_canonical (ite_canonical ?_ h) (ite_canonical ?_ (ite_canonical (State.setPlim_canonical h _) ?_))
  · exact canonical_with h
  · exact canonical_with h
  · split
    · split
      · exact State.setDie_canonical h ..
      · exact State.setDie_canonical h ..
      · exact h
    · refine ite_canonical (ite_canonical (State.sysWrite_canonical h ..) h) (ite_canonical ?_ (ite_canonical ?_ (ite_canonical
        (State.taskGo_canonical h _) (ite_canonical ?_ (ite_canonical ?_ h)))))
      all_goals exact canonical_with h

theorem State.mgmtPut_canonical (off : Nat) (bs : List Byte) : State.canonical (s.mgmtPut off bs) := by
  unfold State.mgmtPut
  dsimp only
  exact foldl_canonical h (fun _ _ ht => State.mgmtWrite_canonical ht ..)

theorem State.mgmtGet_canonical (off n : Nat) : State.canonical (s.mgmtGet off n).2 :=
  List.foldlRecOn (motive := fun r : List Byte × State => State.canonical r.2) _ _ h fun r hr p _ => by
    split
    · exact hr
    · exact State.takeFree_canonical hr

theorem State.hostPut_canonical (va : Nat) (bs : List Byte) : State.canonical (s.hostPut va bs) := by
  unfold State.hostPut
  refine foldl_canonical h (fun t x ht => ?_)
  split
  · exact ht
  · exact State.homeRun_canonical (State.meet_canonical (State.markLeaf_canonical ht ..) ..) ..

theorem State.hostGet_canonical (va n : Nat) : State.canonical (s.hostGet va n).2 :=
  List.foldlRecOn (motive := fun r : List Byte × State => State.canonical r.2) _ _ h fun r hr p _ => by
    split
    · exact State.takeFree_canonical hr
    · exact State.markLeaf_canonical hr ..

theorem State.hostDo_canonical (r : HostReq) : State.canonical (s.hostDo r) := by
  have hget : ∀ (c : Prop) [Decidable c] (off : Nat), State.canonical (if c then s.mgmtGet off r.n else s.hostGet r.va.toNat r.n).2 :=
    fun c _ off => by
      split
      · exact State.mgmtGet_canonical h ..
      · exact State.hostGet_canonical h ..
  unfold State.hostDo
  refine ite_canonical (ite_canonical (State.mgmtPut_canonical h ..) (State.hostPut_canonical h ..)) ?_
  exact canonical_with (hget _ _)

theorem State.hostRun_canonical (rs : List HostReq) : State.canonical (State.hostRun rs s) := by
  induction rs generalizing s with
  | nil =>
    unfold State.hostRun
    exact canonical_with h
  | cons r rs ih =>
    unfold State.hostRun
    refine ite_canonical (ih (State.hostDo_canonical h r)) ?_
    exact canonical_with h

theorem State.hostAsk_canonical (r : HostReq) : State.canonical (s.hostAsk r) := by
  unfold State.hostAsk
  exact ite_canonical (State.hostRun_canonical h ..) h

theorem execHostWrite_canonical (va : Dword) (bytes : List Byte) : NextCanonical (execHostWrite va bytes s) :=
  next_canonical (State.hostAsk_canonical h ..)

theorem execHostRead_canonical (va : Dword) (n : Nat) : NextCanonical (execHostRead va n s) :=
  next_canonical (State.hostAsk_canonical h ..)

theorem execCopyPendingWrite_canonical (id : Nat) : NextCanonical (execCopyPendingWrite id s) := by
  unfold execCopyPendingWrite
  exact next_canonical (ite_canonical (State.heldPerform_canonical h ..) (State.hostRun_canonical (State.heldPerform_canonical h ..) ..))

end

/-! ## The loader -/

section
variable {s : State} (h : State.canonical s)
include h

theorem State.placeBytes_canonical (va n : Nat) (bs : List Byte) : State.canonical (s.placeBytes va n bs) :=
  writeBytes_cwf (clearRange_cwf _ _ (State.meetKey_canonical h ..))

theorem State.loadDone_canonical (st : Dword) : State.canonical (s.loadDone st) := by
  unfold State.loadDone
  exact State.sysSet_canonical (State.sysSet_canonical h ..) ..

theorem State.install_canonical (m : Module) (ds : List DataSect) (targets : List Nat) : State.canonical (s.install m ds targets) := by
  unfold State.install
  dsimp only
  exact canonical_with (foldl_canonical (State.placeBytes_canonical (State.placeBytes_canonical h ..) ..)
    (fun _ _ ht => State.placeBytes_canonical ht ..))

theorem State.updModule_canonical (hd : Nat) (f : Module → Module) : State.canonical (s.updModule hd f) := by
  unfold State.updModule
  exact canonical_with h

theorem State.serveLoad_canonical (user : Bool) (addr : Dword) (len ctx : Nat) : State.canonical (s.serveLoad user addr len ctx) := by
  unfold State.serveLoad
  dsimp only
  split
  · exact State.loadDone_canonical h ..
  · split
    · exact State.loadDone_canonical (State.takeFree_canonical h) ..
    · split
      · exact State.loadDone_canonical h ..
      · exact State.loadDone_canonical (State.updModule_canonical h ..) ..
      · exact State.loadDone_canonical (State.install_canonical h ..) ..

theorem State.serveUnload_canonical (hd : Nat) : State.canonical (s.serveUnload hd) := by
  unfold State.serveUnload
  split
  · exact ite_canonical (State.loadDone_canonical h ..) (State.loadDone_canonical (State.updModule_canonical h ..) ..)
  · exact State.loadDone_canonical h ..

theorem execLoaderServe_canonical : NextCanonical (execLoaderServe s) := by
  unfold execLoaderServe
  refine next_canonical ?_
  split
  · exact h
  · split
    · exact State.serveLoad_canonical (canonical_with h) ..
    · exact State.serveUnload_canonical (canonical_with h) ..
    · exact h

theorem execLoadRequest_canonical (level : Bool) : NextCanonical (execLoadRequest level s) := by
  unfold execLoadRequest
  exact next_canonical (ite_canonical (State.queueLoad_canonical h ..) h)

theorem execUnloadRequest_canonical : NextCanonical (execUnloadRequest s) := by
  unfold execUnloadRequest
  exact next_canonical (ite_canonical (State.queueLoad_canonical h ..) h)

theorem State.wakeResolve_canonical (wi hd x : Nat) : State.canonical (s.wakeResolve wi hd x) := by
  unfold State.wakeResolve
  exact State.updWave_canonical h ..

theorem State.resolveFault_canonical (wi hd x : Nat) (c : Cause) : State.canonical (s.resolveFault wi hd x c) := by
  unfold State.resolveFault
  dsimp only
  exact ite_canonical h (State.faultAt_canonical (State.wakeResolve_canonical h ..) ..)

theorem State.serveResolve_canonical (wi hd x : Nat) : State.canonical (s.serveResolve wi hd x) := by
  unfold State.serveResolve
  dsimp only
  split
  · exact State.resolveFault_canonical h ..
  · split
    · exact State.resolveFault_canonical h ..
    · split
      · exact State.wakeResolve_canonical h ..
      · split
        · exact State.resolveFault_canonical h ..
        · exact State.resolveFault_canonical h ..
        · exact State.wakeResolve_canonical (State.homeWrite_canonical (State.meetKey_canonical h ..) ..) ..

theorem execLazyResolve_canonical : NextCanonical (execLazyResolve s) := by
  unfold execLazyResolve
  dsimp only
  refine next_canonical ?_
  split
  · exact h
  · split
    · split
      · refine ite_canonical ?_ (State.serveResolve_canonical ?_ ..)
        · exact canonical_with h
        · exact canonical_with h
      · exact canonical_with h
    · exact h

theorem execModuleLeave_canonical (hd : Nat) : NextCanonical (execModuleLeave hd s) := by
  unfold execModuleLeave
  refine next_canonical ?_
  split
  · exact h
  · exact ite_canonical h (canonical_with h)

end

/-! ## The dispatch of the instructions and the state after a bundle -/

theorem exec_canonical {s : State} (h : State.canonical s) (i : Instr) : NextCanonical (exec i s) := by
  cases i
  case add | sub | mul | mulhi | mad | div | rem | neg | abs | min | max | addsat | subsat | and | or | xor | not | andn | shl | shr
    | sra | rotl | rotr | clz | ctz | popc | brev | bswap | bfx | bfi | cmp | sel | zext | sext | trunc | lea | const | sreg | fabs
    | fneg | fcpsgn | fclass | fnaddr | lnkaddr | rjmask | lpidx | lswap | lshfl | lbcast | lrot | lvote | lany | lall | lfirst
    | lmatch | rng | pvbase | taskid | gangid | dcount | dmode | mquery => exact next_canonical (State.put_canonical h _)
  case addc | subb => exact next_canonical (State.finish_canonical h _)
  case fadd | fsub | fmul | fma | fdiv | fsqrt | frsqrt | frcp | fmin | fmax | frint | fscale | fcvt | ftoi | itof | fpack2 | mxdq
    | fexp2 | flog2 | fsin | fcos | ftanh | fsigm => exact next_canonical (State.putFp_canonical h ..)
  case fcmp | funpack2 | mxq | fsincos | lred | lscan => exact next_canonical (State.finishFp_canonical h ..)
  case atomadd | atomfadd | atomand | atomor | atomxor | atommin | atommax | atomfmin | atomfmax | atominc | atomdec | atomxchg
    | atomcas | atomcas2 => exact next_canonical (State.atomic_canonical h _)
  case red | redf => exact next_canonical (State.atomIssue_canonical h (fun _ ht => State.redEff_canonical ht ..) ..)
  case spmax | spargmax | spsum | spsoftmax | sptopk | spsample => exact next_canonical (State.spanRun_canonical h ..)
  case br | brc | brsw => exact next_canonical (State.branch_canonical h _)
  case call | tcall => exact next_canonical (State.callWith_canonical h ..)
  case callx | tcallx => exact next_canonical (State.callDesc_canonical h ..)
  case ld | ldv => exact next_canonical (State.access_canonical h fun _ ht => State.loadEff_canonical ht _)
  case st | stv | zline => exact next_canonical (State.access_canonical h fun _ ht => State.storeEff_canonical ht ..)
  case ldblk | stblk => exact next_canonical (State.blkIssue_canonical h ..)
  case unreach | trap => exact next_canonical (State.faultAll_canonical h _)
  case mma | mmamx => exact next_canonical (State.mmaIssue_canonical h ..)
  case mzero | mtrans => exact next_canonical (State.toQuern_canonical h ..)
  case exit => exact next_canonical (State.exitThreads_canonical h)
  case fence => exact next_canonical (State.fenceEff_canonical h ..)
  case contret => exact next_canonical (State.contReturn_canonical h)
  case calll => exact execCalll_canonical h ..
  case ret => exact execRet_canonical h ..
  case rjenrol => exact execRjenrol_canonical h ..
  case rjwait => exact execRjwait_canonical h ..
  case rjstrike => exact execRjstrike_canonical h ..
  case lpbeg => exact execLpbeg_canonical h ..
  case lpend => exact execLpend_canonical h ..
  case fsflag => exact execFsflag_canonical h ..
  case prefetch => exact execPrefetch_canonical h ..
  case wbline => exact execWbline_canonical h ..
  case invline => exact execInvline_canonical h ..
  case spq => exact execSpq_canonical h ..
  case barinit => exact execBarinit_canonical h ..
  case bararr => exact execBararr_canonical h ..
  case barwait => exact execBarwait_canonical h ..
  case barsync => exact execBarsync_canonical h ..
  case barexp => exact execBarexp_canonical h ..
  case bartest => exact execBartest_canonical h ..
  case waitval => exact execWaitval_canonical h ..
  case sleep => exact execSleep_canonical h ..
  case wake => exact execWake_canonical h ..
  case mld => exact execMld_canonical h ..
  case mst => exact execMst_canonical h ..
  case mwait => exact execMwait_canonical h ..
  case mdesc => exact execMdesc_canonical h ..
  case engbind => exact execEngbind_canonical h ..
  case engunbind => exact execEngunbind_canonical h ..
  case cmpwait => exact execCmpwait_canonical h ..
  case cmpnext => exact execCmpnext_canonical h ..
  case engstat => exact execEngstat_canonical h ..
  case caput => exact execCaput_canonical h ..
  case caget => exact execCaget_canonical h ..
  case caref => exact execCaref_canonical h ..
  case cadrop => exact execCadrop_canonical h ..
  case caswap => exact execCaswap_canonical h ..
  case cawalk => exact execCawalk_canonical h ..
  case castat => exact execCastat_canonical h ..
  case canode => exact execCanode_canonical h ..
  case tasknew => exact execTasknew_canonical h ..
  case taskdep => exact execTaskdep_canonical h ..
  case taskarm => exact execTaskarm_canonical h ..
  case prio => exact execPrio_canonical h ..
  case estim => exact execEstim_canonical h ..
  case dseq => exact execDseq_canonical h ..
  case brk => exact execBrk_canonical h ..
  case assert => exact execAssert_canonical h ..
  case sysrd => exact execSysrd_canonical h ..
  case syswr => exact execSyswr_canonical h ..
  case contset => exact execContset_canonical h ..
  case contsig => exact execContsig_canonical h ..
  case ckpt => exact execCkpt_canonical h ..
  case tlbinv => exact execTlbinv_canonical h ..
  case tcinv => exact execTcinv_canonical h ..
  case evtsig => exact execEvtsig_canonical h ..
  case spanComplete => exact execSpanComplete_canonical h ..
  case blockCopyLineDone => exact execBlockCopyLineDone_canonical h ..
  case barrierWaitRelease => exact execBarrierWaitRelease_canonical h ..
  case waitvalReread => exact execWaitvalReread_canonical h ..
  case sleepTimeout => exact execSleepTimeout_canonical h ..
  case reductionRoundComplete => exact execReductionRoundComplete_canonical h ..
  case reductionRoundTimeout => exact execReductionRoundTimeout_canonical h ..
  case quernAccept => exact execQuernAccept_canonical h ..
  case quernOpComplete => exact execQuernOpComplete_canonical h ..
  case notifyFetch => exact execNotifyFetch_canonical h ..
  case commandBegin => exact execCommandBegin_canonical h ..
  case copy => exact execCopy_canonical h ..
  case copyNd => exact execCopyNd_canonical h ..
  case gather => exact execGather_canonical h ..
  case scatter => exact execScatter_canonical h ..
  case engineFill => exact execEngineFill_canonical h ..
  case rcopy => exact execRcopy_canonical h ..
  case caout => exact execCaout_canonical h ..
  case commandComplete => exact execCommandComplete_canonical h ..
  case vaultPartApply => exact execVaultPartApply_canonical h ..
  case sequenceGapTimeout => exact execSequenceGapTimeout_canonical h ..
  case backgroundDrop => exact execBackgroundDrop_canonical h ..
  case backgroundDropRetry => exact execBackgroundDropRetry_canonical h ..
  case regionInitDone => exact execRegionInitDone_canonical h ..
  case workgroupAdmit => exact execWorkgroupAdmit_canonical h ..
  case placementStalled => exact execPlacementStalled_canonical h ..
  case preemptDecide => exact execPreemptDecide_canonical h ..
  case gangFold => exact execGangFold_canonical h ..
  case landing => exact execLanding_canonical h ..
  case starvationPrimary => exact execStarvationPrimary_canonical h ..
  case groupOfferRotate => exact execGroupOfferRotate_canonical h ..
  case throttlePrimary => exact execThrottlePrimary_canonical h ..
  case translationMiss => exact execTranslationMiss_canonical h ..
  case translationComplete => exact execTranslationComplete_canonical h ..
  case waveMigrate => exact execWaveMigrate_canonical h ..
  case waveUnparkPresence => exact execWaveUnparkPresence_canonical h ..
  case remoteWriteCheck => exact execRemoteWriteCheck_canonical h ..
  case negativeAckArrival => exact execNegativeAckArrival_canonical h ..
  case rdcInvalidation => exact execRdcInvalidation_canonical h ..
  case homeWritePerform => exact execHomeWritePerform_canonical h ..
  case rdcFillArrival => exact execRdcFillArrival_canonical h ..
  case fabricRead => exact execFabricRead_canonical h ..
  case fabricReadData => exact execFabricReadData_canonical h ..
  case fabricWrite => exact execFabricWrite_canonical h ..
  case fabricAtomic => exact execFabricAtomic_canonical h ..
  case fabricAtomicData => exact execFabricAtomicData_canonical h ..
  case fabricWriteAck => exact execFabricWriteAck_canonical h ..
  case fabricNegativeAck => exact execFabricNegativeAck_canonical h ..
  case fabricContribution => exact execFabricContribution_canonical h ..
  case flitReplayTimeout => exact execFlitReplayTimeout_canonical h ..
  case noticeRingDrain => exact execNoticeRingDrain_canonical h ..
  case cutReport => exact execCutReport_canonical h ..
  case cutStop => exact execCutStop_canonical h ..
  case contextSave => exact execContextSave_canonical h ..
  case contextRestore => exact execContextRestore_canonical h ..
  case copyPendingWrite => exact execCopyPendingWrite_canonical h ..
  case moduleLeave => exact execModuleLeave_canonical h ..
  case emptyTurn => exact execEmptyTurn_canonical h ..
  case yieldHoldEnd => exact execYieldHoldEnd_canonical h ..
  case regionEnable => exact execRegionEnable_canonical h ..
  case regionDisable => exact execRegionDisable_canonical h ..
  case vaultTempSample => exact execVaultTempSample_canonical h ..
  case clusterGate => exact execClusterGate_canonical h ..
  case mov => exact execMov_canonical h ..
  case spill => exact execSpill_canonical h ..
  case fill => exact execFill_canonical h ..
  case fmtset => exact execFmtset_canonical h ..
  case kmov => exact execKmov_canonical h ..
  case qmov => exact execQmov_canonical h ..
  case pageWalk d ctx va write => exact execPageWalk_canonical h d ctx va write
  case fabricInboundAccess => exact execFabricInboundAccess_canonical h ..
  case dataFlit => exact execDataFlit_canonical h ..
  case flitAcknowledge => exact execFlitAcknowledge_canonical h ..
  case flitNegativeAck => exact execFlitNegativeAck_canonical h ..
  case epochRetired => exact execEpochRetired_canonical h ..
  case idleFlit port => exact execIdleFlit_canonical h port
  case keyRollover => exact execKeyRollover_canonical h ..
  case wctlResume => exact execWctlResume_canonical h ..
  case wctlSignal => exact execWctlSignal_canonical h ..
  case wctlAbort => exact execWctlAbort_canonical h ..
  case powerWindow => exact execPowerWindow_canonical h ..
  case droopDetect => exact execDroopDetect_canonical h ..
  case correctedError => exact execCorrectedError_canonical h ..
  case scrubRead d line => exact execScrubRead_canonical h d line
  case vaultFailure => exact execVaultFailure_canonical h ..
  case finish => exact execFinish_canonical h ..
  case keyUpdate => exact execKeyUpdate_canonical h ..
  case heartbeat => exact execHeartbeat_canonical h ..
  case endSession => exact execEndSession_canonical h ..
  case provisionRegionKey => exact execProvisionRegionKey_canonical h ..
  case editModuleKeyList => exact execEditModuleKeyList_canonical h ..
  case editCheckpointKeyList => exact execEditCheckpointKeyList_canonical h ..
  case rekey => exact execRekey_canonical h ..
  case ideKm => exact execIdeKm_canonical h ..
  case hostWrite => exact execHostWrite_canonical h ..
  case hostRead => exact execHostRead_canonical h ..
  case loadRequest => exact execLoadRequest_canonical h ..
  case plimWrite => exact execPlimWrite_canonical h ..
  case fgcWrite => exact execFgcWrite_canonical h ..
  case rdwcWrite => exact execRdwcWrite_canonical h ..
  case nrlostRead => exact execNrlostRead_canonical h ..
  case tflostRead => exact execTflostRead_canonical h ..
  case tmisscntRead => exact execTmisscntRead_canonical h ..
  case retrcntRead => exact execRetrcntRead_canonical h ..
  case sysregWrite => exact execSysregWrite_canonical h ..
  case yield => exact execYield_canonical h ..
  case drain => exact execDrain_canonical h ..
  case opfence => exact execOpfence_canonical h ..
  case dmerge => exact execDmerge_canonical h ..
  case halt => exact execHalt_canonical h ..
  case nop => exact execNop_canonical h ..
  case land => exact execLand_canonical h ..
  case cutRequest => exact execCutRequest_canonical h ..
  case cutRelease => exact execCutRelease_canonical h ..
  case cutTimeout => exact execCutTimeout_canonical h ..
  case ckptCapture => exact execCkptCapture_canonical h ..
  case ckptRestore => exact execCkptRestore_canonical h ..
  case packageReset => exact execPackageReset_canonical h ..
  case firmwareUpdate => exact execFirmwareUpdate_canonical h ..
  case getVersion => exact execGetVersion_canonical h ..
  case getCapabilities => exact execGetCapabilities_canonical h ..
  case negotiateAlgorithms => exact execNegotiateAlgorithms_canonical h ..
  case getDigests => exact execGetDigests_canonical h ..
  case getCertificate => exact execGetCertificate_canonical h ..
  case challenge => exact execChallenge_canonical h ..
  case getMeasurements => exact execGetMeasurements_canonical h ..
  case keyExchange => exact execKeyExchange_canonical h ..
  case unloadRequest => exact execUnloadRequest_canonical h ..
  case loaderServe => exact execLoaderServe_canonical h ..
  case lazyResolve => exact execLazyResolve_canonical h ..
  case taskPortCreate => exact execTaskPortCreate_canonical h ..
  case taskPortCreateArm => exact execTaskPortCreateArm_canonical h ..
  case haltResume => exact execHaltResume_canonical h ..
  case emptyBundle => exact execEmptyBundle_canonical h ..
  case powerLoss => exact execPowerLoss_canonical h ..

section
variable {s : State} (h : State.canonical s)
include h

theorem State.spoilOp_canonical (q : QuernOp) (rs : List (Bool × Nat × Nat)) : State.canonical (s.spoilOp q rs) := by
  unfold State.spoilOp
  refine ite_canonical ?_ (ite_canonical ?_ (State.freeTile_canonical h ..))
  · exact canonical_with h
  · exact canonical_with h

theorem State.freeBytes_canonical (pl : Place) (off n : Nat) : State.canonical (s.freeBytes pl off n) := by
  unfold State.freeBytes
  dsimp only
  exact foldl_canonical h (fun _ _ ht => State.placeWrite_canonical (State.takeFreeBytes_canonical ht ..) ..)

theorem State.takeBare_canonical (i : TransImage) (b : Bundle) (k : Nat) : State.canonical (s.takeBare i b k) := by
  unfold State.takeBare
  split
  · exact State.updWv_canonical h ..
  · exact h

theorem State.illegalBundle_canonical (i : Nat) (g : Loc × Mask) (x : TransImage) (bits : BundleBits) :
    State.canonical (s.illegalBundle i g x bits) := by
  unfold State.illegalBundle
  dsimp only
  exact canonical_with (State.updWave_canonical (State.takeFault_canonical h ..) ..)

theorem State.bufferFull_canonical {t : State} {i : Nat} {g : Loc × Mask} {b : Bundle} (e : s.bufferFull i g b = some t) :
    State.canonical t := by
  unfold State.bufferFull at e
  dsimp only at e
  split at e
  · cases e
    exact ite_canonical (State.faultAt_canonical h ..) h
  · cases e

end

/-! ## A cycle and the moves from outside -/

section
variable {s : State} (h : State.canonical s)
include h

theorem State.hotWindow_canonical : State.canonical s.hotWindow := by
  unfold State.hotWindow
  dsimp only
  exact ite_canonical h (canonical_with h)

theorem State.settleWaves_canonical : State.canonical s.settleWaves :=
  foldl_canonical h fun t i ht => by
    have hu : State.canonical (if (t.waveAt i).unsaved && t.resident i then t.finishFault i else t) :=
      ite_canonical (State.finishFault_canonical ht _) ht
    exact ite_canonical (State.contStep_canonical hu _) hu

theorem State.settleMerges_canonical : State.canonical s.settleMerges := by
  unfold State.settleMerges
  exact foldl_canonical h (fun _ _ ht => State.signalMerged_canonical ht ..)

theorem State.tick_canonical : State.canonical s.tick := by
  have hs := State.settleMerges_canonical (State.settleWaves_canonical (State.passGoneRanks_canonical h))
  refine State.dropStale_canonical (State.hotWindow_canonical ?_)
  exact canonical_with hs

theorem State.ticks_canonical (n : Nat) : State.canonical (State.ticks n s) := by
  induction n generalizing s with
  | zero => exact h
  | succ n ih => exact ih (State.tick_canonical h)

theorem State.corruptBundle_canonical (d u n : Nat) (bs : List Byte) :
    State.canonical (s.corruptBundle d u n bs) := by
  unfold State.corruptBundle
  split
  · exact h
  · split
    · exact h
    · extract_lets k t v old new pairs
      have ht : State.canonical t := State.meetKey_canonical h ..
      have hv : State.canonical v := putBytes_cwf ht ..
      split
      · exact hv
      · exact ht

theorem State.leaveRdc_canonical (die line : Nat) : State.canonical (s.leaveRdc die line) := by
  unfold State.leaveRdc
  exact canonical_with h

theorem State.leaveL2_canonical (line : Nat) : State.canonical (s.leaveL2 line) := by
  unfold State.leaveL2
  dsimp only
  exact canonical_with (State.invalidateSharers_canonical h ..)

end

end Sys2Proof.Machine
end

section
/-! The memory stays in canonical form: bundles, turns and steps (08_memory.md R233, R244). -/
namespace Sys2Proof.Machine
open Sys2Proof Sys2Proof.Safety
set_option Elab.async false

theorem canonical_of_next {o : Outcome} {u : State} (ho : NextCanonical o) (h : o = .next u) : State.canonical u := by
  subst h
  exact ho

/-! ## One bundle -/

theorem State.spansSee_canonical {s u : State} (h : State.canonical u) (own : Option Dword) : State.canonical (s.spansSee own u) := by
  unfold State.spansSee
  exact ite_canonical h (canonical_with h)

theorem State.notePubs_canonical {s t : State} (h : State.canonical t) : State.canonical (s.notePubs t) := by
  unfold State.notePubs
  exact ite_canonical h (canonical_with h)

theorem State.meetCopy_canonical {s u : State} (h : State.canonical u) (ops : List (QuernOp × List (Bool × Nat × Nat))) (c : BlockCopy) :
    State.canonical (s.meetCopy ops u c) := by
  unfold State.meetCopy
  dsimp only
  exact canonical_with (foldl_canonical h fun _ _ ht => ite_canonical ht (State.spoilOp_canonical ht ..))

theorem State.meetMatrix_canonical {s u : State} (h : State.canonical u) (ops : List (QuernOp × List (Bool × Nat × Nat))) :
    State.canonical (s.meetMatrix ops u) := by
  unfold State.meetMatrix
  dsimp only
  split
  · exact h
  · exact ite_canonical (State.spoilOp_canonical (foldl_canonical h fun _ _ ht => State.spoilOp_canonical ht ..) ..)
      (ite_canonical h (canonical_with h))

theorem State.freeResult_canonical {s u : State} (h : State.canonical u) (L : Nat) : State.canonical (s.freeResult u L) := by
  unfold State.freeResult
  dsimp only
  exact canonical_with (State.updWv_canonical h _)

theorem State.meetTouch_canonical {s u : State} (h : State.canonical u) (ops : List (QuernOp × List (Bool × Nat × Nat))) (L : Nat)
    (x : Touch) : State.canonical (s.meetTouch ops L u x) := by
  unfold State.meetTouch
  dsimp only
  refine ite_canonical (State.freeResult_canonical ?_ _) ?_
  all_goals refine ite_canonical (foldl_canonical ?_ fun _ _ ht => foldl_canonical ht fun _ _ hu => State.freeBytes_canonical hu ..) ?_
  all_goals exact ite_canonical (foldl_canonical h fun _ _ ht => State.spoilOp_canonical ht ..) h

theorem State.meetPending_canonical {s u : State} (h : State.canonical u) (i : Instr) : State.canonical (s.meetPending i u) := by
  unfold State.meetPending
  refine ite_canonical h ?_
  split
  case h_1 | h_2 =>
    split
    · exact State.meetCopy_canonical h ..
    · exact h
  case h_3 | h_4 | h_5 | h_6 => exact State.meetMatrix_canonical h _
  case h_7 =>
    exact ite_canonical h (foldl_canonical h fun _ _ ht => foldl_canonical ht fun _ _ hu => State.meetTouch_canonical hu ..)

theorem State.ownEffect_canonical {s : State} (h : State.canonical s) (i : Instr) : NextCanonical (s.ownEffect i) := by
  unfold State.ownEffect
  split
  · exact h
  · split
    · next u hu =>
      have hu := canonical_of_next (exec_canonical h i) hu
      split
      · exact h
      · exact State.spansSee_canonical (ite_canonical hu (State.notePubs_canonical (State.meetPending_canonical hu i))) _
    · trivial
    · trivial

theorem State.runOp_canonical {s : State} (h : State.canonical s) (i : TransImage) (b : Bundle) (o : BundleOp) :
    NextCanonical (s.runOp i b o) := by
  unfold State.runOp
  split
  · exact NatOp.run_canonical h _
  · exact State.updWv_canonical (State.nativeDone_canonical h) _
  · dsimp only
    split
    · trivial
    · split
      · exact exec_canonical (canonical_with h) _
      · exact State.ownEffect_canonical (canonical_with h) _
  · exact execNop_canonical h

theorem State.asBefore_canonical {s₀ s : State} (h : State.canonical s) (ph : Option Nat) : State.canonical (s₀.asBefore ph s) :=
  State.updWv_canonical h _

theorem State.runOps_canonical {s₀ s : State} (h₀ : State.canonical s₀) (h :
    State.canonical s) (i : TransImage) (b : Bundle) (ph : Option Nat)
    (os : List BundleOp) : NextCanonical (s₀.runOps i b ph os s) := by
  induction os generalizing s ph with
  | nil =>
    unfold State.runOps
    split
    · exact State.updWv_canonical h _
    · exact h
  | cons o os ih =>
    unfold State.runOps
    split
    · next u hu =>
      have hu := canonical_of_next (State.runOp_canonical (State.asBefore_canonical h ph) i b o) hu
      split
      · exact State.runOp_canonical h₀ i b o
      · exact ih hu _
    · trivial
    · trivial

theorem State.settleBundle_canonical {s₀ s : State} (h : State.canonical s) (b : Bundle) : State.canonical (s₀.settleBundle b s) :=
  State.updWv_canonical h _

theorem State.runBundle_canonical {s : State} (h : State.canonical s) (w : Nat) (m : Mask) (l : Loc) (i : TransImage) (b : Bundle) :
    NextCanonical (s.runBundle w m l i b) := by
  unfold State.runBundle
  dsimp only
  have hs : State.canonical { s with issue := issueOf w m l i b } := canonical_with h
  have hbare := foldl_canonical (l := b.bare) (f := fun t k => t.takeBare i b k) hs fun _ _ ht => State.takeBare_canonical ht ..
  split
  · next u hu =>
    have hu := canonical_of_next (by
      split
      · exact execEmptyBundle_canonical hbare
      · exact State.runOps_canonical hbare hbare i b none b.ops) hu
    exact ite_canonical hu (State.settleBundle_canonical hu b)
  · trivial
  · trivial

/-! ## A turn of a wave -/

theorem State.afterIssue_canonical {s u : State} (h : State.canonical u) (i : Nat) (g : Loc × Mask) (b : Bundle) :
    State.canonical (s.afterIssue i g b u) := by
  unfold State.afterIssue
  refine ite_canonical h ?_
  dsimp only
  have hu := fun f => State.updWave_canonical h i f
  split
  · refine State.turnOver_canonical ?_ _
    exact canonical_with (hu _)
  · exact canonical_with (hu _)

theorem State.issueGroup_canonical {s : State} (h : State.canonical s) (i : Nat) (g : Loc × Mask) : NextCanonical (s.issueGroup i g) := by
  unfold State.issueGroup
  have hb := State.beforeBundle_canonical h i g
  split
  · next t e =>
    rw [e] at hb
    exact hb
  · next t e =>
    rw [e] at hb
    dsimp only at hb
    split
    · exact hb
    · split
      · exact hb
      · extract_lets bits
        split
        · exact State.illegalBundle_canonical hb ..
        · split
          · exact State.faultAt_canonical hb ..
          · split
            · next hf => exact State.bufferFull_canonical hb hf
            · exact State.faultAt_canonical hb ..
            · next hf =>
              have ht := State.fillFor_canonical hb hf
              split
              · next hu => exact State.afterIssue_canonical (canonical_of_next (State.runBundle_canonical ht ..) hu) ..
              · trivial
              · trivial

theorem State.faultTurn_canonical {s u : State} (h : State.canonical u) (i : Nat) (g : Loc × Mask) :
    State.canonical (s.faultTurn i g u) := by
  unfold State.faultTurn
  refine ite_canonical ?_ h
  dsimp only
  split
  · refine State.turnOver_canonical ?_ _
    exact canonical_with h
  · exact canonical_with h

theorem State.issueTurn_canonical {s : State} (h : State.canonical s) (i : Nat) (g : Loc × Mask) : NextCanonical (s.issueTurn i g) := by
  unfold State.issueTurn
  have hg := State.issueGroup_canonical h i g
  split
  · next hu => exact State.faultTurn_canonical (canonical_of_next hg hu) i g
  · exact hg

/-! ## A step -/

theorem State.doMove_canonical {s : State} (h : State.canonical s) (m : Move) : NextCanonical (s.doMove m) := by
  cases m with
  | event i =>
    unfold State.doMove
    dsimp only
    split
    · exact h
    · have hi := exec_canonical h i
      split
      · next hu => exact State.spansSee_canonical (canonical_of_next hi hu) _
      · exact hi
  | issue w L =>
    unfold State.doMove
    dsimp only
    split
    · exact State.issueTurn_canonical h ..
    · exact h
  | cycles n => exact State.ticks_canonical h n
  | evict core line =>
    refine next_canonical ?_
    split
    · exact ite_canonical (State.l1Evict_canonical h _) h
    · exact h
  | evictRdc die line => exact next_canonical (ite_canonical (State.leaveRdc_canonical h ..) h)
  | evictL2 line => exact next_canonical (ite_canonical (State.leaveL2_canonical h _) h)
  | unitFails d u => exact next_canonical (ite_canonical (State.unitFails_canonical h ..) h)
  | corrupt d u n bs => exact State.corruptBundle_canonical h ..
  | upsetPad wg word => exact State.updWg_canonical h ..
  | upset line =>
    refine next_canonical (ite_canonical h ?_)
    exact canonical_with h

theorem State.eventFirst_canonical {s : State} (h : State.canonical s) {is : List Instr} {o : Outcome} (e : s.eventFirst is = some o) :
    NextCanonical o := by
  induction is with
  | nil => cases e
  | cons i is ih =>
    unfold State.eventFirst at e
    split at e
    · next hu =>
      split at e
      · exact ih e
      · cases e
        exact State.spansSee_canonical (canonical_of_next (exec_canonical h i) hu) _
    · cases e
      trivial
    · cases e
      trivial

theorem State.packet_canonical {s u : State} (h : State.canonical s) (hu : State.canonical u) (c x : Nat × Loc × Mask) :
    NextCanonical (s.packet c x u) := by
  unfold State.packet
  dsimp only
  split
  · have hx := State.issueTurn_canonical h x.1 x.2
    split
    · next hv =>
      have hv := canonical_of_next hx hv
      split
      · exact hu
      · split
        · exact State.issueTurn_canonical hv ..
        · exact hv
    · exact hx
  · split
    · exact State.issueTurn_canonical hu ..
    · exact hu

theorem State.issueFirst_canonical {s : State} (h : State.canonical s) {cs : List (Nat × Loc × Mask)} {o : Outcome}
    (e : s.issueFirst cs = some o) : NextCanonical o := by
  induction cs with
  | nil => cases e
  | cons c cs ih =>
    unfold State.issueFirst at e
    split at e
    · next u hu =>
      have hu := canonical_of_next (State.issueTurn_canonical h c.1 c.2) hu
      split at e
      · exact ih e
      · split at e
        · split at e
          · cases e
            exact State.packet_canonical h hu ..
          · cases e
            exact hu
        · cases e
          exact hu
    · cases e
      trivial
    · cases e
      trivial

theorem State.ownStep_canonical {s : State} (h : State.canonical s) : NextCanonical s.ownStep := by
  unfold State.ownStep
  split
  · exact State.l1Evict_canonical h _
  · split
    · next he => exact State.eventFirst_canonical h he
    · split
      · exact State.beginFrame_canonical h _
      · split
        · next he => exact State.issueFirst_canonical h he
        · exact State.tick_canonical h

theorem State.powerStep_canonical {s : State} (h : State.canonical s) : NextCanonical s.powerStep := by
  unfold State.powerStep
  split
  · exact exec_canonical (canonical_with h) _
  · trivial

theorem State.stepOf_canonical {s : State} (h : State.canonical s) : NextCanonical s.stepOf := by
  unfold State.stepOf
  split
  · split
    · exact State.doMove_canonical (canonical_with h) _
    · exact State.ownStep_canonical h
  · exact State.powerStep_canonical h

/-- Settles O56: whatever happens in a step happens through operations that keep the memory in canonical form. -/
theorem stepKeepsMemoryCanonical : Obligations.StepKeepsMemoryCanonical := fun _ _ hs ht =>
  canonical_of_next (State.stepOf_canonical hs) ht

end Sys2Proof.Machine
end
